-- ==== Sys2Proof/Word.lean ====
section
/-! DEFINITION. The word of the TM40: 40 bits, a 4-bit tag in [39:36] and a 36-bit payload in [35:0]
(R6, R36), the sixteen tags with their codes, and the plainest operations on the two parts. -/

namespace Sys2Proof

/-- A word is 40 bits (R6). -/
abbrev Word := BitVec 40

/-- A payload is 36 bits (R6). -/
abbrev Payload := BitVec 36

/-- A control-store place {line[16:0], slot[2:0]}, the payload [19:0] of a LINK (R36). -/
abbrev Link := BitVec 20

/-- A byte. -/
abbrev Byte := BitVec 8

/-- A sparse table: keys strictly rising, no entry equal to what an unlisted key reads as.
What an unlisted key reads as is given at each use. -/
abbrev Tab (α : Type) := List (Nat × α)

/-- A core's number (R33). -/
abbrev CoreId := Fin 32

/-- The sixteen tags (R36). -/
inductive Tag where
  | empty | nat | int | bits | bool | short16 | time | meas
  | addrD | addrIO | link | keyref | seal | session | poison | wide
deriving DecidableEq, Repr

/-- The code of a tag (R36). -/
def Tag.code : Tag → Nat
  | .empty => 0 | .nat => 1 | .int => 2 | .bits => 3 | .bool => 4 | .short16 => 5 | .time => 6 | .meas => 7
  | .addrD => 8 | .addrIO => 9 | .link => 10 | .keyref => 11 | .seal => 12 | .session => 13 | .poison => 14
  | .wide => 15

/-- The tag of a code, taken modulo 16 (R36). -/
def tagOfCode (n : Nat) : Tag :=
  match n % 16 with
  | 0 => .empty | 1 => .nat | 2 => .int | 3 => .bits | 4 => .bool | 5 => .short16 | 6 => .time | 7 => .meas
  | 8 => .addrD | 9 => .addrIO | 10 => .link | 11 => .keyref | 12 => .seal | 13 => .session | 14 => .poison
  | _ => .wide

/-- The tag of a word, its bits [39:36] (R6). -/
def wtag (w : Word) : Tag := tagOfCode (w.toNat / 2 ^ 36)

/-- The payload of a word as an unsigned number, its bits [35:0] (R6). -/
def pay (w : Word) : Nat := w.toNat % 2 ^ 36

/-- The word with tag `t` and payload `p` modulo 2^36 (R6). -/
def mkW (t : Tag) (p : Nat) : Word := BitVec.ofNat 40 (t.code * 2 ^ 36 + p % 2 ^ 36)

/-- NAT:p. -/
def natW (p : Nat) : Word := mkW .nat p

/-- BOOL:0 or BOOL:1. -/
def boolW (b : Bool) : Word := mkW .bool b.toNat

/-- EMPTY:0, what a scrub writes (R36). -/
def emptyW : Word := 0#40

/-- LINK:l. -/
def linkW (l : Link) : Word := mkW .link l.toNat

/-- ADDR-D:a. -/
def addrW (a : Nat) : Word := mkW .addrD a

/-- ADDR-IO:a. -/
def addrIOW (a : Nat) : Word := mkW .addrIO (a % 2 ^ 24)

/-- BITS:p. -/
def bitsW (p : Nat) : Word := mkW .bits p

/-- INT with the true value `i` modulo 2^36. -/
def intW (i : Int) : Word := mkW .int (i % (2 ^ 36)).toNat

/-- The signed value of the low `w` bits of `n`. -/
def signed (w n : Nat) : Int :=
  if n % 2 ^ w < 2 ^ (w - 1) then (n % 2 ^ w : Nat) else ((n % 2 ^ w : Nat) : Int) - (2 ^ w : Nat)

end Sys2Proof
end

