-- ==== Sys2Proof/Syntax.lean ====
section
/-! DEFINITION. The commands of the block: one constructor for each row of spec/opcode_table.json, with the
operands that the row's rule names. The first 147 rows are mostly syllables: `c` is the core that executes the
syllable at its mpc and `y` its fields (R66). The other rows are events: each carries what arrives from outside. -/

namespace Sys2Proof

/-- The fields of a syllable (R66) without CLASS and OP, which the constructor gives. `ext` is the 36-bit immediate
of an EXT syllable standing in the slot before (R70); EXT has no row of its own in the table. -/
structure Syl where
  stop : Bool
  ext  : Option Payload
  d    : BitVec 5
  a    : BitVec 5
  b    : BitVec 5
  m    : BitVec 15
deriving DecidableEq, Repr

/-- Who waits for an answer of the access-control unit: the KINDs of R443. -/
inductive AcReq where
  | core (c : CoreId)
  | ringFetch (q : Fin 256)
  | completion (r : Fin 256)
  | drain
  | msix (v : Fin 512)
deriving DecidableEq, Repr

/-- The areas of a cipher job that the engine reads or writes (R432, R441). -/
inductive EngArea where
  | input | aad | iv | tag | output | key
deriving DecidableEq, Repr

/-- The hardware limits of an island sensor (R515, R520). -/
inductive HardCause where
  | light | clock | volt | temp
deriving DecidableEq, Repr

/-- The hardware tamper causes of TM40-F (R521, FTAMPSTAT). -/
inductive FieldCause where
  | veneer | light | clock | temp
deriving DecidableEq, Repr

/-- The units of TM40-F that test themselves (R482, R483, FRDY0 to FRDY2). -/
inductive FieldUnit where
  | channel (u : Fin 64)
  | mx
  | port (p : Fin 12)
deriving DecidableEq, Repr

/-- The commands. -/
inductive Instr where
  /-- NOP (R72). -/
  | nop (c : CoreId) (y : Syl)
  /-- BR (R116). -/
  | br (c : CoreId) (y : Syl)
  /-- BT (R117). -/
  | bt (c : CoreId) (y : Syl)
  /-- BF (R117). -/
  | bf (c : CoreId) (y : Syl)
  /-- BZ (R117). -/
  | bz (c : CoreId) (y : Syl)
  /-- BNZ (R117). -/
  | bnz (c : CoreId) (y : Syl)
  /-- BRC (R84). -/
  | brc (c : CoreId) (y : Syl)
  /-- CALL (R118). -/
  | callS (c : CoreId) (y : Syl)
  /-- CALLW (R87). -/
  | callw (c : CoreId) (y : Syl)
  /-- RET (R118). -/
  | ret (c : CoreId) (y : Syl)
  /-- RETW (R88). -/
  | retw (c : CoreId) (y : Syl)
  /-- JR (R118). -/
  | jr (c : CoreId) (y : Syl)
  /-- CALLR (R118). -/
  | callr (c : CoreId) (y : Syl)
  /-- REP (R94). -/
  | repS (c : CoreId) (y : Syl)
  /-- REPI (R95). -/
  | repi (c : CoreId) (y : Syl)
  /-- LOOP (R96). -/
  | loopS (c : CoreId) (y : Syl)
  /-- WFE (R100). -/
  | wfe (c : CoreId) (y : Syl)
  /-- WFE_RESUME (R100). -/
  | wfeResume (c : CoreId)
  /-- SEV_CORES (R101). -/
  | sevCores (c : CoreId) (y : Syl)
  /-- SEV_HUB_SOURCE (R101). -/
  | sevHubSource (c : CoreId) (y : Syl)
  /-- SEV_JIG_GROUP (R101). -/
  | sevJigGroup (c : CoreId) (y : Syl)
  /-- SEV_FIELD_TRIGGER (R101). -/
  | sevFieldTrigger (c : CoreId) (y : Syl)
  /-- WAITT (R102). -/
  | waitt (c : CoreId) (y : Syl)
  /-- WAITT_RESUME (R102). -/
  | waittResume (c : CoreId)
  /-- GATE (R254). -/
  | gate (c : CoreId) (y : Syl)
  /-- GRET (R256). -/
  | gret (c : CoreId) (y : Syl)
  /-- TRET (R241). -/
  | tret (c : CoreId) (y : Syl)
  /-- TRAP (R122). -/
  | trap (c : CoreId) (y : Syl)
  /-- TFENCE (R123). -/
  | tfence (c : CoreId) (y : Syl)
  /-- PARK (R124). -/
  | park (c : CoreId) (y : Syl)
  /-- ADD (R40). -/
  | addS (c : CoreId) (y : Syl)
  /-- SUB (R40). -/
  | subS (c : CoreId) (y : Syl)
  /-- ADDCY (R127). -/
  | addcy (c : CoreId) (y : Syl)
  /-- SUBBY (R127). -/
  | subby (c : CoreId) (y : Syl)
  /-- AND (R128). -/
  | andS (c : CoreId) (y : Syl)
  /-- OR (R128). -/
  | orS (c : CoreId) (y : Syl)
  /-- XOR (R128). -/
  | xorS (c : CoreId) (y : Syl)
  /-- ANDN (R128). -/
  | andn (c : CoreId) (y : Syl)
  /-- NOT (R128). -/
  | notS (c : CoreId) (y : Syl)
  /-- MOV (R39). -/
  | movS (c : CoreId) (y : Syl)
  /-- MOVI (R62). -/
  | movi (c : CoreId) (y : Syl)
  /-- CMPEQ (R126). -/
  | cmpeq (c : CoreId) (y : Syl)
  /-- CMPNE (R126). -/
  | cmpne (c : CoreId) (y : Syl)
  /-- CMPLT (R129). -/
  | cmplt (c : CoreId) (y : Syl)
  /-- CMPLE (R129). -/
  | cmple (c : CoreId) (y : Syl)
  /-- CMPLTU (R129). -/
  | cmpltu (c : CoreId) (y : Syl)
  /-- CMPLEU (R129). -/
  | cmpleu (c : CoreId) (y : Syl)
  /-- MIN (R130). -/
  | minS (c : CoreId) (y : Syl)
  /-- MAX (R130). -/
  | maxS (c : CoreId) (y : Syl)
  /-- MINU (R130). -/
  | minu (c : CoreId) (y : Syl)
  /-- MAXU (R130). -/
  | maxu (c : CoreId) (y : Syl)
  /-- ABS (R131). -/
  | absS (c : CoreId) (y : Syl)
  /-- NEG (R131). -/
  | negS (c : CoreId) (y : Syl)
  /-- SEL (R132). -/
  | sel (c : CoreId) (y : Syl)
  /-- ADDSAT (R41). -/
  | addsat (c : CoreId) (y : Syl)
  /-- SUBSAT (R41). -/
  | subsat (c : CoreId) (y : Syl)
  /-- TAGOF (R133). -/
  | tagof (c : CoreId) (y : Syl)
  /-- RETAG (R46). -/
  | retag (c : CoreId) (y : Syl)
  /-- TAGCHK (R48). -/
  | tagchk (c : CoreId) (y : Syl)
  /-- SHL (R135). -/
  | shlS (c : CoreId) (y : Syl)
  /-- SHR (R135). -/
  | shr (c : CoreId) (y : Syl)
  /-- SAR (R135). -/
  | sar (c : CoreId) (y : Syl)
  /-- ROL (R135). -/
  | rol (c : CoreId) (y : Syl)
  /-- ROR (R135). -/
  | ror (c : CoreId) (y : Syl)
  /-- EXT (R136). -/
  | extF (c : CoreId) (y : Syl)
  /-- INS (R136). -/
  | insF (c : CoreId) (y : Syl)
  /-- POPC (R134). -/
  | popc (c : CoreId) (y : Syl)
  /-- CLZ (R137). -/
  | clz (c : CoreId) (y : Syl)
  /-- CTZ (R137). -/
  | ctz (c : CoreId) (y : Syl)
  /-- BREV (R134). -/
  | brev (c : CoreId) (y : Syl)
  /-- SEXT (R137). -/
  | sext (c : CoreId) (y : Syl)
  /-- PACK16 (R134). -/
  | pack16 (c : CoreId) (y : Syl)
  /-- UNPK16 (R137). -/
  | unpk16 (c : CoreId) (y : Syl)
  /-- MUL (R141). -/
  | mulS (c : CoreId) (y : Syl)
  /-- MULH (R141). -/
  | mulh (c : CoreId) (y : Syl)
  /-- MULW (R140). -/
  | mulw (c : CoreId) (y : Syl)
  /-- MAC (R140). -/
  | mac (c : CoreId) (y : Syl)
  /-- DIV (R142). -/
  | divS (c : CoreId) (y : Syl)
  /-- DIVU (R142). -/
  | divu (c : CoreId) (y : Syl)
  /-- REM (R142). -/
  | rem (c : CoreId) (y : Syl)
  /-- REMU (R142). -/
  | remu (c : CoreId) (y : Syl)
  /-- CRC (R143). -/
  | crc (c : CoreId) (y : Syl)
  /-- CRCFIN (R143). -/
  | crcfin (c : CoreId) (y : Syl)
  /-- SQRTU (R144). -/
  | sqrtu (c : CoreId) (y : Syl)
  /-- LNG_RESULT (R139). -/
  | lngResult (c : CoreId)
  /-- LNGTO (R145). -/
  | lngto (c : CoreId)
  /-- LD (R153). -/
  | ld (c : CoreId) (y : Syl)
  /-- ST (R154). -/
  | st (c : CoreId) (y : Syl)
  /-- LD2 (R155). -/
  | ld2 (c : CoreId) (y : Syl)
  /-- ST2 (R155). -/
  | st2 (c : CoreId) (y : Syl)
  /-- LD4 (R155). -/
  | ld4 (c : CoreId) (y : Syl)
  /-- ST4 (R155). -/
  | st4 (c : CoreId) (y : Syl)
  /-- LD_ACQ (R156). -/
  | ldAcq (c : CoreId) (y : Syl)
  /-- ST_REL (R156). -/
  | stRel (c : CoreId) (y : Syl)
  /-- SWAP (R157). -/
  | swap (c : CoreId) (y : Syl)
  /-- CAS (R157). -/
  | cas (c : CoreId) (y : Syl)
  /-- FADD (R157). -/
  | fadd (c : CoreId) (y : Syl)
  /-- FENCE_LL (R158). -/
  | fenceLl (c : CoreId) (y : Syl)
  /-- FENCE_SS (R158). -/
  | fenceSs (c : CoreId) (y : Syl)
  /-- FENCE_FULL (R158). -/
  | fenceFull (c : CoreId) (y : Syl)
  /-- FENCE_IO (R158). -/
  | fenceIo (c : CoreId) (y : Syl)
  /-- MOVB (R159). -/
  | movb (c : CoreId) (y : Syl)
  /-- PIN (R161). -/
  | pin (c : CoreId) (y : Syl)
  /-- UNPIN (R161). -/
  | unpin (c : CoreId) (y : Syl)
  /-- LEASE (R162). -/
  | lease (c : CoreId) (y : Syl)
  /-- STORE_PERFORMED (R196). -/
  | storePerformed (c : CoreId) (i : Nat)
  /-- ACCESS_CONTROL_ANSWER (R444). -/
  | accessControlAnswer (r : AcReq) (ans : BitVec 8)
  /-- HWTO (R286). -/
  | hwto (c : CoreId)
  /-- IN (R165). -/
  | inIo (c : CoreId) (y : Syl)
  /-- OUT (R165). -/
  | outIo (c : CoreId) (y : Syl)
  /-- IOTO (R165). -/
  | ioto (c : CoreId)
  /-- FSEND (R166). -/
  | fsend (c : CoreId) (y : Syl)
  /-- FRECV (R167). -/
  | frecv (c : CoreId) (y : Syl)
  /-- CIPH_KEY_WRAP (R435). -/
  | ciphKeyWrap (c : CoreId) (y : Syl)
  /-- CIPH_KEY_UNWRAP (R435). -/
  | ciphKeyUnwrap (c : CoreId) (y : Syl)
  /-- CIPH_CBC_ENCRYPT (R435). -/
  | ciphCbcEncrypt (c : CoreId) (y : Syl)
  /-- CIPH_CBC_DECRYPT (R435). -/
  | ciphCbcDecrypt (c : CoreId) (y : Syl)
  /-- CIPH_CTR (R435). -/
  | ciphCtr (c : CoreId) (y : Syl)
  /-- CIPH_GCM_ENCRYPT (R435). -/
  | ciphGcmEncrypt (c : CoreId) (y : Syl)
  /-- CIPH_GCM_DECRYPT (R436). -/
  | ciphGcmDecrypt (c : CoreId) (y : Syl)
  /-- CIPH_CCM_ENCRYPT (R435). -/
  | ciphCcmEncrypt (c : CoreId) (y : Syl)
  /-- CIPH_CCM_DECRYPT (R436). -/
  | ciphCcmDecrypt (c : CoreId) (y : Syl)
  /-- CIPH_CMAC_GENERATE (R435). -/
  | ciphCmacGenerate (c : CoreId) (y : Syl)
  /-- CIPH_CMAC_VERIFY (R435). -/
  | ciphCmacVerify (c : CoreId) (y : Syl)
  /-- CWAIT (R169). -/
  | cwait (c : CoreId) (y : Syl)
  /-- CWAIT_RESUME (R169). -/
  | cwaitResume (c : CoreId)
  /-- CIPHER_DONE (R437). -/
  | cipherDone (job : Fin 34) (st : BitVec 3)
  /-- CIPHER_JOB_TIMEOUT (R437). -/
  | cipherJobTimeout (job : Fin 34)
  /-- ENGINE_READ (R441). -/
  | engineRead (job : Fin 34) (area : EngArea) (off : Nat) (n : Nat)
  /-- ENGINE_WRITE (R441). -/
  | engineWrite (job : Fin 34) (area : EngArea) (off : Nat) (bytes : List Byte)
  /-- ENGINE_CAP (R441). -/
  | engineCap (w : Payload)
  /-- LEDG (R170). -/
  | ledg (c : CoreId) (y : Syl)
  /-- CLAIM (R300). -/
  | claim (c : CoreId) (y : Syl)
  /-- CMPL (R301). -/
  | cmpl (c : CoreId) (y : Syl)
  /-- POST (R409). -/
  | postS (c : CoreId) (y : Syl)
  /-- MFC (R174). -/
  | mfc (c : CoreId) (y : Syl)
  /-- MTC (R174). -/
  | mtc (c : CoreId) (y : Syl)
  /-- CSLD (R176). -/
  | csld (c : CoreId) (y : Syl)
  /-- CSST (R218). -/
  | csst (c : CoreId) (y : Syl)
  /-- CSSYNC (R221). -/
  | cssync (c : CoreId) (y : Syl)
  /-- PFLUSH (R177). -/
  | pflush (c : CoreId) (y : Syl)
  /-- PBAR (R177). -/
  | pbar (c : CoreId) (y : Syl)
  /-- PBAR_CLEAR (R177). -/
  | pbarClear (c : CoreId) (y : Syl)
  /-- CTXSW (R178). -/
  | ctxsw (c : CoreId) (y : Syl)
  /-- TAGSET (R179). -/
  | tagset (c : CoreId) (y : Syl)
  /-- SPLICE (R180). -/
  | splice (c : CoreId) (y : Syl)
  /-- MODE (R181). -/
  | modeS (c : CoreId) (y : Syl)
  /-- INTERRUPT (R302). -/
  | interrupt (c : CoreId)
  /-- NMI (R233). -/
  | nmi (c : CoreId)
  /-- WDOG (R494). -/
  | wdog (c : CoreId)
  /-- WDOG_STAGE2 (R495). -/
  | wdogStage2 (c : CoreId)
  /-- STEP (R227). -/
  | stepTrap (c : CoreId)
  /-- BREAK (R529). -/
  | breakTrap (c : CoreId) (n : Fin 4)
  /-- LEASELOST (R275). -/
  | leaselost (c : CoreId)
  /-- PACED_ISSUE (R212). -/
  | pacedIssue (c : CoreId)
  /-- LEVEL_ASSERT (R292). -/
  | levelAssert (n : Fin 1024)
  /-- LEVEL_WITHDRAW (R292). -/
  | levelWithdraw (n : Fin 1024)
  /-- OFFER_TIMEOUT (R298). -/
  | offerTimeout (c : CoreId)
  /-- SRCSTAT_PEND_CLEAR (R292). -/
  | srcstatPendClear (c : CoreId) (n : Fin 1024)
  /-- SRCSTAT_SET (R303). -/
  | srcstatSet (c : CoreId) (n : Fin 1024)
  /-- MSIX_UNMASK (R297). -/
  | msixUnmask (v : Fin 512)
  /-- TBHI_READ (R305). -/
  | tbhiRead (c : CoreId) (n : Fin 4)
  /-- CAPTURE (R306). -/
  | capture (c : CoreId) (mask : BitVec 4)
  /-- TBSETHI_WRITE (R307). -/
  | tbsethiWrite (c : CoreId) (n : Fin 4) (w : Word)
  /-- COMPARE_ARM (R309). -/
  | compareArm (c : CoreId) (u : Fin 64) (w : Word)
  /-- COMPARE_FIRE (R308). -/
  | compareFire (u : Fin 64)
  /-- PPS_HOLD (R312). -/
  | ppsHold
  /-- BANKOWN_WRITE (R269). -/
  | bankownWrite (c : CoreId) (n : Fin 32) (w : Word)
  /-- OWNERSHIP_DRAIN_DONE (R271). -/
  | ownershipDrainDone (n : Fin 32)
  /-- SCRUB_DONE (R271). -/
  | scrubDone (n : Fin 32)
  /-- LEASE_EXPIRY (R275). -/
  | leaseExpiry (n : Fin 32)
  /-- LEASE_NEAR_EXPIRY (R267). -/
  | leaseNearExpiry (n : Fin 32)
  /-- LEASE_AUTO_RENEW (R268). -/
  | leaseAutoRenew (n : Fin 32)
  /-- PART_WRITE (R274). -/
  | partWrite (c : CoreId) (p : Fin 4) (w : Word)
  /-- BANK_POWER_OFF (R276). -/
  | bankPowerOff (c : CoreId) (n : Fin 32)
  /-- BANK_POWER_ON (R276). -/
  | bankPowerOn (c : CoreId) (n : Fin 32)
  /-- BANK_WAKE_DONE (R276). -/
  | bankWakeDone (n : Fin 32)
  /-- MARCH_GO (R278). -/
  | marchGo (c : CoreId) (w : Word)
  /-- MARCH_ABORT (R278). -/
  | marchAbort (c : CoreId)
  /-- MARCH_DONE (R278). -/
  | marchDone (n : Fin 32) (fails : List (Fin 4 × Fin 256))
  /-- ROW_REPAIR (R281). -/
  | rowRepair (c : CoreId) (w : Word)
  /-- ROW_REPAIR_DONE (R281). -/
  | rowRepairDone
  /-- RSDEPTH_WRITE (R93). -/
  | rsdepthWrite (c : CoreId) (w : Word)
  /-- RSENT_WRITE (R93). -/
  | rsentWrite (c : CoreId) (k : Fin 16) (w : Word)
  /-- SQ_TAIL_DOORBELL (R399). -/
  | sqTailDoorbell (q : Fin 256) (v : BitVec 16)
  /-- CQ_HEAD_DOORBELL (R400). -/
  | cqHeadDoorbell (r : Fin 256) (v : BitVec 16)
  /-- SQ_ENABLE (R398). -/
  | sqEnable (q : Fin 256) (w : BitVec 32)
  /-- SQ_DISABLE (R398). -/
  | sqDisable (q : Fin 256) (w : BitVec 32)
  /-- CQ_ENABLE (R398). -/
  | cqEnable (r : Fin 256) (w : BitVec 32)
  /-- CQ_DISABLE (R398). -/
  | cqDisable (r : Fin 256) (w : BitVec 32)
  /-- RING_FETCH (R401). -/
  | ringFetch (q : Fin 256) (n : Nat)
  /-- FETCH_COMPLETE (R403). -/
  | fetchComplete (q : Fin 256) (entries : List (List (BitVec 64)))
  /-- DISPTAKE (R405). -/
  | disptake (c : CoreId) (g : Fin 64)
  /-- DISPTAKE_FREE (R405). -/
  | disptakeFree (c : CoreId)
  /-- WORK_SLOT_FILL (R405). -/
  | workSlotFill (c : CoreId)
  /-- RING_TIMEOUT (R412). -/
  | ringTimeout (q : Fin 256) (seq : BitVec 16)
  /-- FUNCTION_LEVEL_RESET (R396). -/
  | functionLevelReset
  /-- SPOOL_REPLAY (R413). -/
  | spoolReplay
  /-- BAR_ACCESS_DROPPED (R397). -/
  | barAccessDropped (bar2 : Bool) (write : Bool) (off : BitVec 16)
  /-- ELCFG_ACK (R500). -/
  | elcfgAck (w : BitVec 32)
  /-- HOST_SILENCE (R466). -/
  | hostSilence
  /-- LINK_LOSS (R466). -/
  | linkLoss
  /-- LINK_TRAINED (R466). -/
  | linkTrained
  /-- NOP_ENTRY (R415). -/
  | nopEntry (c : CoreId)
  /-- SESSION_OPEN (R425). -/
  | sessionOpen (c : CoreId) (st : BitVec 3) (key : Payload)
  /-- CONTEXT_RELOAD (R424). -/
  | contextReload (c : CoreId) (idx : BitVec 20) (slot : List Word) (macSt : BitVec 3) (keySt : BitVec 3) (key : Payload)
  /-- SESSION_CLOSE (R426). -/
  | sessionClose (c : CoreId)
  /-- SEND (R417). -/
  | send (c : CoreId) (msg : List Byte) (st : BitVec 3) (cipherText : List Byte)
  /-- POST_RECV (R415). -/
  | postRecv (c : CoreId) (msg : Option (List Byte))
  /-- MEASURE (R415). -/
  | measure (c : CoreId) (samples : List (Word × Word))
  /-- ACTUATE (R417). -/
  | actuate (c : CoreId)
  /-- INVOKE (R419). -/
  | invoke (c : CoreId)
  /-- LEDGER_READ (R460). -/
  | ledgerRead (c : CoreId)
  /-- SHIM_LOAD (R104). -/
  | shimLoad (c : CoreId) (image : List (BitVec 64)) (macSt : BitVec 3)
  /-- SHIM_CUT_OVER (R105). -/
  | shimCutOver
  /-- TIME (R415). -/
  | timeEntry (c : CoreId)
  /-- TIME_SET (R415). -/
  | timeSet (c : CoreId)
  /-- CONFIG_READ (R427). -/
  | configRead (c : CoreId)
  /-- CONFIG_WRITE (R427). -/
  | configWrite (c : CoreId)
  /-- MODE_REQUEST (R464). -/
  | modeRequest (c : CoreId)
  /-- ABORT (R418). -/
  | abortEntry (c : CoreId)
  /-- MICROCODE_ENTRY (R419). -/
  | microcodeEntry (c : CoreId)
  /-- SESSOPEN (R428). -/
  | gateSessOpen (c : CoreId)
  /-- SESSHOT (R428). -/
  | gateSessHot (c : CoreId)
  /-- DONE (R419). -/
  | gateDone (c : CoreId)
  /-- SERVICE_KERF (R511). -/
  | serviceKerf (c : CoreId)
  /-- SERVICE_RELEASE (R511). -/
  | serviceRelease (c : CoreId) (pass : Bool)
  /-- SERVICE_SPLICE (R511). -/
  | serviceSplice (c : CoreId)
  /-- SERVICE_MARCH (R511). -/
  | serviceMarch (c : CoreId)
  /-- ROWREPAIR (R511). -/
  | rowrepair (c : CoreId)
  /-- ROWMAP_SAVE (R511). -/
  | rowmapSave (c : CoreId)
  /-- ROWMAP_RESTORE (R509). -/
  | rowmapRestore (c : CoreId) (words : List Word)
  /-- CHSWITCH (R511). -/
  | chswitch (c : CoreId)
  /-- LEDGER_RESUME (R453). -/
  | ledgerResume (c : CoreId) (slot : List Word) (macSt : BitVec 3)
  /-- LEDGER_FRESH (R453). -/
  | ledgerFresh (c : CoreId)
  /-- CLUSTER_RESET (R511). -/
  | clusterReset (c : CoreId)
  /-- SEAL_DONE (R451). -/
  | sealDone (st : BitVec 3) (mac : BitVec 128)
  /-- ANCHORING (R454). -/
  | anchoring (burnt : Bool) (st : BitVec 3) (mac : BitVec 128)
  /-- LEDGKEY_WRITE (R452). -/
  | ledgkeyWrite (c : CoreId) (w : Word) (macOld : BitVec 128) (macNew : BitVec 128)
  /-- LEDGPROVE (R461). -/
  | ledgprove (c : CoreId) (w : Word) (st : BitVec 3) (mac : BitVec 128)
  /-- LEDGER_DRAIN (R459). -/
  | ledgerDrain
  /-- LRING_HEAD_WRITE (R458). -/
  | lringHeadWrite (v : BitVec 16)
  /-- MODEREQ_WRITE (R464). -/
  | modereqWrite (w : BitVec 32)
  /-- CLUSTER_POWER_DOWN (R473). -/
  | clusterPowerDown (n : Fin 8)
  /-- THRIFT_POWER_DOWN_TIMEOUT (R473). -/
  | thriftPowerDownTimeout (n : Fin 8)
  /-- LOCKSTEP_ENTRY (R472). -/
  | lockstepEntry (p : Fin 2)
  /-- LOCKSTEP_FAILURE (R472). -/
  | lockstepFailure (p : Fin 2)
  /-- COLD_RESET (R484). -/
  | coldReset (straps : BitVec 2) (failed : BitVec 32)
  /-- DEADMAN_WARNING (R491). -/
  | deadmanWarning
  /-- DEADMAN_RESTART (R492). -/
  | deadmanRestart
  /-- KERFCTL_KERF (R496). -/
  | kerfctlKerf (c : CoreId) (k : CoreId)
  /-- KERFCTL_RELEASE (R498). -/
  | kerfctlRelease (c : CoreId) (k : CoreId)
  /-- KERF_RESET (R498). -/
  | kerfReset (k : CoreId)
  /-- SELF_TEST_DONE (R498). -/
  | selfTestDone (k : CoreId) (pass : Bool)
  /-- SPLICE_STOP (R504). -/
  | spliceStop
  /-- SPLICE_COMPLETE (R505). -/
  | spliceComplete (ns : BitVec 16)
  /-- SPLICE_ABANDON (R507). -/
  | spliceAbandon (why : BitVec 3)
  /-- UCIE_LANE_FAILURE (R510). -/
  | ucieLaneFailure (lane : BitVec 8) (spareLeft : Bool)
  /-- UCIE_LANE_REPAIR_TIMEOUT (R493). -/
  | ucieLaneRepairTimeout
  /-- REFCLK_LOSS (R562). -/
  | refclkLoss
  /-- PG_N_FALL (R561). -/
  | pgNFall (i : Fin 14)
  /-- PG_N_RISE (R560). -/
  | pgNRise (i : Fin 14)
  /-- VIDALERT (R558). -/
  | vidalert (i : Fin 14) (code : BitVec 8)
  /-- REGULATOR_ACK (R556). -/
  | regulatorAck (i : Fin 14) (code : BitVec 8)
  /-- ADAPTIVE_STEP (R535). -/
  | adaptiveStep (i : Fin 8) (v : Option (BitVec 8)) (spare : Bool)
  /-- SENSOR_SAMPLE (R516). -/
  | sensorSample (i : Fin 14) (volt : BitVec 8) (temp : BitVec 8)
  /-- SENSOR_HARD_LIMIT (R520). -/
  | sensorHardLimit (i : Fin 14) (k : HardCause)
  /-- VENEER_MISMATCH (R520). -/
  | veneerMismatch
  /-- DUAL_RAIL_DISAGREE (R518). -/
  | dualRailDisagree
  /-- FIELD_TAMPER (R521). -/
  | fieldTamper (k : FieldCause)
  /-- OPEN (R526). -/
  | dbgOpen (tap : Bool) (level : BitVec 2)
  /-- RESPOND (R526). -/
  | dbgRespond (tap : Bool) (resp : BitVec 128)
  /-- DEBUG_VERIFY_DONE (R526). -/
  | debugVerifyDone (st : BitVec 3)
  /-- CHALLENGE_EXPIRY (R526). -/
  | challengeExpiry
  /-- CLOSE (R527). -/
  | dbgClose (tap : Bool)
  /-- DEBUG_READ_DATA (R524). -/
  | debugReadData (tap : Bool) (addr : Payload)
  /-- DEBUG_WRITE_DATA (R524). -/
  | debugWriteData (tap : Bool) (addr : Payload) (w : Word)
  /-- DEBUG_READ_IO (R532). -/
  | debugReadIo (tap : Bool) (addr : BitVec 24)
  /-- DEBUG_WRITE_IO (R532). -/
  | debugWriteIo (tap : Bool) (addr : BitVec 24) (w : Word)
  /-- DEBUG_READ_CS (R532). -/
  | debugReadCs (tap : Bool) (l : Link)
  /-- DEBUG_WRITE_CS (R532). -/
  | debugWriteCs (tap : Bool) (l : Link) (w : Word)
  /-- HALT (R528). -/
  | dbgHalt (tap : Bool) (k : CoreId)
  /-- DEBUG_HALT_REACHED (R528). -/
  | debugHaltReached (c : CoreId)
  /-- RESUME (R528). -/
  | dbgResume (tap : Bool) (k : CoreId)
  /-- DEBUG_STEP (R528). -/
  | dbgStep (tap : Bool) (k : CoreId)
  /-- SET_BREAKPOINT (R529). -/
  | dbgSetBreakpoint (tap : Bool) (k : CoreId) (n : Fin 4) (l : Link) (en : Bool)
  /-- BREAKPOINT_HALT (R529). -/
  | breakpointHalt (c : CoreId) (n : Fin 4)
  /-- READ_REGISTER (R532). -/
  | dbgReadRegister (tap : Bool) (k : CoreId) (sel : BitVec 6)
  /-- BYPASS (R533). -/
  | tapBypass
  /-- IDCODE (R533). -/
  | tapIdcode
  /-- SAMPLE_PRELOAD (R533). -/
  | tapSamplePreload
  /-- EXTEST (R533). -/
  | tapExtest
  /-- DBGACC (R533). -/
  | tapDbgacc (off : BitVec 8) (write : Bool) (w : BitVec 64)
  /-- HEARTBEAT (R383). -/
  | heartbeat (atDH : Bool) (w0 : Word) (w1 : Word)
  /-- HEARTBEAT_SEND (R379). -/
  | heartbeatSend (fromDH : Bool)
  /-- DH_HEARTBEAT_TIMEOUT (R381). -/
  | dhHeartbeatTimeout
  /-- DF_HEARTBEAT_TIMEOUT (R381). -/
  | dfHeartbeatTimeout
  /-- RETRANSMIT_TIMEOUT (R379). -/
  | retransmitTimeout (fromDH : Bool) (cls : Fin 4)
  /-- LANE_FAILURE (R371). -/
  | laneFailure (intoDH : Bool) (lane : Fin 4)
  /-- HELLO (R376). -/
  | hello (w0 : Word) (w1 : Word) (macSt : BitVec 3)
  /-- HELLO_REPEAT (R376). -/
  | helloRepeat
  /-- REPLY (R376). -/
  | reply (w0 : Word) (w1 : Word) (ok : Bool)
  /-- CONFIRM (R376). -/
  | confirm (ok : Bool) (rtt : BitVec 8)
  /-- KEY_ROLL_START (R377). -/
  | keyRollStart
  /-- ROLL (R377). -/
  | roll (atDH : Bool) (w0 : Word) (w1 : Word)
  /-- ROLL_RETRY (R377). -/
  | rollRetry
  /-- ROLLACK (R377). -/
  | rollack (w0 : Word) (w1 : Word)
  /-- ECHO (R382). -/
  | echo (atDH : Bool) (w0 : Word) (w1 : Word)
  /-- TIME_SYNC (R387). -/
  | timeSync (w0 : Word) (w1 : Word)
  /-- TIME_SYNC_SEND (R387). -/
  | timeSyncSend
  /-- FIELD_TIME_UNSYNC (R329). -/
  | fieldTimeUnsync
  /-- CMD_OUT_LEVELS (R384). -/
  | cmdOutLevels (w0 : Word) (w1 : Word)
  /-- CMD_OUT_DAC (R384). -/
  | cmdOutDac (w0 : Word) (w1 : Word)
  /-- CMD_OUT_TRIGGER (R384). -/
  | cmdOutTrigger (w0 : Word) (w1 : Word)
  /-- CMD_OUT_FLAG (R384). -/
  | cmdOutFlag (w0 : Word) (w1 : Word)
  /-- CMD_CFG (R315). -/
  | cmdCfg (w0 : Word) (w1 : Word)
  /-- SHADOW_WRITE (R388). -/
  | shadowWrite (c : CoreId) (f : BitVec 12) (w : Word)
  /-- SAFE_SET_ENTER (R333). -/
  | safeSetEnter (w0 : Word) (w1 : Word)
  /-- SAFE_SET_RELEASE (R334). -/
  | safeSetRelease (w0 : Word) (w1 : Word)
  /-- BYPASS_OPEN (R338). -/
  | bypassOpen
  /-- BYPASS_CLOSE (R337). -/
  | bypassClose
  /-- BYPASS_TEST_DONE (R339). -/
  | bypassTestDone (ok : Bool)
  /-- JIG_PROG (R364). -/
  | jigProg (w0 : Word) (w1 : Word)
  /-- JIG_INJECT (R365). -/
  | jigInject (w0 : Word) (w1 : Word)
  /-- JIG_START (R363). -/
  | jigStart (w0 : Word) (w1 : Word)
  /-- JIG_STOP (R363). -/
  | jigStop (w0 : Word) (w1 : Word)
  /-- JIG_RESET (R363). -/
  | jigReset (w0 : Word) (w1 : Word)
  /-- QWORD (R362). -/
  | qword (atDH : Bool) (w0 : Word) (w1 : Word)
  /-- UP_QUEUE_SEND (R362). -/
  | upQueueSend (j : Fin 32)
  /-- SAMPLE (R386). -/
  | sampleMsg (w0 : Word) (w1 : Word)
  /-- STAMP (R386). -/
  | stampMsg (w0 : Word) (w1 : Word)
  /-- EVENT (R390). -/
  | eventMsg (w0 : Word) (w1 : Word)
  /-- STATUS (R388). -/
  | statusMsg (w0 : Word) (w1 : Word)
  /-- FAULT (R382). -/
  | faultMsg (w0 : Word) (w1 : Word)
  /-- PORT_TX_FIRST (R385). -/
  | portTxFirst (p : Fin 12) (chunk : List Byte)
  /-- PORT_TX_LATER (R385). -/
  | portTxLater (p : Fin 12) (chunk : List Byte)
  /-- PORT_RX_FIRST (R385). -/
  | portRxFirst (p : Fin 12) (chunk : List Byte)
  /-- PORT_RX_LATER (R385). -/
  | portRxLater (p : Fin 12) (chunk : List Byte)
  /-- PORT_FRAME_RECEIVED (R336). -/
  | portFrameReceived (p : Fin 12) (image : List Byte) (start : Payload)
  /-- PORT_FRAME_SENT (R385). -/
  | portFrameSent (p : Fin 12) (result : BitVec 2)
  /-- PORT_BUS_OFF (R382). -/
  | portBusOff (p : Fin 12)
  /-- CHANNEL_EDGE (R318). -/
  | channelEdge (u : Fin 64) (rising : Bool) (at_ : Payload)
  /-- THRESHOLD_TRACK (R319). -/
  | thresholdTrack (u : Fin 64) (mid : BitVec 14)
  /-- CURRENT_LIMIT (R321). -/
  | currentLimit (u : Fin 64)
  /-- SHORT_LATCH (R321). -/
  | shortLatch (u : Fin 64)
  /-- SHORT_RETRY (R321). -/
  | shortRetry (u : Fin 64) (holds : Bool)
  /-- THERMAL_SHUTDOWN (R321). -/
  | thermalShutdown (u : Fin 64)
  /-- THERMAL_RECOVER (R321). -/
  | thermalRecover (u : Fin 64)
  /-- LOAD_SHED (R322). -/
  | loadShed
  /-- MISMATCH (R323). -/
  | mismatch (u : Fin 64)
  /-- OPEN_LOAD (R323). -/
  | openLoad (u : Fin 64)
  /-- DRIVER_FAULT (R331). -/
  | driverFault (h : Fin 8) (drvB : Bool)
  /-- HWCH_SWITCH_DONE (R331). -/
  | hwchSwitchDone (h : Fin 8)
  /-- STANDBY_TEST (R331). -/
  | standbyTest (h : Fin 8) (ok : Bool)
  /-- TRIGGER_PERIOD (R326). -/
  | triggerPeriod (t : Fin 16)
  /-- CONVERSION_START (R326). -/
  | conversionStart (x : Fin 16) (t : Fin 16)
  /-- CONVERSION_DONE (R325). -/
  | conversionDone (x : Fin 16) (code : BitVec 18) (mid : Payload)
  /-- FS_WATCHDOG (R493). -/
  | fsWatchdog
  /-- FIELD_SUPPLY_UP (R482). -/
  | fieldSupplyUp
  /-- FIELD_SUPPLY_LOSS (R342). -/
  | fieldSupplyLoss
  /-- SUPPLY_UV_ENTER (R342). -/
  | supplyUvEnter (v : BitVec 16)
  /-- SUPPLY_UV_EXIT (R342). -/
  | supplyUvExit (v : BitVec 16)
  /-- SUPPLY_OV (R342). -/
  | supplyOv (v : BitVec 16)
  /-- OVLONG_ENTER (R342). -/
  | ovlongEnter
  /-- OVLONG_EXIT (R342). -/
  | ovlongExit (v : BitVec 16)
  /-- SUPPLY_UVW (R342). -/
  | supplyUvw (v : BitVec 16)
  /-- FRST_N (R482). -/
  | frstN
  /-- JIG_BR (R350). -/
  | jigBr (j : Fin 32) (rx : BitVec 4)
  /-- HOLD (R351). -/
  | jigHold (j : Fin 32) (rx : BitVec 4)
  /-- HOLD_END (R351). -/
  | jigHoldEnd (j : Fin 32) (rx : BitVec 4)
  /-- SHIFT (R352). -/
  | jigShift (j : Fin 32) (rx : BitVec 4)
  /-- SHIFT_BIT (R352). -/
  | jigShiftBit (j : Fin 32) (rx : BitVec 4)
  /-- SWAP_OUT (R354). -/
  | jigSwapOut (j : Fin 32)
  /-- SWAP_IN (R354). -/
  | jigSwapIn (j : Fin 32)
  /-- SWAP_EXCH (R354). -/
  | jigSwapExch (j : Fin 32)
  /-- SWAP_CLEAR (R354). -/
  | jigSwapClear (j : Fin 32)
  /-- DRIVE_LEVELS (R355). -/
  | jigDriveLevels (j : Fin 32)
  /-- DRIVE_DIRECTIONS (R355). -/
  | jigDriveDirections (j : Fin 32)
  /-- COUNT_LOAD (R356). -/
  | jigCountLoad (j : Fin 32)
  /-- COUNT_LOAD_SOURCE (R356). -/
  | jigCountLoadSource (j : Fin 32)
  /-- COUNT_STEP (R356). -/
  | jigCountStep (j : Fin 32)
  /-- COUNT_COMPARE (R356). -/
  | jigCountCompare (j : Fin 32)
  /-- MARK (R357). -/
  | jigMark (j : Fin 32) (stamp : Payload)
  /-- SIGNAL (R358). -/
  | jigSignal (j : Fin 32)
  /-- MATCH_COMPARE (R359). -/
  | jigMatchCompare (j : Fin 32)
  /-- MATCH_LOAD_PAT (R359). -/
  | jigMatchLoadPat (j : Fin 32)
  /-- MATCH_LOAD_MASK (R359). -/
  | jigMatchLoadMask (j : Fin 32)
  /-- CRC_INIT (R360). -/
  | jigCrcInit (j : Fin 32)
  /-- CRC_ARM (R360). -/
  | jigCrcArm (j : Fin 32)
  /-- CRC_DISARM (R360). -/
  | jigCrcDisarm (j : Fin 32)
  /-- CRC_COPY (R360). -/
  | jigCrcCopy (j : Fin 32)
  /-- REGISTER_WRITE (R14). -/
  | registerWrite (c : CoreId) (addr : BitVec 24) (w : Word)
  /-- UNKNOWN_FRAME (R375). -/
  | unknownFrame (atDH : Bool) (cls : Fin 4) (thr : Bool)
  /-- WATCHDOG_HALF (R494). -/
  | watchdogHalf (c : CoreId)
  /-- HOST_PART_COMPLETION (R285). -/
  | hostPartCompletion (c : CoreId) (data : List (BitVec 64)) (late : Bool)
  /-- HOST_REGISTER_WRITE (R283). -/
  | hostRegisterWrite (off : BitVec 16) (v : BitVec 64)
  /-- FIELD_SELF_TEST_DONE (R482). -/
  | fieldSelfTestDone (u : FieldUnit) (pass : Bool)
  /-- REFCLK_RETURN (R562). -/
  | refclkReturn
  /-- VIDALERT_RELEASE (R558). -/
  | vidalertRelease
  /-- FIELD_TEMPERATURE_WARNING (R521). -/
  | fieldTemperatureWarning
  /-- OPEN_LOAD_CLEAR (R323). -/
  | openLoadClear (u : Fin 64)
  /-- CURRENT_LIMIT_END (R321). -/
  | currentLimitEnd (u : Fin 64)
  /-- OTP_PROVISIONING (R566). -/
  | otpProvisioning (a : Nat) (w : BitVec 64)
deriving DecidableEq, Repr

end Sys2Proof
end

