-- ==== Sys2Proof/Config.lean ====
section
/-! DEFINITION. What one part or its surroundings fix and the spec leaves open: opaque constants without a body, so
that no proof can see a value of them. Each is named in a row of notes/assumptions/. -/

namespace Sys2Proof.Config

/-- The syllable that the ROM of this part holds at `8 * line + slot`, line below 0x4000 (R74 says that the ROM is
there; the manual does not give its content). Log entry 6. -/
opaque romSyl : Nat → BitVec 40

/-- A value that the manual leaves open, drawn fresh at each use: the argument is a counter of the state. Log entry 5. -/
opaque freeNat : Nat → Nat

/-- The AES-CMAC that TM40-F computes under the pairing secret or a session key (R374, R376, R377): a standard
function, left uninterpreted. Log entry 7. -/
opaque aesCmac : BitVec 128 → List (BitVec 8) → BitVec 128

/-- The index into tagged predictor table `t` (1 to 5) of a branch at `mpc` under `history` (R198: "folded" is not
defined further). Log entry 8. -/
opaque predIndex : Nat → Nat → List Bool → Nat

/-- The tag kept in tagged predictor table `t` for a branch at `mpc` under `history` (R198). Log entry 8. -/
opaque predTag : Nat → Nat → List Bool → Nat

/-- The measurement that converter `x` makes of code `code` on range `r` (0 ±10.24 V, 1 ±81.92 V, 2 ±26.2144 mA,
3 ±524.288 mA), trim included, in thousandths of the range's unit, before the rounding of R324 (the trim lies in the
one-time-programmable store of FS). Log entry 9. -/
opaque trimmed : Nat → Nat → Int → Int

/-- The 64-bit device ID that DEVID shows (R526, R551: "OTP"). Log entry 10. -/
opaque deviceId : BitVec 64

/-- The IDCODE value of the integrator (R533: "from OTP"). Log entry 10. -/
opaque idcode : BitVec 32

/-- The word of the FS one-time-programmable store at which the pairing secret begins (R376: its place is not given); it
takes two words. Log entry 10. -/
opaque otpSecret : Nat

/-- The lock row of the FS one-time-programmable store (R566: its address is not given). Log entry 10. -/
opaque otpLockRow : Nat

/-- The payload that div writes for a NAT by an INT when the quotient lies outside INT (R142 states no value). Log
entry 13. -/
opaque divOut : Nat → Int → Nat

end Sys2Proof.Config
end

