-- ==== Sys2Proof/Machine/State.lean ====
section
/-! DEFINITION. The state of the pair as plain data. Every I/O register has one home, the table `io`, keyed by its
I/O address with the bits of its register table; every field register of TM40-F the table `fld`; every BAR0-only
register the table `bar`. What an unlisted key reads as is the register's reset value (`ioReset`, `fldReset`,
`barReset`). Control registers and what the manual describes without a register are fields. -/

namespace Sys2Proof.Machine

/-- Why the machine stops with a fault. -/
inductive Fault where
  /-- Raised by every meaning when its command breaks `wellFormed` (a list of a wrong length, or row-fixed bits that
  name another row): no such command can be sent to the block. Safe. -/
  | illFormed
deriving DecidableEq, Repr

/-- Why a command has no meaning. -/
inductive Refusal where
  /-- Raised by an arm of `exec` whose command has no meaning yet. Safe. -/
  | notModelled (mnemonic : String)
deriving DecidableEq, Repr

/-! ## The cores -/

/-- What a core waits for before its microword can retire. -/
inductive Wait where
  | none
  | lng      -- the LNG unit (R139)
  | wfe      -- evlat[0] (R100)
  | waitt    -- the compare unit of slot 7 (R102)
  | cwait    -- the last cipher job (R169)
  | host     -- a host-window access (R284)
  | sendq    -- room in the dovetail send queue (R166)
  | quiet    -- its model cycle under QUIET (R212)
deriving DecidableEq, Repr

/-- A loaded word that its register does not hold yet (R189): `left` microwords must still retire. -/
structure Shadow where
  reg  : Nat
  spec : BitVec 5
  word : Word
  left : Nat
deriving DecidableEq, Repr

/-- One entry of a store buffer (R195): words with their addresses, or a fence.ss marker (R158). -/
structure StoreEnt where
  marker : Bool
  words  : List (Nat × Word)
deriving DecidableEq, Repr

/-- One part of a host-window access (R284): its window, its first word, its first host byte and its length in bytes. -/
structure HostPart where
  win   : Nat
  first : Nat
  haddr : Nat
  len   : Nat
deriving DecidableEq, Repr

/-- A host-window access in progress (R284, R285) of the syllable at `slot`: the addresses of the words not wholly done,
how many bytes of the first of them are done, the part that is outstanding and whether it is permitted (a read part then
waits for its data), the parts done, the words to store, the words and the bytes of a word that have arrived. -/
structure HostAcc where
  write   : Bool
  slot    : Nat
  rest    : List Nat
  off     : Nat
  part    : Option HostPart
  granted : Bool
  done    : Nat
  words   : List (Nat × Word)
  data    : List Word
  bytes   : List Byte
deriving DecidableEq, Repr

/-- A message of the dovetail: TYPE and two body words, with the port bytes in the words for PORT types (R372). -/
structure Msg where
  typ : Nat
  w0  : Word
  w1  : Word
deriving DecidableEq, Repr

/-- An asynchronous cause that is pending in a core (R229). -/
inductive Async where
  | nmi (code : Nat)
  | wdog
  | step
  | leaselost (bank : Nat)
  | splicept (coreB : Nat)
  | quietv
deriving DecidableEq, Repr

/-- The progress of a stopped or interrupted movb (R160). -/
structure Movb where
  moved : Nat
  desc  : Bool
deriving DecidableEq, Repr

/-- The predictor of a core (R198): base counters, tagged entries keyed by 1024 * table + index and holding
(tag, counter, usefulness), the global history, newest first, and the count of retired conditional branches. -/
structure Pred where
  base    : Tab Nat
  tagged  : Tab (Nat × Nat × Nat)
  history : List Bool
  retired : Nat
deriving DecidableEq, Repr

/-- The entry that a core's dispatcher works on: its submission ring, SEQ and words, and whether it was held for its
session and so needs no work slot (R405, R406). -/
structure Work where
  q     : Nat
  seq   : Nat
  words : List Word
  held  : Bool
deriving DecidableEq, Repr

/-- Where the dispatcher was when it entered a microcode handler (R419): gate 255 returns there. -/
structure Home where
  mpc   : Link
  cur   : Nat
  live  : Nat
  mw    : List Instr
  slots : Nat
  wait  : Wait
deriving DecidableEq, Repr

/-- One core; `modeNew` is a change of CMP and QT that waits for its next microword boundary (R468); `test` says which self-test runs: 0 none,
1 at bring-up or power-on, 2 after a kerf, 3 after a RELEASE (R484, R498); `last` is the place of the microword that
retired last (STEP, R227). Its registers (index 8 + 16 w + j in window w, R86), control registers (R174) and what it holds while it
runs. The registers of its private range stand in `io`. -/
structure Core where
  regs    : Tab Word
  mpc     : Link
  mstat   : Payload
  ring    : Nat
  cur     : Nat
  live    : Nat
  wsp     : Word
  tsp     : Tab Word
  vtb     : Word
  gtb     : Word
  repc    : Nat
  repInt  : Bool
  lcnt    : Nat
  lbeg    : Link
  lend    : Link
  evlat   : Nat
  pbarN   : Nat
  pbarHold : Bool
  ctx     : Word
  shdw0   : Word
  shdw1   : Payload
  mw      : List Instr
  slots   : Nat
  shadow  : List Shadow
  rearm   : Option Shadow
  delay   : Option Link
  wait    : Wait
  lngDone : Bool
  paced   : Bool
  hostAcc : Option HostAcc
  storeBuf : List StoreEnt
  movb    : Option Movb
  stub    : Option Nat
  offer   : Option Nat
  claims  : List (Nat × Nat)
  pinned  : List Nat
  pred    : Pred
  tbCopy  : Tab Payload
  sendQ   : List Msg
  recvQ   : List Msg
  pend    : List Async
  halted  : Bool
  haltReq : Bool
  stepReq : Bool
  ciphSt  : Nat
  ciphBusy : Bool
  ledgAck : Bool
  compRing : Option Nat
  workFull : Bool
  workRun : Option Work
  home    : Option Home
  kerfTimes : List Nat
  modeNew : Option (Bool × Bool)
  test    : Nat
  last    : Link
deriving DecidableEq, Repr

/-- The predictor after reset and pflush (R201): base counters 1, everything else empty. -/
def Pred.reset : Pred := { base := [], tagged := [], history := [], retired := 0 }

/-- A core after reset. The registers and the control registers to which the manual gives no reset value hold zero
(EMPTY:0, line 0 slot 0, ring 0): DESIGN CHOICE, log entry 2. -/
def Core.reset : Core where
  regs := []
  mpc := 0#20
  mstat := 0#36
  ring := 0
  cur := 0
  live := 1
  wsp := emptyW
  tsp := []
  vtb := emptyW
  gtb := emptyW
  repc := 0
  repInt := false
  lcnt := 0
  lbeg := 0#20
  lend := 0#20
  evlat := 0
  pbarN := 0
  pbarHold := false
  ctx := mkW .session 0
  shdw0 := emptyW
  shdw1 := 0#36
  mw := []
  slots := 0
  shadow := []
  rearm := none
  delay := none
  wait := .none
  lngDone := false
  paced := false
  hostAcc := none
  storeBuf := []
  movb := none
  stub := none
  offer := none
  claims := []
  pinned := []
  pred := Pred.reset
  tbCopy := []
  sendQ := []
  recvQ := []
  pend := []
  halted := false
  haltReq := false
  stepReq := false
  ciphSt := 7
  ciphBusy := false
  ledgAck := true
  compRing := none
  workFull := false
  workRun := none
  home := none
  kerfTimes := []
  modeNew := none
  test := 0
  last := 0#20

/-! ## Banks -/

/-- Which steps of a change of a bank's record are still to run (R271, R276). `scrub`: 0 none, 1 KEYREF and SEAL words
only, 2 every word. `off`: the drain ends with the bank powered off. `part`: only the cluster copies change. -/
structure BankChange where
  scrub : Nat
  off   : Bool
  part  : Bool
deriving DecidableEq, Repr

/-! ## Cipher port -/

/-- A job at the cipher port (R432, R437); `words` are words 4 to 12 of its block as the port read them. -/
structure Job where
  ring   : Nat
  func   : Nat
  len    : Nat
  key    : Payload
  block  : Nat
  words  : List Word
  inA    : Nat
  outA   : Nat
  aadA   : Nat
  aadLen : Nat
  tagLen : Nat
  ivLen  : Nat
  outN   : Nat
  detail : Nat
  fault  : Bool
  atEng  : Bool
  core   : Nat
deriving DecidableEq, Repr

/-! ## Ledger -/

/-- A record in the ledger spool (R446, R458): its slot, its words, its sequence once it is chained, whether the drain has
written it to the ledger ring and whether a head write has passed it while nothing leaves the spool. -/
structure LRec where
  slot    : Nat
  words   : List Word
  seq     : Option Nat
  drained : Bool
  passed  : Bool
deriving DecidableEq, Repr

/-- A sealed checkpoint that the engine still keeps (R461). -/
structure Seal where
  id    : Nat
  words : List Word
deriving DecidableEq, Repr

/-- What the ledger engine's job at the cipher port is for: the seal of a checkpoint whose header and payload words so
far are given (R450). -/
inductive SealWhy where
  | checkpoint (words : List Word)
deriving DecidableEq, Repr

/-- The ledger engine (R446 to R461) beside its registers. -/
structure Ledger where
  recs     : List LRec
  head     : BitVec 256
  since    : Nat
  sealing  : Option SealWhy
  sealDue  : Bool
  seals    : List Seal
  nextSeal : Nat
  anchorFrom : Option (Nat × BitVec 256 × Nat)
  drainOff : Bool
deriving DecidableEq, Repr

/-! ## Host rings and sessions -/

/-- Where an entry stands between its fetch and its completion (R401 to R413). -/
inductive EntrySt where
  | reading | fetched | taken | held | waiting | ready
deriving DecidableEq, Repr

/-- A submission entry that HL has asked for and not yet completed, with the completion it holds under INORDER. -/
structure Entry where
  q     : Nat
  seq   : Nat
  words : List Word
  st    : EntrySt
  core  : Option Nat
  comp  : Option (Nat × Word × Word × Word)
deriving DecidableEq, Repr

/-- A handler of the dispatcher that waits for something outside its core (R415): the core, ring, SEQ and words of its
entry, the message whose acknowledgement it awaits while that is in a send queue, then the class and number of the last
frame sent for it, and what it has written so far. -/
structure Waiter where
  core  : Nat
  q     : Nat
  seq   : Nat
  words : List Word
  await : Option Msg
  frame : Option (Nat × Nat)
  count : Nat
deriving DecidableEq, Repr

/-- A completion in the completion spool (R413): its spool slot, ring, and whether it was reserved, whether it
sends no MSI-X, and whether it waits for its ring to be enabled again (R445). -/
structure SpoolEnt where
  slot  : Nat
  cq    : Nat
  resv  : Bool
  noirq : Bool
  hold  : Bool
deriving DecidableEq, Repr

/-- Work of HL that waits for an answer of the access-control unit (R443, R445). -/
inductive AcItem where
  | fetch (q n : Nat)
  | comp (r : Nat) (resv : Bool) (noirq : Bool) (w0 w1 w2 w3 : Word)
  | drain (slot : Nat)
  | msix (v : Nat)
deriving DecidableEq, Repr

/-- One entry of the session directory (R420); `busy` names the core that runs its entry or holds it through gate 254. -/
structure Session where
  opened : Bool
  failed : Bool
  gen    : Nat
  way    : Option Nat
  cold   : Option Nat
  cver   : Nat
  busy   : Option Nat
  used   : Nat
deriving DecidableEq, Repr

/-- A directory entry after reset: free, generation 1 (R420). -/
def Session.reset : Session :=
  { opened := false, failed := false, gen := 1, way := none, cold := none, cver := 0, busy := none, used := 0 }

/-! ## Debug -/

/-- The debug engine beside DBGSTAT (R526): the challenge, the level and port that asked, whether a response is being
verified, the response, and the TAP's instruction register (R533). -/
structure Debug where
  chal   : BitVec 128
  asked  : Option (Nat × Bool)
  verify : Bool
  resp   : BitVec 128
  tapIr  : Nat
  tapDr  : BitVec 64
deriving DecidableEq, Repr

/-! ## The dovetail -/

/-- A reliable frame that its sender has not seen acknowledged (R379). -/
structure Frame where
  cls : Nat
  num : Nat
  msg : Msg
deriving DecidableEq, Repr

/-- One end of the link (R373 to R379): the next number to send and to expect for each class, the unacknowledged
frames, frames received since the last acknowledgement sent, frames sent under the epoch key, the epoch, the key, how
many more frames the previous key is accepted for, the credits to return as (holder, number), the failed lanes of
the direction that it receives, and the class-0 message that it sent last. -/
structure DvEnd where
  txNum   : Tab Nat
  rxNum   : Tab Nat
  unacked : List Frame
  since   : Nat
  sent    : Nat
  epoch   : Nat
  key     : BitVec 128
  prevLeft : Nat
  credOut : List (Nat × Nat)
  lanes   : List Nat
  line    : Option Msg
deriving DecidableEq, Repr

/-- An end before pairing. -/
def DvEnd.reset : DvEnd :=
  { txNum := [], rxNum := [], unacked := [], since := 0, sent := 0, epoch := 0, key := 0#128, prevLeft := 0,
    credOut := [], lanes := [], line := none }

/-- DH beside its registers (R376, R380, R385, R389): the nonces of the attempt, whether a ROLL waits for its ROLLACK,
the credits held for jigs and ports, the images being received, whether the shadow dump is still arriving, FRESET of the
attempt, the times of the drops and of the tag failures counted towards DROPTHR and MACTHR, the images sent and not reported (core, length, offset), the
ECHO tokens out with their cores, and the messages kept for a full receive queue. -/
structure DovH where
  nf      : Payload
  nh      : Payload
  replied : Bool
  rolling : Bool
  jigCred : Tab Nat
  portCred : Tab Nat
  rxImg   : Tab (List Byte)
  dump    : Bool
  freset  : Bool
  drops   : List Nat
  macs    : List Nat
  txOwn   : Tab (List (Nat × Nat × Nat))
  echoes  : List (Nat × Nat)
  kept    : List (Nat × Msg)
deriving DecidableEq, Repr

/-! ## TM40-F -/

/-- A jig (R343). `inj` is an injection that has not run;
`left` are the bits that a SHIFT still moves, `markAt` the time of the first cycle of a stalled MARK, `prevPins` the pin
levels of the cycle before, `lastChg` the time of the last change that the jig saw on each slot (R351, R357), and `div`
the cycles to the next tick that the last restart of the tick divider set (R345; its counting is timing, log entry 4). -/
structure Jig where
  pc     : Nat
  latch  : BitVec 24
  run    : Bool
  stall  : Bool
  haltc  : Nat
  fault  : Nat
  ctrA   : BitVec 20
  ctrB   : BitVec 20
  shifter : BitVec 40
  fill   : Nat
  lord   : Bool
  pat    : BitVec 40
  mask   : BitVec 40
  mf     : Bool
  cf     : Bool
  crc    : Nat
  poly   : Nat
  armed  : Bool
  up     : List Word
  down   : List Word
  levels : BitVec 8
  dirs   : BitVec 8
  inj    : Option (BitVec 24)
  injref : Nat
  unsync : Bool
  scnt   : Nat
  left   : Nat
  markAt : Payload
  prevPins : BitVec 8
  lastChg : Tab (Option Payload)
  div    : Nat
deriving DecidableEq, Repr

/-- A jig after reset (R367): halted with HALTC 0 and everything at its reset value. -/
def Jig.reset : Jig where
  pc := 0
  latch := 0#24
  run := false
  stall := false
  haltc := 0
  fault := 0
  ctrA := 0#20
  ctrB := 0#20
  shifter := 0#40
  fill := 0
  lord := false
  pat := 0#40
  mask := 0#40
  mf := false
  cf := false
  crc := 0
  poly := 0
  armed := false
  up := []
  down := []
  levels := 0#8
  dirs := 0#8
  inj := none
  injref := 0
  unsync := false
  scnt := 0
  left := 0
  markAt := 0#36
  prevPins := 0#8
  lastChg := []
  div := 0

/-- A port controller (R336): the image being gathered, the images ready to send, the received frames that wait for
the link, the frames dropped, and whether the port is off its bus. -/
structure Port where
  txPart : List Byte
  txQ    : List (List Byte)
  rxWait : List (List Byte)
  rxDrop : Nat
  busOff : Bool
deriving DecidableEq, Repr

/-- A port after reset. -/
def Port.reset : Port := { txPart := [], txQ := [], rxWait := [], rxDrop := 0, busOff := false }

/-- TM40-F beside its registers: whether it has left reset, whether it is paired, FRESET for its next HELLO, the nonces
of the pairing attempt and whether its REPLY has verified, the jigs and ports, each converter's entry and the sum of
its conversions, the (converter, trigger) starts that are due, the stamp of each channel's last comparator edge, the
channels whose last sample lay outside its limits, field time with its rate and whether it is synchronised, the credits
of the cores' receive queues, the code of the FAULT that waits for pairing, whether the die holds safe state, the codes that the
DACs drive, the times of DF's drops, the failed lanes of its transmitter that DH has reported, the units that failed their self-test (a channel by its
number, MX 64, port p 65 + p), and the burned words of the one-time-programmable store. -/
structure Field where
  up       : Bool
  paired   : Bool
  freset   : Bool
  nf       : Option Payload
  nh       : Payload
  keyed    : Bool
  jigs     : Tab Jig
  ports    : Tab Port
  convIdx  : Tab Nat
  convSum  : Tab (Nat × Int)
  convDue  : List (Nat × Nat)
  edgeAt   : Tab (Option Payload)
  limited  : List Nat
  time     : Payload
  rate     : Int
  synced   : Bool
  coreCred : Tab Nat
  waitFault : Option Nat
  safe     : Bool
  dacs     : Tab (BitVec 16)
  drops    : List Nat
  txLanes  : Nat
  failed   : List Nat
  otp      : Tab (Option (BitVec 64))
deriving DecidableEq, Repr

/-- TM40-F unpowered (R342, R482): it waits for its supply. -/
def Field.reset : Field where
  up := false
  paired := false
  freset := true
  nf := none
  nh := 0#36
  keyed := false
  jigs := []
  ports := []
  convIdx := []
  convSum := []
  convDue := []
  edgeAt := []
  limited := []
  time := 0#36
  rate := 0
  synced := false
  coreCred := []
  waitFault := none
  safe := false
  dacs := []
  drops := []
  txLanes := 0
  failed := []
  otp := []

/-! ## What leaves the pair at its bumps and pads -/

/-- A transaction that the pair started towards its surroundings, in the order in which it did (R2, R4). -/
inductive Out where
  | hostWrite (addr : Nat) (data : List (BitVec 64)) (bytesPerWord : Nat) (relaxed : Bool)
  | hostRead (addr : Nat) (len : Nat)
  | msix (vec : Nat)
  | acReq (r : AcReq) (ring : Nat) (write : Bool) (haddr : Nat) (len : Nat) (win : Nat) (order : Nat) (cache : Nat) (mode : Nat)
  | engJob (job : Nat) (key : Payload) (func len aadLen tagLen ivLen core ring : Nat)
  | engData (job : Nat) (bytes : List Byte)
  | engAbort (job : Nat)
  | engRevoke (kept : List Payload)
  | vid (island code : Nat)
  | canTx (port : Nat) (image : List Byte)
  | tap (dr : BitVec 64)
  | retrain
  | hostData (d : BitVec 64)
deriving DecidableEq, Repr

/-! ## The whole -/

/-- The pair. `eccBad` and `eccSoft` list the bank words with a double-bit and with a single-bit error (R258), `rowErrs`
per island the rows counted for ECCTHR, least recently counted first (R281); `csBad` and `csSoft` the control-store
lines with an uncorrectable and with a correctable error (R75); `keysKept` the keys that the last REVOKE named (R439);
`nearLease` the banks whose lease is near its expiry; `cmpDue` the compare units whose time had been reached when they
were armed (R310); `locked` the addresses of the RW1 registers that have been written (R11); `carrier` the core that carries the keeper work (R503); `splice` the splice that runs: core A, core B, whether A has
stopped (1), the core that asked for it. -/
structure State where
  pending  : List Instr
  io       : Tab Word
  fld      : Tab Word
  bar      : Tab (BitVec 64)
  mem      : Tab Word
  eccBad   : List Nat
  eccSoft  : List Nat
  rowErrs  : Tab (List (Nat × Nat))
  cs       : Tab (BitVec 40)
  csBad    : List Nat
  csSoft   : List Nat
  cores    : Tab Core
  tb       : Tab (BitVec 72)
  svCycle  : Nat
  fresh    : Nat
  leaseAt  : Tab (BitVec 72)
  nearLease : List Nat
  cmpDue   : List Nat
  bankChg  : Tab BankChange
  marching : Option (Nat × Bool)
  repairing : Option (Nat × Nat × Nat × Nat)
  asserted : List Nat
  lastAny  : Nat
  tdLast   : List Int
  jobs     : Tab Job
  ciphQ    : List Nat
  keysKept : Option (List Payload)
  ledger   : Ledger
  entries  : List Entry
  waits    : List Waiter
  expSeq   : Tab Nat
  rotor    : Tab Nat
  cqUsed   : Tab Nat
  cqHead   : Tab Nat
  msiSent  : List Nat
  spool    : List SpoolEnt
  spoolPos : Nat
  readyPend : List Nat
  acQ      : List AcItem
  cqOff    : List Nat
  sess     : Tab Session
  sessClock : Nat
  config   : Tab Nat
  locked   : List Nat
  shimBusy : Option (List (Nat × Nat) × Nat)
  hookDone : Bool
  elArmed  : Bool
  lringSent : Bool
  clOff    : List Nat
  islReset : List Nat
  hlOff    : Bool
  straps   : Nat
  alive    : Bool
  refLost  : Bool
  vidLow   : Bool
  dbg      : Debug
  dh       : DvEnd
  df       : DvEnd
  dov      : DovH
  field    : Field
  splice   : Option (Nat × Nat × Nat × Option Nat)
  carrier  : Nat
  out      : List Out
deriving DecidableEq, Repr

/-! ## Reset values -/

/-- The sources that a level raiser drives after reset: channel event 2 (R290, R317) and the veneer (R291). -/
def levelAtReset (n : Nat) : Bool := (n < 256 && n % 4 == 2) || n == 603

/-- The I/O registers that are sets of bits and read as BITS (R14). Which registers are bit sets is DEDUCED from their
tables, log entry 11. -/
def ioIsBits (a : Nat) : Bool :=
  a == 0x12 || a == 0x13 || a == 0x20 || a == 0x21 || a == 0x23 || a == 0x27 || (0x140 ≤ a && a ≤ 0x143) || a == 0x148 ||
  (0x010400 ≤ a && a ≤ 0x0107FF) || a == 0x020080 || a == 0x020081 || a == 0x060010 ||
  (0x100000 ≤ a && a < 0x120000 && a % 0x1000 == 3)

/-- Registers whose word is a KEYREF or EMPTY:0 after reset (R543 to R548). -/
def ioIsKey (a : Nat) : Bool :=
  a == 0x030005 || a == 0x030006 || a == 0x050050 || a == 0x050051 || a == 0x060004 || a == 0x070004 ||
  (0x090043 ≤ a && a ≤ 0x090045) || (0x050110 ≤ a && a ≤ 0x0501FF)

/-- The payload of an I/O register after reset outside the private ranges (R543 to R547). -/
def ioResetPay (a : Nat) : Nat :=
  if a < 0x010000 then
    if a == 0x00 then 0x00017440 else if a == 0x01 then 0x100 else if a == 0x02 then 0x10FFFF
    else if a == 0x10 then 0x100010 else if a == 0x11 then 0x1 else if a == 0x14 then 0x40001
    else if a == 0x27 then 0xFFFFFFDD else if a == 0x148 then 0xFFFFFFFF
    else if 0x100 ≤ a ∧ a ≤ 0x11F then
      let b := a - 0x100
      if b < 12 ∨ 25 < b then 0x200FFFFC0
      else if b < 16 then 0x200FFFFCB
      else if b < 18 then 0x200FFFFC9
      else 0x205FFFFC0 + (b - 17)
    else 0
  else if a < 0x020000 then
    if a ≤ 0x0103FF then (if levelAtReset (a - 0x010000) then 0x10 else 0)
    else if a == 0x010C00 then 0x64 else 0
  else if a < 0x030000 then (if a == 0x020021 then 0x3E832 else 0)
  else if a < 0x040000 then (if a == 0x030000 then 0x2100 else 0)
  else if a < 0x050000 then
    (if a == 0x040000 then 0x8 else if a == 0x040001 then 0x10064 else if a == 0x040002 then 0x3800 else 0)
  else if a < 0x060000 then 0
  else if a < 0x070000 then
    (if a == 0x060000 then 0x8 else if a == 0x060001 then 0x10101900A else 0)
  else if a < 0x080000 then
    (if a == 0x070000 then 0x20100 else if 0x070030 ≤ a ∧ a ≤ 0x070032 then 0x14000 else 0)
  else if a < 0x090000 then (if a == 0x080000 then 0x60 else if a == 0x080003 then 0x4 else 0)
  else if a < 0x0A0000 then
    (if 0x090010 ≤ a ∧ a ≤ 0x09001D then 0x736 else if a == 0x090040 then 0xF else 0)
  else if a < 0x0B0000 then
    (if a ≤ 0x0A0007 then 0xB46EA014 else if a ≤ 0x0A000D then 0xB46E0000
     else if 0x0A0020 ≤ a ∧ a ≤ 0x0A002D then 0xB47D else 0)
  else 0

/-- The payload of a private register of core `c` after reset (R548). -/
def privReset (c o : Nat) : Nat :=
  if o == 0x003 then 0xFFFE else if o == 0x010 then 0x4064
  else if o == 0x041 then 0xA0000000 + c * 0x1000000
  else if 0x080 ≤ o ∧ o ≤ 0x083 then 0x1E0 else 0

/-- The field registers that are sets of bits (R314): FRDY0 to FRDY2, the group flags and the jig store (log entry 11). -/
def fldIsBits (f : Nat) : Bool := decide (f < 3) || (decide (0x0600 ≤ f) && decide (f < 0x0608)) ||
  (decide (0x0900 ≤ f) && decide (f < 0x0B00) && decide (f % 64 < 48))
/-- The word of a field register after a reset of TM40-F (R549). -/
def fldReset (f : Nat) : Word :=
  mkW (if fldIsBits f then .bits else .nat) <|
    if f == 0x0011 then 0x708 else if f == 0x0021 then 0x1 else if f == 0x0030 then 0xA
    else if f == 0x0061 then 0x73
    else if 0x0100 ≤ f ∧ f < 0x0140 then 0x3C000 else if 0x0140 ≤ f ∧ f < 0x0180 then 0x211301F4
    else if 0x01C0 ≤ f ∧ f < 0x0200 then 0x7D000 else if 0x0200 ≤ f ∧ f < 0x0208 then 0x2
    else if 0x0500 ≤ f ∧ f < 0x050C then 0x208FF0 else if 0x0620 ≤ f ∧ f < 0x0640 then 0x280000 else 0

/-- The word of an I/O register after reset; the field shadow holds the reset values of TM40-F (R549). -/
def ioReset (a : Nat) : Word :=
  if ioIsKey a then emptyW
  else if a == 0x020023 ∨ a == 0x020024 then mkW .int 0
  else if 0x068000 ≤ a ∧ a < 0x069000 then fldReset (a - 0x068000)
  else if 0x100000 ≤ a ∧ a < 0x120000 then
    let c := (a - 0x100000) / 0x1000
    let o := a % 0x1000
    if 0x050 ≤ o ∧ o < 0x060 then mkW .link 0
    else mkW (if ioIsBits a then .bits else .nat) (privReset c o)
  else mkW (if ioIsBits a then .bits else .nat) (ioResetPay a)

/-- A BAR0 register after reset (R551); MSI-X vectors reset masked. -/
def barReset (o : Nat) : BitVec 64 :=
  BitVec.ofNat 64 <|
    if 0x1000 ≤ o ∧ o < 0x3000 then
      let q := (o - 0x1000) / 32
      if o % 32 == 8 then (if q == 0 then 0x88 else 0x8) else if o % 32 == 12 then 0x103E8 else 0
    else if 0x3000 ≤ o ∧ o < 0x4000 then (if o % 16 == 8 then 0x8 else if o % 16 == 12 then 0x10000 else 0)
    else if o == 0x4808 then 0x8 else if o == 0x4810 then 0x10000
    else if 0x8000 ≤ o ∧ o < 0xA000 then (if o % 16 == 12 then 1 else 0)
    else 0

/-- The ledger engine after reset: unanchored, head of 32 zero bytes (R449, R453). -/
def Ledger.reset : Ledger :=
  { recs := [], head := 0#256, since := 0, sealing := none, sealDue := false, seals := [], nextSeal := 1,
    anchorFrom := none, drainOff := false }

/-- DH after reset. -/
def DovH.reset : DovH :=
  { nf := 0#36, nh := 0#36, replied := false, rolling := false, jigCred := [], portCred := [], rxImg := [],
    dump := false, freset := false, drops := [], macs := [], txOwn := [], echoes := [], kept := [] }

/-- The pair right after reset: every register at the value of its Reset column, memory and the writable control store
with nothing listed, no command waiting. What happens from here to a running dispatcher is the row COLD_RESET. -/
def State.reset : State where
  pending := []
  io := []
  fld := []
  bar := []
  mem := []
  eccBad := []
  eccSoft := []
  rowErrs := []
  cs := []
  csBad := []
  csSoft := []
  cores := []
  tb := []
  svCycle := 0
  fresh := 0
  leaseAt := []
  nearLease := []
  cmpDue := []
  bankChg := []
  marching := none
  repairing := none
  asserted := []
  lastAny := 31
  tdLast := []
  jobs := []
  ciphQ := []
  keysKept := none
  ledger := Ledger.reset
  entries := []
  waits := []
  expSeq := []
  rotor := []
  cqUsed := []
  cqHead := []
  msiSent := []
  spool := []
  spoolPos := 0
  readyPend := []
  acQ := []
  cqOff := []
  sess := []
  sessClock := 0
  config := []
  locked := []
  shimBusy := none
  hookDone := false
  elArmed := true
  lringSent := false
  clOff := []
  islReset := []
  hlOff := false
  straps := 0
  alive := true
  refLost := false
  vidLow := false
  dbg := { chal := 0#128, asked := none, verify := false, resp := 0#128, tapIr := 1, tapDr := 0#64 }
  dh := DvEnd.reset
  df := DvEnd.reset
  dov := DovH.reset
  field := Field.reset
  splice := none
  carrier := 0
  out := []

end Sys2Proof.Machine
end

