-- ==== Sys2Proof/Machine/Prim.lean ====
section
/-! DEFINITION. The plainest operations: sparse tables, bit fields, the accessors of the state's tables and of the
cores, and the addresses of the registers (R543 to R551). -/

namespace Sys2Proof.Machine

/-! ## Sparse tables -/

/-- What key `k` holds; `d` when it is not listed. -/
def tabGet {α : Type} (d : α) : Tab α → Nat → α
  | [], _ => d
  | (j, v) :: t, k => if j = k then v else tabGet d t k

/-- The table without key `k`. -/
def tabDel {α : Type} : Tab α → Nat → Tab α
  | [], _ => []
  | (j, v) :: t, k => if j = k then t else (j, v) :: tabDel t k

/-- The table with `v` at key `k`, keys rising. -/
def tabIns {α : Type} (v : α) : Tab α → Nat → Tab α
  | [], k => [(k, v)]
  | (j, w) :: t, k => if k < j then (k, v) :: (j, w) :: t else if j = k then (k, v) :: t else (j, w) :: tabIns v t k

/-- The table with key `k` holding `v`; writing what an unlisted key reads as removes the entry. -/
def tabSet {α : Type} [DecidableEq α] (d : α) (t : Tab α) (k : Nat) (v : α) : Tab α :=
  if v = d then tabDel t k else tabIns v t k

/-- The canonical form: keys strictly rising and above `lo`, no entry equal to what its key reads as unlisted. -/
def tabWf {α : Type} [DecidableEq α] (d : Nat → α) : Option Nat → Tab α → Bool
  | _, [] => true
  | lo, (j, v) :: t => (match lo with | none => true | some l => decide (l < j)) && decide (v ≠ d j) && tabWf d (some j) t

/-- The canonical form of the memory of the banks: what an unlisted word reads as is EMPTY:0 (log entry 37). -/
def Memory.wf (m : Tab Word) : Bool := tabWf (fun _ => emptyW) none m

/-! ## Bit fields -/

/-- Bits [lo + w - 1 : lo] of `n`. -/
def bits (n lo w : Nat) : Nat := n / 2 ^ lo % 2 ^ w

/-- `n` with bits [lo + w - 1 : lo] replaced by `v`. -/
def setBits (n lo w v : Nat) : Nat := n % 2 ^ lo + v % 2 ^ w * 2 ^ lo + n / 2 ^ (lo + w) * 2 ^ (lo + w)

/-- Bit `i` of `n`. -/
def bitAt (n i : Nat) : Bool := n / 2 ^ i % 2 == 1

/-- `n` saturated at `m`. -/
def satAt (m n : Nat) : Nat := if m < n then m else n

/-- The numbers below `n` whose bit is set in `mask`, ascending. -/
def bitList (n mask : Nat) : List Nat := (List.range n).filter (bitAt mask)

/-- How many of the low `n` bits are set. -/
def popCount (n x : Nat) : Nat := (bitList n x).length

/-- A word built from fields (lo, width, value). -/
def packNat (l : List (Nat × Nat × Nat)) : Nat := l.foldl (fun n f => setBits n f.1 f.2.1 f.2.2) 0

/-! ## I/O registers -/

/-- The word of the I/O register at `a`. -/
def ioGet (s : State) (a : Nat) : Word := tabGet (ioReset a) s.io a

/-- The state with the I/O register at `a` holding `w`. -/
def ioPut (s : State) (a : Nat) (w : Word) : State := { s with io := tabSet (ioReset a) s.io a w }

/-- Field [lo + w - 1 : lo] of the I/O register at `a`. -/
def ioF (s : State) (a lo w : Nat) : Nat := bits (pay (ioGet s a)) lo w

/-- The state with field [lo + w - 1 : lo] of the I/O register at `a` set to `v`; its tag is kept. -/
def ioSetF (s : State) (a lo w v : Nat) : State :=
  ioPut s a (mkW (wtag (ioGet s a)) (setBits (pay (ioGet s a)) lo w v))

/-- A one-bit field of an I/O register. -/
def ioB (s : State) (a i : Nat) : Bool := ioF s a i 1 == 1

/-- A one-bit field of an I/O register set. -/
def ioSetB (s : State) (a i : Nat) (b : Bool) : State := ioSetF s a i 1 b.toNat

/-- The saturating count in field [lo + w - 1 : lo] of the I/O register at `a`, one higher. -/
def ioInc (s : State) (a lo w : Nat) : State := ioSetF s a lo w (satAt (2 ^ w - 1) (ioF s a lo w + 1))

/-! ## Field registers and BAR0 registers -/

/-- The word of the field register at `f` on TM40-F. -/
def fldGet (s : State) (f : Nat) : Word := tabGet (fldReset f) s.fld f

/-- The state with the field register at `f` holding `w`. -/
def fldPut (s : State) (f : Nat) (w : Word) : State := { s with fld := tabSet (fldReset f) s.fld f w }

/-- Field [lo + w - 1 : lo] of the field register at `f`. -/
def fldF (s : State) (f lo w : Nat) : Nat := bits (pay (fldGet s f)) lo w

/-- The state with field [lo + w - 1 : lo] of the field register at `f` set to `v`. -/
def fldSetF (s : State) (f lo w v : Nat) : State := fldPut s f (mkW (wtag (fldGet s f)) (setBits (pay (fldGet s f)) lo w v))

/-- A one-bit field of a field register. -/
def fldB (s : State) (f i : Nat) : Bool := fldF s f i 1 == 1

/-- A one-bit field of a field register set. -/
def fldSetB (s : State) (f i : Nat) (b : Bool) : State := fldSetF s f i 1 b.toNat

/-- The BAR0 register at offset `o`. -/
def barGet (s : State) (o : Nat) : Nat := (tabGet (barReset o) s.bar o).toNat

/-- The state with the BAR0 register at offset `o` holding `n`. -/
def barPut (s : State) (o n : Nat) : State := { s with bar := tabSet (barReset o) s.bar o (BitVec.ofNat 64 n) }

/-- Field [lo + w - 1 : lo] of the BAR0 register at `o`. -/
def barF (s : State) (o lo w : Nat) : Nat := bits (barGet s o) lo w

/-- The state with field [lo + w - 1 : lo] of the BAR0 register at `o` set to `v`. -/
def barSetF (s : State) (o lo w v : Nat) : State := barPut s o (setBits (barGet s o) lo w v)

/-- A one-bit field of a BAR0 register. -/
def barB (s : State) (o i : Nat) : Bool := barF s o i 1 == 1

/-- A one-bit field of a BAR0 register set. -/
def barSetB (s : State) (o i : Nat) (b : Bool) : State := barSetF s o i 1 b.toNat

/-! ## Cores -/

/-- Core `c`. -/
def coreOf (s : State) (c : Nat) : Core := tabGet Core.reset s.cores c

/-- The state with core `c` being `k`. -/
def setCore (s : State) (c : Nat) (k : Core) : State := { s with cores := tabSet Core.reset s.cores c k }

/-- The state with core `c` changed by `f`. -/
def modCore (s : State) (c : Nat) (f : Core → Core) : State := setCore s c (f (coreOf s c))

/-- The address of the private register `o` of core `c` (R548). -/
def priv (c o : Nat) : Nat := 0x100000 + c * 0x1000 + o

/-! ## Bank words and control store -/

/-- The word of a bank at data-space address `a`; a word that nothing has written reads EMPTY:0, what the clear of its
bank wrote (R276). -/
def memGet (s : State) (a : Nat) : Word := tabGet emptyW s.mem a

/-- The state with the bank word at `a` holding `w`: the word is whole again if it was uncorrectable (R258). -/
def memPut (s : State) (a : Nat) (w : Word) : State :=
  { s with
    mem := tabSet emptyW s.mem a w
    eccBad := s.eccBad.filter (· ≠ a)
    eccSoft := s.eccSoft.filter (· ≠ a) }

/-- Several words stored, the first first. -/
def memPutAll (s : State) (l : List (Nat × Word)) : State := l.foldl (fun s p => memPut s p.1 p.2) s

/-- The words of a bank set to EMPTY:0 (R271): `lo` to `lo + 65,535`. -/
def memScrub (s : State) (bank : Nat) : State :=
  { s with
    mem := s.mem.filter (fun p => p.1 / 0x10000 ≠ bank)
    eccBad := s.eccBad.filter (fun a => a / 0x10000 ≠ bank)
    eccSoft := s.eccSoft.filter (fun a => a / 0x10000 ≠ bank) }

/-- Is `w` tagged KEYREF or SEAL? -/
def isSecret (w : Word) : Bool := wtag w == .keyref || wtag w == .seal

/-- Every KEYREF and SEAL word of a bank set to EMPTY:0 (R55, R271). -/
def memScrubSecrets (s : State) (bank : Nat) : State :=
  { s with mem := s.mem.filter (fun p => !(p.1 / 0x10000 == bank && isSecret p.2)) }

/-- The syllable that the store holds at `8 * line + slot`, redirects ignored; ROM syllables are the part's own. -/
def csRaw (s : State) (l : Nat) : BitVec 40 := if l < 0x20000 then Config.romSyl l else tabGet 0#40 s.cs l

/-- The state with the writable syllable at `l` holding `w`. -/
def csPut (s : State) (l : Nat) (w : BitVec 40) : State := { s with cs := tabSet 0#40 s.cs l w }

/-! ## Time, fresh values, bumps -/

/-- The count of timebase `n` (R304). -/
def tbGet (s : State) (n : Nat) : Nat := (tabGet 0#72 s.tb n).toNat

/-- The state with timebase `n` at `v`. -/
def tbPut (s : State) (n v : Nat) : State := { s with tb := tabSet 0#72 s.tb n (BitVec.ofNat 72 v) }

/-- The low half of timebase `n`. -/
def tbLo (s : State) (n : Nat) : Nat := tbGet s n % 2 ^ 36

/-- The high half of timebase `n`. -/
def tbHi (s : State) (n : Nat) : Nat := tbGet s n / 2 ^ 36

/-- The state after a free value has been drawn. -/
def bump (s : State) : State := { s with fresh := s.fresh + 1 }

/-- The free value that the next draw gives (log entry 5). -/
def freeVal (s : State) : Nat := Config.freeNat s.fresh

/-- The state after the pair has started a transaction at its bumps. -/
def emit (s : State) (o : Out) : State := { s with out := s.out ++ [o] }

/-! ## Register addresses (R543 to R547) -/

def aDEVMODE : Nat := 0x10
def aMODECAUSE : Nat := 0x11
def aCMASK : Nat := 0x12
def aQMASK : Nat := 0x13
def aMODECFG : Nat := 0x14
def aMODESTAT : Nat := 0x15
def aREADYMAP : Nat := 0x20
def aRSTCAUSE : Nat := 0x22
def aKERFCORE : Nat := 0x23
def aSPLSTAT : Nat := 0x25
def aHWSTAT : Nat := 0x26
def aDISPMASK : Nat := 0x27
def aBANKOWN (n : Nat) : Nat := 0x100 + n
def aPART (n : Nat) : Nat := 0x140 + n
def aBANKPWR : Nat := 0x148
def aBANKEVT (n : Nat) : Nat := 0x160 + n
def aSRCCFG (n : Nat) : Nat := 0x010000 + n
def aSRCMASK (n : Nat) : Nat := 0x010400 + n
def aSRCSTAT (n : Nat) : Nat := 0x010800 + n
def aHUBCFG : Nat := 0x010C00
def aHUBSTAT : Nat := 0x010C01
def aTB (n : Nat) : Nat := 0x020000 + 8 * n
def aTDCFG : Nat := 0x020021
def aTDSTAT : Nat := 0x020022
def aTDERR : Nat := 0x020023
def aTDRATE : Nat := 0x020024
def aCMPVAL (u : Nat) : Nat := 0x020100 + 2 * u
def aCMPCTL (u : Nat) : Nat := 0x020101 + 2 * u
def aLEDGCFG : Nat := 0x030000
def aLEDGSTAT : Nat := 0x030001
def aLEDGSEQLO : Nat := 0x030002
def aLEDGSEQHI : Nat := 0x030003
def aLEDGEPOCH : Nat := 0x030004
def aLEDGKEY : Nat := 0x030005
def aLEDGSEAL : Nat := 0x030006
def aLEDGAREA : Nat := 0x030009
def aCIPHCAP : Nat := 0x040000
def aCIPHCFG : Nat := 0x040001
def aCIPHSTAT : Nat := 0x040002
def aCIPHCNT : Nat := 0x040003
def aOPENKEY : Nat := 0x050050
def aCTXKEY : Nat := 0x050051
def aACSTAT : Nat := 0x050060
def aACCNT : Nat := 0x050061
def aENTRY (op : Nat) : Nat := 0x050100 + op
def aDVSTAT : Nat := 0x060000
def aDVCFG : Nat := 0x060001
def aDROPCNT : Nat := 0x060002
def aLINKCNT : Nat := 0x060003
def aPAIRKEY : Nat := 0x060004
def aDVRTT : Nat := 0x060009
def aMIRROR : Nat := 0x060010
def aDVBANK : Nat := 0x060011
def aSMPHEAD : Nat := 0x060012
def aSMPTAIL : Nat := 0x060013
def aRXHEAD : Nat := 0x060014
def aRXTAIL : Nat := 0x060015
def aPORTCORE (a : Nat) : Nat := 0x060016 + a
def aSHADOW (f : Nat) : Nat := 0x068000 + f
def aSHIMVER : Nat := 0x070001
def aSHIMMIN : Nat := 0x070002
def aSHIMSTAT : Nat := 0x070003
def aSHIMKEY : Nat := 0x070004
def aCSECC : Nat := 0x070005
def aCSPATCH (n : Nat) : Nat := 0x070010 + n
def aRINGLIM (k : Nat) : Nat := 0x07002F + k
def aMARCHCTL : Nat := 0x080000
def aMARCHSTAT : Nat := 0x080001
def aRPCTL : Nat := 0x080002
def aECCTHR : Nat := 0x080003
def aBANKECC (n : Nat) : Nat := 0x080020 + n
def aROWMAP (b w k : Nat) : Nat := 0x080400 + 32 * b + 8 * w + k
def aTAMPSTAT : Nat := 0x090000
def aSENSCFG (i : Nat) : Nat := 0x090010 + i
def aSENSSTAT (i : Nat) : Nat := 0x090020 + i
def aDBGCFG : Nat := 0x090040
def aDBGSTAT : Nat := 0x090041
def aDBGKEY (k : Nat) : Nat := 0x090042 + k
def aISLENV (i : Nat) : Nat := 0x0A0000 + i
def aISLSTAT (i : Nat) : Nat := 0x0A0020 + i

/-! ## Private registers (R548) -/

def oTHRESH : Nat := 0x002
def oEVMASK : Nat := 0x003
def oWDOGCFG : Nat := 0x010
def oWDOGSTAT : Nat := 0x011
def oCORESTAT : Nat := 0x012
def oCMPMAP : Nat := 0x040
def oRSDEPTH : Nat := 0x048
def oRSENT (k : Nat) : Nat := 0x050 + k
def oPMSEL (n : Nat) : Nat := 0x080 + n
def oPMCNT (n : Nat) : Nat := 0x084 + n
def oTRAPSTAT : Nat := 0x0C0
def oTRAPCNT : Nat := 0x0C1
def oDBGBRK (n : Nat) : Nat := 0x0E0 + n

/-! ## Field registers (R549) -/

def fSUPSTAT : Nat := 0x0010
def fSUPCFG : Nat := 0x0011
def fBYPCTL : Nat := 0x0020
def fBYPSTAT : Nat := 0x0021
def fHBTO : Nat := 0x0030
def fPPSSEL : Nat := 0x0031
def fMIRCH (k : Nat) : Nat := 0x0040 + k
def fLANCH (k : Nat) : Nat := 0x0050 + k
def fEPOCH : Nat := 0x005F
def fFTAMPSTAT : Nat := 0x0060
def fFTAMPCFG : Nat := 0x0061
def fCHCFG (c : Nat) : Nat := 0x0100 + c
def fCHTHR (c : Nat) : Nat := 0x0140 + c
def fCHOUT (c : Nat) : Nat := 0x0180 + c
def fCHSTAT (c : Nat) : Nat := 0x01C0 + c
def fHWCH (h : Nat) : Nat := 0x0200 + h
def fSCAN (x e : Nat) : Nat := 0x0300 + 16 * x + e
def fXCFG (x : Nat) : Nat := 0x0400 + x
def fTRIG (t : Nat) : Nat := 0x0410 + t
def fPORTCFG (p : Nat) : Nat := 0x0500 + p
def fJGFLAG (g : Nat) : Nat := 0x0600 + g
def fJCFG (j : Nat) : Nat := 0x0620 + j
def fJSTAT (j : Nat) : Nat := 0x0640 + j
def fJQSTAT (j : Nat) : Nat := 0x0660 + j
def fJCNTA (j : Nat) : Nat := 0x0680 + j
def fJCNTB (j : Nat) : Nat := 0x06A0 + j
def fJCRC (j : Nat) : Nat := 0x06C0 + j
def fJPAT (j : Nat) : Nat := 0x06E0 + j
def fJMSK (j : Nat) : Nat := 0x0700 + j
def fJPX (j : Nat) : Nat := 0x0720 + j
def fJPIN (j p : Nat) : Nat := 0x0800 + 8 * j + p
def fJSTORE (g k : Nat) : Nat := 0x0900 + 64 * g + k

/-! ## BAR0 registers (R551) -/

def bSQ (q o : Nat) : Nat := 0x1000 + 32 * q + o
def bCQ (r o : Nat) : Nat := 0x3000 + 16 * r + o
def bHWIN (w o : Nat) : Nat := 0x4000 + 32 * w + o
def bLRING (o : Nat) : Nat := 0x4800 + o
def bELCOUNT : Nat := 0x5000
def bELCFG : Nat := 0x5004
def bELENT (i o : Nat) : Nat := 0x5100 + 32 * i + o
def bMSIX (v o : Nat) : Nat := 0x8000 + 16 * v + o
def bPBA (k : Nat) : Nat := 0xA000 + 8 * k

end Sys2Proof.Machine
end

