-- ==== Sys2Proof/Machine/Flags.lean ====
section
/-! DEFINITION. The fields of mstat (R174) and the W16 flags of R146: Z, N, C and V of a 16-bit value. -/

namespace Sys2Proof.Machine

/-- What a syllable does to the W16 flags: the 16-bit value whose Z and N are set, C when it changes, and V. -/
structure FlagUpd where
  value : Nat
  c     : Option Bool
  v     : Bool
deriving DecidableEq, Repr

/-- mstat[0]: faults of R49 write POISON. -/
def mPSN (m : Payload) : Bool := m.getLsbD 0

/-- mstat[1]: a return-stack overflow traps. -/
def mRSOV (m : Payload) : Bool := m.getLsbD 1

/-- mstat[2]: COMPAT is active. -/
def mCMP (m : Payload) : Bool := m.getLsbD 2

/-- mstat[3]: QUIET is active. -/
def mQT (m : Payload) : Bool := m.getLsbD 3

/-- mstat[7:4]: Z, N, C, V. -/
def mC16 (m : Payload) : Nat := bits m.toNat 4 4

/-- mstat[8]: interrupts accepted. -/
def mIE (m : Payload) : Bool := m.getLsbD 8

/-- mstat[15:12]: the current handler level. -/
def mLVL (m : Payload) : Nat := bits m.toNat 12 4

/-- mstat with field [lo + w - 1 : lo] set to `v`. -/
def mSet (m : Payload) (lo w v : Nat) : Payload := BitVec.ofNat 36 (setBits m.toNat lo w v)

/-- C16 after a flag update: Z in bit 0, N in bit 1, C in bit 2, V in bit 3 (R146). -/
def newC16 (old : Nat) (f : FlagUpd) : Nat :=
  (f.value % 0x10000 == 0).toNat + 2 * (bitAt f.value 15).toNat +
    4 * (match f.c with | none => bitAt old 2 | some c => c).toNat + 8 * f.v.toNat

/-- mstat after a flag update: only with CMP = 1 (R62, R146). -/
def setFlags (m : Payload) (f : Option FlagUpd) : Payload :=
  match f with
  | none => m
  | some u => if mCMP m then mSet m 4 4 (newC16 (mC16 m) u) else m

/-- The signed overflow of the 16-bit sum `r` of `x` and `y`. -/
def ovAdd16 (x y r : Nat) : Bool := (bitAt x 15 == bitAt y 15) && (bitAt r 15 != bitAt x 15)

/-- The signed overflow of the 16-bit difference `r` of `x` and `y`. -/
def ovSub16 (x y r : Nat) : Bool := (bitAt x 15 != bitAt y 15) && (bitAt r 15 != bitAt x 15)

/-- The flags of a 16-bit sum; Z and N are those of `zn`. -/
def flagAdd (x y zn : Nat) : FlagUpd :=
  { value := zn, c := some (decide (0x10000 ≤ x % 0x10000 + y % 0x10000)),
    v := ovAdd16 x y ((x + y) % 0x10000) }

/-- The flags of a 16-bit difference. -/
def flagSub (x y : Nat) : FlagUpd :=
  { value := (x % 0x10000 + 0x10000 - y % 0x10000) % 0x10000, c := some (decide (x % 0x10000 < y % 0x10000)),
    v := ovSub16 x y ((x % 0x10000 + 0x10000 - y % 0x10000) % 0x10000) }

/-- The flags of a result with C unchanged and V 0. -/
def flagRes (r : Nat) : FlagUpd := { value := r, c := none, v := false }

/-- The flags of abs and neg: V is 1 for 0x8000. -/
def flagNeg (r : Nat) : FlagUpd := { value := r, c := none, v := r % 0x10000 == 0x8000 }

/-- The flags of a shift: C is the last bit shifted or rotated out, unchanged for count 0. -/
def flagShift (r : Nat) (out : Option Bool) : FlagUpd := { value := r, c := out, v := false }

/-- The flags of an LNG result: C and V are 0. -/
def flagLng (r : Nat) : FlagUpd := { value := r, c := some false, v := false }

end Sys2Proof.Machine
end

