-- ==== Sys2Proof/Machine/Shapes.lean ====
section
/-! DEFINITION. The shape of every syllable: class and OP number, which register fields it names and how, which bits
of M it names (R112), and whether it takes a direct target (R81). From the tables of R116, R126, R134, R138, R152,
R163 and R173. -/

namespace Sys2Proof.Machine

/-- How a syllable uses its D field. -/
inductive DUse where
  | none
  | dst (n : Nat)    -- writes D to D + n - 1
  | src (n : Nat)    -- reads D to D + n - 1 (R149)
  | both             -- cas: reads and writes D
  | acc              -- mac: reads and writes D and D + 1 (R140)
  | ins              -- ins: writes D, reads the tag of its prior word (R136)
  | sel              -- sel: writes D; M names the condition register (R132)
  | ctx              -- ctxsw: writes D, reads and writes l0 to l7 (R178)
  | target           -- brc: [29:15] is the direct target (R81)
deriving DecidableEq, Repr

/-- What an entry of the syllable tables says. -/
structure Shape where
  cls    : Nat
  op     : Nat
  a      : Bool
  b      : Bool
  d      : DUse
  m      : Nat
  direct : Bool
deriving DecidableEq, Repr

/-- The shape and the fields of a command that is a syllable; `none` for an event. -/
def sylOf : Instr → Option (Shape × Syl)
  | .nop _ y => some (⟨0, 0, false, false, .none, 0x7FFF, false⟩, y)
  | .br _ y => some (⟨0, 1, false, false, .none, 0x7FFF, true⟩, y)
  | .bt _ y => some (⟨0, 2, true, false, .none, 0x7FFF, true⟩, y)
  | .bf _ y => some (⟨0, 3, true, false, .none, 0x7FFF, true⟩, y)
  | .bz _ y => some (⟨0, 4, true, false, .none, 0x7FFF, true⟩, y)
  | .bnz _ y => some (⟨0, 5, true, false, .none, 0x7FFF, true⟩, y)
  | .brc _ y => some (⟨0, 6, false, false, .target, 0x7F, true⟩, y)
  | .callS _ y => some (⟨0, 7, false, false, .none, 0x7FFF, true⟩, y)
  | .callw _ y => some (⟨0, 8, false, false, .none, 0x7FFF, true⟩, y)
  | .ret _ y => some (⟨0, 9, false, false, .none, 0x0, false⟩, y)
  | .retw _ y => some (⟨0, 10, false, false, .none, 0x0, false⟩, y)
  | .jr _ y => some (⟨0, 11, true, false, .none, 0x0, false⟩, y)
  | .callr _ y => some (⟨0, 12, true, false, .none, 0x0, false⟩, y)
  | .repS _ y => some (⟨0, 13, false, false, .none, 0xFF, false⟩, y)
  | .repi _ y => some (⟨0, 14, true, false, .none, 0x0, false⟩, y)
  | .loopS _ y => some (⟨0, 15, true, false, .none, 0x7FFF, true⟩, y)
  | .wfe _ y => some (⟨0, 16, false, false, .none, 0x0, false⟩, y)
  | .sevCores _ y => some (⟨0, 17, true, false, .none, 0x700F, false⟩, y)
  | .sevHubSource _ y => some (⟨0, 17, false, false, .none, 0x73FF, false⟩, y)
  | .sevJigGroup _ y => some (⟨0, 17, false, false, .none, 0x701F, false⟩, y)
  | .sevFieldTrigger _ y => some (⟨0, 17, false, false, .none, 0x700F, false⟩, y)
  | .waitt _ y => some (⟨0, 18, true, false, .none, 0x3, false⟩, y)
  | .gate _ y => some (⟨0, 19, false, false, .none, 0xFF, false⟩, y)
  | .gret _ y => some (⟨0, 20, false, false, .none, 0x0, false⟩, y)
  | .tret _ y => some (⟨0, 21, false, false, .none, 0x0, false⟩, y)
  | .trap _ y => some (⟨0, 22, false, false, .none, 0xF, false⟩, y)
  | .tfence _ y => some (⟨0, 23, false, false, .none, 0x0, false⟩, y)
  | .park _ y => some (⟨0, 24, false, false, .none, 0x1, false⟩, y)
  | .addS _ y => some (⟨1, 0, true, true, .dst 1, 0x0, false⟩, y)
  | .subS _ y => some (⟨1, 1, true, true, .dst 1, 0x0, false⟩, y)
  | .addcy _ y => some (⟨1, 2, true, true, .dst 1, 0x0, false⟩, y)
  | .subby _ y => some (⟨1, 3, true, true, .dst 1, 0x0, false⟩, y)
  | .andS _ y => some (⟨1, 4, true, true, .dst 1, 0x0, false⟩, y)
  | .orS _ y => some (⟨1, 5, true, true, .dst 1, 0x0, false⟩, y)
  | .xorS _ y => some (⟨1, 6, true, true, .dst 1, 0x0, false⟩, y)
  | .andn _ y => some (⟨1, 7, true, true, .dst 1, 0x0, false⟩, y)
  | .notS _ y => some (⟨1, 8, true, false, .dst 1, 0x0, false⟩, y)
  | .movS _ y => some (⟨1, 9, true, false, .dst 1, 0x0, false⟩, y)
  | .movi _ y => some (⟨1, 10, false, false, .dst 1, 0x7FFF, false⟩, y)
  | .cmpeq _ y => some (⟨1, 11, true, true, .dst 1, 0x0, false⟩, y)
  | .cmpne _ y => some (⟨1, 12, true, true, .dst 1, 0x0, false⟩, y)
  | .cmplt _ y => some (⟨1, 13, true, true, .dst 1, 0x0, false⟩, y)
  | .cmple _ y => some (⟨1, 14, true, true, .dst 1, 0x0, false⟩, y)
  | .cmpltu _ y => some (⟨1, 15, true, true, .dst 1, 0x0, false⟩, y)
  | .cmpleu _ y => some (⟨1, 16, true, true, .dst 1, 0x0, false⟩, y)
  | .minS _ y => some (⟨1, 17, true, true, .dst 1, 0x0, false⟩, y)
  | .maxS _ y => some (⟨1, 18, true, true, .dst 1, 0x0, false⟩, y)
  | .minu _ y => some (⟨1, 19, true, true, .dst 1, 0x0, false⟩, y)
  | .maxu _ y => some (⟨1, 20, true, true, .dst 1, 0x0, false⟩, y)
  | .absS _ y => some (⟨1, 21, true, false, .dst 1, 0x0, false⟩, y)
  | .negS _ y => some (⟨1, 22, true, false, .dst 1, 0x0, false⟩, y)
  | .sel _ y => some (⟨1, 23, true, true, .sel, 0x1F, false⟩, y)
  | .addsat _ y => some (⟨1, 24, true, true, .dst 1, 0x0, false⟩, y)
  | .subsat _ y => some (⟨1, 25, true, true, .dst 1, 0x0, false⟩, y)
  | .tagof _ y => some (⟨1, 26, true, false, .dst 1, 0x0, false⟩, y)
  | .retag _ y => some (⟨1, 27, true, false, .dst 1, 0xF, false⟩, y)
  | .tagchk _ y => some (⟨1, 28, true, false, .none, 0x7FFF, false⟩, y)
  | .shlS _ y => some (⟨2, 0, true, true, .dst 1, 0x7F, false⟩, y)
  | .shr _ y => some (⟨2, 1, true, true, .dst 1, 0x7F, false⟩, y)
  | .sar _ y => some (⟨2, 2, true, true, .dst 1, 0x7F, false⟩, y)
  | .rol _ y => some (⟨2, 3, true, true, .dst 1, 0x7F, false⟩, y)
  | .ror _ y => some (⟨2, 4, true, true, .dst 1, 0x7F, false⟩, y)
  | .extF _ y => some (⟨2, 5, true, false, .dst 1, 0xFFF, false⟩, y)
  | .insF _ y => some (⟨2, 6, true, true, .ins, 0xFFF, false⟩, y)
  | .popc _ y => some (⟨2, 7, true, false, .dst 1, 0x0, false⟩, y)
  | .clz _ y => some (⟨2, 8, true, false, .dst 1, 0x0, false⟩, y)
  | .ctz _ y => some (⟨2, 9, true, false, .dst 1, 0x0, false⟩, y)
  | .brev _ y => some (⟨2, 10, true, false, .dst 1, 0x0, false⟩, y)
  | .sext _ y => some (⟨2, 11, true, false, .dst 1, 0x3F, false⟩, y)
  | .pack16 _ y => some (⟨2, 12, true, true, .dst 1, 0x0, false⟩, y)
  | .unpk16 _ y => some (⟨2, 13, true, false, .dst 1, 0x1, false⟩, y)
  | .mulS _ y => some (⟨3, 0, true, true, .dst 1, 0x0, false⟩, y)
  | .mulh _ y => some (⟨3, 1, true, true, .dst 1, 0x0, false⟩, y)
  | .mulw _ y => some (⟨3, 2, true, true, .dst 2, 0x0, false⟩, y)
  | .mac _ y => some (⟨3, 3, true, true, .acc, 0x0, false⟩, y)
  | .divS _ y => some (⟨3, 4, true, true, .dst 1, 0x0, false⟩, y)
  | .divu _ y => some (⟨3, 5, true, true, .dst 1, 0x0, false⟩, y)
  | .rem _ y => some (⟨3, 6, true, true, .dst 1, 0x0, false⟩, y)
  | .remu _ y => some (⟨3, 7, true, true, .dst 1, 0x0, false⟩, y)
  | .crc _ y => some (⟨3, 8, true, true, .dst 1, 0x7F, false⟩, y)
  | .crcfin _ y => some (⟨3, 9, true, false, .dst 1, 0x3F, false⟩, y)
  | .sqrtu _ y => some (⟨3, 10, true, false, .dst 1, 0x0, false⟩, y)
  | .ld _ y => some (⟨4, 0, true, true, .dst 1, 0x7FFF, false⟩, y)
  | .st _ y => some (⟨4, 1, true, true, .src 1, 0x7FFF, false⟩, y)
  | .ld2 _ y => some (⟨4, 2, true, true, .dst 2, 0x7FFF, false⟩, y)
  | .st2 _ y => some (⟨4, 3, true, true, .src 2, 0x7FFF, false⟩, y)
  | .ld4 _ y => some (⟨4, 4, true, true, .dst 4, 0x7FFF, false⟩, y)
  | .st4 _ y => some (⟨4, 5, true, true, .src 4, 0x7FFF, false⟩, y)
  | .ldAcq _ y => some (⟨4, 6, true, true, .dst 1, 0x7FFF, false⟩, y)
  | .stRel _ y => some (⟨4, 7, true, true, .src 1, 0x7FFF, false⟩, y)
  | .swap _ y => some (⟨4, 8, true, true, .dst 1, 0x7FFF, false⟩, y)
  | .cas _ y => some (⟨4, 9, true, true, .both, 0x7FFF, false⟩, y)
  | .fadd _ y => some (⟨4, 10, true, true, .dst 1, 0x7FFF, false⟩, y)
  | .fenceLl _ y => some (⟨4, 11, false, false, .none, 0x0, false⟩, y)
  | .fenceSs _ y => some (⟨4, 12, false, false, .none, 0x0, false⟩, y)
  | .fenceFull _ y => some (⟨4, 13, false, false, .none, 0x0, false⟩, y)
  | .fenceIo _ y => some (⟨4, 14, false, false, .none, 0x0, false⟩, y)
  | .movb _ y => some (⟨4, 15, true, true, .src 1, 0x0, false⟩, y)
  | .pin _ y => some (⟨4, 16, true, false, .dst 1, 0x1FF, false⟩, y)
  | .unpin _ y => some (⟨4, 16, true, false, .dst 1, 0x1FF, false⟩, y)
  | .lease _ y => some (⟨4, 17, true, false, .dst 1, 0x0, false⟩, y)
  | .inIo _ y => some (⟨5, 0, true, true, .dst 1, 0x7FFF, false⟩, y)
  | .outIo _ y => some (⟨5, 1, true, true, .src 1, 0x7FFF, false⟩, y)
  | .fsend _ y => some (⟨5, 2, true, true, .dst 1, 0xFF, false⟩, y)
  | .frecv _ y => some (⟨5, 3, false, false, .dst 3, 0x0, false⟩, y)
  | .ciphKeyWrap _ y => some (⟨5, 4, true, true, .src 1, 0xF, false⟩, y)
  | .ciphKeyUnwrap _ y => some (⟨5, 4, true, true, .src 1, 0xF, false⟩, y)
  | .ciphCbcEncrypt _ y => some (⟨5, 4, true, true, .src 1, 0xF, false⟩, y)
  | .ciphCbcDecrypt _ y => some (⟨5, 4, true, true, .src 1, 0xF, false⟩, y)
  | .ciphCtr _ y => some (⟨5, 4, true, true, .src 1, 0xF, false⟩, y)
  | .ciphGcmEncrypt _ y => some (⟨5, 4, true, true, .src 1, 0xF, false⟩, y)
  | .ciphGcmDecrypt _ y => some (⟨5, 4, true, true, .src 1, 0xF, false⟩, y)
  | .ciphCcmEncrypt _ y => some (⟨5, 4, true, true, .src 1, 0xF, false⟩, y)
  | .ciphCcmDecrypt _ y => some (⟨5, 4, true, true, .src 1, 0xF, false⟩, y)
  | .ciphCmacGenerate _ y => some (⟨5, 4, true, true, .src 1, 0xF, false⟩, y)
  | .ciphCmacVerify _ y => some (⟨5, 4, true, true, .src 1, 0xF, false⟩, y)
  | .cwait _ y => some (⟨5, 5, false, false, .dst 1, 0x0, false⟩, y)
  | .ledg _ y => some (⟨5, 6, true, false, .dst 1, 0x7FFF, false⟩, y)
  | .claim _ y => some (⟨5, 7, false, false, .dst 1, 0x0, false⟩, y)
  | .cmpl _ y => some (⟨5, 8, true, false, .none, 0x0, false⟩, y)
  | .postS _ y => some (⟨5, 9, true, true, .dst 1, 0xFF, false⟩, y)
  | .mfc _ y => some (⟨6, 0, false, false, .dst 1, 0x1F, false⟩, y)
  | .mtc _ y => some (⟨6, 1, true, false, .none, 0x1F, false⟩, y)
  | .csld _ y => some (⟨6, 2, true, false, .dst 2, 0x0, false⟩, y)
  | .csst _ y => some (⟨6, 3, true, true, .src 1, 0x0, false⟩, y)
  | .cssync _ y => some (⟨6, 4, false, false, .none, 0x0, false⟩, y)
  | .pflush _ y => some (⟨6, 5, false, false, .none, 0x0, false⟩, y)
  | .pbar _ y => some (⟨6, 6, false, false, .none, 0x1FF, false⟩, y)
  | .pbarClear _ y => some (⟨6, 6, false, false, .none, 0x1FF, false⟩, y)
  | .ctxsw _ y => some (⟨6, 7, true, false, .ctx, 0x0, false⟩, y)
  | .tagset _ y => some (⟨6, 8, true, false, .dst 1, 0xF, false⟩, y)
  | .splice _ y => some (⟨6, 9, true, true, .dst 1, 0x0, false⟩, y)
  | .modeS _ y => some (⟨6, 10, true, false, .dst 1, 0xFF, false⟩, y)
  | _ => none

/-- The registers that a syllable writes, by specifier (R71). -/
def destsOf (h : Shape) (y : Syl) : List Nat :=
  match h.d with
  | .dst n => (List.range n).map (y.d.toNat + ·)
  | .both | .ins | .sel => [y.d.toNat]
  | .acc => [y.d.toNat, y.d.toNat + 1]
  | .ctx => y.d.toNat :: (List.range 8).map (16 + ·)
  | _ => []

/-- The registers that a syllable reads, by specifier (R194). -/
def readsOf (h : Shape) (y : Syl) : List Nat :=
  (if h.a then [y.a.toNat] else []) ++ (if h.b && y.ext.isNone then [y.b.toNat] else []) ++
  match h.d with
  | .src n => (List.range n).map (y.d.toNat + ·)
  | .both | .ins => [y.d.toNat]
  | .acc => [y.d.toNat, y.d.toNat + 1]
  | .sel => [y.m.toNat % 32]
  | .ctx => (List.range 8).map (16 + ·)
  | _ => []

/-- Is a field that the entry does not name nonzero (R112)? -/
def unnamed (h : Shape) (y : Syl) : Bool :=
  (!h.a && decide (h.d ≠ .target) && y.a != 0) ||
  (!h.b && decide (h.d ≠ .target) && y.ext.isNone && y.b != 0) || (h.direct && y.ext.isSome && y.b != 0) ||
  (decide (h.d = .none) && y.d != 0) ||
  (y.m.toNat &&& (0x7FFF - h.m)) != 0

/-- Is an EXT before the syllable misused, or a tag bit field of its B out of range (R70, R113)? -/
def extMisuse (h : Shape) (y : Syl) : Bool :=
  match y.ext with
  | none => false
  | some _ => !(h.direct || h.b) || decide (1 < y.b.toNat)

/-- Does the EXT of a direct syllable carry bits beyond its target (R81)? -/
def extFar (h : Shape) (y : Syl) : Bool := h.direct && ((y.ext.map fun p => decide (p.toNat / 2 ^ 20 ≠ 0)).getD false)

/-- How many syllables of a class a microword may hold (R67). -/
def classMax (cls : Nat) : Nat := if cls == 1 then 2 else 1

/-- The number of slots of a syllable with its EXT. -/
def slotsOf (y : Syl) : Nat := if y.ext.isSome then 2 else 1

end Sys2Proof.Machine
end

