-- ==== Sys2Proof/Machine/Operands.lean ====
section
/-! DEFINITION. Registers and windows, operands with their tag checks (R39), the arithmetic pairs of R40, the reading of
operands for comparisons (R129), POISON (R49 to R52), and what a syllable may give: a result or a flaw. -/

namespace Sys2Proof.Machine

/-- A trap before it is taken: its cause, fault address, fault info, faulting tag and progress words (R227, R237). -/
structure Trp where
  cause : Nat
  addr  : Word
  info  : Word
  ftag  : Option Nat
  prog0 : Nat
  prog1 : Nat
deriving DecidableEq, Repr

/-- Why a syllable gives no result: a trap; a trap that PSN turns into POISON with subcode `sub` (R49); a trap of an
access that a PORT syllable makes only when no other syllable faults (R164); or a POISON operand (R51). -/
inductive Flaw where
  | trap (t : Trp)
  | soft (sub : Nat) (t : Trp)
  | late (t : Trp)
  | poison (w : Word)
deriving DecidableEq, Repr

/-- A result or a flaw. -/
abbrev Res (α : Type) := Except Flaw α

/-- A trap with no progress. -/
def trp (cause : Nat) (addr info : Word) : Trp := ⟨cause, addr, info, none, 0, 0⟩

/-- A TAGV trap (R45). -/
def tagvT (slot sub tag role : Nat) (addr : Word) : Trp :=
  ⟨0x01, addr, natW (sub + tag * 0x100 + slot * 0x1000 + role * 0x8000), some tag, 0, 0⟩

/-- TAGV as a flaw of a syllable. -/
def tagvF (slot sub : Nat) (w : Word) (role : Nat) : Flaw := .soft sub (tagvT slot sub (wtag w).code role (natW 0))

/-- TAGV with a fault address. -/
def tagvA (slot sub : Nat) (w : Word) (role : Nat) (addr : Word) : Flaw :=
  .soft sub (tagvT slot sub (wtag w).code role addr)

/-- ILLOP at `slot` of the microword at `mpc` (R73). -/
def illop (mpc : Link) (slot sub : Nat) : Trp := trp 0x0F (linkW mpc) (natW (sub + slot * 0x1000))

/-- PRIV with its subcode and fault address (R228). -/
def privT (sub : Nat) (addr : Word) : Trp := trp 0x08 addr (natW sub)

/-- QUIETV of row `row` of R215 (R227). -/
def quietT (row : Nat) (addr : Word) : Trp := trp 0x12 addr (natW row)

/-! ## Registers -/

/-- The index of the register that specifier `d` names in window `cur`: 0 to 7 the globals, 8 + 16 w + j register j of
window w, locals first (R86, R149 of the register codes). Ins are the outs of the window below. -/
def regIdx (cur d : Nat) : Nat :=
  if d < 8 then d
  else if d < 16 then 8 + 16 * ((cur + 15) % 16) + d
  else 8 + 16 * (cur % 16) + (d - 16)

/-- The word of the register that `d` names; g0 reads NAT:0 (R38). -/
def regGet (k : Core) (d : Nat) : Word := if d = 0 then natW 0 else tabGet emptyW k.regs (regIdx k.cur d)

/-- The core with register index `i` holding `w`. -/
def regPutIdx (k : Core) (i : Nat) (w : Word) : Core := { k with regs := tabSet emptyW k.regs i w }

/-- The core with the register that `d` names in window `cur` holding `w`; a write to g0 is discarded. -/
def regPut (k : Core) (cur d : Nat) (w : Word) : Core := if d = 0 then k else regPutIdx k (regIdx cur d) w

/-- A register operand: the recorded word while a re-armed shadow covers it (R194), else the word that the register
holds, a load in its shadow not yet written (R189). -/
def regRead (k : Core) (d : Nat) : Word :=
  match k.rearm with
  | some r => if d ≠ 0 ∧ r.reg = regIdx k.cur d then r.word else regGet k d
  | none => regGet k d

/-! ## Operands -/

/-- What a syllable is executed with: the state before its microword, its core, its slot in the line, its fields, and
whether the LNG unit has passed its timeout (R145). -/
structure Ctx where
  s     : State
  c     : Nat
  k     : Core
  slot  : Nat
  y     : Syl
  lngTo : Bool

/-- The syllable's slot within its microword, which TAGV records (R45). -/
def Ctx.pos (x : Ctx) : Nat := x.slot - x.k.mpc.toNat % 8

/-- Operand a. -/
def opA (x : Ctx) : Word := regRead x.k x.y.a.toNat

/-- Operand b: the register in B, or the EXT immediate under the tag that B[0] gives (R70, R113). -/
def opB (x : Ctx) : Word :=
  match x.y.ext with
  | some p => mkW (if x.y.b.toNat % 2 == 1 then .int else .nat) p.toNat
  | none => regRead x.k x.y.b.toNat

/-- The register D + j as an operand (R149). -/
def opD (x : Ctx) (j : Nat) : Word := regRead x.k (x.y.d.toNat + j)

/-- M as an unsigned number. -/
def mNat (x : Ctx) : Nat := x.y.m.toNat

/-- M sign-extended (R148). -/
def mInt (x : Ctx) : Int := signed 15 x.y.m.toNat

/-- Field [lo + w - 1 : lo] of M. -/
def mF (x : Ctx) (lo w : Nat) : Nat := bits x.y.m.toNat lo w

/-- The mpc of the syllable: its line and its own slot. -/
def sylMpc (x : Ctx) : Link := BitVec.ofNat 20 (x.k.mpc.toNat / 8 * 8 + x.slot)

/-- The POISON that a fault of the syllable writes (R50). -/
def poisonW (x : Ctx) (sub cause : Nat) : Word :=
  mkW .poison ((sylMpc x).toNat * 0x10000 + sub * 0x100 + cause)

/-- The trap of a consumed POISON (R52). -/
def consumeT (w : Word) : Trp := ⟨pay w % 256, natW 0, natW (pay w), some 0xE, 0, 0⟩

/-- The first POISON of a list of operands propagates (R51). -/
def noPoison : List Word → Res Unit
  | [] => .ok ()
  | w :: t => if wtag w = .poison then .error (.poison w) else noPoison t

/-- The first POISON of a list of operands traps (R52). -/
def consume : List Word → Res Unit
  | [] => .ok ()
  | w :: t => if wtag w = .poison then .error (.trap (consumeT w)) else consume t

/-- The operand `w` in role `role` must carry a tag that `ok` accepts (R39): EMPTY gives SUB 0x01, another tag 0x02. -/
def need (x : Ctx) (role : Nat) (ok : Tag → Bool) (w : Word) : Res Unit :=
  if wtag w = .empty then .error (tagvF x.pos 0x01 w role)
  else if ok (wtag w) then .ok () else .error (tagvF x.pos 0x02 w role)

/-- Accepts NAT. -/
def isNat (t : Tag) : Bool := t = .nat
/-- Accepts INT. -/
def isInt (t : Tag) : Bool := t = .int
/-- Accepts BOOL. -/
def isBool (t : Tag) : Bool := t = .bool
/-- Accepts SHORT16. -/
def isShort (t : Tag) : Bool := t = .short16
/-- Accepts TIME. -/
def isTime (t : Tag) : Bool := t = .time
/-- Accepts LINK. -/
def isLink (t : Tag) : Bool := t = .link
/-- Accepts ADDR-D. -/
def isAddrD (t : Tag) : Bool := t = .addrD
/-- Accepts ADDR-IO. -/
def isAddrIO (t : Tag) : Bool := t = .addrIO
/-- Accepts KEYREF. -/
def isKeyref (t : Tag) : Bool := t = .keyref
/-- Accepts SESSION. -/
def isSession (t : Tag) : Bool := t = .session
/-- Accepts BITS. -/
def isBits (t : Tag) : Bool := t = .bits
/-- Accepts any tag but EMPTY. -/
def isAny (_ : Tag) : Bool := true
/-- Accepts NAT and INT. -/
def isNI (t : Tag) : Bool := t = .nat || t = .int
/-- Accepts NAT and BITS. -/
def isNB (t : Tag) : Bool := t = .nat || t = .bits
/-- Accepts NAT, INT and BITS. -/
def isNIB (t : Tag) : Bool := t = .nat || t = .int || t = .bits
/-- Accepts the logic tags. -/
def isLogic (t : Tag) : Bool := t = .nat || t = .int || t = .bits || t = .bool
/-- Accepts what bz and bnz test. -/
def isBz (t : Tag) : Bool := t = .nat || t = .int || t = .bits || t = .bool || t = .short16
/-- Accepts NAT, BITS and SHORT16. -/
def isNBS (t : Tag) : Bool := t = .nat || t = .bits || t = .short16
/-- Accepts what abs and neg take. -/
def isSigned (t : Tag) : Bool := t = .int || t = .meas || t = .wide || t = .short16

/-! ## Values -/

/-- The width of a tag's arithmetic (R40, R127). -/
def tagWidth : Tag → Nat
  | .short16 => 16
  | .meas => 32
  | .addrIO => 24
  | _ => 36

/-- The true value of an operand for cmplt, cmple, min and max (R129). -/
def trueVal (w : Word) : Int :=
  match wtag w with
  | .int => signed 36 (pay w)
  | .short16 => signed 16 (pay w)
  | .meas => signed 32 (pay w)
  | _ => (pay w : Nat)

/-- The unsigned value of an operand for cmpltu, cmpleu, minu and maxu (R129). -/
def unsVal (w : Word) : Nat :=
  match wtag w with
  | .short16 => pay w % 2 ^ 16
  | .meas => pay w % 2 ^ 32
  | _ => pay w

/-- Is a MEAS unit code defined (R64)? -/
def unitOk (u : Nat) : Bool := u != 0xD && u != 0xE

/-- The unit code of a MEAS word. -/
def unitOf (w : Word) : Nat := pay w / 2 ^ 32

/-- Which rows of R40 a syllable accepts. -/
structure Rows where
  sub     : Bool   -- it subtracts: rows marked "a only" and "sub only"
  subOnly : Bool   -- the rows marked "sub only" are accepted
  bool    : Bool   -- the BOOL row is accepted
  sat     : Bool   -- only the rows of R41
deriving DecidableEq, Repr

/-- The tags that stand in some row of R40 other than the BOOL row. -/
def isNum (t : Tag) : Bool :=
  t = .nat || t = .int || t = .short16 || t = .meas || t = .time || t = .addrD || t = .addrIO || t = .wide

/-- The result tag of a pair of tags, `none` when the pair is not accepted (R40, R41). -/
def rowTag (r : Rows) (a b : Tag) : Option Tag :=
  let t : Option Tag :=
    match a, b with
    | .bool, .bool => none
    | t, .bool => if r.bool && isNum t then some t else none
    | .bool, t => if r.bool && !r.sub && isNum t then some t else none
    | .nat, .nat => some .nat
    | .nat, .int => some .int
    | .int, .nat => some .int
    | .int, .int => some .int
    | .short16, .short16 => some .short16
    | .meas, .meas => some .meas
    | .wide, .wide => some .wide
    | .wide, .nat => some .wide
    | .wide, .int => some .wide
    | .nat, .wide => some .wide
    | .int, .wide => some .wide
    | .time, .time => if r.sub && r.subOnly then some .int else none
    | .addrD, .addrD => if r.sub && r.subOnly then some .int else none
    | .time, .nat => some .time
    | .time, .int => some .time
    | .addrD, .nat => some .addrD
    | .addrD, .int => some .addrD
    | .addrIO, .nat => some .addrIO
    | .addrIO, .int => some .addrIO
    | .nat, .time => if r.sub then none else some .time
    | .int, .time => if r.sub then none else some .time
    | .nat, .addrD => if r.sub then none else some .addrD
    | .int, .addrD => if r.sub then none else some .addrD
    | .nat, .addrIO => if r.sub then none else some .addrIO
    | .int, .addrIO => if r.sub then none else some .addrIO
    | _, _ => none
  if r.sat then t.filter (fun t => t = .nat || t = .int || t = .short16 || t = .meas) else t

/-- Does some pair accept `a` as operand a? -/
def rowA (r : Rows) (a : Tag) : Bool :=
  if r.sat then a = .nat || a = .int || a = .short16 || a = .meas
  else isNum a || (a = .bool && r.bool && !r.sub)

/-- The result tag of operands under the rows of R40. EMPTY gives SUB 0x01, an unaccepted pair 0x02 with the operand
whose tag no pair accepts, or b; different units 0x03; a reserved unit 0x02 (R45, R64; log entry 12). -/
def rowOf (x : Ctx) (r : Rows) (a b : Word) : Res Tag :=
  if wtag a = .empty then .error (tagvF x.pos 0x01 a 0)
  else if wtag b = .empty then .error (tagvF x.pos 0x01 b 1)
  else match rowTag r (wtag a) (wtag b) with
    | none => if rowA r (wtag a) then .error (tagvF x.pos 0x02 b 1) else .error (tagvF x.pos 0x02 a 0)
    | some t =>
      if wtag a = .meas && wtag b = .meas then
        if unitOf a ≠ unitOf b then .error (tagvF x.pos 0x03 b 1)
        else if unitOk (unitOf a) then .ok t else .error (tagvF x.pos 0x02 a 0)
      else .ok t

/-- A word of tag `t` with value `v` modulo the tag's width; a MEAS keeps the unit of `a` (R40). -/
def rowW (t : Tag) (a : Word) (v : Nat) : Word :=
  if t = .meas then mkW .meas (pay a / 2 ^ 32 * 2 ^ 32 + v % 2 ^ 32) else mkW t (v % 2 ^ tagWidth t)

/-- The sum of a pair under result tag `t`. -/
def rowAdd (t : Tag) (a b : Word) : Word := rowW t (if wtag a = .bool then b else a) (pay a % 2 ^ tagWidth t + pay b % 2 ^ tagWidth t)

/-- The difference of a pair under result tag `t`. -/
def rowSub (t : Tag) (a b : Word) : Word :=
  rowW t a (pay a % 2 ^ tagWidth t + 2 ^ tagWidth t - pay b % 2 ^ tagWidth t)

/-- Addresses of MEM and PORT syllables: base + index + offset under R40 (R148), modulo 2^36 or 2^24. -/
def effAddr (w : Nat) (base index : Word) (off : Int) : Nat :=
  (((pay base : Int) + (pay index : Int) + off) % (2 ^ w : Nat)).toNat

/-- The payload limit of a tag (R36). -/
def tagLimit (t : Tag) (p : Nat) : Bool :=
  match t with
  | .bool => p < 2
  | .short16 => p < 2 ^ 16
  | .meas => unitOk (p / 2 ^ 32)
  | .addrIO => p < 2 ^ 24
  | .link => p < 2 ^ 20
  | .session => p < 2 ^ 32
  | _ => true

end Sys2Proof.Machine
end

