-- ==== Sys2Proof/Machine/Acc.lean ====
section
/-! DEFINITION. What the syllables of one microword gather before it retires (R71): register words, loads with their
shadow, the fault in slot order, waits, the transfer, and the state with the other effects. It is never part of State. -/

namespace Sys2Proof.Machine

/-- What a microword has gathered. `faultSt` is what stands although the fault is taken (the words that a movb has moved). `fault` and `hold` are the first in slot order; `late` and `lateHold` belong to a
PORT access, which is made only when no other syllable faults (R164). -/
structure Acc where
  st       : State
  writes   : List (Nat × Word)
  loads    : List (Nat × Word)
  fault    : Option Trp
  faultSt  : State → State
  hold     : Option (Wait × State)
  late     : Option Trp
  lateHold : Option (Wait × State)
  xfer     : Option Link
  branch   : Option (Nat × Bool)
  trapN    : Option Trp
  rep      : Option (Nat × Bool)
  loop     : Option (Link × Link × Nat)
  after    : State → State

/-- Nothing gathered yet. -/
def Acc.start (s : State) : Acc where
  st := s
  writes := []
  loads := []
  fault := none
  faultSt := id
  hold := none
  late := none
  lateHold := none
  xfer := none
  branch := none
  trapN := none
  rep := none
  loop := none
  after := id

/-- The meaning of a syllable inside its microword. -/
abbrev Sem := Ctx → Acc → Acc

/-- A fault of the next slot: it stands only when no earlier slot faulted or waits (R229). -/
def Acc.addFault (a : Acc) (t : Trp) : Acc :=
  if a.fault.isNone && a.hold.isNone then { a with fault := some t } else a

/-- A fault of the next slot that leaves an effect behind. -/
def Acc.addFaultSt (a : Acc) (t : Trp) (f : State → State) : Acc :=
  if a.fault.isNone && a.hold.isNone then { a with fault := some t, faultSt := f } else a

/-- A wait of the next slot. -/
def Acc.addHold (a : Acc) (w : Wait) (s : State) : Acc :=
  if a.fault.isNone && a.hold.isNone then { a with hold := some (w, s) } else a

/-- A register word at retirement. -/
def Acc.put (a : Acc) (d : Nat) (w : Word) : Acc := { a with writes := a.writes ++ [(d, w)] }

/-- The same word to several registers. -/
def Acc.putAll (a : Acc) (ds : List Nat) (w : Word) : Acc := { a with writes := a.writes ++ ds.map (·, w) }

/-- Loaded words, which reach their registers after the load shadow (R189). -/
def Acc.load (a : Acc) (l : List (Nat × Word)) : Acc := { a with loads := a.loads ++ l }

/-- An effect on the state. -/
def Acc.eff (a : Acc) (f : State → State) : Acc := { a with st := f a.st }

/-- The W16 flags of a result (R146). -/
def Acc.flag (a : Acc) (c : Nat) (u : Option FlagUpd) : Acc :=
  a.eff fun s => modCore s c fun k => { k with mstat := setFlags k.mstat u }

/-- A flaw of a syllable with destinations `dsts`: POISON under PSN where R49 says so, the operand's POISON, or a
fault. -/
def flawed (x : Ctx) (dsts : List Nat) (a : Acc) : Flaw → Acc
  | .trap t => a.addFault t
  | .soft sub t => if mPSN x.k.mstat && dsts ≠ [] then a.putAll dsts (poisonW x sub t.cause) else a.addFault t
  | .late t => { a with late := a.late <|> some t }
  | .poison w => a.putAll dsts w

/-- The outcome of a syllable: what it gathers, or its flaw. -/
def outcome (x : Ctx) (dsts : List Nat) (a : Acc) (r : Res Acc) : Acc :=
  match r with
  | .ok a' => a'
  | .error f => flawed x dsts a f

/-- An ALU or SHF syllable: its word goes to D and its flags to C16 (R115). -/
def semWord (f : Ctx → Res (Word × Option FlagUpd)) : Sem := fun x a =>
  match f x with
  | .ok (w, u) => (a.put x.y.d.toNat w).flag x.c u
  | .error e => flawed x [x.y.d.toNat] a e

/-- An LNG syllable with OP `op`: its words go to D and, for a pair, D + 1, once its unit has delivered them (R139);
until `lngDone` is set its microword waits, and past the timeout it raises LNGTO (R145). -/
def semLng (op n : Nat) (f : Ctx → Res (List Word × Option FlagUpd)) : Sem := fun x a =>
  match f x with
  | .ok (ws, u) =>
    if x.k.lngDone then
      (Acc.flag { a with writes := a.writes ++ ((List.range n).map (x.y.d.toNat + ·)).zip ws } x.c u)
    else if x.lngTo then flawed x ((List.range n).map (x.y.d.toNat + ·)) a (.soft 0 (trp 0x07 (natW 0) (natW op)))
    else a.addHold .lng x.s
  | .error e => flawed x ((List.range n).map (x.y.d.toNat + ·)) a e

end Sys2Proof.Machine
end

