-- ==== Sys2Proof/Machine/Alu.lean ====
section
/-! DEFINITION. The ALU syllables (R126 to R133, R39 to R48): what each writes and which W16 flags it sets (R146). -/

namespace Sys2Proof.Machine

/-- The result of an ALU or SHF syllable: its word and its flags, or a flaw. -/
abbrev WordRes := Res (Word × Option FlagUpd)

/-- The rows that add accepts. -/
def rowsAdd : Rows := ⟨false, true, true, false⟩
/-- The rows that sub accepts. -/
def rowsSub : Rows := ⟨true, true, true, false⟩
/-- The rows that addcy accepts. -/
def rowsAddcy : Rows := ⟨false, true, false, false⟩
/-- The rows that subby accepts. -/
def rowsSubby : Rows := ⟨true, true, false, false⟩
/-- The rows that min, max, minu and maxu accept (R130). -/
def rowsOrder : Rows := ⟨false, false, false, false⟩
/-- The rows that addsat accepts (R41). -/
def rowsAddsat : Rows := ⟨false, false, false, true⟩
/-- The rows that subsat accepts (R41). -/
def rowsSubsat : Rows := ⟨true, false, false, true⟩

/-- The flags of a word: those of `u` when it is SHORT16 (R146). -/
def flagsOf (w : Word) (u : FlagUpd) : Option FlagUpd := if wtag w = .short16 then some u else none

/-- add (R40). -/
def resAdd (x : Ctx) : WordRes := do
  noPoison [opA x, opB x]
  let t ← rowOf x rowsAdd (opA x) (opB x)
  let w := rowAdd t (opA x) (opB x)
  return (w, flagsOf w (flagAdd (pay (opA x)) (pay (opB x)) (pay w)))

/-- sub (R40). -/
def resSub (x : Ctx) : WordRes := do
  noPoison [opA x, opB x]
  let t ← rowOf x rowsSub (opA x) (opB x)
  let w := rowSub t (opA x) (opB x)
  return (w, flagsOf w (flagSub (pay (opA x)) (pay (opB x))))

/-- addcy: the carry out of the row's width (R127). -/
def resAddcy (x : Ctx) : WordRes := do
  noPoison [opA x, opB x]
  let t ← rowOf x rowsAddcy (opA x) (opB x)
  let w := tagWidth t
  return (boolW (decide (2 ^ w ≤ pay (opA x) % 2 ^ w + pay (opB x) % 2 ^ w)),
    if t = .short16 then some (flagAdd (pay (opA x)) (pay (opB x)) (pay (opA x) + pay (opB x))) else none)

/-- subby: a below b as an unsigned number of the row's width (R127). -/
def resSubby (x : Ctx) : WordRes := do
  noPoison [opA x, opB x]
  let t ← rowOf x rowsSubby (opA x) (opB x)
  let w := tagWidth t
  return (boolW (decide (pay (opA x) % 2 ^ w < pay (opB x) % 2 ^ w)),
    if t = .short16 then some (flagSub (pay (opA x)) (pay (opB x))) else none)

/-- The result tag of a logic syllable (R39). -/
def logicTag (l : List Tag) : Tag :=
  if l.all (· = .bool) then .bool else if l.all (· = .nat) then .nat else .bits

/-- Every bit of a payload inverted; only bit 0 of a BOOL (R128). -/
def invert (t : Tag) (p : Nat) : Nat := if t = .bool then 1 - p % 2 else 2 ^ 36 - 1 - p

/-- A logic syllable on two operands (R128). -/
def resLogic (f : Tag → Nat → Nat → Nat) (x : Ctx) : WordRes := do
  noPoison [opA x, opB x]
  need x 0 isLogic (opA x)
  need x 1 isLogic (opB x)
  let t := logicTag [wtag (opA x), wtag (opB x)]
  return (mkW t (f t (pay (opA x)) (pay (opB x))), none)

/-- and. -/
def resAnd : Ctx → WordRes := resLogic fun _ a b => a &&& b
/-- or. -/
def resOr : Ctx → WordRes := resLogic fun _ a b => a ||| b
/-- xor. -/
def resXor : Ctx → WordRes := resLogic fun _ a b => a ^^^ b
/-- andn: a AND NOT b. -/
def resAndn : Ctx → WordRes := resLogic fun t a b => a &&& invert t b

/-- not. -/
def resNot (x : Ctx) : WordRes := do
  noPoison [opA x]
  need x 0 isLogic (opA x)
  let t := logicTag [wtag (opA x)]
  return (mkW t (invert t (pay (opA x))), none)

/-- mov: a's word unchanged, POISON included. -/
def resMov (x : Ctx) : WordRes := do
  need x 0 isAny (opA x)
  return (opA x, flagsOf (opA x) (flagRes (pay (opA x))))

/-- movi: INT; SHORT16 under COMPAT (R62). -/
def resMovi (x : Ctx) : WordRes :=
  let w := if mCMP x.k.mstat then mkW .short16 ((mInt x % 2 ^ 16).toNat) else intW (mInt x)
  .ok (w, flagsOf w (flagRes (pay w)))

/-- The flags of a comparison: those of a - b on a SHORT16 pair (R146). -/
def cmpFlags (a b : Word) : Option FlagUpd :=
  if wtag a = .short16 && wtag b = .short16 then some (flagSub (pay a) (pay b)) else none

/-- cmpeq and cmpne: all 40 bits compared (R39). -/
def resCmpEq (ne : Bool) (x : Ctx) : WordRes := do
  noPoison [opA x, opB x]
  need x 0 isAny (opA x)
  need x 1 isAny (opB x)
  return (boolW ((opA x == opB x) != ne), cmpFlags (opA x) (opB x))

/-- cmpeq. -/
def resCmpeq : Ctx → WordRes := resCmpEq false
/-- cmpne. -/
def resCmpne : Ctx → WordRes := resCmpEq true

/-- The tags that some pair of cmplt and cmple, or of cmpltu and cmpleu, accepts (R39). -/
def cmpTag (sgn : Bool) (t : Tag) : Bool :=
  t = .nat || t = .int || t = .short16 || t = .meas || t = .time || t = .addrD || t = .addrIO || t = .wide ||
  (!sgn && t = .bits)

/-- Is the pair accepted by cmplt and cmple (`sgn`) or by cmpltu and cmpleu (R39)? -/
def cmpPair (sgn : Bool) (a b : Tag) : Bool :=
  if sgn then (isNI a && isNI b) || (a = b && cmpTag true a) || (a = .time && isNI b) || (isNI a && b = .time)
  else (isNIB a && isNIB b) || (a = b && cmpTag false a)

/-- The checks of an ordered comparison. -/
def cmpCheck (x : Ctx) (sgn : Bool) (a b : Word) : Res Unit :=
  if wtag a = .empty then .error (tagvF x.pos 0x01 a 0)
  else if wtag b = .empty then .error (tagvF x.pos 0x01 b 1)
  else if !cmpPair sgn (wtag a) (wtag b) then
    (if cmpTag sgn (wtag a) then .error (tagvF x.pos 0x02 b 1) else .error (tagvF x.pos 0x02 a 0))
  else if wtag a = .meas && unitOf a ≠ unitOf b then .error (tagvF x.pos 0x03 b 1)
  else if wtag a = .meas && !unitOk (unitOf a) then .error (tagvF x.pos 0x02 a 0)
  else .ok ()

/-- Is the pair a TIME with a NAT or INT, which compares unsigned (R39)? -/
def timeMix (a b : Word) : Bool := (wtag a = .time && isNI (wtag b)) || (isNI (wtag a) && wtag b = .time)

/-- a is less than b as cmplt, min and max read them: half-range for two TIME, unsigned for TIME with NAT or INT, true
values otherwise (R42, R129). -/
def ltS (a b : Word) : Bool :=
  if wtag a = .time && wtag b = .time then decide (2 ^ 35 ≤ (pay a + 2 ^ 36 - pay b) % 2 ^ 36)
  else if timeMix a b then decide (pay a < pay b)
  else decide (trueVal a < trueVal b)

/-- Two operands are the same value as cmple reads them. -/
def eqS (a b : Word) : Bool :=
  if wtag a = .time || wtag b = .time then pay a == pay b else trueVal a == trueVal b

/-- cmplt and cmple. -/
def resCmpS (le : Bool) (x : Ctx) : WordRes := do
  noPoison [opA x, opB x]
  cmpCheck x true (opA x) (opB x)
  return (boolW (ltS (opA x) (opB x) || (le && eqS (opA x) (opB x))), cmpFlags (opA x) (opB x))

/-- cmplt. -/
def resCmplt : Ctx → WordRes := resCmpS false
/-- cmple. -/
def resCmple : Ctx → WordRes := resCmpS true

/-- cmpltu and cmpleu. -/
def resCmpU (le : Bool) (x : Ctx) : WordRes := do
  noPoison [opA x, opB x]
  cmpCheck x false (opA x) (opB x)
  return (boolW (decide (unsVal (opA x) < unsVal (opB x)) || (le && unsVal (opA x) == unsVal (opB x))),
    cmpFlags (opA x) (opB x))

/-- cmpltu. -/
def resCmpltu : Ctx → WordRes := resCmpU false
/-- cmpleu. -/
def resCmpleu : Ctx → WordRes := resCmpU true

/-- The chosen operand under the row's result tag (R130). -/
def chosen (t : Tag) (w : Word) : Word :=
  if t = .int && wtag w = .nat && decide (2 ^ 35 ≤ pay w) then mkW .int (2 ^ 35 - 1)
  else if t = .addrIO then mkW .addrIO (pay w % 2 ^ 24)
  else mkW t (pay w)

/-- min, max, minu and maxu: on a tie the result is a (R130). -/
def resOrder (takeB : Word → Word → Bool) (x : Ctx) : WordRes := do
  noPoison [opA x, opB x]
  let t ← rowOf x rowsOrder (opA x) (opB x)
  let w := chosen t (if takeB (opA x) (opB x) then opB x else opA x)
  return (w, flagsOf w (flagRes (pay w)))

/-- min. -/
def resMin : Ctx → WordRes := resOrder fun a b => ltS b a
/-- max. -/
def resMax : Ctx → WordRes := resOrder fun a b => ltS a b
/-- minu. -/
def resMinu : Ctx → WordRes := resOrder fun a b => decide (unsVal b < unsVal a)
/-- maxu. -/
def resMaxu : Ctx → WordRes := resOrder fun a b => decide (unsVal a < unsVal b)

/-- abs and neg modulo the width of the tag; a MEAS keeps its unit (R131). -/
def resSigned (isNeg : Bool) (x : Ctx) : WordRes := do
  noPoison [opA x]
  need x 0 isSigned (opA x)
  let t := wtag (opA x)
  if t = .meas && !unitOk (unitOf (opA x)) then .error (tagvF x.pos 0x02 (opA x) 0) else
  let n := tagWidth t
  let p := pay (opA x) % 2 ^ n
  let w := rowW t (opA x) (if isNeg || bitAt p (n - 1) then 2 ^ n - p else p)
  return (w, flagsOf w (flagNeg (pay w)))

/-- abs. -/
def resAbs : Ctx → WordRes := resSigned false
/-- neg. -/
def resNeg : Ctx → WordRes := resSigned true

/-- sel: the condition register stands in M[4:0] (R132). -/
def resSel (x : Ctx) : WordRes := do
  let c := regRead x.k (mF x 0 5)
  noPoison [c, opA x, opB x]
  need x 7 isBool c
  need x 0 isAny (opA x)
  need x 1 isAny (opB x)
  let w := if pay c = 1 then opA x else opB x
  return (w, flagsOf w (flagRes (pay w)))

/-- The least and greatest value that addsat and subsat give (R41). -/
def satRange (t : Tag) : Int × Int :=
  match t with
  | .nat => (0, 2 ^ 36 - 1)
  | .int => (-(2 ^ 35), 2 ^ 35 - 1)
  | .meas => (-(2 ^ 31), 2 ^ 31 - 1)
  | _ => (0, 0xFFFF)

/-- The value of an operand for saturation: SHORT16 unsigned, any other as its true value (R41). -/
def satVal (w : Word) : Int := if wtag w = .short16 then (pay w % 2 ^ 16 : Nat) else trueVal w

/-- A value held within a range. -/
def clampInt (r : Int × Int) (v : Int) : Int := if v < r.1 then r.1 else if r.2 < v then r.2 else v

/-- A word of tag `t` with the saturated value `v`. -/
def satW (t : Tag) (a : Word) (v : Int) : Word := rowW t a (clampInt (satRange t) v % 2 ^ tagWidth t).toNat

/-- addsat (R41). -/
def resAddsat (x : Ctx) : WordRes := do
  noPoison [opA x, opB x]
  let t ← rowOf x rowsAddsat (opA x) (opB x)
  let w := satW t (opA x) (satVal (opA x) + satVal (opB x))
  return (w, flagsOf w (flagAdd (pay (opA x)) (pay (opB x)) (pay w)))

/-- subsat (R41). -/
def resSubsat (x : Ctx) : WordRes := do
  noPoison [opA x, opB x]
  let t ← rowOf x rowsSubsat (opA x) (opB x)
  let w := satW t (opA x) (satVal (opA x) - satVal (opB x))
  return (w, flagsOf w (flagSub (pay (opA x)) (pay (opB x))))

/-- tagof: never traps, and does not propagate POISON (R133). -/
def resTagof (x : Ctx) : WordRes := .ok (natW (wtag (opA x)).code, none)

/-- Does R46 permit the change of tag, and if not with which subcode does it fail? `none` when permitted. -/
def retagSub (f t : Tag) (p : Nat) : Option Nat :=
  if t = .empty || t = f then none
  else
    let lim := if tagLimit t p then none else some 0x04
    match f, t with
    | .nat, .int | .nat, .bits | .int, .nat | .int, .bits | .bits, .nat | .bits, .int => none
    | .nat, .bool | .int, .bool | .bits, .bool => lim
    | .bool, .nat | .bool, .int | .bool, .bits => none
    | .nat, .short16 | .bits, .short16 => lim
    | .short16, .nat | .short16, .int | .short16, .bits => none
    | .nat, .time | .nat, .wide | .bits, .time | .bits, .wide => none
    | .time, .nat | .time, .bits | .wide, .nat | .wide, .bits => none
    | .bits, .meas => lim
    | .meas, .bits => none
    | .nat, .addrD => none
    | .nat, .addrIO => lim
    | .addrD, .nat | .addrIO, .nat => none
    | .nat, .session | .bits, .session => lim
    | .session, .nat | .session, .bits => none
    | .link, .nat => none
    | _, _ => some 0x05

/-- retag (R46). -/
def resRetag (x : Ctx) : WordRes := do
  noPoison [opA x]
  need x 0 isAny (opA x)
  match retagSub (wtag (opA x)) (tagOfCode (mF x 0 4)) (pay (opA x)) with
  | some sub => .error (tagvF x.pos sub (opA x) 0)
  | none => return (mkW (tagOfCode (mF x 0 4)) (pay (opA x)), none)

/-- tagchk: EMPTY always traps; POISON delivers its fault unless bit 13 is set (R48, R52). -/
def semTagchk : Sem := fun x a =>
  if wtag (opA x) = .empty then flawed x [] a (tagvF x.pos 0x01 (opA x) 0)
  else if bitAt (mNat x) ((wtag (opA x)).code - 1) then a
  else if wtag (opA x) = .poison then a.addFault (consumeT (opA x))
  else flawed x [] a (tagvF x.pos 0x0A (opA x) 0)

end Sys2Proof.Machine
end

