-- ==== Sys2Proof/Machine/Shf.lean ====
section
/-! DEFINITION. The SHF syllables (R134 to R137) with their W16 flags (R146). -/

namespace Sys2Proof.Machine

/-- ILLOP 0x01 of a syllable. -/
def illF (x : Ctx) : Flaw := .trap (illop x.k.mpc x.slot 0x01)

/-- The count of a shift: M[5:0] when M[6] = 1, and then B is 0; otherwise operand b, 0 to 63 (R135). -/
def shiftCount (x : Ctx) : Res Nat :=
  if mF x 6 1 = 1 then .ok (mF x 0 6)
  else do
    need x 1 isNI (opB x)
    if 0 ≤ trueVal (opB x) ∧ trueVal (opB x) ≤ 63 then return (pay (opB x)) else .error (tagvF x.pos 0x02 (opB x) 1)

/-- The operands of a shift that may carry POISON. -/
def shiftOps (x : Ctx) : List Word := if mF x 6 1 = 1 then [opA x] else [opA x, opB x]

/-- A shift or rotate: `f` gives the result from width, payload and count, and the last bit out for a count above 0. -/
def resShift (ok : Tag → Bool) (f : Nat → Nat → Nat → Nat × Bool) (x : Ctx) : WordRes := do
  if mF x 6 1 = 1 ∧ x.y.b ≠ 0 then .error (illF x) else
  noPoison (shiftOps x)
  need x 0 ok (opA x)
  let n ← shiftCount x
  let w := tagWidth (wtag (opA x))
  let p := pay (opA x) % 2 ^ w
  let r := mkW (wtag (opA x)) (f w p n).1
  return (r, flagsOf r (flagShift (f w p n).1 (if n = 0 then none else some (f w p n).2)))

/-- shl: bits beyond the width are lost. -/
def shlF (w p n : Nat) : Nat × Bool := (if n < w then p * 2 ^ n % 2 ^ w else 0, decide (n ≤ w) && bitAt p (w - n))

/-- shr: zeros shifted in. -/
def shrF (w p n : Nat) : Nat × Bool := (if n < w then p / 2 ^ n else 0, decide (n ≤ w) && bitAt p (n - 1))

/-- sar: the sign shifted in. -/
def sarF (w p n : Nat) : Nat × Bool :=
  let sgn := bitAt p (w - 1)
  let k := if n < w then n else w
  (p / 2 ^ k + (if sgn then 2 ^ w - 2 ^ (w - k) else 0), if n < w then bitAt p (n - 1) else sgn)

/-- rol: rotated within the width by the count modulo the width. -/
def rolF (w p n : Nat) : Nat × Bool :=
  let k := n % w
  let r := (p * 2 ^ k % 2 ^ w) + p / 2 ^ (w - k)
  (if k = 0 then p else r, bitAt (if k = 0 then p else r) 0)

/-- ror. -/
def rorF (w p n : Nat) : Nat × Bool :=
  let k := n % w
  let r := p / 2 ^ k + (p * 2 ^ (w - k) % 2 ^ w)
  (if k = 0 then p else r, bitAt (if k = 0 then p else r) (w - 1))

/-- shl. -/
def resShl : Ctx → WordRes := resShift isNBS shlF
/-- shr. -/
def resShr : Ctx → WordRes := resShift isNBS shrF
/-- sar. -/
def resSar : Ctx → WordRes := resShift (fun t => isInt t || isShort t) sarF
/-- rol. -/
def resRol : Ctx → WordRes := resShift isNBS rolF
/-- ror. -/
def resRor : Ctx → WordRes := resShift isNBS rorF

/-- ext: the field a[p + n - 1 : p] as NAT (R136). -/
def resExt (x : Ctx) : WordRes := do
  if 36 < mF x 0 6 + (mF x 6 6 + 1) then .error (illF x) else
  noPoison [opA x]
  need x 0 isNIB (opA x)
  return (natW (bits (pay (opA x)) (mF x 0 6) (mF x 6 6 + 1)), none)

/-- ins: a with bits [p + n - 1 : p] replaced by b; the prior word of d gives the tag only (R136). -/
def resIns (x : Ctx) : WordRes := do
  if 36 < mF x 0 6 + (mF x 6 6 + 1) then .error (illF x) else
  noPoison [opA x, opB x]
  need x 0 isNB (opA x)
  need x 1 isNB (opB x)
  let t := if isNB (wtag (opD x 0)) then wtag (opD x 0) else .bits
  return (mkW t (setBits (pay (opA x)) (mF x 0 6) (mF x 6 6 + 1) (pay (opB x))), none)

/-- The zeros above the highest one of a 36-bit payload; 36 for zero. -/
def clzN (p : Nat) : Nat := ((List.range 36).find? fun i => bitAt p (35 - i)).getD 36

/-- The zeros below the lowest one of a 36-bit payload; 36 for zero. -/
def ctzN (p : Nat) : Nat := ((List.range 36).find? fun i => bitAt p i).getD 36

/-- The low `w` bits reversed. -/
def brevN (w p : Nat) : Nat := (List.range w).foldl (fun r i => 2 * r + p / 2 ^ i % 2) 0

/-- popc, clz and ctz. -/
def resCount (f : Nat → Nat) (x : Ctx) : WordRes := do
  noPoison [opA x]
  need x 0 isNIB (opA x)
  return (natW (f (pay (opA x))), none)

/-- popc. -/
def resPopc : Ctx → WordRes := resCount (popCount 36)
/-- clz. -/
def resClz : Ctx → WordRes := resCount clzN
/-- ctz. -/
def resCtz : Ctx → WordRes := resCount ctzN

/-- brev: the bits of the width reversed; C unchanged (R146). -/
def resBrev (x : Ctx) : WordRes := do
  noPoison [opA x]
  need x 0 isNBS (opA x)
  let r := mkW (wtag (opA x)) (brevN (tagWidth (wtag (opA x))) (pay (opA x)))
  return (r, flagsOf r (flagShift (pay r) none))

/-- sext: a[m:0] with bit m copied upward, as INT (R137). -/
def resSext (x : Ctx) : WordRes := do
  if 35 < mF x 0 6 then .error (illF x) else
  noPoison [opA x]
  need x 0 (fun t => isNBS t || t = .meas) (opA x)
  return (intW (signed (mF x 0 6 + 1) (pay (opA x))), none)

/-- pack16. -/
def resPack16 (x : Ctx) : WordRes := do
  noPoison [opA x, opB x]
  need x 0 isShort (opA x)
  need x 1 isShort (opB x)
  return (bitsW (pay (opA x) % 2 ^ 16 * 2 ^ 16 + pay (opB x) % 2 ^ 16), none)

/-- unpk16: the low or the next half word (R137). -/
def resUnpk16 (x : Ctx) : WordRes := do
  noPoison [opA x]
  need x 0 isNB (opA x)
  let r := mkW .short16 (bits (pay (opA x)) (16 * mF x 0 1) 16)
  return (r, flagsOf r (flagRes (pay r)))

end Sys2Proof.Machine
end

