-- ==== Sys2Proof/Machine/Lng.lean ====
section
/-! DEFINITION. The LNG syllables (R138 to R145): products, quotients, CRC and square root. -/

namespace Sys2Proof.Machine

/-- The words of an LNG syllable and its flags, or a flaw. -/
abbrev LngRes := Res (List Word × Option FlagUpd)

/-- The result tag of mul, mulh, div and rem (R39). -/
def lngTag (a b : Tag) : Option Tag :=
  match a, b with
  | .nat, .nat => some .nat
  | .nat, .int | .int, .nat | .int, .int => some .int
  | .short16, .short16 => some .short16
  | _, _ => none

/-- The checks of mul, mulh, div and rem. -/
def lngRow (x : Ctx) : Res Tag :=
  if wtag (opA x) = .empty then .error (tagvF x.pos 0x01 (opA x) 0)
  else if wtag (opB x) = .empty then .error (tagvF x.pos 0x01 (opB x) 1)
  else match lngTag (wtag (opA x)) (wtag (opB x)) with
    | some t => .ok t
    | none =>
      if isNI (wtag (opA x)) || isShort (wtag (opA x)) then .error (tagvF x.pos 0x02 (opB x) 1)
      else .error (tagvF x.pos 0x02 (opA x) 0)

/-- One LNG word with its flags. -/
def lngWord (w : Word) : List Word × Option FlagUpd := ([w], flagsOf w (flagLng (pay w)))

/-- The part of a product that mul (`lo` 0) and mulh (`lo` 1) keep, from the full product modulo 2^72, or 2^32 for
SHORT16 (R141). -/
def productPart (t : Tag) (hi : Bool) (v : Int) : Nat :=
  let w := if t = .short16 then 16 else 36
  let p := (v % (2 ^ (2 * w) : Nat)).toNat
  if hi then p / 2 ^ w else p % 2 ^ w

/-- mul and mulh. -/
def resMulPart (hi : Bool) (x : Ctx) : LngRes := do
  noPoison [opA x, opB x]
  let t ← lngRow x
  return lngWord (mkW t (productPart t hi (trueVal (opA x) * trueVal (opB x))))

/-- mul. -/
def resMul : Ctx → LngRes := resMulPart false
/-- mulh. -/
def resMulh : Ctx → LngRes := resMulPart true

/-- d[2:0] = 7 or d = g0 is ILLOP 0x01 (R140). -/
def pairBad (x : Ctx) : Bool := x.y.d.toNat % 8 == 7 || x.y.d == 0

/-- A 72-bit number as a register pair (R140). -/
def pairWords (t : Tag) (v : Int) : List Word :=
  let p := (v % (2 ^ 72 : Nat)).toNat
  [mkW t (p % 2 ^ 36), mkW .wide (p / 2 ^ 36)]

/-- mulw (R140). -/
def resMulw (x : Ctx) : LngRes := do
  if pairBad x then .error (illF x) else
  noPoison [opA x, opB x]
  need x 0 isNI (opA x)
  need x 1 isNI (opB x)
  let t := if isNat (wtag (opA x)) && isNat (wtag (opB x)) then .nat else .int
  return (pairWords t (trueVal (opA x) * trueVal (opB x)), none)

/-- mac: the product added to the pair d, d + 1 modulo 2^72 (R140). -/
def resMac (x : Ctx) : LngRes := do
  if pairBad x then .error (illF x) else
  noPoison [opA x, opB x, opD x 0, opD x 1]
  need x 0 isNI (opA x)
  need x 1 isNI (opB x)
  need x 7 isNI (opD x 0)
  need x 7 (fun t => t = .wide) (opD x 1)
  let t := if isNat (wtag (opA x)) && isNat (wtag (opB x)) && isNat (wtag (opD x 0)) then .nat else .int
  return (pairWords t (trueVal (opA x) * trueVal (opB x) + ((pay (opD x 0) + pay (opD x 1) * 2 ^ 36 : Nat) : Int)), none)

/-- DIVZ (R142, R227). -/
def divzF (op : Nat) : Flaw := .soft 0 (trp 0x0E (natW 0) (natW op))

/-- The quotient word: a NAT by an INT whose quotient lies outside INT gives an open value (log entry 13). -/
def quotW (t : Tag) (a b : Word) : Word :=
  let q := (trueVal a).tdiv (trueVal b)
  if t = .int ∧ wtag a = .nat ∧ (q < -(2 ^ 35) ∨ 2 ^ 35 ≤ q) then mkW .int (Config.divOut (pay a) (trueVal b))
  else mkW t (q % (2 ^ tagWidth t : Nat)).toNat

/-- div: rounded toward zero (R142). -/
def resDiv (x : Ctx) : LngRes := do
  noPoison [opA x, opB x]
  let t ← lngRow x
  if trueVal (opB x) = 0 then .error (divzF 4) else
  return lngWord (quotW t (opA x) (opB x))

/-- rem: the sign of a (R142). -/
def resRem (x : Ctx) : LngRes := do
  noPoison [opA x, opB x]
  let t ← lngRow x
  if trueVal (opB x) = 0 then .error (divzF 6) else
  return lngWord (mkW t ((trueVal (opA x)).tmod (trueVal (opB x)) % (2 ^ tagWidth t : Nat)).toNat)

/-- divu and remu on NAT (R142). -/
def resDivNat (op : Nat) (f : Nat → Nat → Nat) (x : Ctx) : LngRes := do
  noPoison [opA x, opB x]
  need x 0 isNat (opA x)
  need x 1 isNat (opB x)
  if pay (opB x) = 0 then .error (divzF op) else
  return lngWord (natW (f (pay (opA x)) (pay (opB x))))

/-- divu. -/
def resDivu : Ctx → LngRes := resDivNat 5 fun a b => a / b
/-- remu. -/
def resRemu : Ctx → LngRes := resDivNat 7 fun a b => a % b

/-- The width and the normal form of polynomial POLY (R143). -/
def crcPoly (n : Nat) : Option (Nat × Nat) :=
  match n with
  | 0 => some (8, 0x07)
  | 1 => some (8, 0x1D)
  | 2 => some (15, 0x4599)
  | 3 => some (16, 0x1021)
  | 4 => some (16, 0x8005)
  | 5 => some (17, 0x1685B)
  | 6 => some (21, 0x102899)
  | 7 => some (32, 0x04C11DB7)
  | 8 => some (32, 0x1EDC6F41)
  | _ => none

/-- One bit of direct bit-serial CRC over a register of `w` bits (R143, R360). -/
def crcBit (w poly : Nat) (reg : Nat) (b : Bool) : Nat :=
  let sh := reg * 2 % 2 ^ w
  if b != bitAt reg (w - 1) then sh ^^^ poly else sh

/-- A CRC register advanced by the low `n` bits of `data`, bit 0 first when `lsb`. -/
def crcStep (w poly n : Nat) (lsb : Bool) (reg data : Nat) : Nat :=
  (List.range n).foldl (fun r i => crcBit w poly r (bitAt data (if lsb then i else n - 1 - i))) (reg % 2 ^ w)

/-- crc (R143). -/
def resCrc (x : Ctx) : LngRes :=
  match crcPoly (mF x 0 4) with
  | none => .error (illF x)
  | some (w, poly) => do
    if mF x 4 2 = 3 then .error (illF x) else
    noPoison [opA x, opB x]
    need x 0 isNBS (opA x)
    need x 1 isNBS (opB x)
    return ([bitsW (crcStep w poly (8 * 2 ^ mF x 4 2) (mF x 6 1 = 1) (pay (opA x)) (pay (opB x)))], none)

/-- crcfin: the register reversed when M[4] = 1, then XORed with ones when M[5] = 1 (R143). -/
def resCrcfin (x : Ctx) : LngRes :=
  match crcPoly (mF x 0 4) with
  | none => .error (illF x)
  | some (w, _) => do
    noPoison [opA x]
    need x 0 isNBS (opA x)
    let p := pay (opA x) % 2 ^ w
    let q := if mF x 4 1 = 1 then brevN w p else p
    return ([bitsW (if mF x 5 1 = 1 then 2 ^ w - 1 - q else q)], none)

/-- The largest r with r * r at most a, a below 2^36 (R144). -/
def sqrtN (a : Nat) : Nat :=
  (List.range 18).foldl (fun r i => if (r + 2 ^ (17 - i)) * (r + 2 ^ (17 - i)) ≤ a then r + 2 ^ (17 - i) else r) 0

/-- sqrtu. -/
def resSqrtu (x : Ctx) : LngRes := do
  noPoison [opA x]
  need x 0 isNat (opA x)
  return lngWord (natW (sqrtN (pay (opA x))))

end Sys2Proof.Machine
end

