-- ==== Sys2Proof/Machine/Predict.lean ====
section
/-! DEFINITION. The branch predictor (R198 to R202). How the index and the tag of T1 to T5 are folded is left open
(log entry 8). -/

namespace Sys2Proof.Machine

/-- Index into the base table: {line[8:0], slot} of the branch. -/
def baseIdx (place : Nat) : Nat := place % 4096
/-- The history bits that table `t` folds: 8, 16, 32, 64, 128. -/
def histOf (t : Nat) (p : Pred) : List Bool := p.history.take (2 ^ (t + 2))
/-- The key of the entry of table `t` for a branch. -/
def predKey (t place : Nat) (p : Pred) : Nat := 1024 * t + Config.predIndex t place (histOf t p) % 1024
/-- Does table `t` match? Its counter and usefulness. -/
def predHit (t place : Nat) (p : Pred) : Option (Nat × Nat) :=
  match (p.tagged.find? fun e => e.1 == predKey t place p).map (·.2) with
  | none => none
  | some (tag, c, u) => if tag = Config.predTag t place (histOf t p) % 1024 then some (c, u) else none
/-- The longest matching table at or below `t`; 0 for base. -/
def provider (place : Nat) (p : Pred) : Nat → Nat
  | 0 => 0
  | t + 1 => if (predHit (t + 1) place p).isSome then t + 1 else provider place p t
/-- The prediction of table `t`. -/
def predOf (t place : Nat) (p : Pred) : Bool :=
  match predHit t place p with
  | some (c, _) => if t = 0 then decide (2 ≤ tabGet 1 p.base (baseIdx place)) else decide (4 ≤ c)
  | none => decide (2 ≤ tabGet 1 p.base (baseIdx place))
/-- The prediction of a branch (R199). -/
def predicted (place : Nat) (p : Pred) : Bool :=
  let t := provider place p 5
  if t = 0 then decide (2 ≤ tabGet 1 p.base (baseIdx place)) else predOf t place p
/-- A saturating counter steps toward an outcome. -/
def stepCounter (m n : Nat) (up : Bool) : Nat := if up then min m (n + 1) else n - 1
/-- A tagged entry changed. -/
def predPut (p : Pred) (key : Nat) (e : Nat × Nat × Nat) : Pred := { p with tagged := tabIns e p.tagged key }
/-- A new entry after a wrong prediction (R200). -/
def predAlloc (place prov : Nat) (taken : Bool) (p : Pred) : Pred :=
  let longer := (List.range 6).filter fun t => decide (prov < t)
  let usef := fun t => ((p.tagged.find? fun e => e.1 == predKey t place p).map (·.2.2.2)).getD 0
  match longer.find? (fun t => usef t == 0) with
  | some t =>
    predPut p (predKey t place p) (Config.predTag t place (histOf t p) % 1024, if taken then 4 else 3, 0)
  | none => { p with tagged := p.tagged.map fun e =>
      match longer.find? (fun t => e.1 == predKey t place p) with
      | some _ => (e.1, e.2.1, e.2.2.1, e.2.2.2 - 1)
      | none => e }
/-- The tables after a conditional branch retires (R200), and the history with it. -/
def predUpdate (place : Nat) (taken : Bool) (p : Pred) : Pred :=
  let t := provider place p 5
  let right := predicted place p == taken
  let below := provider place p (t - 1)
  let belowRight := (if below = 0 then decide (2 ≤ tabGet 1 p.base (baseIdx place)) else predOf below place p) == taken
  let q :=
    if t = 0 then
      { p with base := tabSet 1 p.base (baseIdx place) (stepCounter 3 (tabGet 1 p.base (baseIdx place)) taken) }
    else match (p.tagged.find? fun e => e.1 == predKey t place p).map (·.2) with
      | none => p
      | some (tag, c, u) =>
        predPut p (predKey t place p) (tag, stepCounter 7 c taken, if right && !belowRight then min 3 (u + 1) else u)
  let q := if right then q else predAlloc place t taken q
  let n := (p.retired + 1) % 2 ^ 18
  let q := if n = 0 then { q with tagged := q.tagged.map fun e => (e.1, e.2.1, e.2.2.1, e.2.2.2 / 2) } else q
  { q with history := (taken :: q.history).take 128, retired := n }

end Sys2Proof.Machine
end

