-- ==== Sys2Proof/Machine/Hl.lean ====
section
/-! DEFINITION. What HL does by itself: MSI-X messages (R297, R411), the error log (R500), the ready map (R488). -/

namespace Sys2Proof.Machine

/-- DEVMODE.MODE bit `i`: 0 C, 1 Q, 2 E, 3 T, 4 I, 5 S, 6 D, 7 A. -/
def modeBit (s : State) (i : Nat) : Bool := ioB s aDEVMODE i

/-- READYMAP bit `n`. -/
def readyBit (s : State) (n : Nat) : Bool :=
  if n < 36 then ioB s aREADYMAP n else ioB s (aREADYMAP + 1) (n - 36)

/-- READYMAP with bit `n` set to `b`. -/
def readyPut (s : State) (n : Nat) (b : Bool) : State :=
  if n < 36 then ioSetB s aREADYMAP n b else ioSetB s (aREADYMAP + 1) (n - 36) b

/-- Is HL powered and its link trained? -/
def hlUp (s : State) : Bool := readyBit s 2 && !s.hlOff

/-- DEVMODE bits A and D as the access-control unit sees them (R443). -/
def acMode (s : State) : Nat := 2 * (modeBit s 7).toNat + (modeBit s 6).toNat

/-- A request of HL to the access-control unit: kinds 1 to 4 (R443). -/
def acAsk (s : State) (r : AcReq) (i : AcItem) (write : Bool) (haddr len : Nat) : State :=
  emit { s with acQ := s.acQ ++ [i] } (.acReq r 0 write haddr len 0 0 0 (acMode s))

/-- The pending bit of an MSI-X vector. -/
def pbaPut (s : State) (v : Nat) (b : Bool) : State :=
  barPut s (bPBA (v / 64)) (setBits (barGet s (bPBA (v / 64))) (v % 64) 1 b.toNat)

/-- May vector `v` be sent now? -/
def msixOpen (s : State) (v : Nat) : Bool := hlUp s && !barB s (bMSIX v 12) 0

/-- An MSI-X message on vector `v`: asked of the access-control unit, or left pending while masked or without link. -/
def msixSend (s : State) (v : Nat) : State :=
  if msixOpen s v then acAsk s (.msix (Fin.ofNat 512 v)) (.msix v) true (barGet s (bMSIX v 0)) 4 else pbaPut s v true

/-- An error-log entry (R500, R501). -/
def elWrite (s : State) (code unit core cause detail addr : Nat) : State :=
  let n := barGet s bELCOUNT
  let i := n % 120
  let s := barPut s (bELENT i 0) (tbGet s 1 % 2 ^ 64)
  let s := barPut s (bELENT i 8) (code % 256 + unit % 256 * 0x100 + core % 32 * 0x10000 + cause % 256 * 0x1000000)
  let s := barPut s (bELENT i 0xC) (detail % 2 ^ 32)
  let s := barPut s (bELENT i 0x10) (addr % 2 ^ 64)
  let s := barPut s (bELENT i 0x18) (n % 2 ^ 32)
  let s := barPut s bELCOUNT ((n + 1) % 2 ^ 32)
  if barB s bELCFG 0 && s.elArmed then msixSend { s with elArmed := false } (barF s bELCFG 1 9) else s

/-- A READYMAP bit rises: it stays pending until its KIND 1 completion is made (R413, R488). -/
def readySet (s : State) (n : Nat) : State :=
  if readyBit s n then s else { readyPut s n true with readyPend := s.readyPend ++ [n] }

/-- A READYMAP bit falls: an error-log entry (R488). -/
def readyClear (s : State) (n : Nat) : State :=
  if readyBit s n then elWrite (readyPut s n false) 0x0D n 0 0 0 0 else s

end Sys2Proof.Machine
end

