-- ==== Sys2Proof/Machine/Hub.lean ====
section
/-! DEFINITION. The event hub: occurrences and counts (R292), eligibility and offers (R294 to R298), claim and complete
(R299 to R301). -/

namespace Sys2Proof.Machine

/-! ## Sources -/

/-- The priority of source `n`; ROUTE 3 acts as priority 0 (R295). -/
def srcPrio (s : State) (n : Nat) : Nat := if ioF s (aSRCCFG n) 5 2 = 3 then 0 else ioF s (aSRCCFG n) 0 4
/-- ROUTE of source `n`. -/
def srcRoute (s : State) (n : Nat) : Nat := ioF s (aSRCCFG n) 5 2
/-- Is source `n` a level source (R290, R574)? -/
def srcLevel (s : State) (n : Nat) : Bool := ioB s (aSRCCFG n) 4
/-- Is the level of source `n` asserted? -/
def srcUp (s : State) (n : Nat) : Bool := s.asserted.contains n
/-- Is source `n` in service? -/
def srcInsvc (s : State) (n : Nat) : Bool := ioB s (aSRCSTAT n) 10
/-- COUNT of source `n` (R292). -/
def srcCount (s : State) (n : Nat) : Nat :=
  if srcLevel s n then (srcUp s n && !srcInsvc s n).toNat else ioF s (aSRCSTAT n) 0 8
/-- Is source `n` pending? -/
def srcPending (s : State) (n : Nat) : Bool := decide (0 < srcCount s n)
/-- The cores that hold an offer of source `n`. -/
def offerCores (s : State) (n : Nat) : List Nat := (List.range 32).filter fun c => (coreOf s c).offer = some n

/-! ## Cores -/

/-- CORESTAT.STATE of core `c`: 0 running, 1 parked, 2 kerfed, 3 off. -/
def coreState (s : State) (c : Nat) : Nat := ioF s (priv c oCORESTAT) 0 2
/-- The core with CORESTAT.STATE `v`. -/
def setCoreState (s : State) (c v : Nat) : State := ioSetF s (priv c oCORESTAT) 0 2 v
/-- THRESH.CUR: the greater of BASE and the highest claimed priority (R299). -/
def threshCur (s : State) (c : Nat) : Nat :=
  (coreOf s c).claims.foldl (fun m p => max m p.1) (ioF s (priv c oTHRESH) 4 4)
/-- LOAD: claim stack entries, plus 1 if an offer is held. -/
def coreLoad (s : State) (c : Nat) : Nat := (coreOf s c).claims.length + (coreOf s c).offer.isSome.toNat
/-- Is core `c` stopped for a splice? -/
def spliceStopped (s : State) (c : Nat) : Bool :=
  match s.splice with
  | some (a, _, st, _) => a == c && st != 0
  | none => false
/-- Is core `c` a checker, eligible for no offer (R472)? -/
def isChecker (s : State) (c : Nat) : Bool :=
  (c == 1 && ioB s aMODESTAT 9) || (c == 5 && ioB s aMODESTAT 10)

/-- The conditions of R294 but for the offer that the core holds. -/
def canTake (s : State) (c n : Nat) : Bool :=
  ioB s (aSRCMASK n) c && coreState s c == 0 && !spliceStopped s c && !isChecker s c &&
  bitAt (pay (ioGet s (priv c oEVMASK))) (srcPrio s n) && decide (threshCur s c < srcPrio s n)

/-- Is source `n` before source `m`: higher priority, or equal priority and a lower number? -/
def srcBefore (s : State) (n m : Nat) : Bool :=
  decide (srcPrio s m < srcPrio s n) || (srcPrio s n == srcPrio s m && decide (n < m))

/-- Is core `c` eligible for source `n` (R294)? -/
def eligible (s : State) (c n : Nat) : Bool :=
  canTake s c n && match (coreOf s c).offer with
    | none => true
    | some o => srcBefore s n o

/-! ## Offers -/

/-- The core of lowest LOAD, the first after `last` on a tie (R295). -/
def anyOf (s : State) (last : Nat) (cs : List Nat) : Option Nat :=
  let order := (List.range 32).map (fun i => (last + 1 + i) % 32)
  (order.filter cs.contains).foldl (fun b c =>
    match b with
    | none => some c
    | some d => if coreLoad s c < coreLoad s d then some c else some d) none

/-- The core that ROUTE chooses for source `n`; a core that let it time out comes last (R295, R298). -/
def chooseCore (s : State) (n : Nat) (skip : Option (Nat × Nat)) : Option Nat :=
  let all := (List.range 32).filter fun c => eligible s c n
  let cs := match skip with
    | some (m, c) => if m = n ∧ all ≠ [c] then all.filter (· ≠ c) else all
    | none => all
  if srcRoute s n = 0 then cs.head? else if srcRoute s n = 1 then anyOf s s.lastAny cs else none

/-- The sources with something to offer: every one with a status word, and every asserted level. -/
def listedSources (s : State) : List Nat :=
  ((s.io.filter fun p => decide (0x010800 ≤ p.1) && decide (p.1 < 0x010C00)).map (fun p => p.1 - 0x010800)) ++
  s.asserted.filter fun n => !(s.io.any fun p => p.1 == 0x010800 + n)

/-- Has source `n` an occurrence that is not offered, and a core for it? -/
def offerable (s : State) (skip : Option (Nat × Nat)) (n : Nat) : Bool :=
  decide (0 < srcPrio s n) && decide ((offerCores s n).length < srcCount s n) && (chooseCore s n skip).isSome

/-- One offer: the first source in order, to its core; the offer that it displaces returns (R295). -/
def offerOne (skip : Option (Nat × Nat)) (s : State) : Option State :=
  let best := ((listedSources s).filter (offerable s skip)).foldl (fun b n =>
    match b with
    | none => some n
    | some m => if srcBefore s n m then some n else some m) (none : Option Nat)
  match best with
  | none => none
  | some n => match chooseCore s n skip with
    | none => none
    | some c =>
      let s := modCore s c fun k => { k with offer := some n }
      some (if srcRoute s n = 1 then { s with lastAny := c } else s)

/-- Offers until no source can be offered. -/
def offerLoop (skip : Option (Nat × Nat)) : Nat → State → State
  | 0, s => s
  | f + 1, s => match offerOne skip s with
    | none => s
    | some t => offerLoop skip f t

/-- Does core `c` hold an offer that R298 withdraws? -/
def offerStale (s : State) (c : Nat) : Bool :=
  match (coreOf s c).offer with
  | none => false
  | some n => !canTake s c n || !srcPending s n

/-- The offers that R298 withdraws are withdrawn. -/
def offerStrip (s : State) : State :=
  (List.range 32).foldl (fun s c => if offerStale s c then modCore s c (fun k => { k with offer := none }) else s) s

/-- The evaluation of offers at the end of an SV cycle (R293, R295). -/
def hubEval (s : State) (skip : Option (Nat × Nat) := none) : State :=
  let s := offerStrip s
  offerLoop skip (32 * (listedSources s).length + 32) s

/-! ## Occurrences -/

/-- evlat[0] of a core set (R100). -/
def setEvlat (s : State) (c : Nat) : State := modCore s c fun k => { k with evlat := k.evlat ||| 1 }

/-- What follows when an occurrence becomes pending: evlat[0] of every core of the mask for ROUTE 0 and 1 (R296). -/
def wakeMask (s : State) (n : Nat) : State :=
  if srcRoute s n = 0 ∨ srcRoute s n = 1 then
    (bitList 32 (pay (ioGet s (aSRCMASK n)))).foldl setEvlat s
  else s

/-- ROUTE 2: one message for each waiting occurrence, or the pending bit (R297). -/
def hostRoute (s : State) (n : Nat) : State :=
  if srcRoute s n = 2 ∧ 0 < srcPrio s n ∧ 0 < srcCount s n then
    let v := ioF s (aSRCCFG n) 7 9
    if msixOpen s v then
      let k := srcCount s n
      let s := if srcLevel s n then s else ioSetF s (aSRCSTAT n) 0 8 0
      (List.range k).foldl (fun s _ => msixSend s v) (pbaPut s v false)
    else pbaPut s v true
  else s

/-- One occurrence of a pulse source, saturating at 255; the lost one sets OVF (R292). -/
def addPulse (s : State) (n : Nat) : State :=
  if ioF s (aSRCSTAT n) 0 8 = 255 then ioSetF (ioSetB s (aSRCSTAT n) 9 true) aHUBSTAT 16 10 n
  else ioSetF s (aSRCSTAT n) 0 8 (ioF s (aSRCSTAT n) 0 8 + 1)

/-- Does an any-of occurrence of `n` find no eligible core (R296)? -/
def noCore (s : State) (n : Nat) : Bool :=
  srcRoute s n == 1 && decide (0 < srcPrio s n) && ((List.range 32).filter fun c => eligible s c n).isEmpty

/-- A pulse of source `n` without the report of source 607. -/
def raiseQuiet (s : State) (n : Nat) : State := hubEval (hostRoute (wakeMask (addPulse s n) n) n)

/-- A pulse of source `n` (R292, R295 to R297). NOCORE counts an occurrence that finds no core and raises 607. -/
def raise (s : State) (n : Nat) : State :=
  if noCore s n then
    let s := raiseQuiet (ioInc s aHUBSTAT 8 8) n
    if n = 607 then s else raiseQuiet s 607
  else raiseQuiet s n

/-- A level is asserted (R292). -/
def assertLevel (s : State) (n : Nat) : State :=
  if srcUp s n then s
  else
    let s := { s with asserted := s.asserted ++ [n] }
    if srcInsvc s n then s
    else
      let miss := noCore s n
      let s := if miss then ioInc s aHUBSTAT 8 8 else s
      let s := hubEval (hostRoute (wakeMask s n) n)
      if miss then raiseQuiet s 607 else s

/-- A level is withdrawn: its offer goes (R298). -/
def withdrawLevel (s : State) (n : Nat) : State := hubEval { s with asserted := s.asserted.filter (· ≠ n) }

/-! ## Claim and complete -/

/-- The source number that a CLAIM read of core `c` returns (R299, R300). -/
def claimNum (s : State) (c : Nat) : Nat :=
  if (coreOf s c).claims.length = 15 then 1023 else (coreOf s c).offer.getD 1023

/-- The side effect of a CLAIM read (R300). -/
def claimDo (s : State) (c : Nat) : State :=
  if (coreOf s c).claims.length = 15 then s
  else match (coreOf s c).offer with
    | none => s
    | some n =>
      let p := srcPrio s n
      let s := modCore s c fun k => { k with offer := none, claims := (p, n) :: k.claims }
      let s :=
        if srcLevel s n then
          (if srcUp s n && !srcInsvc s n then ioSetF (ioSetB s (aSRCSTAT n) 10 true) (aSRCSTAT n) 11 5 c else s)
        else ioSetF s (aSRCSTAT n) 0 8 (ioF s (aSRCSTAT n) 0 8 - 1)
      hubEval s

/-- A level source leaves service on core `c`, and is pending again if still asserted (R292, R301). -/
def leaveService (c : Nat) (s : State) (n : Nat) : State :=
  if srcLevel s n && srcInsvc s n && ioF s (aSRCSTAT n) 11 5 == c then
    let s := ioSetF (ioSetB s (aSRCSTAT n) 10 false) (aSRCSTAT n) 11 5 0
    if srcUp s n then hostRoute (wakeMask s n) n else s
  else s

/-- The claim stack below the entry for `n`, and the sources removed with it. -/
def claimSplit (n : Nat) : List (Nat × Nat) → Option (List Nat × List (Nat × Nat))
  | [] => none
  | p :: t => if p.2 = n then some ([n], t) else (claimSplit n t).map fun r => (p.2 :: r.1, r.2)

/-- A write of `n` to COMPLETE by core `c` (R301). -/
def completeDo (s : State) (c n : Nat) : State :=
  if n = 1023 then s
  else match claimSplit n (coreOf s c).claims with
    | none => raise (ioInc s aHUBSTAT 0 8) 607
    | some (out, rest) =>
      hubEval (out.foldl (leaveService c) (modCore s c fun k => { k with claims := rest }))

/-- A core reset clears its offer and its claim stack (R298). -/
def dropClaims (s : State) (c : Nat) : State :=
  let out := (coreOf s c).claims.map (·.2)
  out.foldl (leaveService c) (modCore s c fun k => { k with claims := [], offer := none })

/-- The level that SV presents to core `c`: the priority of its offer, or 0 (R302). -/
def presented (s : State) (c : Nat) : Nat :=
  match (coreOf s c).offer with
  | none => 0
  | some n => srcPrio s n

end Sys2Proof.Machine
end

