-- ==== Sys2Proof/Machine/Dovetail.lean ====
section
/-! DEFINITION. Sending over the dovetail: classes and numbers (R378, R379), the cores' queues and credits (R380), the
messages that DH and DF form (R382 to R388). Frames stand in the sender's `unacked` list until a HEARTBEAT acknowledges
them; tags, lanes and the line itself are not modelled bit by bit. -/

namespace Sys2Proof.Machine

/-- The delivery class of a type (R382). -/
def dvClass (typ : Nat) : Nat :=
  if typ < 0x10 then 0 else if typ < 0x20 then 1 else if typ < 0x28 then 2 else if typ < 0x40 then 1 else 3

/-- May microcode send the type (R382, R385)? -/
def fsendType (t : Nat) : Bool :=
  t == 0x03 || t == 0x10 || t == 0x12 || t == 0x18 || t == 0x19 || t == 0x1A || t == 0x20 ||
  (0x40 ≤ t && t ≤ 0x45) || t == 0x4A || t == 0x4B

/-- Is the tag allowed in a dovetail body (R53)? -/
def dvTag (t : Tag) : Bool :=
  !(t = .addrD || t = .addrIO || t = .link || t = .keyref || t = .seal || t = .session || t = .poison)

/-- Is the dovetail paired (DVSTAT.PAIRED)? -/
def dvPaired (s : State) : Bool := ioB s aDVSTAT 0

/-- The end that numbers and keeps a message: class 0 is neither numbered nor kept for acknowledgement. -/
def DvEnd.send (e : DvEnd) (m : Msg) : DvEnd :=
  let cls := dvClass m.typ
  if cls = 0 then { e with line := some m, sent := e.sent + 1 }
  else
    let n := tabGet 0 e.txNum cls
    { e with
      txNum := tabSet 0 e.txNum cls (n + 1)
      unacked := e.unacked ++ [{ cls := cls, num := n % 2 ^ 14, msg := m }]
      sent := e.sent + 1 }

/-- DH sends a message. -/
def dhSend (s : State) (m : Msg) : State := { s with dh := s.dh.send m }

/-- DF sends a message; nothing leaves DF while it is not paired. -/
def dfSend (s : State) (m : Msg) : State := if s.field.paired then { s with df := s.df.send m } else s

/-- A CMD-CFG of BYPCTL is followed by BYPASS-CTL, open or close by OPEN (R338; the close is DEDUCED, log entry 34). -/
def dhBypass (s : State) (f : Nat) (w : Word) : State :=
  if f = fBYPCTL then dhSend s ⟨0x13, natW (pay w % 2), natW 0⟩ else s
/-- A CMD-CFG of DH for field address `f` (R382). -/
def dhCfg (s : State) (f : Nat) (w : Word) : State := dhBypass (dhSend s ⟨0x11, natW f, w⟩) f w

/-- A FAULT of DF: code and unit, stamped with field time (R382). The detail of every FAULT, and the unit of one whose
code names none, are not given: free values. -/
def dfFault (s : State) (code : Nat) (unit : Option Nat) : State :=
  let d := freeVal s
  dfSend (bump s) ⟨0x2A, natW (code + (unit.getD (d / 2 ^ 20)) % 256 * 0x100 + d % 2 ^ 20 * 0x10000),
    mkW .time s.field.time.toNat⟩

/-- The times `l` with one more, of which those within the last millisecond count: none are left, and the answer is
true, when they reach `n` (R375; a threshold of 0 acts as 1). -/
def within1ms (l : List Nat) (now n : Nat) : List Nat × Bool :=
  let l := (l ++ [now]).filter fun t => now - t < 1000000
  if max 1 n ≤ l.length then ([], true) else (l, false)
/-- One frame consumed and dropped (R375, R386); source 387 when it completes DROPTHR drops within 1 ms. -/
def dvDrop (s : State) : State :=
  let (l, hit) := within1ms s.dov.drops (tbGet s 1) (ioF s aDVCFG 20 8)
  let s := ioInc { s with dov := { s.dov with drops := l } } aDROPCNT 0 16
  if hit then raise s 387 else s

/-! ## Port images -/

/-- Bytes of a list of BITS words, 4 per word, first byte in [7:0] (R385). -/
def bytesOf (n : Nat) (ws : List Word) : List Byte :=
  (ws.flatMap fun w => (List.range 4).map fun i => BitVec.ofNat 8 (pay w / 2 ^ (8 * i))).take n

/-- BITS words of a list of bytes, 4 per word, unused bytes zero (R433). -/
def wordsOf : List Byte → List Word
  | a :: b :: c :: d :: t => bitsW (a.toNat + b.toNat * 2 ^ 8 + c.toNat * 2 ^ 16 + d.toNat * 2 ^ 24) :: wordsOf t
  | [a, b, c] => [bitsW (a.toNat + b.toNat * 2 ^ 8 + c.toNat * 2 ^ 16)]
  | [a, b] => [bitsW (a.toNat + b.toNat * 2 ^ 8)]
  | [a] => [bitsW a.toNat]
  | [] => []

/-- Ten bytes as the two body words of a PORT frame, the first byte most significant (R372). -/
def chunkMsg (typ : Nat) (b : List Byte) : Msg :=
  let n := ((b ++ List.replicate 10 0#8).take 10).foldl (fun n x => n * 256 + x.toNat) 0
  ⟨typ, BitVec.ofNat 40 (n / 2 ^ 40), BitVec.ofNat 40 (n % 2 ^ 40)⟩

/-- A byte string cut into chunks of 10 (R385). -/
def chunks : Nat → List Byte → List (List Byte)
  | 0, _ => []
  | f + 1, b => if b.isEmpty then [] else b.take 10 :: chunks f (b.drop 10)

/-- The chunks of a byte string as messages: the first under `first`, the others under `later`. -/
def chunkMsgs (first later : Nat) (b : List Byte) : List Msg :=
  match chunks b.length b with
  | [] => []
  | h :: t => chunkMsg first h :: t.map (chunkMsg later)

/-- May DH use bank `n` (owner 10, R262, R386)? -/
def dvBankOk (s : State) (n : Nat) : Bool :=
  ioB s aDVBANK 15 && ioF s (aBANKOWN n) 0 4 == 10 && ioF s (aBANKOWN n) 32 3 == 0

/-- A PORT-TX of core `c`: DH reads the image from the transmit bank and sends its chunks back to back (R385). -/
def portTx (s : State) (c p len off : Nat) : State :=
  let b := ioF s aDVBANK 0 5
  if dvBankOk s b then
    let img := bytesOf len ((List.range ((len + 3) / 4)).map fun i => memGet s (b * 0x10000 + (off + i) % 0x10000))
    let all := [BitVec.ofNat 8 (len / 256), BitVec.ofNat 8 len] ++ img
    let s := (chunkMsgs (0x40 + p) (0x50 + p) all).foldl dhSend s
    { s with dov := { s.dov with
      portCred := tabSet 8192 s.dov.portCred p (tabGet 8192 s.dov.portCred p - len)
      txOwn := tabSet [] s.dov.txOwn p (tabGet [] s.dov.txOwn p ++ [(c, len, off)]) } }
  else dvDrop s

/-! ## The queues of the cores -/

/-- Has DH the credit for a message of a core (R380)? -/
def dvCredit (s : State) (m : Msg) : Bool :=
  if m.typ = 0x20 then decide (0 < tabGet 8 s.dov.jigCred (pay m.w0 % 32))
  else if 0x40 ≤ m.typ then decide (bits (pay m.w0) 4 12 ≤ tabGet 8192 s.dov.portCred (m.typ - 0x40))
  else true

/-- The dispatcher's handler of core `c` that awaits message `m` now awaits the acknowledgement of the frame sent last in
the message's class. -/
def waitSent (s : State) (c : Nat) (m : Msg) : State :=
  match s.waits.find? fun w => w.core == c && w.await == some m with
  | none => s
  | some w =>
    let cls := dvClass m.typ
    let w' := { w with await := none, frame := some (cls, (tabGet 0 s.dh.txNum cls + 2 ^ 14 - 1) % 2 ^ 14) }
    { s with waits := s.waits.map fun x => if x = w then w' else x }

/-- DH sends a message that it took from the send queue of core `c`. -/
def dvPass (s : State) (c : Nat) (m : Msg) : State :=
  if m.typ = 0x20 then
    let j := pay m.w0 % 32
    dhSend { s with dov := { s.dov with jigCred := tabSet 8 s.dov.jigCred j (tabGet 8 s.dov.jigCred j - 1) } } m
  else if 0x40 ≤ m.typ then portTx s c (m.typ - 0x40) (bits (pay m.w0) 4 12) (pay m.w1 % 0x10000)
  else if m.typ = 0x03 then
    dhSend { s with dov := { s.dov with echoes := s.dov.echoes ++ [(pay m.w0 % 2 ^ 35, c)] } } m
  else if m.typ = 0x11 then dhCfg s (pay m.w0) m.w1
  else dhSend s m

/-- DH takes a message of core `c` from its send queue and sends it. -/
def dvTake (s : State) (c : Nat) (m : Msg) : State := waitSent (dvPass s c m) c m

/-- The send queue of core `c` drained as far as credits allow. -/
def dvDrain (c : Nat) : Nat → State → State
  | 0, s => s
  | f + 1, s => match (coreOf s c).sendQ with
    | [] => s
    | m :: t => if dvCredit s m then dvDrain c f (dvTake (modCore s c fun k => { k with sendQ := t }) c m) else s

/-- Is the send queue of core `c` full (R166, R380)? -/
def sendFull (s : State) (c : Nat) : Bool := decide (16 ≤ (coreOf s c).sendQ.length)

/-- A message enters the send queue of core `c` and leaves it as soon as credits allow. -/
def coreSend (s : State) (c : Nat) (m : Msg) : State :=
  dvDrain c 17 (modCore s c fun k => { k with sendQ := k.sendQ ++ [m] })

/-- A message for the receive queue of core `c`; DH keeps it while the queue is full (R380). -/
def coreRecv (s : State) (c : Nat) (m : Msg) : State :=
  if (coreOf s c).recvQ.length < 16 then modCore s c fun k => { k with recvQ := k.recvQ ++ [m] }
  else { s with dov := { s.dov with kept := s.dov.kept ++ [(c, m)] } }

/-- The oldest message kept for core `c` enters its receive queue. -/
def coreRefill (s : State) (c : Nat) : State :=
  match s.dov.kept.find? (fun p => p.1 == c) with
  | none => s
  | some p =>
    coreRecv { s with dov := { s.dov with kept := s.dov.kept.erase p } } c p.2

/-- Core `c` takes the oldest message of its receive queue: a credit returns to DF (R167, R380). -/
def coreTake (s : State) (c : Nat) : State :=
  let s := modCore s c fun k => { k with recvQ := k.recvQ.drop 1 }
  coreRefill { s with dh := { s.dh with credOut := s.dh.credOut ++ [(c, 1)] } } c

/-- SAFE-SET enter or release for a channel mask of a group, sent by DH (R382, R474). -/
def dhSafeSet (s : State) (group release : Bool) (mask : Nat) : State :=
  dhSend s ⟨0x12, natW (mask % 2 ^ 32 + group.toNat * 2 ^ 32 + release.toNat * 2 ^ 33), natW 0⟩

end Sys2Proof.Machine
end

