-- ==== Sys2Proof/Machine/Access.lean ====
section
/-! DEFINITION. Access to banks: who may read and write a bank (R262, R263), admission under QUIET (R216), ECC on loads
(R258, R281), live row repair, bank events (R266). -/

namespace Sys2Proof.Machine

/-- The bank of a data-space address below 0x20_0000 (R257). -/
def bankOf (a : Nat) : Nat := a / 0x10000
/-- Is the address a bank address (R151)? -/
def isBank (a : Nat) : Bool := decide (a < 0x200000)
/-- Is the address in the host-window class (R151)? -/
def isHost (a : Nat) : Bool := decide (0x100000000 ≤ a)
/-- The owner ID of bank `n`. -/
def bankOwner (s : State) (n : Nat) : Nat := ioF s (aBANKOWN n) 0 4
/-- STATE of bank `n`: 0 ready, 1 off, 2 clearing or scrubbing, 3 march, 4 draining. -/
def bankState (s : State) (n : Nat) : Nat := ioF s (aBANKOWN n) 32 3
/-- Is bank `n` owned by the keeper? -/
def bankKeeper (s : State) (n : Nat) : Bool := bankOwner s n == 0
/-- The cores that an owner ID names (R262, R275). -/
def ownerCores (s : State) (o : Nat) : Nat :=
  if 1 ≤ o ∧ o ≤ 8 then 0xF * 2 ^ (4 * (o - 1))
  else if 12 ≤ o then pay (ioGet s (aPART (o - 12))) else 0

/-- Do RDRING and WRRING of bank `n` permit the ring? -/
def ringLimit (s : State) (n ring : Nat) (write : Bool) : Bool :=
  decide (ring ≤ ioF s (aBANKOWN n) (if write then 26 else 24) 2)

/-- Does R262 permit core `c` in `ring` to access bank `n`, whatever its STATE? -/
def ownerMay (s : State) (c ring : Nat) (write : Bool) (n : Nat) : Bool :=
  let o := bankOwner s n
  if ring = 0 then true
  else if o = 0 then decide (4 ≤ n) && ringLimit s n ring write
  else bitAt (ownerCores s o) c && ringLimit s n ring write

/-- May core `c` in `ring` access bank `n` now (R263)? -/
def bankMay (s : State) (c ring : Nat) (write : Bool) (n : Nat) : Bool :=
  bankState s n == 0 && ownerMay s c ring write n

/-- BANKDENY at `a` (R227, R263); a reserved address has no owner and reports 0. -/
def denyT (s : State) (a : Nat) (write : Bool) : Trp :=
  trp 0x02 (addrW a) (natW ((if isBank a then bankOwner s (bankOf a) else 0) + 16 * write.toNat))

/-- Is bank `n` admitted for core `c` in `ring` under QUIET (R216)? -/
def quietMay (s : State) (c ring n : Nat) : Bool :=
  let o := bankOwner s n
  let q := pay (ioGet s aQMASK)
  if o = 0 then ring == 0
  else bitAt (ownerCores s o) c && (ownerCores s o &&& (2 ^ 32 - 1 - q % 2 ^ 32)) == 0

/-- The first word that a core may not access: BANKDENY for a reserved address or a denied bank (R155). -/
def firstDenied (s : State) (c ring : Nat) (write : Bool) (as_ : List Nat) : Option Nat :=
  as_.find? fun a => !(isBank a && bankMay s c ring write (bankOf a))

/-- The first word in a bank that QUIET does not admit. -/
def firstUnquiet (s : State) (c ring : Nat) (as_ : List Nat) : Option Nat :=
  as_.find? fun a => isBank a && !quietMay s c ring (bankOf a)

/-! ## Host windows -/

/-- EN of window `w`. -/
def hwinEn (s : State) (w : Nat) : Bool := barB s (bHWIN w 0x18) 0
/-- First and last word of window `w`. -/
def hwinBase (s : State) (w : Nat) : Nat := barF s (bHWIN w 0) 0 36
/-- Last word of window `w`. -/
def hwinLimit (s : State) (w : Nat) : Nat := barF s (bHWIN w 8) 0 36
/-- BAD of window `w`. -/
def hwinBad (s : State) (w : Nat) : Bool :=
  hwinEn s w && !(isHost (hwinBase s w) && decide (hwinBase s w ≤ hwinLimit s w) && barF s (bHWIN w 0x10) 0 3 == 0)
/-- OVL of window `w`. -/
def hwinOvl (s : State) (w : Nat) : Bool :=
  (List.range w).any fun v => hwinEn s v && !hwinBad s v && decide (hwinBase s v ≤ hwinLimit s w) &&
    decide (hwinBase s w ≤ hwinLimit s v)
/-- BUSY of window `w`: a part through it is outstanding. -/
def hwinBusy (s : State) (w : Nat) : Bool :=
  (List.range 32).any fun c => match (coreOf s c).hostAcc with
    | some h => (match h.part with | some p => p.win == w | none => false)
    | none => false
/-- The window that serves a word (R282). -/
def hostServe (s : State) (a : Nat) : Option Nat :=
  (List.range 16).find? fun w => hwinEn s w && !hwinBad s w && decide (hwinBase s w ≤ a) && decide (a ≤ hwinLimit s w)

/-! ## ECC -/

/-- The way of a bank address. -/
def wayOf (a : Nat) : Nat := a % 4
/-- The row of a bank address. -/
def rowNo (a : Nat) : Nat := a / 256 % 256
/-- ECCU at `a` (R227). -/
def eccT (a : Nat) : Trp := trp 0x10 (addrW a) (natW (bankOf a + 32 * wayOf a))

/-- A bit of BANKEVTn set: one occurrence of source 512 + n (R266). -/
def bankEvent (s : State) (n bit : Nat) : State := raise (ioSetB s (aBANKEVT n) bit true) (512 + n)

/-- The place of the last error of a bank. -/
def eccLast (s : State) (a : Nat) : State :=
  ioSetF (ioSetF s (aBANKECC (bankOf a)) 24 8 (rowNo a)) (aBANKECC (bankOf a)) 32 2 (wayOf a)

/-- The lowest spare of a way that no ROWMAP entry uses. -/
def freeSpare (s : State) (b w : Nat) : Option Nat := (List.range 8).find? fun k => !ioB s (aROWMAP b w k) 8

/-- A live repair starts (R281): BUSY, or FAIL and an error-log entry when the way has no free spare (R508). A repair
that meets one in progress waits for the next threshold or request. -/
def repairStart (s : State) (b w r : Nat) : State :=
  if s.repairing.isSome then s
  else match freeSpare s b w with
    | none => elWrite (ioSetB s aRPCTL 14 true) 0x10 b 0 0 (r + 256 * w) 0
    | some k => { ioSetB (ioSetB s aRPCTL 14 false) aRPCTL 13 true with repairing := some (b, w, r, k) }

/-- The row's count in its island's 16-entry table one higher; the least recently counted row leaves a full table
(R281). -/
def rowCount (s : State) (a : Nat) : Nat × State :=
  let isl := bankOf a / 16
  let key := bankOf a * 1024 + wayOf a * 256 + rowNo a
  let t := tabGet [] s.rowErrs isl
  let n := ((t.find? fun p => p.1 == key).map (·.2)).getD 0 + 1
  let t := t.filter fun p => p.1 != key
  let t := (if 16 ≤ t.length then t.drop 1 else t) ++ [(key, n)]
  (n, { s with rowErrs := tabSet [] s.rowErrs isl t })

/-- A corrected error on a read of `a`: counted, and at the threshold reported and, in banks 0 to 3, repaired (R281). -/
def eccCorrected (s : State) (a : Nat) : State :=
  let s := eccLast (ioInc s (aBANKECC (bankOf a)) 0 16) a
  let (n, s) := rowCount s a
  let thr := ioF s aECCTHR 0 8
  if thr ≠ 0 ∧ n = thr then
    let s := elWrite (bankEvent s (bankOf a) 6) 0x10 (bankOf a) 0 0 (rowNo a + 256 * wayOf a) 0
    if bankOf a < 4 then repairStart s (bankOf a) (wayOf a) (rowNo a) else s
  else s

/-- What a performed read of a bank word leaves (R258): counts of corrected and uncorrectable errors. -/
def eccRead (s : State) (a : Nat) : State :=
  if s.eccBad.contains a then eccLast (ioInc s (aBANKECC (bankOf a)) 16 8) a
  else if s.eccSoft.contains a then eccCorrected s a
  else s

end Sys2Proof.Machine
end

