-- ==== Sys2Proof/Machine/Cipher.lean ====
section
/-! DEFINITION. The cipher port: the job block (R432 to R435), the queue of jobs and their passing to the engine (R437),
engine reads and writes (R441). -/

namespace Sys2Proof.Machine

/-- The job of number `n`. -/
def jobOf (s : State) (n : Nat) : Option Job := (s.jobs.find? fun p => p.1 == n).map (·.2)
/-- The state with job `n` being `j`. -/
def jobPut (s : State) (n : Nat) (j : Job) : State := { s with jobs := tabIns j s.jobs n }
/-- The state without job `n`. -/
def jobDel (s : State) (n : Nat) : State :=
  { s with jobs := tabDel s.jobs n, ciphQ := s.ciphQ.filter (· ≠ n) }
/-- Has core `c` a job that has not ended? -/
def jobOfCore (s : State) (c : Nat) : Bool := s.jobs.any fun p => decide (p.1 < 32) && (p.2.core == c || p.1 == c)
/-- Jobs at the engine. -/
def engCount (s : State) : Nat := (s.jobs.filter fun p => p.2.atEng).length
/-- CIPHCAP.DEPTH, 0 acting as 1. -/
def cipherDepth (s : State) : Nat := max 1 (ioF s aCIPHCAP 3 5)
/-- CIPHCAP.VALID. -/
def cipherValid (s : State) : Bool := ioB s aCIPHCAP 0

/-- Jobs pass to the engine in the order in which they were started (R437). -/
def cipherPass : Nat → State → State
  | 0, s => s
  | f + 1, s => match s.ciphQ with
    | [] => s
    | n :: t =>
      if engCount s < cipherDepth s then
        match jobOf s n with
        | none => cipherPass f { s with ciphQ := t }
        | some j =>
          cipherPass f (emit (jobPut { s with ciphQ := t } n { j with atEng := true })
            (.engJob n j.key j.func j.len j.aadLen j.tagLen j.ivLen (if n < 32 then j.core else 0) j.ring))
      else s

/-- A job that passed its checks waits for its place at the engine. -/
def jobStart (s : State) (n : Nat) (j : Job) : State :=
  cipherPass 34 (jobPut { s with ciphQ := s.ciphQ ++ [n] } n j)

/-! ## The block -/

/-- Which functions use IV words and their limits (R435). -/
def ivRange (f : Nat) : Nat × Nat :=
  if f = 2 ∨ f = 3 ∨ f = 4 then (16, 16) else if f = 5 ∨ f = 6 then (12, 12) else if f = 7 ∨ f = 8 then (7, 13) else (0, 31)
/-- Does the function read IV words? -/
def usesIv (f : Nat) : Bool := 2 ≤ f && f ≤ 8
/-- Does the function use a tag? -/
def usesTag (f : Nat) : Bool := 5 ≤ f && f ≤ 10
/-- Does the function verify a tag that stands in the block? -/
def verifies (f : Nat) : Bool := f == 6 || f == 8 || f == 10
/-- Does the function use additional data? -/
def usesAad (f : Nat) : Bool := 5 ≤ f && f ≤ 8

/-- The job that the block `w` of core `c` describes; bytes written and faults none. -/
def jobOfBlock (w : List Word) (c ring func len : Nat) (key : Payload) (block : Nat) : Job :=
  let x := pay (w.getD 3 emptyW)
  { ring := ring, func := func, len := if func = 0 then 0 else len, key := key, block := block, words := w.drop 4,
    inA := pay (w.getD 0 emptyW), outA := pay (w.getD 1 emptyW), aadA := pay (w.getD 2 emptyW),
    aadLen := if usesAad func then bits x 0 17 else 0, tagLen := bits x 17 5, ivLen := bits x 22 5,
    outN := 0, detail := 0, fault := false, atEng := false, core := c }

/-- Do words `i` to `i + n - 1` of the block carry tag `t`? -/
def blockTags (w : List Word) (t : Tag) (i n : Nat) : Bool :=
  (List.range n).all fun k => wtag (w.getD (i + k) emptyW) = t

/-- The limits and tags of the block (R432, R435): DETAIL 5 when one is broken. Only the words that the function reads
are checked (DEDUCED, log entry 15). -/
def blockOk (s : State) (w : List Word) (j : Job) (len : Nat) : Bool :=
  let f := j.func
  decide (bits (pay (w.getD 3 emptyW)) 0 17 ≤ 65536) && bankOf j.block == bankOf (j.block + 15) &&
  (!usesTag f || (decide (4 ≤ j.tagLen) && decide (j.tagLen ≤ 16) && j.tagLen % 2 == 0)) &&
  (!usesIv f || (decide ((ivRange f).1 ≤ j.ivLen) && decide (j.ivLen ≤ (ivRange f).2))) &&
  (f != 1 || len == 24 || len == 40) && (!(f == 2 || f == 3) || len % 16 == 0) &&
  (!(f == 0 || f == 1) || bankKeeper s (bankOf j.block)) &&
  (f == 0 || blockTags w .addrD 0 1) && (f == 9 || f == 10 || blockTags w .addrD 1 1) &&
  (!usesAad f || blockTags w .addrD 2 1) && blockTags w .nat 3 1 &&
  (blockTags w .keyref 4 1 || (f != 0 && blockTags w .empty 4 1)) &&
  (!usesIv f || blockTags w .bits 5 ((j.ivLen + 3) / 4)) &&
  (!verifies f || blockTags w .bits 9 ((j.tagLen + 3) / 4))

/-- The greatest number of output bytes of a job: KW wraps a 128-bit key into 24 and a 256-bit key into 40 bytes. -/
def outLimit (s : State) (j : Job) : Nat :=
  if j.func = 0 then (if ioB s aCIPHCAP 8 then 40 else 24)
  else if j.func = 1 ∨ j.func = 9 ∨ j.func = 10 then 0 else j.len

/-- May the core of a job use every word of an area in its ring (R434)? -/
def areaOk (s : State) (j : Job) (write : Bool) (a bytes : Nat) : Bool :=
  let n := (bytes + 3) / 4
  n == 0 || (decide (a + n ≤ 0x200000) &&
    (List.range ((a + n - 1) / 0x10000 - a / 0x10000 + 1)).all fun k => bankMay s j.core j.ring write (a / 0x10000 + k))

/-- Do the words of an area carry BITS or NAT (R433)? -/
def areaTags (s : State) (a bytes : Nat) : Bool :=
  (List.range ((bytes + 3) / 4)).all fun k => isNB (wtag (memGet s (a + k)))

/-- The DETAIL of a block's first failing check, 0 when none fails (R434). The spec gives the checks no order; block,
areas, data is the model's (log entry 15). -/
def blockDetail (s : State) (w : List Word) (j : Job) (len : Nat) : Nat :=
  if !blockOk s w j len then 5
  else if !(areaOk s j false j.inA j.len && areaOk s j false j.aadA j.aadLen &&
    areaOk s j true j.outA (if j.func = 0 then 24 else outLimit s j)) then 4
  else if !(areaTags s j.inA j.len && areaTags s j.aadA j.aadLen) then 3
  else 0

/-- A word that the port writes for a job, while the job's core may still write its bank. -/
def portPut (s : State) (j : Job) (a : Nat) (w : Word) : State :=
  if isBank a && bankMay s j.core j.ring true (bankOf a) then memPut s a w else s

/-- RESULT, word 13 of the block (R432). -/
def resultPut (s : State) (j : Job) (st detail : Nat) : State :=
  portPut s j (j.block + 13) (natW (st + 8 * detail + 2048 * j.outN))

/-- The counters and the last status of the port. -/
def cipherCount (s : State) (n st : Nat) : State :=
  let s := ioSetF (ioSetF s aCIPHSTAT 11 3 st) aCIPHSTAT 14 6 n
  if st = 1 then ioInc s aCIPHCNT 0 9
  else if st = 5 then ioInc s aCIPHCNT 9 9
  else if st = 4 then ioInc s aCIPHCNT 18 9
  else if st = 3 then ioInc s aCIPHCNT 27 9
  else s

/-- What a core keeps of its ended job (R169); a core reset since the job started keeps nothing of it (R442). -/
def coreJobEnd (st : Nat) (k : Core) : Core :=
  if k.ciphBusy then { k with ciphBusy := false, ciphSt := st } else k

/-- Job `n` leaves the port with status `st` and DETAIL `detail`. -/
def jobLeave (s : State) (n : Nat) (j : Job) (st detail : Nat) : State :=
  let s := cipherCount (jobDel s n) n st
  let s := if n < 32 then modCore (resultPut s j st detail) j.core (coreJobEnd st) else s
  cipherPass 34 s

/-- A ciph performed by core `c` (R432, R434): its job waits for the engine, or ends at once with FAULT. -/
def ciphStart (s : State) (c ring func len : Nat) (key : Payload) (block : Nat) : State :=
  let w := (List.range 13).map fun i => memGet s (block + i)
  let j := jobOfBlock w c ring func len key block
  let s := modCore s c fun k => { k with ciphBusy := true }
  let d := blockDetail s w j len
  if d = 0 then jobStart s c j else jobLeave s c j 5 d

/-! ## The engine's accesses -/

/-- Words packed into bytes, 5 per word, least significant first (R59). -/
def packBytes (ws : List Word) : List Byte :=
  ws.flatMap fun w => (List.range 5).map fun i => BitVec.ofNat 8 (w.toNat / 2 ^ (8 * i))

/-- A failed check during a job: the job ends with this DETAIL when it ends (R434). -/
def jobFail (s : State) (n : Nat) (j : Job) (detail : Nat) : State :=
  if j.fault then s else jobPut s n { j with fault := true, detail := detail }

/-- The memory area of a core's job that the engine reads: its address and its length in bytes. -/
def readArea (j : Job) : EngArea → Option (Nat × Nat)
  | .input => some (j.inA, j.len)
  | .aad => if usesAad j.func then some (j.aadA, j.aadLen) else none
  | _ => none

/-- Bytes that the engine reads of the block as the port read it: IV, tag, and for function 0 the KEYREF to wrap, 5 bytes
of its word (log entry 27). -/
def blockArea (j : Job) : EngArea → List Byte
  | .iv => if usesIv j.func then bytesOf j.ivLen ((j.words.drop 1).take 4) else []
  | .tag => if verifies j.func then bytesOf j.tagLen (j.words.drop 5) else []
  | .key => if j.func = 0 then packBytes (j.words.take 1) else []
  | _ => []

/-- The bytes of an area of byte words. -/
def areaBytes (s : State) (a len : Nat) : List Byte :=
  bytesOf len ((List.range ((len + 3) / 4)).map fun i => memGet s (a + i))

/-- A byte word written by the port: the bytes of `b` from place `p` on, the places before kept from the word. -/
def byteWord (old : Word) (p : Nat) (b : List Byte) : Word :=
  let keep := if wtag old = .bits ∨ wtag old = .nat then pay old % 2 ^ (8 * p) else 0
  bitsW (((List.range 4).foldl (fun n i =>
    if p ≤ i then n + (b.getD (i - p) 0#8).toNat * 2 ^ (8 * i) else n) keep) % 2 ^ 32)

/-- Bytes written to an area of byte words from byte `off` on, word by word. -/
def areaWrite (s : State) (j : Job) (a : Nat) : Nat → Nat → List Byte → State
  | 0, _, _ => s
  | f + 1, off, b =>
    if b.isEmpty then s
    else
      let p := off % 4
      let at_ := a + off / 4
      areaWrite (portPut s j at_ (byteWord (memGet s at_) p (b.take (4 - p)))) j a f (off + (4 - p)) (b.drop (4 - p))

/-- Output words that a job could write become EMPTY:0 (R436). -/
def zeroOut (s : State) (j : Job) : State :=
  (List.range ((outLimit s j + 3) / 4)).foldl (fun s i => portPut s j (j.outA + i) emptyW) s

end Sys2Proof.Machine
end

