-- ==== Sys2Proof/Machine/Sha.lean ====
section
/-! DEFINITION. SHA-256, named by R449 and not described in the spec: the published algorithm (FIPS 180-4), PRESUMED,
log entry 14. -/

namespace Sys2Proof.Machine

/-- The round constants. -/
def shaK : List Nat :=
  [0x428a2f98, 0x71374491, 0xb5c0fbcf, 0xe9b5dba5, 0x3956c25b, 0x59f111f1, 0x923f82a4, 0xab1c5ed5,
   0xd807aa98, 0x12835b01, 0x243185be, 0x550c7dc3, 0x72be5d74, 0x80deb1fe, 0x9bdc06a7, 0xc19bf174] ++
  [0xe49b69c1, 0xefbe4786, 0x0fc19dc6, 0x240ca1cc, 0x2de92c6f, 0x4a7484aa, 0x5cb0a9dc, 0x76f988da,
   0x983e5152, 0xa831c66d, 0xb00327c8, 0xbf597fc7, 0xc6e00bf3, 0xd5a79147, 0x06ca6351, 0x14292967] ++
  [0x27b70a85, 0x2e1b2138, 0x4d2c6dfc, 0x53380d13, 0x650a7354, 0x766a0abb, 0x81c2c92e, 0x92722c85,
   0xa2bfe8a1, 0xa81a664b, 0xc24b8b70, 0xc76c51a3, 0xd192e819, 0xd6990624, 0xf40e3585, 0x106aa070] ++
  [0x19a4c116, 0x1e376c08, 0x2748774c, 0x34b0bcb5, 0x391c0cb3, 0x4ed8aa4a, 0x5b9cca4f, 0x682e6ff3,
   0x748f82ee, 0x78a5636f, 0x84c87814, 0x8cc70208, 0x90befffa, 0xa4506ceb, 0xbef9a3f7, 0xc67178f2]

/-- The initial hash value. -/
def shaH0 : List Nat :=
  [0x6a09e667, 0xbb67ae85, 0x3c6ef372, 0xa54ff53a, 0x510e527f, 0x9b05688c, 0x1f83d9ab, 0x5be0cd19]

/-- Rotation right of a 32-bit number. -/
def ror32 (n x : Nat) : Nat := x / 2 ^ n + x * 2 ^ (32 - n) % 2 ^ 32

/-- The small sigma functions of the message schedule. -/
def shaSmall (a b c x : Nat) : Nat := ror32 a x ^^^ ror32 b x ^^^ (x / 2 ^ c)

/-- The big sigma functions of the rounds. -/
def shaBig (a b c x : Nat) : Nat := ror32 a x ^^^ ror32 b x ^^^ ror32 c x

/-- The message schedule, newest word first. -/
def shaSchedule (block : List Nat) : List Nat :=
  ((List.range 48).foldl (fun w _ =>
    ((shaSmall 17 19 10 (w.getD 1 0) + w.getD 6 0 + shaSmall 7 18 3 (w.getD 14 0) + w.getD 15 0) % 2 ^ 32) :: w)
    block.reverse).reverse

/-- One round on the working variables a to h. -/
def shaRound (v : List Nat) (k w : Nat) : List Nat :=
  match v with
  | [a, b, c, d, e, f, g, h] =>
    let t1 := h + shaBig 6 11 25 e + ((e &&& f) ^^^ ((2 ^ 32 - 1 - e) &&& g)) + k + w
    let t2 := shaBig 2 13 22 a + ((a &&& b) ^^^ (a &&& c) ^^^ (b &&& c))
    [(t1 + t2) % 2 ^ 32, a, b, c, (d + t1) % 2 ^ 32, e, f, g]
  | _ => v

/-- The compression of one 16-word block. -/
def shaBlock (h block : List Nat) : List Nat :=
  let v := (shaK.zip (shaSchedule block)).foldl (fun v p => shaRound v p.1 p.2) h
  (h.zip v).map fun p => (p.1 + p.2) % 2 ^ 32

/-- Bytes as big-endian 32-bit words. -/
def shaWords : List Nat → List Nat
  | a :: b :: c :: d :: t => (((a * 256 + b) * 256 + c) * 256 + d) :: shaWords t
  | _ => []

/-- The padded message. -/
def shaPad (m : List Nat) : List Nat :=
  let z := (119 - m.length % 64) % 64
  m ++ [0x80] ++ List.replicate z 0 ++ (List.range 8).map fun i => m.length * 8 / 2 ^ (8 * (7 - i)) % 256

/-- The blocks of a word list compressed in order. -/
def shaBlocks : Nat → List Nat → List Nat → List Nat
  | 0, h, _ => h
  | f + 1, h, w => if w.length < 16 then h else shaBlocks f (shaBlock h (w.take 16)) (w.drop 16)

/-- SHA-256 of a byte string. -/
def sha256 (m : List Nat) : BitVec 256 :=
  let w := shaWords (shaPad m)
  BitVec.ofNat 256 ((shaBlocks w.length shaH0 w).foldl (fun n x => n * 2 ^ 32 + x) 0)

end Sys2Proof.Machine
end

