-- ==== Sys2Proof/Machine/Ledger.lean ====
section
/-! DEFINITION. The ledger engine: records (R446, R447), the chain (R449), checkpoints and their seals (R450, R451), the
spool (R458), the anchor mirror, and the end of cipher jobs with its KEYLOW record (R438). -/

namespace Sys2Proof.Machine

/-! ## Registers -/

/-- The next sequence, LEDGSEQ. -/
def ledgSeq (s : State) : Nat := pay (ioGet s aLEDGSEQLO) + pay (ioGet s aLEDGSEQHI) * 2 ^ 36
/-- LEDGSEQ set. -/
def ledgSeqPut (s : State) (n : Nat) : State :=
  ioPut (ioPut s aLEDGSEQLO (natW n)) aLEDGSEQHI (natW (n / 2 ^ 36 % 2 ^ 12))
/-- LEDGSTAT.ANCH: 0 unanchored, 1 anchored, 2 epoch exhausted. -/
def anch (s : State) : Nat := ioF s aLEDGSTAT 0 2
/-- LEDGCFG.N, 0 acting as 1. -/
def sealN (s : State) : Nat := max 1 (ioF s aLEDGCFG 0 13)
/-- LEDGKEY holds a KEYREF. -/
def ledgKeyed (s : State) : Bool := wtag (ioGet s aLEDGKEY) = .keyref
/-- The state with the ledger engine changed by `f`. -/
def modLedger (s : State) (f : Ledger → Ledger) : State := { s with ledger := f s.ledger }

/-! ## Spool -/

/-- The first word of spool slot `j` (R553). -/
def spoolAddr (j : Nat) : Nat := 0xC0000 + 32 * j
/-- May the engine use the bank of spool slot `j` (R262, R273)? -/
def spoolOk (s : State) (j : Nat) : Bool :=
  let b := bankOf (spoolAddr j)
  bankOwner s b == 11 && bankState s b == 0
/-- The lowest slot from `i` on that none of the ascending numbers `used` names. -/
def lowestFree : Nat → Nat → List Nat → Nat
  | 0, i, _ => i
  | f + 1, i, used => if used.contains i then lowestFree f (i + 1) used else i
/-- A slot for a new record: the lowest free one whose bank the engine may use. -/
def spoolFree (s : State) : Option Nat :=
  let used := s.ledger.recs.map (·.slot) ++
    ((List.range 4).filter fun b => !spoolOk s (2048 * b)).flatMap fun b => (List.range 2048).map (2048 * b + ·)
  let j := lowestFree (used.length + 1) 0 used
  if j < 8192 then some j else none
/-- Slots in use. -/
def spoolN (s : State) : Nat := s.ledger.recs.length
/-- A record with its slot cleared: the rest of a slot reads EMPTY:0. -/
def slotClear (s : State) (j : Nat) : State :=
  if spoolOk s j then { s with mem := s.mem.filter fun p => p.1 / 32 ≠ spoolAddr j / 32 } else s
/-- The words of a record written into its slot. -/
def slotWrite (s : State) (j : Nat) (ws : List Word) : State :=
  if spoolOk s j then memPutAll (slotClear s j) ((List.range ws.length).map fun i => (spoolAddr j + i, ws.getD i emptyW))
  else s
/-- With LEDGCFG.DRAIN = 0 and outside ISLAND, the oldest chained record leaves a full spool (R458). -/
def spoolRoom (s : State) : State :=
  if (spoolFree s).isSome || ioB s aLEDGCFG 13 || modeBit s 4 then s
  else match s.ledger.recs.find? (fun r => r.seq.isSome) with
    | none => s
    | some r => slotClear (modLedger s fun l => { l with recs := l.recs.erase r }) r.slot

/-! ## Records -/

/-- Header words h0 and h1 (R446). -/
def recHead (seq typ npay ring core : Nat) (eng dbg : Bool) : List Word :=
  [natW (seq % 2 ^ 36), natW (seq / 2 ^ 36 % 2 ^ 12 + typ % 2 ^ 10 * 2 ^ 12 + npay % 32 * 2 ^ 22 + ring % 4 * 2 ^ 27 +
    core % 32 * 2 ^ 29 + eng.toNat * 2 ^ 34 + dbg.toNat * 2 ^ 35)]
/-- The stamps h2 to h5: TB0 and TB1. -/
def recStamp (s : State) : List Word :=
  [mkW .time (tbLo s 0), mkW .wide (tbHi s 0), mkW .time (tbLo s 1), mkW .wide (tbHi s 1)]
/-- A record's words with its sequence in h0 and h1. -/
def recNumber (ws : List Word) (seq : Nat) : List Word :=
  match ws with
  | _ :: h1 :: t => natW (seq % 2 ^ 36) :: natW (setBits (pay h1) 0 12 (seq / 2 ^ 36)) :: t
  | l => l
/-- CORE of a record's header, `none` for one that the engine made. -/
def recCore (ws : List Word) : Option Nat :=
  let h := pay (ws.getD 1 emptyW)
  if bitAt h 34 then none else some (bits h 29 5)
/-- The 32 bytes of a chain head, most significant first. -/
def headBytes (h : BitVec 256) : List Nat := (List.range 32).map fun i => h.toNat / 2 ^ (8 * (31 - i)) % 256
/-- The chain head after a record (R449). -/
def chainNext (h : BitVec 256) (ws : List Word) : BitVec 256 :=
  sha256 (headBytes h ++ (packBytes ws).map (·.toNat))
/-- A head as eight BITS words, most significant first (R450). -/
def headWords (h : BitVec 256) : List Word := (List.range 8).map fun i => bitsW (h.toNat / 2 ^ (32 * (7 - i)) % 2 ^ 32)
/-- A CMAC as four BITS words, most significant first. -/
def macWords (m : BitVec 128) : List Word := (List.range 4).map fun i => bitsW (m.toNat / 2 ^ (32 * (3 - i)) % 2 ^ 32)

/-- Words into a new record without a sequence. -/
def recAdd (s : State) (ws : List Word) : Bool × State :=
  let s := spoolRoom s
  match spoolFree s with
  | none => (false, s)
  | some j => (true, slotWrite (modLedger s fun l =>
      { l with recs := l.recs ++ [{ slot := j, words := ws, seq := none, drained := false, passed := false }] }) j ws)

/-- The first record without a sequence takes `seq` and is chained behind the head. -/
def recChain (s : State) (r : LRec) (seq : Nat) : State :=
  let ws := recNumber r.words seq
  let s := slotWrite s r.slot ws
  let s := modLedger s fun l =>
    { l with
      recs := l.recs.map fun q => if q.slot = r.slot then { q with words := ws, seq := some seq } else q
      head := chainNext l.head ws
      since := l.since + 1 }
  let s := ledgSeqPut s (seq + 1)
  match recCore ws with
  | none => s
  | some c =>
    if s.ledger.recs.any fun q => q.seq.isNone && recCore q.words == some c then s
    else modCore s c fun k => { k with ledgAck := true }

/-! ## Seals -/

/-- The words that a checkpoint's seal covers: header, head, epoch and N (R450). -/
def checkpointWords (s : State) (seq : Nat) : List Word :=
  recHead seq 0x001 14 0 0 true (modeBit s 6) ++ recStamp s ++ headWords s.ledger.head ++
    [natW (pay (ioGet s aLEDGEPOCH)), natW (sealN s)]
/-- The ledger engine's job at the cipher port: a CMAC over `bytes` bytes under LEDGKEY. -/
def sealJob (s : State) (bytes : Nat) : Job :=
  { ring := 0, func := 9, len := bytes, key := BitVec.ofNat 36 (pay (ioGet s aLEDGKEY)), block := 0, words := [],
    inA := 0, outA := 0,
    aadA := 0, aadLen := 0, tagLen := 16, ivLen := 0, outN := 0, detail := 0, fault := false, atEng := false, core := 0 }
/-- A failed seal: SEALFAIL, tried again after the next record (R451). -/
def sealFail (s : State) : State := ioSetB (modLedger s fun l => { l with sealing := none, sealDue := true }) aLEDGSTAT 2 true
/-- A seal starts, or fails at once without engine or key. -/
def sealStart (s : State) : State :=
  if cipherValid s && ledgKeyed s && (jobOf s 32).isNone then
    let ws := checkpointWords s (ledgSeq s)
    jobStart (modLedger s fun l => { l with sealing := some (.checkpoint ws), sealDue := false }) 32 (sealJob s 80)
  else sealFail s
/-- Records without a sequence are chained in order while the ledger is anchored; a seal that falls due stops them
(R450). A checkpoint does not itself count towards the next one (DEDUCED, log entry 16). -/
def ledgRun : Nat → State → State
  | 0, s => s
  | f + 1, s =>
    if anch s = 1 ∧ s.ledger.sealing.isNone then
      match s.ledger.recs.find? (fun r => r.seq.isNone) with
      | none => s
      | some r =>
        let n := ledgSeq s
        let s := recChain s r n
        if (n + 1) % sealN s = 0 ∨ s.ledger.sealDue then ledgRun f (sealStart s) else ledgRun f s
    else s
/-- Every record that can be chained now is. -/
def ledgChain (s : State) : State := ledgRun (s.ledger.recs.length + 1) s
/-- A record is taken: its words enter the spool, and it is chained when its turn comes (R447). -/
def ledgTake (s : State) (typ : Nat) (payload : List Word) (ring core : Nat) (eng : Bool) : Bool × State :=
  let r := recAdd s (recHead 0 typ payload.length ring core eng (modeBit s 6) ++ recStamp s ++ payload)
  (r.1, ledgChain r.2)
/-- A record of the engine's own (R448). -/
def ledgEng (s : State) (typ : Nat) (payload : List Word) : State := (ledgTake s typ payload 0 0 true).2
/-- May ledg make a record: a slot, and fewer than 4 × N records since the last seal (R170, R451)? -/
def ledgRoom (s : State) : Bool :=
  (spoolFree (spoolRoom s)).isSome && decide (s.ledger.since < 4 * sealN s)
/-- A record of core `c` in `ring` (R170): refused when neither ring nor spool can take it. -/
def ledgCore (s : State) (typ : Nat) (payload : List Word) (ring c : Nat) : Bool × State :=
  if ledgRoom s then ledgTake (modCore s c fun k => { k with ledgAck := false }) typ payload ring c false
  else (false, s)

/-- The field anchor mirror written over the dovetail (R450, LANCHk). -/
def mirrorSend (s : State) (seq : Nat) (h : BitVec 256) : State :=
  let s := dhCfg s (fLANCH 0) (natW (seq % 2 ^ 36))
  let s := (List.range 8).foldl (fun s i => dhCfg s (fLANCH (2 + i)) (natW (h.toNat / 2 ^ (32 * (7 - i)) % 2 ^ 32))) s
  let s := dhCfg s (fLANCH 10) (natW (pay (ioGet s aLEDGEPOCH)))
  dhCfg s (fLANCH 1) (natW (seq / 2 ^ 36 % 2 ^ 12 + 2 ^ 12))

/-- A checkpoint with its seal is chained, kept among the 16 newest and mirrored (R450, R461). -/
def checkpointAdd (s : State) (ws : List Word) (mac : BitVec 128) : State :=
  let seq := ledgSeq s
  let h := s.ledger.head
  let all := ws ++ macWords mac
  match recAdd s all with
  | (false, s) => sealFail s
  | (true, s) =>
    match s.ledger.recs.find? (fun r => r.words == all && r.seq.isNone) with
    | none => s
    | some r =>
      let s := recChain s r seq
      let id := s.ledger.nextSeal
      let s := modLedger s fun l =>
        { l with
          since := 0
          sealing := none
          sealDue := false
          nextSeal := id + 1
          seals := (l.seals ++ [Seal.mk id all]).drop (l.seals.length + 1 - 16) }
      mirrorSend (ioPut s aLEDGSEAL (mkW .seal id)) seq h
/-- The seal job ends (R450, R451): the checkpoint is made, or the seal has failed. -/
def sealEnd (s : State) (ok : Bool) (mac : BitVec 128) : State :=
  match s.ledger.sealing with
  | none => s
  | some (.checkpoint ws) =>
    if ok then ledgChain (checkpointAdd s ws mac) else ledgChain (sealFail s)

/-! ## The end of cipher jobs -/

/-- The KEYLOW record of an ended job (R438). -/
def keylowRec (s : State) (n : Nat) (j : Job) : State :=
  if ioB s aCIPHCFG 16 then
    let c := if n < 32 then j.core else 0
    ledgEng s 0x004 [natW (c + 32 * j.ring + 128 * j.func), (coreOf s c).ctx]
  else s
/-- Is the key of a job one that the last REVOKE did not keep (R439)? -/
def keyGone (s : State) (j : Job) : Bool :=
  match s.keysKept with
  | none => false
  | some l => !l.contains j.key
/-- Job `n` ends with status `st` and DETAIL `d`: word 13, counts, the core's status, KEYLOW (R437, R438). -/
def jobEnd (s : State) (n : Nat) (j : Job) (st d : Nat) : State :=
  let s := jobLeave s n j st d
  if st = 3 then keylowRec s n j else s
/-- What the engine's DONE makes of a core's job: a failed check gives FAULT, AUTHFAIL in a zeroing configuration empties
OUT, a refused job under a revoked key gives FAULT 6 (R434, R436, R439). -/
def jobDone (s : State) (n : Nat) (j : Job) (st : Nat) : State :=
  if j.fault then jobEnd s n j 5 j.detail
  else if st = 1 ∧ (j.func = 6 ∨ j.func = 8) ∧ ioB s aCIPHCAP 1 then jobEnd (zeroOut s j) n j 1 8
  else if (st = 4 ∨ st = 5) ∧ keyGone s j then jobEnd s n j 5 6
  else jobEnd s n j st (if st = 5 then 1 else 0)

/-- REVOKE (R439): the keys kept, and every job at the port under another key ends with FAULT 6. -/
def cipherRevoke (s : State) : State :=
  let keep := [ioGet s aLEDGKEY, ioGet s aPAIRKEY].filter fun w => wtag w = .keyref
  let kept := keep.map fun w => BitVec.ofNat 36 (pay w)
  let s := emit { s with keysKept := some kept } (.engRevoke kept)
  let gone := s.jobs.filter fun p => p.2.atEng && !kept.contains p.2.key
  gone.foldl (fun s p =>
    let s := jobEnd s p.1 p.2 5 6
    if p.1 = 32 then sealEnd s false 0#128
    else if p.1 = 33 then { s with dbg := { s.dbg with verify := false } } else s) s

end Sys2Proof.Machine
end

