-- ==== Sys2Proof/Machine/Complete.lean ====
section
/-! DEFINITION. Completions (R407 to R413): the slot of an entry, the order of a ring with INORDER, the completion spool,
unsolicited reports, and the write of a completion once the access-control unit has permitted it. -/

namespace Sys2Proof.Machine

/-! ## Ring tables -/

/-- LOG2N of submission ring `q`. -/
def sqLog (s : State) (q : Nat) : Nat := barF s (bSQ q 8) 1 5
/-- The completion ring bound to submission ring `q`. -/
def sqCq (s : State) (q : Nat) : Nat := barF s (bSQ q 8) 8 8
/-- Is completion ring `r` enabled and not BAD? -/
def cqOn (s : State) (r : Nat) : Bool := barB s (bCQ r 8) 0 && !barB s (bCQ r 12) 18
/-- Slots of completion ring `r`. -/
def cqSize (s : State) (r : Nat) : Nat := 2 ^ barF s (bCQ r 8) 1 5
/-- Slots of ring `r` reserved by outstanding entries of the rings bound to it (R401). -/
def cqReserved (s : State) (r : Nat) : Nat := (s.entries.filter fun e => sqCq s e.q == r).length
/-- Unsolicited completions of ring `r` on their way. -/
def cqUnsol (s : State) (r : Nat) : Nat :=
  (s.acQ.filter fun i => match i with | .comp q resv _ _ _ _ _ => q == r && !resv | _ => false).length
/-- Completions of entries of ring `r` on their way: their slots are still reserved. -/
def cqFlying (s : State) (r : Nat) : Nat :=
  (s.acQ.filter fun i => match i with | .comp q resv _ _ _ _ _ => q == r && resv | _ => false).length +
  (s.spool.filter fun e => e.cq == r && e.resv).length
/-- Completions of ring `r` that were asked of the access-control unit and are not answered. -/
def cqAsked (s : State) (r : Nat) : Nat :=
  (s.acQ.filter fun i => match i with | .comp q _ _ _ _ _ _ => q == r | _ => false).length
/-- The host address of the slot that the next completion of ring `r` takes. -/
def cqNextAddr (s : State) (r : Nat) : Nat :=
  barGet s (bCQ r 0) + 32 * ((barF s (bCQ r 12) 0 16 + cqAsked s r) % cqSize s r)
/-- Slots of ring `r` that are neither written nor reserved. -/
def cqFree (s : State) (r : Nat) : Nat :=
  cqSize s r - (tabGet 0 s.cqUsed r + cqReserved s r + cqUnsol s r + cqFlying s r)
/-- LATE of completion ring `r` one higher (R398, R409). -/
def lateInc (s : State) (r : Nat) : State := barSetF s (bCQ r 12) 24 8 (satAt 255 (barF s (bCQ r 12) 24 8 + 1))

/-! ## Completion spool -/

/-- The places of the spool. -/
def spoolSlots : Nat := 32704
/-- The first word of spool entry `k` (R553). -/
def cspAddr (k : Nat) : Nat := 0x100100 + 4 * k
/-- May HL use the banks of the spool (owner 9, STATE 0)? -/
def cspOk (s : State) (k : Nat) : Bool :=
  bankOwner s (bankOf (cspAddr k)) == 9 && bankState s (bankOf (cspAddr k)) == 0
/-- Is there a place in the spool? -/
def cspRoom (s : State) : Bool := decide (s.spool.length < spoolSlots) && cspOk s (s.spoolPos % spoolSlots)
/-- A completion enters the spool. -/
def cspPut (s : State) (r : Nat) (resv noirq hold : Bool) (ws : List Word) : State :=
  let k := s.spoolPos % spoolSlots
  memPutAll { s with
    spool := s.spool ++ [{ slot := k, cq := r, resv := resv, noirq := noirq, hold := hold }]
    spoolPos := k + 1 } ((List.range 4).map fun i => (cspAddr k + i, ws.getD i emptyW))
/-- Does a completion of ring `r` go to the spool: ISLAND, no link, its ring not enabled, or an older one there (R413)? -/
def cspNeeded (s : State) (r : Nat) : Bool :=
  modeBit s 4 || !hlUp s || !cqOn s r || s.spool.any fun e => e.cq == r

/-! ## Sending a completion -/

/-- A completion leaves for ring `r`: discarded when the host has disabled the ring (R398), spooled, or asked of the
access-control unit; `none` while the spool has no place. -/
def compOut (s : State) (r : Nat) (resv noirq : Bool) (ws : List Word) : Option State :=
  if s.cqOff.contains r then some (lateInc s r)
  else if cspNeeded s r then (if cspRoom s then some (cspPut s r resv noirq false ws) else none)
  else some (acAsk s (.completion (Fin.ofNat 256 r)) (.comp r resv noirq (ws.getD 0 emptyW) (ws.getD 1 emptyW)
    (ws.getD 2 emptyW) (ws.getD 3 emptyW)) true (cqNextAddr s r) 32)

/-- w0 to w3 of a completion, PHASE not yet set (R407). -/
def compWords (q seq st : Nat) (w1 w2 w3 : Word) : List Word := [natW (st + 256 * q + 65536 * seq), w1, w2, w3]

/-- Does an entry carry FENCE (R404)? -/
def Entry.fence (e : Entry) : Bool := bitAt (pay (e.words.getD 0 emptyW)) 8
/-- Does an entry carry NOIRQ (R404)? -/
def Entry.noirq (e : Entry) : Bool := bitAt (pay (e.words.getD 0 emptyW)) 10
/-- Is `e` the first outstanding entry of its ring? -/
def firstOfRing (s : State) (e : Entry) : Bool := (s.entries.find? fun x => x.q == e.q) == some e
/-- May the completion that HL holds for `e` be written (R410)? -/
def releasable (s : State) (e : Entry) : Bool :=
  e.comp.isSome && (!barB s (bSQ e.q 8) 6 || firstOfRing s e)
/-- An entry with its completion sent is no longer outstanding; a fenced entry that it held back is offered (R404). -/
def entryDrop (s : State) (e : Entry) : State :=
  let s := { s with entries := s.entries.erase e }
  match s.entries.find? (fun x => x.q == e.q) with
  | some x => if x.fence && decide (x.st = .fetched) then raise s (448 + e.q % 64) else s
  | none => s
/-- The completions that may be written now are sent, in entry order. -/
def compRelease : Nat → State → State
  | 0, s => s
  | f + 1, s =>
    match s.entries.find? (releasable s) with
    | none => s
    | some e => match e.comp with
      | none => s
      | some (st, w1, w2, w3) =>
        match compOut (entryDrop s e) (sqCq s e.q) true e.noirq (compWords e.q e.seq st w1 w2 w3) with
        | none => s
        | some s => compRelease f s

/-- The state with entry `e` replaced by `e'`. -/
def entryPut (s : State) (e e' : Entry) : State := { s with entries := s.entries.map fun x => if x = e then e' else x }

/-- An entry completes with `st`, `w1` and RESULT `w3` (R409). -/
def entryDone (s : State) (e : Entry) (st : Nat) (w1 w3 : Word) : State :=
  let ck := e.words.getD 4 emptyW
  let w2 := if wtag ck = .nat ∨ wtag ck = .bits then ck else natW 0
  let s := entryPut s e { e with st := .ready, comp := some (st, w1, w2, w3) }
  compRelease s.entries.length s

/-- The handle of an entry, SESSION:0 where it carries none. -/
def Entry.handle (e : Entry) : Word :=
  let w := e.words.getD 1 emptyW
  if wtag w = .session then w else mkW .session 0

/-- The entries that `p` chooses among those fetched and not taken complete with FLUSHED (R396, R398, R413). -/
def flushEntries (s : State) (p : Entry → Bool) : State :=
  (s.entries.filter fun e => decide (e.st = .fetched) && p e).foldl
    (fun s e => entryDone s e 0x12 e.handle (natW 0)) s

/-- An unsolicited report of KIND `k` on ring `r` (R407), when it has room. -/
def unsolSend (s : State) (r k : Nat) (w1 w2 w3 : Word) : Option State :=
  if !cspNeeded s r && cqFree s r == 0 && !s.cqOff.contains r then none
  else compOut s r false false [natW (256 * k + 2 ^ 33), w1, w2, w3]

/-- The pending KIND 1 reports are made as far as there is room (R413, R488). -/
def readyFlush (s : State) : State :=
  s.readyPend.foldl (fun s n =>
    match unsolSend s 0 1 (mkW .session 0) (natW 0) (natW n) with
    | none => s
    | some s => { s with readyPend := s.readyPend.erase n }) s

/-- A READYMAP bit rises, with its report. -/
def readyUp (s : State) (n : Nat) : State := readyFlush (readySet s n)
/-- A READYMAP bit follows a condition. -/
def readyFollow (s : State) (n : Nat) (b : Bool) : State := if b then readyUp s n else readyClear s n

/-! ## After the answer of the access-control unit -/

/-- A host word of slot form (R58). -/
def slotData (w : Word) : BitVec 64 := BitVec.ofNat 64 w.toNat

/-- A permitted completion is written at TAIL: w1 to w3, then w0 with PHASE, then MSI-X (R408, R411). -/
def compWrite (s : State) (r : Nat) (noirq : Bool) (w0 w1 w2 w3 : Word) : State :=
  let t := barF s (bCQ r 12) 0 16
  let ph := barF s (bCQ r 12) 16 1
  let a := barGet s (bCQ r 0) + 32 * t
  let s := emit s (.hostWrite (a + 8) [slotData w1, slotData w2, slotData w3] 8 false)
  let s := emit s (.hostWrite a [BitVec.ofNat 64 (w0.toNat + ph * 2 ^ 32)] 8 false)
  let n := cqSize s r
  let s := barSetF s (bCQ r 12) 0 16 ((t + 1) % n)
  let s := if t + 1 = n then barSetF s (bCQ r 12) 16 1 (1 - ph) else s
  let s := { s with cqUsed := tabSet 0 s.cqUsed r (tabGet 0 s.cqUsed r + 1) }
  if barB s (bCQ r 8) 6 && !noirq && !s.msiSent.contains r then
    msixSend { s with msiSent := s.msiSent ++ [r] } (barF s (bCQ r 8) 7 9)
  else s

/-- What a denial leaves in ACSTAT and ACCNT (R445). -/
def acDenied (s : State) (kind core ans : Nat) : State :=
  let s := ioPut s aACSTAT (natW (ans + 256 * kind + 2048 * core))
  if ans = 0xFE then ioInc s aACCNT 18 18 else ioInc s aACCNT 0 18

/-- Spooled completions are written to their rings, in spool order, as slots become free (R413); those that a denial put
there wait for their ring's next enable (R445). -/
def cspReplay : Nat → List Nat → State → State
  | 0, _, s => s
  | f + 1, skip, s =>
    if modeBit s 4 || !hlUp s then s
    else match s.spool.find? (fun e => !skip.contains e.cq) with
      | none => s
      | some e =>
        if s.cqOff.contains e.cq then cspReplay f skip (lateInc { s with spool := s.spool.erase e } e.cq)
        else if !e.hold && cqOn s e.cq && (e.resv || decide (0 < cqFree s e.cq)) then
          let w := fun i => memGet s (cspAddr e.slot + i)
          cspReplay f skip (acAsk { s with spool := s.spool.erase e } (.completion (Fin.ofNat 256 e.cq))
            (.comp e.cq e.resv e.noirq (w 0) (w 1) (w 2) (w 3)) true (cqNextAddr s e.cq) 32)
        else cspReplay f (e.cq :: skip) s

/-- The spool is replayed, then what HL held for want of a spool place, then the ready reports. -/
def hlReplay (s : State) : State :=
  let s := cspReplay (2 * s.spool.length + 1) [] s
  readyFlush (compRelease s.entries.length s)

end Sys2Proof.Machine
end

