-- ==== Sys2Proof/Machine/Mode.lean ====
section
/-! DEFINITION. The mode lattice: resolution (R463), what follows a change of MODE (R468 to R475), the entry to ALARM
(R474), the power of clusters and of HL (R473, R481). -/

namespace Sys2Proof.Machine

/-! ## Masks -/

/-- A core mask with the checkers' bits read as copies of their partners' under E (R472). -/
def maskCopies (s : State) (m : Nat) : Nat :=
  if modeBit s 2 then setBits (setBits m 1 1 (bits m 0 1)) 5 1 (bits m 4 1) else m
/-- The effective QMASK: empty without Q, cores 0, 1, 4 and 5 under A (R471, R475). -/
def effQuiet (s : State) : Nat :=
  if !modeBit s 1 then 0 else if modeBit s 7 then 0x33 else maskCopies s (pay (ioGet s aQMASK))
/-- The effective CMASK: empty without C and under A (R471, R475). -/
def effCompat (s : State) : Nat :=
  if !modeBit s 0 || modeBit s 7 then 0 else maskCopies s (pay (ioGet s aCMASK))
/-- Does the change from `s` to `t` give core `c` another membership? It applies at the core's next boundary (R468). -/
def memberChange (s t : State) (c : Nat) : Bool :=
  bitAt (effQuiet s) c != bitAt (effQuiet t) c || bitAt (effCompat s) c != bitAt (effCompat t) c
/-- CMP and QT of a core set, or left pending while it is inside a microword. -/
def setMembership (cmp qt : Bool) (k : Core) : Core :=
  if k.mw.isEmpty then { k with mstat := mSet (mSet k.mstat 2 1 cmp.toNat) 3 1 qt.toNat, modeNew := none }
  else { k with modeNew := some (cmp, qt) }
/-- The cores whose membership changed from `s` to `t` follow it. -/
def followMasks (s t : State) : State :=
  ((List.range 32).filter (memberChange s t)).foldl (fun t c =>
    modCore t c (setMembership (bitAt (effCompat t) c) (bitAt (effQuiet t) c))) t

/-! ## Lockstep -/

/-- MODESTAT.LOCK of pair `p` set, with a LOCKSTEP record when it changes (R472). -/
def lockSet (s : State) (p : Nat) (b : Bool) : State :=
  if ioB s aMODESTAT (9 + p) == b then s
  else
    let s := ioSetB s aMODESTAT (9 + p) b
    ledgEng s 0x013 [natW (ioF s aMODESTAT 9 2)]
/-- The pair of a keeper core. -/
def pairOf (c : Nat) : Option Nat := if c = 0 ∨ c = 1 then some 0 else if c = 4 ∨ c = 5 then some 1 else none
/-- The lockstep of a core's pair is broken. -/
def lockBreak (s : State) (c : Nat) : State :=
  match pairOf c with
  | none => s
  | some p => lockSet s p false

/-! ## Debug session -/

/-- The debug session detaches, and every halted core resumes (R527). -/
def dbgDetach (s : State) : State :=
  let s := ioSetF s aDBGSTAT 1 4 0
  (List.range 32).foldl (fun s c => modCore s c fun k => { k with halted := false, haltReq := false, stepReq := false }) s
/-- Is a debug session attached? -/
def dbgAttached (s : State) : Bool := ioB s aDBGSTAT 1
/-- Is it the mailbox's? -/
def dbgMailbox (s : State) : Bool := dbgAttached s && !ioB s aDBGSTAT 4

/-! ## Power of clusters -/

/-- The cores of cluster `n`. -/
def clusterCores (n : Nat) : List Nat := [4 * n, 4 * n + 1, 4 * n + 2, 4 * n + 3]
/-- Is cluster `n` powered? -/
def clusterOnNow (s : State) (n : Nat) : Bool := !s.clOff.contains n
/-- Is cluster `n` kept powered: C0, KEEP, the carrier's, and the pairs of R475? -/
def clusterKept (s : State) (n : Nat) : Bool :=
  n == 0 || !modeBit s 3 || ioB s aMODECFG n || s.carrier / 4 == n || (modeBit s 7 && n == 1) ||
  (modeBit s 6 && (clusterCores n).any fun c => (coreOf s c).halted) ||
  (match s.splice with | some (a, b, _) => a / 4 == n || b / 4 == n | none => false) ||
  (clusterCores n).any fun c => bitAt (effQuiet s) c
/-- A cluster is powered on; its cores stay off until their self-tests end (R473, R484). -/
def clusterOn (s : State) (n : Nat) : State :=
  ioSetB { s with clOff := s.clOff.filter (· ≠ n) } aMODESTAT (1 + n) false
/-- Every cluster that must be powered is. -/
def clusterWake (s : State) : State := (s.clOff.filter (clusterKept s)).foldl clusterOn s

/-! ## HL -/

/-- Is HL to be powered off (R481)? -/
def hlMayOff (s : State) : Bool :=
  modeBit s 4 && modeBit s 3 && ioB s aMODECFG 8 && !modeBit s 7 && ioF s aMODECAUSE 0 3 == 0
/-- HL powered off: a mailbox session is detached (R475). -/
def hlDown (s : State) : State :=
  let s := readyClear { s with hlOff := true } 2
  if dbgMailbox s then ioSetB (dbgDetach s) aMODECAUSE 6 false else s
/-- HL powered on again: ILINK holds until the link has trained. -/
def hlOn (s : State) : State := ioSetB { s with hlOff := false } aMODECAUSE 0 true

/-! ## Resolution -/

/-- HOLD, from the causes (R466). -/
def modeHold (s : State) : Nat :=
  let k := pay (ioGet s aMODECAUSE)
  16 * (bits k 0 3 != 0).toNat + 32 * (bits k 3 2 != 0).toNat + 128 * bits k 5 1 + 64 * bits k 6 1
/-- MODE and IGN from REQ or HOLD (R463). -/
def modeOf (raw : Nat) : Nat × Nat :=
  let m := if bitAt raw 7 then (raw ||| 6) &&& 0xBF else raw
  (m, raw &&& (0xFF - m))
/-- DEVMODE resolved. -/
def modeWrite (s : State) : State :=
  let req := ioF s aDEVMODE 8 8
  let h := modeHold s
  let m := modeOf (req ||| h)
  ioPut s aDEVMODE (natW (m.1 + 256 * req + 65536 * h + 2 ^ 24 * m.2))
/-- MODE now. -/
def modeNow (s : State) : Nat := ioF s aDEVMODE 0 8

/-- Entry to ALARM (R474). Step 5, the ROM's pinned lines, belongs to the ROM's content, which the spec does not give. -/
def alarmEnter (s : State) : State :=
  let s := cipherRevoke s
  let s := ioSetB { s with dbg := { s.dbg with asked := none, verify := false } } aDBGSTAT 0 false
  let s := if dbgAttached s then dbgDetach s else s
  let s := ioSetB s aMODECAUSE 6 false
  let s := (List.range 32).foldl (fun s c =>
    if coreState s c = 0 then modCore s c fun k => { k with pend := k.pend ++ [.nmi 2] } else s) s
  if dvPaired s then dhSafeSet (dhSafeSet s false false (2 ^ 32 - 1)) true false (2 ^ 32 - 1) else s

/-- What follows a change of MODE from the word `old` (R468, R471). -/
def modeEffects (before : State) (old : Word) (s : State) : State :=
  let new := ioGet s aDEVMODE
  let o := pay old
  let n := pay new
  let s := ledgEng s 0x012 [old, new]
  let s := raise s 606
  let s := followMasks before s
  let s := if !bitAt o 7 && bitAt n 7 then alarmEnter s else s
  let s := if !bitAt o 4 && bitAt n 4 then flushEntries s (fun _ => true) else s
  let s := if !bitAt o 4 && bitAt n 4 && dvPaired s && ioB s (aSHADOW fBYPCTL) 1 then
      dhSend s ⟨0x13, natW 1, natW 0⟩ else s
  let s := if bitAt o 2 && !bitAt n 2 then lockSet (lockSet s 0 false) 1 false else s
  clusterWake s

/-- Resolution until nothing changes: a change of MODE takes effect and may change a cause. -/
def modeRun : Nat → State → State
  | 0, s => s
  | f + 1, s =>
    let old := ioGet s aDEVMODE
    let t := modeWrite s
    if modeNow t ≠ pay old % 256 then modeRun f (modeEffects s old t)
    else if hlMayOff t && !t.hlOff then modeRun f (hlDown t)
    else if !hlMayOff t && t.hlOff then modeRun f (hlOn t)
    else t

/-- A hardware cause set or cleared (R466): 0 ILINK, 1 IHOST, 2 IDOVE, 3 SKERF, 4 SSPLICE, 5 ATAMP, 6 DATT. -/
def setCause (s : State) (i : Nat) (b : Bool) : State :=
  if ioB s aMODECAUSE i == b then s else modeRun 6 (ioSetB s aMODECAUSE i b)

/-- A request: REQ with the bits of `v` where `mask` is 1 (R464). Clearing REQ.D detaches the debugger (R527). -/
def modeRequestDo (s : State) (v mask : Nat) : State :=
  let req := ioF s aDEVMODE 8 8
  let r := (req &&& (0xFF - mask % 256)) ||| (v &&& mask % 256)
  let s := ioSetF s aDEVMODE 8 8 r
  let s := if bitAt req 6 && !bitAt r 6 then
      ioSetB (if dbgAttached s then dbgDetach s else s) aMODECAUSE 6 false else s
  modeRun 6 s

/-- A mask or MODECFG has changed from its value in `before`: cores and clusters follow (R468, R473). -/
def maskWritten (before s : State) : State := modeRun 6 (clusterWake (followMasks before s))

/-! ## Tamper -/

/-- A tamper cause (R520): its TAMPSTAT bit, FIRST and ISLAND for the first, ATAMP. -/
def tamper (s : State) (bit : Nat) (island : Option Nat) : State :=
  let first := ioF s aTAMPSTAT 0 8 == 0
  let noSensor := ioF s aTAMPSTAT 1 5 == 0
  let s := if first then ioSetF s aTAMPSTAT 8 3 bit else s
  let s := match island with
    | some i => if noSensor then ioSetF s aTAMPSTAT 11 4 i else s
    | none => s
  setCause (ioSetB s aTAMPSTAT bit true) 5 true

end Sys2Proof.Machine
end

