-- ==== Sys2Proof/Machine/Kerf.lean ====
section
/-! DEFINITION. Kerf and reset of a core (R496 to R498, R573), and the keeper takeover (R503). -/

namespace Sys2Proof.Machine

/-- Is any unit kerfed: a core, a bank that a failed march left in STATE 3, a heartwood driver with AFAIL or BFAIL, a
dovetail lane (R466; which units count is DEDUCED, log entry 17)? -/
def anyKerfed (s : State) : Bool :=
  pay (ioGet s aKERFCORE) != 0 ||
  ((List.range 32).any fun n => bankState s n == 3 && (match s.marching with | some (m, _) => m != n | none => true)) ||
  ((List.range 8).any fun h => ioF s (aSHADOW (fHWCH h)) 3 2 != 0) || ioF s aDVSTAT 6 8 != 0
/-- SKERF follows the units. -/
def skerfFollow (s : State) : State := setCause s 3 (anyKerfed s)

/-- Has cluster `n` power and a ready core (R488)? -/
def clusterReady (s : State) (n : Nat) : Bool :=
  clusterOnNow s n && (clusterCores n).any fun c => decide (coreState s c < 2)
/-- READYMAP.CL of a cluster follows its cores. -/
def clusterReport (s : State) (n : Nat) : State := readyFollow s (4 + n) (clusterReady s n)

/-- A mask with bit `a` moved to bit `b`. -/
def moveBit (m a b : Nat) : Nat := if bitAt m a then setBits (setBits m b 1 1) a 1 0 else m
/-- The bits of core `a` moved to core `b` in the registers at `as_`. -/
def moveBits (s : State) (a b : Nat) (as_ : List Nat) : State :=
  as_.foldl (fun s r => ioPut s r (mkW (wtag (ioGet s r)) (moveBit (pay (ioGet s r)) a b))) s
/-- The SRCMASK registers that hold a bit. -/
def srcMasks (s : State) : List Nat := (s.io.filter fun p => decide (0x010400 ≤ p.1) && decide (p.1 < 0x010800)).map (·.1)
/-- SRCMASKs, PARTn and DISPMASK (R503). -/
def workMasks (s : State) : List Nat := srcMasks s ++ (List.range 4).map aPART ++ [aDISPMASK]

/-- The sessions that core `c` holds lose their busy bit (R497). -/
def sessFree (s : State) (c : Nat) : State :=
  { s with sess := s.sess.map fun p => if p.2.busy = some c then (p.1, { p.2 with busy := none }) else p }

/-- The takeover of the keeper work when the carrier is kerfed (R503): by the other pair's carrier, or by the lowest
running core of DISPMASK. -/
def takeover (s : State) : State :=
  let a := s.carrier
  let other := if ioB s aHWSTAT 0 then 0 else 4
  if other ≠ a ∧ coreState s other ≠ 2 then
    let s := if s.clOff.contains (other / 4) then clusterOn s (other / 4) else s
    let s := moveBits { s with carrier := other } a other (workMasks s)
    let s := ioSetB (ioSetB s aHWSTAT 0 (other == 4)) aHWSTAT 1 false
    hubEval (setEvlat s other)
  else
    let s := ioSetB s aHWSTAT 1 false
    match (bitList 32 (pay (ioGet s aDISPMASK))).find? (fun c => c != a && coreState s c == 0) with
    | none => s
    | some b => hubEval (setEvlat (moveBits { s with carrier := b } a b (workMasks s)) b)

/-- HWSTAT.STBY: is the carrier of the other pair ready to take over (R503)? -/
def standbyFollow (s : State) : State :=
  let o := if ioB s aHWSTAT 0 then 0 else 4
  ioSetB s aHWSTAT 1 (coreState s o == 0 && o != s.carrier && clusterOnNow s (o / 4) && !s.islReset.contains (o / 4))

/-- What a kerf takes from the core itself (R497): nothing of it retires, its work slot is free. -/
def kerfStrip (k : Core) : Core :=
  { k with
    mw := []
    slots := 0
    wait := .none
    hostAcc := none
    workFull := false
    workRun := none
    compRing := none
    home := none }

/-- The handlers that run on core `c` are lost; a POST_RECV or MEASURE waits in the dispatcher's own lists. -/
def waitsDrop (s : State) (c : Nat) : State :=
  { s with waits := s.waits.filter fun w =>
      let op := pay (w.words.getD 0 emptyW) % 256
      !(w.core == c && op != 4 && op != 5) }

/-- Core `c` is kerfed for `reason` (R496, R497). -/
def kerf (s : State) (c reason : Nat) : State :=
  if coreState s c = 2 then s
  else
    let a := priv c oCORESTAT
    let w := pay (ioGet s a)
    let n := satAt 15 (bits w 4 4 + 1)
    let s := ioPut s a (natW (2 + 16 * n + 256 * reason + 2048 * bits w 11 1))
    let s := ioSetB s aKERFCORE c true
    let s := modCore s c fun k => { kerfStrip k with kerfTimes := k.kerfTimes ++ [tbGet s 1] }
    let s := waitsDrop (sessFree s c) c
    let s := elWrite s 0x02 0 c 0 reason 0
    let s := raise (hubEval s) 595
    let s := clusterReport (lockBreak s c) (c / 4)
    let s := if c = s.carrier then takeover s else s
    skerfFollow (standbyFollow s)

/-- The idle loop of the ROM: its place is ROM content; line 0x0_0201, the first of the range that R554 gives it, stands
for it (DESIGN CHOICE, log entry 18). -/
def idleLine : Nat := 0x0201

/-- A core right after its reset: what the ROM then sets, vtb and gtb (R553). -/
def Core.fresh : Core := { Core.reset with vtb := addrW 0xE000, gtb := addrW 0xE400 }

/-- A wfe that waits: what the idle loop holds. -/
def idleWfe (c : CoreId) : Instr := .wfe c { stop := true, ext := none, d := 0, a := 0, b := 0, m := 0 }

/-- A core in the idle loop: ring 0, waiting in wfe (R498). -/
def Core.idle (c : Nat) (k : Core) : Core :=
  { k with mpc := BitVec.ofNat 20 (8 * idleLine), ring := 0, mw := [idleWfe (Fin.ofNat 32 c)], slots := 1, wait := .wfe }

/-- The reset of core `c` (R573, R298): architectural state and private registers but the history in CORESTAT; its claims
and its offer; its timebase copies. The send and receive queues stand in DH, buffered stores are still performed. -/
def coreReset (s : State) (c : Nat) : State :=
  let s := dropClaims s c
  let k := coreOf s c
  let w := pay (ioGet s (priv c oCORESTAT))
  let s := { s with io := s.io.filter fun p => !(decide (priv c 0 ≤ p.1) && decide (p.1 < priv c 0 + 0x1000)) }
  let s := ioPut s (priv c oCORESTAT) (natW (w / 16 * 16 + w % 4))
  let s := setCore s c { Core.fresh with kerfTimes := k.kerfTimes, sendQ := k.sendQ, recvQ := k.recvQ, storeBuf := k.storeBuf }
  hubEval (waitsDrop (sessFree s c) c)

/-- A core parked with resume kind 1, as a spare or not (R484, R498). -/
def parkHard (s : State) (c : Nat) (spare : Bool) : State :=
  ioSetF s (priv c oCORESTAT) 0 4 (1 + 4 + 8 * spare.toNat)

end Sys2Proof.Machine
end

