-- ==== Sys2Proof/Machine/Bank.lean ====
section
/-! DEFINITION. Ownership records and their changes (R267 to R276), bank power, marches and repair (R278 to R281), and
the store buffers' part in a change (R265). -/

namespace Sys2Proof.Machine

/-! ## Store buffers -/

/-- The words of the first entry of a core's store buffer are performed, or its marker passes. -/
def storeHead (s : State) (c : Nat) : State :=
  match (coreOf s c).storeBuf with
  | [] => s
  | e :: t => memPutAll (modCore s c fun k => { k with storeBuf := t }) e.words
/-- A marker that nothing stands before holds nothing back. -/
def storeTrim (s : State) (c : Nat) : State :=
  match (coreOf s c).storeBuf with
  | [] => s
  | e :: t => if e.marker then modCore s c fun k => { k with storeBuf := t.dropWhile (·.marker) } else s
/-- The first `n` entries of a core's store buffer are performed. -/
def storeDrain (s : State) (c : Nat) : Nat → State
  | 0 => storeTrim s c
  | n + 1 => storeDrain (storeHead s c) c n
/-- The whole store buffer is performed. -/
def storeDrainAll (s : State) (c : Nat) : State := storeDrain s c (coreOf s c).storeBuf.length
/-- How many entries stand up to the last one that `p` holds of. -/
def lastIdx (p : StoreEnt → Bool) (l : List StoreEnt) : Nat :=
  ((List.range l.length).filter fun i => match l[i]? with | some e => p e | none => false).foldl (fun _ i => i + 1) 0
/-- Does a buffered store write bank `n`? -/
def entOfBank (n : Nat) (e : StoreEnt) : Bool := e.words.any fun w => bankOf w.1 == n
/-- Every buffered store to bank `n` is performed, in buffer order (R265). -/
def drainBank (s : State) (n : Nat) : State :=
  (List.range 32).foldl (fun s c => storeDrain s c (lastIdx (entOfBank n) (coreOf s c).storeBuf)) s

/-! ## Records -/

/-- STATE of a bank set. -/
def bankStatePut (s : State) (n v : Nat) : State := ioSetF s (aBANKOWN n) 32 3 v
/-- The change that runs on bank `n`. -/
def bankChgOf (s : State) (n : Nat) : Option BankChange := (s.bankChg.find? fun p => p.1 == n).map (·.2)
/-- A change of bank `n` starts: NEXT, STATE 4 (R271). -/
def bankChgStart (s : State) (n next : Nat) (b : BankChange) : State :=
  bankStatePut (ioSetF { s with bankChg := tabIns b s.bankChg n } (aBANKOWN n) 28 4 next) n 4
/-- The change of bank `n` is over. -/
def bankChgDrop (s : State) (n : Nat) : State :=
  ioSetF { s with bankChg := tabDel s.bankChg n } (aBANKOWN n) 28 4 0
/-- The lease of bank `n` starts now, on TB1 (R267). -/
def leaseStart (s : State) (n : Nat) : State :=
  { s with
    leaseAt := tabSet 0#72 s.leaseAt n (BitVec.ofNat 72 (tbGet s 1))
    nearLease := s.nearLease.filter (· ≠ n) }
/-- The full lease time of bank `n` in ns. -/
def leaseTime (s : State) (n : Nat) : Nat := ioF s (aBANKOWN n) 8 16 * (1000 * 16 ^ ioF s (aBANKOWN n) 6 2)
/-- The end of a change: OWNER := NEXT, the lease, STATE 0, DONE (R271). -/
def bankChgEnd (s : State) (n : Nat) : State :=
  let next := ioF s (aBANKOWN n) 28 4
  let s := ioSetF (bankChgDrop s n) (aBANKOWN n) 0 4 next
  let s := if next = 0 then { s with nearLease := s.nearLease.filter (· ≠ n) } else leaseStart s n
  bankEvent (bankStatePut s n 0) n 0

/-- May a BANKOWNn write of core `c` in `ring` be accepted (R269)? -/
def bankownOk (s : State) (c ring n : Nat) (w : Nat) : Bool :=
  let o := bits w 0 4
  let cur := bankOwner s n
  decide (bankState s n < 2) &&
  (if ring = 0 then decide (4 ≤ n) || o == 0
   else (decide (1 ≤ cur) && decide (cur ≤ 8) || decide (12 ≤ cur)) && ownerMay s c ring true n) &&
  (o == 0 || bits w 8 16 != 0)
/-- The fields that a BANKOWNn write gives at once: SCRUB to WRRING. -/
def bankownFields (s : State) (n w : Nat) : State := ioSetF s (aBANKOWN n) 4 24 (bits w 4 24)
/-- A BANKOWNn write (R268, R269, R271). -/
def bankownDo (s : State) (c ring n w : Nat) : State :=
  if !bankownOk s c ring n w then bankEvent s n 2
  else
    let o := bits w 0 4
    let cur := bankOwner s n
    let s := bankownFields s n w
    if bankState s n = 1 then
      let s := ioSetB (ioSetF s (aBANKOWN n) 0 4 o) (aBANKOWN n) 35 (ioB s (aBANKOWN n) 35 && o == cur)
      if o = 0 then s else leaseStart s n
    else if o = cur ∧ bitAt w 4 = false then (if o = 0 then s else leaseStart s n)
    else
      bankChgStart (ioSetB s (aBANKOWN n) 35 false) n o
        { scrub := if bitAt w 4 then 2 else if cur = 0 then 1 else 0, off := false, part := false }

/-- LEASELOST pending in the cores of a mask that run (R275). -/
def leaselostPend (s : State) (mask n : Nat) : State :=
  ((bitList 32 mask).filter fun c => coreState s c == 0).foldl (fun s c =>
    modCore s c fun k => { k with pend := k.pend ++ [.leaselost n] }) s
/-- The lease of bank `n` expires: the clamp (R271, R275, R276). -/
def clampDo (s : State) (n : Nat) : State :=
  let o := bankOwner s n
  if o = 0 ∨ 1 < bankState s n then s
  else
    let mask := if o ≤ 8 ∨ 12 ≤ o then ownerCores s o else 0
    let off := bankState s n = 1
    let s := { s with nearLease := s.nearLease.filter (· ≠ n) }
    let s := ioSetB (ioSetB s (aBANKOWN n) 35 true) (aBANKOWN n) 4 (!off || ioB s (aBANKOWN n) 4)
    let s := if off then ioSetF s (aBANKOWN n) 0 4 0
      else bankChgStart s n 0 { scrub := 2, off := false, part := false }
    elWrite (leaselostPend (bankEvent s n 1) mask n) 0x09 n 0 0 o 0

/-- Every acknowledgement of a change has arrived (R271): stores under the old record are performed, and the change goes
on with its scrub, its power-off or its end. -/
def drainDone (s : State) (n : Nat) : State :=
  if bankState s n ≠ 4 then s
  else match bankChgOf s n with
    | none => s
    | some b =>
      let s := drainBank s n
      if b.off then readyClear (bankStatePut (bankChgDrop s n) n 1) (12 + n)
      else if b.part then bankStatePut (bankChgDrop s n) n 0
      else if b.scrub = 0 then bankChgEnd s n
      else bankStatePut s n 2
/-- The scrub of a change, or the clear of an aborted march, has ended (R271). -/
def scrubEnd (s : State) (n : Nat) : State :=
  if bankState s n ≠ 2 then s
  else match bankChgOf s n with
    | none => s
    | some b => readyUp (bankChgEnd (if b.scrub = 1 then memScrubSecrets s n else memScrub s n) n) (12 + n)

/-- Is bank `n` being returned to the keeper by a clamp? -/
def clamping (s : State) (n : Nat) : Bool := ioB s (aBANKOWN n) 35 && (bankChgOf s n).isSome
/-- May core `c` in `ring` renew the lease of bank `n` (R162)? Ring 0 renews every bank's; a keeper bank changes nothing. -/
def renewOk (s : State) (c ring n : Nat) : Bool :=
  let o := bankOwner s n
  ring == 0 || (!clamping s n && o != 0 && bitAt (ownerCores s o) c)
/-- A renewal by the lease syllable (R162, R267). -/
def renewDo (s : State) (n : Nat) : State :=
  if bankOwner s n = 0 ∨ clamping s n then s else leaseStart s n

/-- A write of PARTn: every bank that the partition owns changes through steps 1 to 3 of R271 (R274). -/
def partDo (s : State) (p w : Nat) : State :=
  let s := ioPut s (aPART p) (bitsW (w % 2 ^ 32))
  ((List.range 32).filter fun n => bankOwner s n == 12 + p && bankState s n == 0).foldl (fun s n =>
    bankChgStart s n (12 + p) { scrub := 0, off := false, part := true }) s

/-! ## Power -/

/-- Is BANKPWR bit `n` fixed for now: STATE 2 or 4, or a running march (R276)? -/
def pwrBusy (s : State) (n : Nat) : Bool :=
  bankState s n == 2 || bankState s n == 4 ||
  (bankState s n == 3 && (match s.marching with | some (m, _) => m == n | none => false))
/-- One bit of a BANKPWR write. -/
def pwrBit (w : Nat) (s : State) (n : Nat) : State :=
  if bitAt w n == ioB s aBANKPWR n then s
  else if pwrBusy s n then bankEvent s n 2
  else if bitAt w n then bankStatePut (ioSetB s aBANKPWR n true) n 2
  else bankChgStart (ioSetB s aBANKPWR n false) n (bankOwner s n) { scrub := 0, off := true, part := false }
/-- A write of BANKPWR (R276). -/
def bankpwrDo (s : State) (w : Nat) : State := ((List.range 28).map (· + 4)).foldl (pwrBit w) s
/-- Are contents kept at a wake: MARCHBOOT 1 after a deadman restart (R277)? -/
def wakeKeeps (s : State) : Bool := s.straps == 1 && ioF s aRSTCAUSE 0 2 == 1
/-- A bank has woken: every word EMPTY:0, STATE 0, READY (R276, R277). -/
def wakeDone (s : State) (n : Nat) : State :=
  if bankState s n ≠ 2 ∨ (bankChgOf s n).isSome then s
  else
    let first := !readyBit s (12 + n) && tabGet 0#72 s.leaseAt n == 0#72
    let s := if wakeKeeps s then s else memScrub s n
    let s := if bankOwner s n ≠ 0 ∧ first then leaseStart s n else s
    readyUp (bankEvent (bankStatePut s n 0) n 3) (12 + n)

/-! ## March and repair -/

/-- A march is refused (R278, MARCHCTL): one runs, the bank is off or in change, or a destructive one is asked of a bank
that the keeper does not own. -/
def marchRefused (s : State) (n : Nat) (destr : Bool) : Bool :=
  s.marching.isSome || bankState s n == 1 || bankState s n == 2 || bankState s n == 4 || (destr && !bankKeeper s n)
/-- A write of MARCHCTL. -/
def marchctlDo (s : State) (w : Nat) : State :=
  let s := ioSetF s aMARCHCTL 0 7 w
  let n := bits w 0 5
  let destr := !bitAt w 5
  let s :=
    if bitAt w 8 then
      match s.marching with
      | none => s
      | some (m, d) =>
        let s := ioSetB { s with marching := none } aMARCHSTAT 0 false
        if d then { ioSetF s (aBANKOWN m) 28 4 0 with bankChg := tabIns ⟨2, false, false⟩ s.bankChg m } |> fun s =>
          bankStatePut s m 2 else s
    else s
  if bitAt w 7 then
    if marchRefused s n destr then bankEvent s n 2
    else
      let s := ioPut { s with marching := some (n, destr) } aMARCHSTAT (natW (1 + 2 * n))
      if destr then readyClear (bankStatePut s n 3) (12 + n) else s
  else s

/-- One failing row of a march: a spare when AUTOREP is 1 and one is free (R279, ROWMAP). -/
def marchRow (n : Nat) (s : State) (f : Fin 4 × Fin 256) : State :=
  if ioB s aMARCHCTL 6 then
    match freeSpare s n f.1.val with
    | none => ioSetB s aMARCHSTAT 14 true
    | some k => bankEvent (ioPut s (aROWMAP n f.1.val k) (natW (f.2.val + 256 + 512))) n 5
  else s
/-- A march of bank `n` ends with the rows `fails` failing. -/
def marchEnd (s : State) (n : Nat) (fails : List (Fin 4 × Fin 256)) : State :=
  match s.marching with
  | none => s
  | some (m, destr) =>
    if m ≠ n then s
    else
      let s := ioPut { s with marching := none } aMARCHSTAT (natW (2 * n + 64 * satAt 255 fails.length))
      let spares := fun s : State => ((List.range 4).flatMap fun w => (List.range 8).filter fun k => ioB s (aROWMAP n w k) 8).length
      let before := spares s
      let s := fails.foldl (marchRow n) s
      let ok := spares s - before == fails.length
      let s := ioSetB s aMARCHSTAT 15 ok
      let s :=
        if destr then
          (if ok then readyUp (bankStatePut (memScrub s n) n 0) (12 + n) else memScrub s n)
        else s
      skerfFollow (bankEvent s n 4)

/-- The addresses of a row of a way. -/
def rowAddrs (b w r : Nat) : List Nat := (List.range 64).map fun i => b * 0x10000 + r * 256 + 4 * i + w
/-- A live repair ends: the row's words stand in the spare, uncorrectable ones as POISON (R281). -/
def repairEnd (s : State) : State :=
  match s.repairing with
  | none => s
  | some (b, w, r, k) =>
    let s := (rowAddrs b w r).foldl (fun s a =>
      if s.eccBad.contains a then memPut s a (mkW .poison 0x10)
      else { s with eccSoft := s.eccSoft.filter (· ≠ a) }) s
    let s := ioPut { s with repairing := none } (aROWMAP b w k) (natW (r + 256 + 1024))
    let s := ioSetB s aRPCTL 13 false
    elWrite (bankEvent s b 5) 0x10 b 0 0 (r + 256 * w + 1024) 0
/-- A write of RPCTL. -/
def rpctlDo (s : State) (w : Nat) : State :=
  if ioB s aRPCTL 13 then bankEvent s (bits w 0 2) 2
  else
    let s := ioSetF s aRPCTL 0 12 w
    if bitAt w 12 then repairStart s (bits w 0 2) (bits w 2 2) (bits w 4 8) else s
/-- A write of a ROWMAP entry: only while its bank is in STATE 1 (R280). -/
def rowmapDo (s : State) (a w : Nat) : State :=
  let b := (a - 0x080400) / 32
  if bankState s b = 1 then ioPut s a (natW (w % 2 ^ 11)) else bankEvent s b 2

end Sys2Proof.Machine
end

