-- ==== Sys2Proof/Machine/Prove.lean ====
section
/-! DEFINITION. A write of LEDGKEY (R452), proofs (R461), and a core's release by KERFCTL (R498). -/

namespace Sys2Proof.Machine

/-! ## LEDGKEY -/

/-- A record of the engine's own that is chained at once, before any record that waits (R452). -/
def recNow (s : State) (typ : Nat) (payload : List Word) : State :=
  let ws := recHead 0 typ payload.length 0 0 true (modeBit s 6) ++ recStamp s ++ payload
  match recAdd s ws with
  | (false, s) => s
  | (true, s) =>
    match s.ledger.recs.reverse.find? (fun r => r.words == ws && r.seq.isNone) with
    | none => s
    | some r => recChain s r (ledgSeq s)
/-- A checkpoint that is made at once with the seal `mac`; without an engine the seal fails. -/
def checkpointNow (s : State) (mac : BitVec 128) : State :=
  if cipherValid s then checkpointAdd s (checkpointWords s (ledgSeq s)) mac else sealFail s
/-- A seal job that runs ends now: its checkpoint is the first of the rotation (R442). -/
def sealTake (s : State) : State :=
  match jobOf s 32 with
  | none => modLedger s fun l => { l with sealing := none }
  | some j => modLedger (jobLeave s 32 j 0 0) fun l => { l with sealing := none }
/-- The rotation of an anchored ledger: checkpoint, KEYROLL 0, the key, checkpoint, KEYROLL 1 (R452). -/
def keyRotate (s : State) (w : Word) (macOld macNew : BitVec 128) : State :=
  let s := recNow (checkpointNow (sealTake s) macOld) 0x003 [natW 0]
  let s := recNow (checkpointNow (ioPut s aLEDGKEY w) macNew) 0x003 [natW 1]
  if ledgSeq s % sealN s = 0 then sealStart s else ledgChain s
/-- A write of the KEYREF `w` to LEDGKEY (R452). -/
def ledgKeyDo (s : State) (w : Word) (macOld macNew : BitVec 128) : State :=
  if !ledgKeyed s then ioPut s aLEDGKEY w
  else if anch s = 1 then keyRotate s w macOld macNew
  else ledgEng (ioPut s aLEDGKEY w) 0x003 [natW 1]

/-! ## Proofs -/

/-- May core `c` in `ring` write words 8 to 12 of a proof's area? -/
def proveOk (s : State) (c ring a : Nat) : Bool :=
  (List.range 5).all fun i => isBank (a + 8 + i) && bankMay s c ring true (bankOf (a + 8 + i))
/-- Status at word 12 of the area, where the writer may write it. -/
def proveStatus (s : State) (c ring a v : Nat) : State :=
  if isBank (a + 12) && bankMay s c ring true (bankOf (a + 12)) then memPut s (a + 12) (natW v) else s
/-- A write of the SEAL `w` to LEDGPROVE, with the status and the CMAC of the engine's job (R461). -/
def proveDo (s : State) (c ring : Nat) (w : Word) (st : Nat) (mac : BitVec 128) : State :=
  let a := pay (ioGet s aLEDGAREA)
  if !proveOk s c ring a then proveStatus s c ring a 1
  else if !(s.ledger.seals.any fun q => q.id == pay w) then proveStatus s c ring a 2
  else if !(cipherValid s && ledgKeyed s) then proveStatus s c ring a 3
  else
    let s := cipherCount s 32 st
    if st = 0 then
      memPut (memPutAll s ((List.range 4).map fun i => (a + 8 + i, (macWords mac).getD i emptyW))) (a + 12) (natW 0)
    else proveStatus s c ring a 3

/-! ## KERFCTL -/

/-- RELEASE of core `k`: it is reset and tests itself (R498); a cluster without power does nothing. A running core is
parked for its test. -/
def releaseDo (s : State) (k : Nat) : State :=
  if s.clOff.contains (k / 4) ∨ s.islReset.contains (k / 4) then s
  else
    let was := coreState s k
    let s := coreReset s k
    let s := if was = 0 then parkHard s k false else s
    clusterReport (modCore s k fun co => { co with test := 3 }) (k / 4)
/-- A write of KERFCTL: both bits in one write kerf first. -/
def kerfctlDo (s : State) (w : Nat) : State :=
  let k := bits w 0 5
  let s := if bitAt w 5 then kerf s k 5 else s
  if bitAt w 6 then releaseDo s k else s

end Sys2Proof.Machine
end

