-- ==== Sys2Proof/Machine/Rings.lean ====
section
/-! DEFINITION. Submission and completion rings: their tables and doorbells (R398 to R400), fetching and checking of
entries (R401 to R404), taking (R405), RINGTO (R412), function level reset and the spool's replay (R396, R413). -/

namespace Sys2Proof.Machine

/-! ## Host activity -/

/-- A doorbell or a BAR0 write: IHOST clears (R466). -/
def hostActive (s : State) : State := setCause s 1 false

/-! ## Ring tables -/

/-- Does a submission ring's entry break a limit, or is its completion ring not enabled? -/
def sqBadNow (s : State) (q : Nat) : Bool :=
  barB s (bSQ q 8) 0 &&
  (barGet s (bSQ q 0) % 64 != 0 || decide (sqLog s q < 4) || decide (16 < sqLog s q) || !cqOn s (sqCq s q))
/-- BAD of submission ring `q` follows. -/
def sqBadPut (s : State) (q : Nat) : State := barSetB s (bSQ q 0x10) 25 (sqBadNow s q)
/-- BAD of every enabled submission ring follows its completion ring. -/
def sqBadFollow (s : State) : State :=
  ((List.range 256).filter fun q => barB s (bSQ q 8) 0).foldl sqBadPut s
/-- Does a completion ring's entry break a limit? -/
def cqBadNow (s : State) (r : Nat) : Bool :=
  barB s (bCQ r 8) 0 &&
  (barGet s (bCQ r 0) % 32 != 0 || decide (barF s (bCQ r 8) 1 5 < 4) || decide (16 < barF s (bCQ r 8) 1 5))

/-- A write of +0x08 of SQTq that sets EN (R398): a ring that is already enabled keeps its fields (log entry 20). -/
def sqEnableDo (s : State) (q : Nat) (w : Nat) : State :=
  if barB s (bSQ q 8) 0 then s
  else
    let s := barSetF s (bSQ q 8) 0 16 (setBits w 0 1 1)
    let s := barSetF (barSetF s (bSQ q 0x10) 0 16 0) (bSQ q 0x18) 0 16 0
    sqBadPut { s with expSeq := tabSet 0 s.expSeq q 0 } q
/-- A write of +0x08 of SQTq with EN 0 (R398): fetching stops, STOPPED and BAD clear, untaken entries are flushed. -/
def sqDisableDo (s : State) (q : Nat) (w : Nat) : State :=
  let was := barB s (bSQ q 8) 0
  let s := barSetF s (bSQ q 8) 0 16 (setBits w 0 1 0)
  if was then
    let s := barSetF s (bSQ q 0x10) 24 2 0
    let s := { s with entries := s.entries.filter fun e => !(e.q == q && decide (e.st = EntrySt.reading)) }
    flushEntries { s with acQ := s.acQ.filter fun i => match i with | .fetch p _ => p != q | _ => true } (fun e => e.q == q)
  else s
/-- A write of +0x08 of CQTr that sets EN (R398): spooled completions of the ring may follow. -/
def cqEnableDo (s : State) (r : Nat) (w : Nat) : State :=
  if barB s (bCQ r 8) 0 then s
  else
    let s := barSetF s (bCQ r 8) 0 16 (setBits w 0 1 1)
    let s := barSetF s (bCQ r 12) 0 18 0x10000
    let s := barSetB s (bCQ r 12) 18 (cqBadNow s r)
    let s := { s with
      cqOff := s.cqOff.filter (· ≠ r)
      cqUsed := tabSet 0 s.cqUsed r 0
      cqHead := tabSet 0 s.cqHead r 0
      msiSent := s.msiSent.filter (· ≠ r)
      spool := s.spool.map fun e => if e.cq = r then { e with hold := false } else e }
    hlReplay (sqBadFollow s)
/-- A write of +0x08 of CQTr with EN 0 (R398): its completions are discarded until it is enabled again. -/
def cqDisableDo (s : State) (r : Nat) (w : Nat) : State :=
  let was := barB s (bCQ r 8) 0
  let s := barSetB (barSetF s (bCQ r 8) 0 16 (setBits w 0 1 0)) (bCQ r 12) 18 false
  if was then sqBadFollow { s with cqOff := r :: s.cqOff.filter (· ≠ r) } else s

/-! ## Doorbells -/

/-- A submission tail doorbell (R399). -/
def sqDoorbell (s : State) (q v : Nat) : State :=
  if !barB s (bSQ q 8) 0 then elWrite s 0x05 q 0 0 v 0
  else if v < 2 ^ sqLog s q then barSetF s (bSQ q 0x18) 0 16 v
  else barSetB (barSetF s (bSQ q 0x10) 16 8 1) (bSQ q 0x10) 24 true
/-- How many slots a completion head of `v` frees. -/
def cqFreed (s : State) (r v : Nat) : Nat := (v + cqSize s r - tabGet 0 s.cqHead r) % cqSize s r
/-- A completion head doorbell (R400). -/
def cqDoorbell (s : State) (r v : Nat) : State :=
  if !barB s (bCQ r 8) 0 then elWrite s 0x05 r 0 0 v 0
  else if cqSize s r ≤ v ∨ tabGet 0 s.cqUsed r < cqFreed s r v then barSetB s (bCQ r 12) 17 true
  else
    let n := cqFreed s r v
    hlReplay { s with
      cqHead := tabSet 0 s.cqHead r v
      cqUsed := tabSet 0 s.cqUsed r (tabGet 0 s.cqUsed r - n)
      msiSent := s.msiSent.filter (· ≠ r) }

/-! ## Fetching -/

/-- Entries of ring `q` that HL holds fetched and not taken. -/
def sqHeld (s : State) (q : Nat) : Nat :=
  (s.entries.filter fun e => e.q == q && (decide (e.st = EntrySt.fetched) || decide (e.st = EntrySt.reading))).length
/-- Pending entries of ring `q`. -/
def sqPendingN (s : State) (q : Nat) : Nat :=
  (barF s (bSQ q 0x18) 0 16 + 2 ^ sqLog s q - barF s (bSQ q 0x10) 0 16) % 2 ^ sqLog s q
/-- Does HL hold a completion for want of a spool place (R413)? -/
def hlHolds (s : State) : Bool := s.entries.any (releasable s) || !s.readyPend.isEmpty
/-- How many entries HL may fetch from ring `q` now (R401). -/
def fetchRoom (s : State) (q : Nat) : Nat :=
  if barB s (bSQ q 8) 0 && !barB s (bSQ q 0x10) 25 && !barB s (bSQ q 0x10) 24 && !modeBit s 4 && hlUp s &&
    !hlHolds s && !(s.entries.any fun e => e.q == q && (e.fence || decide (e.st = EntrySt.reading)))
  then min (min (sqPendingN s q) (4 - sqHeld s q)) (min (cqFree s (sqCq s q)) (2 ^ sqLog s q - barF s (bSQ q 0x10) 0 16))
  else 0
/-- An entry that HL reads: its completion slot is reserved. -/
def readingEntry (q : Nat) : Entry :=
  { q := q, seq := 0, words := [], st := .reading, core := none, comp := none }
/-- HL asks for the next `n` entries of ring `q`, as many as the conditions allow (R401). -/
def ringFetchDo (s : State) (q n : Nat) : State :=
  let m := min (min n 4) (fetchRoom s q)
  if m = 0 then s
  else
    acAsk { s with entries := s.entries ++ List.replicate m (readingEntry q) } (.ringFetch (Fin.ofNat 256 q)) (.fetch q m)
      false (barGet s (bSQ q 0) + 64 * barF s (bSQ q 0x10) 0 16) (64 * m)
/-- A fetch that was denied or timed out: ERRC 3, its reservations go. -/
def fetchFail (s : State) (q : Nat) : State :=
  let s := { s with entries := s.entries.filter fun e => !(e.q == q && decide (e.st = EntrySt.reading)) }
  barSetB (barSetF s (bSQ q 0x10) 16 8 3) (bSQ q 0x10) 24 true

/-- May a word of tag `t` be loaded from host memory (R53)? -/
def hostTag (t : Tag) : Bool :=
  !(t = .addrD || t = .addrIO || t = .link || t = .keyref || t = .seal || t = .poison || t = .wide)
/-- The tag that R402 asks of word `i`. -/
def entryTag (i : Nat) (t : Tag) : Bool :=
  if i = 0 ∨ i = 2 ∨ i = 3 then t = .nat else if i = 1 then t = .session else if i = 4 then t = .nat || t = .bits else true
/-- The first failing check of R403 on host words `e` with the expected sequence: status and result. -/
def entryCheck (e : List (BitVec 64)) (seq : Nat) : Option (Nat × Nat) :=
  let w := e.map fun x => BitVec.ofNat 40 x.toNat
  let tagAt := fun i => wtag (w.getD i emptyW)
  match (List.range 8).find? fun i => decide (2 ^ 40 ≤ (e.getD i 0#64).toNat) with
  | some i => some (2, i + 0x900)
  | none =>
    match (List.range 8).find? fun i => !(hostTag (tagAt i) && entryTag i (tagAt i)) with
    | some i => some (2, i + (if hostTag (tagAt i) then 0x200 else 0x800))
    | none =>
      let w0 := pay (w.getD 0 emptyW)
      let w3 := pay (w.getD 3 emptyW)
      if bits w0 16 16 ≠ seq then some (3, seq)
      else if bits w0 11 5 ≠ 0 ∨ bits w0 32 4 ≠ 0 ∨ bits w3 4 4 ≠ 0 ∨ bits w3 28 8 ≠ 0 ∨
        2 ^ 32 ≤ pay (w.getD 1 emptyW) ∨ w0 % 256 = 0x0F then some (1, 0)
      else none
/-- A host word as a slot's word; one with nonzero bits above 40 carries no tag onward (R403). -/
def slotWord (x : BitVec 64) : Word := if x.toNat < 2 ^ 40 then BitVec.ofNat 40 x.toNat else emptyW
/-- One fetched entry: checked, then completed by HL or offered on source 448 + (q mod 64) (R403, R405). -/
def entryArrive (q : Nat) (s : State) (e : List (BitVec 64)) : State :=
  let n := tabGet 0 s.expSeq q
  let s := { s with expSeq := tabSet 0 s.expSeq q ((n + 1) % 2 ^ 16) }
  let s := barSetF s (bSQ q 0x10) 0 16 ((barF s (bSQ q 0x10) 0 16 + 1) % 2 ^ sqLog s q)
  match s.entries.find? (fun x => x.q == q && decide (x.st = EntrySt.reading)) with
  | none => s
  | some r =>
    let x : Entry := { r with seq := n, words := e.map slotWord, st := .fetched }
    let s := { s with entries := s.entries.erase r ++ [x] }
    match entryCheck e n with
    | some (st, res) =>
      let s := if st = 3 then barSetB (barSetF s (bSQ q 0x10) 16 8 2) (bSQ q 0x10) 24 true else s
      entryDone s x st x.handle (natW res)
    | none => if x.fence && !firstOfRing s x then s else raise s (448 + q % 64)
/-- The data of a permitted fetch arrives. -/
def fetchDone (s : State) (q : Nat) (es : List (List (BitVec 64))) : State :=
  if (s.entries.filter fun e => e.q == q && decide (e.st = EntrySt.reading)).length = es.length ∧
    !(s.acQ.any fun i => match i with | .fetch p _ => p == q | _ => false) then es.foldl (entryArrive q) s else s

/-! ## Taking -/

/-- The core's work slot is free. -/
def workFree (k : Core) : Core := { k with workFull := false, workRun := none, compRing := none }
/-- The entry that a take of group `g` finds: the rings of the group in rotation, the oldest offered entry (R405). -/
def takeFind (s : State) (g : Nat) : Option Entry :=
  let start := tabGet 0 s.rotor g
  ((List.range 4).map fun i => g + 64 * ((start + i) % 4)).findSome? fun q =>
    s.entries.find? fun e => e.q == q && decide (e.st = EntrySt.fetched) && (!e.fence || firstOfRing s e)
/-- A DISPTAKE of group `g` by core `c` (R405). -/
def takeDo (s : State) (c g : Nat) : State :=
  let s := modCore s c workFree
  match takeFind s g with
  | none => s
  | some e =>
    let s := entryPut s e { e with st := .taken, core := some c }
    modCore { s with rotor := tabSet 0 s.rotor g ((e.q / 64 + 1) % 4) } c fun k =>
      { k with workRun := some ⟨e.q, e.seq, e.words, false⟩, compRing := some (sqCq s e.q) }
/-- A write of DISPTAKE (R405). -/
def disptakeDo (s : State) (c w : Nat) : State :=
  if bitAt w 6 then modCore s c workFree else takeDo s c (bits w 0 6)
/-- The outstanding entry of ring `q` and SEQ `n`, its completion not made. -/
def entryOf (s : State) (q n : Nat) : Option Entry :=
  s.entries.find? fun e => e.q == q && e.seq == n && decide (e.st ≠ EntrySt.reading) && decide (e.st ≠ EntrySt.ready)
/-- The first word of core `c`'s work slot (R553). -/
def workAddr (c : Nat) : Nat := 0x100000 + 8 * c
/-- The 8 words of the work slot are performed and condition 10 is set (R405). -/
def workFill (s : State) (c : Nat) : State :=
  match (coreOf s c).workRun with
  | none => s
  | some e =>
    if (coreOf s c).workFull then s
    else
      let s := if bankOwner s 16 == 9 && bankState s 16 == 0 then
          memPutAll s ((List.range 8).map fun i => (workAddr c + i, e.words.getD i emptyW)) else s
      modCore s c fun k => { k with workFull := true }

/-! ## Time limits, reset, replay -/

/-- RINGTO of a taken entry expires (R412); a POST_RECV that waits does not time out. -/
def ringtoDo (s : State) (q seq : Nat) : State :=
  if barF s (bSQ q 12) 0 16 = 0 then s
  else match entryOf s q seq with
    | none => s
    | some e =>
      if e.st = .fetched ∨ (e.st = .waiting ∧ pay (e.words.getD 0 emptyW) % 256 = 4) then s
      else entryDone (elWrite s 0x06 q 0 0 seq 0) e 7 e.handle (natW 0)
/-- A function level reset (R396). -/
def flrDo (s : State) : State :=
  let keep := fun o : Nat => !(decide (0x1000 ≤ o) && decide (o < 0x4000)) &&
    !(decide (0x4000 ≤ o) && decide (o < 0x4820)) && o != bELCFG
  let mask := fun p : Nat × BitVec 64 =>
    if 0x8000 ≤ p.1 ∧ p.1 < 0xA000 ∧ p.1 % 16 = 12 then (p.1, p.2 ||| 1#64) else p
  let s := { s with
    bar := ((s.bar.map mask).filter fun p => keep p.1 && decide (p.2 ≠ barReset p.1))
    elArmed := true
    entries := s.entries.filter fun e => decide (e.st ≠ EntrySt.reading)
    acQ := s.acQ.filter fun i => match i with | .fetch _ _ => false | _ => true
    expSeq := []
    cqUsed := []
    cqHead := []
    cqOff := []
    msiSent := []
    lringSent := false
    ledger := { s.ledger with recs := s.ledger.recs.map fun r => { r with drained := r.drained && r.passed } } }
  flushEntries s fun _ => true

end Sys2Proof.Machine
end

