-- ==== Sys2Proof/Machine/Tick.lean ====
section
/-! DEFINITION. One cycle of SV without a command (DESIGN CHOICE, log entry 1): the timebases and the field die's mirror
of TB0 advance (R304, R329). -/

namespace Sys2Proof.Machine

/-- The increment of a count whose rate offset is `rate` ppb, from a free value: 2 ns, or under a trim sometimes 1 or 3
(R304). -/
def tbStep (rate : Int) (v : Nat) : Nat :=
  if rate = 0 ∨ v % 2 = 0 then 2 else if 0 < rate then 3 else 1

/-- The rate offset of timebase `n` in ppb. -/
def tbRate (s : State) (n : Nat) : Int :=
  if n = 1 then 0
  else if n = 0 then (if ioB s aTDCFG 29 then signed 36 (pay (ioGet s aTDRATE)) else 0)
  else signed 36 (pay (ioGet s (aTB n + 7)))

/-- Timebase `n` advances by one cycle. -/
def tbAdvance (s : State) (n : Nat) : State :=
  bump (tbPut s n (tbGet s n + tbStep (tbRate s n) (freeVal s)))

/-- DF's mirror of TB0 advances (R329). -/
def fieldAdvance (s : State) : State :=
  if s.field.up then
    bump { s with field := { s.field with
      time := s.field.time + BitVec.ofNat 36 (tbStep s.field.rate (freeVal s)) } }
  else s

/-- One SV cycle. -/
def svTick (s : State) : State :=
  fieldAdvance ([0, 1, 2, 3].foldl tbAdvance { s with svCycle := s.svCycle + 1 })

end Sys2Proof.Machine
end

