-- ==== Sys2Proof/Machine/Time.lean ====
section
/-! DEFINITION. Timebases: set, latch and capture (R305 to R307). Compare units (R308 to R311). Time discipline (R312,
R313). -/

namespace Sys2Proof.Machine

/-! ## Timebases -/

/-- The place of a core's copy: 0 LOS, 1 CLO, 2 CHI of timebase `n`. -/
def tbKey (n k : Nat) : Nat := 4 * n + k
/-- A core's copy. -/
def tbCopyGet (s : State) (c n k : Nat) : Nat := (tabGet 0#36 (coreOf s c).tbCopy (tbKey n k)).toNat
/-- A core's copy set. -/
def tbCopyPut (s : State) (c n k v : Nat) : State :=
  modCore s c fun co => { co with tbCopy := tabSet 0#36 co.tbCopy (tbKey n k) (BitVec.ofNat 36 v) }

/-- A read of TBnHI latches TBnLO for the reading core (R305). -/
def tbhiLatch (s : State) (c n : Nat) : State := tbCopyPut s c n 0 (tbLo s n)
/-- A write of CAPTURE: both halves of every selected timebase, for the writing core (R306). -/
def captureDo (s : State) (c mask : Nat) : State :=
  (bitList 4 mask).foldl (fun s n => tbCopyPut (tbCopyPut s c n 1 (tbLo s n)) c n 2 (tbHi s n)) s

/-- A bit of TDSTAT set, or HOLD entered: source 576 (R291). -/
def tdReport (s : State) (bit : Nat) : State := raise (ioSetB s aTDSTAT bit true) 576

/-- A write of TBnSETHI with payload `hi` in `ring` (R307). -/
def tbSet (s : State) (ring n hi : Nat) : State :=
  let v := hi % 2 ^ 36 * 2 ^ 36 + pay (ioGet s (aTB n + 5))
  if n = 1 then s
  else if n = 0 then (if ring = 0 ∧ tbGet s 0 ≤ v then tbPut s 0 v else tdReport s 4)
  else tbPut s n v

/-! ## Compare units -/

/-- Has the time of unit `u` been reached under the half-range rule (R308)? -/
def cmpReached (s : State) (u : Nat) : Bool :=
  decide ((tbLo s (ioF s (aCMPCTL u) 0 2) + 2 ^ 36 - pay (ioGet s (aCMPVAL u))) % 2 ^ 36 < 2 ^ 35)
/-- Unit `u` armed: FIRED and LATE cleared, and whether it is late noted (R309, R310). -/
def cmpArm (s : State) (u : Nat) : State :=
  let s := ioSetF s (aCMPCTL u) 2 2 1
  let s := ioSetB s (aCMPCTL u) 5 false
  let due := s.cmpDue.filter (· ≠ u)
  { s with cmpDue := if cmpReached s u then u :: due else due }
/-- A write of CMPCTLu: TB, ARM, EVT replaced, a 1 in FIRED clears it; a write with ARM arms the unit (R309). -/
def cmpctlDo (s : State) (u w : Nat) : State :=
  let s := ioSetF (ioSetF s (aCMPCTL u) 0 2 w) (aCMPCTL u) 4 1 (w / 16)
  let s := if bitAt w 3 then ioSetB s (aCMPCTL u) 3 false else s
  if bitAt w 2 then cmpArm s u else ioSetB s (aCMPCTL u) 2 false
/-- An evaluation of unit `u` (R308, R309): armed and reached, it fires. -/
def cmpEval (s : State) (u : Nat) : State :=
  if ioB s (aCMPCTL u) 2 && cmpReached s u then
    let s := ioSetF s (aCMPCTL u) 2 2 2
    let s := ioSetB s (aCMPCTL u) 5 (s.cmpDue.contains u)
    let s := { s with cmpDue := s.cmpDue.filter (· ≠ u) }
    if ioB s (aCMPCTL u) 4 then raise s (320 + u) else s
  else s
/-- The unit that slot `n` of core `c` maps (R86, CMPMAP): its field and whether it is valid. -/
def cmpSlot (s : State) (c n : Nat) : Nat := ioF s (priv c (oCMPMAP + n / 4)) (8 * (n % 4)) 8

/-! ## Time discipline -/

/-- SLEW in ppb, above 200 ppm acting as 200 (R313). -/
def tdSlew (s : State) : Int := (min 200 (ioF s aTDCFG 0 8) * 1000 : Nat)
/-- MAXOFF in ns, above 1,000,000 µs acting as 1,000,000 (R313). -/
def tdMaxoff (s : State) : Int := (min 1000000 (ioF s aTDCFG 8 20) * 1000 : Nat)
/-- TDRATE set. -/
def tdRatePut (s : State) (r : Int) : State := ioPut s aTDRATE (intW r)
/-- The rate inside the window (R313). -/
def tdClamp (s : State) (r : Int) : Int := if r < -tdSlew s then -tdSlew s else if tdSlew s < r then tdSlew s else r
/-- What the servo chooses, which the manual leaves to it: some rate inside the window, a free value. -/
def tdServo (s : State) : State :=
  bump (tdRatePut s (((freeVal s % (2 * (tdSlew s).toNat + 1) : Nat) : Int) - tdSlew s))
/-- The error of a PPS stamp (R312). -/
def tdError (stamp : Nat) : Int := ((stamp + 500000000) % 1000000000 : Nat) - 500000000
/-- The first step of a stamp: TDERR, the last four errors, HOLD ends, LOCK. -/
def tdNote (s : State) (e : Int) : State :=
  let l := (e :: s.tdLast).take 4
  let s := ioSetB (ioPut { s with tdLast := l } aTDERR (intW e)) aTDSTAT 1 false
  ioSetB s aTDSTAT 0 (l.length == 4 && l.all fun x => decide (-100 ≤ x) && decide (x ≤ 100))
/-- A PPS stamp of TB0 (R312). -/
def tdStamp (s : State) (stamp : Nat) : State :=
  if ioB s aTDCFG 29 then
    let e := tdError stamp
    let s := tdNote s e
    if -tdMaxoff s ≤ e ∧ e ≤ tdMaxoff s then tdServo s
    else if e < 0 then
      if ioB s aTDCFG 28 then tdReport (tbPut s 0 (tbGet s 0 + (-e).toNat)) 3
      else tdReport (tdRatePut s (tdSlew s)) 2
    else tdReport (tdRatePut s (-tdSlew s)) 2
  else s
/-- No stamp for 1.5 s: the rate is held (R312). -/
def tdHold (s : State) : State :=
  if ioB s aTDCFG 29 && !ioB s aTDSTAT 1 then tdReport s 1 else s
/-- A write of TDCFG: the rate follows the new window, or is nominal with EN = 0 (R313). -/
def tdcfgDo (s : State) (w : Nat) : State :=
  let s := ioSetF s aTDCFG 0 30 w
  tdRatePut s (if bitAt w 29 then tdClamp s (signed 36 (pay (ioGet s aTDRATE))) else 0)

end Sys2Proof.Machine
end

