-- ==== Sys2Proof/Machine/Io.lean ====
section
/-! DEFINITION. I/O space (R538 to R550): which rings read and write each register, what a read gives, and what a write
does. Every path to a register (in and out, the register-write commands, debug access) goes through here. -/

namespace Sys2Proof.Machine

/-! ## The map -/

/-- What the address map says of a register: the rings that read it, the rings that write it (`none` for a dash), the
bits that a plain write replaces, and the bits that a 1 clears. -/
structure RegInfo where
  rd   : Nat
  wr   : Option Nat
  mask : Nat
  w1c  : Nat
deriving DecidableEq, Repr

/-- The alias range names the accessing core's own range (R541). -/
def ioAbs (c a : Nat) : Nat := if 0x0FF000 ≤ a ∧ a < 0x100000 then priv c (a % 0x1000) else a
/-- Is the block of the address mapped (R538)? -/
def ioMapped (a : Nat) : Bool := decide (a < 0x0B0000) || (decide (0x0FF000 ≤ a) && decide (a < 0x120000))

/-- A register that rings of `rd` read and none writes. -/
def regRO (rd : Nat) : Option RegInfo := some ⟨rd, none, 0, 0⟩
/-- A register whose bits `mask` a write replaces. -/
def regRW (rd wr mask : Nat) : Option RegInfo := some ⟨rd, some wr, mask, 0⟩
/-- A register whose bits `w1c` a 1 clears. -/
def regW1C (rd wr w1c : Nat) : Option RegInfo := some ⟨rd, some wr, 0, w1c⟩
/-- Every bit of a word. -/
def full : Nat := 2 ^ 36 - 1

/-- The SV global block (R543). -/
def infoGlobal (a : Nat) : Option RegInfo :=
  if a < 3 then regRO 15
  else if a = 0x10 then regRO 15
  else if a = 0x12 ∨ a = 0x13 ∨ a = 0x27 then regRW 7 1 0xFFFFFFFF
  else if a = 0x14 then regRW 7 1 0x3FFFFF
  else if a = 0x11 ∨ a = 0x15 ∨ (0x20 ≤ a ∧ a ≤ 0x23) ∨ a = 0x25 ∨ a = 0x26 then regRO 7
  else if a = 0x24 then regRW 3 3 0
  else if 0x100 ≤ a ∧ a < 0x120 then regRW 15 3 0
  else if 0x120 ≤ a ∧ a < 0x140 then regRO 15
  else if (0x140 ≤ a ∧ a < 0x144) ∨ a = 0x148 then regRW 7 1 0
  else if 0x160 ≤ a ∧ a < 0x180 then regW1C 7 3 0x7F
  else none
/-- The rings that write the registers of source `n` (R545). -/
def srcWr (n : Nat) : Nat := if 576 ≤ n ∧ n < 640 then 1 else 3
/-- The event hub (R545). -/
def infoHub (a : Nat) : Option RegInfo :=
  if a < 0x010400 then regRW 7 (srcWr (a - 0x010000)) 0xFFEF
  else if a < 0x010800 then regRW 7 (srcWr (a - 0x010400)) 0xFFFFFFFF
  else if a < 0x010C00 then regRW 7 (srcWr (a - 0x010800)) 0
  else if a = 0x010C00 then regRW 7 1 0xFFF
  else if a = 0x010C01 then regRW 7 1 0xFFFF
  else none
/-- The rings in which core `c` writes compare unit `u` (R311). -/
def cmpWr (c u : Nat) : Nat := if u = 32 + c then 15 else 3
/-- Time and compare units (R545); TRIM of TB0 and TB1 is RO, and only ring 0 may write TB0's. -/
def infoTime (c a : Nat) : Option RegInfo :=
  if a < 0x020020 then
    let n := (a - 0x020000) / 8
    let j := a % 8
    if j < 5 then regRO 15
    else if n = 1 then regRO 15
    else regRW 15 (if n = 0 then 1 else 3) (if j = 5 then full else 0)
  else if a = 0x020020 then regRW 15 15 0
  else if a = 0x020021 then regRW 7 1 0
  else if a = 0x020022 then regW1C 7 1 0x1C
  else if a = 0x020023 ∨ a = 0x020024 then regRO 7
  else if a = 0x020080 ∨ a = 0x020081 then regRO 15
  else if 0x020100 ≤ a ∧ a < 0x020180 then
    regRW 15 (cmpWr c ((a - 0x020100) / 2)) (if a % 2 = 0 then full else 0)
  else none
/-- Ledger, cipher port and host-link blocks (R546). -/
def infoCal (a : Nat) : Option RegInfo :=
  if a = 0x030000 then regRW 3 1 0x3FFF
  else if a = 0x030001 then regW1C 3 1 0xC
  else if a = 0x030005 then regRW 3 1 0
  else if (0x030002 ≤ a ∧ a ≤ 0x030006) ∨ (0x030010 ≤ a ∧ a ≤ 0x030017) then regRO 3
  else if a = 0x030008 ∨ a = 0x030009 then regRW 3 3 0
  else if a = 0x040000 then regRW 3 1 0x1FF
  else if a = 0x040001 then regRW 3 1 0x1FFFF
  else if a = 0x040002 ∨ a = 0x050060 then regRO 3
  else if a = 0x040003 ∨ a = 0x050061 then regRW 3 1 full
  else if 0x050000 ≤ a ∧ a < 0x050040 then regRW 3 1 0
  else if a = 0x050040 then regRW 1 1 0
  else if a = 0x050050 ∨ a = 0x050051 then regRW 3 1 0
  else if 0x050110 ≤ a ∧ a ≤ 0x0501FF then regRW 7 3 0
  else none
/-- Dovetail block (R547). -/
def infoDove (a : Nat) : Option RegInfo :=
  if a = 0x060000 then regW1C 3 3 4
  else if a = 0x060001 ∨ a = 0x060016 ∨ a = 0x060017 then regRW 3 3 full
  else if a = 0x060002 ∨ a = 0x060003 then regRW 3 3 0xFFFFFFFF
  else if a = 0x060004 then regRW 3 1 0
  else if 0x060005 ≤ a ∧ a ≤ 0x060008 then regRW 1 1 0
  else if a = 0x060009 ∨ a = 0x060010 ∨ a = 0x060013 ∨ a = 0x060015 then regRO 3
  else if a = 0x060011 then regRW 3 1 0xFFFF
  else if a = 0x060012 then regRW 3 3 0x3FFF
  else if a = 0x060014 then regRW 3 3 0xFFFF
  else if 0x068000 ≤ a ∧ a < 0x069000 then regRW 7 3 0
  else none
/-- Control store, repair, security and island blocks (R547). -/
def infoRest (a : Nat) : Option RegInfo :=
  if a = 0x070000 ∨ a = 0x070001 ∨ a = 0x070003 ∨ (0x070010 ≤ a ∧ a < 0x070030) then regRO 3
  else if a = 0x070002 then regRW 3 1 0xFFFFFF
  else if a = 0x070004 then regRW 3 1 0
  else if a = 0x070005 then regRW 3 1 0xFFFFFF
  else if 0x070030 ≤ a ∧ a ≤ 0x070032 then regRW 3 1 0x1FFFF
  else if a = 0x080000 ∨ a = 0x080002 ∨ (0x080400 ≤ a ∧ a < 0x080800) then regRW 7 1 0
  else if a = 0x080001 ∨ a = 0x090000 then regRO 7
  else if a = 0x080003 then regRW 7 1 0xFF
  else if 0x080020 ≤ a ∧ a < 0x080040 then regRW 7 1 0xFFFFFF
  else if 0x090010 ≤ a ∧ a < 0x09001E then regRW 7 1 0x3FFF
  else if 0x090020 ≤ a ∧ a < 0x09002E then regW1C 7 1 0x30000
  else if a = 0x090040 then regRW 3 1 0xF
  else if a = 0x090041 then regW1C 3 1 0x20
  else if 0x090043 ≤ a ∧ a ≤ 0x090045 then regRW 3 1 0
  else if 0x0A0000 ≤ a ∧ a < 0x0A000E then regRW 7 1 0
  else if 0x0A0020 ≤ a ∧ a < 0x0A002E then regW1C 7 1 0x190000
  else none
/-- The private range of a core, by offset (R548). -/
def infoPriv (o : Nat) : Option RegInfo :=
  if o = 0x000 ∨ o = 0x004 ∨ o = 0x005 ∨ o = 0x011 ∨ o = 0x012 ∨ o = 0x0C0 then regRO 15
  else if o = 0x001 then regRW 15 15 0
  else if o = 0x002 then regRW 15 3 0xF0
  else if o = 0x003 then regRW 15 3 0xFFFE
  else if o = 0x010 then regRW 15 3 0
  else if o = 0x040 ∨ o = 0x041 then regRW 15 3 0xBFBFBFBF
  else if o = 0x048 ∨ (0x050 ≤ o ∧ o < 0x060) then regRW 15 15 0
  else if 0x080 ≤ o ∧ o < 0x084 then regRW 15 3 0x1FF
  else if (0x084 ≤ o ∧ o < 0x088) ∨ o = 0x0C1 then regRW 15 3 full
  else if 0x0E0 ≤ o ∧ o < 0x0E4 then regRW 3 1 0x3FFFFF
  else none
/-- The register at absolute address `a`, as core `c` sees it; `none` in a hole. -/
def regInfo (c a : Nat) : Option RegInfo :=
  if a < 0x010000 then infoGlobal a
  else if a < 0x020000 then infoHub a
  else if a < 0x030000 then infoTime c a
  else if a < 0x060000 then infoCal a
  else if a < 0x070000 then infoDove a
  else if a < 0x0B0000 then infoRest a
  else if 0x100000 ≤ a ∧ a < 0x120000 then infoPriv (a % 0x1000)
  else none

/-- The core whose private range holds the address. -/
def privCore (a : Nat) : Option Nat := if 0x100000 ≤ a ∧ a < 0x120000 then some ((a - 0x100000) / 0x1000) else none
/-- Does the address lie in the private range of a core other than `c`? -/
def otherPriv (c a : Nat) : Bool := match privCore a with | none => false | some k => k != c
/-- The island that answers is off or in reset, so that its joint answers with IOTO (R28, R538). -/
def ioIslandOff (s : State) (a : Nat) : Bool :=
  match privCore a with
  | some k => s.clOff.contains (k / 4) || s.islReset.contains (k / 4)
  | none =>
    if 0x050000 ≤ a ∧ a < 0x060000 ∧ ¬(0x050050 ≤ a ∧ a < 0x050070) then s.hlOff || s.islReset.contains 11
    else if 0x060000 ≤ a ∧ a < 0x070000 then s.islReset.contains 13
    else if 0x070000 ≤ a ∧ a < 0x080000 then s.islReset.contains 8
    else false

/-- PRIV of an I/O access (R540). -/
def ioPriv (a : Nat) : Trp := privT 0x04 (addrIOW a)
/-- IOTO (R227). -/
def iotoT (a : Nat) : Trp := trp 0x06 (addrIOW a) (natW 0)

/-! ## Reads -/

/-- µs until the lease of bank `n` expires, rounded up; 0 for the keeper and outside STATE 0 (LEASEREM). -/
def leaseRemain (s : State) (n : Nat) : Nat :=
  if bankOwner s n = 0 ∨ bankState s n ≠ 0 then 0
  else (leaseTime s n + (tabGet 0#72 s.leaseAt n).toNat + 999 - tbGet s 1) / 1000
/-- SRCSTAT of source `n` (R292). -/
def srcstatVal (s : State) (n : Nat) : Nat :=
  let cnt := srcCount s n
  let off := offerCores s n
  let core := if srcInsvc s n then ioF s (aSRCSTAT n) 11 5 else off.headD 0
  packNat [(0, 8, cnt), (8, 1, (decide (0 < cnt)).toNat), (9, 1, ioF s (aSRCSTAT n) 9 1), (10, 1, (srcInsvc s n).toNat),
    (11, 5, core), (16, 1, (!off.isEmpty).toNat)]
/-- OFFER of core `c`. -/
def offerVal (s : State) (c : Nat) : Nat :=
  match (coreOf s c).offer with
  | none => 1023
  | some n => n + 2 ^ 10 * srcPrio s n
/-- CMPSUMk. -/
def cmpsumVal (s : State) (k : Nat) : Nat :=
  (List.range 32).foldl (fun v i => v + 2 ^ i * ioF s (aCMPCTL (32 * k + i)) 3 1) 0
/-- A read of a timebase register (R304 to R307). -/
def tbRead (s : State) (c n j : Nat) : Word :=
  if j = 0 then mkW .time (tbLo s n)
  else if j = 1 then mkW .wide (tbHi s n)
  else if j = 2 then mkW .time (tbCopyGet s c n 0)
  else if j = 3 then mkW .time (tbCopyGet s c n 1)
  else if j = 4 then mkW .wide (tbCopyGet s c n 2)
  else if j = 5 then natW (pay (ioGet s (aTB n + 5)))
  else if j = 6 then natW 0
  else if n = 0 then ioGet s aTDRATE
  else mkW .int (pay (ioGet s (aTB n + 7)))
/-- HWDVw (R282). -/
def hwdvRead (s : State) (w j : Nat) : Word :=
  if j = 0 then addrW (barGet s (bHWIN w 0)) else if j = 1 then addrW (barGet s (bHWIN w 8))
  else if j = 2 then natW (barGet s (bHWIN w 0x18))
  else natW (packNat [(0, 1, (hwinBusy s w).toNat), (1, 1, (hwinBad s w).toNat), (2, 1, (hwinOvl s w).toNat)])
/-- Is an asynchronous cause pending that the core does not accept yet (TRAPSTAT.PEND)? -/
def asyncHeld (s : State) (c : Nat) : Bool :=
  !(coreOf s c).pend.isEmpty ||
  (decide (0 < presented s c) &&
    !(mIE (coreOf s c).mstat && decide (mLVL (coreOf s c).mstat < presented s c)))

/-- A read of the private register `o` of core `k` by core `c`. -/
def privRead (s : State) (c k o : Nat) : Word :=
  let w := ioGet s (priv k o)
  if o = 0x000 then natW (if c = k then claimNum s k else offerVal s k % 1024)
  else if o = 0x001 then natW 0
  else if o = 0x002 then natW (packNat [(0, 4, threshCur s k), (4, 4, bits (pay w) 4 4), (8, 4, (coreOf s k).claims.length)])
  else if o = 0x004 then natW (coreLoad s k)
  else if o = 0x005 then natW (offerVal s k)
  else if 0x050 ≤ o ∧ o < 0x060 then
    (if o - 0x050 < ioF s (priv k oRSDEPTH) 0 5 then w else linkW 0#20)
  else if o = 0x0C0 then natW (setBits (pay w) 19 1 (asyncHeld s k).toNat)
  else w

/-- What a read of the register at absolute address `a` by core `c` gives; a hole reads NAT:0. -/
def ioValue (s : State) (c a : Nat) : Word :=
  match regInfo c a with
  | none => natW 0
  | some _ =>
    match privCore a with
    | some k => privRead s c k (a % 0x1000)
    | none =>
      if a = 1 then natW (setBits (pay (ioGet s 1)) 16 16 (ioF s aSHIMVER 0 16))
      else if a = 0x24 ∨ a = 0x020020 ∨ a = 0x030008 ∨ a = 0x030009 ∨ a = 0x050040 ∨ (0x060005 ≤ a ∧ a ≤ 0x060008) then
        natW 0
      else if 0x120 ≤ a ∧ a < 0x140 then
        natW (leaseRemain s (a - 0x120) % 2 ^ 28 + 2 ^ 28 * (s.nearLease.contains (a - 0x120)).toNat)
      else if 0x010800 ≤ a ∧ a < 0x010C00 then natW (srcstatVal s (a - 0x010800))
      else if 0x020000 ≤ a ∧ a < 0x020020 then tbRead s c ((a - 0x020000) / 8) (a % 8)
      else if a = 0x020080 ∨ a = 0x020081 then bitsW (cmpsumVal s (a - 0x020080))
      else if 0x020100 ≤ a ∧ a < 0x020180 ∧ a % 2 = 0 then mkW .time (pay (ioGet s a))
      else if a = aLEDGSTAT then
        natW (packNat [(0, 4, ioF s a 0 4), (4, 14, spoolN s), (18, 13, satAt 0x1FFF s.ledger.since)])
      else if 0x030010 ≤ a ∧ a ≤ 0x030017 then natW (s.ledger.head.toNat / 2 ^ (32 * (7 - (a - 0x030010))) % 2 ^ 32)
      else if a = aCIPHSTAT then
        natW (packNat [(0, 5, engCount s), (5, 6, s.ciphQ.length), (11, 9, ioF s a 11 9)])
      else if 0x050000 ≤ a ∧ a < 0x050040 then hwdvRead s ((a - 0x050000) / 4) (a % 4)
      else ioGet s a

/-- The side effect of a read: CLAIM and TBnHI (R12). -/
def ioReadEff (s : State) (c a : Nat) : State :=
  if a = priv c 0 then claimDo s c
  else if 0x020000 ≤ a ∧ a < 0x020020 ∧ a % 8 = 1 then tbhiLatch s c ((a - 0x020000) / 8)
  else s

/-- A read of I/O address `a0` by core `c` in `ring` (R165, R539, R540). -/
def ioRead (s : State) (c ring a0 : Nat) : Except Trp (Word × State) :=
  if !ioMapped a0 then .error (iotoT a0)
  else
    let a := ioAbs c a0
    if otherPriv c a && ring != 0 then .error (ioPriv a0)
    else match regInfo c a with
      | none => if ioIslandOff s a then .error (iotoT a0) else .ok (natW 0, s)
      | some i =>
        if !bitAt i.rd ring then .error (ioPriv a0)
        else if ioIslandOff s a then .error (iotoT a0)
        else .ok (ioValue s c a, ioReadEff s c a)

/-! ## Writes -/

/-- Which tags a write of the register accepts (R14; log entry 19). POISON was consumed before. -/
def ioTag (a : Nat) (t : Tag) : Bool :=
  if t = .empty then decide (0x050110 ≤ a) && decide (a ≤ 0x0501FF)
  else if ioIsKey a && decide (a < 0x050110 ∨ 0x050200 ≤ a) then t = .keyref
  else if 0x050110 ≤ a ∧ a ≤ 0x0501FF then t = .link
  else if 0x020000 ≤ a ∧ a < 0x020020 then
    (if a % 8 = 5 then t = .time || t = .nat else if a % 8 = 6 then t = .nat || t = .wide
     else if a % 8 = 7 then isNI t else true)
  else if 0x020100 ≤ a ∧ a < 0x020180 ∧ a % 2 = 0 then t = .time || t = .nat
  else if a = 0x030008 then t = .seal
  else if a = 0x030009 then t = .addrD
  else if 0x068000 ≤ a ∧ a < 0x069000 then dvTag t
  else if 0x100000 ≤ a ∧ a < 0x120000 ∧ 0x050 ≤ a % 0x1000 ∧ a % 0x1000 < 0x060 then t = .link
  else if 0x100000 ≤ a ∧ a < 0x120000 ∧ 0x0E0 ≤ a % 0x1000 ∧ a % 0x1000 < 0x0E4 then t = .link || t = .nat
  else true

/-- What a field address holds: 0 nothing, 1 a register without a writable field, 2 one that CMD-CFG writes, 3 one
whose shadow no out writes (R549, R550). -/
def fieldReg (f : Nat) : Nat :=
  if f < 3 ∨ f = 0x10 ∨ f = 0x60 ∨ (0x660 ≤ f ∧ f < 0x6E0) then 1
  else if (0x50 ≤ f ∧ f ≤ 0x5A) ∨ f = 0x5F ∨ (0x900 ≤ f ∧ f < 0xB00 ∧ (f - 0x900) % 64 < 48) then 3
  else if f = 0x11 ∨ f = 0x20 ∨ f = 0x21 ∨ f = 0x30 ∨ f = 0x31 ∨ (0x40 ≤ f ∧ f < 0x50) ∨ f = 0x61 ∨
    (0x100 ≤ f ∧ f < 0x208) ∨ (0x300 ≤ f ∧ f < 0x420) ∨ (0x500 ≤ f ∧ f < 0x50C) ∨ (0x600 ≤ f ∧ f < 0x608) ∨
    (0x620 ≤ f ∧ f < 0x660) ∨ (0x6E0 ≤ f ∧ f < 0x740) ∨ (0x800 ≤ f ∧ f < 0x900) then 2
  else 0

/-- The outcome of a write: the state, a trap, or a stall for want of room in the send queue. -/
inductive IoOut where
  | done (s : State)
  | fault (t : Trp)
  | stall

/-- A plain write: the bits of `mask` replaced, the 1s of `w1c` cleared. -/
def plainWrite (s : State) (i : RegInfo) (a w : Nat) : State :=
  let o := pay (ioGet s a)
  let keep := o &&& (full - i.mask) &&& (full - (w &&& i.w1c))
  ioPut s a (mkW (wtag (ioGet s a)) (keep ||| (w &&& i.mask)))

/-- An RW1 register: its first write stands until the reset of its island (R11). -/
def lockWrite (s : State) (a : Nat) (w : Word) : State :=
  if s.locked.contains a then s else ioPut { s with locked := a :: s.locked } a w

/-- A boot key handle (R431, R486) in an RW1 register that nothing has written. -/
def bootKey (s : State) (a v : Nat) : State := lockWrite s a (mkW .keyref v)
/-- The boot key handles: SHIMKEY, PAIRKEY, OPENKEY, CTXKEY and LEDGKEY hold the payloads 1 to 5 (R486). -/
def bootKeys (s : State) : State :=
  let s := bootKey (bootKey (bootKey (bootKey s aSHIMKEY 1) aPAIRKEY 2) aOPENKEY 3) aCTXKEY 4
  if ledgKeyed s then s else ioPut s aLEDGKEY (mkW .keyref 5)
/-- What follows a write of CIPHCAP: with an engine present, READYMAP.CIPH and the boot key handles (R485, R486). -/
def cipherUp (s : State) : State :=
  if cipherValid s then cipherPass 34 (bootKeys (readyUp s 46)) else s

/-- A write of ISLENVi: ignored with REFUSED when it breaks an order or a range. -/
def islenvDo (s : State) (i w : Nat) : State :=
  let f0 := bits w 0 8
  let f1 := bits w 8 8
  let v0 := bits w 16 8
  let v1 := bits w 24 8
  let fOk := decide (8 ≤ i) || (decide (20 ≤ f0) && decide (f0 ≤ f1) && decide (f1 ≤ 160))
  if fOk && decide (110 ≤ v0) && decide (v0 ≤ v1) && decide (v1 ≤ 180) then
    ioSetF s (aISLENV i) 0 32 (if 8 ≤ i then w / 2 ^ 16 * 2 ^ 16 else w)
  else ioSetB s (aISLSTAT i) 19 true
/-- A write of ISLSTATi: REGALERT clears only once VIDALERT_N is high again (R558). -/
def islstatDo (s : State) (i w : Nat) : State :=
  plainWrite s ⟨7, some 1, 0, if s.vidLow then 0x090000 else 0x190000⟩ (aISLSTAT i) w
/-- A write of SRCSTATs in `ring` (R292, R303): PEND discards, OVF clears, SET adds one occurrence. -/
def srcstatDo (s : State) (ring n w : Nat) : State :=
  let s := if bitAt w 9 then ioSetB s (aSRCSTAT n) 9 false else s
  let s := if bitAt w 8 && !srcLevel s n then hubEval (ioSetF s (aSRCSTAT n) 0 8 0) else s
  if bitAt w 17 && ring == 0 then (if srcLevel s n then s else raise s n) else s
/-- A write of HWDVw: only clearing EN is taken. -/
def hwdvDo (s : State) (w j v : Nat) : State :=
  if j = 2 ∧ v = setBits (barGet s (bHWIN w 0x18)) 0 1 0 then barSetB s (bHWIN w 0x18) 0 false else s
/-- A write of WDOGCFG: only ring 0 clears EN. -/
def wdogcfgDo (s : State) (a ring w : Nat) : State :=
  let s := ioSetF s a 0 14 w
  if bitAt w 14 then ioSetB s a 14 true else if ring = 0 then ioSetB s a 14 false else s
/-- A write of TRIM of TB2 or TB3, clamped to 200,000 ppb either way. -/
def trimDo (s : State) (a : Nat) (w : Word) : State :=
  let v := if wtag w = .int then signed 36 (pay w) else (pay w : Nat)
  ioPut s a (intW (if v < -200000 then -200000 else if 200000 < v then 200000 else v))
/-- Word `k` of the session key, taken only during pairing (R376). -/
def skeyDo (s : State) (k w : Nat) : State :=
  if ioB s aDVSTAT 1 then
    let n := setBits s.dh.key.toNat (96 - 32 * k) 32 w
    { s with dh := { s.dh with key := BitVec.ofNat 128 n } }
  else s
/-- A write of the field shadow: a CMD-CFG behind the core's earlier messages (R388, R550). -/
def shadowDo (s : State) (c f : Nat) (w : Word) : IoOut :=
  if fieldReg f ≠ 2 then .done s
  else if !dvPaired s then .done (raise s 392)
  else if sendFull s c then .stall
  else .done (coreSend s c ⟨0x11, natW f, if wtag w = .bits then w else natW (pay w)⟩)

/-- Writes of the SV blocks and the host-link block with an effect of their own. -/
def sysWrite (s : State) (c ring : Nat) (i : RegInfo) (a : Nat) (w : Word) : State :=
  let p := pay w
  if a = aCMASK ∨ a = aQMASK ∨ a = aMODECFG then maskWritten s (plainWrite s i a p)
  else if a = 0x24 then kerfctlDo s p
  else if 0x100 ≤ a ∧ a < 0x120 then bankownDo s c ring (a - 0x100) p
  else if 0x140 ≤ a ∧ a < 0x144 then partDo s (a - 0x140) p
  else if a = aBANKPWR then bankpwrDo s p
  else if 0x010000 ≤ a ∧ a < 0x010400 then hostRoute (hubEval (plainWrite s i a p)) (a - 0x010000)
  else if 0x010400 ≤ a ∧ a < 0x010800 then hubEval (plainWrite s i a p)
  else if 0x010800 ≤ a ∧ a < 0x010C00 then srcstatDo s ring (a - 0x010800) p
  else if 0x020000 ≤ a ∧ a < 0x020020 then
    (if a % 8 = 6 then tbSet s ring ((a - 0x020000) / 8) p else if a % 8 = 7 then (if a = 0x020007 then s else trimDo s a w)
     else plainWrite s i a p)
  else if a = 0x020020 then captureDo s c (p % 16)
  else if a = aTDCFG then tdcfgDo s p
  else if 0x020100 ≤ a ∧ a < 0x020180 ∧ a % 2 = 1 then cmpctlDo s ((a - 0x020101) / 2) p
  else if a = aLEDGCFG then ledgChain (plainWrite s i a p)
  else if a = aLEDGKEY then
    let v := freeVal s
    ledgKeyDo (bump s) w (BitVec.ofNat 128 v) (BitVec.ofNat 128 (v / 2 ^ 128))
  else if a = 0x030008 then
    let v := freeVal s
    proveDo (bump s) c ring w (v % 6) (BitVec.ofNat 128 (v / 8))
  else if a = aLEDGAREA then ioPut s a w
  else if a = aCIPHCAP then cipherUp (lockWrite s a (natW (p % 2 ^ 9)))
  else if 0x050000 ≤ a ∧ a < 0x050040 then hwdvDo s ((a - 0x050000) / 4) (a % 4) p
  else if a = 0x050040 then disptakeDo s c p
  else if a = aOPENKEY ∨ a = aCTXKEY then lockWrite s a w
  else if 0x050110 ≤ a ∧ a ≤ 0x0501FF then ioPut s a (if wtag w = .link then w else emptyW)
  else plainWrite s i a p
/-- Writes of the other shared blocks with an effect of their own. -/
def islandWrite (s : State) (i : RegInfo) (a : Nat) (w : Word) : State :=
  let p := pay w
  if a = aPAIRKEY ∨ a = aSHIMKEY ∨ (0x090043 ≤ a ∧ a ≤ 0x090045) then lockWrite s a w
  else if a = aSHIMMIN ∨ a = aDBGCFG ∨ (0x070030 ≤ a ∧ a ≤ 0x070032) then lockWrite s a (natW (p &&& i.mask))
  else if 0x060005 ≤ a ∧ a ≤ 0x060008 then skeyDo s (a - 0x060005) p
  else if a = aMARCHCTL then marchctlDo s p
  else if a = aRPCTL then rpctlDo s p
  else if 0x080400 ≤ a ∧ a < 0x080800 then rowmapDo s a p
  else if 0x0A0000 ≤ a ∧ a < 0x0A000E then islenvDo s (a - 0x0A0000) p
  else if 0x0A0020 ≤ a ∧ a < 0x0A002E then islstatDo s (a - 0x0A0020) p
  else plainWrite s i a p
/-- Writes of the private register `o` of core `k` by core `c`. -/
def privWrite (s : State) (c ring : Nat) (i : RegInfo) (k o : Nat) (w : Word) : State :=
  let a := priv k o
  let p := pay w
  if o = 0x001 then (if c = k then completeDo s c (p % 1024) else s)
  else if o = oTHRESH ∨ o = oEVMASK then hubEval (plainWrite s i a p)
  else if o = oWDOGCFG then wdogcfgDo s a ring p
  else if o = oRSDEPTH then ioSetF s a 0 5 (min 16 (p % 32))
  else if 0x050 ≤ o ∧ o < 0x060 then ioPut s a (mkW .link (p % 2 ^ 20))
  else plainWrite s i a p

/-- The write of a register that the ring may write with a tag that it accepts. -/
def ioPerform (s : State) (c ring : Nat) (i : RegInfo) (a : Nat) (w : Word) : IoOut :=
  match privCore a with
  | some k => .done (privWrite s c ring i k (a % 0x1000) w)
  | none =>
    if 0x068000 ≤ a ∧ a < 0x069000 then shadowDo s c (a - 0x068000) w
    else if a < 0x060000 then .done (sysWrite s c ring i a w)
    else .done (islandWrite s i a w)

/-- Does a write raise PRIV beyond the ring column: the locked shadow words (R550), and KERFCTL's keeper cores from
ring 1 (R498)? -/
def ioExtraPriv (ring a : Nat) (w : Word) : Bool :=
  (decide (0x068000 ≤ a) && decide (a < 0x069000) && fieldReg (a - 0x068000) == 3) ||
  (a == 0x24 && ring == 1 && decide (wtag w ≠ .empty) && (pairOf (pay w % 32)).isSome)

/-- The checks of a write of `w` to I/O address `a0` by core `c` in `ring`, at place `pos` of its microword (R165, R539,
R540): the register that takes it, or none that does. -/
def ioWriteCheck (s : State) (c ring pos a0 : Nat) (w : Word) : Except Trp (Option RegInfo) :=
  if !ioMapped a0 then .error (iotoT a0)
  else
    let a := ioAbs c a0
    if otherPriv c a && ring != 0 then .error (ioPriv a0)
    else match regInfo c a with
      | none => if ioIslandOff s a then .error (iotoT a0) else .ok none
      | some i =>
        match i.wr with
        | none => if ioIslandOff s a then .error (iotoT a0) else .ok none
        | some r =>
          if !bitAt r ring || ioExtraPriv ring a w then .error (ioPriv a0)
          else if !ioTag a (wtag w) then
            .error (tagvT pos (if wtag w = .empty then 0x01 else if 0x068000 ≤ a ∧ a < 0x069000 then 0x07 else 0x02)
              (wtag w).code 2 (addrIOW a0))
          else if ioIslandOff s a then .error (iotoT a0)
          else .ok (some i)
/-- A write of `w` to I/O address `a0`. -/
def ioWrite (s : State) (c ring pos a0 : Nat) (w : Word) : IoOut :=
  match ioWriteCheck s c ring pos a0 w with
  | .error t => .fault t
  | .ok none => .done s
  | .ok (some i) => ioPerform s c ring i (ioAbs c a0) w

end Sys2Proof.Machine
end

