-- ==== Sys2Proof/Machine/Host.lean ====
section
/-! DEFINITION. Host-window accesses of the cores (R282 to R286): the split into parts, the questions to the
access-control unit (R443, R444), the data of permitted parts with the boundary checks of R53 and R58. -/

namespace Sys2Proof.Machine

/-- Host bytes of a word in window `w`. -/
def hwinSize (s : State) (w : Nat) : Nat := if barB s (bHWIN w 0x18) 1 then 5 else 8
/-- The host byte of word `a` in window `w` (R282). -/
def hwinByte (s : State) (w a : Nat) : Nat :=
  (barGet s (bHWIN w 0x10) + hwinSize s w * (a - hwinBase s w)) % 2 ^ 64
/-- CACHE of window `w`; 3 acts as 0. -/
def hwinCache (s : State) (w : Nat) : Nat := barF s (bHWIN w 0x18) 3 2 % 3
/-- The next part of an access to `rest`, `off` bytes of whose first word are done (R284); `none` without a window. -/
def hostPart (s : State) (rest : List Nat) (off : Nat) : Option HostPart :=
  match rest with
  | [] => none
  | a :: t =>
    match hostServe s a with
    | none => none
    | some w =>
      let n := 1 + (t.takeWhile fun b => hostServe s b = some w).length
      let h := (hwinByte s w a + off) % 2 ^ 64
      some { win := w, first := a, haddr := h, len := min (n * hwinSize s w - off) (4096 - h % 4096) }

/-- A trap of a host-window access with the parts of a store that were performed (R239). -/
def hostTrp (h : HostAcc) (cause a st : Nat) : Trp :=
  { trp cause (addrW a) (natW st) with prog0 := if h.write then h.done % 4096 else 0 }
/-- The access goes on with its next part, or is complete (R284). HL that is off serves no window (R28). -/
def hostAsk (s : State) (c ring : Nat) (h : HostAcc) : Except Trp State :=
  match h.rest with
  | [] => .ok (modCore s c fun k => { k with hostAcc := some { h with part := none, granted := false } })
  | a :: _ =>
    if s.hlOff || s.islReset.contains 11 then .error (hostTrp h 0x04 a 0xF0)
    else match hostPart s h.rest h.off with
      | none => .error (hostTrp h 0x04 a 0xF0)
      | some p =>
        if h.write && barB s (bHWIN p.win 0x18) 5 then .error (hostTrp h 0x04 a 0xF1)
        else
          .ok (emit (modCore s c fun k => { k with hostAcc := some { h with part := some p, granted := false } })
            (.acReq (.core (Fin.ofNat 32 c)) ring h.write p.haddr p.len p.win (barF s (bHWIN p.win 0x18) 2 1)
              (hwinCache s p.win) (acMode s)))
/-- The access behind part `p`. -/
def hostAdvance (s : State) (h : HostAcc) (p : HostPart) : HostAcc :=
  let n := h.off + p.len
  let z := hwinSize s p.win
  { h with rest := h.rest.drop (n / z), off := n % z, done := h.done + 1, part := none, granted := false }

/-! ## Stores -/

/-- The word to store at `a`. -/
def HostAcc.wordAt (h : HostAcc) (a : Nat) : Word := ((h.words.find? (·.1 == a)).map (·.2)).getD emptyW
/-- The five bytes of a word in packed form (R59). -/
def packedBytes (w : Word) : List Nat := (List.range 5).map fun i => w.toNat / 2 ^ (8 * i) % 256
/-- A permitted store part leaves for the host (R58, R59, R285): 64-bit host words in slot form, bytes in packed form. -/
def hostStorePart (s : State) (h : HostAcc) (p : HostPart) : State :=
  let relaxed := barB s (bHWIN p.win 0x18) 2
  if hwinSize s p.win = 8 then
    emit s (.hostWrite p.haddr ((h.rest.take (p.len / 8)).map fun a => slotData (h.wordAt a)) 8 relaxed)
  else
    let all := (h.rest.flatMap fun a => packedBytes (h.wordAt a)).drop h.off
    emit s (.hostWrite p.haddr ((all.take p.len).map (BitVec.ofNat 64)) 1 relaxed)

/-! ## Loads -/

/-- The bytes of host words. -/
def hostBytes (data : List (BitVec 64)) : List Byte :=
  data.flatMap fun d => (List.range 8).map fun i => BitVec.ofNat 8 (d.toNat / 2 ^ (8 * i))
/-- A number from five bytes, the first least significant. -/
def fiveNat (b : List Byte) : Nat := b.foldr (fun x n => n * 256 + x.toNat) 0
/-- The words that a byte string in packed form completes, and the bytes left. -/
def packedWords : Nat → List Byte → List Nat × List Byte
  | 0, b => ([], b)
  | f + 1, b =>
    if b.length < 5 then ([], b)
    else
      let (l, r) := packedWords f (b.drop 5)
      (fiveNat (b.take 5) :: l, r)
/-- The subcode of the boundary check on a host word, 0 when it passes (R53, R58). -/
def hostWordSub (n : Nat) : Nat :=
  if 2 ^ 40 ≤ n then 0x09 else if hostTag (wtag (BitVec.ofNat 40 n)) then 0 else 0x08
/-- The arriving word `n` of address `a` joins the access, or its TAGV (R229); under PSN a load takes POISON for it. -/
def hostArrive (k : Core) (h : HostAcc) (a n : Nat) : Except Trp HostAcc :=
  let sub := hostWordSub n
  if sub = 0 then .ok { h with data := h.data ++ [BitVec.ofNat 40 n] }
  else if mPSN k.mstat && k.movb.isNone then
    .ok { h with data := h.data ++ [mkW .poison ((k.mpc.toNat / 8 * 8 + h.slot) * 0x10000 + sub * 0x100 + 0x01)] }
  else .error (tagvT (h.slot - k.mpc.toNat % 8) sub (n / 2 ^ 36 % 16) 5 (addrW a))
/-- Words that arrive in ascending address order. -/
def hostArriveAll (k : Core) : HostAcc → List (Nat × Nat) → Except Trp HostAcc
  | h, [] => .ok h
  | h, (a, n) :: t => match hostArrive k h a n with
    | .ok h => hostArriveAll k h t
    | .error e => .error e
/-- Does the data have the size of the part? -/
def hostDataOk (s : State) (p : HostPart) (data : List (BitVec 64)) : Bool := data.length == (p.len + 7) / 8 && decide (0 < hwinSize s p.win)
/-- The data of a permitted read part: the words that it completes are checked, and the access goes on. -/
def hostLoadPart (s : State) (k : Core) (h : HostAcc) (p : HostPart) (data : List (BitVec 64)) : Except Trp HostAcc :=
  if hwinSize s p.win = 8 then
    (hostArriveAll k h (h.rest.zip (data.map (·.toNat)))).map fun h' => hostAdvance s h' p
  else
    let (ws, left) := packedWords (p.len + 5) (h.bytes ++ (hostBytes data).take p.len)
    (hostArriveAll k h (h.rest.zip ws)).map fun h' => hostAdvance s { h' with bytes := left } p

end Sys2Proof.Machine
end

