-- ==== Sys2Proof/Machine/Ops.lean ====
section
/-! DEFINITION. Control-store lines and their rings (R224, R225), the trap frame (R237 to R240), taking a trap (R231 to
R236, R250, R251) with what the ROM stubs do (R233), return from a trap (R241), and gates (R252 to R256). -/

namespace Sys2Proof.Machine

/-! ## Lines -/

/-- The line of a control-store place. -/
def lineOf (l : Link) : Nat := l.toNat / 8
/-- Is the line absent (R74)? -/
def lineAbsent (n : Nat) : Bool := decide (0x14000 ≤ n)
/-- Is the line writable (R74)? -/
def lineWritable (n : Nat) : Bool := decide (0x4000 ≤ n) && decide (n < 0x14000)
/-- LIM1 (R225). -/
def lim1 (s : State) : Nat := max 0x4000 (min 0x14000 (ioF s (aRINGLIM 1) 0 17))
/-- LIM2 (R225). -/
def lim2 (s : State) : Nat := max (lim1 s) (min 0x14000 (ioF s (aRINGLIM 2) 0 17))
/-- LIM3 (R225). -/
def lim3 (s : State) : Nat := max (lim2 s) (min 0x14000 (ioF s (aRINGLIM 3) 0 17))
/-- The ring of a present line (R224). -/
def lineRing (s : State) (n : Nat) : Nat :=
  if n < lim1 s then 0 else if n < lim2 s then 1 else if n < lim3 s then 2 else 3
/-- Does the line belong to a more privileged ring than `ring` (R119)? An absent line belongs to none. -/
def innerLine (s : State) (ring : Nat) (l : Link) : Bool :=
  !lineAbsent (lineOf l) && decide (lineRing s (lineOf l) < ring)
/-- The place after `n` slots from `l`. -/
def linkAdd (l : Link) (n : Nat) : Link := l + BitVec.ofNat 20 n

/-- The valid redirect whose FROM is line `n` (R107). -/
def redirectOf (s : State) (n : Nat) : Nat :=
  match (List.range 32).find? fun i => ioB s (aCSPATCH i) 35 && ioF s (aCSPATCH i) 0 17 == n with
  | none => n
  | some i => ioF s (aCSPATCH i) 17 17
/-- The syllable that a fetch delivers at slot `j` of line `n`. -/
def csFetch (s : State) (n j : Nat) : BitVec 40 := csRaw s (8 * redirectOf s n + j)
/-- How many slots the microword at `l` spans: up to its stop bit, or to the end of its line (R68). -/
def csSpan (s : State) (l : Link) : Nat :=
  let j := l.toNat % 8
  match (List.range (8 - j)).find? fun i => (csFetch s (lineOf l) (j + i)).getLsbD 39 with
  | none => 8 - j
  | some i => i + 1

/-! ## Load shadow -/

/-- The loaded words written to their registers, oldest first (R194). -/
def shadowFlush (k : Core) : Core :=
  { k.shadow.foldl (fun k e => regPutIdx k e.reg e.word) k with shadow := [] }
/-- The shadowed register that specifier `d` names, with the word that a read of it gives. -/
def shadowAt (k : Core) (d : Nat) : Option Shadow :=
  if d = 0 then none
  else
    let i := regIdx k.cur d
    match k.rearm with
    | some r => if r.reg = i then some { r with spec := BitVec.ofNat 5 d } else
        (k.shadow.find? (·.reg == i)).map fun e => { e with spec := BitVec.ofNat 5 d, word := regGet k d }
    | none => (k.shadow.find? (·.reg == i)).map fun e => { e with spec := BitVec.ofNat 5 d, word := regGet k d }
/-- What the frame records of a shadow: the lowest specifier among the shadowed registers that the microword reads
(R194). -/
def shadowRec (k : Core) (reads : List Nat) : Option Shadow :=
  ((List.range 32).filter reads.contains).findSome? (shadowAt k)
/-- shdw1 of a record (R238). -/
def shdw1Of (r : Option Shadow) : Nat :=
  match r with
  | none => 0
  | some e => packNat [(0, 5, e.spec.toNat), (5, 2, e.left), (7, 1, 1)]
/-- shdw0 of a record; with nothing recorded the manual states no word: a free one that is no KEYREF and no SEAL (R54
speaks of recorded words). Log entry 5. -/
def shdw0Of (s : State) (r : Option Shadow) : Word :=
  match r with
  | none => let w := BitVec.ofNat 40 (freeVal s); if isSecret w then emptyW else w
  | some e => e.word

/-! ## Addresses of frames -/

/-- The buffered stores of core `c` up to the last that overlaps `[lo, lo + n)` are performed (same-word order, R235). -/
def drainOver (s : State) (c lo n : Nat) : State :=
  storeDrain s c (lastIdx (fun e => e.words.any fun p => decide (lo ≤ p.1) && decide (p.1 < lo + n)) (coreOf s c).storeBuf)
/-- tsp of ring `r`. -/
def tspOf (k : Core) (r : Nat) : Word := tabGet emptyW k.tsp r
/-- tsp of ring `r` set. -/
def tspPut (k : Core) (r : Nat) (w : Word) : Core := { k with tsp := tabSet emptyW k.tsp r w }
/-- Why a frame of `n` words cannot be written below tsp of ring `t` (R240), 0 when it can; `secret` when a word of it
is KEYREF or SEAL. -/
def frameBad (s : State) (c t n : Nat) (secret : Bool) : Nat :=
  let w := tspOf (coreOf s c) t
  let hi := pay w
  if wtag w ≠ .addrD then 1
  else if hi < n ∨ ¬ isBank (hi - 1) ∨ bankOf (hi - n) ≠ bankOf (hi - 1) then 3
  else if !bankMay s c t true (bankOf (hi - n)) then 2
  else if secret && !bankKeeper s (bankOf (hi - n)) then 4
  else 0
/-- The first word of reserve frame `j` of core `c` (R249). -/
def reserveAddr (c j : Nat) : Nat := 0xF800 + 64 * c + 16 * j
/-- RSVUSE. -/
def rsvUse (s : State) (c : Nat) : Nat := ioF s (priv c oTRAPSTAT) 0 3

/-! ## Vectors -/

/-- The least privileged ring that may handle a cause (R227). -/
def ceilingOf (cause : Nat) : Nat :=
  if cause = 0x03 ∨ cause = 0x13 ∨ cause = 0x14 ∨ cause = 0x1A then 0
  else if cause = 0x12 ∨ cause = 0x15 ∨ cause = 0x17 ∨ cause = 0x18 ∨ 0x31 ≤ cause then 1
  else 3
/-- The vector of a cause in a usable table (R231); a vector that names an absent line is not used (log entry 21), nor
is a cause above 0x3F, which only a POISON can name. -/
def vectorOf (s : State) (c cause : Nat) : Option Link :=
  let k := coreOf s c
  let a := pay k.vtb + cause
  let w := memGet s a
  if wtag k.vtb = .addrD && decide (cause < 64) && isBank a && bankKeeper s (bankOf a) && bankState s (bankOf a) == 0 &&
    !s.eccBad.contains a && decide (wtag w = .link) && !lineAbsent (pay w % 2 ^ 20 / 8)
  then some (BitVec.ofNat 20 (pay w)) else none
/-- The vector and target ring of a trap; `none` for the ROM stub (R231, R232). -/
def trapTarget (s : State) (c cause : Nat) : Option (Link × Nat) :=
  match vectorOf s c cause with
  | none => none
  | some v =>
    let t := lineRing s (lineOf v)
    if ceilingOf cause < t ∨ (coreOf s c).ring < t then none else some (v, t)
/-- May an interrupt or LEASELOST be taken in the present ring (R232)? -/
def asyncTargetOk (s : State) (c cause : Nat) : Bool :=
  match vectorOf s c cause with
  | none => true
  | some _ => (trapTarget s c cause).isSome
/-- The ROM stub for a cause (R231). -/
def stubLink (cause : Nat) : Link := BitVec.ofNat 20 (8 * (0x100 + cause))

/-! ## The trap frame -/

/-- cwp as a number (R86). -/
def cwpOf (k : Core) : Nat := k.cur % 16 + 16 * (k.live % 32)
/-- TSTAT (R238). -/
def tstatOf (oldring cause orig dreason : Nat) (ds rsv stub : Bool) : Nat :=
  packNat [(0, 2, oldring), (2, 1, ds.toNat), (3, 1, rsv.toNat), (4, 1, stub.toNat), (8, 8, cause), (16, 8, orig),
    (24, 4, dreason), (32, 4, 9)]
/-- The 16 words of a trap frame (R237). -/
def frameWords (k : Core) (t : Trp) (rpc npc : Link) (tstat : Nat) (r : Option Shadow) (sw : Word) : List Word :=
  [linkW rpc, linkW npc, natW k.mstat.toNat, natW (cwpOf k), natW k.repc, natW k.lcnt, linkW k.lbeg, linkW k.lend,
   sw, natW (shdw1Of r), t.addr, t.info, natW t.prog0, natW t.prog1, natW tstat,
   natW (match t.ftag with | none => 0 | some f => f % 16 + 16)]
/-- A list of words written from `a` on. -/
def memRow (s : State) (a : Nat) (ws : List Word) : State :=
  memPutAll s ((List.range ws.length).map fun i => (a + i, ws.getD i emptyW))

/-! ## Taking a trap -/

/-- mstat on entry to ring `t` at interrupt level `lvl` (R234). -/
def mstatEnter (m : Payload) (t : Nat) (lvl : Option Nat) : Payload :=
  let m := mSet (mSet (mSet m 0 1 0) 2 1 0) 3 1 0
  let m := if t ≤ 1 then mSet m 8 1 0 else m
  match lvl with
  | none => m
  | some l => mSet m 12 4 l
/-- The core on entry: nothing of the microword at which the trap is taken remains. -/
def coreEnter (t : Nat) (v : Link) (lvl : Option Nat) (r : Option Shadow) (sw : Word) (k : Core) : Core :=
  { shadowFlush k with
    ring := t
    mstat := mstatEnter k.mstat t lvl
    lcnt := 0
    repc := 0
    repInt := false
    mpc := v
    mw := []
    slots := 0
    rearm := none
    shdw0 := sw
    shdw1 := BitVec.ofNat 36 (shdw1Of r)
    delay := none
    wait := .none
    lngDone := false
    paced := false
    hostAcc := none
    movb := none
    stub := none }
/-- A change of CMP and QT that waited for this boundary applies (R468). -/
def modeApply (k : Core) : Core :=
  match k.modeNew with
  | none => k
  | some (c, q) => { k with mstat := mSet (mSet k.mstat 2 1 c.toNat) 3 1 q.toNat, modeNew := none }
/-- TRAPSTAT and TRAPCNT after a trap (R251). -/
def trapCount (s : State) (c cause t : Nat) (stub : Bool) : State :=
  let a := priv c oTRAPSTAT
  ioInc (ioSetB (ioSetF (ioSetF s a 8 8 cause) a 16 2 t) a 18 stub) (priv c oTRAPCNT) 0 36
/-- A core parked with resume kind 0 (R124). -/
def parkSoft (s : State) (c : Nat) : State := hubEval (ioSetF s (priv c oCORESTAT) 0 4 1)

/-! ### Return from a trap -/

/-- The frame that tret reads: its first word, or `none` when the core's ring cannot read it. -/
def tretFrame (s : State) (c : Nat) : Option Nat :=
  let k := coreOf s c
  let ok := fun a r => (List.range 16).all fun i => isBank (a + i) && bankMay s c r false (bankOf (a + i)) &&
    !s.eccBad.contains (a + i)
  if 0 < rsvUse s c then
    let a := reserveAddr c (rsvUse s c - 1)
    if ok a 0 then some a else none
  else
    let w := tspOf k k.ring
    if wtag w = .addrD ∧ ok (pay w) k.ring then some (pay w) else none
/-- The address that a failed tret records. -/
def tretAddr (s : State) (c : Nat) : Word :=
  if 0 < rsvUse s c then addrW (reserveAddr c (rsvUse s c - 1))
  else addrW (pay (tspOf (coreOf s c) (coreOf s c).ring))
/-- Does every word of a frame carry its tag of R237? -/
def frameTags (ws : List Word) : Bool :=
  let t := fun i => wtag (ws.getD i emptyW)
  [0, 1, 6, 7].all (fun i => decide (t i = .link)) && [2, 3, 4, 5, 9, 11, 12, 13, 14, 15].all (fun i => decide (t i = .nat)) &&
  (t 10 = .nat || t 10 = .addrD || t 10 = .addrIO || t 10 = .link)
/-- The checks of tret (R241). -/
def tretCheck (s0 : State) (c : Nat) : Except Trp (List Word) :=
  match tretFrame s0 c with
  | none => .error (privT 0x06 (tretAddr s0 c))
  | some a =>
    let s := drainOver s0 c a 16
    let ws := (List.range 16).map fun i => memGet s (a + i)
    let ts := pay (ws.getD 14 emptyW)
    if !frameTags ws || bits ts 32 4 != 9 then .error (privT 0x06 (addrW a))
    else if bits ts 0 2 < (coreOf s c).ring then .error (privT 0x07 (addrW a))
    else .ok ws
/-- mstat as tret in ring `ring` restores it from `w`; CMP and QT follow the masks (R241). -/
def mstatReturn (old : Payload) (ring w : Nat) (cmp qt : Bool) : Payload :=
  let m := setBits (setBits (w &&& 0xF1FF) 2 1 cmp.toNat) 3 1 qt.toNat
  let m := if 2 ≤ ring then setBits (setBits m 8 1 (mIE old).toNat) 12 4 (mLVL old) else m
  BitVec.ofNat 36 m
/-- The effect of tret from the words of its frame (R241). -/
def tretApply (s : State) (c : Nat) (ws : List Word) : State :=
  let k := coreOf s c
  let p := fun i => pay (ws.getD i emptyW)
  let rsv := rsvUse s c
  let s1 := if 0 < rsv then ioSetF s (priv c oTRAPSTAT) 0 3 (rsv - 1) else s
  let k1 := if 0 < rsv then k else tspPut k k.ring (addrW (pay (tspOf k k.ring) + 16))
  let cur := bits (p 3) 0 4
  let sh : Option Shadow :=
    if bitAt (p 9) 7 then
      some { reg := regIdx cur (bits (p 9) 0 5), spec := BitVec.ofNat 5 (p 9), word := ws.getD 8 emptyW, left := bits (p 9) 5 2 }
    else none
  setCore s1 c { k1 with
    cur := cur
    live := bits (p 3) 4 5
    repc := p 4
    repInt := false
    lcnt := p 5
    lbeg := BitVec.ofNat 20 (p 6)
    lend := BitVec.ofNat 20 (p 7)
    mstat := mstatReturn k.mstat k.ring (p 2) (bitAt (effCompat s) c) (bitAt (effQuiet s) c)
    rearm := sh.filter fun e => decide (0 < e.left)
    shdw0 := ws.getD 8 emptyW
    shdw1 := BitVec.ofNat 36 (p 9)
    ring := bits (p 14) 0 2
    mpc := BitVec.ofNat 20 (p 0)
    delay := if bitAt (p 14) 2 then some (BitVec.ofNat 20 (p 1)) else none
    movb := if p 12 = 0 ∧ p 13 = 0 then none else some { moved := bits (p 12) 0 13, desc := bitAt (p 13) 0 }
    stub := none
    modeNew := none
    mw := []
    slots := 0
    wait := .none
    paced := false }

/-! ### Stubs -/

/-- What the ROM stub for a cause but DOUBLE does (R233): error log, source 576 + cause, then kerf on a QUIET core or
park; for NMI with code 2 a hard park but for the keeper cores, otherwise `back`. -/
def stubRun (s : State) (c : Nat) (t : Trp) (back : State → State) : State :=
  let quiet := bitAt (effQuiet s) c
  let s := raise (elWrite s 0x01 0 c t.cause (pay t.info) (pay t.addr)) (576 + t.cause % 64)
  if t.cause = 0x1A then
    if pay t.info = 2 ∧ (pairOf c).isNone then hubEval (parkHard s c false) else back s
  else if quiet then kerf s c 4
  else parkSoft (modCore s c fun k => { k with stub := some t.cause }) c

/-- The state of a core that enters DOUBLE (R250, R251), or its kerf. -/
def doubleEnter (s : State) (c : Nat) (t : Trp) (rpc npc : Link) (ds : Bool) (r : Option Shadow) (sw : Word)
    (dreason : Nat) : State :=
  let k := coreOf s c
  let n := rsvUse s c
  if n = 4 ∨ !bankMay s c 0 true 0 then kerf s c 2
  else
    let a := reserveAddr c n
    let s := memRow (drainOver s c a 16) a
      (frameWords k t rpc npc (tstatOf k.ring 0x13 t.cause dreason ds true true) r sw)
    let s := ioSetF s (priv c oTRAPSTAT) 0 3 (n + 1)
    let s := trapCount s c 0x13 0 true
    match trapTarget (modCore s c fun k => { k with ring := 0 }) c 0x13 with
    | none => kerf (modCore s c (coreEnter 0 (stubLink 0x13) none r sw)) c 2
    | some (v, _) => modCore s c (coreEnter 0 v none r sw)
/-- A trap whose return by a stub must not recurse: an ordinary frame in ring T, or DOUBLE (R234). -/
def trapFrame (s : State) (c : Nat) (t : Trp) (rpc npc : Link) (ds : Bool) (reads : List Nat) (lvl : Option Nat)
    (back : State → State) : State :=
  let s := modCore s c modeApply
  let k := coreOf s c
  let r := shadowRec k reads
  let sw := shdw0Of s r
  let s := bump s
  let tgt := trapTarget s c t.cause
  let ring := match tgt with | none => 0 | some (_, x) => x
  let d := if 0 < rsvUse s c then 6 else frameBad s c ring 16 (isSecret sw)
  if d ≠ 0 then doubleEnter s c t rpc npc ds r sw d
  else
    let a := pay (tspOf k ring) - 16
    let s := memRow (drainOver s c a 16) a
      (frameWords k t rpc npc (tstatOf k.ring t.cause t.cause 0 ds false tgt.isNone) r sw)
    let s := trapCount s c t.cause ring tgt.isNone
    let v := match tgt with | none => stubLink t.cause | some (v, _) => v
    let s := modCore s c fun k => tspPut (coreEnter ring v lvl r sw k) ring (addrW a)
    if tgt.isNone then stubRun s c t back else s
/-- tret of the ROM stub in ring 0, or the trap that it raises there; a second stub's tret waits for its own trap. -/
def stubReturn (s : State) (c : Nat) : State :=
  match tretCheck s c with
  | .ok ws => tretApply s c ws
  | .error t => trapFrame s c t (coreOf s c).mpc (linkAdd (coreOf s c).mpc 1) false [] none id
/-- Core `c` takes a trap at resume point `rpc` with NPC `npc` (R234): the one description of a trap entry. `reads` are
the register specifiers that the microword at which it is taken reads. -/
def takeTrap (s : State) (c : Nat) (t : Trp) (rpc npc : Link) (ds : Bool) (reads : List Nat) (lvl : Option Nat) : State :=
  trapFrame s c t rpc npc ds reads lvl (fun s => stubReturn s c)

/-- A sev of kind 0 reaches core `c`: evlat[0], and a core parked with resume kind 0 restarts; in a ROM stub it then
executes tret (R101, R124, R233). -/
def sevCore (s : State) (c : Nat) : State :=
  let s := setEvlat s c
  let a := priv c oCORESTAT
  if ioF s a 0 3 = 1 then
    let s := ioSetF s a 0 4 0
    hubEval (if (coreOf s c).stub.isSome then stubReturn s c else s)
  else s

/-! ## Gates -/

/-- A descriptor of the gate table (R252). -/
structure GateDesc where
  target  : Link
  tring   : Nat
  callers : Nat
  wpol    : Nat
  ieoff   : Bool
deriving DecidableEq, Repr

/-- GATEF with its reason (R227). -/
def gatefT (n reason : Nat) (addr : Word) : Trp := trp 0x09 addr (natW (reason + 256 * n))
/-- The checks of gate `n` (R254). -/
def gateCheck (s : State) (c n : Nat) : Except Trp GateDesc :=
  let k := coreOf s c
  let a := pay k.gtb + 2 * n
  let w0 := memGet s a
  let w1 := memGet s (a + 1)
  let p := pay w1
  if !(decide (wtag k.gtb = .addrD) && isBank (a + 1) && bankKeeper s (bankOf a) && bankKeeper s (bankOf (a + 1))) then
    .error (gatefT n 0x01 (natW 0))
  else if !(decide (wtag w0 = .link) && decide (wtag w1 = .nat) && bitAt p 8) then .error (gatefT n 0x02 (addrW a))
  else if !bitAt p (2 + k.ring) then .error (gatefT n 0x03 (addrW a))
  else if k.ring < bits p 0 2 then .error (gatefT n 0x04 (addrW a))
  else if lineAbsent (bits (pay w0) 3 17) || lineRing s (bits (pay w0) 3 17) != bits p 0 2 then
    .error (gatefT n 0x05 (addrW a))
  else if frameBad s c (bits p 0 2) 4 false ≠ 0 then
    .error (gatefT n 0x06 (if wtag (tspOf k (bits p 0 2)) = .addrD then addrW (pay (tspOf k (bits p 0 2)) - 4) else natW 0))
  else if bits p 6 2 ≠ 0 ∧ 15 ≤ k.live then .error (gatefT n 0x07 (addrW a))
  else .ok ⟨BitVec.ofNat 20 (pay w0), bits p 0 2, bits p 2 4, bits p 6 2, bitAt p 9 && decide (bits p 0 2 ≤ 1)⟩
/-- Registers `j` to `j + n - 1` of window `w` set EMPTY:0; 0 to 7 are its locals, 8 to 15 its outs. -/
def windowClear (k : Core) (w j n : Nat) : Core :=
  (List.range n).foldl (fun k i => regPutIdx k (8 + 16 * (w % 16) + j + i) emptyW) k
/-- The window change of a policy on gate (R253). -/
def gateWindow (wpol : Nat) (k : Core) : Core :=
  if wpol = 0 then k
  else
    let old := k.cur
    let k := { k with cur := (old + 1) % 16, live := k.live + 1 }
    let k := if 2 ≤ wpol then windowClear k k.cur 0 16 else k
    if wpol = 3 then windowClear k old 12 4 else k
/-- The effect of gate `n` with return point `ret` (R254, R255). -/
def gateApply (s : State) (c n : Nat) (ret : Link) (g : GateDesc) : State :=
  let k := coreOf s c
  let a := pay (tspOf k g.tring) - 4
  let s := memRow (drainOver s c a 4) a
    [linkW ret, natW (packNat [(0, 2, k.ring), (2, 8, n), (10, 2, g.wpol), (12, 1, (mIE k.mstat).toNat), (32, 4, 6)]),
     natW (cwpOf k), k.wsp]
  modCore s c fun k =>
    let k := gateWindow g.wpol (tspPut k g.tring (addrW a))
    { k with ring := g.tring, mpc := g.target, mstat := if g.ieoff then mSet k.mstat 8 1 0 else k.mstat }

/-- The checks of gret (R256): the words of the gate frame. -/
def gretCheck (s0 : State) (c : Nat) : Except Trp (List Word) :=
  let k := coreOf s0 c
  let w := tspOf k k.ring
  let a := pay w
  if wtag w ≠ .addrD then .error (gatefT 0 0x08 (natW 0))
  else if !((List.range 4).all fun i => isBank (a + i) && bankMay s0 c k.ring false (bankOf (a + i)) && !s0.eccBad.contains (a + i)) then
    .error (gatefT 0 0x08 (addrW a))
  else
    let s := drainOver s0 c a 4
    let ws := (List.range 4).map fun i => memGet s (a + i)
    let p := pay (ws.getD 1 emptyW)
    let n := bits p 2 8
    if !(ws.map wtag == [.link, .nat, .nat, .addrD] && bits p 32 4 == 6) then .error (gatefT n 0x08 (addrW a))
    else if bits p 0 2 < k.ring then .error (gatefT n 0x09 (addrW a))
    else if bits p 10 2 ≠ 0 ∧ k.live = 1 then .error (gatefT n 0x0A (addrW a))
    else .ok ws
/-- The window change of a policy on gret (R253). -/
def gretWindow (wpol : Nat) (k : Core) : Core :=
  if wpol = 0 then k
  else
    let k := if 2 ≤ wpol then windowClear k k.cur 0 16 else k
    { k with cur := (k.cur + 15) % 16, live := k.live - 1 }
/-- The effect of gret (R256). -/
def gretApply (s : State) (c : Nat) (ws : List Word) : State :=
  let p := pay (ws.getD 1 emptyW)
  let k := coreOf s c
  let a := pay (tspOf k k.ring)
  modCore (drainOver s c a 4) c fun k =>
    let k := gretWindow (bits p 10 2) (tspPut k k.ring (addrW (a + 4)))
    { k with
      wsp := ws.getD 3 emptyW
      mstat := mSet k.mstat 8 1 (bits p 12 1)
      ring := bits p 0 2
      mpc := BitVec.ofNat 20 (pay (ws.getD 0 emptyW)) }

end Sys2Proof.Machine
end

