-- ==== Sys2Proof/Machine/Mem.lean ====
section
/-! DEFINITION. The MEM syllables (R148 to R162, R184, R189, R195 to R197): addresses, loads, stores, atomics, fences,
movb, pin and lease. -/

namespace Sys2Proof.Machine

/-! ## Addresses and data registers -/

/-- base + index + M (R148): a POISON base or index traps, then the tags of R39. -/
def memAddr (x : Ctx) : Res Nat := do
  consume [opA x, opB x]
  need x 3 isAddrD (opA x)
  need x 1 isNI (opB x)
  return effAddr 36 (opA x) (opB x) (mInt x)
/-- base + M of an atomic (R157). -/
def atomAddr (x : Ctx) : Res Nat := do
  consume [opA x]
  need x 3 isAddrD (opA x)
  return effAddr 36 (opA x) (natW 0) (mInt x)
/-- The words of a group from `a` on, modulo 2^36. -/
def groupAt (a n : Nat) : List Nat := (List.range n).map fun i => (a + i) % 2 ^ 36
/-- D of a group of `n` registers (R150). -/
def groupOk (x : Ctx) (n : Nat) : Bool := n == 1 || (x.y.d != 0 && decide (x.y.d.toNat % 8 + n ≤ 8))
/-- The data words of a store of `n` registers with their addresses. -/
def storeData (x : Ctx) (a n : Nat) : List (Nat × Word) := (groupAt a n).zip ((List.range n).map (opD x))
/-- The registers of a load of `n` words. -/
def loadDests (x : Ctx) (n : Nat) : List Nat := (List.range n).map (x.y.d.toNat + ·)

/-! ## Checks -/

/-- QUIETV of a MEM access: a host window (row 3), then a bank that is not admitted (row 2). -/
def memQuiet (x : Ctx) (as_ : List Nat) : Res Unit :=
  if !mQT x.k.mstat then .ok ()
  else match as_.find? isHost with
    | some a => .error (.trap (quietT 3 (addrW a)))
    | none => match firstUnquiet x.s x.c x.k.ring as_ with
      | some a => .error (.trap (quietT 2 (addrW a)))
      | none => .ok ()
/-- BANKDENY at the first denied word of an access that does not lie wholly in the host window (R151, R155). -/
def memDenied (x : Ctx) (write : Bool) (as_ : List Nat) : Option Trp :=
  (firstDenied x.s x.c x.k.ring write as_).map fun a => denyT x.s a write
/-- R54 on words for banks. -/
def keepCheck (x : Ctx) (ws : List (Nat × Word)) : Res Unit :=
  match ws.find? fun p => isBank p.1 && isSecret p.2 && !bankKeeper x.s (bankOf p.1) with
  | some p => .error (tagvA x.pos 0x06 p.2 2 (addrW p.1))
  | none => .ok ()
/-- R52 and R53 on words for a host window. -/
def hostCheck (x : Ctx) (ws : List (Nat × Word)) : Res Unit :=
  match ws.find? fun p => isSecret p.2 with
  | some p => .error (tagvA x.pos 0x07 p.2 2 (addrW p.1))
  | none => .ok ()
/-- No data word is EMPTY (R39). -/
def dataCheck (x : Ctx) (ws : List (Nat × Word)) : Res Unit :=
  match ws.find? fun p => wtag p.2 = .empty with
  | some p => .error (tagvA x.pos 0x01 p.2 2 (addrW p.1))
  | none => .ok ()

/-! ## Loads -/

/-- A flaw of a load: under PSN its POISON is delivered as a load is (R49, R189). -/
def loadFlaw (x : Ctx) (ds : List Nat) (a : Acc) : Flaw → Acc
  | .soft sub t => if mPSN x.k.mstat then a.load (ds.map (·, poisonW x sub t.cause)) else a.addFault t
  | f => flawed x ds a f
/-- The youngest buffered store that holds a word of the load, when it holds them all (R197). -/
def forwarded (k : Core) (as_ : List Nat) : Option (List Word) :=
  match k.storeBuf.reverse.find? fun e => e.words.any fun p => as_.contains p.1 with
  | none => none
  | some e =>
    if as_.all fun a => e.words.any (·.1 == a) then
      some (as_.map fun a => ((e.words.find? (·.1 == a)).map (·.2)).getD emptyW)
    else none
/-- The word that a bank read of `a` delivers under PSN: POISON for an uncorrectable word. -/
def bankWord (x : Ctx) (s : State) (a : Nat) : Word := if s.eccBad.contains a then poisonW x 0 0x10 else memGet s a
/-- A permitted load of bank words: forwarded, or read after every overlapping buffered store (R197, R258). -/
def bankLoad (x : Ctx) (a : Acc) (ds as_ : List Nat) : Acc :=
  match forwarded x.k as_ with
  | some ws => a.load (ds.zip ws)
  | none =>
    let s := drainOver x.s x.c (as_.headD 0) as_.length
    match as_.find? s.eccBad.contains with
    | some b => if mPSN x.k.mstat then
        (a.load (ds.zip (as_.map (bankWord x s)))).eff fun s => as_.foldl eccRead (drainOver s x.c (as_.headD 0) as_.length)
      else a.addFaultSt (eccT b) fun s => eccRead s b
    | none => (a.load (ds.zip (as_.map (memGet s)))).eff fun s =>
        as_.foldl eccRead (drainOver s x.c (as_.headD 0) as_.length)
/-- A host-window access starts, goes on or ends (R284, R285): `fin` takes the finished access. `deny` is what a refusal
of the first part does. -/
def hostStart (x : Ctx) (write : Bool) (as_ : List Nat) (ws : List (Nat × Word)) : Except Trp State :=
  hostAsk x.s x.c x.k.ring { write := write, slot := x.slot, rest := as_, off := 0, part := none, granted := false,
                             done := 0, words := ws, data := [], bytes := [] }
/-- The finished host-window access of a core that waits for one. -/
def hostEnded (k : Core) : Option (Option HostAcc) :=
  if k.wait = .host then some (k.hostAcc.filter fun h => h.rest.isEmpty) else none
/-- A load from a host window. -/
def hostLoad (x : Ctx) (a : Acc) (ds as_ : List Nat) : Acc :=
  match hostEnded x.k with
  | some (some h) => a.load (ds.zip h.data)
  | some none => a.addHold .host x.s
  | none => match hostStart x false as_ [] with
    | .ok s => a.addHold .host s
    | .error t => a.addFault t
/-- A load of `n` words (R153, R155). -/
def semLoad (n : Nat) : Sem := fun x a =>
  let ds := loadDests x n
  if !groupOk x n then flawed x [] a (illF x)
  else match memAddr x with
    | .error f => loadFlaw x ds a f
    | .ok b =>
      let as_ := groupAt b n
      match memQuiet x as_ with
      | .error f => flawed x [] a f
      | .ok _ =>
        if as_.all isHost then hostLoad x a ds as_
        else match memDenied x false as_ with
          | some t => loadFlaw x ds a (.soft 0 t)
          | none => bankLoad x a ds as_

/-! ## Stores -/

/-- A full buffer performs its oldest stores until an entry is free (R154). -/
def storeRoom (c : Nat) : Nat → State → State
  | 0, s => s
  | f + 1, s =>
    if 16 ≤ ((coreOf s c).storeBuf.filter fun e => !e.marker).length then storeRoom c f (storeDrain s c 1) else s
/-- A store enters the buffer (R195). -/
def storePush (s : State) (c : Nat) (ws : List (Nat × Word)) : State :=
  modCore (storeRoom c 64 s) c fun k => { k with storeBuf := k.storeBuf ++ [{ marker := false, words := ws }] }
/-- The stores that a new host-window store may not pass: those before a fence.ss marker (R158), or all for st.rel. -/
def beforeHostStore (s : State) (c : Nat) (rel : Bool) : State :=
  if rel then storeDrainAll s c else storeDrain s c (lastIdx (·.marker) (coreOf s c).storeBuf)
/-- A store to a host window (R154, R285): it issues when no other syllable of the microword faults. -/
def hostStore (x : Ctx) (a : Acc) (rel : Bool) (ws : List (Nat × Word)) : Acc :=
  match hostEnded x.k with
  | some (some _) => a
  | some none => { a with lateHold := a.lateHold <|> some (.host, x.s) }
  | none => match hostStart { x with s := beforeHostStore x.s x.c rel } true (ws.map (·.1)) ws with
    | .ok s => { a with lateHold := a.lateHold <|> some (.host, s) }
    | .error t => a.addFault t
/-- A store of `n` words (R154, R155); `rel` for st.rel (R156). -/
def semStore (n : Nat) (rel : Bool) : Sem := fun x a => outcome x [] a do
  if !groupOk x n then throw (illF x)
  let b ← memAddr x
  let ws := storeData x b n
  let as_ := ws.map (·.1)
  if as_.all isHost then consume (ws.map (·.2))
  dataCheck x ws
  if as_.all isHost then hostCheck x ws
  keepCheck x ws
  memQuiet x as_
  if as_.all isHost then return hostStore x a rel ws
  match memDenied x true as_ with
  | some t => throw (.trap t)
  | none => return a.eff fun s => storePush (if rel then storeDrainAll s x.c else s) x.c ws

/-! ## Atomics -/

/-- The address of an atomic, its tag checks and its access checks (R157); `data` is checked as stored data. -/
def atomPlace (x : Ctx) (ops data : List Word) : Res Nat := do
  consume ops
  let b ← atomAddr x
  dataCheck x (data.map (b, ·))
  memQuiet x [b]
  if !isBank b then throw (.trap (denyT x.s b true))
  match memDenied x false [b], memDenied x true [b] with
  | some t, _ => throw (.trap t)
  | none, some t => throw (.trap t)
  | none, none => return b
/-- An atomic at `b`: every earlier store performed, then one read and one write (`none`: unchanged). The old word, or
what `f` gives for it, comes with the load shadow. -/
def atomDo (x : Ctx) (a : Acc) (b : Nat) (f : Word → Res (Option Word)) : Acc :=
  let s := storeDrainAll x.s x.c
  if s.eccBad.contains b then a.addFaultSt (eccT b) fun s => eccRead s b
  else match f (memGet s b) with
    | .error e => loadFlaw x [x.y.d.toNat] a e
    | .ok new =>
      (a.load [(x.y.d.toNat, memGet s b)]).eff fun s =>
        let s := eccRead (storeDrainAll s x.c) b
        match new with
        | none => s
        | some w => memPut s b w
/-- An atomic syllable. -/
def semAtomic (ops data : Ctx → List Word) (f : Ctx → Nat → Word → Res (Option Word)) : Sem := fun x a =>
  match atomPlace x (ops x) (data x) with
  | .error e => loadFlaw x [x.y.d.toNat] a e
  | .ok b => atomDo x a b (f x b)
/-- The new word of swap, under R54. -/
def swapNew (x : Ctx) (b : Nat) (_old : Word) : Res (Option Word) := do
  keepCheck x [(b, opB x)]
  return some (opB x)
/-- The new word of cas: 40 bits compared (R157). -/
def casNew (x : Ctx) (b : Nat) (old : Word) : Res (Option Word) :=
  if old = opD x 0 then swapNew x b old else .ok none
/-- TAGV of fadd: the memory word is operand a, ROLE 4 (R45, R157). -/
def faddFlaw (b : Nat) : Flaw → Flaw
  | .soft sub t =>
    .soft sub { t with
      addr := addrW b
      info := if bits (pay t.info) 15 3 = 0 then natW (pay t.info + 4 * 0x8000) else t.info }
  | f => f
/-- The new word of fadd: the sum under R40 with the old word's tag; POISON makes POISON (R51). -/
def faddNew (x : Ctx) (b : Nat) (old : Word) : Res (Option Word) :=
  if wtag old = .poison then .ok (some old)
  else if wtag (opB x) = .poison then .ok (some (opB x))
  else match rowOf x rowsAdd old (opB x) with
    | .error e => .error (faddFlaw b e)
    | .ok t => .ok (some (mkW (wtag old) (pay (rowAdd t old (opB x)))))
/-- swap. -/
def semSwap : Sem := semAtomic (fun _ => []) (fun x => [opB x]) swapNew
/-- cas. The expected word in D is only compared, in all 40 bits, so it may carry any tag (R39 names it in no row and R45
gives it no role): DEDUCED, log entry 35. -/
def semCas : Sem := semAtomic (fun _ => []) (fun x => [opB x]) casNew
/-- fadd. -/
def semFadd : Sem := semAtomic (fun _ => []) (fun _ => []) faddNew

/-! ## Fences -/

/-- fence.ll: loads are performed when they execute. -/
def semFenceLl : Sem := fun _ a => a
/-- fence.ss: a marker in the store buffer. -/
def semFenceSs : Sem := fun x a => a.eff fun s =>
  if (coreOf s x.c).storeBuf.isEmpty then s
  else modCore s x.c fun k => { k with storeBuf := k.storeBuf ++ [{ marker := true, words := [] }] }
/-- fence.full: the store buffer is emptied. -/
def semFenceFull : Sem := fun x a => a.eff fun s => storeDrainAll s x.c
/-- fence.io: I/O and PORT accesses are performed when they execute. -/
def semFenceIo : Sem := fun _ a => a

/-! ## movb -/

/-- A movb: where it copies from and to, how many words, its direction, its slot. -/
structure MovbOp where
  src  : Nat
  dst  : Nat
  n    : Nat
  desc : Bool
  c    : Nat
  ring : Nat
  slot : Nat
  pos  : Nat
deriving DecidableEq, Repr

/-- How a movb stands. -/
inductive MovbEnd where
  | done | wait | fault (t : Trp)
deriving DecidableEq, Repr

/-- A trap of a movb with its progress record (R160). -/
def movbTrp (o : MovbOp) (moved : Nat) (stop : Bool) (t : Trp) : Trp :=
  { t with prog0 := moved, prog1 := o.desc.toNat + 2 * stop.toNat }
/-- The offset of the word that is moved after `moved` words. -/
def movbIdx (o : MovbOp) (moved : Nat) : Nat := if o.desc then o.n - 1 - moved else moved
/-- The progress of a movb in its core. -/
def movbMark (o : MovbOp) (moved : Nat) (s : State) : State :=
  modCore s o.c fun k => { k with movb := some { moved := moved, desc := o.desc }, hostAcc := none }
/-- One word of a movb from a bank: the word, or its trap. -/
def movbRead (o : MovbOp) (s : State) (x : Nat) : Except Trp (Word × State) :=
  match firstDenied s o.c o.ring false [x] with
  | some a => .error (denyT s a false)
  | none => if s.eccBad.contains x then .error (eccT x) else .ok (memGet s x, eccRead s x)
/-- The checks of R54 and R262 on a word that a movb writes to a bank. -/
def movbWriteBad (o : MovbOp) (s : State) (y : Nat) (w : Word) : Option Trp :=
  if isBank y && isSecret w && !bankKeeper s (bankOf y) then some (tagvT o.pos 0x06 (wtag w).code 2 (addrW y))
  else (firstDenied s o.c o.ring true [y]).map fun a => denyT s a true
/-- The checks of R52 and R53 on a word that a movb writes to a host window. -/
def movbHostBad (o : MovbOp) (y : Nat) (w : Word) : Option Trp :=
  if wtag w = .poison then some (consumeT w)
  else if isSecret w then some (tagvT o.pos 0x07 (wtag w).code 2 (addrW y)) else none
/-- A host-window access of one word of a movb. -/
def movbHost (o : MovbOp) (s : State) (write : Bool) (a : Nat) (ws : List (Nat × Word)) : Except Trp State :=
  hostAsk s o.c o.ring { write := write, slot := o.slot, rest := [a], off := 0, part := none, granted := false,
                         done := 0, words := ws, data := [], bytes := [] }
/-- The word of a movb that has been read goes to its destination: moved (`true`), waiting, or a trap. -/
def movbPut (o : MovbOp) (s : State) (y : Nat) (w : Word) : Except Trp (Bool × State) :=
  if isHost y then
    match movbHostBad o y w with
    | some t => .error t
    | none => (movbHost o s true y [(y, w)]).map fun s => (false, s)
  else match movbWriteBad o s y w with
    | some t => .error t
    | none => .ok (true, memPut s y w)
/-- One step of a movb after `moved` words: `true` when the word has been moved, `false` when it waits for the host. -/
def movbStep (o : MovbOp) (s : State) (moved : Nat) : Except Trp (Bool × State) :=
  let i := movbIdx o moved
  let x := (o.src + i) % 2 ^ 36
  let y := (o.dst + i) % 2 ^ 36
  match (coreOf s o.c).hostAcc with
  | some h =>
    if !h.rest.isEmpty then .ok (false, s)
    else if h.write then .ok (true, s)
    else movbPut o s y (h.data.headD emptyW)
  | none =>
    if isHost x then (movbHost o s false x []).map fun s => (false, s)
    else match movbRead o s x with
      | .error t => .error t
      | .ok (w, s) => movbPut o s y w
/-- A movb from where it stands, as far as it goes. -/
def movbRun (o : MovbOp) : Nat → Nat → State → State × MovbEnd
  | 0, _, s => (s, .done)
  | f + 1, moved, s =>
    match movbStep o s moved with
    | .error t => (s, .fault (movbTrp o moved true t))
    | .ok (false, s) => (s, .wait)
    | .ok (true, s) => movbRun o f (moved + 1) (movbMark o (moved + 1) s)
/-- A movb from the progress of its core on: the store buffer is emptied first (R159). -/
def movbGo (o : MovbOp) (s : State) : State × MovbEnd :=
  let s := storeDrainAll s o.c
  match (coreOf s o.c).movb with
  | some p => movbRun { o with desc := p.desc } (o.n - p.moved) p.moved s
  | none => movbRun o o.n 0 (movbMark o 0 s)
/-- The checks of movb's operands (R39, R159). -/
def movbOp (x : Ctx) : Res MovbOp := do
  consume [opA x, opB x, opD x 0]
  need x 3 isAddrD (opD x 0)
  need x 3 isAddrD (opA x)
  need x 1 isNat (opB x)
  if 4096 < pay (opB x) then throw (tagvF x.pos 0x02 (opB x) 1)
  return { src := pay (opA x), dst := pay (opD x 0), n := pay (opB x),
           desc := decide (pay (opA x) < pay (opD x 0)) && decide (pay (opD x 0) < pay (opA x) + pay (opB x)),
           c := x.c, ring := x.k.ring, slot := x.slot, pos := x.pos }
/-- The words that a movb touches. -/
def movbWords (o : MovbOp) : List Nat := groupAt o.src o.n ++ groupAt o.dst o.n
/-- movb (R159, R160). -/
def semMovb : Sem := fun x a => outcome x [] a do
  let o ← movbOp x
  memQuiet x (movbWords o)
  return match movbGo o x.s with
    | (_, .done) => a.eff fun s => (movbGo o s).1
    | (s, .wait) => { a with lateHold := a.lateHold <|> some (.host, s) }
    | (s, .fault t) => a.addFaultSt t fun _ => s

/-! ## pin and lease -/

/-- Would the pinned lines `l` stay within 3 of a set and 192 of the core (R78)? -/
def pinOk (l : List Nat) : Bool :=
  decide (l.length ≤ 192) && (List.range 64).all fun i => decide ((l.filter (· % 64 == i)).length ≤ 3)
/-- The first line and the number of lines of a pin (R161). -/
def pinLines (x : Ctx) : Res (List Nat) := do
  if mF x 0 8 = 0 then throw (illF x)
  consume [opA x]
  need x 0 isLink (opA x)
  let l := bits (pay (opA x)) 3 17
  if 0x13FFF < l + mF x 0 8 - 1 then throw (.trap (illop x.k.mpc x.slot 0x06))
  return (List.range (mF x 0 8)).map (l + ·)
/-- pin. -/
def semPin : Sem := fun x a => outcome x [x.y.d.toNat] a do
  let ls ← pinLines x
  let all := x.k.pinned ++ ls.filter fun l => !x.k.pinned.contains l
  if pinOk all then
    return (a.put x.y.d.toNat (boolW true)).eff fun s => modCore s x.c fun k => { k with pinned := all }
  else return a.put x.y.d.toNat (boolW false)
/-- unpin. -/
def semUnpin : Sem := fun x a => outcome x [x.y.d.toNat] a do
  let ls ← pinLines x
  return (a.put x.y.d.toNat (boolW true)).eff fun s =>
    modCore s x.c fun k => { k with pinned := k.pinned.filter fun l => !ls.contains l }
/-- lease (R162). -/
def semLease : Sem := fun x a => outcome x [x.y.d.toNat] a do
  consume [opA x]
  need x 0 isNat (opA x)
  if 31 < pay (opA x) then throw (tagvF x.pos 0x02 (opA x) 0)
  if renewOk x.s x.c x.k.ring (pay (opA x)) then
    return (a.put x.y.d.toNat (boolW true)).eff fun s => renewDo s (pay (opA x))
  else return a.put x.y.d.toNat (boolW false)

end Sys2Proof.Machine
end

