-- ==== Sys2Proof/Machine/Seq.lean ====
section
/-! DEFINITION. The SEQ syllables (R116 to R124, R84, R90 to R102): transfers, repeats, loops, waits, sev, gates. -/

namespace Sys2Proof.Machine

/-! ## Places -/

/-- The sequential successor of the syllable's microword. -/
def nextOf (x : Ctx) : Link := linkAdd x.k.mpc x.k.slots
/-- The place behind a line pad (R72). -/
def skipPad (s : State) (l : Link) : Link :=
  if csFetch s (lineOf l) (l.toNat % 8) = 0x8000007FFF#40 then BitVec.ofNat 20 (8 * (lineOf l + 1)) else l
/-- The place after the microword at `l`. -/
def afterWord (s : State) (l : Link) : Link := linkAdd (skipPad s l) (csSpan s (skipPad s l))
/-- The link that a call pushes: after its own microword, or after the delay slot under COMPAT (R118). -/
def returnLink (x : Ctx) : Link := if mCMP x.k.mstat then afterWord x.s (nextOf x) else nextOf x
/-- The direct target that a 15-bit field gives (R81). -/
def dispLink (x : Ctx) (f : Nat) : Link :=
  BitVec.ofNat 20 ((((lineOf x.k.mpc : Nat) + signed 12 (f / 8)) % (2 ^ 17 : Nat)).toNat * 8 + f % 8)
/-- The direct target of the syllable; brc holds the field in [29:15]. -/
def directTarget (x : Ctx) (brc : Bool) : Res Link :=
  match x.y.ext with
  | some p => .ok (BitVec.ofNat 20 p.toNat)
  | none => .ok (dispLink x (if brc then x.y.d.toNat * 1024 + x.y.a.toNat * 32 + x.y.b.toNat else mNat x))
/-- PRIV for a target in a more privileged line (R119). -/
def checkLine (x : Ctx) (l : Link) : Res Unit :=
  if innerLine x.s x.k.ring l then .error (.trap (privT 0x02 (linkW l))) else .ok ()
/-- A taken transfer to `l`. -/
def Acc.go (a : Acc) (l : Link) : Acc := { a with xfer := some l }
/-- Does the syllable stand in a delay slot, where a taken transfer is ignored (R83)? -/
def inSlot (x : Ctx) : Bool := x.k.delay.isSome

/-! ## Conditions -/

/-- Bit `i` of mstat.C16. -/
def flagBit (k : Core) (i : Nat) : Bool := bitAt (mC16 k.mstat) i
/-- Is the lease of a bank of the core's cluster near its expiry (condition 7)? -/
def nearOfCluster (s : State) (c : Nat) : Bool := s.nearLease.any fun n => bankOwner s n == c / 4 + 1
/-- Has compare slot `n` fired (conditions 16 to 23)? -/
def slotFired (s : State) (c n : Nat) : Bool :=
  bitAt (cmpSlot s c n) 7 && ioB s (aCMPCTL (cmpSlot s c n % 64)) 3
/-- Condition `n` (R84). -/
def condVal (s : State) (c n : Nat) : Bool :=
  let k := coreOf s c
  if n = 0 then true
  else if n ≤ 4 then flagBit k (n - 1)
  else if n = 5 then bitAt k.evlat 0
  else if n = 6 then mIE k.mstat
  else if n = 7 then nearOfCluster s c
  else if n = 8 then !k.ciphBusy
  else if n = 9 then !k.ciphBusy && k.ciphSt == 0
  else if n = 10 then k.workFull
  else if n = 11 then !k.recvQ.isEmpty
  else if n = 12 then !sendFull s c
  else if n = 13 then k.ledgAck
  else if n = 14 then (match k.compRing with | none => false | some r => decide (0 < cqFree s r))
  else if n = 15 then k.lcnt == 0
  else if n < 24 then slotFired s c (n - 16)
  else if n < 40 then ioB s aMIRROR (n - 24)
  else if n = 40 then hlUp s
  else if n = 41 then dvPaired s
  else if n = 42 then modeBit s 4
  else if n < 45 then modeBit s (n - 41)
  else if n = 45 then modeBit s 5
  else if n = 46 then modeBit s 6
  else if n = 47 then modeBit s 7
  else if n < 56 then bitAt k.evlat (n - 47)
  else if n = 56 then k.storeBuf.isEmpty
  else if n = 57 then k.wait != .lng
  else if n = 58 then ioB s aDVSTAT 3
  else if n = 59 then ioB s aDVSTAT 2
  else if n = 60 then ioB s (priv c oWDOGSTAT) 15
  else if n = 61 then mQT k.mstat
  else if n = 62 then mCMP k.mstat
  else false

/-! ## Branches -/

/-- A conditional branch: taken or not, in a delay slot never (R83). -/
def branchAcc (x : Ctx) (a : Acc) (brc taken : Bool) : Res Acc := do
  let t ← directTarget x brc
  let go := taken && !inSlot x
  if go then checkLine x t
  let a : Acc := { a with branch := some ((sylMpc x).toNat, go) }
  return if go then a.go t else a
/-- A branch on a register (R117). -/
def semBcond (ok : Tag → Bool) (test : Nat → Bool) : Sem := fun x a => outcome x [] a do
  let _ ← directTarget x false
  consume [opA x]
  need x 0 ok (opA x)
  branchAcc x a false (test (pay (opA x)))
/-- br. -/
def semBr : Sem := fun x a => outcome x [] a do
  let t ← directTarget x false
  if inSlot x then return a
  checkLine x t
  return a.go t
/-- bt. -/
def semBt : Sem := semBcond isBool (· == 1)
/-- bf. -/
def semBf : Sem := semBcond isBool (· == 0)
/-- bz. -/
def semBz : Sem := semBcond isBz (· == 0)
/-- bnz. -/
def semBnz : Sem := semBcond isBz (· != 0)
/-- brc (R84). -/
def semBrc : Sem := fun x a => outcome x [] a <|
  branchAcc x a true (condVal x.s x.c (mF x 0 6) != (mF x 6 1 == 1))

/-! ## Calls and returns -/

/-- The return stack with `l` pushed; the oldest entry leaves a full stack (R91). -/
def rsPush (s : State) (c : Nat) (l : Link) : State :=
  let d := ioF s (priv c oRSDEPTH) 0 5
  if d < 16 then ioPut (ioSetF s (priv c oRSDEPTH) 0 5 (d + 1)) (priv c (oRSENT d)) (linkW l)
  else
    let s := (List.range 15).foldl (fun s i => ioPut s (priv c (oRSENT i)) (ioGet s (priv c (oRSENT (i + 1))))) s
    ioPut s (priv c (oRSENT 15)) (linkW l)
/-- The return stack with its newest entry popped. -/
def rsPop (s : State) (c : Nat) : State := ioSetF s (priv c oRSDEPTH) 0 5 (ioF s (priv c oRSDEPTH) 0 5 - 1)
/-- The newest entry. -/
def rsTop (s : State) (c : Nat) : Link :=
  BitVec.ofNat 20 (pay (ioGet s (priv c (oRSENT (ioF s (priv c oRSDEPTH) 0 5 - 1)))))
/-- RSOVF when a push finds a full stack and RSOV is 1. -/
def checkPush (x : Ctx) : Res Unit :=
  if ioF x.s (priv x.c oRSDEPTH) 0 5 = 16 ∧ mRSOV x.k.mstat then .error (.trap (trp 0x0C (natW 0) (natW 16))) else .ok ()
/-- RSUNF on an empty stack. -/
def checkPop (x : Ctx) : Res Unit :=
  if ioF x.s (priv x.c oRSDEPTH) 0 5 = 0 then .error (.trap (trp 0x0D (natW 0) (natW 0))) else .ok ()
/-- The next window. -/
def windowUp (k : Core) : Core := { k with cur := (k.cur + 1) % 16, live := k.live + 1 }
/-- The window below. -/
def windowDown (k : Core) : Core := { k with cur := (k.cur + 15) % 16, live := k.live - 1 }
/-- What happens at retirement, after what stood before. -/
def Acc.later (a : Acc) (f : State → State) : Acc := { a with after := fun s => f (a.after s) }
/-- call. -/
def semCall : Sem := fun x a => outcome x [] a do
  let t ← directTarget x false
  if inSlot x then return a
  checkLine x t
  checkPush x
  return (a.go t).later fun s => rsPush s x.c (returnLink x)
/-- callw: WOVF before RSOVF (R87, R229). -/
def semCallw : Sem := fun x a => outcome x [] a do
  let t ← directTarget x false
  if inSlot x then return a
  checkLine x t
  if 15 ≤ x.k.live then throw (.trap (trp 0x0A (natW 0) (natW (cwpOf x.k))))
  checkPush x
  return (a.go t).later fun s => modCore (rsPush s x.c (returnLink x)) x.c windowUp
/-- ret. -/
def semRet : Sem := fun x a => outcome x [] a do
  if inSlot x then return a
  checkPop x
  checkLine x (rsTop x.s x.c)
  return (a.go (rsTop x.s x.c)).later fun s => rsPop s x.c
/-- retw (R88). -/
def semRetw : Sem := fun x a => outcome x [] a do
  if inSlot x then return a
  if x.k.live = 1 then throw (.trap (trp 0x0B (natW 0) (natW (cwpOf x.k))))
  checkPop x
  checkLine x (rsTop x.s x.c)
  return (a.go (rsTop x.s x.c)).later fun s => modCore (rsPop s x.c) x.c windowDown
/-- The LINK in A. -/
def linkA (x : Ctx) : Res Link := do
  consume [opA x]
  need x 0 isLink (opA x)
  return BitVec.ofNat 20 (pay (opA x))
/-- jr. -/
def semJr : Sem := fun x a => outcome x [] a do
  let l ← linkA x
  if inSlot x then return a
  checkLine x l
  return a.go l
/-- callr. -/
def semCallr : Sem := fun x a => outcome x [] a do
  let l ← linkA x
  if inSlot x then return a
  checkLine x l
  checkPush x
  return (a.go l).later fun s => rsPush s x.c (returnLink x)

/-! ## Repeats and loops -/

/-- rep (R94). -/
def semRep : Sem := fun x a => { a with rep := some (mF x 0 8, false) }
/-- repi (R95). -/
def semRepi : Sem := fun x a => outcome x [] a do
  consume [opA x]
  need x 0 isNat (opA x)
  return { a with rep := some (pay (opA x), true) }
/-- loop (R96, R97). -/
def semLoop : Sem := fun x a => outcome x [] a do
  let t ← directTarget x false
  let b := nextOf x
  if t.toNat < b.toNat then throw (.trap (illop x.k.mpc x.slot 0x08))
  consume [opA x]
  need x 0 isNat (opA x)
  if pay (opA x) = 0 then checkLine x (afterWord x.s t)
  return { a with loop := some (b, t, pay (opA x)) }

/-! ## Waiting and signalling -/

/-- wfe (R100). -/
def semWfe : Sem := fun x a =>
  if bitAt x.k.evlat 0 then a.eff fun s => modCore s x.c fun k => { k with evlat := k.evlat / 2 * 2 }
  else a.addHold .wfe x.s
/-- A flag of sev kind 0 set. -/
def sevFlag (f : Nat) (s : State) (c : Nat) : State := modCore s c fun k => { k with evlat := k.evlat ||| 2 ^ (1 + f) }
/-- sev, kind 0, or a reserved kind (R101). -/
def semSevCores : Sem := fun x a => outcome x [] a do
  if mF x 12 3 ≠ 0 then throw (.trap (illop x.k.mpc x.slot 0x0A))
  consume [opA x]
  need x 0 isNB (opA x)
  let cs := bitList 32 (pay (opA x))
  return a.later fun s =>
    let s := if mF x 3 1 = 1 then cs.foldl (sevFlag (mF x 0 3)) s else s
    cs.foldl sevCore s
/-- sev, kind 1. -/
def semSevHub : Sem := fun x a => outcome x [] a do
  let n := mF x 0 10
  if n < 640 ∨ 1022 < n then throw (.trap (illop x.k.mpc x.slot 0x0A))
  return a.later fun s => raise s n
/-- A CMD-OUT that DH forms for sev; it is sent only while the dovetail is paired (R384). -/
def dhOut (s : State) (form w0 : Nat) : State :=
  if dvPaired s then dhSend s ⟨0x10, natW w0, natW (form * 2 ^ 33)⟩ else s
/-- sev, kind 2. -/
def semSevJig : Sem := fun x a => a.later fun s => dhOut s 4 (mF x 0 5 + 32)
/-- sev, kind 3. -/
def semSevTrig : Sem := fun x a => a.later fun s => dhOut s 3 (mF x 0 4)
/-- The compare unit mapped to slot 7 of a core, and whether it is mapped. -/
def unitOf7 (s : State) (c : Nat) : Nat := cmpSlot s c 7 % 64
/-- waitt arms its unit (R102). -/
def waittArm (s : State) (u tb v : Nat) : State :=
  cmpArm (ioSetF (ioPut s (aCMPVAL u) (natW v)) (aCMPCTL u) 0 2 tb) u
/-- Is a waitt's time too close under QUIET (R213)? -/
def waittClose (x : Ctx) : Bool :=
  let d := (pay (opA x) + 2 ^ 36 - tbLo x.s (mF x 0 2)) % 2 ^ 36
  decide (d < 40) || decide (2 ^ 35 ≤ d)
/-- waitt (R102, R213). -/
def semWaitt : Sem := fun x a => outcome x [] a do
  if !bitAt (cmpSlot x.s x.c 7) 7 then throw (.trap (illop x.k.mpc x.slot 0x09))
  consume [opA x]
  need x 0 isTime (opA x)
  let u := unitOf7 x.s x.c
  if x.k.wait = .waitt then
    (if ioB x.s (aCMPCTL u) 3 then return a else return a.addHold .waitt x.s)
  else if mQT x.k.mstat && waittClose x then throw (.trap (quietT 6 (natW 0)))
  else return a.addHold .waitt (waittArm x.s u (mF x 0 2) (pay (opA x)))

/-! ## Gates, traps, parking -/

/-- A check whose failure is a trap. -/
def orTrap {α : Type} (r : Except Trp α) : Res α := match r with | .ok v => .ok v | .error t => .error (.trap t)
/-- gate n (R254). -/
def semGate : Sem := fun x a => outcome x [] a do
  if inSlot x then return a
  let g ← orTrap (gateCheck x.s x.c (mF x 0 8))
  return a.later fun s => gateApply s x.c (mF x 0 8) (nextOf x) g
/-- gret (R256). -/
def semGret : Sem := fun x a => outcome x [] a do
  if inSlot x then return a
  let ws ← orTrap (gretCheck x.s x.c)
  return a.later fun s => gretApply s x.c ws
/-- tret (R241). -/
def semTret : Sem := fun x a => outcome x [] a do
  if inSlot x then return a
  let ws ← orTrap (tretCheck x.s x.c)
  return a.later fun s => tretApply (drainOver s x.c (pay (tretAddr s x.c)) 16) x.c ws
/-- trap n (R122). -/
def semTrap : Sem := fun x a => { a with trapN := some (trp (0x20 + mF x 0 4) (linkW x.k.mpc) (natW (mF x 0 4))) }
/-- tfence (R123). -/
def semTfence : Sem := fun _ a => a
/-- A core parked by park n (R124). -/
def parkDo (s : State) (c n : Nat) : State := hubEval (ioSetF s (priv c oCORESTAT) 0 4 (1 + 4 * n))
/-- park n. -/
def semPark : Sem := fun x a => outcome x [] a do
  if x.k.ring ≠ 0 then throw (.trap (privT 0x01 (linkW x.k.mpc)))
  if bitAt (effQuiet x.s) x.c then throw (.trap (quietT 5 (natW 0)))
  return a.later fun s => parkDo s x.c (mF x 0 1)
/-- nop, and the line pad: what a pad does stands in the issue of a microword (R72); another M is not named. -/
def semNop : Sem := fun x a =>
  if mNat x = 0 ∨ mNat x = 0x7FFF then a else outcome x [] a (.error (illF x))

end Sys2Proof.Machine
end

