-- ==== Sys2Proof/Machine/Port.lean ====
section
/-! DEFINITION. The PORT syllables (R163 to R172, R184): in, out, fsend, frecv, ciph, cwait, ledg, claim, cmpl, post.
An access is made only when every other syllable of the microword has executed without fault (R164): its own outcome is
`late`. -/

namespace Sys2Proof.Machine

/-- PRIV 0x01 in a ring above `r` (R228). -/
def ringMax (x : Ctx) (r : Nat) : Res Unit :=
  if r < x.k.ring then .error (.trap (privT 0x01 (linkW x.k.mpc))) else .ok ()
/-- A PORT access that waits: under QUIET it raises QUIETV instead (R215). -/
def portWait (x : Ctx) (a : Acc) (w : Wait) : Acc :=
  if mQT x.k.mstat then a.addFault (quietT 4 (natW 0)) else { a with lateHold := a.lateHold <|> some (w, x.s) }

/-! ## in and out -/

/-- base + index + M in I/O space (R148). -/
def portAddr (x : Ctx) : Res Nat := do
  consume [opA x, opB x]
  need x 3 isAddrIO (opA x)
  need x 1 isNI (opB x)
  return effAddr 24 (opA x) (opB x) (mInt x)
/-- A trap of an I/O access: IOTO is the access's own outcome. -/
def ioFlaw (t : Trp) : Flaw := if t.cause = 0x06 then .late t else .trap t
/-- in. -/
def semIn : Sem := fun x a => outcome x [x.y.d.toNat] a do
  let i ← portAddr x
  match ioRead x.s x.c x.k.ring i with
  | .error t => throw (ioFlaw t)
  | .ok (w, _) => return (a.put x.y.d.toNat w).eff fun s => ioReadEff s x.c (ioAbs x.c i)
/-- The state after the write of out, when it is performed. -/
def outDone (x : Ctx) (i : Nat) (w : Word) (s : State) : State :=
  match ioWrite s x.c x.k.ring x.pos i w with
  | .done t => t
  | _ => s
/-- out: the ring, then POISON data, then the tag of the register (R229). -/
def semOut : Sem := fun x a => outcome x [] a do
  let i ← portAddr x
  let w := opD x 0
  match ioWrite x.s x.c x.k.ring x.pos i w with
  | .fault t =>
    if t.cause ≠ 0x08 then consume [w]
    throw (ioFlaw t)
  | .stall =>
    consume [w]
    return portWait x a .sendq
  | .done _ =>
    consume [w]
    return a.eff (outDone x i w)

/-! ## The dovetail -/

/-- The body words of fsend (R53): EMPTY is no operand (R39). -/
def bodyCheck (x : Ctx) (w : Word) : Res Unit :=
  if wtag w = .empty then .error (tagvF x.pos 0x01 w 6)
  else if dvTag (wtag w) then .ok () else .error (tagvF x.pos 0x07 w 6)
/-- fsend (R166). -/
def semFsend : Sem := fun x a => outcome x [x.y.d.toNat] a do
  ringMax x 1
  if !fsendType (mF x 0 8) then throw (.trap (privT 0x05 (natW (mF x 0 8))))
  consume [opA x, opB x]
  bodyCheck x (opA x)
  bodyCheck x (opB x)
  if !dvPaired x.s || x.s.islReset.contains 13 then return a.put x.y.d.toNat (boolW false)
  if sendFull x.s x.c then return portWait x a .sendq
  return (a.put x.y.d.toNat (boolW true)).eff fun s => coreSend s x.c ⟨mF x 0 8, opA x, opB x⟩
/-- The words that frecv gives (R167). -/
def frecvWords (k : Core) : List Word :=
  match k.recvQ with
  | [] => [natW 0, emptyW, emptyW]
  | m :: _ => [natW m.typ, m.w0, m.w1]
/-- frecv. -/
def semFrecv : Sem := fun x a => outcome x [] a do
  if x.y.d = 0 ∨ 5 < x.y.d.toNat % 8 then throw (illF x)
  ringMax x 1
  let a : Acc := { a with writes := a.writes ++ ((List.range 3).map (x.y.d.toNat + ·)).zip (frecvWords x.k) }
  return if x.k.recvQ.isEmpty then a else a.eff fun s => coreTake s x.c

/-! ## The cipher port -/

/-- Is the cipher job of a core still running? -/
def ciphRuns (x : Ctx) : Bool := x.k.ciphBusy || jobOfCore x.s x.c
/-- The first word of a job block that the ring may not read, or not write (R168). -/
def blockDenied (x : Ctx) (b : Nat) : Option Trp :=
  match firstDenied x.s x.c x.k.ring false (groupAt b 16), firstDenied x.s x.c x.k.ring true (groupAt b 16) with
  | some p, _ => some (denyT x.s p false)
  | none, some p => some (denyT x.s p true)
  | none, none => none
/-- The operands of ciph (R168): the key, the block and the length. -/
def ciphOps (x : Ctx) : Res (Payload × Nat × Nat) := do
  consume [opA x, opB x, opD x 0]
  need x 0 isKeyref (opA x)
  need x 3 isAddrD (opB x)
  need x 7 isNat (opD x 0)
  if 65536 < pay (opD x 0) then throw (tagvF x.pos 0x02 (opD x 0) 7)
  return (BitVec.ofNat 36 (pay (opA x)), pay (opB x), pay (opD x 0))
/-- ciph with function `f`; 11 to 15 are reserved (R168, R184, R440). -/
def semCiph : Sem := fun x a => outcome x [] a do
  if 10 < mF x 0 4 then throw (illF x)
  ringMax x 2
  let (key, b, len) ← ciphOps x
  if mQT x.k.mstat && (decide (1024 < len) || !ioB x.s aCIPHCAP 2) then throw (.trap (quietT 3 (addrW b)))
  if ciphRuns x then return portWait x a .cwait
  match blockDenied x b with
  | some t => throw (.late t)
  | none =>
    if !cipherValid x.s then throw (.late (trp 0x16 (addrW b) (natW 0)))
    return a.eff fun s => ciphStart (drainOver s x.c b 16) x.c x.k.ring (mF x 0 4) len key b
/-- cwait (R169): under QUIET it ends at its resumption, 4 µs after the ciph, and raises QUIETV when the job has not. -/
def semCwait : Sem := fun x a => outcome x [] a do
  ringMax x 2
  let ended := a.put x.y.d.toNat (natW x.k.ciphSt)
  if !x.k.ciphBusy && (x.k.ciphSt == 7 || !mQT x.k.mstat || x.k.wait == .cwait) then return ended
  if x.k.wait = .cwait ∧ mQT x.k.mstat then throw (.trap (quietT 4 (natW 0)))
  return { a with lateHold := a.lateHold <|> some (.cwait, x.s) }

/-! ## Words that a PORT syllable reads from banks -/

/-- The words of a group that a PORT syllable reads (R163): BANKDENY or ECCU before anything is performed. -/
def portWords (x : Ctx) (as_ : List Nat) : Res (List Word) :=
  match firstDenied x.s x.c x.k.ring false as_ with
  | some p => .error (.late (denyT x.s p false))
  | none =>
    let s := drainOver x.s x.c (as_.headD 0) as_.length
    match as_.find? s.eccBad.contains with
    | some p => .error (.late (eccT p))
    | none => .ok (as_.map (memGet s))
/-- The reads of a group as they are performed. -/
def portReads (c : Nat) (as_ : List Nat) (s : State) : State :=
  as_.foldl eccRead (drainOver s c (as_.headD 0) as_.length)
/-- Words of a ledger payload or a completion body: POISON traps, KEYREF and SEAL are refused (R53). -/
def payloadCheck (x : Ctx) : List (Nat × Word) → Res Unit
  | [] => .ok ()
  | (p, w) :: t =>
    if wtag w = .poison then .error (.trap (consumeT w))
    else if isSecret w then .error (tagvA x.pos 0x07 w 6 (addrW p))
    else payloadCheck x t

/-! ## ledg, claim, cmpl, post -/

/-- ledg (R170). -/
def semLedg : Sem := fun x a => outcome x [x.y.d.toNat] a do
  if 16 < mF x 0 5 then throw (illF x)
  ringMax x 2
  if mF x 5 10 < 0x100 ∧ x.k.ring ≠ 0 then throw (.trap (privT 0x05 (natW (mF x 5 10))))
  consume [opA x]
  need x 3 isAddrD (opA x)
  let as_ := groupAt (pay (opA x)) (mF x 0 5)
  let ws ← portWords x as_
  payloadCheck x (as_.zip ws)
  let r := ledgCore x.s (mF x 5 10) ws x.k.ring x.c
  return (a.put x.y.d.toNat (boolW r.1)).eff fun s =>
    (ledgCore (portReads x.c as_ s) (mF x 5 10) ws x.k.ring x.c).2
/-- claim (R171, R300). -/
def semClaim : Sem := fun x a => (a.put x.y.d.toNat (natW (claimNum x.s x.c))).eff fun s => claimDo s x.c
/-- cmpl (R171, R301). -/
def semCmpl : Sem := fun x a => outcome x [] a do
  consume [opA x]
  need x 0 isNat (opA x)
  return a.eff fun s => completeDo s x.c (pay (opA x) % 1024)
/-- May the completion of ring `r` be taken now: the spool has room when it is needed (R413)? -/
def spoolTakes (s : State) (r : Nat) : Bool := s.cqOff.contains r || !cspNeeded s r || cspRoom s
/-- The outstanding entry that a completion names (R409). -/
def postEntry (s : State) (w0 : Word) : Option Entry :=
  s.entries.find? fun e => e.q == bits (pay w0) 8 8 && e.seq == bits (pay w0) 16 16 &&
    decide (e.st ≠ EntrySt.reading) && e.comp.isNone
/-- A completion posted for ring `r` (R172, R409): BOOL and the state. -/
def postDo (s : State) (r : Nat) (h w0 w2 w3 : Word) : Bool × State :=
  if bitAt (pay w0) 33 then
    if !cspNeeded s r && cqFree s r == 0 && !s.cqOff.contains r then (false, s)
    else match compOut s r false false [natW (setBits (pay w0) 32 1 0), h, w2, w3] with
      | none => (false, s)
      | some t => (true, t)
  else if sqCq s (bits (pay w0) 8 8) ≠ r then (false, s)
  else match postEntry s w0 with
    | none => (true, lateInc s r)
    | some e =>
      if !spoolTakes s r then (false, s)
      else
        let s := entryPut s e { e with st := .ready, comp := some (bits (pay w0) 0 8, h, w2, w3) }
        (true, compRelease s.entries.length s)
/-- post (R172, R409). -/
def semPost : Sem := fun x a => outcome x [x.y.d.toNat] a do
  ringMax x 1
  consume [opA x, opB x]
  need x 0 isSession (opA x)
  need x 3 isAddrD (opB x)
  let as_ := groupAt (pay (opB x)) 3
  let ws ← portWords x as_
  payloadCheck x (as_.zip ws)
  need x 6 isNat (ws.getD 0 emptyW)
  let go := fun s => postDo s (mF x 0 8) (opA x) (ws.getD 0 emptyW) (ws.getD 1 emptyW) (ws.getD 2 emptyW)
  return (a.put x.y.d.toNat (boolW (go x.s).1)).eff fun s => (go (portReads x.c as_ s)).2

end Sys2Proof.Machine
end

