-- ==== Sys2Proof/Machine/Sess.lean ====
section
/-! DEFINITION. The session directory and the hot table (R420, R421), as ctxsw and the dispatcher use them. -/

namespace Sys2Proof.Machine

/-- The directory entry of index `i`. -/
def sessOf (s : State) (i : Nat) : Session := tabGet Session.reset s.sess i
/-- The directory with entry `i` being `e`. -/
def sessPut (s : State) (i : Nat) (e : Session) : State := { s with sess := tabSet Session.reset s.sess i e }
/-- The index of a handle. -/
def handleIdx (h : Word) : Nat := bits (pay h) 0 20
/-- The generation of a handle. -/
def handleGen (h : Word) : Nat := bits (pay h) 20 12
/-- Does a handle name an index that is open, or failed, with its generation? -/
def handleNamed (s : State) (h : Word) : Bool :=
  handleIdx h != 0 && (sessOf s (handleIdx h)).opened && (sessOf s (handleIdx h)).gen == handleGen h
/-- Does a handle name an open session (R420)? -/
def handleOpen (s : State) (h : Word) : Bool := handleNamed s h && !(sessOf s (handleIdx h)).failed
/-- The first word of the hot context of index `i` in way `w` (R421). -/
def hotAddr (i w : Nat) : Nat := 0x40000 + 32 * (i % 2 ^ 14) + 8 * w
/-- The session is the one used most recently. -/
def sessTouch (s : State) (i : Nat) : State :=
  sessPut { s with sessClock := s.sessClock + 1 } i { sessOf s i with used := s.sessClock + 1 }

/-! ## ctxsw -/

/-- What ctxsw answers for handle `h` (R178). -/
def ctxswAnswer (s : State) (h : Word) : Nat :=
  if pay h = 0 then 0
  else if !handleOpen s h then 2
  else if (sessOf s (handleIdx h)).way.isNone then 1 else 0
/-- The words l0 to l7 saved into the hot context that ctx names; a context that is no longer hot keeps nothing. -/
def ctxSave (s : State) (c : Nat) : State :=
  let k := coreOf s c
  match (if pay k.ctx = 0 then none else (sessOf s (handleIdx k.ctx)).way) with
  | none => s
  | some w => memPutAll s ((List.range 8).map fun j => (hotAddr (handleIdx k.ctx) w + j, regGet k (16 + j)))
/-- The words that ctxsw loads for handle `h`. -/
def ctxWords (s : State) (h : Word) : List Word :=
  match (if pay h = 0 then none else (sessOf s (handleIdx h)).way) with
  | none => List.replicate 8 emptyW
  | some w => (List.range 8).map fun j => memGet s (hotAddr (handleIdx h) w + j)
/-- The swap of ctxsw (R178): l0 to l7 saved, the context of `h` loaded, ctx set. -/
def ctxswDo (s : State) (c : Nat) (h : Word) : State :=
  let s := ctxSave s c
  let ws := ctxWords s h
  let s := if pay h = 0 then s else sessTouch s (handleIdx h)
  modCore s c fun k =>
    { (List.range 8).foldl (fun k j => regPut k k.cur (16 + j) (ws.getD j emptyW)) k with ctx := h }

end Sys2Proof.Machine
end

