-- ==== Sys2Proof/Machine/Splice.lean ====
section
/-! DEFINITION. The start of a splice (R180, R504): its checks and what SV records. -/

namespace Sys2Proof.Machine

/-- What a request to splice core `a` onto core `b` answers (R180). A core halted by the debugger is no target (R475). -/
def spliceAnswer (s : State) (a b : Nat) : Nat :=
  if ioF s (priv b oCORESTAT) 0 3 ≠ 5 ∨ (coreOf s b).halted then 1
  else if coreState s a ≠ 0 then 2
  else if s.splice.isSome then 3
  else 0
/-- SPLSTAT while a splice of `a` onto `b` runs. -/
def splstatRun (a b : Nat) : Nat := packNat [(0, 1, 1), (1, 5, a), (6, 5, b)]
/-- An accepted splice starts: SPLSTAT, SSPLICE (R466). -/
def spliceStart (s : State) (a b : Nat) (req : Option Nat) : State :=
  let s := ioPut { s with splice := some (a, b, 0, req) } aSPLSTAT (natW (splstatRun a b))
  clusterWake (setCause s 4 true)

end Sys2Proof.Machine
end

