-- ==== Sys2Proof/Machine/Sys.lean ====
section
/-! DEFINITION. The SYS syllables (R173 to R181, R184): control registers, the control store, the predictor, ctxsw, tagset,
splice and mode. -/

namespace Sys2Proof.Machine

/-! ## Control registers -/

/-- The least privileged rings that read and write control register `n` (R174); 4 stands for no ring. -/
def crRings (n : Nat) : Nat × Nat :=
  if n = 0 ∨ n = 18 then (3, 4)
  else if n = 2 then (3, 0)
  else if 5 ≤ n ∧ n ≤ 8 then (n - 5, n - 5)
  else if n = 9 ∨ n = 10 then (1, 0)
  else if n = 16 ∨ n = 20 ∨ n = 21 then (3, 1)
  else if n = 19 then (1, 1)
  else (3, 3)
/-- What mfc of control register `n` gives. -/
def crRead (s : State) (c n : Nat) : Word :=
  let k := coreOf s c
  match n with
  | 0 => linkW k.mpc
  | 1 => natW k.mstat.toNat
  | 2 => natW k.ring
  | 3 => natW (cwpOf k)
  | 4 => k.wsp
  | 5 | 6 | 7 | 8 => tspOf k (n - 5)
  | 9 => k.vtb
  | 10 => k.gtb
  | 11 => natW k.repc
  | 12 => natW k.lcnt
  | 13 => linkW k.lbeg
  | 14 => linkW k.lend
  | 15 => bitsW k.evlat
  | 16 => bitsW (pay (ioGet s (priv c oEVMASK)))
  | 17 => natW (k.pbarN + 256 * k.pbarHold.toNat)
  | 18 => natW c
  | 19 => k.ctx
  | 20 => k.shdw0
  | _ => natW k.shdw1.toNat
/-- PRIV of a control register (R228). -/
def crPriv (n : Nat) : Flaw := .trap (privT 0x03 (natW n))
/-- mfc. -/
def semMfc : Sem := fun x a => outcome x [] a do
  let n := mF x 0 5
  if 21 < n then throw (illF x)
  if (crRings n).1 < x.k.ring then throw (crPriv n)
  return a.put x.y.d.toNat (crRead x.s x.c n)
/-- The tag that mtc of control register `n` takes; shdw0 takes any word as saved. -/
def crTag (n : Nat) (t : Tag) : Bool :=
  if n = 4 ∨ (5 ≤ n ∧ n ≤ 10) then t = .addrD
  else if n = 13 ∨ n = 14 then t = .link
  else if n = 15 ∨ n = 16 then t = .bits
  else if n = 19 then t = .session
  else if n = 20 then true
  else t = .nat
/-- mtc mstat: PSN, RSOV, C16, IE and LVL are written, CMP and QT kept (R175). -/
def mstatWrite (old : Payload) (p : Nat) : Payload := BitVec.ofNat 36 ((old.toNat &&& 0xC) ||| (p &&& 0xF1F3))
/-- Would mtc mstat change a field that the ring may not write? -/
def mstatPriv (ring : Nat) (old : Payload) (p : Nat) : Bool :=
  (decide (1 < ring) && bitAt p 8 != mIE old) || (decide (0 < ring) && bits p 12 4 != mLVL old)
/-- The core after mtc of control register `n`. -/
def crCore (n : Nat) (w : Word) (k : Core) : Core :=
  let p := pay w
  match n with
  | 1 => { k with mstat := mstatWrite k.mstat p }
  | 2 => if k.ring ≤ p then { k with ring := p } else k
  | 3 => { k with cur := bits p 0 4, live := bits p 4 5 }
  | 4 => { k with wsp := w }
  | 5 | 6 | 7 | 8 => tspPut k (n - 5) w
  | 9 => { k with vtb := w }
  | 10 => { k with gtb := w }
  | 11 => { k with repc := p, repInt := false }
  | 12 => { k with lcnt := p }
  | 13 => { k with lbeg := BitVec.ofNat 20 p }
  | 14 => { k with lend := BitVec.ofNat 20 p }
  | 15 => { k with evlat := p % 512 }
  | 17 => { k with pbarN := p % 256, pbarHold := bitAt p 8 }
  | 19 => { k with ctx := w }
  | 20 => { k with shdw0 := w }
  | 21 => { k with shdw1 := BitVec.ofNat 36 p }
  | _ => k
/-- The effect of mtc; EVMASK stands in the core's private range. -/
def crWrite (s : State) (c n : Nat) (w : Word) : State :=
  if n = 16 then hubEval (ioPut s (priv c oEVMASK) (bitsW (pay w &&& 0xFFFE))) else modCore s c (crCore n w)
/-- The value limits of mtc (R174): ring above 3, LIVE of cwp 0 or above 15. -/
def crValueBad (n p : Nat) : Bool :=
  (n == 2 && decide (3 < p)) || (n == 3 && (bits p 4 5 == 0 || decide (15 < bits p 4 5)))
/-- mtc: at retirement (R174, R175). -/
def semMtc : Sem := fun x a => outcome x [] a do
  let n := mF x 0 5
  if n = 0 ∨ n = 18 ∨ 21 < n then throw (illF x)
  if (crRings n).2 < x.k.ring then throw (crPriv n)
  consume [opA x]
  need x 0 (crTag n) (opA x)
  if crValueBad n (pay (opA x)) then throw (illF x)
  if n = 1 ∧ mstatPriv x.k.ring x.k.mstat (pay (opA x)) then throw (crPriv 1)
  return a.later fun s => crWrite s x.c n (opA x)

/-! ## The control store -/

/-- csld (R176). -/
def semCsld : Sem := fun x a => outcome x [x.y.d.toNat, x.y.d.toNat + 1] a do
  if !groupOk x 2 then throw (illF x)
  if isLink (wtag (opA x)) && lineAbsent (bits (pay (opA x)) 3 17) then throw (.trap (illop x.k.mpc x.slot 0x06))
  ringMax x 1
  let l ← linkA x
  if x.k.ring = 1 ∧ !lineWritable (lineOf l) then throw (.trap (privT 0x01 (linkW x.k.mpc)))
  let w := csRaw x.s l.toNat
  return (a.put x.y.d.toNat (bitsW w.toNat)).put (x.y.d.toNat + 1) (natW (w.toNat / 2 ^ 36))
/-- csst (R176, R218). -/
def semCsst : Sem := fun x a => outcome x [] a do
  if isLink (wtag (opA x)) && !lineWritable (bits (pay (opA x)) 3 17) then throw (illF x)
  ringMax x 0
  consume [opA x, opB x, opD x 0]
  let l ← linkA x
  need x 1 isBits (opB x)
  need x 2 isNat (opD x 0)
  if 15 < pay (opD x 0) then throw (tagvF x.pos 0x02 (opD x 0) 2)
  if mQT x.k.mstat then throw (.trap (quietT 3 (natW 0)))
  return a.later fun s => csPut s l.toNat (BitVec.ofNat 40 (pay (opD x 0) * 2 ^ 36 + pay (opB x)))
/-- QUIETV of a syllable that R184 lists. -/
def quietListed (x : Ctx) : Res Unit := if mQT x.k.mstat then .error (.trap (quietT 3 (natW 0))) else .ok ()
/-- cssync (R221): what a microword buffer holds is no state of the model (log entry 3). -/
def semCssync : Sem := fun x a => outcome x [] a do
  quietListed x
  return a

/-! ## The predictor -/

/-- pflush (R177, R201). -/
def semPflush : Sem := fun x a => outcome x [] a do
  quietListed x
  return a.later fun s => modCore s x.c fun k => { k with pred := Pred.reset }
/-- pbar n (R177). -/
def semPbar : Sem := fun x a => a.later fun s => modCore s x.c fun k =>
  if mF x 0 8 = 0 then { k with pbarHold := true } else { k with pbarN := mF x 0 8 }
/-- pbar with M[8] = 1. -/
def semPbarClear : Sem := fun x a => a.later fun s => modCore s x.c fun k => { k with pbarN := 0, pbarHold := false }

/-! ## ctxsw, tagset, splice, mode -/

/-- ctxsw (R178). -/
def semCtxsw : Sem := fun x a => outcome x [x.y.d.toNat] a do
  if 16 ≤ x.y.d.toNat ∧ x.y.d.toNat < 24 then throw (illF x)
  ringMax x 1
  consume [opA x]
  need x 0 isSession (opA x)
  let r := ctxswAnswer x.s (opA x)
  let a := a.put x.y.d.toNat (natW r)
  return if r = 0 then a.later fun s => ctxswDo s x.c (opA x) else a
/-- tagset (R47, R179). -/
def semTagset : Sem := fun x a => outcome x [x.y.d.toNat] a do
  ringMax x 0
  if wtag (opA x) = .empty then throw (tagvF x.pos 0x01 (opA x) 0)
  let t := tagOfCode (mF x 0 4)
  if !tagLimit t (pay (opA x)) then throw (tagvF x.pos 0x04 (opA x) 0)
  return a.put x.y.d.toNat (mkW t (pay (opA x)))
/-- A core number (R180). -/
def coreOperand (x : Ctx) (role : Nat) (w : Word) : Res Nat := do
  need x role isNat w
  if 31 < pay w then throw (tagvF x.pos 0x02 w role)
  return pay w
/-- splice (R180). -/
def semSplice : Sem := fun x a => outcome x [x.y.d.toNat] a do
  ringMax x 0
  consume [opA x, opB x]
  let m ← coreOperand x 0 (opA x)
  let n ← coreOperand x 1 (opB x)
  if bitAt (effQuiet x.s) x.c then throw (.trap (quietT 5 (natW 0)))
  let r := spliceAnswer x.s m n
  let a := a.put x.y.d.toNat (natW r)
  return if r = 0 then a.later fun s => spliceStart s m n (some x.c) else a
/-- The bits that the mode syllable may change: C, Q, E, T, I, D, and A to 1 (R464). -/
def modeMask (v m : Nat) : Nat := m &&& (0x5F + (if bitAt v 7 then 0x80 else 0))
/-- mode (R181). -/
def semMode : Sem := fun x a => outcome x [x.y.d.toNat] a do
  ringMax x 0
  consume [opA x]
  need x 0 isNat (opA x)
  let v := pay (opA x) % 256
  let m := modeMask v (mF x 0 8)
  return (a.put x.y.d.toNat (natW (modeNow (modeRequestDo x.s v m)))).later fun s => modeRequestDo s v m

end Sys2Proof.Machine
end

