-- ==== Sys2Proof/WellFormed.lean ====
section
/-! DEFINITION. Which commands can be sent: the bits of a syllable that choose between rows of one OP must be those of
its row, byte lists must have the sizes of their frames, and CIPHER_DONE names a core's job (the ends of jobs 32 and 33
are SEAL_DONE and DEBUG_VERIFY_DONE) with a status that R441 lists. Everything else is the meaning's own concern. -/

namespace Sys2Proof

/-- Bits [lo + w - 1 : lo] of a syllable's M. -/
def Syl.mf (y : Syl) (lo w : Nat) : Nat := y.m.toNat / 2 ^ lo % 2 ^ w

/-- The row of a cipher syllable: M[3:0] is its function; the reserved functions 11 to 15 stand with the first row. -/
def Syl.ciphRow (y : Syl) (f : Nat) : Bool := y.mf 0 4 == f || (f == 0 && decide (10 < y.mf 0 4))

/-- A chunk of a PORT frame: 1 to 10 bytes (R385). -/
def chunkOk (b : List Byte) : Bool := decide (0 < b.length) && decide (b.length ≤ 10)

/-- Can the command be sent? -/
def Instr.wellFormed : Instr → Bool
  | .sevCores _ y => y.mf 12 3 == 0 || decide (3 < y.mf 12 3)
  | .sevHubSource _ y => y.mf 12 3 == 1
  | .sevJigGroup _ y => y.mf 12 3 == 2
  | .sevFieldTrigger _ y => y.mf 12 3 == 3
  | .pin _ y => y.mf 8 1 == 0
  | .unpin _ y => y.mf 8 1 == 1
  | .pbar _ y => y.mf 8 1 == 0
  | .pbarClear _ y => y.mf 8 1 == 1
  | .ciphKeyWrap _ y => y.ciphRow 0
  | .ciphKeyUnwrap _ y => y.ciphRow 1
  | .ciphCbcEncrypt _ y => y.ciphRow 2
  | .ciphCbcDecrypt _ y => y.ciphRow 3
  | .ciphCtr _ y => y.ciphRow 4
  | .ciphGcmEncrypt _ y => y.ciphRow 5
  | .ciphGcmDecrypt _ y => y.ciphRow 6
  | .ciphCcmEncrypt _ y => y.ciphRow 7
  | .ciphCcmDecrypt _ y => y.ciphRow 8
  | .ciphCmacGenerate _ y => y.ciphRow 9
  | .ciphCmacVerify _ y => y.ciphRow 10
  | .cipherDone j v => decide (j.val < 32) && decide (v.toNat ≤ 5)
  | .fetchComplete _ es => es.all fun e => e.length == 8
  | .portTxFirst _ b => chunkOk b
  | .portTxLater _ b => chunkOk b
  | .portRxFirst _ b => chunkOk b
  | .portRxLater _ b => chunkOk b
  | _ => true

end Sys2Proof
end

