-- ==== Sys2Proof/Machine/Microword.lean ====
section
/-! DEFINITION. A microword (R66 to R73, R80, R83, R94 to R98, R189): its syllables are gathered until the stop bit, then
it is checked as a whole, its syllables are evaluated against the state before it, and it faults, waits or retires. -/

namespace Sys2Proof.Machine

/-- The meaning of a syllable; an event has none. -/
def semOf (i : Instr) : Sem :=
  match i with
  | .nop .. => semNop
  | .br .. => semBr
  | .bt .. => semBt
  | .bf .. => semBf
  | .bz .. => semBz
  | .bnz .. => semBnz
  | .brc .. => semBrc
  | .callS .. => semCall
  | .callw .. => semCallw
  | .ret .. => semRet
  | .retw .. => semRetw
  | .jr .. => semJr
  | .callr .. => semCallr
  | .repS .. => semRep
  | .repi .. => semRepi
  | .loopS .. => semLoop
  | .wfe .. => semWfe
  | .sevCores .. => semSevCores
  | .sevHubSource .. => semSevHub
  | .sevJigGroup .. => semSevJig
  | .sevFieldTrigger .. => semSevTrig
  | .waitt .. => semWaitt
  | .gate .. => semGate
  | .gret .. => semGret
  | .tret .. => semTret
  | .trap .. => semTrap
  | .tfence .. => semTfence
  | .park .. => semPark
  | .addS .. => semWord resAdd
  | .subS .. => semWord resSub
  | .addcy .. => semWord resAddcy
  | .subby .. => semWord resSubby
  | .andS .. => semWord resAnd
  | .orS .. => semWord resOr
  | .xorS .. => semWord resXor
  | .andn .. => semWord resAndn
  | .notS .. => semWord resNot
  | .movS .. => semWord resMov
  | .movi .. => semWord resMovi
  | .cmpeq .. => semWord resCmpeq
  | .cmpne .. => semWord resCmpne
  | .cmplt .. => semWord resCmplt
  | .cmple .. => semWord resCmple
  | .cmpltu .. => semWord resCmpltu
  | .cmpleu .. => semWord resCmpleu
  | .minS .. => semWord resMin
  | .maxS .. => semWord resMax
  | .minu .. => semWord resMinu
  | .maxu .. => semWord resMaxu
  | .absS .. => semWord resAbs
  | .negS .. => semWord resNeg
  | .sel .. => semWord resSel
  | .addsat .. => semWord resAddsat
  | .subsat .. => semWord resSubsat
  | .tagof .. => semWord resTagof
  | .retag .. => semWord resRetag
  | .tagchk .. => semTagchk
  | .shlS .. => semWord resShl
  | .shr .. => semWord resShr
  | .sar .. => semWord resSar
  | .rol .. => semWord resRol
  | .ror .. => semWord resRor
  | .extF .. => semWord resExt
  | .insF .. => semWord resIns
  | .popc .. => semWord resPopc
  | .clz .. => semWord resClz
  | .ctz .. => semWord resCtz
  | .brev .. => semWord resBrev
  | .sext .. => semWord resSext
  | .pack16 .. => semWord resPack16
  | .unpk16 .. => semWord resUnpk16
  | .mulS .. => semLng 0 1 resMul
  | .mulh .. => semLng 1 1 resMulh
  | .mulw .. => semLng 2 2 resMulw
  | .mac .. => semLng 3 2 resMac
  | .divS .. => semLng 4 1 resDiv
  | .divu .. => semLng 5 1 resDivu
  | .rem .. => semLng 6 1 resRem
  | .remu .. => semLng 7 1 resRemu
  | .crc .. => semLng 8 1 resCrc
  | .crcfin .. => semLng 9 1 resCrcfin
  | .sqrtu .. => semLng 10 1 resSqrtu
  | .ld .. => semLoad 1
  | .st .. => semStore 1 false
  | .ld2 .. => semLoad 2
  | .st2 .. => semStore 2 false
  | .ld4 .. => semLoad 4
  | .st4 .. => semStore 4 false
  | .ldAcq .. => semLoad 1
  | .stRel .. => semStore 1 true
  | .swap .. => semSwap
  | .cas .. => semCas
  | .fadd .. => semFadd
  | .fenceLl .. => semFenceLl
  | .fenceSs .. => semFenceSs
  | .fenceFull .. => semFenceFull
  | .fenceIo .. => semFenceIo
  | .movb .. => semMovb
  | .pin .. => semPin
  | .unpin .. => semUnpin
  | .lease .. => semLease
  | .inIo .. => semIn
  | .outIo .. => semOut
  | .fsend .. => semFsend
  | .frecv .. => semFrecv
  | .ciphKeyWrap .. => semCiph
  | .ciphKeyUnwrap .. => semCiph
  | .ciphCbcEncrypt .. => semCiph
  | .ciphCbcDecrypt .. => semCiph
  | .ciphCtr .. => semCiph
  | .ciphGcmEncrypt .. => semCiph
  | .ciphGcmDecrypt .. => semCiph
  | .ciphCcmEncrypt .. => semCiph
  | .ciphCcmDecrypt .. => semCiph
  | .ciphCmacGenerate .. => semCiph
  | .ciphCmacVerify .. => semCiph
  | .cwait .. => semCwait
  | .ledg .. => semLedg
  | .claim .. => semClaim
  | .cmpl .. => semCmpl
  | .postS .. => semPost
  | .mfc .. => semMfc
  | .mtc .. => semMtc
  | .csld .. => semCsld
  | .csst .. => semCsst
  | .cssync .. => semCssync
  | .pflush .. => semPflush
  | .pbar .. => semPbar
  | .pbarClear .. => semPbarClear
  | .ctxsw .. => semCtxsw
  | .tagset .. => semTagset
  | .splice .. => semSplice
  | .modeS .. => semMode
  | _ => fun _ a => a

/-! ## The syllables of a microword -/

/-- A syllable of a microword: its command, its shape, its fields and its slot in the line. -/
structure Placed where
  i    : Instr
  h    : Shape
  y    : Syl
  slot : Nat

/-- The syllables with their slots, the first at slot `n`; an EXT takes the slot before its syllable (R70). -/
def placed : Nat → List Instr → List Placed
  | _, [] => []
  | n, i :: t =>
    match sylOf i with
    | none => placed n t
    | some (h, y) => ⟨i, h, y, n + slotsOf y - 1⟩ :: placed (n + slotsOf y) t
/-- The syllables that core `k` has gathered. -/
def wordOf (k : Core) : List Placed := placed (k.mpc.toNat % 8) k.mw
/-- The registers that the microword reads. -/
def wordReads (k : Core) : List Nat := (wordOf k).flatMap fun p => readsOf p.h p.y
/-- What a syllable of a microword is executed with. -/
def ctxOf (s : State) (c : Nat) (lngTo : Bool) (p : Placed) : Ctx := ⟨s, c, coreOf s c, p.slot, p.y, lngTo⟩

/-! ## Checks of the microword as a whole -/

/-- What makes a microword malformed, the lowest slot first: EXT misuse (R70, R113), bits beyond a far target (R81), a
syllable of a class beyond its number (R69), a register that an earlier syllable writes too (R71). `cls` and `dst` are the
classes and destinations of the syllables before. -/
def wordFlaw : List Placed → List Nat → List Nat → Option (Nat × Nat)
  | [], _, _ => none
  | p :: t, cls, dst =>
    if extMisuse p.h p.y then some (0x03, p.slot)
    else if extFar p.h p.y then some (0x0B, p.slot)
    else if classMax p.h.cls ≤ (cls.filter (· == p.h.cls)).length then some (0x02, p.slot)
    else if (destsOf p.h p.y).any dst.contains then some (0x05, p.slot)
    else wordFlaw t (p.h.cls :: cls) (destsOf p.h p.y ++ dst)
/-- Is the microword repeated or at the end of the armed loop (R98)? -/
def noSeq (k : Core) : Bool := decide (0 < k.repc) || (k.mpc == k.lend && decide (0 < k.lcnt))
/-- ILLOP of the microword as a whole: its subcode and slot (R68 to R74, R98). -/
def wholeIllop (k : Core) : Option (Nat × Nat) :=
  let w := wordOf k
  let first := k.mpc.toNat % 8
  if lineAbsent (lineOf k.mpc) then some (0x06, first)
  else match wordFlaw w [] [] with
    | some f => some f
    | none =>
      if 8 < first + k.slots ∨ !(w.getLast?.map fun p => p.y.stop).getD false then some (0x04, first)
      else if noSeq k then (w.find? fun p => p.h.cls == 0 && p.h.op != 0).map fun p => (0x07, p.slot)
      else none
/-- Is QUIETV due because the cluster clock was lowered (R215, R536)? -/
def quietDue (k : Core) : Bool := mQT k.mstat && k.pend.contains .quietv
/-- The fault of the microword as a whole (R229 order 8), then QUIETV of an unpinned line and PRIV of its own line. -/
def wholeFault (s : State) (c : Nat) : Option Trp :=
  let k := coreOf s c
  let l := lineOf k.mpc
  if s.csBad.contains (redirectOf s l) then some (trp 0x11 (linkW (BitVec.ofNat 20 (8 * l))) (natW 0))
  else match wholeIllop k with
    | some (sub, slot) => some (illop k.mpc slot sub)
    | none =>
      if quietDue k then some (quietT 7 (natW 0))
      else if mQT k.mstat && !k.pinned.contains l then some (quietT 1 (linkW k.mpc))
      else if innerLine s k.ring k.mpc then some (privT 0x02 (linkW k.mpc))
      else none
/-- A fetch from a line with an error is counted (R75). -/
def csNote (s : State) (l : Nat) : State :=
  if s.csBad.contains l then ioInc s aCSECC 16 8 else if s.csSoft.contains l then ioInc s aCSECC 0 16 else s

/-! ## Evaluation -/

/-- What the syllables of the microword of core `c` gather, every one from the state before it (R71). -/
def evalWord (s : State) (c : Nat) (lngTo : Bool) : Acc :=
  (wordOf (coreOf s c)).foldl (fun a p =>
    if unnamed p.h p.y then a.addFault (illop (coreOf s c).mpc p.slot 0x01)
    else semOf p.i (ctxOf s c lngTo p) a) (Acc.start s)
/-- Does the microword hold a transfer that goes where its frame or descriptor says? -/
def serialXfer (w : List Placed) : Bool := w.any fun p => p.h.cls == 0 && (p.h.op == 19 || p.h.op == 20 || p.h.op == 21)
/-- Where a microword that does not transfer goes on: the loop-back of R96 or its sequential successor. -/
def flowPlace (k : Core) : Link :=
  if k.mpc = k.lend ∧ 1 < k.lcnt then k.lbeg else linkAdd k.mpc k.slots
/-- PRIV of a microword whose successor lies in a more privileged line (R119). -/
def succPriv (s : State) (k : Core) (a : Acc) : Option Trp :=
  let n := skipPad s (flowPlace k)
  if (a.xfer.isNone || mCMP k.mstat) && k.delay.isNone && decide (k.repc ≤ 1) && !serialXfer (wordOf k) && innerLine s k.ring n
  then some (privT 0x02 (linkW n)) else none

/-! ## Retirement -/

/-- The load shadows after one more microword has retired, and the words of those that end (R189). -/
def shadowStep (l : List Shadow) : List Shadow × List Shadow :=
  let l := l.map fun e => { e with left := e.left - 1 }
  (l.filter fun e => decide (0 < e.left), l.filter fun e => e.left == 0)
/-- The loads of a microword open their shadows; a load of g0 is discarded. -/
def shadowNew (cur : Nat) (l : List (Nat × Word)) : List Shadow :=
  (l.filter fun p => decide (0 < p.1)).map fun p => ⟨regIdx cur p.1, BitVec.ofNat 5 p.1, p.2, 2⟩
/-- The registers of a core after its microword has retired (R71, R189, R192): its results, then the loaded words whose
shadow ends. -/
def retireRegs (cur : Nat) (a : Acc) (k : Core) : Core :=
  let k := a.writes.foldl (fun k p => regPut k cur p.1 p.2) k
  let (open_, ended) := shadowStep k.shadow
  let k := ended.foldl (fun k e => regPutIdx k e.reg e.word) k
  { k with
    shadow := open_ ++ shadowNew cur a.loads
    rearm := k.rearm.bind fun e => if e.left ≤ 1 then none else some { e with left := e.left - 1 } }
/-- The microword is over. -/
def wordClear (k : Core) : Core :=
  { k with mw := [], slots := 0, wait := .none, lngDone := false, paced := false, hostAcc := none, movb := none }
/-- Where a core goes on, without the transfer of the microword (R80, R94 to R98): a repetition, else its delay target,
its loop-back or its successor; then what loop and rep set. -/
def retireFlow (s : State) (a : Acc) (k : Core) : Core :=
  if 1 < k.repc then { k with repc := k.repc - 1 }
  else
    let flow := k.delay.getD (flowPlace k)
    let k1 := { k with
      repc := 0
      repInt := false
      lcnt := if k.mpc = k.lend then k.lcnt - 1 else k.lcnt
      delay := none
      mpc := flow }
    let k1 := match a.loop with
      | none => k1
      | some (b, t, n) => { k1 with
          lbeg := b
          lend := t
          lcnt := n
          mpc := if n = 0 ∧ k.delay.isNone then afterWord s t else flow }
    match a.rep with
    | none => k1
    | some (n, int) => { k1 with repc := n, repInt := int, mpc := if n = 0 then afterWord s flow else flow }
/-- The transfer of the microword: at once, or after its delay slot under COMPAT (R83). -/
def retireXfer (a : Acc) (cmp : Bool) (k : Core) : Core :=
  match a.xfer with
  | none => k
  | some t => if cmp then { k with delay := some t } else { k with mpc := t }
/-- Is prediction barred (R177, R202)? -/
def predBarred (k : Core) : Bool := decide (0 < k.pbarN) || k.pbarHold || mQT k.mstat
/-- The predictor learns the branch, and pbar's count goes down (R177, R200). -/
def retirePred (a : Acc) (k : Core) : Core :=
  let k1 := match a.branch with
    | none => k
    | some (place, taken) => if predBarred k then k else { k with pred := predUpdate place taken k.pred }
  { k1 with pbarN := k.pbarN - 1 }

/-! ### Performance counters -/

/-- Does performance counter `n` of core `c` count event `evt` in `ring` (R223)? -/
def pmSelects (s : State) (c ring evt n : Nat) : Bool :=
  ioF s (priv c (oPMSEL n)) 0 4 == evt && ioB s (priv c (oPMSEL n)) 4 && bitAt (ioF s (priv c (oPMSEL n)) 5 4) ring
/-- `v` events `evt` counted. -/
def pmAdd (c ring evt v : Nat) (s : State) : State :=
  ((List.range 4).filter (pmSelects s c ring evt)).foldl (fun s n =>
    ioPut s (priv c (oPMCNT n)) (natW (satAt (2 ^ 36 - 1) (pay (ioGet s (priv c (oPMCNT n))) + v)))) s
/-- An event whose occurrence the manual leaves to the microarchitecture: a free bit, where a counter selects it. -/
def pmFree (c ring evt : Nat) (s : State) : State :=
  if (List.range 4).any (pmSelects s c ring evt) then bump (pmAdd c ring evt (freeVal s % 2) s) else s
/-- How many words a load syllable loads. -/
def loadWords : Instr → Nat
  | .ld .. => 1
  | .ldAcq .. => 1
  | .ld2 .. => 2
  | .ld4 .. => 4
  | _ => 0
/-- Did a load wait on a partial overlap (R197)? -/
def waitedOverlap (x : Ctx) (n : Nat) : Bool :=
  match memAddr x with
  | .error _ => false
  | .ok b => (x.k.storeBuf.any fun e => e.words.any fun p => (groupAt b n).contains p.1) && (forwarded x.k (groupAt b n)).isNone
/-- The transfers that a delay slot ignores and that count as not-taken branches (R83). -/
def slotIgnored (k : Core) (w : List Placed) : Nat :=
  if k.delay.isSome then (w.filter fun p => p.h.cls == 0 && [1, 7, 8, 9, 10, 11, 12, 19, 20, 21].contains p.h.op).length else 0
/-- The events of a retired microword (R223): `s0` is the state before it. -/
def pmWord (s0 : State) (c : Nat) (a : Acc) (s : State) : State :=
  let k := coreOf s0 c
  let w := wordOf k
  let g := pmAdd c k.ring
  let wrong := match a.branch with
    | none => false
    | some (place, taken) => !predBarred k && predicted place k.pred != taken
  let s := g 2 (a.branch.isSome.toNat + slotIgnored k w) (g 1 w.length (g 0 1 s))
  let s := g 5 ((wordReads k).filter fun d => (shadowAt k d).isSome).length (g 3 wrong.toNat s)
  let s := g 6 (w.filter fun p => waitedOverlap (ctxOf s0 c false p) (loadWords p.i) && decide (0 < loadWords p.i)).length s
  let s := pmFree c k.ring 4 s
  if mQT k.mstat then pmFree c k.ring 7 s else s

/-! ### The whole -/

/-- A retirement restarts the watchdog's count (R494); STAGE2 stays while WDOG is pending. -/
def wdogRestart (s : State) (c : Nat) : State :=
  let a := priv c oWDOGSTAT
  if pay (ioGet s a) = 0 then s
  else ioPut s a (natW (if (coreOf s c).pend.contains .wdog then 0x4000 else 0))
/-- What debug sees of a retirement: its place, and the end of a single step (R227, R528). -/
def retireDebug (old : Link) (k : Core) : Core :=
  if k.stepReq then { k with last := old, stepReq := false, haltReq := true, pend := k.pend ++ [.step] }
  else { k with last := old }

/-- The microword of core `c` retires with what it has gathered from `s0` (R186). -/
def retireWord (s0 : State) (c : Nat) (a : Acc) : State :=
  let k := coreOf s0 c
  let s := modCore a.st c fun k1 =>
    retireDebug k.mpc <| wordClear <| retirePred a (retireXfer a (mCMP k.mstat) (retireFlow s0 a (retireRegs k.cur a k1)))
  let s := pmWord s0 c a (modCore (a.after (wdogRestart s c)) c modeApply)
  match a.trapN with
  | none => s
  | some t => takeTrap s c t (coreOf s c).mpc (afterWord s (coreOf s c).mpc) false (wordReads k) none

/-- The microword at the boundary before it takes trap `t` (R234). -/
def wordTrap (s : State) (c : Nat) (t : Trp) : State :=
  let k := coreOf s c
  match k.delay with
  | some d => takeTrap s c t k.mpc d true (wordReads k) none
  | none => takeTrap s c t k.mpc (linkAdd k.mpc k.slots) false (wordReads k) none
/-- An access that fails with an uncorrectable word has read it (R258). -/
def lateRead (t : Trp) (s : State) : State := if t.cause = 0x10 then eccRead s (pay t.addr) else s
/-- Core `c` waits. -/
def wordWait (s : State) (c : Nat) (w : Wait) : State := modCore s c fun k => { k with wait := w }

/-- A gathered microword: its fault in slot order, its wait, PRIV of its successor, what its PORT access answers, or its
retirement. -/
def wordEnd (s : State) (c : Nat) (a : Acc) : State :=
  match a.fault with
  | some t => wordTrap (a.faultSt s) c t
  | none =>
    match a.hold with
    | some (w, s') => wordWait s' c w
    | none =>
      match succPriv s (coreOf s c) a with
      | some t => wordTrap s c t
      | none =>
        match a.late with
        | some t => wordTrap (lateRead t s) c t
        | none =>
          match a.lateHold with
          | some (w, s') => wordWait s' c w
          | none => retireWord s c a

/-- The microword of core `c` runs, or runs again after a wait. -/
def runWord (s : State) (c : Nat) (lngTo : Bool) : State :=
  let s := if (coreOf s c).wait = .none then csNote s (redirectOf s (lineOf (coreOf s c).mpc)) else s
  match wholeFault s c with
  | some t =>
    if t = quietT 7 (natW 0) then wordTrap (modCore s c fun k => { k with pend := k.pend.erase .quietv }) c t
    else wordTrap s c t
  | none => wordEnd s c (evalWord s c lngTo)

/-! ## Issue -/

/-- Can core `c` execute a microword: running, powered, not halted and not stopped for a splice? -/
def coreRuns (s : State) (c : Nat) : Bool :=
  coreState s c == 0 && s.alive && !s.clOff.contains (c / 4) && !s.islReset.contains (c / 4) &&
  !(coreOf s c).halted && !spliceStopped s c
/-- The LNG unit delivers, and the microword that waits for it goes on (R139). -/
def lngDeliver (s : State) (c : Nat) : State :=
  runWord (modCore s c fun k => { k with lngDone := true }) c false
/-- A line pad (R72) at the start of a microword. -/
def isPad (k : Core) (i : Instr) : Bool :=
  k.mw.isEmpty && !lineAbsent (lineOf k.mpc) && match i with
  | .nop _ y => y == { stop := true, ext := none, d := 0, a := 0, b := 0, m := 0x7FFF }
  | _ => false
/-- The core after syllable `i` has joined its microword. -/
def gather (i : Instr) (y : Syl) (k : Core) : Core := { k with mw := k.mw ++ [i], slots := k.slots + slotsOf y }
/-- Is the microword complete: a stop bit, or no slot left in its line (R68)? -/
def wordFull (k : Core) (y : Syl) : Bool := y.stop || decide (8 ≤ k.mpc.toNat % 8 + k.slots)
/-- Core `c`, which can issue, takes syllable `i` at its mpc. -/
def issueTake (s : State) (c : Nat) (i : Instr) (y : Syl) : State :=
  if isPad (coreOf s c) i then
    modCore s c fun k => { k with mpc := BitVec.ofNat 20 (8 * (lineOf k.mpc + 1)) }
  else
    let s := modCore s c (gather i y)
    let k := coreOf s c
    if !wordFull k y then s
    else if mQT k.mstat && !k.paced then wordWait s c .quiet
    else runWord s c false
/-- May a debug halt stop core `c` here: a boundary that R230 permits, in a line of ring 1 to 3; under QUIET at a tfence,
wfe or waitt (R528)? -/
def haltPlace (s : State) (c : Nat) : Bool :=
  let k := coreOf s c
  k.shadow.isEmpty && k.rearm.isNone && k.delay.isNone && (k.repc == 0 || k.repInt) && !lineAbsent (lineOf k.mpc) &&
  decide (0 < lineRing s (lineOf k.mpc))
/-- A syllable arrives at core `c` (R186): a core that cannot execute, or that waits, takes none, nor does one that a
requested halt stops here. -/
def issueState (s0 : State) (c : Nat) (i : Instr) (y : Syl) : State :=
  let s := if (coreOf s0 c).wait = .lng ∧ coreRuns s0 c then lngDeliver s0 c else s0
  let k := coreOf s c
  if coreRuns s c && decide (k.wait = .none) && !(k.haltReq && k.mw.isEmpty && !mQT k.mstat && haltPlace s c) then
    issueTake s c i y else s
/-- The meaning that every syllable row shares. -/
def issue (i : Instr) (c : CoreId) (y : Syl) (s : State) : Host.Outcome State Fault Refusal :=
  if i.wellFormed then .next (issueState s c.val i y) else .fault .illFormed

end Sys2Proof.Machine
end

