-- ==== Sys2Proof/Machine/AluRows.lean ====
section
/-! DEFINITION. The commands of class ALU: a core executes the syllable at its mpc (`issue`; the syllable itself is
`semOf`). -/

namespace Sys2Proof.Machine

/-- ADD (R40). -/
def execAddS (c : CoreId) (y : Syl) (s : State) : Host.Outcome State Fault Refusal :=
  issue (.addS c y) c y s
/-- SUB (R40). -/
def execSubS (c : CoreId) (y : Syl) (s : State) : Host.Outcome State Fault Refusal :=
  issue (.subS c y) c y s
/-- ADDCY (R127). -/
def execAddcy (c : CoreId) (y : Syl) (s : State) : Host.Outcome State Fault Refusal :=
  issue (.addcy c y) c y s
/-- SUBBY (R127). -/
def execSubby (c : CoreId) (y : Syl) (s : State) : Host.Outcome State Fault Refusal :=
  issue (.subby c y) c y s
/-- AND (R128). -/
def execAndS (c : CoreId) (y : Syl) (s : State) : Host.Outcome State Fault Refusal :=
  issue (.andS c y) c y s
/-- OR (R128). -/
def execOrS (c : CoreId) (y : Syl) (s : State) : Host.Outcome State Fault Refusal :=
  issue (.orS c y) c y s
/-- XOR (R128). -/
def execXorS (c : CoreId) (y : Syl) (s : State) : Host.Outcome State Fault Refusal :=
  issue (.xorS c y) c y s
/-- ANDN (R128). -/
def execAndn (c : CoreId) (y : Syl) (s : State) : Host.Outcome State Fault Refusal :=
  issue (.andn c y) c y s
/-- NOT (R128). -/
def execNotS (c : CoreId) (y : Syl) (s : State) : Host.Outcome State Fault Refusal :=
  issue (.notS c y) c y s
/-- MOV (R39). -/
def execMovS (c : CoreId) (y : Syl) (s : State) : Host.Outcome State Fault Refusal :=
  issue (.movS c y) c y s
/-- MOVI (R62). -/
def execMovi (c : CoreId) (y : Syl) (s : State) : Host.Outcome State Fault Refusal :=
  issue (.movi c y) c y s
/-- CMPEQ (R126). -/
def execCmpeq (c : CoreId) (y : Syl) (s : State) : Host.Outcome State Fault Refusal :=
  issue (.cmpeq c y) c y s
/-- CMPNE (R126). -/
def execCmpne (c : CoreId) (y : Syl) (s : State) : Host.Outcome State Fault Refusal :=
  issue (.cmpne c y) c y s
/-- CMPLT (R129). -/
def execCmplt (c : CoreId) (y : Syl) (s : State) : Host.Outcome State Fault Refusal :=
  issue (.cmplt c y) c y s
/-- CMPLE (R129). -/
def execCmple (c : CoreId) (y : Syl) (s : State) : Host.Outcome State Fault Refusal :=
  issue (.cmple c y) c y s
/-- CMPLTU (R129). -/
def execCmpltu (c : CoreId) (y : Syl) (s : State) : Host.Outcome State Fault Refusal :=
  issue (.cmpltu c y) c y s
/-- CMPLEU (R129). -/
def execCmpleu (c : CoreId) (y : Syl) (s : State) : Host.Outcome State Fault Refusal :=
  issue (.cmpleu c y) c y s
/-- MIN (R130). -/
def execMinS (c : CoreId) (y : Syl) (s : State) : Host.Outcome State Fault Refusal :=
  issue (.minS c y) c y s
/-- MAX (R130). -/
def execMaxS (c : CoreId) (y : Syl) (s : State) : Host.Outcome State Fault Refusal :=
  issue (.maxS c y) c y s
/-- MINU (R130). -/
def execMinu (c : CoreId) (y : Syl) (s : State) : Host.Outcome State Fault Refusal :=
  issue (.minu c y) c y s
/-- MAXU (R130). -/
def execMaxu (c : CoreId) (y : Syl) (s : State) : Host.Outcome State Fault Refusal :=
  issue (.maxu c y) c y s
/-- ABS (R131). -/
def execAbsS (c : CoreId) (y : Syl) (s : State) : Host.Outcome State Fault Refusal :=
  issue (.absS c y) c y s
/-- NEG (R131). -/
def execNegS (c : CoreId) (y : Syl) (s : State) : Host.Outcome State Fault Refusal :=
  issue (.negS c y) c y s
/-- SEL (R132). -/
def execSel (c : CoreId) (y : Syl) (s : State) : Host.Outcome State Fault Refusal :=
  issue (.sel c y) c y s
/-- ADDSAT (R41). -/
def execAddsat (c : CoreId) (y : Syl) (s : State) : Host.Outcome State Fault Refusal :=
  issue (.addsat c y) c y s
/-- SUBSAT (R41). -/
def execSubsat (c : CoreId) (y : Syl) (s : State) : Host.Outcome State Fault Refusal :=
  issue (.subsat c y) c y s
/-- TAGOF (R133). -/
def execTagof (c : CoreId) (y : Syl) (s : State) : Host.Outcome State Fault Refusal :=
  issue (.tagof c y) c y s
/-- RETAG (R46). -/
def execRetag (c : CoreId) (y : Syl) (s : State) : Host.Outcome State Fault Refusal :=
  issue (.retag c y) c y s
/-- TAGCHK (R48). -/
def execTagchk (c : CoreId) (y : Syl) (s : State) : Host.Outcome State Fault Refusal :=
  issue (.tagchk c y) c y s

end Sys2Proof.Machine
end

