-- ==== Sys2Proof/Machine/Async.lean ====
section
/-! DEFINITION. Events at a core's microword: the ends of its waits, asynchronous traps (R229, R230), host-window parts
(R284 to R286, R444, R445), buffered stores (R196), the watchdog (R494, R495). -/

namespace Sys2Proof.Machine

/-! ## The ends of waits -/

/-- The microword of core `c` runs again if it waits for `w` and the core can execute. -/
def resumeWait (s : State) (c : Nat) (w : Wait) (lngTo : Bool) : State :=
  if coreRuns s c ∧ (coreOf s c).wait = w then runWord s c lngTo else s
/-- LNG_RESULT (R139): the microword that waits for the LNG unit goes on. -/
def execLngResult (c : CoreId) (s : State) : Host.Outcome State Fault Refusal :=
  .next (if coreRuns s c.val ∧ (coreOf s c.val).wait = .lng then lngDeliver s c.val else s)
/-- LNGTO (R145). -/
def execLngto (c : CoreId) (s : State) : Host.Outcome State Fault Refusal := .next (resumeWait s c.val .lng true)
/-- WFE_RESUME (R100): a stalled wfe goes on once evlat[0] is set. -/
def execWfeResume (c : CoreId) (s : State) : Host.Outcome State Fault Refusal := .next (resumeWait s c.val .wfe false)
/-- WAITT_RESUME (R102): a stalled waitt goes on once its unit has fired. -/
def execWaittResume (c : CoreId) (s : State) : Host.Outcome State Fault Refusal :=
  .next (resumeWait s c.val .waitt false)
/-- CWAIT_RESUME (R169): a stalled cwait goes on once its job has ended. -/
def execCwaitResume (c : CoreId) (s : State) : Host.Outcome State Fault Refusal :=
  .next (resumeWait s c.val .cwait false)
/-- PACED_ISSUE (R212): a microword that QUIET holds back issues at its model cycle. -/
def execPacedIssue (c : CoreId) (s : State) : Host.Outcome State Fault Refusal :=
  .next (if coreRuns s c.val ∧ (coreOf s c.val).wait = .quiet then
    runWord (modCore s c.val fun k => { k with wait := .none, paced := true }) c.val false else s)
/-- The address that IOTO of a stalled access records: that of an out, NAT:0 for fsend (R227). -/
def stallAddr (s : State) (c : Nat) : Word :=
  match (wordOf (coreOf s c)).find? fun p => p.h.cls == 5 && p.h.op == 1 with
  | none => natW 0
  | some p => match portAddr (ctxOf s c false p) with
    | .ok a => addrIOW a
    | .error _ => natW 0
/-- IOTO (R165, R166): a send queue has stayed full for 256 cycles. -/
def execIoto (c : CoreId) (s : State) : Host.Outcome State Fault Refusal :=
  .next (if coreRuns s c.val ∧ (coreOf s c.val).wait = .sendq then
    wordTrap s c.val (trp 0x06 (stallAddr s c.val) (natW 0)) else s)
/-- The accesses that a full send queue stalled go on where it has room (R166). -/
def sendWake (s : State) : State :=
  (List.range 32).foldl (fun s c => if !sendFull s c || !dvPaired s then resumeWait s c .sendq false else s) s
/-- A ciph that waited for its core's last job goes on (R168). -/
def ciphWake (s : State) (c : Nat) : State :=
  if (wordOf (coreOf s c)).any fun p => p.h.cls == 5 && p.h.op == 4 then resumeWait s c .cwait false else s

/-! ## Asynchronous traps -/

/-- Does the microword hold a tfence, a wfe or a waitt (R214)? -/
def pacingPoint (w : List Placed) : Bool := w.any fun p => p.h.cls == 0 && (p.h.op == 23 || p.h.op == 16 || p.h.op == 18)
/-- Does the microword hold a movb? -/
def holdsMovb (w : List Placed) : Bool := w.any fun p => p.h.cls == 4 && p.h.op == 15
/-- Does the microword hold a cwait? -/
def holdsCwait (w : List Placed) : Bool := w.any fun p => p.h.cls == 5 && p.h.op == 5
/-- Is core `c` at a microword boundary: between microwords, or at a microword that lets a trap in (R100, R102, R160,
R169, R214)? -/
def atBoundary (k : Core) : Bool :=
  match k.wait with
  | .none => !mQT k.mstat || pacingPoint (wordOf k)
  | .quiet => pacingPoint (wordOf k)
  | .wfe => true
  | .waitt => true
  | .cwait => !mQT k.mstat && holdsCwait (wordOf k)
  | .host => holdsMovb (wordOf k)
  | _ => false
/-- The conditions of R230 that every asynchronous cause needs, but for the boundary. A repeat that tret resumed counts
as one of rep (log entry 22). -/
def asyncPlace (k : Core) : Bool :=
  k.shadow.isEmpty && k.rearm.isNone && k.delay.isNone && (k.repc == 0 || k.repInt)
/-- Can core `c` accept an asynchronous cause now? -/
def asyncOk (s : State) (c : Nat) : Bool := coreRuns s c && atBoundary (coreOf s c) && asyncPlace (coreOf s c)
/-- Is the vector's ring at most the current one (R230 for NMI and WDOG)? -/
def innerVector (s : State) (c cause : Nat) : Bool :=
  match vectorOf s c cause with
  | none => true
  | some v => decide (lineRing s (lineOf v) ≤ (coreOf s c).ring)
/-- The place of an asynchronous cause in the order of R229, when core `c` could take it. -/
def asyncRank (s : State) (c : Nat) : Async → Nat
  | .nmi _ => if innerVector s c 0x1A then 1 else 9
  | .wdog => if innerVector s c 0x15 then 2 else 9
  | .step => 3
  | .splicept _ => 5
  | .leaselost _ => if mIE (coreOf s c).mstat && asyncTargetOk s c 0x17 then 6 else 9
  | _ => 9
/-- Does a pending cause stand before rank `n`? -/
def asyncBefore (s : State) (c n : Nat) : Bool := (coreOf s c).pend.any fun p => decide (asyncRank s c p < n)
/-- The sequential successor of the microword at mpc. -/
def npcOf (s : State) (k : Core) : Link := linkAdd k.mpc (if k.wait = .none then csSpan s k.mpc else k.slots)
/-- The trap with the progress of an interrupted movb (R160). -/
def asyncProgress (k : Core) (t : Trp) : Trp :=
  match k.movb with
  | none => t
  | some p => if k.wait = .host ∨ k.wait = .none then { t with prog0 := p.moved, prog1 := p.desc.toNat } else t
/-- An asynchronous trap is taken at the boundary before the microword at mpc. -/
def asyncTrap (s : State) (c : Nat) (t : Trp) (lvl : Option Nat) : State :=
  let k := coreOf s c
  takeTrap s c (asyncProgress k t) k.mpc (npcOf s k) false [] lvl
/-- Pending cause `p` is taken, if it is the first that can be. -/
def pendTrap (s : State) (c : Nat) (p : Async) (n : Nat) (t : Trp) : State :=
  if asyncOk s c && asyncRank s c p == n && !asyncBefore s c n then
    asyncTrap (modCore s c fun k => { k with pend := k.pend.erase p }) c t none
  else s
/-- NMI (R227, R233): the oldest that is pending. -/
def execNmi (c : CoreId) (s : State) : Host.Outcome State Fault Refusal :=
  .next (match (coreOf s c.val).pend.findSome? fun p => match p with | .nmi n => some n | _ => none with
    | none => s
    | some n => pendTrap s c.val (.nmi n) 1 (trp 0x1A (natW 0) (natW n)))
/-- LEASELOST (R275): the oldest that is pending. -/
def execLeaselost (c : CoreId) (s : State) : Host.Outcome State Fault Refusal :=
  .next (match (coreOf s c.val).pend.findSome? fun p => match p with | .leaselost n => some n | _ => none with
    | none => s
    | some n => pendTrap s c.val (.leaselost n) 6 (trp 0x17 (addrW (n * 0x10000)) (natW n)))
/-- STEP (R227): after a microword that a debug single step has run. -/
def execStepTrap (c : CoreId) (s : State) : Host.Outcome State Fault Refusal :=
  .next (if (coreOf s c.val).pend.contains .step then
    pendTrap s c.val .step 3 (trp 0x03 (linkW (coreOf s c.val).last) (natW 0)) else s)
/-- BREAK (R529): breakpoint `n` with ACT 1 at mpc. -/
def execBreakTrap (c : CoreId) (n : Fin 4) (s : State) : Host.Outcome State Fault Refusal :=
  let w := ioGet s (priv c.val (oDBGBRK n.val))
  .next (if bitAt (pay w) 20 && bitAt (pay w) 21 && bits (pay w) 0 20 == (coreOf s c.val).mpc.toNat && asyncOk s c.val &&
      !asyncBefore s c.val 4 then
    asyncTrap s c.val (trp 0x14 (linkW (coreOf s c.val).mpc) (natW n.val)) none else s)
/-- Can core `c` accept the interrupt that its offer presents (R230, R302)? -/
def intOk (s : State) (c : Nat) : Bool :=
  let l := presented s c
  asyncOk s c && mIE (coreOf s c).mstat && decide (mLVL (coreOf s c).mstat < l) && asyncTargetOk s c (0x30 + l) &&
  !asyncBefore s c 7
/-- The interrupt is taken. -/
def intTake (s : State) (c : Nat) : State :=
  let l := presented s c
  asyncTrap s c (trp (0x30 + l) (natW 0) (natW l)) (some l)
/-- INTERRUPT (R302): a wfe that waits retires first, for the frame's mpc is the microword after it (R100). -/
def execInterrupt (c : CoreId) (s : State) : Host.Outcome State Fault Refusal :=
  .next (if !intOk s c.val then s
    else if (coreOf s c.val).wait = .wfe then
      let t := runWord (setEvlat s c.val) c.val false
      if intOk t c.val && decide ((coreOf t c.val).wait = .none) && (coreOf t c.val).mw.isEmpty then intTake t c.val else t
    else intTake s c.val)

/-! ## The watchdog -/

/-- WDOGCFG.TO in µs, held between its bounds. -/
def wdogTo (s : State) (c : Nat) : Nat := max 10 (min 10000 (ioF s (priv c oWDOGCFG) 0 14))
/-- Does the watchdog of core `c` count (R494)? -/
def wdogCounts (s : State) (c : Nat) : Bool :=
  let k := coreOf s c
  coreRuns s c && ioB s (priv c oWDOGCFG) 14 && k.wait != .wfe && k.wait != .waitt && k.wait != .quiet
/-- WDOGSTAT with `us` counted. -/
def wdogPut (s : State) (c us : Nat) (stage2 : Bool) : State :=
  ioPut s (priv c oWDOGSTAT) (natW (packNat [(0, 14, us), (14, 1, stage2.toNat), (15, 1, 1)]))
/-- Where WDOG is taken: at the oldest unretired microword, whatever it waits for. -/
def wdogTake (s : State) (c : Nat) : State :=
  if coreRuns s c && asyncPlace (coreOf s c) && asyncRank s c .wdog == 2 && !asyncBefore s c 2 then
    asyncTrap (modCore s c fun k => { k with pend := k.pend.erase .wdog }) c (trp 0x15 (natW 0) (natW 0)) none
  else s
/-- WDOG (R494): TO has passed without a retirement, or a WDOG that is pending is taken. -/
def execWdog (c : CoreId) (s : State) : Host.Outcome State Fault Refusal :=
  .next (if (coreOf s c.val).pend.contains .wdog then wdogTake s c.val
    else if wdogCounts s c.val then
      wdogTake (modCore (wdogPut s c.val (wdogTo s c.val) true) c.val fun k => { k with pend := k.pend ++ [.wdog] }) c.val
    else s)
/-- WDOG_STAGE2 (R495): a further TO without a retirement kerfs the core. -/
def execWdogStage2 (c : CoreId) (s : State) : Host.Outcome State Fault Refusal :=
  .next (if wdogCounts s c.val && ioB s (priv c.val oWDOGSTAT) 14 then kerf s c.val 1 else s)
/-- WATCHDOG_HALF (R494): condition 60. -/
def execWatchdogHalf (c : CoreId) (s : State) : Host.Outcome State Fault Refusal :=
  .next (if wdogCounts s c.val then
    wdogPut s c.val (wdogTo s c.val / 2) (ioB s (priv c.val oWDOGSTAT) 14) else s)

/-! ## Buffered stores -/

/-- The ways of the words of a buffered store. -/
def entWays (e : StoreEnt) : List Nat := e.words.map fun p => wayOf p.1
/-- May entry `i` of a store buffer be performed: no marker before it, every older store to other ways (R196)? -/
def storeMay (l : List StoreEnt) (i : Nat) : Bool :=
  match l[i]? with
  | none => false
  | some e => !e.marker && (l.take i).all fun o => !o.marker && (entWays o).all fun w => !(entWays e).contains w
/-- STORE_PERFORMED (R196): entry `i` of the store buffer is performed. -/
def execStorePerformed (c : CoreId) (i : Nat) (s : State) : Host.Outcome State Fault Refusal :=
  let l := (coreOf s c.val).storeBuf
  .next (match l[i]? with
    | none => s
    | some e => if storeMay l i then
        storeTrim (memPutAll (modCore s c.val fun k => { k with storeBuf := l.eraseIdx i }) e.words) c.val else s)

/-! ## Host-window parts -/

/-- A trap of the host-window access that core `c` waits for; a movb adds its progress (R160, R239). -/
def hostFault (s : State) (c : Nat) (t : Trp) : State :=
  let k := coreOf s c
  match k.movb with
  | some p => if holdsMovb (wordOf k) then wordTrap s c { t with prog0 := p.moved, prog1 := p.desc.toNat + 2 }
      else wordTrap s c t
  | none => wordTrap s c t
/-- The access goes on: its next part is asked for, its microword runs again, or its fault is taken. -/
def hostGoOn (s : State) (c : Nat) (h : HostAcc) : State :=
  match hostAsk s c (coreOf s c).ring h with
  | .error t => hostFault s c t
  | .ok s' => if h.rest.isEmpty then runWord s' c false else s'
/-- The part that core `c` has asked for and that is not answered. -/
def hostAsked (s : State) (c : Nat) : Option (HostAcc × HostPart) :=
  if coreRuns s c ∧ (coreOf s c).wait = .host then
    match (coreOf s c).hostAcc with
    | none => none
    | some h => match h.part with
      | none => none
      | some p => some (h, p)
  else none
/-- The answer for a part of a core's access (R444). -/
def coreAnswer (s : State) (c ans : Nat) : State :=
  match hostAsked s c with
  | none => s
  | some (h, p) =>
    if h.granted then s
    else if ans ≠ 0 then
      hostFault (acDenied s 0 c ans) c (hostTrp h (if ans = 0xFE then 0x19 else 0x04) p.first ans)
    else if h.write then hostGoOn (hostStorePart s h p) c (hostAdvance s h p)
    else emit (modCore s c fun k => { k with hostAcc := some { h with granted := true } }) (.hostRead p.haddr p.len)
/-- HOST_PART_COMPLETION (R285, R286): the data of a permitted part; one that is late is discarded. -/
def execHostPartCompletion (c : CoreId) (data : List (BitVec 64)) (late : Bool) (s : State) :
    Host.Outcome State Fault Refusal :=
  .next (match hostAsked s c.val with
    | none => s
    | some (h, p) =>
      if late || !h.granted || !hostDataOk s p data then s
      else match hostLoadPart s (coreOf s c.val) h p data with
        | .error t => hostFault s c.val t
        | .ok h' => hostGoOn s c.val h')
/-- HWTO (R286): the part has expired, and the link retrains. -/
def execHwto (c : CoreId) (s : State) : Host.Outcome State Fault Refusal :=
  .next (match hostAsked s c.val with
    | none => s
    | some (h, p) =>
      hostFault (emit (elWrite s 0x08 p.win c.val 0x05 h.done p.first) .retrain) c.val (hostTrp h 0x05 p.first 0))

/-! ## The answers to HL's own accesses -/

/-- A denial of an access of HL: ACSTAT, ACCNT, the error log (R445). -/
def acRefuse (s : State) (kind ans : Nat) : State := elWrite (acDenied s kind 0 ans) 0x07 kind 0 0 ans 0
/-- The answer for a ring fetch. -/
def fetchAnswer (s : State) (q ans : Nat) : State :=
  match s.acQ.find? fun i => match i with | .fetch p _ => p == q | _ => false with
  | some (.fetch p n) =>
    let s := { s with acQ := s.acQ.erase (.fetch p n) }
    if ans = 0 then emit s (.hostRead (barGet s (bSQ q 0) + 64 * barF s (bSQ q 0x10) 0 16) (64 * n))
    else fetchFail (acRefuse s 1 ans) q
  | _ => s
/-- The answer for a completion: written, or back to the spool until its ring is enabled again; asked again while the
spool has no place. -/
def compAnswer (s : State) (r ans : Nat) : State :=
  match s.acQ.find? fun i => match i with | .comp q _ _ _ _ _ _ => q == r | _ => false with
  | some (.comp q resv noirq w0 w1 w2 w3) =>
    let t := { s with acQ := s.acQ.erase (.comp q resv noirq w0 w1 w2 w3) }
    if ans = 0 then compWrite t r noirq w0 w1 w2 w3
    else
      let t := acRefuse t 2 ans
      if cspRoom t then cspPut t r resv noirq true [w0, w1, w2, w3]
      else acAsk t (.completion (Fin.ofNat 256 r)) (.comp q resv noirq w0 w1 w2 w3) true (cqNextAddr t r) 32
  | _ => s
/-- Host address of the ledger ring's next slot. -/
def lringAddr (s : State) : Nat := barGet s (bLRING 0) + 256 * barF s (bLRING 0x10) 0 16
/-- Slots of the ledger ring. -/
def lringSize (s : State) : Nat := 2 ^ barF s (bLRING 8) 1 5
/-- The record of spool slot `j` leaves for the ledger ring: words 0 to 30, word 31 with PHASE, MSI-X (R459). -/
def drainWrite (s : State) (j : Nat) : State :=
  match s.ledger.recs.find? fun r => r.slot == j with
  | none => s
  | some r =>
    let a := lringAddr s
    let t := barF s (bLRING 0x10) 0 16
    let ph := barF s (bLRING 0x10) 16 1
    let s := emit s (.hostWrite a ((List.range 31).map fun i => slotData (r.words.getD i emptyW)) 8 false)
    let s := emit s (.hostWrite (a + 248) [slotData (natW ph)] 8 false)
    let s := barSetF s (bLRING 0x10) 0 16 ((t + 1) % lringSize s)
    let s := if t + 1 = lringSize s then barSetF s (bLRING 0x10) 16 1 (1 - ph) else s
    let s := modLedger s fun l => { l with recs := l.recs.map fun q => if q.slot = j then { q with drained := true } else q }
    if barB s (bLRING 8) 6 && !s.lringSent then msixSend { s with lringSent := true } (barF s (bLRING 8) 7 9) else s
/-- The answer for the ledger drain: a denial stops it until the next head write. -/
def drainAnswer (s : State) (ans : Nat) : State :=
  match s.acQ.find? fun i => match i with | .drain _ => true | _ => false with
  | some (.drain j) =>
    let s := { s with acQ := s.acQ.erase (.drain j) }
    if ans = 0 then drainWrite s j
    else ioSetB (modLedger (acRefuse s 3 ans) fun l => { l with drainOff := true }) aLEDGSTAT 3 true
  | _ => s
/-- The answer for an MSI-X message: sent, or dropped with its pending bit set. -/
def msixAnswer (s : State) (v ans : Nat) : State :=
  if s.acQ.contains (.msix v) then
    let s := { s with acQ := s.acQ.erase (.msix v) }
    if ans = 0 then emit s (.msix v) else pbaPut (acRefuse s 4 ans) v true
  else s
/-- ACCESS_CONTROL_ANSWER (R444, R445): to the oldest question of its kind. -/
def execAccessControlAnswer (r : AcReq) (ans : BitVec 8) (s : State) : Host.Outcome State Fault Refusal :=
  .next (match r with
    | .core c => coreAnswer s c.val ans.toNat
    | .ringFetch q => fetchAnswer s q.val ans.toNat
    | .completion q => compAnswer s q.val ans.toNat
    | .drain => drainAnswer s ans.toNat
    | .msix v => msixAnswer s v.val ans.toNat)

end Sys2Proof.Machine
end

