-- ==== Sys2Proof/Machine/HubRows.lean ====
section
/-! DEFINITION. Register writes and reads that are commands of their own (R11 to R14), and the events of the hub, the
timebases and the compare units (R292 to R313). A register write is the write that `out` of the named core makes, in
its current ring (DESIGN CHOICE, log entry 23). -/

namespace Sys2Proof.Machine

/-! ## Accesses of a core -/

/-- The access of core `c` at the microword at mpc traps. -/
def portTrap (s : State) (c : Nat) (t : Trp) : State :=
  let k := coreOf s c
  match k.delay with
  | some d => takeTrap s c t k.mpc d true [] none
  | none => takeTrap s c t k.mpc (npcOf s k) false [] none
/-- Can core `c` make an access now? -/
def coreFree (s : State) (c : Nat) : Bool := coreRuns s c && decide ((coreOf s c).wait = .none)
/-- A write of `w` to I/O address `a` by core `c`, whose effect on a register that takes it is `f`. -/
def busWriteWith (s : State) (c a : Nat) (w : Word) (f : RegInfo → IoOut) : State :=
  if !coreFree s c then s
  else match ioWriteCheck s c (coreOf s c).ring 0 a w with
    | .error t => portTrap s c (if wtag w = .poison ∧ t.cause ≠ 0x08 then consumeT w else t)
    | .ok r =>
      if wtag w = .poison then portTrap s c (consumeT w)
      else match r with
        | none => s
        | some i => match f i with
          | .done t => t
          | .fault t => portTrap s c t
          | .stall => s
/-- A write of `w` to I/O address `a` by core `c`. -/
def busWrite (s : State) (c a : Nat) (w : Word) : State :=
  busWriteWith s c a w fun i => ioPerform s c (coreOf s c).ring i (ioAbs c a) w
/-- REGISTER_WRITE (R14). -/
def execRegisterWrite (c : CoreId) (addr : BitVec 24) (w : Word) (s : State) : Host.Outcome State Fault Refusal :=
  .next (busWrite s c.val addr.toNat w)
/-- SHADOW_WRITE (R388). -/
def execShadowWrite (c : CoreId) (f : BitVec 12) (w : Word) (s : State) : Host.Outcome State Fault Refusal :=
  .next (busWrite s c.val (aSHADOW f.toNat) w)
/-- RSDEPTH_WRITE (R93). -/
def execRsdepthWrite (c : CoreId) (w : Word) (s : State) : Host.Outcome State Fault Refusal :=
  .next (busWrite s c.val (priv c.val oRSDEPTH) w)
/-- RSENT_WRITE (R93). -/
def execRsentWrite (c : CoreId) (k : Fin 16) (w : Word) (s : State) : Host.Outcome State Fault Refusal :=
  .next (busWrite s c.val (priv c.val (oRSENT k.val)) w)

/-! ## The hub -/

/-- LEVEL_ASSERT (R292): the raiser of a level source asserts it. -/
def execLevelAssert (n : Fin 1024) (s : State) : Host.Outcome State Fault Refusal :=
  .next (if srcLevel s n.val then assertLevel s n.val else s)
/-- LEVEL_WITHDRAW (R292, R298). -/
def execLevelWithdraw (n : Fin 1024) (s : State) : Host.Outcome State Fault Refusal :=
  .next (if srcLevel s n.val then withdrawLevel s n.val else s)
/-- OFFER_TIMEOUT (R298): the offer of core `c` is returned, and placed again on another core where one can take it. -/
def execOfferTimeout (c : CoreId) (s : State) : Host.Outcome State Fault Refusal :=
  .next (match (coreOf s c.val).offer with
    | none => s
    | some n => if ioF s aHUBCFG 0 12 = 0 then s
        else hubEval (modCore s c.val fun k => { k with offer := none }) (some (n, c.val)))
/-- SRCSTAT_PEND_CLEAR (R292). -/
def execSrcstatPendClear (c : CoreId) (n : Fin 1024) (s : State) : Host.Outcome State Fault Refusal :=
  .next (busWrite s c.val (aSRCSTAT n.val) (natW 0x100))
/-- SRCSTAT_SET (R303). -/
def execSrcstatSet (c : CoreId) (n : Fin 1024) (s : State) : Host.Outcome State Fault Refusal :=
  .next (busWrite s c.val (aSRCSTAT n.val) (natW 0x20000))
/-- The sources that send on MSI-X vector `v` and have an occurrence. -/
def vecSources (s : State) (v : Nat) : List Nat :=
  (listedSources s).filter fun n => srcRoute s n == 2 && ioF s (aSRCCFG n) 7 9 == v && decide (0 < srcPrio s n) && srcPending s n
/-- Vector `v` can be sent again: the occurrences waiting in COUNT, or the one message that its pending bit stands for
(R297, R411). -/
def msixFlush (s : State) (v : Nat) : State :=
  if !msixOpen s v then s
  else
    let l := vecSources s v
    if l.isEmpty then
      (if bitAt (barGet s (bPBA (v / 64))) (v % 64) then msixSend (pbaPut s v false) v else s)
    else l.foldl hostRoute s
/-- MSIX_UNMASK (R297). -/
def execMsixUnmask (v : Fin 512) (s : State) : Host.Outcome State Fault Refusal :=
  .next (msixFlush (hostActive (barSetB s (bMSIX v.val 12) 0 false)) v.val)

/-! ## Timebases and compare units -/

/-- TBHI_READ (R305). -/
def execTbhiRead (c : CoreId) (n : Fin 4) (s : State) : Host.Outcome State Fault Refusal :=
  .next (if coreFree s c.val then tbhiLatch s c.val n.val else s)
/-- CAPTURE (R306). -/
def execCapture (c : CoreId) (mask : BitVec 4) (s : State) : Host.Outcome State Fault Refusal :=
  .next (busWrite s c.val 0x020020 (natW mask.toNat))
/-- TBSETHI_WRITE (R307). -/
def execTbsethiWrite (c : CoreId) (n : Fin 4) (w : Word) (s : State) : Host.Outcome State Fault Refusal :=
  .next (busWrite s c.val (aTB n.val + 6) w)
/-- A word with the bits `on` set and the bits `off` cleared. -/
def withBits (w : Word) (on off : Nat) : Word := mkW (wtag w) ((pay w ||| on) &&& (full - off))
/-- COMPARE_ARM (R309): a write of CMPCTL with ARM. -/
def execCompareArm (c : CoreId) (u : Fin 64) (w : Word) (s : State) : Host.Outcome State Fault Refusal :=
  .next (busWrite s c.val (aCMPCTL u.val) (withBits w 4 0))
/-- COMPARE_FIRE (R308, R309): an evaluation of unit `u`. -/
def execCompareFire (u : Fin 64) (s : State) : Host.Outcome State Fault Refusal := .next (cmpEval s u.val)
/-- PPS_HOLD (R312). -/
def execPpsHold (s : State) : Host.Outcome State Fault Refusal := .next (tdHold s)

/-! ## HL's unmasking of what waits -/

/-- Every vector that can be sent is flushed (R297). -/
def msixFlushAll (s : State) : State := (List.range 512).foldl msixFlush s

end Sys2Proof.Machine
end

