-- ==== Sys2Proof/Machine/RingRows.lean ====
section
/-! DEFINITION. What the host driver and the host link do to the rings (R396 to R413), error-log signalling (R500), the
ledger ring (R458, R459) and the causes of ISLAND at the link (R464 to R467). -/

namespace Sys2Proof.Machine

/-! ## Rings -/

/-- SQ_TAIL_DOORBELL (R399); every doorbell clears IHOST (R466). -/
def execSqTailDoorbell (q : Fin 256) (v : BitVec 16) (s : State) : Host.Outcome State Fault Refusal :=
  .next (sqDoorbell (hostActive s) q.val v.toNat)
/-- CQ_HEAD_DOORBELL (R400). -/
def execCqHeadDoorbell (r : Fin 256) (v : BitVec 16) (s : State) : Host.Outcome State Fault Refusal :=
  .next (cqDoorbell (hostActive s) r.val v.toNat)
/-- SQ_ENABLE (R398). -/
def execSqEnable (q : Fin 256) (w : BitVec 32) (s : State) : Host.Outcome State Fault Refusal :=
  .next (sqEnableDo (hostActive s) q.val w.toNat)
/-- SQ_DISABLE (R398). -/
def execSqDisable (q : Fin 256) (w : BitVec 32) (s : State) : Host.Outcome State Fault Refusal :=
  .next (sqDisableDo (hostActive s) q.val w.toNat)
/-- CQ_ENABLE (R398). -/
def execCqEnable (r : Fin 256) (w : BitVec 32) (s : State) : Host.Outcome State Fault Refusal :=
  .next (cqEnableDo (hostActive s) r.val w.toNat)
/-- CQ_DISABLE (R398). -/
def execCqDisable (r : Fin 256) (w : BitVec 32) (s : State) : Host.Outcome State Fault Refusal :=
  .next (cqDisableDo (hostActive s) r.val w.toNat)
/-- RING_FETCH (R401). -/
def execRingFetch (q : Fin 256) (n : Nat) (s : State) : Host.Outcome State Fault Refusal := .next (ringFetchDo s q.val n)
/-- FETCH_COMPLETE (R403): each entry is 8 host words. -/
def execFetchComplete (q : Fin 256) (entries : List (List (BitVec 64))) (s : State) : Host.Outcome State Fault Refusal :=
  if entries.all fun e => e.length == 8 then .next (fetchDone s q.val entries) else .fault .illFormed
/-- DISPTAKE (R405). -/
def execDisptake (c : CoreId) (g : Fin 64) (s : State) : Host.Outcome State Fault Refusal :=
  .next (busWrite s c.val 0x050040 (natW g.val))
/-- DISPTAKE_FREE (R405). -/
def execDisptakeFree (c : CoreId) (s : State) : Host.Outcome State Fault Refusal :=
  .next (busWrite s c.val 0x050040 (natW 64))
/-- WORK_SLOT_FILL (R405). -/
def execWorkSlotFill (c : CoreId) (s : State) : Host.Outcome State Fault Refusal := .next (workFill s c.val)
/-- RING_TIMEOUT (R412). -/
def execRingTimeout (q : Fin 256) (seq : BitVec 16) (s : State) : Host.Outcome State Fault Refusal :=
  .next (ringtoDo s q.val seq.toNat)
/-- FUNCTION_LEVEL_RESET (R396). -/
def execFunctionLevelReset (s : State) : Host.Outcome State Fault Refusal := .next (flrDo s)
/-- SPOOL_REPLAY (R413). -/
def execSpoolReplay (s : State) : Host.Outcome State Fault Refusal := .next (hlReplay s)

/-! ## BAR accesses and the error log -/

/-- A write or read of a BAR that meets no register of its width: dropped, with an error-log entry (R397, R501). Only a
write is a BAR0 write that clears IHOST. -/
def barDrop (s : State) (write : Bool) (off : Nat) : State :=
  elWrite (if write then hostActive s else s) 0x04 0 0 0 off 0
/-- BAR_ACCESS_DROPPED (R397): a dropped write is logged; a dropped read answers 0 and changes nothing. -/
def execBarAccessDropped (bar2 write : Bool) (off : BitVec 16) (s : State) : Host.Outcome State Fault Refusal :=
  .next (if write then (if bar2 then elWrite s 0x04 0 0 0 off.toNat 0 else barDrop s true off.toNat)
    else emit s (.hostData 0#64))
/-- A write of ELCFG: IEN and VEC; ACK re-arms signalling (R500). -/
def elcfgWrite (s : State) (w : Nat) : State :=
  let s := barPut s bELCFG (w % 2 ^ 10)
  if bitAt w 10 then { s with elArmed := true } else s
/-- ELCFG_ACK (R500). -/
def execElcfgAck (w : BitVec 32) (s : State) : Host.Outcome State Fault Refusal := .next (elcfgWrite (hostActive s) w.toNat)

/-! ## Causes of ISLAND at the link -/

/-- HOST_SILENCE (R466): while HL is off, IHOST is not evaluated (R481). -/
def execHostSilence (s : State) : Host.Outcome State Fault Refusal :=
  .next (if s.hlOff then s else setCause s 1 true)
/-- HL is lost to the mailbox: its session detaches (R475, R527). -/
def mailboxLost (s : State) : State := if dbgMailbox s then setCause (dbgDetach s) 6 false else s
/-- The link is lost: READYMAP.HL falls and ILINK holds ISLAND (R466). -/
def linkDown (s : State) : State :=
  if s.hlOff then s else mailboxLost (setCause (readyClear s 2) 0 true)
/-- LINK_LOSS (R466). -/
def execLinkLoss (s : State) : Host.Outcome State Fault Refusal := .next (linkDown s)
/-- The link trains while HL is powered and its clock present: HL reports ready, ILINK clears, what waited for the link
goes (R297, R413, R466). -/
def linkUp (s : State) : State :=
  if s.hlOff || s.refLost || s.islReset.contains 11 || !s.alive then s
  else msixFlushAll (hlReplay (setCause (readyUp s 2) 0 false))
/-- LINK_TRAINED (R466). -/
def execLinkTrained (s : State) : Host.Outcome State Fault Refusal := .next (linkUp s)
/-- MODEREQ_WRITE (R464): only I and D may change; the write clears IHOST. -/
def execModereqWrite (w : BitVec 32) (s : State) : Host.Outcome State Fault Refusal :=
  .next (modeRequestDo (hostActive s) (bits w.toNat 0 8) (bits w.toNat 8 8 &&& 0x50))

/-! ## Ledger ring -/

/-- The records that a head write has passed leave the spool, but not under ISLAND (R458). -/
def lringLeave (s : State) : State :=
  if modeBit s 4 then s
  else
    let gone := s.ledger.recs.filter (·.passed)
    gone.foldl (fun s r => slotClear (modLedger s fun l => { l with recs := l.recs.erase r }) r.slot) s
/-- The oldest `n` drained records are passed. -/
def markPassed : Nat → List LRec → List LRec
  | _, [] => []
  | 0, l => l
  | n + 1, r :: t =>
    if r.drained && !r.passed then { r with passed := true } :: markPassed n t else r :: markPassed (n + 1) t
/-- A write of LRING.HEAD (R458, R459, R445): the records from the previous head up to HEAD are passed, a stopped drain
goes on and the next slot written may signal. -/
def lringHeadDo (s : State) (v : Nat) : State :=
  let z := lringSize s
  let n := (v + z - barF s (bLRING 0xC) 0 16 % z) % z
  let s := barPut s (bLRING 0xC) v
  lringLeave { modLedger s (fun l => { l with recs := markPassed n l.recs, drainOff := false }) with lringSent := false }
/-- LRING_HEAD_WRITE (R458). -/
def execLringHeadWrite (v : BitVec 16) (s : State) : Host.Outcome State Fault Refusal :=
  .next (lringHeadDo (hostActive s) v.toNat)
/-- Does the drain wait for an answer? -/
def drainAsked (s : State) : Bool := s.acQ.any fun i => match i with | .drain _ => true | _ => false
/-- Records in the ledger ring that no head write has passed. -/
def lringUsed (s : State) : Nat := (s.ledger.recs.filter fun r => r.drained && !r.passed).length
/-- May the drain write a record now (R458, R459, R445)? -/
def drainOk (s : State) : Bool :=
  barB s (bLRING 8) 0 && !barB s (bLRING 0x10) 17 && !modeBit s 4 && hlUp s && !s.ledger.drainOff && !drainAsked s &&
  decide (lringUsed s < lringSize s)
/-- The oldest chained record that is not in the ledger ring. -/
def drainNext (s : State) : Option LRec := s.ledger.recs.find? fun r => r.seq.isSome && !r.drained && spoolOk s r.slot
/-- LEDGER_DRAIN (R459): the access-control unit is asked for the next record's slot. -/
def execLedgerDrain (s : State) : Host.Outcome State Fault Refusal :=
  let s := lringLeave s
  .next (if !drainOk s then s
    else match drainNext s with
      | none => s
      | some r => acAsk s .drain (.drain r.slot) true (lringAddr s) 256)

end Sys2Proof.Machine
end

