-- ==== Sys2Proof/Machine/Opcode.lean ====
section
/-! DEFINITION. The ROM dispatcher's handling of the device opcodes (R404 to R429), as far as rows share it: the entry in
work, its end, held entries, host buffers, ledger records of session work, homes for sessions, eviction and reload. The
dispatcher itself is ROM content; what the manual says that it does is each row's effect. -/

namespace Sys2Proof.Machine

/-! ## The entry in work -/

/-- A word of an entry. -/
def Work.at (w : Work) (i : Nat) : Word := w.words.getD i emptyW
/-- Payload of a word of an entry. -/
def Work.p (w : Work) (i : Nat) : Nat := pay (w.at i)
/-- OPCODE of an entry. -/
def Work.op (w : Work) : Nat := w.p 0 % 256
/-- Its handle, SESSION:0 where it carries none. -/
def Work.handle (w : Work) : Word := if wtag (w.at 1) = .session then w.at 1 else mkW .session 0
/-- Does core `c` run the dispatcher now: running, not halted, in ring 0, in no microcode handler? -/
def dispOn (s : State) (c : Nat) : Bool :=
  let k := coreOf s c
  coreState s c == 0 && !k.halted && k.ring == 0 && k.home.isNone
/-- The entry that core `c` works on, when its opcode is one that `p` admits. -/
def workOf (s : State) (c : Nat) (p : Nat → Bool) : Option Work :=
  match (coreOf s c).workRun with
  | none => none
  | some w => if dispOn s c && ((coreOf s c).workFull || w.held) && p w.op then some w else none
/-- Is the entry's ring an admin ring? -/
def Work.admin (s : State) (w : Work) : Bool := barB s (bSQ w.q 8) 7
/-- The dispatcher's completion of an entry: written in its reserved slot, or counted in LATE when HL has completed the
entry already (R409, R412). -/
def workPost (s : State) (q seq st : Nat) (w1 w3 : Word) : State :=
  match entryOf s q seq with
  | some e => entryDone s e st w1 w3
  | none => lateInc s (sqCq s q)
/-- May a held entry be started: its session is not busy? -/
def heldFree (s : State) (e : Entry) : Bool :=
  decide (e.st = EntrySt.held) && (sessOf s (handleIdx e.handle)).busy.isNone
/-- Core `c`, its entry done, starts the oldest held entry whose session is free (R406). -/
def heldStart (s : State) (c : Nat) : State :=
  if (coreOf s c).workRun.isSome || coreState s c != 0 then s
  else match s.entries.find? (heldFree s) with
    | none => s
    | some e =>
      modCore (entryPut s e { e with st := .taken, core := some c }) c fun k =>
        { k with workRun := some ⟨e.q, e.seq, e.words, true⟩, compRing := some (sqCq s e.q) }
/-- Core `c` works on no entry. -/
def workClear (k : Core) : Core := { k with workRun := none, compRing := none }
/-- The session of index `i` is not busy any more. -/
def sessIdle (s : State) (i : Nat) : State := sessPut s i { sessOf s i with busy := none }
/-- The entry in work on core `c` ends with a completion; its session was not made busy. -/
def workDone (s : State) (c : Nat) (w : Work) (st : Nat) (w1 w3 : Word) : State :=
  heldStart (modCore (workPost s w.q w.seq st w1 w3) c workClear) c
/-- The entry ends with its own handle and RESULT `NAT:r`. -/
def workEnd (s : State) (c : Nat) (w : Work) (st r : Nat) : State := workDone s c w st w.handle (natW r)

/-! ## Waiting handlers -/

/-- The entry in work waits for something outside its core. -/
def workWait (s : State) (c : Nat) (w : Work) (msg : Option Msg) (n : Nat) : State :=
  let s := match entryOf s w.q w.seq with
    | some e => entryPut s e { e with st := .waiting }
    | none => s
  { s with waits := s.waits ++ [{ core := c, q := w.q, seq := w.seq, words := w.words, await := msg, frame := none, count := n }] }
/-- A waiting handler as work. -/
def Waiter.work (x : Waiter) : Work := ⟨x.q, x.seq, x.words, false⟩
/-- A waiting handler ends: its completion, its session free when its core held it for the entry, its core free. -/
def waitDone (s : State) (x : Waiter) (st : Nat) (w3 : Word) : State :=
  let w := x.work
  let s := workPost { s with waits := s.waits.erase x } x.q x.seq st w.handle w3
  let i := handleIdx w.handle
  let s := if w.op = 3 ∧ (sessOf s i).busy = some x.core then sessIdle s i else s
  let mine := match (coreOf s x.core).workRun with | some y => y.q == x.q && y.seq == x.seq | none => false
  heldStart (if mine then modCore s x.core workClear else s) x.core
/-- The oldest handler of core `c` that waits with opcode `op`. -/
def waitFind (s : State) (c op : Nat) : Option Waiter := s.waits.find? fun x => x.core == c && x.work.op == op
/-- Handlers whose last frame DF has acknowledged end: SEND with the bytes sent, ACTUATE with 0 (R415). -/
def waitAcked (s : State) : State :=
  (s.waits.filter fun x => match x.frame with
    | none => false
    | some (cls, n) => !(s.dh.unacked.any fun f => f.cls == cls && f.num == n)).foldl
      (fun s x => waitDone s x 0 (natW x.count)) s

/-! ## Sessions -/

/-- Why an entry that needs its session ends at once: BADSESS or BADCTX; `none` when the session is open. -/
def sessBad (s : State) (h : Word) : Option Nat :=
  if !handleNamed s h then some 4 else if (sessOf s (handleIdx h)).failed then some 0x13 else none
/-- Entries held device-wide. -/
def heldCount (s : State) : Nat := (s.entries.filter fun e => decide (e.st = EntrySt.held)).length
/-- The entry's session is busy: the dispatcher holds the entry and is free, while fewer than 256 are held (R406). -/
def workHold (s : State) (c : Nat) (w : Work) : State :=
  if 256 ≤ heldCount s then s
  else
    let s := match entryOf s w.q w.seq with
      | some e => entryPut s e { e with st := .held, core := none }
      | none => s
    heldStart (modCore s c workClear) c
/-- Is the session of a handle busy? -/
def sessBusy (s : State) (h : Word) : Bool := (sessOf s (handleIdx h)).busy.isSome
/-- The session of index `i` busy for core `c`. -/
def sessTake (s : State) (i c : Nat) : State := sessPut s i { sessOf s i with busy := some c }

/-! ## Ledger records (R417, R448) -/

/-- Must the entry be ledgered: EVIDENCE, or LOG? -/
def workLogged (s : State) (w : Work) : Bool := modeBit s 2 || bitAt (w.p 0) 9
/-- The record of session work; p2 is the byte count, mask or entry op, NAT:0 where the opcode has none. -/
def sessRec (s : State) (c typ : Nat) (h cookie : Word) (n : Nat) : Bool × State :=
  ledgCore s typ [h, cookie, natW n] 0 c
/-- The record that an entry owes, when it owes one: `none` when it cannot be made (NOLEDGER). -/
def workRec (s : State) (c : Nat) (w : Work) (typ : Nat) (h : Word) (n : Nat) : Option State :=
  if !workLogged s w then some s
  else
    let r := sessRec s c typ h (w.at 4) n
    if r.1 then some r.2 else none
/-- Under I and E, are the reserved spool slots being used (R477)? -/
def sessRefused (s : State) : Bool :=
  modeBit s 4 && modeBit s 2 && decide (8192 - spoolN s < ioF s aMODECFG 9 13)

/-! ## Host buffers (R402) -/

/-- Window, first word and length of an entry's buffer. -/
def Work.win (w : Work) : Nat := w.p 3 % 16
/-- BUFIDX. -/
def Work.idx (w : Work) : Nat := w.p 2
/-- LEN. -/
def Work.len (w : Work) : Nat := bits (w.p 3) 8 20
/-- Do `n` words from word `i` on lie in window `v`, enabled and not BAD? -/
def winHolds (s : State) (v i n : Nat) : Bool :=
  hwinEn s v && !hwinBad s v && decide (hwinBase s v + i + n ≤ hwinLimit s v + 1)
/-- Does the entry's buffer hold `n` words? -/
def Work.bufOk (s : State) (w : Work) (n : Nat) : Bool := winHolds s w.win w.idx n
/-- Words of a byte buffer of `n` bytes. -/
def byteWords (n : Nat) : Nat := (n + 3) / 4
/-- RESULT of HWFAULT when a buffer access cannot be made: HL is off, or a write meets a read-only window (R416). -/
def bufFault (s : State) (v : Nat) (write : Bool) : Option Nat :=
  if s.hlOff || s.islReset.contains 11 then some 0x4F0
  else if write && barB s (bHWIN v 0x18) 5 then some 0x4F1
  else none
/-- The host byte of word `i` of window `v`. -/
def winByte (s : State) (v i : Nat) : Nat := hwinByte s v (hwinBase s v + i)
/-- Words written to window `v` from word `i` on: slot form or packed form (R58, R59). -/
def bufWrite (s : State) (v i : Nat) (ws : List Word) : State :=
  if ws.isEmpty then s
  else
    let relaxed := barB s (bHWIN v 0x18) 2
    if hwinSize s v = 8 then emit s (.hostWrite (winByte s v i) (ws.map slotData) 8 relaxed)
    else emit s (.hostWrite (winByte s v i) ((ws.flatMap packedBytes).map (BitVec.ofNat 64)) 1 relaxed)
/-- `n` words of window `v` from word `i` on asked of the host. -/
def bufRead (s : State) (v i n : Nat) : State :=
  if n = 0 then s else emit s (.hostRead (winByte s v i) (hwinSize s v * n))

/-! ## The dispatcher's cipher jobs -/

/-- What a job of the dispatcher on core `c` with status `st` leaves at the port and in the core; without an engine a
job is a fault (R168, R437, R438). -/
def dispCipher (s : State) (c func st : Nat) : State :=
  let s := modCore (cipherCount s c st) c fun k => { k with ciphSt := st }
  if st = 3 ∧ ioB s aCIPHCFG 16 then ledgEng s 0x004 [natW (c + 128 * func), (coreOf s c).ctx] else s
/-- The status that counts: FAULT without an engine. -/
def cipherSt (s : State) (st : Nat) : Nat := if cipherValid s then st else 5
/-- Did a job do its work: OK, or KEYLOW (R438)? -/
def cipherOk (st : Nat) : Bool := st == 0 || st == 3

/-! ## Homes of sessions (R421 to R425) -/

/-- CONFIG item `i` (R427). -/
def configOf (s : State) (i : Nat) : Nat := tabGet (if i = 4 then 1000 else 0) s.config i
/-- POOLBASE stands under key 5. -/
def poolBase (s : State) : Nat := tabGet 0 s.config 5
/-- Indexes of the open sessions that are hot in the set of index `i`. -/
def setHot (s : State) (i : Nat) : List Nat :=
  (s.sess.filter fun p => p.1 % 2 ^ 14 == i % 2 ^ 14 && p.2.way.isSome).map (·.1)
/-- A free way in the set of index `i`. -/
def freeWay (s : State) (i : Nat) : Option Nat :=
  let used := (setHot s i).filterMap fun j => (sessOf s j).way
  (List.range 4).find? fun w => !used.contains w
/-- Can the dispatcher wrap, write and read cold contexts: CTXKEY, an engine, HL up (R424, R425)? -/
def coldOk (s : State) : Bool := wtag (ioGet s aCTXKEY) = .keyref && cipherValid s && hlUp s
/-- May the hot session `j` be evicted (R424)? -/
def evictable (s : State) (j : Nat) : Bool :=
  let e := sessOf s j
  coldOk s && e.busy.isNone && e.cold.isSome &&
    !((List.range 32).any fun c => pay (coreOf s c).ctx % 2 ^ 20 == j && pay (coreOf s c).ctx != 0)
/-- The session of the set that is evicted: the one used least recently. -/
def victim (s : State) (i : Nat) : Option Nat :=
  ((setHot s i).filter (evictable s)).foldl (fun b j =>
    match b with
    | none => some j
    | some m => if (sessOf s j).used < (sessOf s m).used then some j else some m) none
/-- A cold slot that no session has. -/
def freeCold (s : State) : Option Nat :=
  let used := s.sess.filterMap fun p => p.2.cold
  let n := lowestFree (used.length + 1) 0 used
  if n < configOf s 2 then some n else none
/-- Has the set of index `i` a home for a new session, with a cold slot or without? -/
def setTakes (s : State) (cold : Bool) (i : Nat) : Bool := (freeWay s i).isSome || (cold && (victim s i).isSome)
/-- The lowest free index from `i` on whose set can take it (R420). -/
def findIndex (s : State) (cold : Bool) : Nat → Nat → Option Nat
  | 0, _ => none
  | f + 1, i =>
    if 2 ^ 20 ≤ i then none
    else if !(sessOf s i).opened && setTakes s cold i then some i else findIndex s cold f (i + 1)
/-- Free values of an engine's output as BITS words (log entry 5). -/
def freeWords : Nat → State → List Word × State
  | 0, s => ([], s)
  | n + 1, s =>
    let r := freeWords n (bump s)
    (bitsW (freeVal s % 2 ^ 32) :: r.1, r.2)
/-- Hot words 1 to 7 as a cold slot stores them: no KEYREF and no SEAL (R423). -/
def coldWord (w : Word) : Word := if isSecret w then emptyW else w
/-- Session `j` is evicted to its cold slot (R424): CVER, words 0 to 23, the way scrubbed. The wrapped key and the CMAC
are the engine's. -/
def evict (s : State) (j : Nat) : State :=
  let e := sessOf s j
  match e.way, e.cold with
  | some w, some slot =>
    let cver := (e.cver + 1) % 2 ^ 16
    let hot := (List.range 7).map fun i => coldWord (memGet s (hotAddr j w + 1 + i))
    let tags := (List.range 7).foldl (fun n i => setBits n (4 * i) 4 (wtag (hot.getD i emptyW)).code) 0
    let (key, s) := freeWords 10 s
    let (mac, s) := freeWords 4 s
    let words := [natW (j + 2 ^ 20 * e.gen), natW cver, natW tags] ++ hot.map (fun x => bitsW (pay x)) ++ key ++ mac
    let s := bufWrite s (configOf s 1) (poolBase s + 1024 * slot) words
    let s := memPutAll s ((List.range 8).map fun i => (hotAddr j w + i, emptyW))
    sessPut s j { e with way := none, cver := cver }
  | _, _ => s
/-- The set of index `i` with a free way: the least recently used evictable session is evicted when none is free. -/
def makeWay (s : State) (i : Nat) : State :=
  if (freeWay s i).isSome then s
  else match victim s i with
    | none => s
    | some j => evict s j
/-- The place for a new session: its index and whether it gets a cold slot; `none` is BUSY-POOL (R425). -/
def findHome (s : State) : Option (Nat × Option Nat) :=
  let cold := if coldOk s then freeCold s else none
  match findIndex s cold.isSome (17 * s.sess.length + 2) 1 with
  | none => none
  | some i => some (i, cold)
/-- The handle of index `i`. -/
def handleOf (s : State) (i : Nat) : Word := mkW .session (i + 2 ^ 20 * (sessOf s i).gen)
/-- Session `i` opened in a hot way with words 0 to 3 of its context (R421, R425). -/
def sessOpenAt (s : State) (i : Nat) (cold : Option Nat) (ws : List Word) : State :=
  let s := makeWay s i
  match freeWay s i with
  | none => s
  | some w =>
    let s := memPutAll s ((List.range 8).map fun j => (hotAddr i w + j, ws.getD j (natW 0)))
    sessTouch (sessPut s i { sessOf s i with opened := true, failed := false, way := some w, cold := cold, busy := none }) i
/-- Session `i` closed: the hot way scrubbed, the cold slot free, the next generation (R420, R426). -/
def sessCloseAt (s : State) (i : Nat) : State :=
  let e := sessOf s i
  let s := match e.way with
    | none => s
    | some w => memPutAll s ((List.range 8).map fun j => (hotAddr i w + j, emptyW))
  sessPut s i { e with
    opened := false
    failed := false
    gen := if e.gen = 4095 then 1 else e.gen + 1
    way := none
    cold := none
    busy := none }
/-- Word `j` of the hot context of session `i`. -/
def hotWord (s : State) (i j : Nat) : Word :=
  match (sessOf s i).way with
  | none => emptyW
  | some w => memGet s (hotAddr i w + j)
/-- Word `j` of the hot context written. -/
def hotPut (s : State) (i j : Nat) (x : Word) : State :=
  match (sessOf s i).way with
  | none => s
  | some w => memPut s (hotAddr i w + j) x

/-! ## Reload (R424) -/

/-- Does a cold slot pass the check against the directory and the CMAC, and its key the unwrap? -/
def reloadOk (s : State) (i : Nat) (slot : List Word) (macSt keySt : Nat) : Bool :=
  let w := fun j => slot.getD j emptyW
  let e := sessOf s i
  wtag (w 0) = .nat && pay (w 0) == i + 2 ^ 20 * e.gen && wtag (w 1) = .nat && bits (pay (w 1)) 0 16 == e.cver &&
    wtag (w 2) = .nat && cipherOk macSt && cipherOk keySt
/-- The context that a cold slot holds, with the key that the unwrap gave. -/
def reloadWords (slot : List Word) (key : Payload) : List Word :=
  mkW .keyref key.toNat :: (List.range 7).map fun j =>
    BitVec.ofNat 40 (bits (pay (slot.getD 2 emptyW)) (4 * j) 4 * 2 ^ 36 + pay (slot.getD (3 + j) emptyW))
/-- Every entry that names the failed session and waits or is in work ends with BADCTX. -/
def failEntries (s : State) (i : Nat) : State :=
  let mine := fun e : Entry => handleIdx e.handle == i && (sessOf s i).gen == handleGen e.handle &&
    (decide (e.st = EntrySt.taken) || decide (e.st = EntrySt.held) || decide (e.st = EntrySt.waiting)) &&
    [3, 4, 7].contains (pay (e.words.getD 0 emptyW) % 256)
  let gone := s.entries.filter mine
  let hit := fun q n => gone.any fun e => e.q == q && e.seq == n
  let s := gone.foldl (fun s e => entryDone s e 0x13 e.handle (natW 0)) s
  let s := { s with waits := s.waits.filter fun x => !hit x.q x.seq }
  (List.range 32).foldl (fun s c => match (coreOf s c).workRun with
    | some w => if hit w.q w.seq then heldStart (modCore s c workClear) c else s
    | none => s) s
/-- A reload of session `i` by core `c`: hot again, or failed with its record (R424). -/
def reloadDo (s : State) (c i : Nat) (slot : List Word) (macSt keySt : Nat) (key : Payload) : State :=
  let e := sessOf s i
  if !(e.opened && !e.failed && e.way.isNone && coldOk s && setTakes s true i) then s
  else match e.cold with
    | none => s
    | some n =>
      let s := bufRead s (configOf s 1) (poolBase s + 1024 * n) slot.length
      let s := dispCipher s c 10 macSt
      let s := if cipherOk macSt then dispCipher s c 1 keySt else s
      if reloadOk s i slot macSt keySt then
        let s := makeWay s i
        match freeWay s i with
        | none => s
        | some w =>
          let s := memPutAll s ((List.range 8).map fun j => (hotAddr i w + j, (reloadWords slot key).getD j emptyW))
          sessTouch (sessPut s i { sessOf s i with way := some w }) i
      else
        let s := sessPut s i { e with failed := true }
        let s := (sessRec s c 0x026 (mkW .session (i + 2 ^ 20 * e.gen)) (natW 0) 0).2
        failEntries s i

end Sys2Proof.Machine
end

