-- ==== Sys2Proof/Machine/OpRows.lean ====
section
/-! DEFINITION. The device opcodes and the gates of the ROM (R415 to R429), and the shim verifier (R103 to R109). A row
names the core whose dispatcher works on the entry; it changes nothing when that core works on no such entry. Where an
entry breaks several conditions, the model checks privilege, parameters, session, buffer, cipher and ledger in this order
(DESIGN CHOICE, log entry 24). -/

namespace Sys2Proof.Machine

/-- NOP_ENTRY (R415). -/
def execNopEntry (c : CoreId) (s : State) : Host.Outcome State Fault Refusal :=
  .next (match workOf s c.val (· == 0) with
    | none => s
    | some w => workEnd s c.val w 0 0)

/-! ## Sessions -/

/-- SESSION_OPEN with the engine's answer to the unwrap (R421, R425, R474, R477). -/
def sessionOpenDo (s : State) (c : Nat) (w : Work) (st : Nat) (key : Payload) : State :=
  if modeBit s 7 then workEnd s c w 0x0D 5
  else if sessRefused s then workEnd s c w 0x10 0
  else if !((w.len == 24 || w.len == 40) && w.bufOk s (byteWords w.len)) then workEnd s c w 0x0B 0
  else match bufFault s w.win false with
    | some r => workEnd s c w 0x0C r
    | none =>
      match findHome s with
      | none => workEnd s c w 5 0
      | some (i, cold) =>
        let st := cipherSt s st
        let t := dispCipher (bufRead s w.win w.idx (byteWords w.len)) c 1 st
        if !cipherOk st then workEnd t c w 0x0D st
        else match workRec t c w 0x020 (handleOf s i) 0 with
          | none => workEnd t c w 0x10 0
          | some t =>
            let t := sessOpenAt t i cold [mkW .keyref key.toNat, w.at 5, w.at 6, w.at 7]
            workDone t c w 0 (handleOf s i) (natW cold.isNone.toNat)
/-- SESSION_OPEN (R425). -/
def execSessionOpen (c : CoreId) (st : BitVec 3) (key : Payload) (s : State) : Host.Outcome State Fault Refusal :=
  .next (match workOf s c.val (· == 1) with
    | none => s
    | some w => sessionOpenDo s c.val w st.toNat key)
/-- CONTEXT_RELOAD (R424): the dispatcher of core `c` reloads session `idx`. -/
def execContextReload (c : CoreId) (idx : BitVec 20) (slot : List Word) (macSt keySt : BitVec 3) (key : Payload) (s : State) :
    Host.Outcome State Fault Refusal :=
  .next (if coreState s c.val = 0 then reloadDo s c.val idx.toNat slot macSt.toNat keySt.toNat key else s)
/-- SESSION_CLOSE of a session that is not busy (R426). -/
def sessionCloseDo (s : State) (c : Nat) (w : Work) : State :=
  match workRec s c w 0x021 w.handle 0 with
  | none => workEnd s c w 0x10 0
  | some s => workEnd (sessCloseAt s (handleIdx w.handle)) c w 0 0
/-- SESSION_CLOSE (R426): a failed session accepts it. -/
def execSessionClose (c : CoreId) (s : State) : Host.Outcome State Fault Refusal :=
  .next (match workOf s c.val (· == 2) with
    | none => s
    | some w =>
      if !handleNamed s w.handle then workEnd s c.val w 4 0
      else if sessBusy s w.handle then workHold s c.val w
      else sessionCloseDo s c.val w)

/-! ## SEND, POST_RECV, MEASURE, ACTUATE -/

/-- Does port `p` carry images: CAN FD, 10BASE-T1S or a chain port (R336, R385)? -/
def imagePort (p : Nat) : Bool := p < 6 || p == 10 || p == 11
/-- Is port `p` usable as the host die knows it: paired, enabled in the shadow, not bus-off (R416, NOLINK)? -/
def portUsable (s : State) (p : Nat) : Bool :=
  imagePort p && dvPaired s && ioB s (aSHADOW (fPORTCFG p)) 0 && !(tabGet Port.reset s.field.ports p).busOff
/-- The lengths of CAN FD data. -/
def canLen (n : Nat) : Bool := n ≤ 8 || [12, 16, 20, 24, 32, 48, 64].contains n
/-- Is the length of a message one that the port's image can carry (R385)? -/
def imageLenOk (p n : Nat) : Bool := if p < 4 then canLen n else decide (14 ≤ n + 6) && decide (n + 6 ≤ 1514)
/-- The bytes that go before a message of session `i` on port `p` (R385, R421): the identifier word of CAN FD, whose FDF
and BRS no rule gives (free values, FDF where the length needs it), or the destination address of an Ethernet frame. -/
def imageHead (s : State) (p lo hi n : Nat) : List Byte :=
  if p < 4 then
    let free := freeVal s % 4
    let fd := if 8 < n then setBits free 0 1 1 else free
    let x := lo % 2 ^ 30 + fd * 2 ^ 30
    (List.range 4).map fun i => BitVec.ofNat 8 (x / 2 ^ (8 * (3 - i)))
  else
    let x := lo % 2 ^ 36 + hi % 2 ^ 12 * 2 ^ 36
    (List.range 6).map fun i => BitVec.ofNat 8 (x / 2 ^ (8 * (5 - i)))
/-- What goes on the bus: the engine's output, or for a CMAC the message and then the tag (R421). -/
def sendBytes (func tagLen : Nat) (msg out : List Byte) : List Byte :=
  if func = 9 then msg.take (msg.length - tagLen) ++ out.drop (msg.length - tagLen) else out
/-- The image is written to the transmit bank at an offset that the ROM chooses (a free value, log entry 5), and fsend
hands it to DH (R385). -/
def sendImage (s : State) (c p : Nat) (img : List Byte) (off : Nat) : State :=
  let b := ioF s aDVBANK 0 5
  let ws := wordsOf img
  let s := if dvBankOk s b then
      memPutAll s ((List.range ws.length).map fun i => (b * 0x10000 + (off + i) % 0x10000, ws.getD i emptyW)) else s
  coreSend s c ⟨0x40 + p, natW (16 * img.length), natW off⟩
/-- SEND of a message of a hot session that is not busy (R417). -/
def sendDo (s : State) (c : Nat) (w : Work) (msg : List Byte) (st : Nat) (out : List Byte) : State :=
  let i := handleIdx w.handle
  let attr := pay (hotWord s i 1)
  let p := bits attr 0 4
  let func := bits attr 4 4
  let tagLen := bits attr 8 5
  if !(w.bufOk s (byteWords w.len) && decide (tagLen ≤ w.len) && (!imagePort p || imageLenOk p w.len)) then workEnd s c w 0x0B 0
  else if !portUsable s p then workEnd s c w 0x11 0
  else match bufFault s w.win false with
    | some r => workEnd s c w 0x0C r
    | none =>
      let st := cipherSt s st
      let t := dispCipher (bufRead s w.win w.idx (byteWords w.len)) c func st
      if !cipherOk st then workEnd t c w 0x0D st
      else match workRec t c w 0x022 w.handle w.len with
        | none => workEnd t c w 0x10 0
        | some t =>
          let lo := if w.p 5 = 0 then pay (hotWord s i 2) else w.p 5
          let head := imageHead t p lo (pay (hotWord s i 3)) w.len
          let t := bump t
          let off := freeVal t % 0x10000
          let t := bump t
          let ctr := pay (hotWord s i 4)
          let t := hotPut t i 4 (natW (setBits ctr 0 18 (ctr + 1)))
          let img := head ++ sendBytes func tagLen msg out
          let t := workWait (sessTake (sessTouch t i) i c) c w (some ⟨0x40 + p, natW (16 * img.length), natW off⟩) w.len
          sendImage t c p img off
/-- SEND (R417): the message that stood in the buffer and the engine's status and output. A cold session is reloaded
first, a full send queue waited for. -/
def execSend (c : CoreId) (msg : List Byte) (st : BitVec 3) (cipherText : List Byte) (s : State) :
    Host.Outcome State Fault Refusal :=
  .next (match workOf s c.val (· == 3) with
    | none => s
    | some w =>
      match sessBad s w.handle with
      | some b => workEnd s c.val w b 0
      | none =>
        if modeBit s 7 then workEnd s c.val w 0x0D 5
        else if sessBusy s w.handle then workHold s c.val w
        else if (sessOf s (handleIdx w.handle)).way.isNone || sendFull s c.val || msg.length != w.len ||
            cipherText.length != w.len then s
        else sendDo s c.val w msg st.toNat cipherText)
/-- POST_RECV starts to wait (R415). -/
def postRecvStart (s : State) (c : Nat) (w : Work) : State :=
  match sessBad s w.handle with
  | some b => workEnd s c w b 0
  | none =>
    if modeBit s 7 then workEnd s c w 0x0D 5
    else if sessBusy s w.handle then workHold s c w
    else if !w.bufOk s (byteWords w.len) then workEnd s c w 0x0B 0
    else heldStart (modCore (workWait s c w none 0) c workClear) c
/-- A verified message for the session of a waiting POST_RECV: recorded, written into the buffer (R415, R417). -/
def postRecvDone (s : State) (c : Nat) (x : Waiter) (msg : List Byte) : State :=
  let w := x.work
  let i := handleIdx w.handle
  match sessBad s w.handle with
  | some b => waitDone s x b (natW 0)
  | none =>
    if sessBusy s w.handle || (sessOf s i).way.isNone then s
    else if w.len < msg.length then waitDone s x 0x0B (natW 0)
    else match bufFault s w.win true with
      | some r => waitDone s x 0x0C (natW r)
      | none => match workRec s c w 0x023 w.handle msg.length with
        | none => waitDone s x 0x10 (natW 0)
        | some s =>
          let ctr := pay (hotWord s i 4)
          let s := hotPut s i 4 (natW (setBits ctr 18 18 (ctr / 2 ^ 18 + 1)))
          waitDone (bufWrite s w.win w.idx (wordsOf msg)) x 0 (natW msg.length)
/-- POST_RECV (R415): the entry in work starts to wait, and a message, when there is one, goes to the oldest POST_RECV
that waits with core `c`. -/
def execPostRecv (c : CoreId) (msg : Option (List Byte)) (s : State) : Host.Outcome State Fault Refusal :=
  let s := match workOf s c.val (· == 4) with
    | none => s
    | some w => postRecvStart s c.val w
  .next (match msg, waitFind s c.val 4 with
    | some m, some x => postRecvDone s c.val x m
    | _, _ => s)
/-- Samples that a MEASURE asks for. -/
def Work.samples (w : Work) : Nat := bits (w.p 5) 8 16
/-- MEASURE starts to wait: n from 1 on, a buffer of 2 n words (R415). -/
def measureStart (s : State) (c : Nat) (w : Work) : State :=
  if w.samples = 0 then workEnd s c w 1 0
  else if !(decide (2 * w.samples ≤ w.len) && w.bufOk s (2 * w.samples)) then workEnd s c w 0x0B 0
  else heldStart (modCore (workWait s c w none 0) c workClear) c
/-- Samples for a waiting MEASURE: written in pairs of MEAS and TIME; the n-th one ends it. -/
def measureMore (s : State) (x : Waiter) (l : List (Word × Word)) : State :=
  let w := x.work
  let l := l.take (w.samples - x.count)
  match bufFault s w.win true with
  | some r => waitDone s x 0x0C (natW r)
  | none =>
    let s := bufWrite s w.win (w.idx + 2 * x.count) (l.flatMap fun p => [p.1, p.2])
    let x' := { x with count := x.count + l.length }
    let s := { s with waits := s.waits.map fun y => if y = x then x' else y }
    if x'.count = w.samples then waitDone s x' 0 (natW x'.count) else s
/-- MEASURE (R415): the entry in work starts to wait, and samples go to the oldest MEASURE that waits with core `c`. -/
def execMeasure (c : CoreId) (samples : List (Word × Word)) (s : State) : Host.Outcome State Fault Refusal :=
  let s := match workOf s c.val (· == 5) with
    | none => s
    | some w => measureStart s c.val w
  .next (match waitFind s c.val 5 with
    | some x => if samples.isEmpty then s else measureMore s x samples
    | none => s)
/-- The CMD-OUT of an ACTUATE: FORM 0 or 1 with levels and mask (R384, R415). -/
def actuateMsg (w : Work) : Msg :=
  ⟨0x10, natW (w.p 6 % 2 ^ 32), natW (w.p 5 % 2 ^ 32 + bits (w.p 7) 0 1 * 2 ^ 33)⟩
/-- ACTUATE (R417): it ends when DF has acknowledged the CMD-OUT. -/
def execActuate (c : CoreId) (s : State) : Host.Outcome State Fault Refusal :=
  .next (match workOf s c.val (· == 6) with
    | none => s
    | some w =>
      if !dvPaired s then workEnd s c.val w 0x11 0
      else if sendFull s c.val then s
      else match workRec s c.val w 0x024 w.handle (w.p 5 % 2 ^ 32) with
        | none => workEnd s c.val w 0x10 0
        | some s => coreSend (workWait s c.val w (some (actuateMsg w)) 0) c.val (actuateMsg w))

/-! ## Microcode entries (R419) -/

/-- The registered ring-1 target of entry `op`. -/
def entryTarget (s : State) (op : Nat) : Option Link :=
  let w := ioGet s (aENTRY op)
  let l : Link := BitVec.ofNat 20 (pay w)
  if op < 16 || 256 ≤ op || wtag w ≠ .link || lineAbsent (lineOf l) || lineRing s (lineOf l) ≠ 1 then none else some l
/-- Is the core at a microword boundary, or waiting in its wfe, with a window free for callw? -/
def handlerReady (s : State) (c : Nat) : Bool :=
  let k := coreOf s c
  (k.mw.isEmpty || decide (k.wait = .wfe)) && decide (k.live < 15)
/-- The handler is entered: w0 to w7 in o0 to o7, a new window, ring 1, TARGET (R419). -/
def handlerEnter (s : State) (c : Nat) (w : Work) (t : Link) (invoke : Bool) : State :=
  let s := modCore s c fun k =>
    let k := { k with home := some ⟨k.mpc, k.cur, k.live, k.mw, k.slots, k.wait⟩ }
    let k := (List.range 8).foldl (fun k i => regPut k k.cur (24 + i) (w.at i)) k
    { k with
      cur := (k.cur + 1) % 16
      live := k.live + 1
      mw := []
      slots := 0
      wait := .none }
  let s := if invoke then ctxswDo s c w.handle else s
  modCore s c fun k => { k with ring := 1, mpc := t }
/-- INVOKE (R419). -/
def invokeDo (s : State) (c : Nat) (w : Work) : State :=
  match entryTarget s (w.p 5 % 256) with
  | none => workEnd s c w 0x0E 0
  | some t =>
    match workRec s c w 0x025 w.handle (w.p 5 % 256) with
    | none => workEnd s c w 0x10 0
    | some s => handlerEnter (sessTake s (handleIdx w.handle) c) c w t true
/-- INVOKE (R419): a cold session is reloaded first. -/
def execInvoke (c : CoreId) (s : State) : Host.Outcome State Fault Refusal :=
  .next (match workOf s c.val (· == 7) with
    | none => s
    | some w =>
      match sessBad s w.handle with
      | some b => workEnd s c.val w b 0
      | none =>
        if modeBit s 7 then workEnd s c.val w 0x0D 5
        else if sessBusy s w.handle then workHold s c.val w
        else if (sessOf s (handleIdx w.handle)).way.isNone || !handlerReady s c.val then s
        else invokeDo s c.val w)
/-- MICROCODE_ENTRY (R419): opcodes 0x10 to 0xFF. -/
def execMicrocodeEntry (c : CoreId) (s : State) : Host.Outcome State Fault Refusal :=
  .next (match workOf s c.val (fun o => decide (16 ≤ o)) with
    | none => s
    | some w =>
      if !handlerReady s c.val then s
      else match entryTarget s w.op with
        | none => workEnd s c.val w 0x0E 0
        | some t => match workRec s c.val w 0x025 w.handle w.op with
          | none => workEnd s c.val w 0x10 0
          | some s => handlerEnter s c.val w t false)

/-! ## LEDGER_READ, TIME, CONFIG, MODE_REQUEST, ABORT -/

/-- The records in the spool with a sequence from `a` to `a + n - 1`. -/
def recsFrom (s : State) (a n : Nat) : List LRec :=
  s.ledger.recs.filter fun r => match r.seq with
    | some q => decide (a ≤ q) && decide (q < a + n)
    | none => false
/-- The 32 words of a record's slot. -/
def slotWords (r : LRec) : List Word := (List.range 32).map fun i => r.words.getD i emptyW
/-- LEDGER_READ (R460). -/
def execLedgerRead (c : CoreId) (s : State) : Host.Outcome State Fault Refusal :=
  .next (match workOf s c.val (· == 8) with
    | none => s
    | some w =>
      if !(decide (32 * w.p 6 ≤ w.len) && w.bufOk s (32 * w.p 6)) then workEnd s c.val w 0x0B 0
      else match bufFault s w.win true with
        | some r => workEnd s c.val w 0x0C r
        | none =>
          let l := recsFrom s (w.p 5) (w.p 6)
          workEnd (bufWrite s w.win w.idx (l.flatMap slotWords)) c.val w 0 l.length)
/-- The end of TIME: TB0 and TB1 captured and written when LEN is 4 or more, RESULT the low half of TB0 (R415). -/
def timeEnd (s : State) (c : Nat) (w : Work) : State :=
  if w.len < 4 then workDone s c w 0 w.handle (mkW .time (tbLo s 0))
  else if !w.bufOk s 4 then workEnd s c w 0x0B 0
  else match bufFault s w.win true with
    | some r => workEnd s c w 0x0C r
    | none =>
      let ws := [mkW .time (tbLo s 0), mkW .wide (tbHi s 0), mkW .time (tbLo s 1), mkW .wide (tbHi s 1)]
      workDone (bufWrite (captureDo s c 3) w.win w.idx ws) c w 0 w.handle (mkW .time (tbLo s 0))
/-- TIME (R415) without a set. -/
def execTimeEntry (c : CoreId) (s : State) : Host.Outcome State Fault Refusal :=
  .next (match workOf s c.val (· == 0xB) with
    | none => s
    | some w => if bitAt (w.p 5) 0 then s else timeEnd s c.val w)
/-- TIME_SET (R307, R415): TIME with P0 [0] = 1. -/
def execTimeSet (c : CoreId) (s : State) : Host.Outcome State Fault Refusal :=
  .next (match workOf s c.val (· == 0xB) with
    | none => s
    | some w =>
      if !bitAt (w.p 5) 0 then s
      else if !w.admin s then workEnd s c.val w 6 0
      else
        let ok := decide (tbGet s 0 ≤ w.p 6 * 2 ^ 36 + w.p 7)
        let s := tbSet (ioPut s (aTB 0 + 5) (mkW .time (w.p 7))) 0 0 (w.p 6)
        if ok then timeEnd s c.val w else workEnd s c.val w 0x0F 0)
/-- CONFIG_READ (R427): the value of an item; POOLWIN reads its window. -/
def execConfigRead (c : CoreId) (s : State) : Host.Outcome State Fault Refusal :=
  .next (match workOf s c.val (· == 0xC) with
    | none => s
    | some w =>
      let i := w.p 5 % 256
      if bitAt (w.p 5) 8 then s
      else if !w.admin s then workEnd s c.val w 6 0
      else if i < 1 ∨ 4 < i then workEnd s c.val w 1 0
      else workEnd s c.val w 0 (configOf s i))
/-- May item `i` hold `v`? -/
def configOk (i v : Nat) : Bool :=
  if i = 1 then decide (v < 16) else if i = 2 then decide (v < 2 ^ 20) else if i = 3 then decide (v < 256)
  else if i = 4 then decide (1 ≤ v) && decide (v ≤ 60000) else false
/-- The item written. -/
def configPut (s : State) (i v base : Nat) : State :=
  let s := { s with config := tabSet (if i = 4 then 1000 else 0) s.config i v }
  if i = 1 then { s with config := tabSet 0 s.config 5 base } else s
/-- Would the write move the pool while a session holds a cold slot? -/
def poolMoves (s : State) (i v base : Nat) : Bool :=
  i == 1 && (v != configOf s 1 || base != poolBase s) && s.sess.any fun p => p.2.cold.isSome
/-- CONFIG_WRITE (R427). -/
def execConfigWrite (c : CoreId) (s : State) : Host.Outcome State Fault Refusal :=
  .next (match workOf s c.val (· == 0xC) with
    | none => s
    | some w =>
      let i := w.p 5 % 256
      if !bitAt (w.p 5) 8 then s
      else if !w.admin s then workEnd s c.val w 6 0
      else if !configOk i (w.p 6) then workEnd s c.val w 1 0
      else if poolMoves s i (w.p 6) (w.p 7) then workEnd s c.val w 0x0F 0
      else workEnd (configPut s i (w.p 6) (w.p 7)) c.val w 0 (w.p 6))
/-- MODE_REQUEST (R415, R464). -/
def execModeRequest (c : CoreId) (s : State) : Host.Outcome State Fault Refusal :=
  .next (match workOf s c.val (· == 0xD) with
    | none => s
    | some w =>
      let mask := bits (w.p 5) 8 8
      if !w.admin s && mask &&& 0x50 != mask then workEnd s c.val w 6 0
      else if mask &&& 0x5F != mask then workEnd s c.val w 0x0F 0
      else
        let s := modeRequestDo s (bits (w.p 5) 0 8) mask
        workEnd s c.val w 0 (modeNow s))
/-- ABORT (R418). -/
def execAbortEntry (c : CoreId) (s : State) : Host.Outcome State Fault Refusal :=
  .next (match workOf s c.val (· == 0xE) with
    | none => s
    | some w =>
      let q := w.p 5 % 256
      let n := bits (w.p 5) 8 16
      match entryOf s q n with
      | none => workEnd s c.val w 0xA 0
      | some e =>
        if e.st = .fetched ∨ e.st = .held then workEnd (entryDone s e 8 e.handle (natW 0)) c.val w 0 0
        else match s.waits.find? fun x => x.q == q && x.seq == n && (x.work.op == 4 || x.work.op == 5) with
          | some x => workEnd (waitDone s x 8 (natW x.count)) c.val w 0 0
          | none => workEnd s c.val w 9 0)

/-! ## Shims -/

/-- An image word as 40 bits. -/
def imgWord (im : List (BitVec 64)) (i : Nat) : Word := BitVec.ofNat 40 (im.getD i 0#64).toNat
/-- NLINES and NPATCH. -/
def shimLines (im : List (BitVec 64)) : Nat := pay (imgWord im 4)
/-- NPATCH. -/
def shimPatches (im : List (BitVec 64)) : Nat := pay (imgWord im 5)
/-- Is word `i` of the image a slot word, whose [39:36] are syllable bits? -/
def isSlotWord (im : List (BitVec 64)) (i : Nat) : Bool :=
  decide (6 ≤ i) && decide (i < 6 + 9 * shimLines im) && (i - 6) % 9 != 0
/-- The tag that R103 gives word `i`. -/
def shimTag (im : List (BitVec 64)) (i : Nat) : Tag :=
  if i = 0 ∨ 6 + 9 * shimLines im + shimPatches im ≤ i then .bits else .nat
/-- Check 1 of R104. -/
def shimFormOk (im : List (BitVec 64)) : Bool :=
  pay (imgWord im 0) == 0x05348494D && pay (imgWord im 1) == 1 && decide (shimLines im ≤ 4096) &&
  decide (shimPatches im ≤ 32) && im.length == 6 + 9 * shimLines im + shimPatches im + 4 &&
  decide (1 ≤ pay (imgWord im 2)) && decide (pay (imgWord im 2) < 2 ^ 24) &&
  (List.range im.length).all fun i =>
    decide ((im.getD i 0#64).toNat < 2 ^ 40) && (isSlotWord im i || wtag (imgWord im i) = shimTag im i)
/-- The line records: target line and eight syllables. -/
def shimRecs (im : List (BitVec 64)) : List (Nat × List (BitVec 40)) :=
  (List.range (shimLines im)).map fun k =>
    (pay (imgWord im (6 + 9 * k)), (List.range 8).map fun j => imgWord im (7 + 9 * k + j))
/-- The patch records: FROM and TO. -/
def shimPatchRecs (im : List (BitVec 64)) : List (Nat × Nat) :=
  (List.range (shimPatches im)).map fun k =>
    let p := pay (imgWord im (6 + 9 * shimLines im + k))
    (bits p 0 17, bits p 17 17)
/-- Check 5 of R104. -/
def shimPlacesOk (im : List (BitVec 64)) : Bool :=
  ((shimRecs im).all fun r => lineWritable r.1) && (shimPatchRecs im).all fun p => lineWritable p.2 || p.1 == p.2 && !lineAbsent p.1
/-- The last record of each FROM, in record order (R106). -/
def lastRecs : List (Nat × Nat) → List (Nat × Nat)
  | [] => []
  | p :: t => if t.any fun q => q.1 == p.1 then lastRecs t else p :: lastRecs t
/-- The valid patch entries, slot first: (slot, FROM, TO). -/
def patchTable (s : State) : List (Nat × Nat × Nat) :=
  ((List.range 32).filter fun i => ioB s (aCSPATCH i) 35).map fun i => (i, ioF s (aCSPATCH i) 0 17, ioF s (aCSPATCH i) 17 17)
/-- The table that one shim's records leave (R106): removals first, then each remaining record replaces its FROM's entry
or takes the lowest free one. -/
def patchApply (t : List (Nat × Nat × Nat)) (recs : List (Nat × Nat)) : List (Nat × Nat × Nat) :=
  let last := lastRecs recs
  let t := t.filter fun e => !(last.any fun p => p.1 == e.2.1 && p.2 == p.1)
  (last.filter fun p => p.1 != p.2).foldl (fun t p =>
    if t.any fun e => e.2.1 == p.1 then t.map fun e => if e.2.1 = p.1 then (e.1, p) else e
    else (lowestFree (t.length + 1) 0 (t.map (·.1)), p) :: t) t
/-- The refusal code of an image, 0 when every check passes (R104). -/
def shimCode (s : State) (im : List (BitVec 64)) (macOk : Bool) : Nat :=
  if !shimFormOk im then 7
  else if !macOk then 2
  else if !(decide (ioF s aSHIMMIN 0 24 ≤ pay (imgWord im 2)) && decide (ioF s aSHIMVER 0 24 < pay (imgWord im 2))) then 3
  else if pay (imgWord im 3) ≠ 0x100 then 4
  else if !shimPlacesOk im then 5
  else if 32 < (patchApply (patchTable s) (shimPatchRecs im)).length then 6
  else 0
/-- The copy of the image in bank 3 reads EMPTY:0 afterwards (R104). -/
def shimScrub (s : State) (n : Nat) : State :=
  { s with mem := s.mem.filter fun p => !(decide (0x30000 ≤ p.1) && decide (p.1 < 0x30000 + min n 0x10000)) }
/-- One line record written whole; the line's errors go with it. -/
def shimLine (s : State) (r : Nat × List (BitVec 40)) : State :=
  let s := (List.range 8).foldl (fun s j => csPut s (8 * r.1 + j) (r.2.getD j 0#40)) s
  { s with csBad := s.csBad.filter (· ≠ r.1), csSoft := s.csSoft.filter (· ≠ r.1) }
/-- A shim ends with `code`: LAST, the record (R109). -/
def shimEnd (s : State) (seq code : Nat) : State :=
  ledgEng (ioSetB (ioSetF s aSHIMSTAT 0 4 code) aSHIMSTAT 4 false) 0x010 [natW seq, natW code]
/-- SHIM_LOAD of an image with the status of the verify job (R104). -/
def shimLoadDo (s : State) (c : Nat) (w : Work) (im : List (BitVec 64)) (macSt : Nat) : State :=
  let keyed := cipherValid s && wtag (ioGet s aSHIMKEY) = .keyref
  let s := bufRead s w.win w.idx im.length
  let s := if shimFormOk im && keyed then cipherCount s c macSt else s
  let s := shimScrub s im.length
  let code := shimCode s im (keyed && cipherOk macSt)
  let seq := pay (imgWord im 2)
  if code = 0 then
    workWait { ioSetB ((shimRecs im).foldl shimLine s) aSHIMSTAT 4 true with shimBusy := some (shimPatchRecs im, seq) } c w none 0
  else
    workEnd (ioInc (shimEnd s seq code) aSHIMSTAT 8 8) c w 0x0F code
/-- SHIM_LOAD (R104): the image that stood in the buffer. -/
def execShimLoad (c : CoreId) (image : List (BitVec 64)) (macSt : BitVec 3) (s : State) : Host.Outcome State Fault Refusal :=
  .next (match workOf s c.val (· == 9) with
    | none => s
    | some w =>
      if !w.admin s then workEnd s c.val w 6 0
      else if modeBit s 7 then workEnd s c.val w 0x0F (ioF s aSHIMSTAT 0 4)
      else if !w.bufOk s w.len then workEnd s c.val w 0x0B 0
      else match bufFault s w.win false with
        | some r => workEnd s c.val w 0x0C r
        | none => if s.shimBusy.isSome || image.length != w.len || (waitFind s c.val 9).isSome then s
            else shimLoadDo s c.val w image macSt.toNat)
/-- The patch table written to CSPATCHn. -/
def patchPut (s : State) (t : List (Nat × Nat × Nat)) : State :=
  (List.range 32).foldl (fun s i =>
    match t.find? fun e => e.1 == i with
    | none => ioPut s (aCSPATCH i) (natW 0)
    | some e => ioPut s (aCSPATCH i) (natW (e.2.1 + e.2.2 * 2 ^ 17 + 2 ^ 35))) s
/-- After the first cut-over since reset, core 0 calls line 0x0200 in ring 0 (R487). -/
def setupHook (s : State) : State :=
  if s.hookDone || coreState s 0 != 0 then { s with hookDone := true }
  else
    let k := coreOf s 0
    modCore (rsPush { s with hookDone := true } 0 k.mpc) 0 fun k =>
      { k with
        mpc := BitVec.ofNat 20 (8 * 0x200)
        ring := 0
        mw := []
        slots := 0
        wait := .none }
/-- SHIM_CUT_OVER (R105). -/
def execShimCutOver (s : State) : Host.Outcome State Fault Refusal :=
  .next (match s.shimBusy with
    | none => s
    | some (recs, seq) =>
      let s := patchPut { s with shimBusy := none } (patchApply (patchTable s) recs)
      let n := satAt 255 (ioF s aSHIMVER 24 8 + 1)
      let s := ioPut s aSHIMVER (natW (seq + n * 2 ^ 24))
      let s := raise (shimEnd s seq 1) 600
      let s := setupHook s
      match s.waits.find? fun x => x.work.op == 9 with
      | none => s
      | some x => waitDone s x 0 (natW 1))

/-! ## Gates 253 to 255 (R428, R429) -/

/-- The frame of gate `n` on top of ring 0's trap stack, the core being at a boundary in ring 0. -/
def gateFrame (s : State) (c n : Nat) : Option (List Word) :=
  let k := coreOf s c
  if !(coreState s c == 0 && !k.halted && k.ring == 0 && k.mw.isEmpty && decide (k.wait = .none)) then none
  else match gretCheck s c with
    | .error _ => none
    | .ok ws => if bits (pay (ws.getD 1 emptyW)) 2 8 = n then some ws else none
/-- Register i`j` of core `c`. -/
def inReg (s : State) (c j : Nat) : Word := regGet (coreOf s c) (8 + j)
/-- The gate ends with `r` in i0 and returns to its caller. -/
def gateAnswer (s : State) (c : Nat) (ws : List Word) (r : Word) : State :=
  gretApply (modCore s c fun k => regPut k k.cur 8 r) c ws
/-- SESSOPEN with its operands checked: the session, its record and its KIND 2 report; the gate waits while the report
has no room. -/
def gateOpenDo (s : State) (c : Nat) (ws : List Word) : State :=
  match findHome s with
  | none => gateAnswer s c ws (natW 5)
  | some (i, cold) =>
    let h := handleOf s i
    let r := if modeBit s 2 then sessRec s c 0x020 h (natW 0) 0 else (true, s)
    if !r.1 then gateAnswer r.2 c ws (natW 0x10)
    else
      let t := sessOpenAt r.2 i cold ((List.range 4).map (inReg s c))
      match unsolSend t (configOf s 3) 2 h (natW (pay (inReg s c 1))) (natW (pay (inReg s c 2))) with
      | none => s
      | some t => gateAnswer t c ws h
/-- SESSOPEN (R428, R429). -/
def execGateSessOpen (c : CoreId) (s : State) : Host.Outcome State Fault Refusal :=
  .next (match gateFrame s c.val 253 with
    | none => s
    | some ws =>
      if !(decide (wtag (inReg s c.val 0) = .keyref) &&
          (List.range 3).all fun j => wtag (inReg s c.val (j + 1)) = .nat) then gateAnswer s c.val ws (natW 2)
      else if sessRefused s then gateAnswer s c.val ws (natW 0x10)
      else gateOpenDo s c.val ws)
/-- SESSHOT with its operands checked: an acquired session is hot and busy for the caller; the gate waits for a session
that another core has and for a reload. -/
def gateHotDo (s : State) (c : Nat) (ws : List Word) (h : Word) (acquire : Bool) : State :=
  let i := handleIdx h
  match sessBad s h with
  | some b => gateAnswer s c ws (natW b)
  | none =>
    let e := sessOf s i
    if acquire then
      (if e.way.isNone || (e.busy.isSome && e.busy != some c) then s
       else gateAnswer (sessTouch (sessTake s i c) i) c ws (natW 0))
    else gateAnswer (if e.busy = some c then sessIdle s i else s) c ws (natW 0)
/-- SESSHOT (R428). -/
def execGateSessHot (c : CoreId) (s : State) : Host.Outcome State Fault Refusal :=
  .next (match gateFrame s c.val 254 with
    | none => s
    | some ws =>
      if !(decide (wtag (inReg s c.val 0) = .session) && decide (wtag (inReg s c.val 1) = .nat)) then
        gateAnswer s c.val ws (natW 2)
      else gateHotDo s c.val ws (inReg s c.val 0) (bitAt (pay (inReg s c.val 1)) 0))
/-- The core back in its dispatcher: where it was when the handler was entered, or in the idle loop. -/
def homeReturn (c : Nat) (k : Core) : Core :=
  match k.home with
  | none => Core.idle c k
  | some h =>
    { k with
      home := none
      ring := 0
      mpc := h.mpc
      cur := h.cur % 16
      live := h.live
      mw := h.mw
      slots := h.slots
      wait := h.wait }
/-- DONE (R419): the context saved for INVOKE, the session free, back to the dispatcher, NOPOST without a completion. -/
def gateDoneDo (s : State) (c : Nat) (ws : List Word) : State :=
  let s := gretApply s c ws
  let run := (coreOf s c).workRun
  let s := match run with
    | some w => if w.op = 7 then ctxswDo s c (mkW .session 0) else s
    | none => s
  let s := modCore (sessFree s c) c (homeReturn c)
  let s := match run with
    | some w => (match entryOf s w.q w.seq with
      | some e => entryDone s e 0x14 w.handle (natW 0)
      | none => s)
    | none => s
  heldStart (modCore s c workClear) c
/-- DONE (R419, R428). -/
def execGateDone (c : CoreId) (s : State) : Host.Outcome State Fault Refusal :=
  .next (match gateFrame s c.val 255 with
    | none => s
    | some ws => gateDoneDo s c.val ws)

end Sys2Proof.Machine
end

