-- ==== Sys2Proof/Machine/LedgRows.lean ====
section
/-! DEFINITION. The ledger's own events (R450 to R457, R461): the end of a seal, anchoring, key rotation and proofs. -/

namespace Sys2Proof.Machine

/-- SEAL_DONE (R451): job 32 ends with status `st` and CMAC `mac`; KEYLOW ends a job done (R438). -/
def execSealDone (st : BitVec 3) (mac : BitVec 128) (s : State) : Host.Outcome State Fault Refusal :=
  .next (match jobOf s 32 with
    | none => s
    | some j =>
      if !j.atEng then s
      else sealEnd (jobDone s 32 j st.toNat) (cipherOk st.toNat && !j.fault) mac)

/-! ## Anchoring -/

/-- The field anchor mirror as the shadow holds it: valid, sequence, head, epoch (LANCHk). -/
def mirrorValid (s : State) : Bool := ioB s (aSHADOW (fLANCH 1)) 12
/-- Its sequence. -/
def mirrorSeq (s : State) : Nat := pay (ioGet s (aSHADOW (fLANCH 0))) + ioF s (aSHADOW (fLANCH 1)) 0 12 * 2 ^ 36
/-- Its head. -/
def mirrorHead (s : State) : BitVec 256 :=
  BitVec.ofNat 256 ((List.range 8).foldl (fun n i => n * 2 ^ 32 + ioF s (aSHADOW (fLANCH (2 + i))) 0 32) 0)
/-- Its epoch. -/
def mirrorEpoch (s : State) : Nat := ioF s (aSHADOW (fLANCH 10)) 0 12
/-- The OTP epoch as the shadow holds it. -/
def otpEpoch (s : State) : Nat := ioF s (aSHADOW fEPOCH) 0 12
/-- Where anchoring starts from: a reason to refuse, or the next sequence, the head, the sequence resumed from and the
source (R453, R448); `none` when no way applies. -/
def anchorWay (s : State) : Option (Except Nat (Nat × BitVec 256 × Nat × Nat)) :=
  if mirrorValid s ∧ mirrorEpoch s = otpEpoch s then some (.ok (mirrorSeq s + 1, mirrorHead s, mirrorSeq s, 1))
  else match s.ledger.anchorFrom with
    | some (q, h, src) =>
      if src = 3 then some (.ok (0, 0#256, 0, 3))
      else if mirrorValid s then some (.error 1) else some (.ok (q + 1, h, q, src))
    | none =>
      if mirrorValid s then some (.error 1)
      else if otpEpoch s = 0 then some (.ok (0, 0#256, 0, 0)) else none
/-- The handlers of LEDGER_RESUME and LEDGER_FRESH that wait end with RESULT `r`. -/
def anchorTell (s : State) (r : Nat) : State :=
  (s.waits.filter fun x => x.work.op == 0xA && (x.work.p 5 == 9 || x.work.p 5 == 10)).foldl
    (fun s x => waitDone s x 0 (natW (if x.work.p 5 = 10 then 0 else r))) s
/-- An ANCHORREF record with its reason (R453). -/
def anchorRefuse (s : State) (r : Nat) : State := ledgEng s 0x005 [natW r]
/-- Payload of the ANCHOR record (R448). -/
def anchorPayload (q : Nat) (h : BitVec 256) (src e n : Nat) : List Word :=
  [natW (q % 2 ^ 36), natW (q / 2 ^ 36 % 2 ^ 12), natW (packNat [(0, 2, src), (2, 12, e), (14, 14, n)])] ++ headWords h
/-- The provisional records chained in the order in which they were taken. -/
def chainAll : Nat → State → State
  | 0, s => s
  | f + 1, s => match s.ledger.recs.find? (fun r => r.seq.isNone) with
    | none => s
    | some r => chainAll f (recChain s r (ledgSeq s))
/-- The steps of R454 once the epoch is burned: ANCHOR, the provisional records, a checkpoint with the seal that the
engine gives, the drain. -/
def anchorDo (s : State) (next : Nat) (h : BitVec 256) (q src : Nat) (st : Nat) (mac : BitVec 128) : State :=
  let e := otpEpoch s
  let n := (s.ledger.recs.filter fun r => r.seq.isNone).length
  let s := ledgSeqPut (modLedger s fun l => { l with head := h, anchorFrom := none, drainOff := false, sealing := none }) next
  let s := ioPut (ioSetF s aLEDGSTAT 0 2 1) aLEDGEPOCH (natW (e + 1))
  let s := recNow s 0x002 (anchorPayload q h src e n)
  let s := chainAll (n + 1) s
  let s := cipherCount s 32 (cipherSt s st)
  let s := if cipherOk (cipherSt s st) then checkpointNow s mac else sealFail s
  anchorTell (readyUp s 47) 0
/-- ANCHORING (R453 to R456): with the dovetail paired, its shadow current and LEDGKEY set. The burn of EPOCH is sent to
DF; `burnt` is what came of it. -/
def execAnchoring (burnt : Bool) (st : BitVec 3) (mac : BitVec 128) (s : State) : Host.Outcome State Fault Refusal :=
  .next (if !(dvPaired s && !ioB s aDVSTAT 3 && ledgKeyed s && anch s == 0 && (spoolFree (spoolRoom s)).isSome) then s
    else if otpEpoch s = 4095 then
      anchorTell (anchorRefuse (ioSetF (modLedger s fun l => { l with anchorFrom := none }) aLEDGSTAT 0 2 2) 5) 5
    else match anchorWay s with
      | none => s
      | some (.error r) => anchorRefuse s r
      | some (.ok (next, h, q, src)) =>
        let s := dhCfg s fEPOCH (natW (otpEpoch s + 1))
        if burnt then anchorDo s next h q src st.toNat mac else s)

/-! ## Keys and proofs -/

/-- LEDGKEY_WRITE (R452): a write of LEDGKEY with the CMACs that the engine makes under the old and the new key. -/
def execLedgkeyWrite (c : CoreId) (w : Word) (macOld macNew : BitVec 128) (s : State) : Host.Outcome State Fault Refusal :=
  .next (busWriteWith s c.val aLEDGKEY w fun _ => .done (ledgKeyDo s w macOld macNew))
/-- LEDGPROVE (R461): a write of a SEAL to LEDGPROVE with the status and the CMAC of the engine's job. -/
def execLedgprove (c : CoreId) (w : Word) (st : BitVec 3) (mac : BitVec 128) (s : State) : Host.Outcome State Fault Refusal :=
  .next (busWriteWith s c.val 0x030008 w fun _ => .done (proveDo s c.val (coreOf s c.val).ring w st.toNat mac))

end Sys2Proof.Machine
end

