-- ==== Sys2Proof/Machine/Bringup.lean ====
section
/-! DEFINITION. Self-tests of cores and what follows them (R484, R498, R503), powering clusters off (R473), and the
bring-up of TM40-H after a cold reset or a deadman restart (R484 to R492). -/

namespace Sys2Proof.Machine

/-! ## Self-test -/

/-- Which self-test core `k` is in: 1 bring-up or power-on, 2 after a kerf, 3 RELEASE. A core whose cluster has power and
that is still off is in the first. -/
def testOf (s : State) (k : Nat) : Nat :=
  if (coreOf s k).test ≠ 0 then (coreOf s k).test
  else if coreState s k = 3 ∧ clusterOnNow s (k / 4) ∧ !s.islReset.contains (k / 4) ∧ s.alive then 1 else 0
/-- The ROM widens the masks of the ring sources as cores of DISPMASK report ready (R485). -/
def widenMasks (s : State) (k : Nat) : State :=
  if ioB s aDISPMASK k then (List.range 64).foldl (fun s g => ioSetB s (aSRCMASK (448 + g)) k true) s else s
/-- Core `k` starts in the ROM idle loop in ring 0 (R498): running, not a spare. -/
def idleStart (s : State) (k : Nat) : State :=
  let s := ioSetF s (priv k oCORESTAT) 0 4 0
  let m := fun v => mSet (mSet v 2 1 (bitAt (effCompat s) k).toNat) 3 1 (bitAt (effQuiet s) k).toNat
  let s := modCore s k fun co => { Core.idle k co with test := 0, mstat := m co.mstat }
  hubEval (widenMasks s k)
/-- Core `k` leaves the kerfed cores. -/
def leaveKerf (s : State) (k : Nat) : State := ioSetB s aKERFCORE k false
/-- The last self-test of core `k` (STFAIL). -/
def stfailPut (s : State) (k : Nat) (b : Bool) : State := ioSetB s (priv k oCORESTAT) 11 b
/-- A failed self-test: the core is kerfed, or stays so with KREASON 7. -/
def testFail (s : State) (k : Nat) : State :=
  let s := modCore s k fun co => { co with test := 0 }
  stfailPut (if coreState s k = 2 then ioSetF s (priv k oCORESTAT) 8 3 7 else kerf s k 7) k true
/-- A passed self-test of kind `t`. -/
def testPass (s : State) (k t : Nat) : State :=
  let s := stfailPut (leaveKerf (modCore s k fun co => { co with test := 0 }) k) k false
  if t = 3 then idleStart s k
  else if t = 2 then (if k % 4 = 0 ∧ k ≤ 4 ∧ k ≠ s.carrier then idleStart s k else parkHard s k true)
  else if readyBit s 3 && ioB s aDISPMASK k then idleStart s k else parkHard s k false
/-- The self-test of core `k` ends (R484, R498): its report, its cluster's, SKERF, the standby. -/
def selfTestEnd (s : State) (k : Nat) (pass : Bool) : State :=
  let t := testOf s k
  if t = 0 then s
  else
    let s := if pass then testPass s k t else testFail s k
    let s := if t = 1 then s else elWrite s 0x03 0 k 0 (!pass).toNat 0
    hubEval (standbyFollow (skerfFollow (clusterReport s (k / 4))))

/-! ## Clusters -/

/-- Is a core idle for R473: parked, kerfed or off, or in wfe with an empty claim stack and no offer? -/
def coreIdle (s : State) (c : Nat) : Bool :=
  let k := coreOf s c
  coreState s c != 0 || (decide (k.wait = .wfe) && k.claims.isEmpty && k.offer.isNone)
/-- Is every core of cluster `n` idle? -/
def clusterIdle (s : State) (n : Nat) : Bool := (clusterCores n).all (coreIdle s)
/-- Core `c` loses its power: reset, STATE 3. -/
def coreOff (s : State) (c : Nat) : State :=
  modCore (setCoreState (coreReset (storeDrainAll s c) c) c 3) c fun k => { k with test := 0 }
/-- Cluster `n` is powered off (R473). -/
def clusterDown (s : State) (n : Nat) : State :=
  let s := (clusterCores n).foldl coreOff s
  let s := ioSetB { s with clOff := n :: s.clOff.filter (· ≠ n) } aMODESTAT (1 + n) false
  let s := if n = 1 then lockSet s 1 false else s
  hubEval (standbyFollow (clusterReport s n))
/-- The cores of cluster `n` reset together and in self-test (R511). -/
def clusterResetDo (s : State) (n : Nat) : State :=
  let s := (clusterCores n).foldl (fun s c =>
    modCore (setCoreState (coreReset (storeDrainAll s c) c) c 3) c fun k => { k with test := 1 }) s
  let s := if n = 1 then lockSet s 1 false else s
  hubEval (standbyFollow (clusterReport s n))

/-! ## Bring-up -/

/-- The reset vector table (every vector names its ROM stub) and the gate descriptors of the dispatcher, policy NEW
(R231, R428, R553). The lines of the three gates are ROM content; 0x0202 to 0x0204 stand for them (log entry 18). -/
def romTables (s : State) : State :=
  let s := memPutAll s ((List.range 64).map fun c => (0xE000 + c, linkW (stubLink c)))
  memPutAll s ((List.range 3).flatMap fun i =>
    [(0xE400 + 2 * (253 + i), linkW (BitVec.ofNat 20 (8 * (0x202 + i)))),
     (0xE401 + 2 * (253 + i), natW (packNat [(2, 4, if i = 2 then 0xE else 2), (6, 2, 1), (8, 1, 1)]))])
/-- The hub sources that the ROM programs (R485). -/
def romSources (s : State) : State :=
  let disp := pay (ioGet s aDISPMASK)
  let ready := (List.range 32).foldl (fun m c => if bitAt disp c && coreState s c < 2 then setBits m c 1 1 else m) 0
  let s := (List.range 64).foldl (fun s g =>
    ioPut (ioSetF (ioSetF s (aSRCCFG (448 + g)) 0 4 8) (aSRCCFG (448 + g)) 5 2 1) (aSRCMASK (448 + g)) (bitsW ready)) s
  (List.range 128).foldl (fun s g =>
    ioPut (ioSetF (ioSetF s (aSRCCFG (512 + g)) 0 4 12) (aSRCCFG (512 + g)) 5 2 0) (aSRCMASK (512 + g)) (bitsW (2 ^ s.carrier))) s
/-- One core at bring-up: off without power, kerfed when its self-test fails, parked, or running as core 0 (R484). -/
def bootCore (failed : Nat) (s : State) (c : Nat) : State :=
  let s := setCore s c { Core.fresh with kerfTimes := (coreOf s c).kerfTimes }
  if s.islReset.contains (c / 4) then setCoreState s c 3
  else if bitAt failed c then stfailPut (kerf s c 7) c true
  else if c = 0 then s else parkHard s c false
/-- Banks 0 to 3 ready: contents EMPTY:0 unless MARCHBOOT keeps them (R277). -/
def bootBanks (s : State) : State := [0, 1, 2, 3].foldl wakeDone s
/-- ROM initialisation (R485) on the carrier: core 0, or the core that took over when core 0 failed its self-test. -/
def bootRom (s : State) : State :=
  if coreState s s.carrier > 1 then s
  else
    let s := romSources (romTables s)
    let s := readyUp s 3
    (bitList 32 (pay (ioGet s aDISPMASK))).foldl (fun s c => if coreState s c = 1 ∨ c = s.carrier then idleStart s c else s) s
/-- Bring-up from registers at their reset values to a running dispatcher (R484, R485). Banks 4 to 31, HL and the dovetail
report ready later, by their own commands. -/
def bringUp (s : State) (failed : Nat) : State :=
  let s := readyUp (readyUp s 0) 1
  let s := if s.islReset.contains 9 then s else bootBanks s
  let s := (List.range 32).foldl (bootCore failed) s
  let s := (List.range 8).foldl clusterReport s
  let s := if s.islReset.contains 9 then s else bootRom s
  hubEval (standbyFollow s)
/-- What TM40-H keeps of a state through its own reset: TM40-F, the pads and what has left the pair. -/
def hostReset (s : State) : State :=
  { State.reset with
    pending := s.pending
    fld := s.fld
    field := s.field
    df := s.df
    fresh := s.fresh
    svCycle := s.svCycle
    straps := s.straps
    islReset := s.islReset
    refLost := s.refLost
    vidLow := s.vidLow
    out := s.out }
/-- Islands whose supply must be in range at the release of COLDRST_N: C0, CS, DBA, SV, DH (R560). -/
def supplied (s : State) : Bool := !([0, 8, 9, 12, 13].any s.islReset.contains)
/-- Banks whose island has no supply stay off. -/
def bootOff (s : State) : State :=
  if s.islReset.contains 10 then (List.range 16).foldl (fun s i => bankStatePut s (16 + i) 1) s else s
/-- Release of COLDRST_N with the straps and the mask of cores that fail their self-test (R484, R563). -/
def coldReset (s : State) (straps failed : Nat) : State :=
  if !supplied s then s
  else bringUp (bootOff { hostReset s with straps := if straps = 3 then 0 else straps }) failed
/-- The CORESTAT history and the other counts since cold reset (R492, R530, CORESTAT, HWSTAT, RSTCAUSE, TAMPSTAT). -/
def deadmanKeep (s t : State) : State :=
  let t := (List.range 32).foldl (fun t c => ioSetF t (priv c oCORESTAT) 4 4 (ioF s (priv c oCORESTAT) 4 4)) t
  let t := ioSetF t aHWSTAT 2 8 (ioF s aHWSTAT 2 8)
  let t := ioPut t aRSTCAUSE (natW (1 + 256 * satAt 255 (ioF s aRSTCAUSE 8 8 + 1)))
  let t := ioPut t aTAMPSTAT (ioGet s aTAMPSTAT)
  let t := ioSetF t aDBGSTAT 6 6 (ioF s aDBGSTAT 6 6)
  let t := ioSetB t aMODECAUSE 5 (ioB s aMODECAUSE 5)
  ioSetF t aDEVMODE 8 8 (if modeBit s 7 then 0x80 * (ioF s aDEVMODE 15 1) else 0)
/-- The ROWMAP entries, in key order. -/
def rowmapKeep (s t : State) : State :=
  (s.io.filter fun p => decide (0x080400 ≤ p.1) && decide (p.1 < 0x080800)).foldl (fun t p => ioPut t p.1 p.2) t
/-- The error log, which only a cold reset clears (R500). -/
def errlogKeep (s t : State) : State :=
  (s.bar.filter fun p => p.1 == bELCOUNT || (decide (0x5100 ≤ p.1) && decide (p.1 < 0x6000))).foldl
    (fun t p => barPut t p.1 p.2.toNat) t
/-- A deadman restart (R492). -/
def deadmanDo (s : State) : State :=
  let t := hostReset s
  let t := { t with
    tb := s.tb
    mem := if s.straps = 1 then s.mem else []
    eccBad := if s.straps = 1 then s.eccBad else []
    eccSoft := if s.straps = 1 then s.eccSoft else [] }
  let t := errlogKeep s (rowmapKeep s (deadmanKeep s t))
  bringUp (bootOff (modeRun 6 (elWrite t 0x0F 0 0 0 1 0))) 0

end Sys2Proof.Machine
end

