-- ==== Sys2Proof/Machine/ServRows.lean ====
section
/-! DEFINITION. The actions of SERVICE (R511): each needs an admin ring and is refused under ALARM. -/

namespace Sys2Proof.Machine

/-- A SERVICE entry with action `a` in work on core `c`: refused, or handed to `f`. -/
def serviceDo (s : State) (c a : Nat) (f : Work → State) : State :=
  match workOf s c (· == 0xA) with
  | none => s
  | some w =>
    if w.p 5 ≠ a then s
    else if !w.admin s then workEnd s c w 6 0
    else if modeBit s 7 then workEnd s c w 0x0F 0
    else f w
/-- An entry that ended with its own core: HL completes it at RINGTO (R497). -/
def endOther (s : State) (c k : Nat) (w : Work) (r : Nat) : State := if c = k then s else workEnd s c w 0 r

/-- SERVICE_KERF (R511). -/
def execServiceKerf (c : CoreId) (s : State) : Host.Outcome State Fault Refusal :=
  .next (serviceDo s c.val 1 fun w =>
    if 32 ≤ w.p 6 then workEnd s c.val w 1 0 else endOther (kerf s (w.p 6) 6) c.val (w.p 6) w 0)
/-- SERVICE_RELEASE with the result of the self-test (R498). -/
def execServiceRelease (c : CoreId) (pass : Bool) (s : State) : Host.Outcome State Fault Refusal :=
  .next (serviceDo s c.val 2 fun w =>
    if 32 ≤ w.p 6 then workEnd s c.val w 1 0
    else
      let up := clusterOnNow s (w.p 6 / 4) && !s.islReset.contains (w.p 6 / 4)
      endOther (selfTestEnd (releaseDo s (w.p 6)) (w.p 6) pass) c.val (w.p 6) w (!(up && pass)).toNat)
/-- SERVICE_SPLICE (R180, R504): a splice that starts ends the entry when it has ended. -/
def execServiceSplice (c : CoreId) (s : State) : Host.Outcome State Fault Refusal :=
  .next (serviceDo s c.val 3 fun w =>
    if 32 ≤ w.p 6 ∨ 32 ≤ w.p 7 then workEnd s c.val w 1 0
    else
      let d := spliceAnswer s (w.p 6) (w.p 7)
      if d ≠ 0 then workEnd s c.val w 0 d
      else workWait (spliceStart s (w.p 6) (w.p 7) (some c.val)) c.val w none 0)
/-- SERVICE_MARCH (R278): the entry ends with the march; one that is refused ends at once. -/
def execServiceMarch (c : CoreId) (s : State) : Host.Outcome State Fault Refusal :=
  .next (serviceDo s c.val 4 fun w =>
    if 32 ≤ w.p 6 then workEnd s c.val w 1 0
    else
      let destr := !bitAt (w.p 7) 0
      let no := marchRefused s (w.p 6) destr
      let v := packNat [(0, 5, w.p 6), (5, 1, (!destr).toNat), (6, 1, ioF s aMARCHCTL 6 1), (7, 1, 1)]
      let s := marchctlDo s v
      if no then workEnd s c.val w 0 (pay (ioGet s aMARCHSTAT)) else workWait s c.val w none (w.p 6))
/-- ROWREPAIR (R281): the entry ends with the repair. -/
def execRowrepair (c : CoreId) (s : State) : Host.Outcome State Fault Refusal :=
  .next (serviceDo s c.val 5 fun w =>
    if s.repairing.isSome then s
    else
      let s := rpctlDo s (w.p 6 % 2 ^ 12 + 2 ^ 12)
      if s.repairing.isSome then workWait s c.val w none 0 else workEnd s c.val w 0 1)
/-- The ROWMAP entry of `b`, `w`, `k` as a buffer word (R511). -/
def rowmapWord (s : State) (b w k : Nat) : Option Word :=
  let a := aROWMAP b w k
  if ioB s a 8 then some (natW (packNat [(0, 5, b), (5, 2, w), (7, 3, k), (10, 8, ioF s a 0 8), (18, 2, ioF s a 9 2)])) else none
/-- Every valid ROWMAP entry. -/
def rowmapAll (s : State) : List Word :=
  (List.range 32).flatMap fun b => (List.range 4).flatMap fun w => (List.range 8).filterMap fun k => rowmapWord s b w k
/-- ROWMAP_SAVE (R511): into a buffer of 1,024 words. -/
def execRowmapSave (c : CoreId) (s : State) : Host.Outcome State Fault Refusal :=
  .next (serviceDo s c.val 6 fun w =>
    if !(decide (1024 ≤ w.len) && w.bufOk s 1024) then workEnd s c.val w 0x0B 0
    else match bufFault s w.win true with
      | some r => workEnd s c.val w 0x0C r
      | none => workEnd (bufWrite s w.win w.idx (rowmapAll s)) c.val w 0 (rowmapAll s).length)
/-- One entry restored (R509): a live repair in banks 0 to 3; in another bank the entry is written while the bank is off.
SRC 0. -/
def rowmapApply (s : State) (x : Word) : State :=
  let p := pay x
  let a := aROWMAP (bits p 0 5) (bits p 5 2) (bits p 7 3)
  ioPut s a (natW (bits p 10 8 + 256))
/-- The banks from 4 on that a list of entries names. -/
def rowmapBanks (l : List Word) : List Nat := (List.range 28).map (· + 4) |>.filter fun b => l.any fun x => bits (pay x) 0 5 == b
/-- A bank powered off, its entries written, and woken: it clears (R509). A bank already off stays off. -/
def rowmapCycle (s : State) (b : Nat) : State :=
  if bankState s b = 1 then s else bankStatePut (readyClear s (12 + b)) b 2
/-- ROWMAP_RESTORE with the words that stood in the buffer (R509): only NAT words, and only banks that are ready or off. -/
def execRowmapRestore (c : CoreId) (words : List Word) (s : State) : Host.Outcome State Fault Refusal :=
  .next (serviceDo s c.val 7 fun w =>
    if words.length ≠ w.len then s
    else if !w.bufOk s w.len then workEnd s c.val w 0x0B 0
    else match bufFault s w.win false with
      | some r => workEnd s c.val w 0x0C r
      | none =>
        let s := bufRead s w.win w.idx w.len
        let l := words.filter fun x => wtag x = .nat && decide (bankState s (bits (pay x) 0 5) < 2)
        workEnd ((rowmapBanks l).foldl rowmapCycle (l.foldl rowmapApply s)) c.val w 0 l.length)
/-- CHSWITCH (R331): a CMD-CFG of HWCHh with SEL; the entry ends when DF has answered with STATUS. -/
def execChswitch (c : CoreId) (s : State) : Host.Outcome State Fault Refusal :=
  .next (serviceDo s c.val 8 fun w =>
    if 8 ≤ w.p 6 ∨ 2 ≤ w.p 7 then workEnd s c.val w 1 0
    else if !dvPaired s then workEnd s c.val w 0x11 0
    else if sendFull s c.val then s
    else
      let f := fHWCH (w.p 6)
      let v := natW (setBits (pay (ioGet s (aSHADOW f))) 0 1 (w.p 7) &&& 7)
      coreSend (workWait s c.val w none f) c.val ⟨0x11, natW f, v⟩)
/-- Is the slot a CHECKPOINT record as the drain writes it (R446, R450)? -/
def isCheckpoint (slot : List Word) : Bool :=
  wtag (slot.getD 0 emptyW) = .nat && wtag (slot.getD 1 emptyW) = .nat && bits (pay (slot.getD 1 emptyW)) 12 10 == 1 &&
    (List.range 8).all fun i => wtag (slot.getD (6 + i) emptyW) = .bits
/-- The head that a CHECKPOINT record carries. -/
def slotHead (slot : List Word) : BitVec 256 :=
  BitVec.ofNat 256 ((List.range 8).foldl (fun n i => n * 2 ^ 32 + pay (slot.getD (6 + i) emptyW) % 2 ^ 32) 0)
/-- Its sequence. -/
def slotSeq (slot : List Word) : Nat := pay (slot.getD 0 emptyW) + bits (pay (slot.getD 1 emptyW)) 0 12 * 2 ^ 36
/-- Why a resume is refused: 2 seal, 3 epoch, 4 mirror valid; 0 when it is admitted (R453). -/
def resumeReason (s : State) (slot : List Word) (macSt : Nat) : Nat :=
  if !(isCheckpoint slot && cipherOk (cipherSt s macSt) && ledgKeyed s) then 2
  else if bits (pay (slot.getD 14 emptyW)) 0 12 ≠ otpEpoch s then 3
  else if mirrorValid s then 4 else 0
/-- LEDGER_RESUME with the record slot that stood in the buffer and the status of the verify job (R453): refused with a
reason, or waiting for the anchoring. -/
def execLedgerResume (c : CoreId) (slot : List Word) (macSt : BitVec 3) (s : State) : Host.Outcome State Fault Refusal :=
  .next (serviceDo s c.val 9 fun w =>
    if slot.length ≠ 32 then s
    else if !(decide (32 ≤ w.len) && w.bufOk s 32) then workEnd s c.val w 0x0B 0
    else if anch s ≠ 0 then workEnd s c.val w 0x0F 0
    else match bufFault s w.win false with
      | some r => workEnd s c.val w 0x0C r
      | none =>
        let s := cipherCount (bufRead s w.win w.idx 32) 32 (cipherSt s macSt.toNat)
        let r := resumeReason s slot macSt.toNat
        if r ≠ 0 then workEnd (anchorRefuse s r) c.val w 0 r
        else workWait (modLedger s fun l => { l with anchorFrom := some (slotSeq slot, slotHead slot, 2) }) c.val w none 0)
/-- LEDGER_FRESH (R453): waiting for the anchoring of a fresh chain. -/
def execLedgerFresh (c : CoreId) (s : State) : Host.Outcome State Fault Refusal :=
  .next (serviceDo s c.val 10 fun w =>
    if anch s ≠ 0 then workEnd s c.val w 0x0F 0
    else workWait (modLedger s fun l => { l with anchorFrom := some (0, 0#256, 3) }) c.val w none 0)
/-- CLUSTER_RESET (R511). -/
def execClusterReset (c : CoreId) (s : State) : Host.Outcome State Fault Refusal :=
  .next (serviceDo s c.val 11 fun w =>
    let n := w.p 6
    if 8 ≤ n then workEnd s c.val w 1 0
    else if n = s.carrier / 4 then workEnd s c.val w 0x0F 0
    else
      let t := if clusterOnNow s n && !s.islReset.contains n then clusterResetDo s n else s
      if c.val / 4 = n then t else workEnd t c.val w 0 0)

/-! ## Ends of what SERVICE waits for -/

/-- The SERVICE handlers with action `a` that wait for unit `n` end with RESULT `r`. -/
def serviceTell (s : State) (a n r : Nat) : State :=
  (s.waits.filter fun x => x.work.op == 0xA && x.work.p 5 == a && x.count == n).foldl (fun s x => waitDone s x 0 (natW r)) s

end Sys2Proof.Machine
end

