-- ==== Sys2Proof/Machine/BankRows.lean ====
section
/-! DEFINITION. Ownership, leases, power, marches and repair of banks as commands (R267 to R281). -/

namespace Sys2Proof.Machine

/-! ## Ownership and leases -/

/-- BANKOWN_WRITE (R269). -/
def execBankownWrite (c : CoreId) (n : Fin 32) (w : Word) (s : State) : Host.Outcome State Fault Refusal :=
  .next (busWrite s c.val (aBANKOWN n.val) w)
/-- OWNERSHIP_DRAIN_DONE (R271): every cluster has acknowledged the new record. -/
def execOwnershipDrainDone (n : Fin 32) (s : State) : Host.Outcome State Fault Refusal := .next (drainDone s n.val)
/-- SCRUB_DONE (R271). -/
def execScrubDone (n : Fin 32) (s : State) : Host.Outcome State Fault Refusal := .next (scrubEnd s n.val)
/-- LEASE_EXPIRY (R275). -/
def execLeaseExpiry (n : Fin 32) (s : State) : Host.Outcome State Fault Refusal := .next (clampDo s n.val)
/-- LEASE_NEAR_EXPIRY (R266, R267). -/
def execLeaseNearExpiry (n : Fin 32) (s : State) : Host.Outcome State Fault Refusal :=
  .next (if bankOwner s n.val = 0 ∨ s.nearLease.contains n.val then s
    else raise { s with nearLease := s.nearLease ++ [n.val] } (544 + n.val))
/-- May SV renew a lease of owner `o` (R268): HL, DH or the ledger engine, not in reset? -/
def autoOwner (s : State) (o : Nat) : Bool :=
  (o == 9 && !s.islReset.contains 11) || (o == 10 && !s.islReset.contains 13) || o == 11
/-- LEASE_AUTO_RENEW (R268). -/
def execLeaseAutoRenew (n : Fin 32) (s : State) : Host.Outcome State Fault Refusal :=
  .next (if autoOwner s (bankOwner s n.val) && !clamping s n.val then leaseStart s n.val else s)
/-- PART_WRITE (R274). -/
def execPartWrite (c : CoreId) (p : Fin 4) (w : Word) (s : State) : Host.Outcome State Fault Refusal :=
  .next (busWrite s c.val (aPART p.val) w)

/-! ## Power -/

/-- BANK_POWER_OFF (R276): a write of BANKPWR with bit `n` cleared. -/
def execBankPowerOff (c : CoreId) (n : Fin 32) (s : State) : Host.Outcome State Fault Refusal :=
  .next (busWrite s c.val aBANKPWR (bitsW (setBits (pay (ioGet s aBANKPWR)) n.val 1 0)))
/-- BANK_POWER_ON (R276): a write of BANKPWR with bit `n` set. -/
def execBankPowerOn (c : CoreId) (n : Fin 32) (s : State) : Host.Outcome State Fault Refusal :=
  .next (busWrite s c.val aBANKPWR (bitsW (setBits (pay (ioGet s aBANKPWR)) n.val 1 1)))
/-- BANK_WAKE_DONE (R276, R277). -/
def execBankWakeDone (n : Fin 32) (s : State) : Host.Outcome State Fault Refusal := .next (wakeDone s n.val)

/-! ## March and repair -/

/-- MARCH_GO (R278). -/
def execMarchGo (c : CoreId) (w : Word) (s : State) : Host.Outcome State Fault Refusal :=
  .next (busWrite s c.val aMARCHCTL (withBits w 0x80 0x100))
/-- MARCH_ABORT (R278): the other fields are written back. -/
def execMarchAbort (c : CoreId) (s : State) : Host.Outcome State Fault Refusal :=
  .next (busWrite s c.val aMARCHCTL (natW (ioF s aMARCHCTL 0 7 + 0x100)))
/-- The march that a bank runs while it wakes under MARCHBOOT 1 or 2 (R277): unrepaired rows leave it in STATE 3. -/
def wakeMarch (s : State) (n : Nat) (fails : List (Fin 4 × Fin 256)) : State :=
  if bankState s n = 2 ∧ (bankChgOf s n).isNone ∧ (s.straps = 1 ∨ s.straps = 2) then
    let spares := fun s : State =>
      ((List.range 4).flatMap fun w => (List.range 8).filter fun k => ioB s (aROWMAP n w k) 8).length
    let t := fails.foldl (marchRow n) s
    if spares t - spares s = fails.length then t
    else skerfFollow (bankEvent (bankStatePut t n 3) n 4)
  else s
/-- MARCH_DONE (R278, R277). -/
def execMarchDone (n : Fin 32) (fails : List (Fin 4 × Fin 256)) (s : State) : Host.Outcome State Fault Refusal :=
  .next (match s.marching with
    | some _ =>
      let t := marchEnd s n.val fails
      if t.marching.isNone then serviceTell t 4 n.val (pay (ioGet t aMARCHSTAT)) else t
    | none => wakeMarch s n.val fails)
/-- ROW_REPAIR (R281): a write of RPCTL with GO. -/
def execRowRepair (c : CoreId) (w : Word) (s : State) : Host.Outcome State Fault Refusal :=
  .next (busWrite s c.val aRPCTL (withBits w 0x1000 0))
/-- ROW_REPAIR_DONE (R281). -/
def execRowRepairDone (s : State) : Host.Outcome State Fault Refusal :=
  .next (if s.repairing.isSome then serviceTell (repairEnd s) 5 0 0 else s)

end Sys2Proof.Machine
end

