-- ==== Sys2Proof/Machine/ModeRows.lean ====
section
/-! DEFINITION. Events of the modes, of bring-up, kerfs and splices (R472 to R507). -/

namespace Sys2Proof.Machine

/-! ## Clusters and lockstep -/

/-- Is cluster `n` to be powered off once it is idle (R473)? -/
def clusterDue (s : State) (n : Nat) : Bool := clusterOnNow s n && !clusterKept s n && !s.islReset.contains n
/-- CLUSTER_POWER_DOWN (R473). -/
def execClusterPowerDown (n : Fin 8) (s : State) : Host.Outcome State Fault Refusal :=
  .next (if clusterDue s n.val && clusterIdle s n.val then clusterDown s n.val else s)
/-- THRIFT_POWER_DOWN_TIMEOUT (R473). -/
def execThriftPowerDownTimeout (n : Fin 8) (s : State) : Host.Outcome State Fault Refusal :=
  .next (if clusterDue s n.val && !clusterIdle s n.val then ioSetB s aMODESTAT (1 + n.val) true else s)
/-- LOCKSTEP_ENTRY (R472): a checker parked with resume kind 1 whose partner runs enters lockstep. It mirrors its partner
from then on; the model keeps no state of its own for it (log entry 25). -/
def execLockstepEntry (p : Fin 2) (s : State) : Host.Outcome State Fault Refusal :=
  .next (if modeBit s 2 && coreState s (4 * p.val) == 0 && ioF s (priv (4 * p.val + 1) oCORESTAT) 0 3 == 5 &&
      clusterOnNow s p.val then lockSet s p.val true else s)
/-- LOCKSTEP_FAILURE (R472, R501): both cores of the pair are kerfed. -/
def execLockstepFailure (p : Fin 2) (s : State) : Host.Outcome State Fault Refusal :=
  .next (if ioB s aMODESTAT (9 + p.val) then
    let s := elWrite s 0x0A p.val (4 * p.val) 0 (coreOf s (4 * p.val)).mpc.toNat 0
    kerf (kerf (lockSet s p.val false) (4 * p.val) 3) (4 * p.val + 1) 3
  else s)

/-! ## Reset -/

/-- COLD_RESET (R484): the straps sampled and the cores that fail their self-test. -/
def execColdReset (straps : BitVec 2) (failed : BitVec 32) (s : State) : Host.Outcome State Fault Refusal :=
  .next (coldReset s straps.toNat failed.toNat)
/-- DEADMAN_WARNING (R491, R501): NMI code 3 is pending in the active keeper carrier. -/
def execDeadmanWarning (s : State) : Host.Outcome State Fault Refusal :=
  .next (if s.alive then
    elWrite (modCore s s.carrier fun k => { k with pend := k.pend ++ [.nmi 3] }) 0x0F 0 s.carrier 0 0 0
  else s)
/-- DEADMAN_RESTART (R491, R492). -/
def execDeadmanRestart (s : State) : Host.Outcome State Fault Refusal := .next (if s.alive then deadmanDo s else s)

/-! ## Kerf and self-test -/

/-- KERFCTL_KERF (R496): a write of KERFCTL. -/
def execKerfctlKerf (c k : CoreId) (s : State) : Host.Outcome State Fault Refusal :=
  .next (busWrite s c.val 0x24 (natW (k.val + 32)))
/-- KERFCTL_RELEASE (R498): a write of KERFCTL. -/
def execKerfctlRelease (c k : CoreId) (s : State) : Host.Outcome State Fault Refusal :=
  .next (busWrite s c.val 0x24 (natW (k.val + 64)))
/-- Was core `k` kerfed for the third time within 1 s of TB1 (R498)? -/
def thirdKerf (s : State) (k : Nat) : Bool :=
  match (coreOf s k).kerfTimes.reverse with
  | a :: _ :: b :: _ => decide (a ≤ b + 10 ^ 9)
  | _ => false
/-- KERF_RESET (R498): the core is reset and tests itself, unless this was its third kerf within 1 s. -/
def execKerfReset (k : CoreId) (s : State) : Host.Outcome State Fault Refusal :=
  .next (if coreState s k.val = 2 ∧ (coreOf s k.val).test = 0 ∧ !thirdKerf s k.val then
    modCore (coreReset s k.val) k.val fun co => { co with test := 2 } else s)
/-- SELF_TEST_DONE (R484, R498). -/
def execSelfTestDone (k : CoreId) (pass : Bool) (s : State) : Host.Outcome State Fault Refusal :=
  .next (selfTestEnd s k.val pass)

/-! ## Splices -/

/-- Is core `a` at a stop point (R504)? -/
def stopPoint (s : State) (a : Nat) : Bool :=
  let k := coreOf s a
  coreRuns s a && asyncPlace k &&
    (if mQT k.mstat then (wordOf k).any (fun p => p.h.cls == 0 && p.h.op == 23)
     else k.wait == .none || k.wait == .wfe || k.wait == .waitt || (k.wait == .cwait && holdsCwait (wordOf k)))
/-- SPLICE_STOP (R504): core A stops; its buffered stores are performed. -/
def execSpliceStop (s : State) : Host.Outcome State Fault Refusal :=
  .next (match s.splice with
    | some (a, b, 0, r) => if stopPoint s a then { storeDrainAll s a with splice := some (a, b, 1, r) } else s
    | _ => s)
/-- The private registers that a splice moves whole: EVMASK, CMPMAP, WDOGCFG, RSDEPTH and the return stack (R505). -/
def splicePriv : List Nat := [oEVMASK, oCMPMAP, oCMPMAP + 1, oWDOGCFG, oRSDEPTH] ++ (List.range 16).map oRSENT
/-- They move, with THRESH.BASE and TRAPSTAT.RSVUSE. -/
def spliceRegs (s : State) (a b : Nat) : State :=
  let s := splicePriv.foldl (fun s o => ioPut s (priv b o) (ioGet s (priv a o))) s
  ioSetF (ioSetF s (priv b oTHRESH) 4 4 (ioF s (priv a oTHRESH) 4 4)) (priv b oTRAPSTAT) 0 3 (ioF s (priv a oTRAPSTAT) 0 3)
/-- Core B with what a splice moves from core A (R505): registers, control registers, claim stack, pinned lines; the
dispatcher's entry and pending causes go with them (DEDUCED, log entry 26). It keeps its queues, timebase copies and
buffered stores, and its predictor is flushed. -/
def spliceTo (ka kb : Core) : Core :=
  { ka with
    storeBuf := kb.storeBuf
    tbCopy := kb.tbCopy
    sendQ := kb.sendQ
    recvQ := kb.recvQ
    kerfTimes := kb.kerfTimes
    mw := []
    slots := 0
    wait := .none
    lngDone := false
    paced := false
    hostAcc := none
    offer := none
    pred := Pred.reset
    halted := false
    haltReq := false
    stepReq := false
    modeNew := none
    test := 0 }
/-- What stays in core A, which is parked. -/
def spliceFrom (ka : Core) : Core :=
  { ka with
    mw := []
    slots := 0
    wait := .none
    offer := none
    claims := []
    pinned := []
    pend := []
    ciphBusy := false
    workFull := false
    workRun := none
    compRing := none
    home := none }
/-- What core A holds elsewhere is core B's: cipher jobs, sessions, waiting handlers and entries. -/
def spliceHeld (s : State) (a b : Nat) : State :=
  { s with
    jobs := s.jobs.map fun p => if p.1 < 32 ∧ p.2.core = a then (p.1, { p.2 with core := b }) else p
    sess := s.sess.map fun p => if p.2.busy = some a then (p.1, { p.2 with busy := some b }) else p
    waits := s.waits.map fun w => if w.core = a then { w with core := b } else w
    entries := s.entries.map fun e => if e.core = some a then { e with core := some b } else e }
/-- The end of a splice (R505, R507): SPLSTAT, log entry 0x0B, SSPLICE, the requester told. -/
def spliceEnd (s : State) (a b : Nat) (req : Option Nat) (res why ns : Nat) : State :=
  let s := ioPut { s with splice := none } aSPLSTAT
    (natW (packNat [(1, 5, a), (6, 5, b), (11, 2, res), (13, 3, why), (16, 16, satAt 0xFFFF ns)]))
  let s := elWrite s 0x0B b a 0 (ioF s aSPLSTAT 0 16) 0
  let s := setCause s 4 false
  let s := match req with
    | some r => if coreState s r = 2 then s else sevCore s (if r = a ∧ res = 1 then b else r)
    | none => s
  serviceTell s 3 0 (if res = 1 then 0 else 4 + why)
/-- The move of a stopped splice (R505, R476). -/
def spliceMove (s : State) (a b : Nat) : State :=
  let s := lockBreak (lockBreak s a) b
  let s := spliceHeld (spliceRegs s a b) a b
  let ka := coreOf s a
  let s := setCore (setCore s b (spliceTo ka (coreOf s b))) a (spliceFrom ka)
  let s := moveBits s a b (workMasks s ++ [aCMASK, aQMASK])
  let s := if s.carrier = a then { s with carrier := b } else s
  let s := ioSetF (parkHard s a false) (priv b oCORESTAT) 0 4 0
  let s := [a, b].foldl (fun s c =>
    modCore s c (setMembership (bitAt (effCompat s) c) (bitAt (effQuiet s) c))) s
  hubEval (standbyFollow (clusterReport (clusterReport s (a / 4)) (b / 4)))
/-- SPLICE_COMPLETE (R505) after `ns` nanoseconds. -/
def execSpliceComplete (ns : BitVec 16) (s : State) : Host.Outcome State Fault Refusal :=
  .next (match s.splice with
    | some (a, b, 1, r) =>
      if ioF s (priv b oCORESTAT) 0 3 = 5 ∧ coreState s a = 0 then spliceEnd (spliceMove s a b) a b r 1 0 ns.toNat else s
    | _ => s)
/-- SPLICEPT is taken at the stop point, or pends until core A is at one (R507, R227). -/
def spliceptTake (s : State) (a b : Nat) : State :=
  if asyncOk s a && !asyncBefore s a 5 then
    asyncTrap (modCore s a fun k => { k with pend := k.pend.filter (· ≠ .splicept b) }) a (trp 0x18 (natW 0) (natW b)) none
  else if (coreOf s a).pend.contains (.splicept b) then s
  else modCore s a fun k => { k with pend := k.pend ++ [.splicept b] }
/-- A core that has a pending SPLICEPT. -/
def spliceptPend (s : State) : Option (Nat × Nat) :=
  (List.range 32).findSome? fun a => (coreOf s a).pend.findSome? fun p => match p with
    | .splicept b => some (a, b)
    | _ => none
/-- SPLICE_ABANDON (R507). With no splice running it is the place where a pending SPLICEPT is taken. -/
def execSpliceAbandon (why : BitVec 3) (s : State) : Host.Outcome State Fault Refusal :=
  .next (match s.splice with
    | some (a, b, st, r) =>
      if (why = 1#3 ∧ st = 0) ∨ ((why = 2#3 ∨ why = 3#3) ∧ st = 1) then
        let s := spliceEnd s a b r 2 why.toNat 0
        if coreState s a = 0 then spliceptTake s a b else s
      else s
    | none => match spliceptPend s with
      | some (a, b) => spliceptTake s a b
      | none => s)

end Sys2Proof.Machine
end

