-- ==== Sys2Proof/Machine/CiphRows.lean ====
section
/-! DEFINITION. The cipher engine's messages (R437, R441): the end and the timeout of jobs, reads, writes and the
capability word. -/

namespace Sys2Proof.Machine

/-- CIPHER_DONE (R437): the engine ends a core's job. -/
def execCipherDone (n : Fin 34) (st : BitVec 3) (s : State) : Host.Outcome State Fault Refusal :=
  if n.val < 32 ∧ st.toNat ≤ 5 then
    .next (match jobOf s n.val with
      | none => s
      | some j => if j.atEng then ciphWake (jobDone s n.val j st.toNat) j.core else s)
  else .fault .illFormed

/-! ## Timeout -/

/-- Job `n` ends FAULT with DETAIL 2, and the engine is told to abort it (R437). -/
def jobTimeout (s : State) (n : Nat) (j : Job) : State := jobEnd (emit s (.engAbort n)) n j 5 2

/-! ## Data -/

/-- The 29 bytes of the debug response's CMAC input (R526): the constant, the level, the device ID and the nonce. -/
def dbgInput (s : State) : List Byte :=
  let k := match s.dbg.asked with | some (k, _) => k | none => 0
  let be := fun (n w : Nat) => (List.range n).map fun i => BitVec.ofNat 8 (w / 2 ^ (8 * (n - 1 - i)))
  be 4 0x44424731 ++ be 1 k ++ be 8 Config.deviceId.toNat ++ be 16 s.dbg.chal.toNat
/-- The 16 bytes of a 128-bit value, most significant first. -/
def bytes128 (v : BitVec 128) : List Byte := (List.range 16).map fun i => BitVec.ofNat 8 (v.toNat / 2 ^ (8 * (15 - i)))
/-- What the engine reads for SV's own jobs: the words that a seal covers, the debug response's input and tag. -/
def svBytes (s : State) (n : Nat) (area : EngArea) : List Byte :=
  if n = 32 then
    (match s.ledger.sealing, area with
      | some (.checkpoint ws), .input => packBytes ws
      | _, _ => [])
  else match area with
    | .input => dbgInput s
    | .tag => bytes128 s.dbg.resp
    | _ => []
/-- A DATA message with bytes `off` to `off + k - 1` of `b`. -/
def engAnswer (s : State) (n off k : Nat) (b : List Byte) : State := emit s (.engData n ((b.drop off).take k))
/-- The engine reads an area of a core's job: the checks of R434 hold at every read. -/
def coreRead (s : State) (n : Nat) (j : Job) (area : EngArea) (off k : Nat) : State :=
  match readArea j area with
  | none => engAnswer s n off k (blockArea j area)
  | some (a, len) =>
    if !areaOk s j false a len then jobFail s n j 4
    else if !areaTags s a len then jobFail s n j 3
    else engAnswer s n off k (areaBytes s a len)
/-- ENGINE_READ (R441). -/
def execEngineRead (n : Fin 34) (area : EngArea) (off k : Nat) (s : State) : Host.Outcome State Fault Refusal :=
  .next (match jobOf s n.val with
    | none => s
    | some j =>
      if !j.atEng then s
      else if n.val < 32 then coreRead s n.val j area off k
      else engAnswer s n.val off k (svBytes s n.val area))

/-- Output bytes of a job (R434, R442): outside OUT DETAIL 7, outside banks that the ring may write DETAIL 4. -/
def outWrite (s : State) (n : Nat) (j : Job) (off : Nat) (b : List Byte) : State :=
  if outLimit s j < off + b.length then jobFail s n j 7
  else if !areaOk s j true j.outA (off + b.length) then jobFail s n j 4
  else areaWrite (jobPut s n { j with outN := max j.outN (off + b.length) }) j j.outA (b.length + 1) off b
/-- Tag bytes of a generating job into words 9 to 12. -/
def tagWrite (s : State) (n : Nat) (j : Job) (off : Nat) (b : List Byte) : State :=
  if (j.func = 5 ∨ j.func = 7 ∨ j.func = 9) ∧ off + b.length ≤ j.tagLen then
    (if areaOk s j true (j.block + 9) (off + b.length) then areaWrite s j (j.block + 9) (b.length + 1) off b
     else jobFail s n j 4)
  else jobFail s n j 7
/-- The KEYREF that function 1 produces, 5 bytes of its word (log entry 27), into word 4. -/
def keyWrite (s : State) (n : Nat) (j : Job) (off : Nat) (b : List Byte) : State :=
  if j.func = 1 ∧ off = 0 ∧ b.length = 5 then
    (if areaOk s j true (j.block + 4) 4 then
      portPut s j (j.block + 4) (mkW .keyref (((List.range 5).foldl (fun v i => v + (b.getD i 0#8).toNat * 2 ^ (8 * i)) 0)))
     else jobFail s n j 4)
  else jobFail s n j 7
/-- ENGINE_WRITE (R441): what lies outside the job's areas is discarded with DETAIL 7. -/
def execEngineWrite (n : Fin 34) (area : EngArea) (off : Nat) (b : List Byte) (s : State) :
    Host.Outcome State Fault Refusal :=
  .next (match jobOf s n.val with
    | none => s
    | some j =>
      if !j.atEng then s
      else match area with
        | .output => if n.val < 32 then outWrite s n.val j off b else s
        | .tag => if n.val < 32 then tagWrite s n.val j off b else s
        | .key => if n.val < 32 then keyWrite s n.val j off b else jobFail s n.val j 7
        | _ => jobFail s n.val j 7)

/-! ## Capability -/

/-- ENGINE_CAP (R441, R485): copied to CIPHCAP unless ring 0 has written it; the ROM then writes the boot key handles. -/
def execEngineCap (w : Payload) (s : State) : Host.Outcome State Fault Refusal :=
  .next (if !s.alive then s
    else
      let s := if s.locked.contains aCIPHCAP then s else lockWrite s aCIPHCAP (natW (w.toNat % 2 ^ 9))
      cipherUp s)

end Sys2Proof.Machine
end

