-- ==== Sys2Proof/Machine/PowerRows.lean ====
section
/-! DEFINITION. What the surroundings tell TM40-H about its lanes, clock and supplies (R510, R556 to R562), the sensors
and the veneer (R515 to R520), the adaptive loop of a cluster (R535, R536). -/

namespace Sys2Proof.Machine

/-! ## Lanes and reference clock -/

/-- UCIE_LANE_FAILURE (R510, R501): repaired onto a redundant lane, or the link goes down. -/
def execUcieLaneFailure (lane : BitVec 8) (spareLeft : Bool) (s : State) : Host.Outcome State Fault Refusal :=
  .next (if !hlUp s then s
    else if spareLeft then elWrite (ioInc s aHWSTAT 2 8) 0x0E lane.toNat 0 0 0 0
    else linkDown (elWrite s 0x0E lane.toNat 0 0 1 0))
/-- UCIE_LANE_REPAIR_TIMEOUT (R493): the link is retrained. -/
def execUcieLaneRepairTimeout (s : State) : Host.Outcome State Fault Refusal :=
  .next (if hlUp s then linkDown (emit s .retrain) else s)
/-- REFCLK_LOSS (R562): the link drops, source 604. -/
def execRefclkLoss (s : State) : Host.Outcome State Fault Refusal :=
  .next (if s.alive && !s.refLost then raise (linkDown { s with refLost := true }) 604 else s)
/-- REFCLK_RETURN (R562). -/
def execRefclkReturn (s : State) : Host.Outcome State Fault Refusal := .next { s with refLost := false }

/-! ## Power-good -/

/-- The islands whose fall holds TM40-H in cold reset: CS, SV, DH (R561). -/
def coldIsland (i : Nat) : Bool := i == 8 || i == 12 || i == 13
/-- Bank `n` loses its supply: off, not READY, its words lost. -/
def bankLose (s : State) (n : Nat) : State :=
  let s := memScrub (readyClear (bankStatePut s n 1) (12 + n)) n
  { s with
    bankChg := tabDel s.bankChg n
    marching := match s.marching with | some (m, d) => if m = n then none else some (m, d) | none => none
    repairing := match s.repairing with | some r => if r.1 = n then none else some r | none => none }
/-- The banks of island DBA or DBB. -/
def islandBanks (i : Nat) : List Nat := (List.range 16).map fun k => 16 * (i - 9) + k
/-- Cluster `n` loses its supply: its cores are reset and off. -/
def clusterLose (s : State) (n : Nat) : State :=
  let s := (clusterCores n).foldl (fun s c =>
    modCore (setCoreState (coreReset s c) c 3) c fun k => { k with storeBuf := [], test := 0 }) s
  let s := if n = 0 then lockSet s 0 false else if n = 1 then lockSet s 1 false else s
  standbyFollow (clusterReport s n)
/-- HL loses its supply: its BAR registers, rings and requests are reset; the error log stays (R500). -/
def hlLose (s : State) : State :=
  let s := flrDo (linkDown s)
  { s with
    bar := s.bar.filter fun p => p.1 == bELCOUNT || (decide (0x5100 ≤ p.1) && decide (p.1 < 0x6000))
    acQ := []
    msiSent := []
    rotor := [] }
/-- PG_N_FALL (R561): the island is held in reset, or all of TM40-H. -/
def execPgNFall (i : Fin 14) (s : State) : Host.Outcome State Fault Refusal :=
  .next (if s.islReset.contains i.val then s
    else
      let s := { s with islReset := i.val :: s.islReset }
      if !s.alive then s
      else if coldIsland i.val then { hostReset s with alive := false }
      else hubEval (if i.val < 8 then clusterLose s i.val
        else if i.val = 11 then hlLose s
        else (islandBanks i.val).foldl bankLose s))
/-- PG_N_RISE (R560): the island leaves its reset; its cores test themselves, its banks are cleared. -/
def execPgNRise (i : Fin 14) (s : State) : Host.Outcome State Fault Refusal :=
  .next (if !s.islReset.contains i.val then s
    else
      let s := { s with islReset := s.islReset.filter (· ≠ i.val) }
      if s.alive && (i.val == 9 || i.val == 10) then
        (islandBanks i.val).foldl (fun s n =>
          if n < 4 || ioB s aBANKPWR n then bankStatePut s n 2 else s) s
      else s)

/-! ## Regulators -/

/-- VIDALERT (R558): a status frame names an island. -/
def execVidalert (i : Fin 14) (code : BitVec 8) (s : State) : Host.Outcome State Fault Refusal :=
  .next (if s.alive then
    ioSetB (elWrite (raise { s with vidLow := true } 604) 0x11 i.val 0 0 code.toNat 0) (aISLSTAT i.val) 20 true
  else s)
/-- VIDALERT_RELEASE (R558): VIDALERT_N is high again. -/
def execVidalertRelease (s : State) : Host.Outcome State Fault Refusal := .next { s with vidLow := false }
/-- Does the alert hold the requests of island `i` at its last acknowledged one (R558)? -/
def vidHeld (s : State) (i : Nat) : Bool := s.vidLow && ioB s (aISLSTAT i) 20
/-- VMAX of island `i`; a VMAX of a cluster below 0.65 V acts as 0.65 V (R535). -/
def vmaxOf (s : State) (i : Nat) : Nat :=
  if i < 8 then max 130 (ioF s (aISLENV i) 24 8) else ioF s (aISLENV i) 24 8
/-- REGULATOR_ACK (R556): the request has settled; it is the present supply target. -/
def execRegulatorAck (i : Fin 14) (code : BitVec 8) (s : State) : Host.Outcome State Fault Refusal :=
  .next (if ioF s (aISLENV i.val) 16 8 ≤ code.toNat ∧ code.toNat ≤ vmaxOf s i.val ∧ s.alive then
    ioSetF s (aISLSTAT i.val) 8 8 code.toNat else s)

/-! ## Adaptive loop -/

/-- Does a core of cluster `i` run outside wfe, waitt and park (R535)? -/
def clusterBusy (s : State) (i : Nat) : Bool :=
  (clusterCores i).any fun c => coreState s c == 0 && (coreOf s c).wait != .wfe && (coreOf s c).wait != .waitt
/-- Does cluster `i` hold a QUIET core (R536)? -/
def clusterQuiet (s : State) (i : Nat) : Bool := (clusterCores i).any fun c => bitAt (effQuiet s) c
/-- The lowest clock of a cluster: 200 MHz, 250 MHz under ALARM (R536). -/
def clockFloor (s : State) : Nat := if modeBit s 7 then 25 else 20
/-- The target clock of cluster `i` (R535, R536). -/
def clockTarget (s : State) (i : Nat) : Nat :=
  let fmin := ioF s (aISLENV i) 0 8
  let fmax := ioF s (aISLENV i) 8 8
  max (clockFloor s) (if clusterBusy s i && !modeBit s 3 then fmax else fmin)
/-- The request that the loop makes: never above the last acknowledged one under an alert (R558). -/
def vidRequest (s : State) (i code : Nat) : State :=
  let now := ioF s (aISLSTAT i) 8 8
  let v := if vidHeld s i then min code now else code
  if v = now then s else emit s (.vid i v)
/-- The clock of cluster `i` set, with CLAMPNOW and what follows it; CS, DBA and DBB run at or above the fastest
cluster (R21). -/
def clockPut (s : State) (i f : Nat) : State :=
  let was := ioB s (aISLSTAT i) 17
  let low := decide (f < ioF s (aISLENV i) 0 8)
  let s := ioSetB (ioSetF s (aISLSTAT i) 0 8 f) (aISLSTAT i) 17 low
  let top := (List.range 8).foldl (fun m k => max m (ioF s (aISLSTAT k) 0 8)) 0
  let s := [8, 9, 10].foldl (fun s k => ioSetF s (aISLSTAT k) 0 8 top) s
  if low && !was then raise s 604 else s
/-- The clock of a cluster that holds QUIET cores is lowered: each takes QUIETV at its next boundary (R536). -/
def quietSlow (s : State) (i : Nat) : State :=
  ((clusterCores i).filter (bitAt (effQuiet s))).foldl (fun s c =>
    modCore s c fun k => if k.pend.contains .quietv then k else { k with pend := k.pend ++ [.quietv] }) s
/-- The margins fail at VMAX: the clock is lowered by a step, and CLAMP is set when it falls below FMIN (R535). -/
def clockLower (s : State) (i : Nat) : State :=
  let s := vidRequest s i (vmaxOf s i)
  let f := ioF s (aISLSTAT i) 0 8
  if f ≤ clockFloor s then s
  else
    let s := if clusterQuiet s i then quietSlow s i else s
    let s := clockPut s i (f - 1)
    if ioB s (aISLSTAT i) 17 then ioSetB s (aISLSTAT i) 16 true else s
/-- The margins pass at the lowest voltage `v` of the range: the loop requests it with 15 mV to spare and moves the clock
a step towards its target. It rises only once the voltage is acknowledged and, from below FMIN, with 30 mV to spare at
VMAX. -/
def clockMove (s : State) (i v : Nat) (spare : Bool) : State :=
  let want := min (vmaxOf s i) (max (ioF s (aISLENV i) 16 8) v + 3)
  let s := vidRequest s i want
  let f := ioF s (aISLSTAT i) 0 8
  let goal := clockTarget s i
  if clusterQuiet s i then s
  else if goal < f then clockPut s i (f - 1)
  else if f < goal ∧ want ≤ ioF s (aISLSTAT i) 8 8 ∧ (ioF s (aISLENV i) 0 8 ≤ f ∨ spare) then clockPut s i (f + 1)
  else clockPut s i f
/-- ADAPTIVE_STEP (R535, R536): `v` is the lowest voltage at which the margins pass at the present clock, none when they
fail at VMAX; `spare` says that they pass at VMAX with 30 mV to spare. -/
def execAdaptiveStep (i : Fin 8) (v : Option (BitVec 8)) (spare : Bool) (s : State) : Host.Outcome State Fault Refusal :=
  .next (if !s.alive || s.clOff.contains i.val || s.islReset.contains i.val then s
    else
      let s := ioSetB s (aISLSTAT i.val) 18 (clusterQuiet s i.val)
      match v with
      | none => clockLower s i.val
      | some v => if vmaxOf s i.val < v.toNat then clockLower s i.val else clockMove s i.val v.toNat spare)

/-! ## Sensors -/

/-- Does a voltage lie more than VDEV (at most 55 mV) from the loop's target (R515)? -/
def voltSoft (s : State) (i volt : Nat) : Bool :=
  decide (min 11 (ioF s (aSENSCFG i) 0 4) < Int.natAbs ((volt : Int) - ioF s (aISLSTAT i) 8 8))
/-- Does a temperature, in °C + 64, lie above TWARN? -/
def tempSoft (s : State) (i temp : Nat) : Bool := decide (min 125 (ioF s (aSENSCFG i) 4 8) + 64 < temp)
/-- The hardware limits of voltage and temperature (R515). -/
def voltHard (s : State) (i volt : Nat) : Bool :=
  decide (12 < Int.natAbs ((volt : Int) - ioF s (aISLSTAT i) 8 8)) || decide (volt < 100) || decide (190 < volt)
/-- Above 140 °C or below −55 °C. -/
def tempHard (temp : Nat) : Bool := decide (204 < temp) || decide (temp < 9)
/-- A software limit of island `i` is crossed: SENSSTAT bit `b`, and RESP chooses what follows (R517). -/
def sensCross (s : State) (i b : Nat) : State :=
  let s := ioSetB s (aSENSSTAT i) b true
  let r := ioF s (aSENSCFG i) 12 2
  if 2 ≤ r then tamper s (b - 12) (some i)
  else
    let s := raise s 604
    if r = 1 then modCore s s.carrier fun k => { k with pend := k.pend ++ [.nmi 1] } else s
/-- SENSOR_SAMPLE (R516, R517): a limit is crossed when the last sample lay within it. Before the first sample nothing
does (log entry 28). -/
def execSensorSample (i : Fin 14) (volt temp : BitVec 8) (s : State) : Host.Outcome State Fault Refusal :=
  .next (if !s.alive || s.islReset.contains i.val then s
    else
      let first := ioF s (aSENSSTAT i.val) 0 16 == 0
      let v0 := !first && voltSoft s i.val (ioF s (aSENSSTAT i.val) 0 8)
      let t0 := !first && tempSoft s i.val (ioF s (aSENSSTAT i.val) 8 8)
      let s := ioSetF s (aSENSSTAT i.val) 0 16 (volt.toNat + 256 * temp.toNat)
      let s := if voltSoft s i.val volt.toNat && !v0 then sensCross s i.val 16 else s
      let s := if tempSoft s i.val temp.toNat && !t0 then sensCross s i.val 17 else s
      let s := if voltHard s i.val volt.toNat then tamper s 4 (some i.val) else s
      if tempHard temp.toNat then tamper s 5 (some i.val) else s)
/-- The TAMPSTAT bit of a hardware cause (R520). -/
def hardBit : HardCause → Nat
  | .light => 2
  | .clock => 3
  | .volt => 4
  | .temp => 5
/-- SENSOR_HARD_LIMIT (R520); an island that PG_N holds in reset reports no deviation of its supply or clock (R561). -/
def execSensorHardLimit (i : Fin 14) (k : HardCause) (s : State) : Host.Outcome State Fault Refusal :=
  .next (if !s.alive || (s.islReset.contains i.val && (k == .volt || k == .clock)) then s
    else tamper s (hardBit k) (some i.val))
/-- VENEER_MISMATCH (R520): source 603 stays asserted. -/
def execVeneerMismatch (s : State) : Host.Outcome State Fault Refusal :=
  .next (if s.alive then tamper (assertLevel s 603) 0 none else s)
/-- DUAL_RAIL_DISAGREE (R518, R520). -/
def execDualRailDisagree (s : State) : Host.Outcome State Fault Refusal :=
  .next (if s.alive then tamper s 6 none else s)

end Sys2Proof.Machine
end

