-- ==== Sys2Proof/Machine/DebugRows.lean ====
section
/-! DEFINITION. Authenticated debug (R523 to R533): the mailbox operations, the denials and the lockout, halts and
breakpoints, and the TAP. -/

namespace Sys2Proof.Machine

/-! ## The mailbox registers (R532) -/

/-- DMADDR. -/
def bDMADDR : Nat := 0x6040
/-- DMDATA. -/
def bDMDATA : Nat := 0x6048
/-- Can the port issue an operation: the TAP always, the mailbox while HL is up (R475)? -/
def dbgReady (s : State) (tap : Bool) : Bool := s.alive && (tap || hlUp s)
/-- The level that the port has attached, 0 without a session of its own (R523). -/
def dbgLevel (s : State) (tap : Bool) : Nat :=
  if dbgAttached s && (ioB s aDBGSTAT 4 == tap) then ioF s aDBGSTAT 2 2 else 0
/-- DBGSTAT.RESULT: 0 done, 1 refused, 2 denied, 3 waiting. -/
def dbgResult (s : State) (r : Nat) : State := ioSetF s aDBGSTAT 12 4 r
/-- An operation ends with a word in DMDATA. -/
def dbgAnswer (s : State) (w : Word) : State := dbgResult (barPut s bDMDATA w.toNat) 0
/-- Detach: DATT clears with the session (R527). -/
def dbgLeave (s : State) : State := if dbgAttached s then setCause (dbgDetach s) 6 false else s

/-! ## Denials (R530) -/

/-- LOCKED is set, and the session detaches. -/
def dbgLock (s : State) : State := dbgLeave (ioSetB s aDBGSTAT 11 true)
/-- A denial: DENY, DENYCNT, source 605, the DEBUGDENY record; the 16th, or one that the ledger refuses, locks. -/
def dbgDeny (s : State) (level : Nat) (tap : Bool) (op reason : Nat) (p1 : Word) : State :=
  let n := satAt 16 (ioF s aDBGSTAT 6 5 + 1)
  let s := raise (ioSetB (ioSetF (dbgResult s 2) aDBGSTAT 6 5 n) aDBGSTAT 5 true) 605
  let (ok, s) := ledgTake s 0x011
    [natW (packNat [(0, 2, level), (2, 1, tap.toNat), (3, 4, op), (7, 5, n), (12, 3, reason)]), p1] 0 0 true
  if !ok || n == 16 then dbgLock s else s
/-- A denial of operation `op` of the port. -/
def dbgNo (s : State) (tap : Bool) (op reason : Nat) (p1 : Word) : State := dbgDeny s (dbgLevel s tap) tap op reason p1
/-- A denied read returns EMPTY:0 (R524). -/
def dbgNoRead (s : State) (tap : Bool) (op : Nat) (p1 : Word) : State := dbgNo (barPut s bDMDATA 0) tap op 1 p1
/-- A failed or late response is a denial at the level asked for (R526). -/
def dbgFail (s : State) : State :=
  match s.dbg.asked with
  | none => s
  | some (k, tap) => dbgDeny { s with dbg := { s.dbg with asked := none } } k tap 2 5 (natW 0)
/-- Tags that a debug write may store (R524). -/
def dbgTag (t : Tag) : Bool :=
  t = .empty || t = .nat || t = .int || t = .bits || t = .bool || t = .short16 || t = .time || t = .meas || t = .session

/-! ## Attaching (R526, R527) -/

/-- Is OPEN at level `k` refused: REQ.D 0, A set, LOCKED, above the port's maximum, no key, a session attached, or a
response being verified? -/
def openRefused (s : State) (tap : Bool) (k : Nat) : Bool :=
  !ioB s aDEVMODE 14 || modeBit s 7 || ioB s aDBGSTAT 11 || decide (ioF s aDBGCFG (if tap then 2 else 0) 2 < k) ||
  decide (wtag (ioGet s (aDBGKEY k)) ≠ .keyref) || dbgAttached s || s.dbg.verify
/-- OPEN: a nonce is drawn, and the challenge waits for its response. -/
def openDo (s : State) (tap : Bool) (k : Nat) : State :=
  if openRefused s tap k then dbgResult s 1
  else dbgResult { bump s with
    dbg := { s.dbg with chal := BitVec.ofNat 128 (freeVal s), asked := some (k, tap) } } 3
/-- The verification of the response: a CMAC verify over 29 bytes under DBGKEYk, as job 33. -/
def verifyJob (s : State) (k : Nat) : Job :=
  { sealJob s 29 with func := 10, key := BitVec.ofNat 36 (pay (ioGet s (aDBGKEY k))) }
/-- RESPOND: one response for each challenge; without an engine it cannot verify. -/
def respondDo (s : State) (tap : Bool) : State :=
  match s.dbg.asked with
  | some (k, t) =>
    if t ≠ tap ∨ s.dbg.verify then dbgResult s 1
    else if cipherValid s && (jobOf s 33).isNone then
      jobStart (ioSetB { s with dbg := { s.dbg with verify := true } } aDBGSTAT 0 true) 33 (verifyJob s k)
    else dbgFail s
  | none => dbgResult s 1
/-- The end of the verification: the session attaches, or a denial is made. -/
def verifyEnd (s : State) (ok : Bool) : State :=
  if !s.dbg.verify then ioSetB s aDBGSTAT 0 false
  else
    let s := ioSetB { s with dbg := { s.dbg with verify := false } } aDBGSTAT 0 false
    match s.dbg.asked with
    | none => s
    | some (k, tap) =>
      if !ok then dbgFail s
      else
        let s := { s with dbg := { s.dbg with asked := none } }
        if !ioB s aDEVMODE 14 || modeBit s 7 || ioB s aDBGSTAT 11 then dbgResult s 1
        else setCause (dbgResult (ioSetF s aDBGSTAT 1 4 (1 + 2 * k + 8 * tap.toNat)) 0) 6 true
/-- CLOSE. -/
def closeDo (s : State) (tap : Bool) : State :=
  if dbgAttached s && (ioB s aDBGSTAT 4 == tap) then dbgResult (dbgLeave s) 0 else dbgResult s 1

/-! ## Data space (R524, R525) -/

/-- A read of data space. A word with a double-bit error has no value: it reads as a free one (log entry 29). -/
def readDataDo (s : State) (tap : Bool) (a : Nat) : State :=
  if dbgLevel s tap < 1 then dbgNo s tap 4 4 (addrW a)
  else if !isBank a then dbgResult s 1
  else if bankKeeper s (bankOf a) then dbgNoRead s tap 4 (addrW a)
  else if bankState s (bankOf a) ≠ 0 then dbgResult s 1
  else
    let t := eccRead s a
    if s.eccBad.contains a then dbgAnswer (bump t) (BitVec.ofNat 40 (freeVal t))
    else if isSecret (memGet s a) then dbgNoRead t tap 4 (addrW a)
    else dbgAnswer t (memGet s a)
/-- A write of data space. -/
def writeDataDo (s : State) (tap : Bool) (a : Nat) (w : Word) : State :=
  if dbgLevel s tap < 2 then dbgNo s tap 5 4 (addrW a)
  else if !isBank a then dbgResult s 1
  else if bankKeeper s (bankOf a) || isSecret (memGet s a) then dbgNo s tap 5 2 (addrW a)
  else if !dbgTag (wtag w) then dbgNo s tap 5 3 (addrW a)
  else if bankState s (bankOf a) ≠ 0 then dbgResult s 1
  else dbgResult (memPut s a w) 0

/-! ## I/O space (R12, R524, R532) -/

/-- Addresses at which a debug port meets no register: unmapped blocks and the alias of a core's own range. -/
def dbgNoReg (a : Nat) : Bool := !ioMapped a || (decide (0x0FF000 ≤ a) && decide (a < 0x100000))
/-- The redirect entries. -/
def isPatch (a : Nat) : Bool := decide (0x070010 ≤ a) && decide (a < 0x070030)
/-- A read of I/O space has no side effect; core number 32 stands for a reader that is no core. -/
def readIoDo (s : State) (tap : Bool) (a : Nat) : State :=
  if dbgLevel s tap < 1 then dbgNo s tap 6 4 (addrIOW a)
  else if dbgNoReg a then dbgResult s 1
  else if isPatch a then dbgNoRead s tap 6 (addrIOW a)
  else match regInfo 32 a with
    | none => if ioIslandOff s a then dbgResult s 1 else dbgAnswer s (natW 0)
    | some i =>
      if !bitAt i.rd 1 then dbgNoRead s tap 6 (addrIOW a)
      else if !bitAt i.rd 2 && decide (dbgLevel s tap < 3) then dbgNo s tap 6 4 (addrIOW a)
      else if ioIslandOff s a then dbgResult s 1
      else if isSecret (ioValue s 32 a) then dbgNoRead s tap 6 (addrIOW a)
      else dbgAnswer s (ioValue s 32 a)
/-- Is the address a breakpoint register? -/
def isBrk (a : Nat) : Bool :=
  match privCore a with | some _ => decide (0x0E0 ≤ a % 0x1000) && decide (a % 0x1000 < 0x0E4) | none => false
/-- A debug write of a breakpoint: ACT 1 or a line of ring 0 is a denial (R529). -/
def brkDo (s : State) (tap : Bool) (op a : Nat) (w : Nat) (p1 : Word) : State :=
  if bitAt w 21 || lineAbsent (bits w 3 17) || lineRing s (bits w 3 17) == 0 then dbgNo s tap op 2 p1
  else dbgResult (ioPut s a (natW (w % 2 ^ 22))) 0
/-- The write of a register that a debug port may write in the name of `ring`. A write of CAPTURE would latch for the
writing core; a port is none. -/
def dbgPerform (s : State) (ring : Nat) (i : RegInfo) (a : Nat) (w : Word) : State :=
  if a = 0x020020 then dbgResult s 0
  else if 0x068000 ≤ a ∧ a < 0x069000 then
    (if fieldReg (a - 0x068000) ≠ 2 then dbgResult s 0
     else if dvPaired s then dbgResult (dhCfg s (a - 0x068000) (if wtag w = .bits then w else natW (pay w))) 0
     else dbgResult (raise s 392) 0)
  else match ioPerform s 32 ring i a w with
    | .done t => dbgResult t 0
    | _ => dbgResult s 1
/-- A write of I/O space. -/
def writeIoDo (s : State) (tap : Bool) (a : Nat) (w : Word) : State :=
  let lv := dbgLevel s tap
  let p1 := addrIOW a
  if lv < 2 then dbgNo s tap 7 4 p1
  else if dbgNoReg a then dbgResult s 1
  else if isPatch a then dbgNo s tap 7 2 p1
  else match regInfo 32 a with
    | none => if !dbgTag (wtag w) then dbgNo s tap 7 3 p1 else dbgResult s (ioIslandOff s a).toNat
    | some i =>
      if !bitAt i.rd 1 then dbgNo s tap 7 2 p1
      else if !dbgTag (wtag w) then dbgNo s tap 7 3 p1
      else if isBrk a then brkDo s tap 7 a (pay w) p1
      else match i.wr with
        | none => dbgResult s 0
        | some r =>
          let ring := if bitAt r 2 then 2 else 1
          if !(bitAt r 2 || (bitAt r 1 && lv == 3)) || ioExtraPriv ring a w then dbgNo s tap 7 4 p1
          else if !ioTag a (wtag w) || ioIslandOff s a then dbgResult s 1
          else dbgPerform s ring i a w

/-! ## Control store -/

/-- A read of a control-store syllable: lines of rings 2 and 3 at L1, of ring 1 at L3, of ring 0 never. -/
def readCsDo (s : State) (tap : Bool) (l : Nat) : State :=
  let p1 := linkW (BitVec.ofNat 20 l)
  let ring := lineRing s (l / 8)
  if dbgLevel s tap < 1 then dbgNo s tap 8 4 p1
  else if lineAbsent (l / 8) then dbgResult s 1
  else if ring = 0 then dbgNoRead s tap 8 p1
  else if ring = 1 ∧ dbgLevel s tap < 3 then dbgNo s tap 8 4 p1
  else dbgAnswer (csNote s (l / 8)) (csRaw s l)
/-- A write of a control-store syllable: lines of rings 1 to 3 at L3. The word is a syllable, whose bits [39:36] are no
tag. -/
def writeCsDo (s : State) (tap : Bool) (l : Nat) (w : Word) : State :=
  let p1 := linkW (BitVec.ofNat 20 l)
  if dbgLevel s tap < 3 then dbgNo s tap 9 4 p1
  else if lineAbsent (l / 8) then dbgResult s 1
  else if lineRing s (l / 8) = 0 then dbgNo s tap 9 2 p1
  else if !lineWritable (l / 8) then dbgResult s 1
  else dbgResult (csPut s l w) 0

/-! ## Cores -/

/-- An operation on core `k` that needs L2 (R523). -/
def coreOp (s : State) (tap : Bool) (op : Nat) (f : State) (ok : Bool) : State :=
  if dbgLevel s tap < 2 then dbgNo s tap op 4 (natW 0) else if ok then dbgResult f 0 else dbgResult s 1
/-- HALT: the core halts at its next permitted boundary (DEBUG_HALT_REACHED). -/
def haltDo (s : State) (tap : Bool) (k : Nat) : State :=
  coreOp s tap 10 (modCore s k fun c => { c with haltReq := true }) true
/-- RESUME. -/
def resumeDo (s : State) (tap : Bool) (k : Nat) : State :=
  coreOp s tap 11 (modCore s k fun c => { c with halted := false, haltReq := false, stepReq := false })
    ((coreOf s k).halted || (coreOf s k).haltReq)
/-- STEP: one microword, then the core halts again. -/
def stepDo (s : State) (tap : Bool) (k : Nat) : State :=
  coreOp s tap 12 (modCore s k fun c => { c with halted := false, stepReq := true }) (coreOf s k).halted
/-- A breakpoint set at the place `l`. -/
def setBrkDo (s : State) (tap : Bool) (k n l : Nat) (en : Bool) : State :=
  let p1 := linkW (BitVec.ofNat 20 l)
  if dbgLevel s tap < 2 then dbgNo s tap 13 4 p1
  else brkDo s tap 13 (priv k (oDBGBRK n)) (l % 2 ^ 20 + 2 ^ 20 * en.toNat) p1
/-- A register of a halted core: a register specifier of its current window, or a control register (R532). -/
def readRegDo (s : State) (tap : Bool) (k sel : Nat) : State :=
  let w := if sel < 32 then regRead (coreOf s k) sel else crRead s k (sel - 32)
  if dbgLevel s tap < 1 then dbgNo s tap 14 4 (natW 0)
  else if !(coreOf s k).halted || decide (53 < sel) then dbgResult s 1
  else if isSecret w then dbgNoRead s tap 14 (natW 0)
  else dbgAnswer s w
/-- Is core `c` at a place where a halt stops it (R528, R529): a boundary that R230 permits for a non-maskable cause, in
a line of ring 1 to 3; a splice stop goes first (R531)? -/
def haltAt (s : State) (c : Nat) : Bool :=
  asyncOk s c && !lineAbsent (lineOf (coreOf s c).mpc) && decide (0 < lineRing s (lineOf (coreOf s c).mpc)) &&
  (match s.splice with | some (a, _, _, _) => a != c | none => true)
/-- The core halts; a single step that ran needs no STEP trap. -/
def haltNow (s : State) (c : Nat) : State :=
  modCore s c fun k => { k with halted := true, haltReq := false, pend := k.pend.filter (· ≠ .step) }

/-! ## The command register -/

/-- A write of `w` to DMCMD (R532). -/
def dmCmd (s : State) (tap : Bool) (w : Nat) : State :=
  let op := bits w 0 4
  let k := bits w 6 5
  let a := barGet s bDMADDR
  let d := barGet s bDMDATA
  let l := a % 2 ^ 20
  if op = 1 then openDo s tap (bits w 4 2)
  else if op = 2 then respondDo s tap
  else if op = 3 then closeDo s tap
  else if op = 4 then readDataDo s tap (a % 2 ^ 36)
  else if op = 6 then readIoDo s tap (a % 2 ^ 24)
  else if op = 8 then readCsDo s tap l
  else if op = 10 then haltDo s tap k
  else if op = 11 then resumeDo s tap k
  else if op = 12 then stepDo s tap k
  else if op = 13 then setBrkDo s tap k (bits w 11 2) l (bitAt d 0)
  else if op = 14 then readRegDo s tap k (a % 64)
  else if op = 0 ∨ op = 15 ∨ 2 ^ 40 ≤ d then dbgResult s 1
  else if op = 5 then writeDataDo s tap (a % 2 ^ 36) (BitVec.ofNat 40 d)
  else if op = 7 then writeIoDo s tap (a % 2 ^ 24) (BitVec.ofNat 40 d)
  else writeCsDo s tap l (BitVec.ofNat 40 d)
/-- The port writes DMADDR and DMDATA as the operation needs them, then DMCMD; a mailbox write clears IHOST (R466). -/
def dmRow (s : State) (tap : Bool) (w : Nat) (a d : Option Nat) : State :=
  if !dbgReady s tap then s
  else
    let s := if tap then s else hostActive s
    let s := match a with | some a => barPut s bDMADDR a | none => s
    let s := match d with | some d => barPut s bDMDATA d | none => s
    dmCmd s tap w

/-! ## The rows -/

/-- DBG_OPEN (R526). -/
def execDbgOpen (tap : Bool) (level : BitVec 2) (s : State) : Host.Outcome State Fault Refusal :=
  .next (dmRow s tap (1 + 16 * level.toNat) none none)
/-- DBG_RESPOND (R526). -/
def execDbgRespond (tap : Bool) (resp : BitVec 128) (s : State) : Host.Outcome State Fault Refusal :=
  .next (if dbgReady s tap then dmRow { s with dbg := { s.dbg with resp := resp } } tap 2 none none else s)
/-- DEBUG_VERIFY_DONE (R526, R437). -/
def execDebugVerifyDone (st : BitVec 3) (s : State) : Host.Outcome State Fault Refusal :=
  .next (match jobOf s 33 with
    | none => s
    | some j => if j.atEng then verifyEnd (jobDone s 33 j st.toNat) (cipherOk st.toNat && !j.fault) else s)
/-- CHALLENGE_EXPIRY (R526). -/
def execChallengeExpiry (s : State) : Host.Outcome State Fault Refusal :=
  .next (if s.dbg.verify then s else dbgFail s)
/-- CIPHER_JOB_TIMEOUT (R437): a core's job, a seal or a debug verification. -/
def execCipherJobTimeout (n : Fin 34) (s : State) : Host.Outcome State Fault Refusal :=
  .next (match jobOf s n.val with
    | none => s
    | some j =>
      if !j.atEng then s
      else
        let s := jobTimeout s n.val j
        if n.val = 32 then sealEnd s false 0#128
        else if n.val = 33 then verifyEnd s false
        else ciphWake s j.core)
/-- DBG_CLOSE (R527). -/
def execDbgClose (tap : Bool) (s : State) : Host.Outcome State Fault Refusal := .next (dmRow s tap 3 none none)
/-- DEBUG_READ_DATA (R524). -/
def execDebugReadData (tap : Bool) (addr : Payload) (s : State) : Host.Outcome State Fault Refusal :=
  .next (dmRow s tap 4 (some addr.toNat) none)
/-- DEBUG_WRITE_DATA (R524). -/
def execDebugWriteData (tap : Bool) (addr : Payload) (w : Word) (s : State) : Host.Outcome State Fault Refusal :=
  .next (dmRow s tap 5 (some addr.toNat) (some w.toNat))
/-- DEBUG_READ_IO (R532). -/
def execDebugReadIo (tap : Bool) (addr : BitVec 24) (s : State) : Host.Outcome State Fault Refusal :=
  .next (dmRow s tap 6 (some addr.toNat) none)
/-- DEBUG_WRITE_IO (R532). -/
def execDebugWriteIo (tap : Bool) (addr : BitVec 24) (w : Word) (s : State) : Host.Outcome State Fault Refusal :=
  .next (dmRow s tap 7 (some addr.toNat) (some w.toNat))
/-- DEBUG_READ_CS (R532). -/
def execDebugReadCs (tap : Bool) (l : Link) (s : State) : Host.Outcome State Fault Refusal :=
  .next (dmRow s tap 8 (some l.toNat) none)
/-- DEBUG_WRITE_CS (R532). -/
def execDebugWriteCs (tap : Bool) (l : Link) (w : Word) (s : State) : Host.Outcome State Fault Refusal :=
  .next (dmRow s tap 9 (some l.toNat) (some w.toNat))
/-- DBG_HALT (R528). -/
def execDbgHalt (tap : Bool) (k : CoreId) (s : State) : Host.Outcome State Fault Refusal :=
  .next (dmRow s tap (10 + 64 * k.val) none none)
/-- DEBUG_HALT_REACHED (R528). -/
def execDebugHaltReached (c : CoreId) (s : State) : Host.Outcome State Fault Refusal :=
  .next (if (coreOf s c.val).haltReq && haltAt s c.val then haltNow s c.val else s)
/-- DBG_RESUME (R528). -/
def execDbgResume (tap : Bool) (k : CoreId) (s : State) : Host.Outcome State Fault Refusal :=
  .next (dmRow s tap (11 + 64 * k.val) none none)
/-- DBG_STEP (R528). -/
def execDbgStep (tap : Bool) (k : CoreId) (s : State) : Host.Outcome State Fault Refusal :=
  .next (dmRow s tap (12 + 64 * k.val) none none)
/-- DBG_SET_BREAKPOINT (R529). -/
def execDbgSetBreakpoint (tap : Bool) (k : CoreId) (n : Fin 4) (l : Link) (en : Bool) (s : State) :
    Host.Outcome State Fault Refusal :=
  .next (dmRow s tap (13 + 64 * k.val + 2048 * n.val) (some l.toNat) (some en.toNat))
/-- BREAKPOINT_HALT (R529): breakpoint `n`, with ACT 0, halts the core before the microword at its TARGET. -/
def execBreakpointHalt (c : CoreId) (n : Fin 4) (s : State) : Host.Outcome State Fault Refusal :=
  let w := pay (ioGet s (priv c.val (oDBGBRK n.val)))
  .next (if bitAt w 20 && !bitAt w 21 && bits w 0 20 == (coreOf s c.val).mpc.toNat && haltAt s c.val then haltNow s c.val
    else s)
/-- DBG_READ_REGISTER (R532). -/
def execDbgReadRegister (tap : Bool) (k : CoreId) (sel : BitVec 6) (s : State) : Host.Outcome State Fault Refusal :=
  .next (dmRow s tap (14 + 64 * k.val) (some sel.toNat) none)

/-! ## The TAP (R533) -/

/-- The TAP's instruction register and what its data register shows. -/
def tapSet (s : State) (ir : Nat) (dr : BitVec 64) : State :=
  emit { s with dbg := { s.dbg with tapIr := ir, tapDr := dr } } (.tap dr)
/-- TAP_BYPASS. -/
def execTapBypass (s : State) : Host.Outcome State Fault Refusal := .next (tapSet s 0xFF 0#64)
/-- TAP_IDCODE. -/
def execTapIdcode (s : State) : Host.Outcome State Fault Refusal := .next (tapSet s 0x01 (Config.idcode.setWidth 64))
/-- A boundary-scan instruction: at L3 through the TAP it selects the boundary register, whose content the spec does not
give (a free value); otherwise BYPASS. -/
def tapScan (s : State) (ir : Nat) : State :=
  if dbgLevel s true = 3 then tapSet (bump s) ir (BitVec.ofNat 64 (freeVal s)) else tapSet s 0xFF 0#64
/-- TAP_SAMPLE_PRELOAD. -/
def execTapSamplePreload (s : State) : Host.Outcome State Fault Refusal := .next (tapScan s 0x02)
/-- TAP_EXTEST. -/
def execTapExtest (s : State) : Host.Outcome State Fault Refusal := .next (tapScan s 0x03)

/-- 32 bits of the 128-bit value `v`, the word at offset `4 * i` most significant first. -/
def word128 (v i : Nat) : Nat := v / 2 ^ (32 * (3 - i)) % 2 ^ 32
/-- The 128-bit value with that word replaced. -/
def setWord128 (v i x : Nat) : Nat := setBits v (32 * (3 - i)) 32 x
/-- A read of the mailbox register at offset `o` (R532); WO registers and holes read 0. -/
def dmRead (s : State) (o : Nat) : Nat :=
  if o = 0x04 then pay (ioGet s aDBGSTAT)
  else if 0x10 ≤ o ∧ o < 0x20 ∧ o % 4 = 0 then word128 s.dbg.chal.toNat ((o - 0x10) / 4)
  else if o = 0x20 then Config.deviceId.toNat
  else if o = 0x40 then barGet s bDMADDR
  else if o = 0x48 then barGet s bDMDATA
  else 0
/-- A write of the mailbox register at offset `o` by a port. -/
def dmWrite (s : State) (tap : Bool) (o v : Nat) : State :=
  if o = 0 then dmCmd s tap (v % 2 ^ 32)
  else if 0x30 ≤ o ∧ o < 0x40 ∧ o % 4 = 0 then
    { s with
      dbg := { s.dbg with resp := BitVec.ofNat 128 (setWord128 s.dbg.resp.toNat ((o - 0x30) / 4) (v % 2 ^ 32)) } }
  else if o = 0x40 then barPut s bDMADDR v
  else if o = 0x48 then barPut s bDMDATA v
  else s
/-- TAP_DBGACC (R533): a write or a read of a mailbox register. -/
def execTapDbgacc (off : BitVec 8) (write : Bool) (w : BitVec 64) (s : State) : Host.Outcome State Fault Refusal :=
  .next (if write then
      (if s.alive then dmWrite (tapSet s 0x20 w) true off.toNat w.toNat else tapSet s 0x20 w)
    else tapSet s 0x20 (BitVec.ofNat 64 (dmRead s off.toNat)))

end Sys2Proof.Machine
end

