-- ==== Sys2Proof/Machine/Field.lean ====
section
/-! DEFINITION. What TM40-F does by itself (R314 to R342, R367, R521): its registers, channels, safe state, bypass,
supply, measurement, group flags and triggers, and the reports that it sends. -/

namespace Sys2Proof.Machine

/-! ## Registers -/

/-- The state with TM40-F changed by `f`. -/
def modField (s : State) (f : Field → Field) : State := { s with field := f s.field }
/-- Jig `j`. -/
def jigOf (s : State) (j : Nat) : Jig := tabGet Jig.reset s.field.jigs j
/-- The state with jig `j` being `v`. -/
def setJig (s : State) (j : Nat) (v : Jig) : State :=
  modField s fun f => { f with jigs := tabSet Jig.reset f.jigs j v }
/-- Port `p`. -/
def portOf (s : State) (p : Nat) : Port := tabGet Port.reset s.field.ports p
/-- The state with port `p` being `v`. -/
def setPort (s : State) (p : Nat) (v : Port) : State :=
  modField s fun f => { f with ports := tabSet Port.reset f.ports p v }

/-- JSTATj. -/
def jstatVal (g : Jig) : Nat :=
  packNat [(0, 1, g.run.toNat), (1, 1, g.stall.toNat), (2, 2, g.haltc), (4, 6, g.pc), (10, 6, g.fill), (16, 6, g.scnt),
    (22, 1, g.mf.toNat), (23, 1, g.cf.toNat), (24, 1, g.lord.toNat), (25, 3, g.fault), (28, 4, g.injref),
    (32, 1, g.unsync.toNat)]
/-- The word of the field register at `f` as DF holds it: the registers of the jigs are views of the jigs (R368). -/
def fldValue (s : State) (f : Nat) : Word :=
  let g := jigOf s (f % 32)
  if 0x640 ≤ f ∧ f < 0x660 then natW (jstatVal g)
  else if 0x660 ≤ f ∧ f < 0x680 then natW (g.up.length + 16 * g.down.length)
  else if 0x680 ≤ f ∧ f < 0x6A0 then natW g.ctrA.toNat
  else if 0x6A0 ≤ f ∧ f < 0x6C0 then natW g.ctrB.toNat
  else if 0x6C0 ≤ f ∧ f < 0x6E0 then natW (g.crc % 2 ^ 32 + 2 ^ 32 * g.poly)
  else if 0x6E0 ≤ f ∧ f < 0x700 then natW g.pat.toNat
  else if 0x700 ≤ f ∧ f < 0x720 then natW g.mask.toNat
  else if 0x720 ≤ f ∧ f < 0x740 then natW (g.pat.toNat / 2 ^ 36 + 16 * (g.mask.toNat / 2 ^ 36))
  else if 0x800 ≤ f ∧ f < 0x900 then
    natW (fldF s f 0 10 + 2 ^ 10 * bits (jigOf s ((f - 0x800) / 8)).dirs.toNat (f % 8) 1)
  else fldGet s f
/-- A STATUS of DF reporting field register `f` (R382). DF reports every change at once: the limit of one report in
10 µs of R314 is timing (log entry 4). -/
def dfStatus (s : State) (f : Nat) : State := dfSend s ⟨0x29, natW f, fldValue s f⟩
/-- The answer to a CMD-CFG for `f` (R314, R315). -/
def dfAnswer (s : State) (f : Nat) (refused : Bool) : State :=
  dfSend s ⟨0x29, natW (f % 2 ^ 16 + 2 ^ 16 + 2 ^ 17 * refused.toNat), fldValue s f⟩
/-- A STATUS refusal of a message that names no field register: the address that it carries is not given (a free
value). -/
def dfRefuse (s : State) : State :=
  dfSend (bump s) ⟨0x29, natW (freeVal s % 2 ^ 16 + 2 ^ 17), natW 0⟩
/-- An EVENT of DF (R382): source, level asserted, pad level, mirror update only, field time. -/
def dfEvent (s : State) (src : Nat) (up pad only : Bool) (t : Nat) : State :=
  dfSend s ⟨0x28, natW (src + 2 ^ 10 * up.toNat + 2 ^ 11 * pad.toNat + 2 ^ 12 * only.toNat), mkW .time t⟩
/-- An EVENT at the present field time. -/
def dfPulse (s : State) (src : Nat) (pad : Bool) : State := dfEvent s src false pad false s.field.time.toNat
/-- A field register changed, and the change reported. -/
def fldReport (s : State) (f lo w v : Nat) : State :=
  if fldF s f lo w = v % 2 ^ w then s else dfStatus (fldSetF s f lo w v) f

/-! ## Ready bits (R483) -/

/-- Is channel `u` ready? -/
def chReady (s : State) (u : Nat) : Bool := fldB s (u / 32) (u % 32)
/-- Is jig group `g` ready? -/
def grpReady (s : State) (g : Nat) : Bool := fldB s 2 g
/-- Is MX ready? -/
def mxReady (s : State) : Bool := fldB s 2 8
/-- Is FS ready? -/
def fsReady (s : State) : Bool := fldB s 2 9
/-- Is port `p` ready? -/
def portReady (s : State) (p : Nat) : Bool := fldB s 2 (10 + p)

/-! ## Channels -/

/-- CHCFG.MODE. -/
def chMode (s : State) (u : Nat) : Nat := fldF s (fCHCFG u) 0 4
/-- Modes 2 to 4. -/
def chOutput (s : State) (u : Nat) : Bool := decide (2 ≤ chMode s u) && decide (chMode s u ≤ 4)
/-- Modes 8 and 9. -/
def chAnalogOut (s : State) (u : Nat) : Bool := chMode s u == 8 || chMode s u == 9
/-- Is the channel in safe state? -/
def chSafe (s : State) (u : Nat) : Bool := fldB s (fCHSTAT u) 8
/-- JPIN of slot `p` of jig `j`. -/
def jpin (s : State) (j p : Nat) : Nat := pay (fldGet s (fJPIN j p))
/-- Does slot `p` of jig `j` drive signal `code`: VALID, OUTOK, direction output (R346)? -/
def slotDrives (s : State) (code j p : Nat) : Bool :=
  bits (jpin s j p) 0 7 == code && bitAt (jpin s j p) 7 && bitAt (jpin s j p) 8 && bitAt (jigOf s j).dirs.toNat p
/-- The jigs that are not as after reset: no other has an output direction. -/
def liveJigs (s : State) : List Nat := s.field.jigs.map (·.1)
/-- The level with which a jig drives signal `code`, inverted by INV. -/
def jigLevel (s : State) (code : Nat) : Option Bool :=
  (liveJigs s).findSome? fun j => (List.range 8).findSome? fun p =>
    if slotDrives s code j p then some (bitAt (jigOf s j).levels.toNat p != bitAt (jpin s j p) 9) else none
/-- The commanded output state of a channel: its safe state, a jig's level, or CHOUT.VAL[0] (R333, R346, R348). -/
def chDrive (s : State) (u : Nat) : Bool :=
  if !chOutput s u then false
  else if chSafe s u then
    let k := fldF s (fCHCFG u) 18 3
    if k = 2 then true else if k = 3 then fldB s (fCHSTAT u) 1 else false
  else match jigLevel s u with
    | some b => b
    | none => fldB s (fCHOUT u) 0
/-- The code that the channel's DAC drives (R328, R333): CHOUT.VAL, or its safe code. -/
def chCode (s : State) (u : Nat) : BitVec 16 :=
  if chSafe s u then
    let k := fldF s (fCHCFG u) 18 3
    if k = 3 then tabGet 0#16 s.field.dacs (fldF s (fCHCFG u) 21 4)
    else if k = 4 then BitVec.ofNat 16 (fldF s (fCHOUT u) 16 16) else 0#16
  else BitVec.ofNat 16 (fldF s (fCHOUT u) 0 16)
/-- Driver fault, event 2: SCLATCH, OPEN, HOT, MISMATCH or SHED (R317). -/
def chFault (w : Nat) : Bool := bitAt w 2 || bitAt w 4 || bitAt w 5 || bitAt w 6 || bitAt w 25
/-- What follows a change of CHSTAT from `old`: its report, and event 2 as a level. -/
def chAfter (old : Nat) (s : State) (u : Nat) : State :=
  let new := pay (fldGet s (fCHSTAT u))
  if new = old then s
  else
    let s := dfStatus s (fCHSTAT u)
    if chFault old = chFault new then s
    else dfEvent s (4 * u + 2) (chFault new) (bitAt new 0) false s.field.time.toNat
/-- A field of CHSTAT set, with what follows. -/
def chSet (s : State) (u lo w v : Nat) : State :=
  chAfter (pay (fldGet s (fCHSTAT u))) (fldSetF s (fCHSTAT u) lo w v) u
/-- CHSTAT after a change of the pad or of the command: MISMATCH is judged afresh (log entry 30). -/
def chFresh (s : State) (u lo v : Nat) : State :=
  if fldF s (fCHSTAT u) lo 1 = v then s
  else
    let old := pay (fldGet s (fCHSTAT u))
    chAfter old (fldSetF (fldSetF s (fCHSTAT u) lo 1 v) (fCHSTAT u) 2 1 0) u
/-- A channel's driver follows its mode, its command, its safe state and the jigs. -/
def chUpdate (s : State) (u : Nat) : State :=
  let s := if chAnalogOut s u then
      let d := fldF s (fCHCFG u) 21 4
      let v := chCode s u
      modField s fun f => { f with dacs := tabSet 0#16 f.dacs d v }
    else s
  chFresh s u 1 (chDrive s u).toNat
/-- Every channel's number. -/
def channels : List Nat := List.range 64

/-! ## Safe state (R333, R334) -/

/-- Channel `u` enters its safe state. -/
def safeEnter (s : State) (u : Nat) : State :=
  if chSafe s u then s else chUpdate (chSet s u 8 1 1) u
/-- The whole die goes to safe state: every channel, and the ports stop transmitting (R333; log entry 31). -/
def safeAll (s : State) : State := channels.foldl safeEnter (modField s fun f => { f with safe := true })
/-- Channel `u` leaves its safe state and takes CHOUT.VAL. -/
def safeLeave (s : State) (u : Nat) : State := chUpdate (chSet s u 8 1 0) u
/-- Is a release refused: the supply in UV or OVLONG? -/
def supplyBad (s : State) : Bool := fldB s fSUPSTAT 17 || fldB s fSUPSTAT 19

/-! ## Bypass (R337 to R340) -/

/-- The bypass closes, or a test ends, for `cause`: 1 supply, 2 command, 3 heartbeat, 4 FS watchdog, 5 test failed,
6 tamper. -/
def bypassShut (s : State) (cause : Nat) : State :=
  if fldB s fBYPSTAT 0 && !fldB s fBYPSTAT 2 then s
  else dfStatus (fldSetF (fldSetF s fBYPSTAT 0 3 1) fBYPSTAT 4 4 cause) fBYPSTAT
/-- An open request (R338, R340): ignored during a test or while open. -/
def bypassAsk (s : State) : State :=
  if fldB s fBYPSTAT 2 || !fldB s fBYPSTAT 0 then s
  else if fsReady s && !fldB s fSUPSTAT 17 then dfStatus (fldSetF s fBYPSTAT 1 2 2) fBYPSTAT
  else fldReport s fBYPSTAT 3 1 1
/-- The loopback test ends. -/
def bypassTested (s : State) (ok : Bool) : State :=
  if !fldB s fBYPSTAT 2 then s
  else if ok then dfStatus (fldSetF s fBYPSTAT 0 3 2) fBYPSTAT else bypassShut s 5

/-! ## Pairing state of DF, resets -/

/-- DF discards its pairing and starts again (R381): its numbers, its frames and its key go. -/
def dfUnpair (s : State) : State :=
  { modField s (fun f => { f with paired := false, nf := none, keyed := false, coreCred := [], drops := [] }) with
    df := { DvEnd.reset with lanes := s.df.lanes } }
/-- The words that a reset of TM40-F keeps: EPOCH, a view of its one-time-programmable store, and LATCH with its causes
while the supply holds (R13, R521). -/
def fldKept (latch : Bool) (s : State) : Tab Word :=
  s.fld.filter fun p => p.1 == fEPOCH || (latch && p.1 == fFTAMPSTAT)
/-- A reset of TM40-F (R342, R367): `powered` when its supply holds. -/
def fieldReset (s : State) (powered : Bool) : State :=
  { s with
    fld := fldKept powered s
    field := { Field.reset with otp := s.field.otp }
    df := { DvEnd.reset with lanes := s.df.lanes } }

/-! ## Supply (R342) -/

/-- SUPSTAT reported with the supply `v`, in 10 mV units, and UVW from it; the load current that it carries is measured
(a free value). -/
def supReport (s : State) (v : Nat) : State :=
  let s := fldSetF (fldSetF s fSUPSTAT 0 16 v) fSUPSTAT 16 1 (decide (v < fldF s fSUPCFG 0 14)).toNat
  dfStatus (fldSetF (bump s) fSUPSTAT 21 11 (freeVal s)) fSUPSTAT

/-! ## Group flags and triggers (R326, R366) -/

/-- Measurement trigger `t` starts: every converter that it names has a start due. -/
def trigStart (s : State) (t : Nat) : State :=
  let xs := (List.range 16).filter fun x => fldB s (fXCFG x) t
  modField s fun f => { f with convDue := f.convDue ++ xs.map fun x => (x, t) }
/-- The triggers that satisfy `p` on their TRIG word start. -/
def trigsWhere (s : State) (p : Nat → Bool) : State :=
  ((List.range 16).filter fun t => p (pay (fldGet s (fTRIG t)))).foldl trigStart s
/-- A trigger started from a flag that went from 0 to 1. -/
def flagTrigs (s : State) (g k : Nat) : State :=
  trigsWhere s fun w => bits w 0 2 == 3 && bits w 28 3 == g && bits w 31 2 == k
/-- The flags of group `g` set to `v`, with the triggers of those that rise. -/
def flagsPut (s : State) (g v : Nat) : State :=
  let old := fldF s (fJGFLAG g) 0 4
  let s := fldSetF s (fJGFLAG g) 0 4 v
  ((List.range 4).filter fun k => bitAt v k && !bitAt old k).foldl (fun s k => flagTrigs s g k) s
/-- A flag operation (R358, R384): 0 none, 1 set, 2 clear, 3 toggle. -/
def flagOp (s : State) (g k op : Nat) : State :=
  let old := fldF s (fJGFLAG g) 0 4
  if op = 0 then s
  else flagsPut s g (setBits old k 1 (if op = 1 then 1 else if op = 2 then 0 else 1 - bits old k 1))

/-! ## Edges and thresholds -/

/-- Does EDGE select an edge? -/
def edgeTaken (s : State) (u : Nat) (rising : Bool) : Bool := fldB s (fCHCFG u) (if rising then 5 else 6)
/-- The mirror bits behind channel `u` that are enabled. -/
def mirrorsOf (word : Nat → Nat) (u : Nat) : List Nat :=
  (List.range 16).filter fun k => bitAt (word k) 6 && bits (word k) 0 6 == u
/-- A comparator edge at field time `t` (R318, R329, R390): PAD, event 0, STAMP, mirror, triggers. -/
def edgeDo (s : State) (u : Nat) (rising : Bool) (t : Nat) : State :=
  let s := chFresh s u 0 rising.toNat
  let s := modField s fun f => { f with edgeAt := tabSet none f.edgeAt u (some (BitVec.ofNat 36 t)) }
  let hit := edgeTaken s u rising
  let s := if hit then dfEvent s (4 * u) false rising false t
    else if (mirrorsOf (fun k => pay (fldGet s (fMIRCH k))) u).isEmpty then s
    else dfEvent s (4 * u) false rising true t
  let s := if hit && fldB s (fCHCFG u) 7 then
      dfSend s ⟨0x22, mkW .time t, natW (u + 2 ^ 6 * rising.toNat + 2 ^ 7 * (!s.field.synced).toNat)⟩ else s
  if hit then trigsWhere s fun w => bits w 0 2 == 2 && bits w 22 6 == u else s
/-- TCUR. -/
def tcur (s : State) (u : Nat) : Nat := fldF s (fCHSTAT u) 10 14
/-- TCUR set to `v`; ALERT set with event 1 when `alert`. -/
def tcurPut (s : State) (u v : Nat) (alert : Bool) : State :=
  let old := pay (fldGet s (fCHSTAT u))
  let rise := alert && !bitAt old 7
  let s := fldSetF s (fCHSTAT u) 10 14 v
  let s := chAfter old (if alert then fldSetF s (fCHSTAT u) 7 1 1 else s) u
  if rise then dfPulse s (4 * u + 1) (bitAt old 0) else s
/-- One step of the threshold towards the midpoint `mid`, 10 mV at most (R319). -/
def trackDo (s : State) (u mid : Nat) : State :=
  let lo := fldF s (fCHTHR u) 0 14
  let hi := fldF s (fCHTHR u) 14 14
  if chMode s u = 0 ∨ 4 < chMode s u then s
  else if fldB s (fCHTHR u) 32 then tcurPut s u lo false
  else
    let goal := max lo (min hi mid)
    let t := tcur s u
    let n := if t < goal then t + 1 else if goal < t then t - 1 else t
    tcurPut s u n (decide (mid ≠ goal) && n == goal)

/-! ## Measurement (R324 to R327) -/

/-- The range of quantity `q` in mode `m` (R324): 0 ±10.24 V, 1 ±81.92 V, 2 ±26.2144 mA, 3 ±524.288 mA. -/
def rangeOf (m q : Nat) : Option Nat :=
  let q := if q = 3 then 0 else q
  if m ≤ 1 ∨ m = 6 then (if q = 2 then none else some 1)
  else if m ≤ 4 then some (if q = 2 then 3 else 1)
  else if m = 5 then (if q = 2 then none else some 0)
  else if m = 7 then some (if q = 1 then 0 else 2)
  else if m = 8 then some (if q = 2 then 2 else 0)
  else if m = 9 then some (if q = 1 then 1 else 2)
  else none
/-- `n` thousandths rounded to the nearest unit; of two nearest units `up` says which. -/
def roundMilli (n : Int) (up : Bool) : Int :=
  let q := n / 1000
  let r := n % 1000
  if r < 500 then q else if 500 < r then q + 1 else if up then q + 1 else q
/-- The MEAS word of code `code` (R324, R325). -/
def measWord (s : State) (x m q : Nat) (raw : Bool) (code : Int) : Word :=
  match rangeOf m q with
  | none => emptyW
  | some r =>
    if raw then mkW .meas ((code % 2 ^ 32).toNat)
    else mkW .meas ((if r < 2 then 1 else 2) * 2 ^ 32 +
      ((roundMilli (Config.trimmed x r code) (freeVal s % 2 == 1)) % 2 ^ 32).toNat)
/-- Does the code lie outside the limits of the scan entry word `w` (R327)? -/
def limitHit (w : Nat) (code : Int) : Bool :=
  let v := code / 32
  bitAt w 8 && (decide (v < signed 13 (bits w 9 13)) || decide (signed 13 (bits w 22 13) < v))
/-- Event 3 of channel `u` after a sample that lies outside (`hit`) or inside its limits (R317, R327). -/
def limitDo (s : State) (u : Nat) (hit : Bool) : State :=
  let pad := fldB s (fCHSTAT u) 0
  let was := s.field.limited.contains u
  let s := modField s fun f => { f with limited := if hit then (if was then f.limited else u :: f.limited) else f.limited.filter (· ≠ u) }
  if fldB s (fCHCFG u) 25 then
    (if was = hit then s else dfEvent s (4 * u + 3) hit pad false s.field.time.toNat)
  else if hit then dfPulse s (4 * u + 3) pad else s
/-- A scan entry of converter `x` is measured with the averaged code `code` at field time `t`: SAMPLE, OVR, limits. -/
def sampleDo (s : State) (x e : Nat) (code : Int) (t : Nat) : State :=
  let w := pay (fldGet s (fSCAN x e))
  let u := bits w 0 6
  let word := measWord s x (chMode s u) (bits w 6 2) (fldB s (fCHCFG u) 27) code
  let s := dfSend (bump s) ⟨0x21, word, natW (x + 16 * e + 256 * (t % 2 ^ 28))⟩
  let s := chSet s u 24 1 (code == 131071 || code == -131072).toNat
  if bitAt w 8 then limitDo s u (limitHit w code) else s
/-- After entry `e` the list goes on, restarts with CONT, or ends (R326, XCFG). -/
def scanNext (s : State) (x e : Nat) : State :=
  let s := modField s fun f => { f with convSum := tabSet (0, 0) f.convSum x (0, 0) }
  if e < fldF s (fXCFG x) 16 4 then modField s fun f => { f with convIdx := tabSet 0 f.convIdx x (e + 1) }
  else
    let s := modField s fun f => { f with convIdx := tabSet 0 f.convIdx x 0 }
    if fldB s (fXCFG x) 23 then s else fldReport s (fXCFG x) 24 1 0
/-- The average of `n` conversions whose codes add up to `sum`; of the two codes nearest to it a free one. -/
def average (s : State) (sum : Int) (n : Nat) : Int :=
  if sum % n = 0 then sum / n else sum / n + (freeVal s % 2 : Nat)
/-- A conversion of converter `x` ends with `code` (R325, R326). -/
def convDo (s : State) (x : Nat) (code : Int) (t : Nat) : State :=
  if !fldB s (fXCFG x) 24 then s
  else
    let e := tabGet 0 s.field.convIdx x
    let (k, sum) := tabGet (0, 0) s.field.convSum x
    let n := 2 ^ fldF s (fXCFG x) 20 3
    if k + 1 < n then modField s fun f => { f with convSum := tabSet (0, 0) f.convSum x (k + 1, sum + code) }
    else scanNext (sampleDo (bump s) x e (average s (sum + code) n) t) x e
/-- A due start of converter `x` by trigger `t`: its list runs, or OVRUN (R326). -/
def convStart (s : State) (x t : Nat) : State :=
  if !s.field.convDue.contains (x, t) then s
  else
    let s := modField s fun f => { f with convDue := f.convDue.erase (x, t) }
    if fldB s (fXCFG x) 24 then fldReport s (fXCFG x) 25 1 1
    else if mxReady s then
      fldReport (modField s fun f =>
        { f with convIdx := tabSet 0 f.convIdx x 0, convSum := tabSet (0, 0) f.convSum x (0, 0) }) (fXCFG x) 24 1 1
    else s

/-! ## Heartwood drivers (R331) -/

/-- Driver `b` (0 A, 1 B) of heartwood channel `h` has failed; with AUTO and the driver in use, a switch to the other
one starts unless it has failed too. -/
def driverFail (s : State) (h b : Nat) (auto : Bool) : State :=
  let f := fHWCH h
  let s := fldSetF s f (3 + b) 1 1
  let s := if auto && fldB s f 1 && fldF s f 0 1 == b && !fldB s f (4 - b) then
      fldSetF (fldSetF s f 0 1 (1 - b)) f 5 1 1 else s
  dfStatus s f
/-- A switch completes: STBY names the driver in use. -/
def switchEnd (s : State) (h : Nat) : State :=
  if !fldB s (fHWCH h) 5 then s
  else chSet (fldReport s (fHWCH h) 5 1 0) h 9 1 (fldF s (fHWCH h) 0 1)

end Sys2Proof.Machine
end

