-- ==== Sys2Proof/Machine/DfRows.lean ====
section
/-! DEFINITION. What DF does on the frames that it has verified: CMD-OUT (R384), CMD-CFG (R314, R315), SAFE-SET (R334),
BYPASS-CTL (R338), PORT-TX (R385), and the port controllers (R336). -/

namespace Sys2Proof.Machine

/-! ## Arrival -/

/-- Working lanes of a direction. -/
def lanesUp (e : DvEnd) : Nat := 4 - e.lanes.length
/-- A consumed frame of class `cls` advances its class at the receiving end (R375). -/
def DvEnd.take (e : DvEnd) (cls : Nat) : DvEnd :=
  if cls = 0 then { e with since := e.since + 1, prevLeft := e.prevLeft - 1 }
  else { e with
    rxNum := tabSet 0 e.rxNum cls ((tabGet 0 e.rxNum cls + 1) % 2 ^ 14)
    since := e.since + 1
    prevLeft := e.prevLeft - 1 }
/-- Does DF hear verified frames: paired, with at least 2 working lanes (R371)? -/
def dfHears (s : State) : Bool := s.field.up && s.field.paired && decide (2 ≤ lanesUp s.df)
/-- A frame consumed and dropped at DF: its threshold is 16 in 1 ms, reported by a FAULT whose code is not given (R375: a
free value). -/
def dfDrop (s : State) : State :=
  let (l, hit) := within1ms s.field.drops (tbGet s 1) 16
  let s := modField s fun f => { f with drops := l }
  if hit then dfFault (bump s) (freeVal s % 256) none else s
/-- A frame with body `w0`, `w1` arrives at DF: one with a tag that R53 refuses is consumed and dropped. -/
def dfTake (s : State) (cls : Nat) (w0 w1 : Word) (f : State → State) : State :=
  if !dfHears s then s
  else
    let s := { s with df := s.df.take cls }
    if dvTag (wtag w0) && dvTag (wtag w1) then f s else dfDrop s

/-! ## CMD-OUT (R384) -/

/-- A command to channel `u` that is ignored (R332): IGN + 1. -/
def chIgnore (s : State) (u : Nat) : State := chSet s u 30 6 (satAt 63 (fldF s (fCHSTAT u) 30 6 + 1))
/-- Is a CMD-OUT to channel `u` ignored: safe state, supply UV, a jig output, or a shed channel turned on? -/
def chBusy (s : State) (u : Nat) (on : Bool) : Bool :=
  chSafe s u || fldB s fSUPSTAT 17 || (jigLevel s u).isSome || (fldB s (fCHSTAT u) 25 && on)
/-- A level or a DAC code for channel `u`. -/
def chCommand (s : State) (u w v : Nat) : State :=
  if chBusy s u (v % 2 == 1) then chIgnore s u else chUpdate (fldSetF s (fCHOUT u) 0 w v) u
/-- The changes that a CMD-OUT names. -/
def cmdOut (s : State) (w0 w1 : Word) : State :=
  let a := pay w0
  let b := pay w1
  let form := bits b 33 3
  if form < 2 then (bitList 32 b).foldl (fun s i => chCommand s (32 * form + i) 1 (bits a i 1)) s
  else if form = 2 then
    let u := bits b 0 6
    if chSafe s u || fldB s fSUPSTAT 17 || (jigLevel s u).isSome then chIgnore s u
    else chUpdate (fldSetF s (fCHOUT u) 0 16 a) u
  else if form = 3 then trigStart s (bits a 0 4)
  else if form = 4 then flagOp s (bits a 0 3) (bits a 3 2) (bits a 5 2)
  else dfRefuse s
/-- CMD_OUT_LEVELS (R384). -/
def execCmdOutLevels (w0 w1 : Word) (s : State) : Host.Outcome State Fault Refusal :=
  .next (dfTake s 1 w0 w1 fun s => cmdOut s w0 w1)
/-- CMD_OUT_DAC (R384). -/
def execCmdOutDac (w0 w1 : Word) (s : State) : Host.Outcome State Fault Refusal :=
  .next (dfTake s 1 w0 w1 fun s => cmdOut s w0 w1)
/-- CMD_OUT_TRIGGER (R384, R326). -/
def execCmdOutTrigger (w0 w1 : Word) (s : State) : Host.Outcome State Fault Refusal :=
  .next (dfTake s 1 w0 w1 fun s => cmdOut s w0 w1)
/-- CMD_OUT_FLAG (R384, R366). -/
def execCmdOutFlag (w0 w1 : Word) (s : State) : Host.Outcome State Fault Refusal :=
  .next (dfTake s 1 w0 w1 fun s => cmdOut s w0 w1)

/-! ## CMD-CFG (R314, R315) -/

/-- A register whose bits `mask` are replaced and whose bits `w1c` a 1 clears. -/
def fldWrite (s : State) (f mask w1c v : Nat) : State :=
  let o := pay (fldGet s f)
  fldPut s f (mkW (wtag (fldGet s f)) ((o &&& (full - mask) &&& (full - (v &&& w1c))) ||| (v &&& mask)))
/-- Another channel whose mode drives the DAC `d`. -/
def dacTaken (s : State) (u d : Nat) : Bool :=
  channels.any fun c => c != u && chAnalogOut s c && fldF s (fCHCFG c) 21 4 == d
/-- CHCFGu: a reserved MODE, a DAC that another channel has, and a channel that is not ready are refused. -/
def cfgChannel (s : State) (u v : Nat) : Option State :=
  let m := bits v 0 4
  if 9 < m ∨ ((m = 8 ∨ m = 9) ∧ dacTaken s u (bits v 21 4)) ∨ (m ≠ 0 ∧ !chReady s u) then none
  else some (chUpdate (fldWrite s (fCHCFG u) (2 ^ 28 - 1) 0 v) u)
/-- CHTHRu: TLO ≤ THI ≤ 8,000; the threshold is pinned, or clamped into the new envelope with ALERT (R319). -/
def cfgThreshold (s : State) (u v : Nat) : Option State :=
  let lo := bits v 0 14
  let hi := bits v 14 14
  if hi < lo ∨ 8000 < hi then none
  else
    let s := fldWrite s (fCHTHR u) (2 ^ 33 - 1) 0 v
    let t := tcur s u
    some (if bitAt v 32 then tcurPut s u lo false
      else if t < lo then tcurPut s u lo true else if hi < t then tcurPut s u hi true else s)
/-- CHSTATu: SCLATCH, ALERT, SHED and IGN are cleared by ones. -/
def cfgStatus (s : State) (u v : Nat) : State :=
  let old := pay (fldGet s (fCHSTAT u))
  chUpdate (chAfter old (fldWrite s (fCHSTAT u) 0 (0x90 + 2 ^ 25 + 63 * 2 ^ 30) v) u) u
/-- HWCHh: a change of SEL starts a switch (R331). -/
def cfgDriver (s : State) (h v : Nat) : State :=
  let f := fHWCH h
  let old := fldF s f 0 1
  let s := fldWrite s f 7 0x18 v
  if bits v 0 1 = old then s else fldSetF s f 5 1 1
/-- A jig queue word that DF has taken frees a place of the down queue: one credit (R380). -/
def jigCredit (s : State) (j n : Nat) : State :=
  if n = 0 then s else { s with df := { s.df with credOut := s.df.credOut ++ [(j, n)] } }
/-- Does another slot of the die hold OUTOK for the channel or RS-485 output `code` (R348)? -/
def outTaken (s : State) (slot code : Nat) : Bool :=
  (decide (code < 64) || (decide (code < 76) && (code - 64) % 3 != 0)) &&
    (s.fld.any fun p => decide (0x800 ≤ p.1) && decide (p.1 < 0x900) && p.1 != 0x800 + slot &&
      bitAt (pay p.2) 8 && bits (pay p.2) 0 7 == code)
/-- The channels behind the slots of jig `j`. -/
def jigChannels (s : State) (j : Nat) : List Nat :=
  ((List.range 8).map fun p => bits (jpin s j p) 0 7).filter (· < 64)
/-- The channels behind the slots of jig `j` follow its levels. -/
def jigFollow (s : State) (j : Nat) : State := (jigChannels s j).foldl chUpdate s
/-- JPINj,p. -/
def cfgPin (s : State) (slot v : Nat) : Option State :=
  if bitAt v 8 && outTaken s slot (bits v 0 7) then none
  else
    let was := bits (pay (fldGet s (0x800 + slot))) 0 7
    let s := jigFollow (fldWrite s (0x800 + slot) 0x3FF 0 v) (slot / 8)
    some (if was < 64 then chUpdate s was else s)
/-- Jig `j` changed by a write of JSTAT, JPAT, JMSK or JPX. -/
def cfgJig (s : State) (f v : Nat) : State :=
  let j := f % 32
  let g := jigOf s j
  let lo := fun x : BitVec 40 => BitVec.ofNat 40 (setBits x.toNat 0 36 v)
  if f < 0x660 then
    setJig s j { g with
      injref := g.injref &&& (15 - bits v 28 4)
      unsync := g.unsync && !bitAt v 32 }
  else if f < 0x700 then setJig s j { g with pat := lo g.pat }
  else if f < 0x720 then setJig s j { g with mask := lo g.mask }
  else setJig s j { g with
    pat := BitVec.ofNat 40 (setBits g.pat.toNat 36 4 v)
    mask := BitVec.ofNat 40 (setBits g.mask.toNat 36 4 (v / 16)) }
/-- The registers with a plain field and a limit, and those of the supply, the bypass and the ledger. -/
def cfgPlain (s : State) (f v : Nat) : Option State :=
  if f = fSUPCFG then (if 1600 ≤ v ∧ v ≤ 8000 then some (fldWrite s f 0x3FFF 0 v) else none)
  else if f = fBYPCTL then some (fldWrite s f 3 0 v)
  else if f = fBYPSTAT then some (fldWrite s f 0 8 v)
  else if f = fHBTO then some (fldWrite s f 0x3FF 0 v)
  else if f = fPPSSEL then some (fldWrite s f 0xFF 0 v)
  else if 0x40 ≤ f ∧ f < 0x50 then some (fldWrite s f 0x7F 0 v)
  else if 0x50 ≤ f ∧ f ≤ 0x5A then
    some (fldWrite s f (if f = 0x50 then full else if f = 0x51 then 0x1FFF else if f = 0x5A then 0xFFF else 0xFFFFFFFF) 0 v)
  else if f = fEPOCH then (if v = fldF s f 0 12 + 1 ∧ v < 4096 then some (fldSetF s f 0 12 v) else none)
  else if f = fFTAMPCFG then (if v ≤ 125 then some (fldWrite s f 0xFF 0 v) else none)
  else none
/-- The registers of the converters, the triggers and the ports. -/
def cfgUnits (s : State) (f v : Nat) : Option State :=
  if f < 0x400 then some (fldWrite s f (2 ^ 35 - 1) 0 v)
  else if f < 0x410 then
    (if bits v 0 16 ≠ 0 ∧ !mxReady s then none else some (fldWrite s f 0xFFFFFF 0x2000000 v))
  else if f < 0x420 then (if bits v 0 2 = 1 ∧ bits v 2 20 < 10 then none else some (fldWrite s f (2 ^ 33 - 1) 0 v))
  else if 4 < bits v 22 3 ∨ (bitAt v 0 ∧ !portReady s (f - 0x500)) then none
  else some (fldWrite s f 0x3FFFFFF 0 v)
/-- A CMD-CFG for field register `f` with payload `v`: the new state, `none` where DF refuses it. -/
def cfgDo (s : State) (f v : Nat) : Option State :=
  if f < 0x100 then (if fieldReg f = 1 then some s else cfgPlain s f v)
  else if f < 0x140 then cfgChannel s (f - 0x100) v
  else if f < 0x180 then cfgThreshold s (f - 0x140) v
  else if f < 0x1C0 then some (chUpdate (fldWrite s f 0xFFFFFFFF 0 v) (f - 0x180))
  else if f < 0x200 then some (cfgStatus s (f - 0x1C0) v)
  else if f < 0x208 then some (cfgDriver s (f - 0x200) v)
  else if fieldReg f = 0 ∨ 0x900 ≤ f then none
  else if f < 0x600 then cfgUnits s f v
  else if f < 0x608 then some (flagsPut s (f - 0x600) (v % 16))
  else if f < 0x640 then (if 40 < bits v 16 6 then none else some (fldWrite s f (2 ^ 27 - 1) 0 v))
  else if 0x660 ≤ f ∧ f < 0x6E0 then some s
  else if f < 0x740 then some (cfgJig s f v)
  else cfgPin s (f - 0x800) v
/-- CMD_CFG (R314, R315): DF writes the register and answers, or refuses. -/
def execCmdCfg (w0 w1 : Word) (s : State) : Host.Outcome State Fault Refusal :=
  .next (dfTake s 1 w0 w1 fun s =>
    let f := pay w0 % 2 ^ 16
    match cfgDo s f (pay w1) with
    | some t => dfAnswer t f false
    | none => dfAnswer s f true)

/-! ## SAFE-SET and BYPASS-CTL -/

/-- The channels of a SAFE-SET (R382). -/
def safeChannels (w0 : Nat) : List Nat := (bitList 32 w0).map (· + 32 * bits w0 32 1)
/-- A SAFE-SET: bit 33 of W0 says release; a release in UV or OVLONG is refused (R334). -/
def safeSet (s : State) (w0 : Word) : State :=
  if !bitAt (pay w0) 33 then (safeChannels (pay w0)).foldl safeEnter s
  else if supplyBad s then dfRefuse s
  else (safeChannels (pay w0)).foldl (fun s u => if chSafe s u then safeLeave s u else s)
    (modField s fun f => { f with safe := false })
/-- SAFE_SET_ENTER (R333). -/
def execSafeSetEnter (w0 w1 : Word) (s : State) : Host.Outcome State Fault Refusal :=
  .next (dfTake s 1 w0 w1 fun s => safeSet s w0)
/-- SAFE_SET_RELEASE (R334). -/
def execSafeSetRelease (w0 w1 : Word) (s : State) : Host.Outcome State Fault Refusal :=
  .next (dfTake s 1 w0 w1 fun s => safeSet s w0)
/-- BYPASS_OPEN (R338). -/
def execBypassOpen (s : State) : Host.Outcome State Fault Refusal := .next (dfTake s 1 (natW 1) (natW 0) bypassAsk)
/-- BYPASS_CLOSE (R337). -/
def execBypassClose (s : State) : Host.Outcome State Fault Refusal :=
  .next (dfTake s 1 (natW 0) (natW 0) fun s => bypassShut s 2)
/-- BYPASS_TEST_DONE (R339). -/
def execBypassTestDone (ok : Bool) (s : State) : Host.Outcome State Fault Refusal :=
  .next (if s.field.up then bypassTested s ok else s)

/-! ## Ports (R336, R385) -/

/-- Is port `p` enabled: EN, and for the chain ports the bypass open? -/
def portOn (s : State) (p : Nat) : Bool :=
  s.field.up && portReady s p && fldB s (fPORTCFG p) 0 && (decide (p < 10) || !fldB s fBYPSTAT 0)
/-- May a port send an image of `n` bytes? -/
def imageOk (p n : Nat) : Bool := if p < 4 then 4 ≤ n && canLen (n - 4) else 14 ≤ n && decide (n ≤ 1514)
/-- A transmit report for `n` bytes of port `p` (R382): 0 sent, 1 refused by the port's state, 2 dropped in safe state.
Its field address names the port by PORTCFGp (DEDUCED, log entry 32). -/
def txReport (s : State) (p n result : Nat) : State :=
  dfSend s ⟨0x29, natW (fPORTCFG p + 2 ^ 18 + 2 ^ 19 * result), natW n⟩
/-- The length that the first two bytes of an image give. -/
def imageLen (b : List Byte) : Nat := (b.getD 0 0#8).toNat * 256 + (b.getD 1 0#8).toNat
/-- A whole image stands in the port: it waits for its turn, or its report is made at once. -/
def portQueue (s : State) (p : Nat) (img : List Byte) : State :=
  let q := portOf s p
  if s.field.safe then txReport s p img.length 2
  else if portOn s p && !fldB s (fPORTCFG p) 3 && !q.busOff && imageOk p img.length then
    setPort s p { q with txQ := q.txQ ++ [img] }
  else txReport s p img.length 1
/-- Chunk bytes join the image of port `p`; the last chunk completes it. -/
def portGather (s : State) (p : Nat) (b : List Byte) : State :=
  let q := portOf s p
  if 2 ≤ b.length ∧ imageLen b + 2 ≤ b.length then
    portQueue (setPort s p { q with txPart := [] }) p ((b.drop 2).take (imageLen b))
  else setPort s p { q with txPart := b }
/-- PORT_TX_FIRST (R385). -/
def execPortTxFirst (p : Fin 12) (b : List Byte) (s : State) : Host.Outcome State Fault Refusal :=
  if chunkOk b then
    .next (dfTake s 3 (natW 0) (natW 0) fun s => if imagePort p.val then portGather s p.val b else dfDrop s)
  else .fault .illFormed
/-- PORT_TX_LATER (R385). -/
def execPortTxLater (p : Fin 12) (b : List Byte) (s : State) : Host.Outcome State Fault Refusal :=
  if chunkOk b then
    .next (dfTake s 3 (natW 0) (natW 0) fun s =>
      let part := (portOf s p.val).txPart
      if !imagePort p.val then dfDrop s else if part.isEmpty then s else portGather s p.val (part ++ b))
  else .fault .illFormed
/-- PORT_FRAME_SENT (R385): the oldest image of the port has been sent, or was not; the ports send nothing while the die
holds safe state. -/
def execPortFrameSent (p : Fin 12) (result : BitVec 2) (s : State) : Host.Outcome State Fault Refusal :=
  .next (match (portOf s p.val).txQ with
    | [] => s
    | img :: t =>
      let r := if s.field.safe ∧ result = 0#2 then 2 else result.toNat
      let q := portOf s p.val
      let s := setPort s p.val { q with txQ := t, busOff := q.busOff && r != 0 }
      txReport (if r = 0 then emit s (.canTx p.val img) else s) p.val img.length r)
/-- Bytes of received frames of port `p` that the link has not delivered (R336: 8 KiB). -/
def rxHeld (s : State) (p : Nat) : Nat :=
  ((portOf s p).rxWait.map List.length).foldl (· + ·) 0 +
    10 * (s.df.unacked.filter fun f => f.msg.typ == 0x60 + p || f.msg.typ == 0x70 + p).length
/-- The bytes of a received image on the line: length, stamp of the start of frame, image (R385). -/
def rxBytes (img : List Byte) (t : Nat) : List Byte :=
  [BitVec.ofNat 8 (img.length / 256), BitVec.ofNat 8 img.length] ++
    ((List.range 5).map fun i => BitVec.ofNat 8 (t / 2 ^ (8 * (4 - i)))) ++ img
/-- Received frames go to DH as chunks while DF is paired (R336). -/
def rxFlush (s : State) (p : Nat) : State :=
  if s.field.paired then
    let q := portOf s p
    (q.rxWait.flatMap (chunkMsgs (0x60 + p) (0x70 + p))).foldl dfSend (setPort s p { q with rxWait := [] })
  else s
/-- PORT_FRAME_RECEIVED (R336): a whole frame that passed its check. -/
def execPortFrameReceived (p : Fin 12) (image : List Byte) (start : Payload) (s : State) :
    Host.Outcome State Fault Refusal :=
  .next (if !(portOn s p.val && imagePort p.val && decide (image.length < 2 ^ 12)) then s
    else
      let q := portOf s p.val
      if 8192 < rxHeld s p.val + image.length then setPort s p.val { q with rxDrop := q.rxDrop + 1 }
      else rxFlush (setPort s p.val
        { q with rxWait := q.rxWait ++ [rxBytes image start.toNat], busOff := false }) p.val)
/-- PORT_BUS_OFF (R382): FAULT code 9. -/
def execPortBusOff (p : Fin 12) (s : State) : Host.Outcome State Fault Refusal :=
  .next (if portOn s p.val then
    dfFault (setPort s p.val { portOf s p.val with busOff := true }) 9 (some p.val) else s)

end Sys2Proof.Machine
end

