-- ==== Sys2Proof/Machine/Link.lean ====
section
/-! DEFINITION. The dovetail as DH sees it (R371 to R381): arrival of frames, lanes, the loss and the making of a pairing,
acknowledgements and credits. -/

namespace Sys2Proof.Machine

/-! ## Arrival at DH -/

/-- Does DH hear verified frames: paired, with at least 2 working lanes (R371)? -/
def dhHears (s : State) : Bool := s.alive && dvPaired s && decide (2 ≤ lanesUp s.dh)
/-- A frame with body `w0`, `w1` arrives at DH: one with a tag that R53 refuses is consumed and dropped. -/
def dhTake (s : State) (cls : Nat) (w0 w1 : Word) (f : State → State) : State :=
  if !dhHears s then s
  else
    let s := { s with dh := s.dh.take cls }
    if dvTag (wtag w0) && dvTag (wtag w1) then f s else dvDrop s

/-! ## Lanes (R371) -/

/-- How many of four lanes a mask names. -/
def laneCount (m : Nat) : Nat := popCount 4 m
/-- Does the spare carry traffic of a direction with the failed lanes `m`? -/
def spareUsed (m : Nat) : Bool := !bitAt m 3 && m % 8 != 0
/-- SPARE and DEGRADED follow the failed lanes, and SKERF with them. -/
def laneFollow (s : State) : State :=
  let r := ioF s aDVSTAT 6 4
  let t := ioF s aDVSTAT 10 4
  skerfFollow (ioSetB (ioSetB s aDVSTAT 4 (spareUsed r || spareUsed t)) aDVSTAT 5 (laneCount r == 2 || laneCount t == 2))
/-- The failed lanes of one direction at field `lo` of DVSTAT become `m`: source 389 for a change. -/
def laneSet (s : State) (lo m : Nat) : State :=
  if ioF s aDVSTAT lo 4 = m then s else laneFollow (raise (ioSetF s aDVSTAT lo 4 m) 389)
/-- All lanes retrained at the start of a pairing attempt; each is taken to lock again (log entry 33). -/
def laneRetrain (s : State) : State :=
  let s := { s with dh := { s.dh with lanes := [] }, df := { s.df with lanes := [] } }
  laneSet (laneSet (modField s fun f => { f with txLanes := 0 }) 6 0) 10 0

/-! ## Loss of the pairing -/

/-- READYMAP bits that fall with the heartbeat: the dovetail, the shadow, and those that follow FRDY0 to FRDY2 (R488). -/
def lostBits : List Nat := [44, 45] ++ (List.range 13).map (· + 48)
/-- How many messages a loss discards: those unacknowledged and those in the send queues (R381). -/
def lostCount (s : State) : Nat :=
  s.dh.unacked.length + ((List.range 32).map fun c => (coreOf s c).sendQ.length).foldl (· + ·) 0
/-- The messages of DH are discarded and counted, and its pairing state goes. Messages kept for full receive queues
stay. -/
def dhUnpair (s : State) : State :=
  let s := ioSetF s aDROPCNT 16 16 (satAt 0xFFFF (ioF s aDROPCNT 16 16 + lostCount s))
  let s := (List.range 32).foldl (fun s c => modCore s c fun k => { k with sendQ := [] }) s
  { ioSetF s aDVSTAT 0 2 0 with
    dh := { DvEnd.reset with lanes := s.dh.lanes }
    dov := { DovH.reset with kept := s.dov.kept } }
/-- The handlers that wait for the dovetail end with NOLINK (R415), and what a full send queue stalled goes on (R166). -/
def linkLostWaits (s : State) : State :=
  sendWake ((s.waits.filter fun x => x.await.isSome || x.frame.isSome).foldl (fun s x => waitDone s x 0x11 (natW 0)) s)
/-- A tag failure at DH (R375): MACFAIL, and at MACTHR of them within 1 ms source 388 and a new pairing. -/
def dhMacFail (s : State) : State :=
  let (l, hit) := within1ms s.dov.macs (tbGet s 1) (ioF s aDVCFG 28 8)
  let s := ioInc { s with dov := { s.dov with macs := l } } aLINKCNT 0 16
  if hit then linkLostWaits (readyClear (dhUnpair (raise s 388)) 44) else s

/-! ## Acknowledgement and credits -/

/-- Is number `n` before `next`, modulo 2^14 (R379)? -/
def numBefore (n next : Nat) : Bool := n != next && decide ((next + 2 ^ 14 - n) % 2 ^ 14 < 2 ^ 13)
/-- The frames that an acknowledgement of class `cls` up to `next` leaves. -/
def ackClass (e : DvEnd) (cls next : Nat) : DvEnd :=
  { e with unacked := e.unacked.filter fun f => !(f.cls == cls && numBefore f.num next) }
/-- The acknowledgements of a HEARTBEAT (R383). -/
def ackAll (e : DvEnd) (w0 w1 : Nat) : DvEnd :=
  ackClass (ackClass (ackClass e 1 (bits w0 0 14)) 2 (bits w0 14 14)) 3 (bits w1 0 14)
/-- Outstanding frames of class `cls`. -/
def outstanding (e : DvEnd) (cls : Nat) : Nat := (e.unacked.filter fun f => f.cls == cls).length
/-- DH retransmits `n` frames. -/
def retxCount (s : State) (n : Nat) : State := ioSetF s aLINKCNT 16 16 (satAt 0xFFFF (ioF s aLINKCNT 16 16 + n))
/-- The frames that the NAK bits `m` of classes 1 to 3 name. -/
def nakked (e : DvEnd) (m : Nat) : Nat := ((bitList 3 m).map fun i => outstanding e (i + 1)).foldl (· + ·) 0
/-- Every core's send queue drains as far as credits allow; what waited for room goes on. -/
def sendAll (s : State) : State :=
  sendWake ((List.range 32).foldl (fun s c => dvDrain c 17 s) s)
/-- A HEARTBEAT at DH. -/
def heartbeatDh (s : State) (w0 w1 : Nat) : State :=
  let s := { s with dh := ackAll s.dh w0 w1 }
  let s := retxCount s (nakked s.dh (bits w0 28 3))
  let s := laneSet s 10 (bits w0 31 4)
  let j := bits w1 14 5
  let s := { s with
    dov := { s.dov with
      jigCred := tabSet 8 s.dov.jigCred j (satAt 8 (tabGet 8 s.dov.jigCred j + bits w1 19 4)) } }
  sendAll (waitAcked s)
/-- A HEARTBEAT at DF: each lane that its transmitter has lost is reported by FAULT code 6. -/
def heartbeatDf (s : State) (w0 w1 : Nat) : State :=
  let s := { s with df := ackAll s.df w0 w1 }
  let m := bits w0 31 4
  let new := (bitList 4 m).filter fun i => !bitAt s.field.txLanes i
  let c := bits w1 14 5
  let s := modField s fun f => { f with
    txLanes := m
    coreCred := tabSet 16 f.coreCred c (satAt 16 (tabGet 16 f.coreCred c + bits w1 19 4)) }
  new.foldl (fun s i => dfFault s 6 (some i)) s
/-- Credits that a HEARTBEAT returns: those of the first holder, 8 at most. -/
def credHead (l : List (Nat × Nat)) : Nat × Nat :=
  match l with
  | [] => (0, 0)
  | (h, _) :: _ => (h, min 8 (((l.filter fun p => p.1 == h).map (·.2)).foldl (· + ·) 0))
/-- The credits that remain once `n` of holder `h` are returned. -/
def credRest : List (Nat × Nat) → Nat → Nat → List (Nat × Nat)
  | [], _, _ => []
  | (a, k) :: t, h, n =>
    if a = h then (if k ≤ n then credRest t h (n - k) else (a, k - n) :: t) else (a, k) :: credRest t h n
/-- The bodies of the HEARTBEAT that end `e` sends; the NAK bits that a receiver sends follow checks of frames that fail,
which no command brings, and are 0. -/
def heartbeatMsg (e : DvEnd) : Msg :=
  let n := fun c => tabGet 0 e.rxNum c % 2 ^ 14
  let m := e.lanes.foldl (fun m i => setBits m i 1 1) 0
  let (h, k) := credHead e.credOut
  ⟨0x01, natW (n 1 + 2 ^ 14 * n 2 + 2 ^ 31 * m), natW (n 3 + 2 ^ 14 * h + 2 ^ 19 * k)⟩
/-- End `e` sends its HEARTBEAT. -/
def heartbeatOut (e : DvEnd) : DvEnd :=
  let (h, k) := credHead e.credOut
  { e.send (heartbeatMsg e) with since := 0, credOut := credRest e.credOut h k }

/-! ## Keys -/

/-- `n` bytes of `v`, most significant first. -/
def beBytes (n v : Nat) : List Byte := (List.range n).map fun i => BitVec.ofNat 8 (v / 2 ^ (8 * (n - 1 - i)))
/-- K(e + 1) from K(e) (R377). -/
def nextKey (k : BitVec 128) (e : Nat) : BitVec 128 := Config.aesCmac k (beBytes 4 0x524F4C4C ++ beBytes 4 (e + 1))
/-- The pairing secret S in the one-time-programmable store (R376); an unburned word reads 0. -/
def pairSecret (s : State) : BitVec 128 :=
  (((tabGet none s.field.otp Config.otpSecret).getD 0#64).append
    ((tabGet none s.field.otp (Config.otpSecret + 1)).getD 0#64)).cast (by decide)
/-- K0 (R376). -/
def firstKey (s : State) (nf nh : Payload) : BitVec 128 :=
  Config.aesCmac (pairSecret s) (beBytes 4 0x44565401 ++ beBytes 5 nf.toNat ++ beBytes 5 nh.toNat)
/-- The end switches to the next key. -/
def DvEnd.roll (e : DvEnd) : DvEnd := { e with key := nextKey e.key e.epoch, epoch := e.epoch + 1, sent := 0 }

end Sys2Proof.Machine
end

