-- ==== Sys2Proof/Machine/LinkRows.lean ====
section
/-! DEFINITION. The dovetail's own commands (R371 to R387): heartbeats, timeouts, lanes, pairing, key rolls, ECHO, TIME-SYNC
and frames outside the catalogue. -/

namespace Sys2Proof.Machine

/-! ## Heartbeat -/

/-- HEARTBEAT (R383). -/
def execHeartbeat (atDH : Bool) (w0 w1 : Word) (s : State) : Host.Outcome State Fault Refusal :=
  .next (if atDH then dhTake s 0 w0 w1 fun s => heartbeatDh s (pay w0) (pay w1)
    else dfTake s 0 w0 w1 fun s => heartbeatDf s (pay w0) (pay w1))
/-- HEARTBEAT_SEND (R379, R381). -/
def execHeartbeatSend (fromDH : Bool) (s : State) : Host.Outcome State Fault Refusal :=
  .next (if fromDH then (if dvPaired s then { s with dh := heartbeatOut s.dh } else s)
    else if s.field.paired then { s with df := heartbeatOut s.df } else s)
/-- DH_HEARTBEAT_TIMEOUT (R381). -/
def execDhHeartbeatTimeout (s : State) : Host.Outcome State Fault Refusal :=
  .next (if dvPaired s then
      let s := ioSetF (dhUnpair s) aDVSTAT 2 2 3
      let s := setCause (raise (lostBits.foldl readyClear s) 386) 2 true
      linkLostWaits s
    else s)
/-- DF_HEARTBEAT_TIMEOUT (R381): safe state on every channel, bypass closed, pairing state discarded. -/
def execDfHeartbeatTimeout (s : State) : Host.Outcome State Fault Refusal :=
  .next (if s.field.up && s.field.paired then dfUnpair (bypassShut (safeAll s) 3) else s)
/-- RETRANSMIT_TIMEOUT (R379): the class is sent again from its acknowledged point. -/
def execRetransmitTimeout (fromDH : Bool) (cls : Fin 4) (s : State) : Host.Outcome State Fault Refusal :=
  .next (if fromDH && dvPaired s then retxCount s (outstanding s.dh cls.val) else s)
/-- LANE_FAILURE (R371): the receiver marks the lane failed. -/
def execLaneFailure (intoDH : Bool) (lane : Fin 4) (s : State) : Host.Outcome State Fault Refusal :=
  .next (if intoDH then
      (if s.alive && !s.dh.lanes.contains lane.val then
        laneSet { s with dh := { s.dh with lanes := lane.val :: s.dh.lanes } } 6
          (setBits (ioF s aDVSTAT 6 4) lane.val 1 1)
      else s)
    else if s.field.up && !s.df.lanes.contains lane.val then
      { s with df := { s.df with lanes := lane.val :: s.df.lanes } }
    else s)

/-! ## Pairing (R376) -/

/-- A failed attempt: PFAIL, source 385; DF draws a new NF. -/
def pairFail (s : State) : State :=
  let s := ioSetF s aDVSTAT 15 3 (satAt 7 (ioF s aDVSTAT 15 3 + 1))
  let s := raise (ioSetB s aDVSTAT 1 false) 385
  { modField s (fun f => { f with nf := none, keyed := false }) with
    dov := { s.dov with replied := false } }
/-- Can DH pair: PAIRKEY written, the engine valid, the keeper core ready? -/
def pairReady (s : State) : Bool :=
  s.alive && wtag (ioGet s aPAIRKEY) == .keyref && cipherValid s && readyBit s 3
/-- HELLO (R376): the ROM verifies it by a job under PAIRKEY that ends with `macSt`, draws NH and sends REPLY. A HELLO
under a pairing fails its tag, which is not the epoch key's (R375). -/
def execHello (w0 w1 : Word) (macSt : BitVec 3) (s : State) : Host.Outcome State Fault Refusal :=
  .next (if dvPaired s then (if s.alive then dhMacFail s else s)
    else if !pairReady s then s
    else
      let s := laneRetrain (cipherCount (ioSetB s aDVSTAT 1 true) s.carrier macSt.toNat)
      if macSt ≠ 0#3 then pairFail s
      else
        let nh := BitVec.ofNat 36 (freeVal s)
        let s := { bump s with
          dov := { s.dov with
            nf := BitVec.ofNat 36 (pay w1)
            nh := nh
            replied := true
            freset := bitAt (pay w0) 4 } }
        dhSend s ⟨0x02, natW 2, bitsW nh.toNat⟩)
/-- HELLO_REPEAT (R376): DF, with FS ready and not paired, sends HELLO; a new attempt draws NF. -/
def execHelloRepeat (s : State) : Host.Outcome State Fault Refusal :=
  .next (if s.field.up && fsReady s && !s.field.paired then
      let s := match s.field.nf with
        | some _ => s
        | none => modField (bump s) fun f => { f with nf := some (BitVec.ofNat 36 (freeVal s)), keyed := false }
      let d := freeVal s
      { bump s with
        df := s.df.send ⟨0x02, natW (1 + 16 * s.field.freset.toNat + 256 * (d % 256)),
          bitsW (match s.field.nf with | some n => n.toNat | none => 0)⟩ }
    else s)
/-- REPLY (R376): DF verifies it and derives K0. -/
def execReply (_ w1 : Word) (ok : Bool) (s : State) : Host.Outcome State Fault Refusal :=
  .next (match s.field.nf with
    | none => s
    | some nf =>
      if !s.field.up || s.field.paired || s.field.keyed then s
      else if ok then
        let nh := BitVec.ofNat 36 (pay w1)
        let s := { modField s (fun f => { f with nh := nh, keyed := true }) with
          df := { s.df with key := firstKey s nf nh } }
        { s with df := s.df.send ⟨0x02, natW 3, bitsW 0⟩ }
      else pairFail s)
/-- The field registers, ascending. -/
def fieldRegs : List Nat := (List.range 0x1000).filter fun f => fieldReg f != 0
/-- What DF does once it is paired: the FAULT that waited, the shadow dump, the frames that its ports received. -/
def dfPaired (s : State) : State :=
  let wait := s.field.waitFault
  let s := modField s fun f => { f with paired := true, freset := false, waitFault := none, keyed := false, nf := none }
  let s := match wait with
    | some c => dfFault s c none
    | none => s
  let s := if fldB s fFTAMPSTAT 4 then dfFault s 4 none else s
  (List.range 12).foldl rxFlush (fieldRegs.foldl dfStatus s)
/-- Both ends start with K0: every counter at 0. -/
def bothKeyed (s : State) : State :=
  { s with
    dh := { DvEnd.reset with key := s.df.key, lanes := s.dh.lanes }
    df := { DvEnd.reset with key := s.df.key, lanes := s.df.lanes }
    dov := { DovH.reset with dump := true, nf := s.dov.nf, nh := s.dov.nh, freset := s.dov.freset, kept := s.dov.kept } }
/-- The bits of DVSTAT and DVRTT at pairing. -/
def pairedBits (s : State) (rtt : Nat) : State :=
  let s := ioSetF (ioSetF s aDVSTAT 0 2 1) aDVSTAT 15 3 0
  ioSetF (ioSetB s aDVSTAT 14 s.dov.freset) aDVRTT 0 8 rtt
/-- CONFIRM (R376): K0 verifies, ECHO gives the round trip, and the pair is paired. -/
def execConfirm (ok : Bool) (rtt : BitVec 8) (s : State) : Host.Outcome State Fault Refusal :=
  .next (if !(s.alive && s.dov.replied && s.field.keyed) || dvPaired s then s
    else if !(decide (2 ≤ lanesUp s.dh) && decide (2 ≤ lanesUp s.df)) then s
    else if !ok then pairFail s
    else
      let s := pairedBits (bothKeyed (cipherCount s s.carrier 0)) rtt.toNat
      let s := setCause (readyUp (raise s 384) 44) 2 false
      sendWake (dfPaired s))

/-! ## Key rolls (R377) -/

/-- DH sends ROLL naming its next epoch and switches. -/
def rollStart (s : State) : State :=
  { dhSend s ⟨0x02, natW (4 + 256 * (s.dh.epoch + 1)), bitsW 0⟩ with
    dh := (s.dh.send ⟨0x02, natW (4 + 256 * (s.dh.epoch + 1)), bitsW 0⟩).roll
    dov := { s.dov with rolling := true } }
/-- KEY_ROLL_START: 2^24 frames have been sent under the epoch key, over both directions. -/
def execKeyRollStart (s : State) : Host.Outcome State Fault Refusal :=
  .next (if dvPaired s && !s.dov.rolling && decide (2 ^ 24 ≤ s.dh.sent + s.df.sent) then rollStart s else s)
/-- A ROLL at DF: it switches to the epoch named, and answers; a ROLL sent again is answered again. -/
def rollDf (s : State) (e : Nat) : State :=
  let s := if e = (s.df.epoch + 1) % 2 ^ 28 then { s with df := { s.df.roll with prevLeft := 64 } } else s
  if e = s.df.epoch % 2 ^ 28 then dfSend s ⟨0x02, natW (5 + 256 * e), bitsW 0⟩ else s
/-- ROLL (R377): at DH it is DF's request for an early roll, naming the epoch unchanged. -/
def execRoll (atDH : Bool) (w0 w1 : Word) (s : State) : Host.Outcome State Fault Refusal :=
  let e := bits (pay w0) 8 28
  .next (if atDH then
      dhTake s 0 w0 w1 fun s => if e = s.dh.epoch % 2 ^ 28 ∧ !s.dov.rolling then rollStart s else s
    else dfTake s 0 w0 w1 fun s => rollDf s e)
/-- ROLL_RETRY (R377). -/
def execRollRetry (s : State) : Host.Outcome State Fault Refusal :=
  .next (if dvPaired s && s.dov.rolling then dhSend s ⟨0x02, natW (4 + 256 * s.dh.epoch), bitsW 0⟩ else s)
/-- ROLLACK (R377): for 64 frames more DH accepts the previous key. -/
def execRollack (w0 w1 : Word) (s : State) : Host.Outcome State Fault Refusal :=
  .next (dhTake s 0 w0 w1 fun s =>
    if s.dov.rolling ∧ bits (pay w0) 8 28 = s.dh.epoch % 2 ^ 28 then
      { s with
        dh := { s.dh with prevLeft := 64 }
        dov := { s.dov with rolling := false } }
    else s)

/-! ## ECHO and time -/

/-- The core that sent the ECHO with this token. -/
def echoCore (s : State) (tok : Nat) : Option (Nat × Nat) := s.dov.echoes.find? fun p => p.1 == tok
/-- ECHO (R382): returned with [35] set; a reply at DH goes to the core that sent the token. -/
def execEcho (atDH : Bool) (w0 w1 : Word) (s : State) : Host.Outcome State Fault Refusal :=
  let tok := pay w0 % 2 ^ 35
  let back : Msg := ⟨0x03, natW (tok + 2 ^ 35), w1⟩
  .next (if atDH then
      dhTake s 0 w0 w1 fun s =>
        if bitAt (pay w0) 35 then
          match echoCore s tok with
          | none => s
          | some p => coreRecv { s with dov := { s.dov with echoes := s.dov.echoes.erase p } } p.2 back
        else dhSend s back
    else dfTake s 0 w0 w1 fun s => if bitAt (pay w0) 35 then s else dfSend s back)
/-- TIME_SYNC (R387): field time, half a round trip after W0; its rate. -/
def execTimeSync (w0 w1 : Word) (s : State) : Host.Outcome State Fault Refusal :=
  .next (dfTake s 0 w0 w1 fun s =>
    modField s fun f => { f with
      time := BitVec.ofNat 36 (pay w0 + ioF s aDVRTT 0 8 / 2)
      rate := signed 36 (pay w1)
      synced := true })
/-- TIME_SYNC_SEND (R387). -/
def execTimeSyncSend (s : State) : Host.Outcome State Fault Refusal :=
  .next (if dvPaired s then dhSend s ⟨0x04, mkW .time (tbLo s 0), mkW .int (pay (ioGet s aTDRATE))⟩ else s)
/-- FIELD_TIME_UNSYNC (R329). -/
def execFieldTimeUnsync (s : State) : Host.Outcome State Fault Refusal :=
  .next (if s.field.up then modField s fun f => { f with synced := false } else s)

/-! ## Frames outside the catalogue -/

/-- UNKNOWN_FRAME (R375): consumed and dropped; `thr` says that other drops of this millisecond, which no command has
brought, make it the one that completes the threshold. -/
def execUnknownFrame (atDH : Bool) (cls : Fin 4) (thr : Bool) (s : State) : Host.Outcome State Fault Refusal :=
  .next (if atDH then
      (if !dhHears s then s
      else
        let t := dvDrop { s with dh := s.dh.take cls.val }
        if thr && !t.dov.drops.isEmpty then raise { t with dov := { t.dov with drops := [] } } 387 else t)
    else if !dfHears s then s
    else
      let t := dfDrop { s with df := s.df.take cls.val }
      if thr && !t.field.drops.isEmpty then
        dfFault (modField (bump t) fun f => { f with drops := [] }) (freeVal t % 256) none
      else t)

end Sys2Proof.Machine
end

