-- ==== Sys2Proof/Machine/JigRows.lean ====
section
/-! DEFINITION. The jigs (chapter 11): JIG-PROG, JIG-INJECT, JIG-CTL, QWORD, and their instructions. A command of an
instruction is that instruction's execution by jig `j`; how many jig cycles it takes is timing (log entry 4). -/

namespace Sys2Proof.Machine

/-! ## Reports -/

/-- The jig registers that the state `t` reports because jig `j` changed from what it was in `s` (R314, R368). -/
def jigReport (s t : State) (j : Nat) : State :=
  [0x640, 0x660, 0x680, 0x6A0, 0x6C0].foldl
    (fun t f => if fldValue s (f + j) = fldValue t (f + j) then t else dfStatus t (f + j)) t
/-- Jig `j` changed by `f`, with the reports of the change. -/
def jigMod (s : State) (j : Nat) (f : Jig → Jig) : State := jigReport s (setJig s j (f (jigOf s j))) j

/-! ## Instruction fields (R349) -/

/-- [23:20] TYPE. -/
def jType (i : Nat) : Nat := bits i 20 4
/-- The jig store word at `k` of the group of jig `j`. -/
def jStore (s : State) (j k : Nat) : Nat := pay (fldGet s (fJSTORE (j / 4) k))

/-! ## Pins (R346) -/

/-- Is slot code `c` a receiver output of an RS-485 port? -/
def rxCode (c : Nat) : Bool := decide (64 ≤ c) && decide (c < 76) && (c - 64) % 3 == 0
/-- What slot `p` of jig `j` reads with the receive lines at `rx`; a slot that names an output of an RS-485 port reads
the jig's own level. -/
def pinRead (s : State) (j p rx : Nat) : Bool :=
  let w := jpin s j p
  let c := bits w 0 7
  if !bitAt w 7 then false
  else if c < 64 then (decide (1 ≤ chMode s c) && decide (chMode s c ≤ 4) && fldB s (fCHSTAT c) 0) != bitAt w 9
  else if rxCode c then bitAt rx ((c - 64) / 3) != bitAt w 9
  else if c < 76 then bitAt (jigOf s j).levels.toNat p
  else false
/-- The levels that jig `j` sees; a receive line keeps its level of the cycle before where `rx` gives none. -/
def pinsNow (s : State) (j : Nat) (rx : Option Nat) : Nat :=
  packNat ((List.range 8).map fun p =>
    (p, 1, (match rx with
      | some r => pinRead s j p r
      | none => if bitAt (jpin s j p) 7 && rxCode (bits (jpin s j p) 0 7) then bitAt (jigOf s j).prevPins.toNat p
          else pinRead s j p 0).toNat))
/-- A cycle of jig `j` ends with the levels `now`: they become the levels of the cycle before. -/
def pinsSeen (s : State) (j now : Nat) : State :=
  let g := jigOf s j
  let ps := (List.range 8).filter fun p => bitAt now p != bitAt g.prevPins.toNat p
  setJig s j { g with
    prevPins := BitVec.ofNat 8 now
    lastChg := ps.foldl (fun t p => tabSet none t p (some s.field.time)) g.lastChg }
/-- Did slot `p` rise (`up`) or fall between the cycle before and this one? -/
def pinEdge (s : State) (j p now : Nat) (up : Bool) : Bool :=
  bitAt now p == up && bitAt (jigOf s j).prevPins.toNat p != up

/-! ## Fetch, faults, and the frame of an instruction -/

/-- The instruction that jig `j` runs next, and whether it is injected (R365): none while it stalls, or while it is
halted without an injection. -/
def jigNext (s : State) (j : Nat) : Option (Nat × Bool) :=
  let g := jigOf s j
  if g.stall then none
  else match g.inj with
    | some i => some (i.toNat, true)
    | none => if g.run then some (if g.pc < 48 then jStore s j g.pc % 2 ^ 24 else 0, false) else none
/-- The jig with the instruction in its latch: PC names the fetch after it. -/
def jigLatch (g : Jig) (i : Nat) (inj : Bool) : Jig :=
  { g with
    latch := BitVec.ofNat 24 i
    inj := if inj then none else g.inj
    pc := if inj then g.pc else (g.pc + 1) % 64 }
/-- A jig fault (R361): HALTC 3, PC at the faulting instruction, jig event 1, FAULT code 8. -/
def jigFault (s : State) (j f : Nat) : State :=
  let g := jigOf s j
  let s := setJig s j { g with run := false, stall := false, haltc := 3, fault := f }
  dfFault (dfPulse s (257 + 2 * j) false) 8 (some j)
/-- The state after jig `j` took the fault `f` of an instruction that was injected or fetched. -/
def jigFaulted (s : State) (j f : Nat) (inj : Bool) : State :=
  jigFault (setJig s j { jigOf s j with inj := if inj then none else (jigOf s j).inj }) j f
/-- Jig `j` runs its next instruction if it is one of those that `p` names: `body` sees the instruction in the latch and
the levels `now`, and answers the state or a fault. -/
def jigDo (s : State) (j : Nat) (rx : Option Nat) (p : Nat → Bool) (body : State → Nat → Nat → Except Nat State) :
    State :=
  if !s.field.up then s
  else match jigNext s j with
    | none => s
    | some (i, inj) =>
      let now := pinsNow s j rx
      if !inj && decide (48 ≤ (jigOf s j).pc) then s
      else if p i then
        match body (setJig s j (jigLatch (jigOf s j) i inj)) i now with
        | .ok t => jigReport s (pinsSeen t j now) j
        | .error f => jigReport s (jigFaulted s j f inj) j
      else s
/-- Jig `j` goes on with the instruction that it stalls in, if it is one of those that `p` names. -/
def jigAgain (s : State) (j : Nat) (rx : Option Nat) (p : Nat → Bool) (body : State → Nat → Nat → State) : State :=
  let g := jigOf s j
  if s.field.up && g.stall && p g.latch.toNat then
    let now := pinsNow s j rx
    jigReport s (pinsSeen (body s g.latch.toNat now) j now) j
  else s
/-- Jig `j` changed by `f`. -/
def jigSet (s : State) (j : Nat) (f : Jig → Jig) : State := setJig s j (f (jigOf s j))
/-- Is the instruction of type `t` with OP `op` in [16:15]? -/
def jIs (t op i : Nat) : Bool := jType i == t && bits i 15 2 == op

/-! ## Programming and control -/

/-- A jig store word written and its STATUS sent. -/
def jStorePut (s : State) (g k v : Nat) : State :=
  dfStatus (fldPut s (fJSTORE g k) (bitsW v)) (fJSTORE g k)
/-- JIG_PROG (R364): one or two words; an address above 47 is refused. -/
def execJigProg (w0 w1 : Word) (s : State) : Host.Outcome State Fault Refusal :=
  .next (dfTake s 1 w0 w1 fun s =>
    let a := pay w0
    let g := bits a 0 3
    let k := bits a 3 6
    if 47 < k ∨ (bitAt a 9 ∧ k = 47) then dfRefuse s
    else if bitAt a 9 then jStorePut (jStorePut s g k (bits a 12 24)) g (k + 1) (pay w1 % 2 ^ 24)
    else jStorePut s g k (pay w1))
/-- A stalled instruction abandoned (R363, R365): a SHIFT leaves the number of bits that it moved. -/
def jigAbandon (g : Jig) : Jig :=
  if g.stall then
    { g with
      stall := false
      scnt := if jType g.latch.toNat = 2 then bits g.latch.toNat 7 6 + 1 - g.left else g.scnt }
  else g
/-- INJREF + 1 (R363, R366). -/
def jigRefused (g : Jig) : Jig := { g with injref := satAt 15 (g.injref + 1) }
/-- JIG_INJECT (R365): a second injection is refused; FORCE abandons a HOLD, a SHIFT or a SWAP. -/
def execJigInject (w0 w1 : Word) (s : State) : Host.Outcome State Fault Refusal :=
  .next (dfTake s 1 w0 w1 fun s =>
    let a := pay w0
    jigMod s (bits a 0 5) fun g =>
      if g.inj.isSome then jigRefused g
      else
        let t := jType g.latch.toNat
        let g := if bitAt a 5 ∧ 1 ≤ t ∧ t ≤ 3 then jigAbandon g else g
        { g with inj := some (BitVec.ofNat 24 (bits a 12 24)) })
/-- A STOP of one jig (R363). -/
def jigStopOne (g : Jig) : Jig :=
  let g := if g.run then { g with run := false, haltc := 1 } else g
  let g := jigAbandon g
  if g.inj.isSome then jigRefused { g with inj := none } else g
/-- A RESET of one jig (R363). -/
def jigResetOne (g : Jig) : Jig :=
  { jigStopOne g with
    shifter := 0#40
    fill := 0
    lord := false
    ctrA := 0#20
    ctrB := 0#20
    pat := 0#40
    mask := 0#40
    mf := false
    cf := false
    crc := 0
    armed := false
    up := []
    down := []
    div := 0 }
/-- A JIG-CTL (R363): action 3 is refused, and a START of a group that is not ready (R483). -/
def jigCtl (s : State) (a : Nat) : State :=
  let g := bits a 0 3
  let js := (bitList 4 (bits a 3 4)).map (· + 4 * g)
  let act := bits a 7 2
  if act = 0 then
    if grpReady s g then js.foldl (fun s j => jigMod s j fun x => { x with pc := bits a 9 6, run := true }) s
    else dfRefuse s
  else if act = 1 then js.foldl (fun s j => jigMod s j jigStopOne) s
  else if act = 2 then
    js.foldl (fun s j => jigCredit (jigMod s j jigResetOne) j (jigOf s j).down.length) s
  else dfRefuse s
/-- JIG_START (R363, R483). -/
def execJigStart (w0 w1 : Word) (s : State) : Host.Outcome State Fault Refusal :=
  .next (dfTake s 1 w0 w1 fun s => jigCtl s (pay w0))
/-- JIG_STOP (R363). -/
def execJigStop (w0 w1 : Word) (s : State) : Host.Outcome State Fault Refusal :=
  .next (dfTake s 1 w0 w1 fun s => jigCtl s (pay w0))
/-- JIG_RESET (R363). -/
def execJigReset (w0 w1 : Word) (s : State) : Host.Outcome State Fault Refusal :=
  .next (dfTake s 1 w0 w1 fun s => jigCtl s (pay w0))

/-! ## Instructions -/

/-- Where jig `j` reads the received view of its shifter (R353). -/
def jigView (g : Jig) : Nat :=
  if g.lord then g.shifter.toNat / 2 ^ (40 - g.fill) else g.shifter.toNat % 2 ^ g.fill
/-- The width of the CRC register. -/
def jigCrcW (g : Jig) : Nat := match crcPoly g.poly with
  | some p => p.1
  | none => 32
/-- COND `c` of BR (R350); none where it is reserved. -/
def jigCond (s : State) (j c now : Nat) : Option Bool :=
  let g := jigOf s j
  if c = 0 then some true
  else if c = 1 then some (g.ctrA == 0#20)
  else if c = 2 then some (g.ctrB == 0#20)
  else if c = 3 then some g.cf
  else if c < 12 then some (bitAt now (c - 4))
  else if c = 12 then some (decide (fldF s (fJCFG j) 16 6 ≤ g.fill))
  else if c = 13 then some (g.fill == 0)
  else if c = 14 then some g.mf
  else if c = 15 then some (decide (8 ≤ g.up.length))
  else if c = 16 then some g.down.isEmpty
  else if c < 21 then some (bitAt (fldF s (fJGFLAG (j / 4)) 0 4) (c - 17))
  else if c = 21 then some (g.crc % 2 ^ jigCrcW g == 0)
  else none
/-- BR in the latch. -/
def jigBrDo (s : State) (j i now : Nat) : Except Nat State :=
  match jigCond s j (bits i 6 5) now with
  | none => .error 2
  | some b => .ok (if b != bitAt i 5 then jigSet s j fun g => { g with pc := bits i 11 6 } else s)
/-- JIG_BR (R350): also the fetch above 47 (FAULT 1) and the reserved types (FAULT 2), which belong to no other row. -/
def execJigBr (j : Fin 32) (rx : BitVec 4) (s : State) : Host.Outcome State Fault Refusal :=
  let g := jigOf s j.val
  .next (if s.field.up && !g.stall && g.inj.isNone && g.run && decide (48 ≤ g.pc) then
      jigReport s (jigFault s j.val 1) j.val
    else jigDo s j.val (some rx.toNat) (fun i => jType i == 0 || decide (10 ≤ jType i)) fun s i now =>
      if jType i = 0 then jigBrDo s j.val i now else .error 2)

/-- Is the condition of HOLD KIND `k` met? KIND 4, the tick, is met by HOLD_END alone. -/
def holdMet (s : State) (j i now : Nat) : Bool :=
  let k := bits i 14 3
  let n := bits i 11 3
  if k < 2 then bitAt now n == (k == 0)
  else if k < 4 then pinEdge s j n now (k == 2)
  else if k = 4 then false
  else if k < 7 then bitAt (fldF s (fJGFLAG (j / 4)) 0 4) (n % 4) == (k == 5)
  else !(jigOf s j).down.isEmpty
/-- A HOLD ends: RS restarts the tick divider (R345). -/
def holdEnd (s : State) (j i : Nat) : State :=
  let n := fldF s (fJCFG j) 0 16 + 1
  let rs := bits i 9 2
  jigSet s j fun g => { g with stall := false, div := if rs = 1 then n else if rs = 2 then max 1 (n / 2) else g.div }
/-- HOLD (R351). -/
def execJigHold (j : Fin 32) (rx : BitVec 4) (s : State) : Host.Outcome State Fault Refusal :=
  .next (jigDo s j.val (some rx.toNat) (fun i => jType i == 1) fun s i now =>
    if bits i 9 2 = 3 then .error 2
    else .ok (if holdMet s j.val i now then holdEnd s j.val i else jigSet s j.val fun g => { g with stall := true }))
/-- HOLD_END (R351): a cycle in which a stalled HOLD may find its condition; for KIND 4 it is the Nth tick. -/
def execJigHoldEnd (j : Fin 32) (rx : BitVec 4) (s : State) : Host.Outcome State Fault Refusal :=
  .next (jigAgain s j.val (some rx.toNat) (fun i => jType i == 1) fun s i now =>
    if bits i 14 3 = 4 ∨ holdMet s j.val i now then holdEnd s j.val i else s)

/-- One bit through the shifter (R352): the jig and the bit that moved. -/
def shiftJig (g : Jig) (i : Nat) (pin : Bool) : Jig × Bool :=
  let out := bitAt i 16
  let lsb := bitAt i 3
  let x := g.shifter.toNat
  let b := if out then bitAt x (if lsb then 0 else 39) else pin
  let y := if lsb then x / 2 + (if out then 0 else pin.toNat) * 2 ^ 39 else x * 2 % 2 ^ 40 + (if out then 0 else pin.toNat)
  let step := bits i 4 2
  ({ g with
    shifter := BitVec.ofNat 40 y
    fill := if out then g.fill - 1 else satAt 40 (g.fill + 1)
    ctrA := if step = 1 then g.ctrA - 1#20 else g.ctrA
    ctrB := if step = 2 then g.ctrB - 1#20 else g.ctrB
    crc := if g.armed then (match crcPoly g.poly with
      | some p => crcBit p.1 p.2 g.crc b
      | none => g.crc) else g.crc
    levels := if out then BitVec.ofNat 8 (setBits g.levels.toNat (bits i 13 3) 1 b.toNat) else g.levels
    left := g.left - 1
    stall := decide (1 < g.left) }, b)
/-- One bit moves; a bit out reaches the driver behind the slot. -/
def shiftDo (s : State) (j i now : Nat) : State :=
  let s := jigSet s j fun g => (shiftJig g i (bitAt now (bits i 13 3))).1
  if bitAt i 16 then jigFollow s j else s
/-- SHIFT (R352): with TICK 0 the first bit moves now, with TICK 1 every bit waits for its tick. -/
def execJigShift (j : Fin 32) (rx : BitVec 4) (s : State) : Host.Outcome State Fault Refusal :=
  .next (jigDo s j.val (some rx.toNat) (fun i => jType i == 2) fun s i now =>
    if 39 < bits i 7 6 ∨ bits i 4 2 = 3 then .error 2
    else
      let s := jigSet s j.val fun g =>
        { g with left := bits i 7 6 + 1, stall := true, lord := if bitAt i 16 then g.lord else bitAt i 3 }
      .ok (if bitAt i 6 then s else shiftDo s j.val i now))
/-- SHIFT_BIT (R352): the next bit of the SHIFT that the jig runs. -/
def execJigShiftBit (j : Fin 32) (rx : BitVec 4) (s : State) : Host.Outcome State Fault Refusal :=
  .next (jigAgain s j.val (some rx.toNat) (fun i => jType i == 2) fun s i now => shiftDo s j.val i now)

/-- The word that OUT pushes (R354). -/
def swapWord (g : Jig) (i : Nat) : Word :=
  let a := bits i 13 2
  bitsW ((if a = 0 then g.shifter.toNat else if a = 1 then g.shifter.toNat / 16 else jigView g) % 2 ^ 36)
/-- Must the SWAP wait for its queues? -/
def swapWaits (g : Jig) (op : Nat) : Bool :=
  ((op == 0 || op == 2) && decide (8 ≤ g.up.length)) || ((op == 1 || op == 2) && g.down.isEmpty)
/-- A reserved ALIGN or FIN of the OP that reads it. -/
def swapBad (i : Nat) : Bool :=
  let op := bits i 15 2
  let a := bits i 13 2
  (op == 0 && a == 3) || ((op == 1 || op == 2) && (decide (2 ≤ a) || decide (40 < bits i 6 6)))
/-- OUT. -/
def swapOut (g : Jig) (i : Nat) (keep : Bool) : Jig :=
  let g := { g with up := g.up ++ [swapWord g i] }
  if keep then g else { g with shifter := 0#40, fill := 0 }
/-- IN. -/
def swapIn (g : Jig) (i : Nat) : Jig :=
  { g with
    shifter := BitVec.ofNat 40 (pay (g.down.headD emptyW) * (if bits i 13 2 = 1 then 16 else 1))
    fill := bits i 6 6
    down := g.down.drop 1 }
/-- The SWAP in the latch, or its stall. -/
def swapDo (s : State) (j i : Nat) : State :=
  let op := bits i 15 2
  if swapWaits (jigOf s j) op then jigSet s j fun g => { g with stall := true }
  else
    let s := jigSet s j fun g =>
      let g := { g with stall := false }
      if op = 0 then swapOut g i (bitAt i 12)
      else if op = 1 then swapIn g i
      else if op = 2 then swapIn (swapOut g i false) i
      else { g with shifter := 0#40, fill := 0 }
    if op = 1 ∨ op = 2 then jigCredit s j 1 else s
/-- A SWAP row: the first cycle of the instruction, or another cycle of its stall. -/
def swapRow (op : Nat) (s : State) (j : Nat) : State :=
  if (jigOf s j).stall then jigAgain s j none (jIs 3 op) fun s i _ => swapDo s j i
  else jigDo s j none (jIs 3 op) fun s i _ => if swapBad i then .error 2 else .ok (swapDo s j i)
/-- SWAP_OUT (R354). -/
def execJigSwapOut (j : Fin 32) (s : State) : Host.Outcome State Fault Refusal := .next (swapRow 0 s j.val)
/-- SWAP_IN (R354). -/
def execJigSwapIn (j : Fin 32) (s : State) : Host.Outcome State Fault Refusal := .next (swapRow 1 s j.val)
/-- SWAP_EXCH (R354). -/
def execJigSwapExch (j : Fin 32) (s : State) : Host.Outcome State Fault Refusal := .next (swapRow 2 s j.val)
/-- SWAP_CLEAR (R354). -/
def execJigSwapClear (j : Fin 32) (s : State) : Host.Outcome State Fault Refusal := .next (swapRow 3 s j.val)

/-- The bits of `old` that `mask` names replaced by those of `v`. -/
def merge8 (old : BitVec 8) (mask v : Nat) : BitVec 8 :=
  (old &&& ~~~(BitVec.ofNat 8 mask)) ||| (BitVec.ofNat 8 v &&& BitVec.ofNat 8 mask)
/-- DRIVE_LEVELS (R355). -/
def execJigDriveLevels (j : Fin 32) (s : State) : Host.Outcome State Fault Refusal :=
  .next (jigDo s j.val none (fun i => jType i == 4 && !bitAt i 16) fun s i _ =>
    .ok (jigFollow (jigSet s j.val fun g => { g with levels := merge8 g.levels (bits i 8 8) (bits i 0 8) }) j.val))
/-- DRIVE_DIRECTIONS (R355): output needs VALID and OUTOK (FAULT 3). -/
def execJigDriveDirections (j : Fin 32) (s : State) : Host.Outcome State Fault Refusal :=
  .next (jigDo s j.val none (fun i => jType i == 4 && bitAt i 16) fun s i _ =>
    let out := bitList 8 (bits i 8 8 &&& bits i 0 8)
    if out.any fun p => !(bitAt (jpin s j.val p) 7 && bitAt (jpin s j.val p) 8) then .error 3
    else
      let s := jigSet s j.val fun g => { g with dirs := merge8 g.dirs (bits i 8 8) (bits i 0 8) }
      .ok ((bitList 8 (bits i 8 8)).foldl (fun s p => dfStatus s (fJPIN j.val p)) (jigFollow s j.val)))

/-- Counter A or B by CTR. -/
def jigCtr (g : Jig) (i : Nat) : BitVec 20 := if bitAt i 14 then g.ctrB else g.ctrA
/-- The jig with counter A or B by CTR set. -/
def jigCtrPut (g : Jig) (i : Nat) (v : BitVec 20) : Jig := if bitAt i 14 then { g with ctrB := v } else { g with ctrA := v }
/-- COUNT_LOAD (R356). -/
def execJigCountLoad (j : Fin 32) (s : State) : Host.Outcome State Fault Refusal :=
  .next (jigDo s j.val none (jIs 5 0) fun s i _ =>
    .ok (jigSet s j.val fun g => jigCtrPut g i (BitVec.ofNat 20 (bits i 0 14))))
/-- COUNT_LOAD_SOURCE (R356): a constant address above 47 is FAULT 4. -/
def execJigCountLoadSource (j : Fin 32) (s : State) : Host.Outcome State Fault Refusal :=
  .next (jigDo s j.val none (jIs 5 1) fun s i _ =>
    if bitAt i 13 then .ok (jigSet s j.val fun g => jigCtrPut g i (BitVec.ofNat 20 (jigView g)))
    else if 47 < bits i 0 6 then .error 4
    else .ok (jigSet s j.val fun g => jigCtrPut g i (BitVec.ofNat 20 (jStore s j.val (bits i 0 6)))))
/-- COUNT_STEP (R356). -/
def execJigCountStep (j : Fin 32) (s : State) : Host.Outcome State Fault Refusal :=
  .next (jigDo s j.val none (jIs 5 2) fun s i _ =>
    .ok (jigSet s j.val fun g => jigCtrPut g i (if bitAt i 13 then jigCtr g i + 1#20 else jigCtr g i - 1#20)))
/-- COUNT_COMPARE (R356). -/
def execJigCountCompare (j : Fin 32) (s : State) : Host.Outcome State Fault Refusal :=
  .next (jigDo s j.val none (jIs 5 3) fun s i _ =>
    .ok (jigSet s j.val fun g => { g with cf := (jigCtr g i).toNat == bits i 0 14 }))

/-- The TIME that MARK pushes: its first cycle's, the stamp of the channel's last edge, or the time of the last change
that the jig saw on the slot; where there was none, the word is not given (a free value). -/
def markWord (s : State) (j i : Nat) : Word :=
  let p := bits i 13 3
  let w := jpin s j p
  mkW .time (if bitAt i 16 then
      ((if bitAt w 7 ∧ bits w 0 7 < 64 then tabGet none s.field.edgeAt (bits w 0 7)
        else tabGet none (jigOf s j).lastChg p).getD (BitVec.ofNat 36 (freeVal s))).toNat
    else (jigOf s j).markAt.toNat)
/-- The MARK in the latch, or its stall. -/
def markDo (s : State) (j i : Nat) : State :=
  if 8 ≤ (jigOf s j).up.length then jigSet s j fun g => { g with stall := true }
  else
    let w := markWord s j i
    jigSet (bump s) j fun g =>
      { g with
        stall := false
        up := g.up ++ [w]
        unsync := g.unsync || !s.field.synced }
/-- MARK (R357): `stamp` is field time in this cycle. -/
def execJigMark (j : Fin 32) (stamp : Payload) (s : State) : Host.Outcome State Fault Refusal :=
  .next (if (jigOf s j.val).stall then jigAgain s j.val none (fun i => jType i == 6) fun s i _ => markDo s j.val i
    else jigDo s j.val none (fun i => jType i == 6) fun s i _ =>
      .ok (markDo (jigSet s j.val fun g => { g with markAt := stamp }) j.val i))

/-- SIGNAL (R358): event 0, the flag operation, the halt with event 1, in this order. -/
def execJigSignal (j : Fin 32) (s : State) : Host.Outcome State Fault Refusal :=
  .next (jigDo s j.val none (fun i => jType i == 7) fun s i _ =>
    let s := if bitAt i 16 then dfPulse s (256 + 2 * j.val) false else s
    let s := flagOp s (j.val / 4) (bits i 12 2) (bits i 14 2)
    .ok (if bitAt i 11 then
        dfPulse (jigSet s j.val fun g => { g with run := false, haltc := 2 }) (257 + 2 * j.val) false
      else s))

/-- MATCH_COMPARE (R359); OP 3, reserved, belongs to no other row. -/
def execJigMatchCompare (j : Fin 32) (s : State) : Host.Outcome State Fault Refusal :=
  .next (jigDo s j.val none (fun i => jIs 8 0 i || jIs 8 3 i) fun s i _ =>
    if bits i 15 2 = 3 then .error 2
    else .ok (jigSet s j.val fun g => { g with mf := (g.shifter ^^^ g.pat) &&& g.mask == 0#40 }))
/-- MATCH_LOAD_PAT (R359). -/
def execJigMatchLoadPat (j : Fin 32) (s : State) : Host.Outcome State Fault Refusal :=
  .next (jigDo s j.val none (jIs 8 1) fun s i _ =>
    if 47 < bits i 0 6 then .error 4
    else .ok (jigSet s j.val fun g => { g with pat := BitVec.ofNat 40 (jStore s j.val (bits i 0 6)) }))
/-- MATCH_LOAD_MASK (R359). -/
def execJigMatchLoadMask (j : Fin 32) (s : State) : Host.Outcome State Fault Refusal :=
  .next (jigDo s j.val none (jIs 8 2) fun s i _ =>
    if 47 < bits i 0 6 then .error 4
    else .ok (jigSet s j.val fun g => { g with mask := BitVec.ofNat 40 (jStore s j.val (bits i 0 6)) }))

/-- Is the instruction CRC with OP `op` in [12:11]? -/
def jCrc (op i : Nat) : Bool := jType i == 9 && bits i 11 2 == op
/-- CRC_INIT (R360): a POLY above 8 is FAULT 2. -/
def execJigCrcInit (j : Fin 32) (s : State) : Host.Outcome State Fault Refusal :=
  .next (jigDo s j.val none (jCrc 0) fun s i _ =>
    match crcPoly (bits i 13 4) with
    | none => .error 2
    | some p => .ok (jigSet s j.val fun g =>
        { g with crc := if bitAt i 10 then 2 ^ p.1 - 1 else 0, poly := bits i 13 4 }))
/-- CRC_ARM (R360). -/
def execJigCrcArm (j : Fin 32) (s : State) : Host.Outcome State Fault Refusal :=
  .next (jigDo s j.val none (jCrc 1) fun s _ _ => .ok (jigSet s j.val fun g => { g with armed := true }))
/-- CRC_DISARM (R360). -/
def execJigCrcDisarm (j : Fin 32) (s : State) : Host.Outcome State Fault Refusal :=
  .next (jigDo s j.val none (jCrc 2) fun s _ _ => .ok (jigSet s j.val fun g => { g with armed := false }))
/-- CRC_COPY (R360). -/
def execJigCrcCopy (j : Fin 32) (s : State) : Host.Outcome State Fault Refusal :=
  .next (jigDo s j.val none (jCrc 3) fun s i _ =>
    .ok (jigSet s j.val fun g =>
      let w := jigCrcW g
      { g with shifter := BitVec.ofNat 40 (g.crc * (if bitAt i 9 then 2 ^ (40 - w) else 1)), fill := w }))

/-! ## Queues (R362) -/

/-- QWORD: at DF it enters the jig's down queue, at DH the receive queue of the core that JCFG.CORE names. -/
def execQword (atDH : Bool) (w0 w1 : Word) (s : State) : Host.Outcome State Fault Refusal :=
  let j := pay w0 % 32
  .next (if atDH then
      dhTake s 2 w0 w1 fun s => coreRecv s (ioF s (aSHADOW (fJCFG j)) 22 5) ⟨0x20, w0, w1⟩
    else dfTake s 2 w0 w1 fun s => jigMod s j fun g => { g with down := g.down ++ [w1] })
/-- UP_QUEUE_SEND: the oldest word of jig `j` leaves as a QWORD when the core's receive queue has credit (R380). -/
def execUpQueueSend (j : Fin 32) (s : State) : Host.Outcome State Fault Refusal :=
  let c := fldF s (fJCFG j.val) 22 5
  let n := tabGet 16 s.field.coreCred c
  .next (match (jigOf s j.val).up with
    | [] => s
    | w :: t =>
      if s.field.paired ∧ 0 < n then
        let u := dfSend (modField s fun f => { f with coreCred := tabSet 16 f.coreCred c (n - 1) })
          ⟨0x20, natW j.val, w⟩
        jigReport s (setJig u j.val { jigOf u j.val with up := t }) j.val
      else s)

end Sys2Proof.Machine
end

