-- ==== Sys2Proof/Machine/DhRows.lean ====
section
/-! DEFINITION. What DH does on the messages of DF (R382 to R390): SAMPLE, STAMP, EVENT, STATUS, FAULT, PORT-RX. -/

namespace Sys2Proof.Machine

/-! ## Sample ring (R386) -/

/-- The sample bank. -/
def smpBank (s : State) : Nat := ioF s aDVBANK 10 5
/-- Is the sample ring full? -/
def smpFull (s : State) : Bool := (ioF s aSMPTAIL 0 14 + 1) % 2 ^ 14 == ioF s aSMPHEAD 0 14
/-- A 4-word entry at SMPTAIL. -/
def smpStore (s : State) (ws : List Word) : State :=
  let t := ioF s aSMPTAIL 0 14
  let a := smpBank s * 0x10000 + 4 * t
  raise (ioSetF (memPutAll s ((List.range 4).map fun i => (a + i, ws.getD i emptyW))) aSMPTAIL 0 14 (t + 1)) 390
/-- An entry for the sample ring: without its bank it is dropped, with the ring full too (source 391). -/
def smpPut (s : State) (ws : List Word) : State :=
  if !dvBankOk s (smpBank s) then dvDrop s else if smpFull s then raise s 391 else smpStore s ws
/-- The number nearest to `now` whose low 28 bits are `t`; of two equally near the later. -/
def nearest28 (now t : Nat) : Nat :=
  let d := (t + 2 ^ 28 - now % 2 ^ 28) % 2 ^ 28
  if d ≤ 2 ^ 27 then now + d else now + 2 ^ 72 + d - 2 ^ 28
/-- SAMPLE (R386). -/
def execSampleMsg (w0 w1 : Word) (s : State) : Host.Outcome State Fault Refusal :=
  .next (dhTake s 2 w0 w1 fun s =>
    let a := pay w1
    let t := nearest28 (tbGet s 0) (bits a 8 28)
    smpPut s [natW (4 * bits a 0 4 + 64 * bits a 4 4), w0, mkW .time (t % 2 ^ 36), mkW .wide (tbHi s 0)])
/-- Does the STAMP of channel `u` feed the time discipline (R330)? -/
def ppsFed (s : State) (u : Nat) (rising : Bool) : Bool :=
  let w := pay (ioGet s (aSHADOW fPPSSEL))
  bitAt w 6 && bits w 0 6 == u && rising != bitAt w 7 && ioF s (aSHADOW (fCHCFG u)) 0 4 == 1
/-- The TB0 time, over 72 bits, nearest to TB0 whose low half is `t`. -/
def nearest36 (now t : Nat) : Nat :=
  let d := (t + 2 ^ 36 - now % 2 ^ 36) % 2 ^ 36
  if d ≤ 2 ^ 35 ∨ now + d < 2 ^ 36 then now + d else now + d - 2 ^ 36
/-- STAMP (R386, R312). -/
def execStampMsg (w0 w1 : Word) (s : State) : Host.Outcome State Fault Refusal :=
  .next (dhTake s 2 w0 w1 fun s =>
    let a := pay w1
    let u := bits a 0 6
    let s := smpPut s [natW (1 + 2 ^ 10 * u + 2 ^ 16 * bits a 6 1 + 2 ^ 17 * bits a 7 1), natW 0, w0,
      mkW .wide (tbHi s 0)]
    if ppsFed s u (bitAt a 6) then
      let s := tdStamp s (nearest36 (tbGet s 0) (pay w0))
      readyFollow s 61 (ioB s aTDSTAT 0)
    else s)

/-! ## EVENT (R390) -/

/-- The mirror bits behind channel `u` take the pad level. -/
def mirrorPut (s : State) (u : Nat) (pad : Bool) : State :=
  (mirrorsOf (fun k => pay (ioGet s (aSHADOW (fMIRCH k)))) u).foldl (fun s k => ioSetB s aMIRROR k pad) s
/-- EVENT: the mirror change, then the hub source: an occurrence, or the level that a level source has now. -/
def execEventMsg (w0 w1 : Word) (s : State) : Host.Outcome State Fault Refusal :=
  .next (dhTake s 1 w0 w1 fun s =>
    let a := pay w0
    let n := bits a 0 10
    let s := if n < 256 ∧ n % 4 = 0 then mirrorPut s (n / 4) (bitAt a 11) else s
    if bitAt a 12 ∨ 320 ≤ n then s
    else if srcLevel s n then (if bitAt a 10 then assertLevel s n else withdrawLevel s n)
    else raise s n)

/-! ## STATUS (R388, R389) -/

/-- READYMAP bits 48 to 60 follow the shadow copies of FRDY0 to FRDY2 (R488). -/
def frdyFollow (s : State) : State :=
  let f := fun i => pay (ioGet s (aSHADOW i))
  let s := readyFollow (readyFollow s 48 (bitAt (f 2) 9)) 49 (bitAt (f 2) 8)
  let s := (List.range 8).foldl (fun s g => readyFollow s (50 + g) (bitAt (f 2) g)) s
  let s := readyFollow (readyFollow s 58 (f 0 == 0xFFFFFFFF)) 59 (f 1 == 0xFFFFFFFF)
  readyFollow s 60 (bits (f 2) 10 12 == 0xFFF)
/-- The kind of source 4u + 3 follows LIMLVL (R574): what it had pending goes, and it leaves service. -/
def limlvlFollow (s : State) (u : Nat) (lvl : Bool) : State :=
  let n := 4 * u + 3
  if srcLevel s n = lvl then s
  else
    let s := ioSetB (ioSetB (ioSetF s (aSRCSTAT n) 0 8 0) (aSRCSTAT n) 10 false) (aSRCCFG n) 4 lvl
    hubEval { s with asserted := s.asserted.filter (· ≠ n) }
/-- The last of the shadow dump has arrived (R389). -/
def dumpEnd (s : State) : State :=
  let s := raise (ioSetB { s with dov := { s.dov with dump := false } } aDVSTAT 3 false) 395
  readyUp s 45
/-- What follows a change of the shadow word of field register `f`. -/
def shadowEffects (s : State) (f : Nat) : State :=
  let v := pay (ioGet s (aSHADOW f))
  if f < 3 then frdyFollow s
  else if 0x100 ≤ f ∧ f < 0x140 then limlvlFollow s (f - 0x100) (bitAt v 25)
  else if 0x40 ≤ f ∧ f < 0x50 then (if bitAt v 6 then s else ioSetB s aMIRROR (f - 0x40) false)
  else if 0x200 ≤ f ∧ f < 0x208 then serviceTell (skerfFollow s) 8 f v
  else if f = 0xAEF ∧ s.dov.dump then dumpEnd s
  else s
/-- A transmit report (R385): credit, and the message to the core that sent the image. -/
def txReported (s : State) (f result bytes : Nat) : State :=
  let p := f - 0x500
  let cred := satAt 8192 (tabGet 8192 s.dov.portCred p + bytes)
  match tabGet [] s.dov.txOwn p with
  | [] => s
  | (c, len, off) :: t =>
    let s := { s with dov := { s.dov with
      portCred := tabSet 8192 s.dov.portCred p cred
      txOwn := tabSet [] s.dov.txOwn p t } }
    sendAll (coreRecv s c ⟨0x40 + p, natW (16 * len + 2 ^ 16 * result), natW off⟩)
/-- STATUS. -/
def execStatusMsg (w0 w1 : Word) (s : State) : Host.Outcome State Fault Refusal :=
  .next (dhTake s 1 w0 w1 fun s =>
    let a := pay w0
    let f := bits a 0 16
    if bitAt a 18 then txReported s f (bits a 19 2) (pay w1)
    else if bitAt a 17 then
      let s := raise s 392
      if 0x200 ≤ f ∧ f < 0x208 then serviceTell s 8 f (pay (ioGet s (aSHADOW f))) else s
    else if f < 0x1000 then shadowEffects (ioPut s (aSHADOW f) w1) f
    else s)

/-! ## FAULT (R382, R520) -/

/-- FAULT: source 393, an error-log entry, and ATAMP for code 4. -/
def execFaultMsg (w0 w1 : Word) (s : State) : Host.Outcome State Fault Refusal :=
  .next (dhTake s 1 w0 w1 fun s =>
    let code := bits (pay w0) 0 8
    let s := elWrite (raise s 393) 0x0C (bits (pay w0) 8 8) 0 0 code 0
    if code = 4 then tamper s 1 (some 15) else s)

/-! ## PORT-RX (R385) -/

/-- PORTCORE of port `p`: the core that receives its images, if they are announced. -/
def portCore (s : State) (p : Nat) : Option Nat :=
  let a := aPORTCORE (p / 6)
  if ioB s a (6 * (p % 6) + 5) then some (ioF s a (6 * (p % 6)) 5) else none
/-- Where an image of `n` words goes in the receive bank: at RXTAIL, or at 0 when it would run over the end, as long as
it stays behind RXHEAD, which it never reaches. -/
def rxPlace (head tail n : Nat) : Option Nat :=
  if tail < head then (if tail + n < head then some tail else none)
  else if tail + n < 0x10000 ∨ (tail + n = 0x10000 ∧ 0 < head) then some tail
  else if n < head then some 0 else none
/-- A whole image with its length and stamp: into the receive bank, and announced. -/
def rxImage (s : State) (p : Nat) (b : List Byte) : State :=
  let len := imageLen b
  let t := ((b.drop 2).take 5).foldl (fun n x => n * 256 + x.toNat) 0
  let ws := [natW (p + 16 * len), mkW .time t] ++ wordsOf ((b.drop 7).take len)
  let bank := ioF s aDVBANK 5 5
  match portCore s p with
  | none => s
  | some c =>
    if !dvBankOk s bank then dvDrop s
    else match rxPlace (ioF s aRXHEAD 0 16) (ioF s aRXTAIL 0 16) ws.length with
      | none => raise s 394
      | some off =>
        let s := memPutAll s ((List.range ws.length).map fun i => (bank * 0x10000 + off + i, ws.getD i emptyW))
        coreRecv (ioSetF s aRXTAIL 0 16 (off + ws.length)) c ⟨0x60 + p, natW (p + 16 * len), natW off⟩
/-- Chunk bytes join the image that DH receives from port `p`; the last chunk completes it. -/
def rxGather (s : State) (p : Nat) (b : List Byte) : State :=
  if imageLen b + 7 ≤ b.length then
    rxImage { s with dov := { s.dov with rxImg := tabSet [] s.dov.rxImg p [] } } p b
  else { s with dov := { s.dov with rxImg := tabSet [] s.dov.rxImg p b } }
/-- PORT_RX_FIRST (R385). -/
def execPortRxFirst (p : Fin 12) (b : List Byte) (s : State) : Host.Outcome State Fault Refusal :=
  if chunkOk b then
    .next (dhTake s 3 (natW 0) (natW 0) fun s => if imagePort p.val then rxGather s p.val b else dvDrop s)
  else .fault .illFormed
/-- PORT_RX_LATER (R385). -/
def execPortRxLater (p : Fin 12) (b : List Byte) (s : State) : Host.Outcome State Fault Refusal :=
  if chunkOk b then
    .next (dhTake s 3 (natW 0) (natW 0) fun s =>
      if !imagePort p.val then dvDrop s
      else
        let part := tabGet [] s.dov.rxImg p.val
        if part.isEmpty then s else rxGather s p.val (part ++ b))
  else .fault .illFormed

end Sys2Proof.Machine
end

