-- ==== Sys2Proof/Machine/FieldRows.lean ====
section
/-! DEFINITION. What happens on TM40-F by itself (R318 to R342, R482, R493, R521, R566): channels, measurement, supply,
resets, tamper. Whether an analog condition holds (a level, a current, a time) is the command's premise (log entry 4);
the conditions that the state shows are checked. -/

namespace Sys2Proof.Machine

/-- An event on TM40-F while it is out of reset and `p` holds. -/
def fieldWhen (s : State) (p : Bool) (f : State → State) : Host.Outcome State Fault Refusal :=
  .next (if s.field.up && p then f s else s)

/-! ## Inputs and outputs -/

/-- CHANNEL_EDGE (R318): modes 1 to 4, where the comparator runs. -/
def execChannelEdge (u : Fin 64) (rising : Bool) (t : Payload) (s : State) : Host.Outcome State Fault Refusal :=
  fieldWhen s (decide (1 ≤ chMode s u.val) && decide (chMode s u.val ≤ 4) && fldB s (fCHSTAT u.val) 0 != rising)
    fun s => edgeDo s u.val rising t.toNat
/-- THRESHOLD_TRACK (R319). -/
def execThresholdTrack (u : Fin 64) (mid : BitVec 14) (s : State) : Host.Outcome State Fault Refusal :=
  fieldWhen s true fun s => trackDo s u.val mid.toNat
/-- CURRENT_LIMIT (R321). -/
def execCurrentLimit (u : Fin 64) (s : State) : Host.Outcome State Fault Refusal :=
  fieldWhen s (chOutput s u.val && !fldB s (fCHSTAT u.val) 4 && !fldB s (fCHSTAT u.val) 6) fun s => chSet s u.val 3 1 1
/-- CURRENT_LIMIT_END (R321). -/
def execCurrentLimitEnd (u : Fin 64) (s : State) : Host.Outcome State Fault Refusal :=
  fieldWhen s true fun s => chSet s u.val 3 1 0
/-- SHORT_LATCH (R321): the output is off, and no longer in limit. -/
def execShortLatch (u : Fin 64) (s : State) : Host.Outcome State Fault Refusal :=
  fieldWhen s (fldB s (fCHSTAT u.val) 3) fun s => chSet s u.val 3 2 2
/-- SHORT_RETRY (R321): with AUTORST the latch clears when the retry holds. -/
def execShortRetry (u : Fin 64) (holds : Bool) (s : State) : Host.Outcome State Fault Refusal :=
  fieldWhen s (fldB s (fCHCFG u.val) 26 && holds) fun s => chSet s u.val 4 1 0
/-- THERMAL_SHUTDOWN (R321). -/
def execThermalShutdown (u : Fin 64) (s : State) : Host.Outcome State Fault Refusal :=
  fieldWhen s (chOutput s u.val || chAnalogOut s u.val) fun s =>
    let old := pay (fldGet s (fCHSTAT u.val))
    chAfter old (fldSetF (fldSetF s (fCHSTAT u.val) 3 1 0) (fCHSTAT u.val) 6 1 1) u.val
/-- THERMAL_RECOVER (R321). -/
def execThermalRecover (u : Fin 64) (s : State) : Host.Outcome State Fault Refusal :=
  fieldWhen s true fun s => chSet s u.val 6 1 0
/-- Is output `u` on: commanded on, not latched off, not hot, not shed? -/
def chOn (s : State) (u : Nat) : Bool :=
  chOutput s u && fldB s (fCHSTAT u) 1 && !fldB s (fCHSTAT u) 4 && !fldB s (fCHSTAT u) 6 && !fldB s (fCHSTAT u) 25
/-- The output that is turned off next (R322): the highest that is on, never U0 to U7. -/
def shedNext (s : State) : Option Nat := (((List.range 56).map (63 - ·)).find? fun u => chOn s u)
/-- LOAD_SHED (R322): one output per command. -/
def execLoadShed (s : State) : Host.Outcome State Fault Refusal :=
  fieldWhen s true fun s => match shedNext s with
    | some u => chSet s u 25 1 1
    | none => s
/-- Does the readback differ from the commanded state? A low-side output that is on holds its pad low. -/
def chDiffers (s : State) (u : Nat) : Bool :=
  fldB s (fCHSTAT u) 0 != (fldB s (fCHSTAT u) 1 != (chMode s u == 3))
/-- MISMATCH (R323): the readback differs, and current limiting does not explain it; that SLEW does not is the
command's premise. -/
def execMismatch (u : Fin 64) (s : State) : Host.Outcome State Fault Refusal :=
  fieldWhen s (chOutput s u.val && !fldB s (fCHSTAT u.val) 3 && chDiffers s u.val) fun s => chSet s u.val 2 1 1
/-- OPEN_LOAD (R323): modes 2 and 3 with the output off. -/
def execOpenLoad (u : Fin 64) (s : State) : Host.Outcome State Fault Refusal :=
  fieldWhen s ((chMode s u.val == 2 || chMode s u.val == 3) && !fldB s (fCHSTAT u.val) 1) fun s => chSet s u.val 5 1 1
/-- OPEN_LOAD_CLEAR (R323). -/
def execOpenLoadClear (u : Fin 64) (s : State) : Host.Outcome State Fault Refusal :=
  fieldWhen s true fun s => chSet s u.val 5 1 0

/-! ## Heartwood drivers -/

/-- DRIVER_FAULT (R331). -/
def execDriverFault (h : Fin 8) (drvB : Bool) (s : State) : Host.Outcome State Fault Refusal :=
  fieldWhen s true fun s => driverFail s h.val drvB.toNat true
/-- HWCH_SWITCH_DONE (R331). -/
def execHwchSwitchDone (h : Fin 8) (s : State) : Host.Outcome State Fault Refusal :=
  fieldWhen s true fun s => switchEnd s h.val
/-- STANDBY_TEST (R331): with TEST, a standby driver that fails its test has failed; the pad is not affected. -/
def execStandbyTest (h : Fin 8) (ok : Bool) (s : State) : Host.Outcome State Fault Refusal :=
  fieldWhen s (fldB s (fHWCH h.val) 2 && !ok) fun s => driverFail s h.val (1 - fldF s (fHWCH h.val) 0 1) false

/-! ## Measurement -/

/-- TRIGGER_PERIOD (R326). -/
def execTriggerPeriod (t : Fin 16) (s : State) : Host.Outcome State Fault Refusal :=
  fieldWhen s (fldF s (fTRIG t.val) 0 2 == 1) fun s => trigStart s t.val
/-- CONVERSION_START (R326). -/
def execConversionStart (x t : Fin 16) (s : State) : Host.Outcome State Fault Refusal :=
  fieldWhen s true fun s => convStart s x.val t.val
/-- CONVERSION_DONE (R325). -/
def execConversionDone (x : Fin 16) (code : BitVec 18) (mid : Payload) (s : State) : Host.Outcome State Fault Refusal :=
  fieldWhen s true fun s => convDo s x.val code.toInt mid.toNat

/-! ## Supply and resets -/

/-- FS_WATCHDOG (R493): DF restarts without its pairing; FAULT code 3 waits for the next one. -/
def execFsWatchdog (s : State) : Host.Outcome State Fault Refusal :=
  fieldWhen s true fun s =>
    modField (dfUnpair (bypassShut (safeAll s) 4)) fun f => { f with waitFault := some 3 }
/-- FIELD_SUPPLY_UP (R482, R483): FS and the jig groups become ready; the supply reads 16 V. -/
def execFieldSupplyUp (s : State) : Host.Outcome State Fault Refusal :=
  .next (if s.field.up then s
    else
      let s := modField s fun f => { f with up := true }
      supReport (fldSetF (fldSetF (fldSetF s 2 0 8 0xFF) 2 9 1 1) fSUPSTAT 20 1 1) 1600)
/-- FIELD_SUPPLY_LOSS (R342). -/
def execFieldSupplyLoss (s : State) : Host.Outcome State Fault Refusal := .next (fieldReset s false)
/-- SUPPLY_UV_ENTER (R342): safe state, bypass closed, FAULT code 1. -/
def execSupplyUvEnter (v : BitVec 16) (s : State) : Host.Outcome State Fault Refusal :=
  fieldWhen s (!fldB s fSUPSTAT 17) fun s =>
    dfFault (supReport (bypassShut (safeAll (fldSetF s fSUPSTAT 17 1 1)) 1) v.toNat) 1 none
/-- SUPPLY_UV_EXIT (R342). -/
def execSupplyUvExit (v : BitVec 16) (s : State) : Host.Outcome State Fault Refusal :=
  fieldWhen s (fldB s fSUPSTAT 17) fun s => supReport (fldSetF s fSUPSTAT 17 1 0) v.toNat
/-- SUPPLY_OV (R342). -/
def execSupplyOv (v : BitVec 16) (s : State) : Host.Outcome State Fault Refusal :=
  fieldWhen s true fun s => supReport (fldSetF s fSUPSTAT 18 1 1) v.toNat
/-- OVLONG_ENTER (R342): safe state, FAULT code 2. -/
def execOvlongEnter (s : State) : Host.Outcome State Fault Refusal :=
  fieldWhen s (fldB s fSUPSTAT 18 && !fldB s fSUPSTAT 19) fun s =>
    dfFault (supReport (safeAll (fldSetF s fSUPSTAT 19 1 1)) (fldF s fSUPSTAT 0 16)) 2 none
/-- OVLONG_EXIT (R342): the supply is below 80 V again; OV clears with OVLONG, and without it when it was not set. -/
def execOvlongExit (v : BitVec 16) (s : State) : Host.Outcome State Fault Refusal :=
  fieldWhen s (fldB s fSUPSTAT 18) fun s => supReport (fldSetF s fSUPSTAT 18 2 0) v.toNat
/-- SUPPLY_UVW (R342): UVW follows UVWARN. -/
def execSupplyUvw (v : BitVec 16) (s : State) : Host.Outcome State Fault Refusal :=
  fieldWhen s true fun s => supReport s v.toNat
/-- FRST_N (R482): a reset of TM40-F. -/
def execFrstN (s : State) : Host.Outcome State Fault Refusal := .next (fieldReset s true)

/-! ## Self-tests, tamper, provisioning -/

/-- The field register, its bit and the number of a unit (R483). -/
def unitPlace : FieldUnit → Nat × Nat × Nat
  | .channel u => (u.val / 32, u.val % 32, u.val)
  | .mx => (2, 8, 64)
  | .port p => (2, 10 + p.val, 65 + p.val)
/-- The unit number that a FAULT names: a channel's or a port's own, MX a free value. -/
def unitNo : FieldUnit → Option Nat
  | .channel u => some u.val
  | .mx => none
  | .port p => some p.val
/-- FIELD_SELF_TEST_DONE (R482, R483): ready, or a FAULT whose code is not given (a free value). -/
def execFieldSelfTestDone (u : FieldUnit) (pass : Bool) (s : State) : Host.Outcome State Fault Refusal :=
  let (f, b, n) := unitPlace u
  fieldWhen s (fsReady s && !fldB s f b && !s.field.failed.contains n) fun s =>
    if pass then dfStatus (fldSetF s f b 1 1) f
    else
      dfFault (modField (bump s) fun x => { x with failed := n :: x.failed }) (freeVal s % 256) (unitNo u)
/-- The bit of FTAMPSTAT that records a cause. -/
def causeBit : FieldCause → Nat
  | .veneer => 0
  | .light => 1
  | .clock => 2
  | .temp => 3
/-- FIELD_TAMPER (R521). -/
def execFieldTamper (k : FieldCause) (s : State) : Host.Outcome State Fault Refusal :=
  fieldWhen s true fun s =>
    let s := fldSetF (fldSetF s fFTAMPSTAT (causeBit k) 1 1) fFTAMPSTAT 4 1 1
    dfUnpair (bypassShut (safeAll s) 6)
/-- FIELD_TEMPERATURE_WARNING (R521): the temperature crosses TWARN, upwards while TWARNF is 0 and downwards while it
is 1. -/
def execFieldTemperatureWarning (s : State) : Host.Outcome State Fault Refusal :=
  fieldWhen s true fun s =>
    dfStatus (fldSetF s fFTAMPSTAT 5 1 (1 - fldF s fFTAMPSTAT 5 1)) fFTAMPSTAT
/-- OTP_PROVISIONING (R566): only an unburned word, and nothing once the lock row is burned. -/
def execOtpProvisioning (a : Nat) (w : BitVec 64) (s : State) : Host.Outcome State Fault Refusal :=
  .next (if (tabGet none s.field.otp Config.otpLockRow).isSome || (tabGet none s.field.otp a).isSome then s
    else modField s fun f => { f with otp := tabSet none f.otp a (some w) })

end Sys2Proof.Machine
end

