-- ==== Sys2Proof/Machine/HostReg.lean ====
section
/-! DEFINITION. HOST_REGISTER_WRITE: a host write to a BAR0 register (R283, R397, R551). -/

namespace Sys2Proof.Machine

/-- The BAR0 offsets that hold a register without an RW field and no WO register. -/
def barRo (o : Nat) : Bool :=
  o == 0 || o == 4 || o == 8 || o == 0x100 || o == 0x108 || o == 0x200 || o == 0x5000 || o == 0x6004 || o == 0x6020 ||
  (decide (0x5100 ≤ o) && decide (o < 0x6000)) || (decide (0x6010 ≤ o) && decide (o < 0x6020) && o % 4 == 0) ||
  (decide (0xA000 ≤ o) && decide (o < 0xA040) && o % 8 == 0)
/-- A write of word `o` of SQTq; an enabled ring keeps its base (log entry 20). -/
def sqtWrite (s : State) (q o v : Nat) : State :=
  if o = 0 then (if barB s (bSQ q 8) 0 then s else barPut s (bSQ q 0) v)
  else if o = 8 then (if bitAt v 0 then sqEnableDo s q v else sqDisableDo s q v)
  else if o = 0xC then barSetF s (bSQ q 0xC) 0 18 v
  else if o = 0x10 ∨ o = 0x14 ∨ o = 0x18 then s
  else barDrop s true (bSQ q o)
/-- A write of word `o` of CQTr. -/
def cqtWrite (s : State) (r o v : Nat) : State :=
  if o = 0 then (if barB s (bCQ r 8) 0 then s else barPut s (bCQ r 0) v)
  else if o = 8 then (if bitAt v 0 then cqEnableDo s r v else cqDisableDo s r v)
  else if o = 0xC then s
  else barDrop s true (bCQ r o)
/-- A write of word `o` of HWINw. -/
def hwinWrite (s : State) (w o v : Nat) : State :=
  if o = 0 ∨ o = 8 then barPut s (bHWIN w o) (v % 2 ^ 36)
  else if o = 0x10 then barPut s (bHWIN w o) v
  else if o = 0x18 then barPut s (bHWIN w o) (v % 2 ^ 6)
  else if o = 0x1C then s
  else barDrop s true (bHWIN w o)
/-- LRING.BAD follows BASE and LOG2N. -/
def lringBad (s : State) : State :=
  let l := barF s (bLRING 8) 1 5
  barSetB s (bLRING 0x10) 17 (barGet s (bLRING 0) % 256 != 0 || decide (l < 4) || decide (16 < l))
/-- A write of word `o` of LRING. -/
def lringWrite (s : State) (o v : Nat) : State :=
  if o = 0 then lringBad (barPut s (bLRING 0) v)
  else if o = 8 then lringBad (barPut s (bLRING 8) (v % 2 ^ 16))
  else if o = 0xC then lringHeadDo s (v % 2 ^ 16)
  else if o = 0x10 then s
  else barDrop s true (bLRING o)
/-- A write of word `o` of MSI-X vector `n`: clearing the mask sends what is pending (R297). -/
def msixWrite (s : State) (n o v : Nat) : State :=
  if o = 12 then
    (let t := barPut s (bMSIX n 12) (v % 2)
     if v % 2 = 0 then msixFlush t n else t)
  else barPut s (bMSIX n o) (v % 2 ^ 32)
/-- What a write of `v` at BAR0 offset `o` does; a hole drops it (R397). -/
def bar0Write (s : State) (o v : Nat) : State :=
  if barRo o then s
  else if o = 0x204 then modeRequestDo s (bits v 0 8) (bits v 8 8 &&& 0x50)
  else if 0x1000 ≤ o ∧ o < 0x3000 then sqtWrite s ((o - 0x1000) / 32) (o % 32) v
  else if 0x3000 ≤ o ∧ o < 0x4000 then cqtWrite s ((o - 0x3000) / 16) (o % 16) v
  else if 0x4000 ≤ o ∧ o < 0x4200 then hwinWrite s ((o - 0x4000) / 32) (o % 32) v
  else if 0x4800 ≤ o ∧ o < 0x4814 then lringWrite s (o - 0x4800) v
  else if o = 0x5004 then elcfgWrite s (v % 2 ^ 32)
  else if o = 0x6000 ∨ (0x6030 ≤ o ∧ o < 0x6040 ∧ o % 4 = 0) ∨ o = 0x6040 ∨ o = 0x6048 then dmWrite s false (o - 0x6000) v
  else if 0x8000 ≤ o ∧ o < 0xA000 ∧ o % 4 = 0 then msixWrite s ((o - 0x8000) / 16) (o % 16) v
  else barDrop s true o
/-- HOST_REGISTER_WRITE (R283, R466): every BAR0 write clears IHOST. -/
def execHostRegisterWrite (off : BitVec 16) (v : BitVec 64) (s : State) : Host.Outcome State Fault Refusal :=
  .next (bar0Write (hostActive s) off.toNat v.toNat)

end Sys2Proof.Machine
end

