-- ==== Sys2Proof/Machine/LngRows.lean ====
section
/-! DEFINITION. The commands of class LNG: a core executes the syllable at its mpc (`issue`; the syllable itself is
`semOf`). -/

namespace Sys2Proof.Machine

/-- MUL (R141). -/
def execMulS (c : CoreId) (y : Syl) (s : State) : Host.Outcome State Fault Refusal :=
  issue (.mulS c y) c y s
/-- MULH (R141). -/
def execMulh (c : CoreId) (y : Syl) (s : State) : Host.Outcome State Fault Refusal :=
  issue (.mulh c y) c y s
/-- MULW (R140). -/
def execMulw (c : CoreId) (y : Syl) (s : State) : Host.Outcome State Fault Refusal :=
  issue (.mulw c y) c y s
/-- MAC (R140). -/
def execMac (c : CoreId) (y : Syl) (s : State) : Host.Outcome State Fault Refusal :=
  issue (.mac c y) c y s
/-- DIV (R142). -/
def execDivS (c : CoreId) (y : Syl) (s : State) : Host.Outcome State Fault Refusal :=
  issue (.divS c y) c y s
/-- DIVU (R142). -/
def execDivu (c : CoreId) (y : Syl) (s : State) : Host.Outcome State Fault Refusal :=
  issue (.divu c y) c y s
/-- REM (R142). -/
def execRem (c : CoreId) (y : Syl) (s : State) : Host.Outcome State Fault Refusal :=
  issue (.rem c y) c y s
/-- REMU (R142). -/
def execRemu (c : CoreId) (y : Syl) (s : State) : Host.Outcome State Fault Refusal :=
  issue (.remu c y) c y s
/-- CRC (R143). -/
def execCrc (c : CoreId) (y : Syl) (s : State) : Host.Outcome State Fault Refusal :=
  issue (.crc c y) c y s
/-- CRCFIN (R143). -/
def execCrcfin (c : CoreId) (y : Syl) (s : State) : Host.Outcome State Fault Refusal :=
  issue (.crcfin c y) c y s
/-- SQRTU (R144). -/
def execSqrtu (c : CoreId) (y : Syl) (s : State) : Host.Outcome State Fault Refusal :=
  issue (.sqrtu c y) c y s

end Sys2Proof.Machine
end

