-- ==== Sys2Proof/Machine/MemRows.lean ====
section
/-! DEFINITION. The commands of class MEM: a core executes the syllable at its mpc (`issue`; the syllable itself is
`semOf`). -/

namespace Sys2Proof.Machine

/-- LD (R153). -/
def execLd (c : CoreId) (y : Syl) (s : State) : Host.Outcome State Fault Refusal :=
  issue (.ld c y) c y s
/-- ST (R154). -/
def execSt (c : CoreId) (y : Syl) (s : State) : Host.Outcome State Fault Refusal :=
  issue (.st c y) c y s
/-- LD2 (R155). -/
def execLd2 (c : CoreId) (y : Syl) (s : State) : Host.Outcome State Fault Refusal :=
  issue (.ld2 c y) c y s
/-- ST2 (R155). -/
def execSt2 (c : CoreId) (y : Syl) (s : State) : Host.Outcome State Fault Refusal :=
  issue (.st2 c y) c y s
/-- LD4 (R155). -/
def execLd4 (c : CoreId) (y : Syl) (s : State) : Host.Outcome State Fault Refusal :=
  issue (.ld4 c y) c y s
/-- ST4 (R155). -/
def execSt4 (c : CoreId) (y : Syl) (s : State) : Host.Outcome State Fault Refusal :=
  issue (.st4 c y) c y s
/-- LD_ACQ (R156). -/
def execLdAcq (c : CoreId) (y : Syl) (s : State) : Host.Outcome State Fault Refusal :=
  issue (.ldAcq c y) c y s
/-- ST_REL (R156). -/
def execStRel (c : CoreId) (y : Syl) (s : State) : Host.Outcome State Fault Refusal :=
  issue (.stRel c y) c y s
/-- SWAP (R157). -/
def execSwap (c : CoreId) (y : Syl) (s : State) : Host.Outcome State Fault Refusal :=
  issue (.swap c y) c y s
/-- CAS (R157). -/
def execCas (c : CoreId) (y : Syl) (s : State) : Host.Outcome State Fault Refusal :=
  issue (.cas c y) c y s
/-- FADD (R157). -/
def execFadd (c : CoreId) (y : Syl) (s : State) : Host.Outcome State Fault Refusal :=
  issue (.fadd c y) c y s
/-- FENCE_LL (R158). -/
def execFenceLl (c : CoreId) (y : Syl) (s : State) : Host.Outcome State Fault Refusal :=
  issue (.fenceLl c y) c y s
/-- FENCE_SS (R158). -/
def execFenceSs (c : CoreId) (y : Syl) (s : State) : Host.Outcome State Fault Refusal :=
  issue (.fenceSs c y) c y s
/-- FENCE_FULL (R158). -/
def execFenceFull (c : CoreId) (y : Syl) (s : State) : Host.Outcome State Fault Refusal :=
  issue (.fenceFull c y) c y s
/-- FENCE_IO (R158). -/
def execFenceIo (c : CoreId) (y : Syl) (s : State) : Host.Outcome State Fault Refusal :=
  issue (.fenceIo c y) c y s
/-- MOVB (R159). -/
def execMovb (c : CoreId) (y : Syl) (s : State) : Host.Outcome State Fault Refusal :=
  issue (.movb c y) c y s
/-- PIN (R161). -/
def execPin (c : CoreId) (y : Syl) (s : State) : Host.Outcome State Fault Refusal :=
  issue (.pin c y) c y s
/-- UNPIN (R161). -/
def execUnpin (c : CoreId) (y : Syl) (s : State) : Host.Outcome State Fault Refusal :=
  issue (.unpin c y) c y s
/-- LEASE (R162). -/
def execLease (c : CoreId) (y : Syl) (s : State) : Host.Outcome State Fault Refusal :=
  issue (.lease c y) c y s

end Sys2Proof.Machine
end

