-- ==== Sys2Proof/Machine/PortRows.lean ====
section
/-! DEFINITION. The commands of class PORT: a core executes the syllable at its mpc (`issue`; the syllable itself is
`semOf`). -/

namespace Sys2Proof.Machine

/-- IN (R165). -/
def execInIo (c : CoreId) (y : Syl) (s : State) : Host.Outcome State Fault Refusal :=
  issue (.inIo c y) c y s
/-- OUT (R165). -/
def execOutIo (c : CoreId) (y : Syl) (s : State) : Host.Outcome State Fault Refusal :=
  issue (.outIo c y) c y s
/-- FSEND (R166). -/
def execFsend (c : CoreId) (y : Syl) (s : State) : Host.Outcome State Fault Refusal :=
  issue (.fsend c y) c y s
/-- FRECV (R167). -/
def execFrecv (c : CoreId) (y : Syl) (s : State) : Host.Outcome State Fault Refusal :=
  issue (.frecv c y) c y s
/-- CIPH_KEY_WRAP (R435). -/
def execCiphKeyWrap (c : CoreId) (y : Syl) (s : State) : Host.Outcome State Fault Refusal :=
  issue (.ciphKeyWrap c y) c y s
/-- CIPH_KEY_UNWRAP (R435). -/
def execCiphKeyUnwrap (c : CoreId) (y : Syl) (s : State) : Host.Outcome State Fault Refusal :=
  issue (.ciphKeyUnwrap c y) c y s
/-- CIPH_CBC_ENCRYPT (R435). -/
def execCiphCbcEncrypt (c : CoreId) (y : Syl) (s : State) : Host.Outcome State Fault Refusal :=
  issue (.ciphCbcEncrypt c y) c y s
/-- CIPH_CBC_DECRYPT (R435). -/
def execCiphCbcDecrypt (c : CoreId) (y : Syl) (s : State) : Host.Outcome State Fault Refusal :=
  issue (.ciphCbcDecrypt c y) c y s
/-- CIPH_CTR (R435). -/
def execCiphCtr (c : CoreId) (y : Syl) (s : State) : Host.Outcome State Fault Refusal :=
  issue (.ciphCtr c y) c y s
/-- CIPH_GCM_ENCRYPT (R435). -/
def execCiphGcmEncrypt (c : CoreId) (y : Syl) (s : State) : Host.Outcome State Fault Refusal :=
  issue (.ciphGcmEncrypt c y) c y s
/-- CIPH_GCM_DECRYPT (R436). -/
def execCiphGcmDecrypt (c : CoreId) (y : Syl) (s : State) : Host.Outcome State Fault Refusal :=
  issue (.ciphGcmDecrypt c y) c y s
/-- CIPH_CCM_ENCRYPT (R435). -/
def execCiphCcmEncrypt (c : CoreId) (y : Syl) (s : State) : Host.Outcome State Fault Refusal :=
  issue (.ciphCcmEncrypt c y) c y s
/-- CIPH_CCM_DECRYPT (R436). -/
def execCiphCcmDecrypt (c : CoreId) (y : Syl) (s : State) : Host.Outcome State Fault Refusal :=
  issue (.ciphCcmDecrypt c y) c y s
/-- CIPH_CMAC_GENERATE (R435). -/
def execCiphCmacGenerate (c : CoreId) (y : Syl) (s : State) : Host.Outcome State Fault Refusal :=
  issue (.ciphCmacGenerate c y) c y s
/-- CIPH_CMAC_VERIFY (R435). -/
def execCiphCmacVerify (c : CoreId) (y : Syl) (s : State) : Host.Outcome State Fault Refusal :=
  issue (.ciphCmacVerify c y) c y s
/-- CWAIT (R169). -/
def execCwait (c : CoreId) (y : Syl) (s : State) : Host.Outcome State Fault Refusal :=
  issue (.cwait c y) c y s
/-- LEDG (R170). -/
def execLedg (c : CoreId) (y : Syl) (s : State) : Host.Outcome State Fault Refusal :=
  issue (.ledg c y) c y s
/-- CLAIM (R300). -/
def execClaim (c : CoreId) (y : Syl) (s : State) : Host.Outcome State Fault Refusal :=
  issue (.claim c y) c y s
/-- CMPL (R301). -/
def execCmpl (c : CoreId) (y : Syl) (s : State) : Host.Outcome State Fault Refusal :=
  issue (.cmpl c y) c y s
/-- POST (R409). -/
def execPostS (c : CoreId) (y : Syl) (s : State) : Host.Outcome State Fault Refusal :=
  issue (.postS c y) c y s

end Sys2Proof.Machine
end

