-- ==== Sys2Proof/Machine/SeqRows.lean ====
section
/-! DEFINITION. The commands of class SEQ: a core executes the syllable at its mpc (`issue`; the syllable itself is
`semOf`). -/

namespace Sys2Proof.Machine

/-- NOP (R72). -/
def execNop (c : CoreId) (y : Syl) (s : State) : Host.Outcome State Fault Refusal :=
  issue (.nop c y) c y s
/-- BR (R116). -/
def execBr (c : CoreId) (y : Syl) (s : State) : Host.Outcome State Fault Refusal :=
  issue (.br c y) c y s
/-- BT (R117). -/
def execBt (c : CoreId) (y : Syl) (s : State) : Host.Outcome State Fault Refusal :=
  issue (.bt c y) c y s
/-- BF (R117). -/
def execBf (c : CoreId) (y : Syl) (s : State) : Host.Outcome State Fault Refusal :=
  issue (.bf c y) c y s
/-- BZ (R117). -/
def execBz (c : CoreId) (y : Syl) (s : State) : Host.Outcome State Fault Refusal :=
  issue (.bz c y) c y s
/-- BNZ (R117). -/
def execBnz (c : CoreId) (y : Syl) (s : State) : Host.Outcome State Fault Refusal :=
  issue (.bnz c y) c y s
/-- BRC (R84). -/
def execBrc (c : CoreId) (y : Syl) (s : State) : Host.Outcome State Fault Refusal :=
  issue (.brc c y) c y s
/-- CALL (R118). -/
def execCallS (c : CoreId) (y : Syl) (s : State) : Host.Outcome State Fault Refusal :=
  issue (.callS c y) c y s
/-- CALLW (R87). -/
def execCallw (c : CoreId) (y : Syl) (s : State) : Host.Outcome State Fault Refusal :=
  issue (.callw c y) c y s
/-- RET (R118). -/
def execRet (c : CoreId) (y : Syl) (s : State) : Host.Outcome State Fault Refusal :=
  issue (.ret c y) c y s
/-- RETW (R88). -/
def execRetw (c : CoreId) (y : Syl) (s : State) : Host.Outcome State Fault Refusal :=
  issue (.retw c y) c y s
/-- JR (R118). -/
def execJr (c : CoreId) (y : Syl) (s : State) : Host.Outcome State Fault Refusal :=
  issue (.jr c y) c y s
/-- CALLR (R118). -/
def execCallr (c : CoreId) (y : Syl) (s : State) : Host.Outcome State Fault Refusal :=
  issue (.callr c y) c y s
/-- REP (R94). -/
def execRepS (c : CoreId) (y : Syl) (s : State) : Host.Outcome State Fault Refusal :=
  issue (.repS c y) c y s
/-- REPI (R95). -/
def execRepi (c : CoreId) (y : Syl) (s : State) : Host.Outcome State Fault Refusal :=
  issue (.repi c y) c y s
/-- LOOP (R96). -/
def execLoopS (c : CoreId) (y : Syl) (s : State) : Host.Outcome State Fault Refusal :=
  issue (.loopS c y) c y s
/-- WFE (R100). -/
def execWfe (c : CoreId) (y : Syl) (s : State) : Host.Outcome State Fault Refusal :=
  issue (.wfe c y) c y s
/-- SEV_CORES (R101). -/
def execSevCores (c : CoreId) (y : Syl) (s : State) : Host.Outcome State Fault Refusal :=
  issue (.sevCores c y) c y s
/-- SEV_HUB_SOURCE (R101). -/
def execSevHubSource (c : CoreId) (y : Syl) (s : State) : Host.Outcome State Fault Refusal :=
  issue (.sevHubSource c y) c y s
/-- SEV_JIG_GROUP (R101). -/
def execSevJigGroup (c : CoreId) (y : Syl) (s : State) : Host.Outcome State Fault Refusal :=
  issue (.sevJigGroup c y) c y s
/-- SEV_FIELD_TRIGGER (R101). -/
def execSevFieldTrigger (c : CoreId) (y : Syl) (s : State) : Host.Outcome State Fault Refusal :=
  issue (.sevFieldTrigger c y) c y s
/-- WAITT (R102). -/
def execWaitt (c : CoreId) (y : Syl) (s : State) : Host.Outcome State Fault Refusal :=
  issue (.waitt c y) c y s
/-- GATE (R254). -/
def execGate (c : CoreId) (y : Syl) (s : State) : Host.Outcome State Fault Refusal :=
  issue (.gate c y) c y s
/-- GRET (R256). -/
def execGret (c : CoreId) (y : Syl) (s : State) : Host.Outcome State Fault Refusal :=
  issue (.gret c y) c y s
/-- TRET (R241). -/
def execTret (c : CoreId) (y : Syl) (s : State) : Host.Outcome State Fault Refusal :=
  issue (.tret c y) c y s
/-- TRAP (R122). -/
def execTrap (c : CoreId) (y : Syl) (s : State) : Host.Outcome State Fault Refusal :=
  issue (.trap c y) c y s
/-- TFENCE (R123). -/
def execTfence (c : CoreId) (y : Syl) (s : State) : Host.Outcome State Fault Refusal :=
  issue (.tfence c y) c y s
/-- PARK (R124). -/
def execPark (c : CoreId) (y : Syl) (s : State) : Host.Outcome State Fault Refusal :=
  issue (.park c y) c y s

end Sys2Proof.Machine
end

