-- ==== Sys2Proof/Machine/ShfRows.lean ====
section
/-! DEFINITION. The commands of class SHF: a core executes the syllable at its mpc (`issue`; the syllable itself is
`semOf`). -/

namespace Sys2Proof.Machine

/-- SHL (R135). -/
def execShlS (c : CoreId) (y : Syl) (s : State) : Host.Outcome State Fault Refusal :=
  issue (.shlS c y) c y s
/-- SHR (R135). -/
def execShr (c : CoreId) (y : Syl) (s : State) : Host.Outcome State Fault Refusal :=
  issue (.shr c y) c y s
/-- SAR (R135). -/
def execSar (c : CoreId) (y : Syl) (s : State) : Host.Outcome State Fault Refusal :=
  issue (.sar c y) c y s
/-- ROL (R135). -/
def execRol (c : CoreId) (y : Syl) (s : State) : Host.Outcome State Fault Refusal :=
  issue (.rol c y) c y s
/-- ROR (R135). -/
def execRor (c : CoreId) (y : Syl) (s : State) : Host.Outcome State Fault Refusal :=
  issue (.ror c y) c y s
/-- EXT (R136). -/
def execExtF (c : CoreId) (y : Syl) (s : State) : Host.Outcome State Fault Refusal :=
  issue (.extF c y) c y s
/-- INS (R136). -/
def execInsF (c : CoreId) (y : Syl) (s : State) : Host.Outcome State Fault Refusal :=
  issue (.insF c y) c y s
/-- POPC (R134). -/
def execPopc (c : CoreId) (y : Syl) (s : State) : Host.Outcome State Fault Refusal :=
  issue (.popc c y) c y s
/-- CLZ (R137). -/
def execClz (c : CoreId) (y : Syl) (s : State) : Host.Outcome State Fault Refusal :=
  issue (.clz c y) c y s
/-- CTZ (R137). -/
def execCtz (c : CoreId) (y : Syl) (s : State) : Host.Outcome State Fault Refusal :=
  issue (.ctz c y) c y s
/-- BREV (R134). -/
def execBrev (c : CoreId) (y : Syl) (s : State) : Host.Outcome State Fault Refusal :=
  issue (.brev c y) c y s
/-- SEXT (R137). -/
def execSext (c : CoreId) (y : Syl) (s : State) : Host.Outcome State Fault Refusal :=
  issue (.sext c y) c y s
/-- PACK16 (R134). -/
def execPack16 (c : CoreId) (y : Syl) (s : State) : Host.Outcome State Fault Refusal :=
  issue (.pack16 c y) c y s
/-- UNPK16 (R137). -/
def execUnpk16 (c : CoreId) (y : Syl) (s : State) : Host.Outcome State Fault Refusal :=
  issue (.unpk16 c y) c y s

end Sys2Proof.Machine
end

