-- ==== Sys2Proof/Machine/SysRows.lean ====
section
/-! DEFINITION. The commands of class SYS: a core executes the syllable at its mpc (`issue`; the syllable itself is
`semOf`). -/

namespace Sys2Proof.Machine

/-- MFC (R174). -/
def execMfc (c : CoreId) (y : Syl) (s : State) : Host.Outcome State Fault Refusal :=
  issue (.mfc c y) c y s
/-- MTC (R174). -/
def execMtc (c : CoreId) (y : Syl) (s : State) : Host.Outcome State Fault Refusal :=
  issue (.mtc c y) c y s
/-- CSLD (R176). -/
def execCsld (c : CoreId) (y : Syl) (s : State) : Host.Outcome State Fault Refusal :=
  issue (.csld c y) c y s
/-- CSST (R218). -/
def execCsst (c : CoreId) (y : Syl) (s : State) : Host.Outcome State Fault Refusal :=
  issue (.csst c y) c y s
/-- CSSYNC (R221). -/
def execCssync (c : CoreId) (y : Syl) (s : State) : Host.Outcome State Fault Refusal :=
  issue (.cssync c y) c y s
/-- PFLUSH (R177). -/
def execPflush (c : CoreId) (y : Syl) (s : State) : Host.Outcome State Fault Refusal :=
  issue (.pflush c y) c y s
/-- PBAR (R177). -/
def execPbar (c : CoreId) (y : Syl) (s : State) : Host.Outcome State Fault Refusal :=
  issue (.pbar c y) c y s
/-- PBAR_CLEAR (R177). -/
def execPbarClear (c : CoreId) (y : Syl) (s : State) : Host.Outcome State Fault Refusal :=
  issue (.pbarClear c y) c y s
/-- CTXSW (R178). -/
def execCtxsw (c : CoreId) (y : Syl) (s : State) : Host.Outcome State Fault Refusal :=
  issue (.ctxsw c y) c y s
/-- TAGSET (R179). -/
def execTagset (c : CoreId) (y : Syl) (s : State) : Host.Outcome State Fault Refusal :=
  issue (.tagset c y) c y s
/-- SPLICE (R180). -/
def execSplice (c : CoreId) (y : Syl) (s : State) : Host.Outcome State Fault Refusal :=
  issue (.splice c y) c y s
/-- MODE (R181). -/
def execModeS (c : CoreId) (y : Syl) (s : State) : Host.Outcome State Fault Refusal :=
  issue (.modeS c y) c y s

end Sys2Proof.Machine
end

