-- ==== Sys2Proof/Machine/Dispatch.lean ====
section
/-! DEFINITION. The meaning of every command: one arm for each constructor. -/

namespace Sys2Proof.Machine

/-- What a command does to everything but the queue. -/
def exec (i : Instr) (s : State) : Host.Outcome State Fault Refusal :=
  match i with
  | .nop c y => Sys2Proof.Machine.execNop c y s
  | .br c y => Sys2Proof.Machine.execBr c y s
  | .bt c y => Sys2Proof.Machine.execBt c y s
  | .bf c y => Sys2Proof.Machine.execBf c y s
  | .bz c y => Sys2Proof.Machine.execBz c y s
  | .bnz c y => Sys2Proof.Machine.execBnz c y s
  | .brc c y => Sys2Proof.Machine.execBrc c y s
  | .callS c y => Sys2Proof.Machine.execCallS c y s
  | .callw c y => Sys2Proof.Machine.execCallw c y s
  | .ret c y => Sys2Proof.Machine.execRet c y s
  | .retw c y => Sys2Proof.Machine.execRetw c y s
  | .jr c y => Sys2Proof.Machine.execJr c y s
  | .callr c y => Sys2Proof.Machine.execCallr c y s
  | .repS c y => Sys2Proof.Machine.execRepS c y s
  | .repi c y => Sys2Proof.Machine.execRepi c y s
  | .loopS c y => Sys2Proof.Machine.execLoopS c y s
  | .wfe c y => Sys2Proof.Machine.execWfe c y s
  | .wfeResume c => Sys2Proof.Machine.execWfeResume c s
  | .sevCores c y => Sys2Proof.Machine.execSevCores c y s
  | .sevHubSource c y => Sys2Proof.Machine.execSevHubSource c y s
  | .sevJigGroup c y => Sys2Proof.Machine.execSevJigGroup c y s
  | .sevFieldTrigger c y => Sys2Proof.Machine.execSevFieldTrigger c y s
  | .waitt c y => Sys2Proof.Machine.execWaitt c y s
  | .waittResume c => Sys2Proof.Machine.execWaittResume c s
  | .gate c y => Sys2Proof.Machine.execGate c y s
  | .gret c y => Sys2Proof.Machine.execGret c y s
  | .tret c y => Sys2Proof.Machine.execTret c y s
  | .trap c y => Sys2Proof.Machine.execTrap c y s
  | .tfence c y => Sys2Proof.Machine.execTfence c y s
  | .park c y => Sys2Proof.Machine.execPark c y s
  | .addS c y => Sys2Proof.Machine.execAddS c y s
  | .subS c y => Sys2Proof.Machine.execSubS c y s
  | .addcy c y => Sys2Proof.Machine.execAddcy c y s
  | .subby c y => Sys2Proof.Machine.execSubby c y s
  | .andS c y => Sys2Proof.Machine.execAndS c y s
  | .orS c y => Sys2Proof.Machine.execOrS c y s
  | .xorS c y => Sys2Proof.Machine.execXorS c y s
  | .andn c y => Sys2Proof.Machine.execAndn c y s
  | .notS c y => Sys2Proof.Machine.execNotS c y s
  | .movS c y => Sys2Proof.Machine.execMovS c y s
  | .movi c y => Sys2Proof.Machine.execMovi c y s
  | .cmpeq c y => Sys2Proof.Machine.execCmpeq c y s
  | .cmpne c y => Sys2Proof.Machine.execCmpne c y s
  | .cmplt c y => Sys2Proof.Machine.execCmplt c y s
  | .cmple c y => Sys2Proof.Machine.execCmple c y s
  | .cmpltu c y => Sys2Proof.Machine.execCmpltu c y s
  | .cmpleu c y => Sys2Proof.Machine.execCmpleu c y s
  | .minS c y => Sys2Proof.Machine.execMinS c y s
  | .maxS c y => Sys2Proof.Machine.execMaxS c y s
  | .minu c y => Sys2Proof.Machine.execMinu c y s
  | .maxu c y => Sys2Proof.Machine.execMaxu c y s
  | .absS c y => Sys2Proof.Machine.execAbsS c y s
  | .negS c y => Sys2Proof.Machine.execNegS c y s
  | .sel c y => Sys2Proof.Machine.execSel c y s
  | .addsat c y => Sys2Proof.Machine.execAddsat c y s
  | .subsat c y => Sys2Proof.Machine.execSubsat c y s
  | .tagof c y => Sys2Proof.Machine.execTagof c y s
  | .retag c y => Sys2Proof.Machine.execRetag c y s
  | .tagchk c y => Sys2Proof.Machine.execTagchk c y s
  | .shlS c y => Sys2Proof.Machine.execShlS c y s
  | .shr c y => Sys2Proof.Machine.execShr c y s
  | .sar c y => Sys2Proof.Machine.execSar c y s
  | .rol c y => Sys2Proof.Machine.execRol c y s
  | .ror c y => Sys2Proof.Machine.execRor c y s
  | .extF c y => Sys2Proof.Machine.execExtF c y s
  | .insF c y => Sys2Proof.Machine.execInsF c y s
  | .popc c y => Sys2Proof.Machine.execPopc c y s
  | .clz c y => Sys2Proof.Machine.execClz c y s
  | .ctz c y => Sys2Proof.Machine.execCtz c y s
  | .brev c y => Sys2Proof.Machine.execBrev c y s
  | .sext c y => Sys2Proof.Machine.execSext c y s
  | .pack16 c y => Sys2Proof.Machine.execPack16 c y s
  | .unpk16 c y => Sys2Proof.Machine.execUnpk16 c y s
  | .mulS c y => Sys2Proof.Machine.execMulS c y s
  | .mulh c y => Sys2Proof.Machine.execMulh c y s
  | .mulw c y => Sys2Proof.Machine.execMulw c y s
  | .mac c y => Sys2Proof.Machine.execMac c y s
  | .divS c y => Sys2Proof.Machine.execDivS c y s
  | .divu c y => Sys2Proof.Machine.execDivu c y s
  | .rem c y => Sys2Proof.Machine.execRem c y s
  | .remu c y => Sys2Proof.Machine.execRemu c y s
  | .crc c y => Sys2Proof.Machine.execCrc c y s
  | .crcfin c y => Sys2Proof.Machine.execCrcfin c y s
  | .sqrtu c y => Sys2Proof.Machine.execSqrtu c y s
  | .lngResult c => Sys2Proof.Machine.execLngResult c s
  | .lngto c => Sys2Proof.Machine.execLngto c s
  | .ld c y => Sys2Proof.Machine.execLd c y s
  | .st c y => Sys2Proof.Machine.execSt c y s
  | .ld2 c y => Sys2Proof.Machine.execLd2 c y s
  | .st2 c y => Sys2Proof.Machine.execSt2 c y s
  | .ld4 c y => Sys2Proof.Machine.execLd4 c y s
  | .st4 c y => Sys2Proof.Machine.execSt4 c y s
  | .ldAcq c y => Sys2Proof.Machine.execLdAcq c y s
  | .stRel c y => Sys2Proof.Machine.execStRel c y s
  | .swap c y => Sys2Proof.Machine.execSwap c y s
  | .cas c y => Sys2Proof.Machine.execCas c y s
  | .fadd c y => Sys2Proof.Machine.execFadd c y s
  | .fenceLl c y => Sys2Proof.Machine.execFenceLl c y s
  | .fenceSs c y => Sys2Proof.Machine.execFenceSs c y s
  | .fenceFull c y => Sys2Proof.Machine.execFenceFull c y s
  | .fenceIo c y => Sys2Proof.Machine.execFenceIo c y s
  | .movb c y => Sys2Proof.Machine.execMovb c y s
  | .pin c y => Sys2Proof.Machine.execPin c y s
  | .unpin c y => Sys2Proof.Machine.execUnpin c y s
  | .lease c y => Sys2Proof.Machine.execLease c y s
  | .storePerformed c ix => Sys2Proof.Machine.execStorePerformed c ix s
  | .accessControlAnswer r ans => Sys2Proof.Machine.execAccessControlAnswer r ans s
  | .hwto c => Sys2Proof.Machine.execHwto c s
  | .inIo c y => Sys2Proof.Machine.execInIo c y s
  | .outIo c y => Sys2Proof.Machine.execOutIo c y s
  | .ioto c => Sys2Proof.Machine.execIoto c s
  | .fsend c y => Sys2Proof.Machine.execFsend c y s
  | .frecv c y => Sys2Proof.Machine.execFrecv c y s
  | .ciphKeyWrap c y => Sys2Proof.Machine.execCiphKeyWrap c y s
  | .ciphKeyUnwrap c y => Sys2Proof.Machine.execCiphKeyUnwrap c y s
  | .ciphCbcEncrypt c y => Sys2Proof.Machine.execCiphCbcEncrypt c y s
  | .ciphCbcDecrypt c y => Sys2Proof.Machine.execCiphCbcDecrypt c y s
  | .ciphCtr c y => Sys2Proof.Machine.execCiphCtr c y s
  | .ciphGcmEncrypt c y => Sys2Proof.Machine.execCiphGcmEncrypt c y s
  | .ciphGcmDecrypt c y => Sys2Proof.Machine.execCiphGcmDecrypt c y s
  | .ciphCcmEncrypt c y => Sys2Proof.Machine.execCiphCcmEncrypt c y s
  | .ciphCcmDecrypt c y => Sys2Proof.Machine.execCiphCcmDecrypt c y s
  | .ciphCmacGenerate c y => Sys2Proof.Machine.execCiphCmacGenerate c y s
  | .ciphCmacVerify c y => Sys2Proof.Machine.execCiphCmacVerify c y s
  | .cwait c y => Sys2Proof.Machine.execCwait c y s
  | .cwaitResume c => Sys2Proof.Machine.execCwaitResume c s
  | .cipherDone job st => Sys2Proof.Machine.execCipherDone job st s
  | .cipherJobTimeout job => Sys2Proof.Machine.execCipherJobTimeout job s
  | .engineRead job area off n => Sys2Proof.Machine.execEngineRead job area off n s
  | .engineWrite job area off bytes => Sys2Proof.Machine.execEngineWrite job area off bytes s
  | .engineCap w => Sys2Proof.Machine.execEngineCap w s
  | .ledg c y => Sys2Proof.Machine.execLedg c y s
  | .claim c y => Sys2Proof.Machine.execClaim c y s
  | .cmpl c y => Sys2Proof.Machine.execCmpl c y s
  | .postS c y => Sys2Proof.Machine.execPostS c y s
  | .mfc c y => Sys2Proof.Machine.execMfc c y s
  | .mtc c y => Sys2Proof.Machine.execMtc c y s
  | .csld c y => Sys2Proof.Machine.execCsld c y s
  | .csst c y => Sys2Proof.Machine.execCsst c y s
  | .cssync c y => Sys2Proof.Machine.execCssync c y s
  | .pflush c y => Sys2Proof.Machine.execPflush c y s
  | .pbar c y => Sys2Proof.Machine.execPbar c y s
  | .pbarClear c y => Sys2Proof.Machine.execPbarClear c y s
  | .ctxsw c y => Sys2Proof.Machine.execCtxsw c y s
  | .tagset c y => Sys2Proof.Machine.execTagset c y s
  | .splice c y => Sys2Proof.Machine.execSplice c y s
  | .modeS c y => Sys2Proof.Machine.execModeS c y s
  | .interrupt c => Sys2Proof.Machine.execInterrupt c s
  | .nmi c => Sys2Proof.Machine.execNmi c s
  | .wdog c => Sys2Proof.Machine.execWdog c s
  | .wdogStage2 c => Sys2Proof.Machine.execWdogStage2 c s
  | .stepTrap c => Sys2Proof.Machine.execStepTrap c s
  | .breakTrap c n => Sys2Proof.Machine.execBreakTrap c n s
  | .leaselost c => Sys2Proof.Machine.execLeaselost c s
  | .pacedIssue c => Sys2Proof.Machine.execPacedIssue c s
  | .levelAssert n => Sys2Proof.Machine.execLevelAssert n s
  | .levelWithdraw n => Sys2Proof.Machine.execLevelWithdraw n s
  | .offerTimeout c => Sys2Proof.Machine.execOfferTimeout c s
  | .srcstatPendClear c n => Sys2Proof.Machine.execSrcstatPendClear c n s
  | .srcstatSet c n => Sys2Proof.Machine.execSrcstatSet c n s
  | .msixUnmask v => Sys2Proof.Machine.execMsixUnmask v s
  | .tbhiRead c n => Sys2Proof.Machine.execTbhiRead c n s
  | .capture c mask => Sys2Proof.Machine.execCapture c mask s
  | .tbsethiWrite c n w => Sys2Proof.Machine.execTbsethiWrite c n w s
  | .compareArm c u w => Sys2Proof.Machine.execCompareArm c u w s
  | .compareFire u => Sys2Proof.Machine.execCompareFire u s
  | .ppsHold => Sys2Proof.Machine.execPpsHold s
  | .bankownWrite c n w => Sys2Proof.Machine.execBankownWrite c n w s
  | .ownershipDrainDone n => Sys2Proof.Machine.execOwnershipDrainDone n s
  | .scrubDone n => Sys2Proof.Machine.execScrubDone n s
  | .leaseExpiry n => Sys2Proof.Machine.execLeaseExpiry n s
  | .leaseNearExpiry n => Sys2Proof.Machine.execLeaseNearExpiry n s
  | .leaseAutoRenew n => Sys2Proof.Machine.execLeaseAutoRenew n s
  | .partWrite c p w => Sys2Proof.Machine.execPartWrite c p w s
  | .bankPowerOff c n => Sys2Proof.Machine.execBankPowerOff c n s
  | .bankPowerOn c n => Sys2Proof.Machine.execBankPowerOn c n s
  | .bankWakeDone n => Sys2Proof.Machine.execBankWakeDone n s
  | .marchGo c w => Sys2Proof.Machine.execMarchGo c w s
  | .marchAbort c => Sys2Proof.Machine.execMarchAbort c s
  | .marchDone n fails => Sys2Proof.Machine.execMarchDone n fails s
  | .rowRepair c w => Sys2Proof.Machine.execRowRepair c w s
  | .rowRepairDone => Sys2Proof.Machine.execRowRepairDone s
  | .rsdepthWrite c w => Sys2Proof.Machine.execRsdepthWrite c w s
  | .rsentWrite c k w => Sys2Proof.Machine.execRsentWrite c k w s
  | .sqTailDoorbell q v => Sys2Proof.Machine.execSqTailDoorbell q v s
  | .cqHeadDoorbell r v => Sys2Proof.Machine.execCqHeadDoorbell r v s
  | .sqEnable q w => Sys2Proof.Machine.execSqEnable q w s
  | .sqDisable q w => Sys2Proof.Machine.execSqDisable q w s
  | .cqEnable r w => Sys2Proof.Machine.execCqEnable r w s
  | .cqDisable r w => Sys2Proof.Machine.execCqDisable r w s
  | .ringFetch q n => Sys2Proof.Machine.execRingFetch q n s
  | .fetchComplete q entries => Sys2Proof.Machine.execFetchComplete q entries s
  | .disptake c g => Sys2Proof.Machine.execDisptake c g s
  | .disptakeFree c => Sys2Proof.Machine.execDisptakeFree c s
  | .workSlotFill c => Sys2Proof.Machine.execWorkSlotFill c s
  | .ringTimeout q seq => Sys2Proof.Machine.execRingTimeout q seq s
  | .functionLevelReset => Sys2Proof.Machine.execFunctionLevelReset s
  | .spoolReplay => Sys2Proof.Machine.execSpoolReplay s
  | .barAccessDropped bar2 write off => Sys2Proof.Machine.execBarAccessDropped bar2 write off s
  | .elcfgAck w => Sys2Proof.Machine.execElcfgAck w s
  | .hostSilence => Sys2Proof.Machine.execHostSilence s
  | .linkLoss => Sys2Proof.Machine.execLinkLoss s
  | .linkTrained => Sys2Proof.Machine.execLinkTrained s
  | .nopEntry c => Sys2Proof.Machine.execNopEntry c s
  | .sessionOpen c st key => Sys2Proof.Machine.execSessionOpen c st key s
  | .contextReload c idx slot macSt keySt key => Sys2Proof.Machine.execContextReload c idx slot macSt keySt key s
  | .sessionClose c => Sys2Proof.Machine.execSessionClose c s
  | .send c msg st cipherText => Sys2Proof.Machine.execSend c msg st cipherText s
  | .postRecv c msg => Sys2Proof.Machine.execPostRecv c msg s
  | .measure c samples => Sys2Proof.Machine.execMeasure c samples s
  | .actuate c => Sys2Proof.Machine.execActuate c s
  | .invoke c => Sys2Proof.Machine.execInvoke c s
  | .ledgerRead c => Sys2Proof.Machine.execLedgerRead c s
  | .shimLoad c image macSt => Sys2Proof.Machine.execShimLoad c image macSt s
  | .shimCutOver => Sys2Proof.Machine.execShimCutOver s
  | .timeEntry c => Sys2Proof.Machine.execTimeEntry c s
  | .timeSet c => Sys2Proof.Machine.execTimeSet c s
  | .configRead c => Sys2Proof.Machine.execConfigRead c s
  | .configWrite c => Sys2Proof.Machine.execConfigWrite c s
  | .modeRequest c => Sys2Proof.Machine.execModeRequest c s
  | .abortEntry c => Sys2Proof.Machine.execAbortEntry c s
  | .microcodeEntry c => Sys2Proof.Machine.execMicrocodeEntry c s
  | .gateSessOpen c => Sys2Proof.Machine.execGateSessOpen c s
  | .gateSessHot c => Sys2Proof.Machine.execGateSessHot c s
  | .gateDone c => Sys2Proof.Machine.execGateDone c s
  | .serviceKerf c => Sys2Proof.Machine.execServiceKerf c s
  | .serviceRelease c pass => Sys2Proof.Machine.execServiceRelease c pass s
  | .serviceSplice c => Sys2Proof.Machine.execServiceSplice c s
  | .serviceMarch c => Sys2Proof.Machine.execServiceMarch c s
  | .rowrepair c => Sys2Proof.Machine.execRowrepair c s
  | .rowmapSave c => Sys2Proof.Machine.execRowmapSave c s
  | .rowmapRestore c words => Sys2Proof.Machine.execRowmapRestore c words s
  | .chswitch c => Sys2Proof.Machine.execChswitch c s
  | .ledgerResume c slot macSt => Sys2Proof.Machine.execLedgerResume c slot macSt s
  | .ledgerFresh c => Sys2Proof.Machine.execLedgerFresh c s
  | .clusterReset c => Sys2Proof.Machine.execClusterReset c s
  | .sealDone st mac => Sys2Proof.Machine.execSealDone st mac s
  | .anchoring burnt st mac => Sys2Proof.Machine.execAnchoring burnt st mac s
  | .ledgkeyWrite c w macOld macNew => Sys2Proof.Machine.execLedgkeyWrite c w macOld macNew s
  | .ledgprove c w st mac => Sys2Proof.Machine.execLedgprove c w st mac s
  | .ledgerDrain => Sys2Proof.Machine.execLedgerDrain s
  | .lringHeadWrite v => Sys2Proof.Machine.execLringHeadWrite v s
  | .modereqWrite w => Sys2Proof.Machine.execModereqWrite w s
  | .clusterPowerDown n => Sys2Proof.Machine.execClusterPowerDown n s
  | .thriftPowerDownTimeout n => Sys2Proof.Machine.execThriftPowerDownTimeout n s
  | .lockstepEntry p => Sys2Proof.Machine.execLockstepEntry p s
  | .lockstepFailure p => Sys2Proof.Machine.execLockstepFailure p s
  | .coldReset straps failed => Sys2Proof.Machine.execColdReset straps failed s
  | .deadmanWarning => Sys2Proof.Machine.execDeadmanWarning s
  | .deadmanRestart => Sys2Proof.Machine.execDeadmanRestart s
  | .kerfctlKerf c k => Sys2Proof.Machine.execKerfctlKerf c k s
  | .kerfctlRelease c k => Sys2Proof.Machine.execKerfctlRelease c k s
  | .kerfReset k => Sys2Proof.Machine.execKerfReset k s
  | .selfTestDone k pass => Sys2Proof.Machine.execSelfTestDone k pass s
  | .spliceStop => Sys2Proof.Machine.execSpliceStop s
  | .spliceComplete ns => Sys2Proof.Machine.execSpliceComplete ns s
  | .spliceAbandon why => Sys2Proof.Machine.execSpliceAbandon why s
  | .ucieLaneFailure lane spareLeft => Sys2Proof.Machine.execUcieLaneFailure lane spareLeft s
  | .ucieLaneRepairTimeout => Sys2Proof.Machine.execUcieLaneRepairTimeout s
  | .refclkLoss => Sys2Proof.Machine.execRefclkLoss s
  | .pgNFall ix => Sys2Proof.Machine.execPgNFall ix s
  | .pgNRise ix => Sys2Proof.Machine.execPgNRise ix s
  | .vidalert ix code => Sys2Proof.Machine.execVidalert ix code s
  | .regulatorAck ix code => Sys2Proof.Machine.execRegulatorAck ix code s
  | .adaptiveStep ix v spare => Sys2Proof.Machine.execAdaptiveStep ix v spare s
  | .sensorSample ix volt temp => Sys2Proof.Machine.execSensorSample ix volt temp s
  | .sensorHardLimit ix k => Sys2Proof.Machine.execSensorHardLimit ix k s
  | .veneerMismatch => Sys2Proof.Machine.execVeneerMismatch s
  | .dualRailDisagree => Sys2Proof.Machine.execDualRailDisagree s
  | .fieldTamper k => Sys2Proof.Machine.execFieldTamper k s
  | .dbgOpen tap level => Sys2Proof.Machine.execDbgOpen tap level s
  | .dbgRespond tap resp => Sys2Proof.Machine.execDbgRespond tap resp s
  | .debugVerifyDone st => Sys2Proof.Machine.execDebugVerifyDone st s
  | .challengeExpiry => Sys2Proof.Machine.execChallengeExpiry s
  | .dbgClose tap => Sys2Proof.Machine.execDbgClose tap s
  | .debugReadData tap addr => Sys2Proof.Machine.execDebugReadData tap addr s
  | .debugWriteData tap addr w => Sys2Proof.Machine.execDebugWriteData tap addr w s
  | .debugReadIo tap addr => Sys2Proof.Machine.execDebugReadIo tap addr s
  | .debugWriteIo tap addr w => Sys2Proof.Machine.execDebugWriteIo tap addr w s
  | .debugReadCs tap l => Sys2Proof.Machine.execDebugReadCs tap l s
  | .debugWriteCs tap l w => Sys2Proof.Machine.execDebugWriteCs tap l w s
  | .dbgHalt tap k => Sys2Proof.Machine.execDbgHalt tap k s
  | .debugHaltReached c => Sys2Proof.Machine.execDebugHaltReached c s
  | .dbgResume tap k => Sys2Proof.Machine.execDbgResume tap k s
  | .dbgStep tap k => Sys2Proof.Machine.execDbgStep tap k s
  | .dbgSetBreakpoint tap k n l en => Sys2Proof.Machine.execDbgSetBreakpoint tap k n l en s
  | .breakpointHalt c n => Sys2Proof.Machine.execBreakpointHalt c n s
  | .dbgReadRegister tap k sel => Sys2Proof.Machine.execDbgReadRegister tap k sel s
  | .tapBypass => Sys2Proof.Machine.execTapBypass s
  | .tapIdcode => Sys2Proof.Machine.execTapIdcode s
  | .tapSamplePreload => Sys2Proof.Machine.execTapSamplePreload s
  | .tapExtest => Sys2Proof.Machine.execTapExtest s
  | .tapDbgacc off write w => Sys2Proof.Machine.execTapDbgacc off write w s
  | .heartbeat atDH w0 w1 => Sys2Proof.Machine.execHeartbeat atDH w0 w1 s
  | .heartbeatSend fromDH => Sys2Proof.Machine.execHeartbeatSend fromDH s
  | .dhHeartbeatTimeout => Sys2Proof.Machine.execDhHeartbeatTimeout s
  | .dfHeartbeatTimeout => Sys2Proof.Machine.execDfHeartbeatTimeout s
  | .retransmitTimeout fromDH cls => Sys2Proof.Machine.execRetransmitTimeout fromDH cls s
  | .laneFailure intoDH lane => Sys2Proof.Machine.execLaneFailure intoDH lane s
  | .hello w0 w1 macSt => Sys2Proof.Machine.execHello w0 w1 macSt s
  | .helloRepeat => Sys2Proof.Machine.execHelloRepeat s
  | .reply w0 w1 ok => Sys2Proof.Machine.execReply w0 w1 ok s
  | .confirm ok rtt => Sys2Proof.Machine.execConfirm ok rtt s
  | .keyRollStart => Sys2Proof.Machine.execKeyRollStart s
  | .roll atDH w0 w1 => Sys2Proof.Machine.execRoll atDH w0 w1 s
  | .rollRetry => Sys2Proof.Machine.execRollRetry s
  | .rollack w0 w1 => Sys2Proof.Machine.execRollack w0 w1 s
  | .echo atDH w0 w1 => Sys2Proof.Machine.execEcho atDH w0 w1 s
  | .timeSync w0 w1 => Sys2Proof.Machine.execTimeSync w0 w1 s
  | .timeSyncSend => Sys2Proof.Machine.execTimeSyncSend s
  | .fieldTimeUnsync => Sys2Proof.Machine.execFieldTimeUnsync s
  | .cmdOutLevels w0 w1 => Sys2Proof.Machine.execCmdOutLevels w0 w1 s
  | .cmdOutDac w0 w1 => Sys2Proof.Machine.execCmdOutDac w0 w1 s
  | .cmdOutTrigger w0 w1 => Sys2Proof.Machine.execCmdOutTrigger w0 w1 s
  | .cmdOutFlag w0 w1 => Sys2Proof.Machine.execCmdOutFlag w0 w1 s
  | .cmdCfg w0 w1 => Sys2Proof.Machine.execCmdCfg w0 w1 s
  | .shadowWrite c f w => Sys2Proof.Machine.execShadowWrite c f w s
  | .safeSetEnter w0 w1 => Sys2Proof.Machine.execSafeSetEnter w0 w1 s
  | .safeSetRelease w0 w1 => Sys2Proof.Machine.execSafeSetRelease w0 w1 s
  | .bypassOpen => Sys2Proof.Machine.execBypassOpen s
  | .bypassClose => Sys2Proof.Machine.execBypassClose s
  | .bypassTestDone ok => Sys2Proof.Machine.execBypassTestDone ok s
  | .jigProg w0 w1 => Sys2Proof.Machine.execJigProg w0 w1 s
  | .jigInject w0 w1 => Sys2Proof.Machine.execJigInject w0 w1 s
  | .jigStart w0 w1 => Sys2Proof.Machine.execJigStart w0 w1 s
  | .jigStop w0 w1 => Sys2Proof.Machine.execJigStop w0 w1 s
  | .jigReset w0 w1 => Sys2Proof.Machine.execJigReset w0 w1 s
  | .qword atDH w0 w1 => Sys2Proof.Machine.execQword atDH w0 w1 s
  | .upQueueSend j => Sys2Proof.Machine.execUpQueueSend j s
  | .sampleMsg w0 w1 => Sys2Proof.Machine.execSampleMsg w0 w1 s
  | .stampMsg w0 w1 => Sys2Proof.Machine.execStampMsg w0 w1 s
  | .eventMsg w0 w1 => Sys2Proof.Machine.execEventMsg w0 w1 s
  | .statusMsg w0 w1 => Sys2Proof.Machine.execStatusMsg w0 w1 s
  | .faultMsg w0 w1 => Sys2Proof.Machine.execFaultMsg w0 w1 s
  | .portTxFirst p chunk => Sys2Proof.Machine.execPortTxFirst p chunk s
  | .portTxLater p chunk => Sys2Proof.Machine.execPortTxLater p chunk s
  | .portRxFirst p chunk => Sys2Proof.Machine.execPortRxFirst p chunk s
  | .portRxLater p chunk => Sys2Proof.Machine.execPortRxLater p chunk s
  | .portFrameReceived p image start => Sys2Proof.Machine.execPortFrameReceived p image start s
  | .portFrameSent p result => Sys2Proof.Machine.execPortFrameSent p result s
  | .portBusOff p => Sys2Proof.Machine.execPortBusOff p s
  | .channelEdge u rising at_ => Sys2Proof.Machine.execChannelEdge u rising at_ s
  | .thresholdTrack u mid => Sys2Proof.Machine.execThresholdTrack u mid s
  | .currentLimit u => Sys2Proof.Machine.execCurrentLimit u s
  | .shortLatch u => Sys2Proof.Machine.execShortLatch u s
  | .shortRetry u holds => Sys2Proof.Machine.execShortRetry u holds s
  | .thermalShutdown u => Sys2Proof.Machine.execThermalShutdown u s
  | .thermalRecover u => Sys2Proof.Machine.execThermalRecover u s
  | .loadShed => Sys2Proof.Machine.execLoadShed s
  | .mismatch u => Sys2Proof.Machine.execMismatch u s
  | .openLoad u => Sys2Proof.Machine.execOpenLoad u s
  | .driverFault h drvB => Sys2Proof.Machine.execDriverFault h drvB s
  | .hwchSwitchDone h => Sys2Proof.Machine.execHwchSwitchDone h s
  | .standbyTest h ok => Sys2Proof.Machine.execStandbyTest h ok s
  | .triggerPeriod t => Sys2Proof.Machine.execTriggerPeriod t s
  | .conversionStart x t => Sys2Proof.Machine.execConversionStart x t s
  | .conversionDone x code mid => Sys2Proof.Machine.execConversionDone x code mid s
  | .fsWatchdog => Sys2Proof.Machine.execFsWatchdog s
  | .fieldSupplyUp => Sys2Proof.Machine.execFieldSupplyUp s
  | .fieldSupplyLoss => Sys2Proof.Machine.execFieldSupplyLoss s
  | .supplyUvEnter v => Sys2Proof.Machine.execSupplyUvEnter v s
  | .supplyUvExit v => Sys2Proof.Machine.execSupplyUvExit v s
  | .supplyOv v => Sys2Proof.Machine.execSupplyOv v s
  | .ovlongEnter => Sys2Proof.Machine.execOvlongEnter s
  | .ovlongExit v => Sys2Proof.Machine.execOvlongExit v s
  | .supplyUvw v => Sys2Proof.Machine.execSupplyUvw v s
  | .frstN => Sys2Proof.Machine.execFrstN s
  | .jigBr j rx => Sys2Proof.Machine.execJigBr j rx s
  | .jigHold j rx => Sys2Proof.Machine.execJigHold j rx s
  | .jigHoldEnd j rx => Sys2Proof.Machine.execJigHoldEnd j rx s
  | .jigShift j rx => Sys2Proof.Machine.execJigShift j rx s
  | .jigShiftBit j rx => Sys2Proof.Machine.execJigShiftBit j rx s
  | .jigSwapOut j => Sys2Proof.Machine.execJigSwapOut j s
  | .jigSwapIn j => Sys2Proof.Machine.execJigSwapIn j s
  | .jigSwapExch j => Sys2Proof.Machine.execJigSwapExch j s
  | .jigSwapClear j => Sys2Proof.Machine.execJigSwapClear j s
  | .jigDriveLevels j => Sys2Proof.Machine.execJigDriveLevels j s
  | .jigDriveDirections j => Sys2Proof.Machine.execJigDriveDirections j s
  | .jigCountLoad j => Sys2Proof.Machine.execJigCountLoad j s
  | .jigCountLoadSource j => Sys2Proof.Machine.execJigCountLoadSource j s
  | .jigCountStep j => Sys2Proof.Machine.execJigCountStep j s
  | .jigCountCompare j => Sys2Proof.Machine.execJigCountCompare j s
  | .jigMark j stamp => Sys2Proof.Machine.execJigMark j stamp s
  | .jigSignal j => Sys2Proof.Machine.execJigSignal j s
  | .jigMatchCompare j => Sys2Proof.Machine.execJigMatchCompare j s
  | .jigMatchLoadPat j => Sys2Proof.Machine.execJigMatchLoadPat j s
  | .jigMatchLoadMask j => Sys2Proof.Machine.execJigMatchLoadMask j s
  | .jigCrcInit j => Sys2Proof.Machine.execJigCrcInit j s
  | .jigCrcArm j => Sys2Proof.Machine.execJigCrcArm j s
  | .jigCrcDisarm j => Sys2Proof.Machine.execJigCrcDisarm j s
  | .jigCrcCopy j => Sys2Proof.Machine.execJigCrcCopy j s
  | .registerWrite c addr w => Sys2Proof.Machine.execRegisterWrite c addr w s
  | .unknownFrame atDH cls thr => Sys2Proof.Machine.execUnknownFrame atDH cls thr s
  | .watchdogHalf c => Sys2Proof.Machine.execWatchdogHalf c s
  | .hostPartCompletion c data late => Sys2Proof.Machine.execHostPartCompletion c data late s
  | .hostRegisterWrite off v => Sys2Proof.Machine.execHostRegisterWrite off v s
  | .fieldSelfTestDone u pass => Sys2Proof.Machine.execFieldSelfTestDone u pass s
  | .refclkReturn => Sys2Proof.Machine.execRefclkReturn s
  | .vidalertRelease => Sys2Proof.Machine.execVidalertRelease s
  | .fieldTemperatureWarning => Sys2Proof.Machine.execFieldTemperatureWarning s
  | .openLoadClear u => Sys2Proof.Machine.execOpenLoadClear u s
  | .currentLimitEnd u => Sys2Proof.Machine.execCurrentLimitEnd u s
  | .otpProvisioning a w => Sys2Proof.Machine.execOtpProvisioning a w s

end Sys2Proof.Machine
end

