-- ==== Sys2Proof/Safety.lean ====
section
/-! DEFINITION. What counts as a safe step: one that answers a next state; and the invariant of the machine: its
tables are in canonical form, so that equal contents are equal data, and every core is in a legal ring and window. Then
the words in which the claims about syllables are stated. -/

namespace Sys2Proof

/-- The step of the machine answers a next state: neither a fault nor a refusal. -/
def Safe (s : Machine.State) : Prop := ∃ t, Machine.step s = .next t

namespace Machine

/-- A core in a ring of R224 whose current window is one of the sixteen of R86. -/
def coreLegal (k : Core) : Prop := k.ring < 4 ∧ k.cur < 16

/-- Every table of the state is in canonical form, and every core is legal. -/
def Inv (s : State) : Prop :=
  Memory.wf s.mem = true ∧ tabWf ioReset none s.io = true ∧ tabWf fldReset none s.fld = true ∧
  tabWf barReset none s.bar = true ∧ tabWf (fun _ => 0#40) none s.cs = true ∧ tabWf (fun _ => 0#72) none s.tb = true ∧
  tabWf (fun _ => Core.reset) none s.cores = true ∧ ∀ c, coreLegal (coreOf s c)

/-- Core `c` with syllable `i` gathered: the state in which a microword of one syllable is evaluated. -/
def taken (s : State) (c : CoreId) (i : Instr) (y : Syl) : State := modCore s c.val (gather i y)
/-- What that syllable is executed with. -/
def soleCtx (s : State) (c : CoreId) (i : Instr) (y : Syl) : Ctx :=
  ⟨taken s c i y, c.val, coreOf (taken s c i y) c.val, (coreOf s c.val).mpc.toNat % 8 + slotsOf y - 1, y, false⟩

/-- The state and the fields let syllable `y` of shape `h` be the only one of core `c`'s next microword: the core runs
and waits for nothing, the line is present, sound and in its ring, the fields are those that the entry names (R112), and
the sequential successor is in its ring (R119). -/
structure Sole (s : State) (c : CoreId) (i : Instr) (h : Shape) (y : Syl) : Prop where
  runs : coreRuns s c.val = true
  idle : (coreOf s c.val).wait = .none
  first : (coreOf s c.val).mw = []
  zero : (coreOf s c.val).slots = 0
  free : (coreOf s c.val).haltReq = false
  calm : mQT (coreOf s c.val).mstat = false
  stop : y.stop = true
  fits : (coreOf s c.val).mpc.toNat % 8 + slotsOf y ≤ 8
  present : lineAbsent (lineOf (coreOf s c.val).mpc) = false
  whole : s.csBad.contains (redirectOf s (lineOf (coreOf s c.val).mpc)) = false
  sound : s.csSoft.contains (redirectOf s (lineOf (coreOf s c.val).mpc)) = false
  ring : innerLine s (coreOf s c.val).ring (coreOf s c.val).mpc = false
  named : unnamed h y = false
  ext : extMisuse h y = false
  far : extFar h y = false
  next : innerLine s (coreOf s c.val).ring (skipPad s (flowPlace (gather i y (coreOf s c.val)))) = false
  plain : h.cls ≠ 0 ∨ h.op = 0 ∨ noSeq (coreOf s c.val) = false

/-- Nothing of earlier microwords is under way in core `k`: no load shadow, no delay slot, no repetition or loop, no
single step, no change of CMP or QT that waits. -/
structure Steady (k : Core) : Prop where
  shadow : k.shadow = []
  rearm : k.rearm = none
  delay : k.delay = none
  rep : k.repc = 0
  loop : k.lcnt = 0
  step : k.stepReq = false
  mode : k.modeNew = none

/-- A steady core behind a microword of the one syllable `y` that transfers nowhere: its mpc, and what each retirement
sets. -/
def passed (k : Core) (y : Syl) : Core :=
  { k with
    mpc := linkAdd k.mpc (slotsOf y)
    repInt := false
    pbarN := k.pbarN - 1
    lngDone := false
    paced := false
    hostAcc := none
    movb := none
    last := k.mpc }

/-- `t` is `s` with core `c` being `k`, but for that core's watchdog count and performance counters and the free values
drawn for the latter. -/
def OnlyCore (s : State) (c : CoreId) (k : Core) (t : State) : Prop :=
  t = { setCore s c.val k with
    io := t.io
    fresh := t.fresh } ∧
  ∀ a, a ≠ priv c.val oWDOGSTAT → (∀ n : Fin 4, a ≠ priv c.val (oPMCNT n.val)) → ioGet t a = ioGet s a

/-- A register file of window `cur` after some words have been written to the registers that their numbers name. -/
def regsAll (cur : Nat) (ws : List (Nat × Word)) (r : Tab Word) : Tab Word :=
  ws.foldl (fun r p => if p.1 = 0 then r else tabSet emptyW r (regIdx cur p.1) p.2) r
/-- The registers of a core after some words have been written to them. -/
def putAll (k : Core) (ws : List (Nat × Word)) : Core := { k with regs := regsAll k.cur ws k.regs }

/-- What the predictor of core `k` holds after a microword with branch `b` (R200). -/
def learned (k : Core) (b : Option (Nat × Bool)) : Pred :=
  match b with
  | none => k.pred
  | some (place, go) => if predBarred k then k.pred else predUpdate place go k.pred
/-- A steady core behind a microword of the one syllable `y` that gathered `a`: its results written, its loads in their
shadow, its transfer made. -/
def settled (k : Core) (y : Syl) (a : Acc) : Core :=
  { putAll (passed k y) a.writes with
    shadow := shadowNew k.cur a.loads
    mpc := a.xfer.getD (linkAdd k.mpc (slotsOf y))
    pred := learned k a.branch }

/-- Core `c` waits for `w` in a microword of the one syllable `i` of shape `h`, and nothing outside the syllable's own
operands stands against its going on. -/
structure Held (s : State) (c : CoreId) (i : Instr) (h : Shape) (y : Syl) (w : Wait) : Prop where
  shape : sylOf i = some (h, y)
  runs : coreRuns s c.val = true
  waits : (coreOf s c.val).wait = w
  real : w ≠ .none
  word : (coreOf s c.val).mw = [i]
  size : (coreOf s c.val).slots = slotsOf y
  calm : mQT (coreOf s c.val).mstat = false
  stop : y.stop = true
  fits : (coreOf s c.val).mpc.toNat % 8 + slotsOf y ≤ 8
  present : lineAbsent (lineOf (coreOf s c.val).mpc) = false
  whole : s.csBad.contains (redirectOf s (lineOf (coreOf s c.val).mpc)) = false
  ring : innerLine s (coreOf s c.val).ring (coreOf s c.val).mpc = false
  named : unnamed h y = false
  ext : extMisuse h y = false
  far : extFar h y = false
  next : innerLine s (coreOf s c.val).ring (skipPad s (flowPlace (coreOf s c.val))) = false
  plain : h.cls ≠ 0 ∨ h.op = 0 ∨ noSeq (coreOf s c.val) = false
/-- What the syllable of a waiting microword is executed with when it goes on. -/
def heldCtx (s : State) (c : CoreId) (y : Syl) (lngTo : Bool) : Ctx :=
  ⟨s, c.val, coreOf s c.val, (coreOf s c.val).mpc.toNat % 8 + slotsOf y - 1, y, lngTo⟩

/-- Core `c` can execute syllable `i` as a microword of its own: the state is legal, the command can be sent, and nothing
outside the syllable's own operands stands against it. -/
def Ready (s : State) (c : CoreId) (i : Instr) (y : Syl) : Prop :=
  Inv s ∧ i.wellFormed = true ∧
    ∃ h, sylOf i = some (h, y) ∧ (h.cls = 0 → h.op = 0 → y.m ≠ 0x7FFF#15) ∧ Sole s c i h y

end Machine

end Sys2Proof
end

