-- ==== Sys2Proof/Certificates/Slice0/Obligations.lean ====
section
/-! DEFINITION. The statements for the provers, after the tables in which some of them are written. -/

namespace Sys2Proof.Machine

/-! ## What the tables of the manual say of a syllable

The operand tags that an entry accepts, and the word and the flags that it then gives. -/

/-- Two MEAS operands have one unit, a defined one (R40, R64). -/
def unitsAgree (a b : Word) : Bool :=
  !(decide (wtag a = .meas) && decide (wtag b = .meas)) || (unitOf a == unitOf b && unitOk (unitOf a))
/-- Neither EMPTY nor POISON. -/
def plainWord (a : Word) : Bool := decide (wtag a ≠ .empty) && decide (wtag a ≠ .poison)
/-- A result on a pair of the rows of R40 (R41). -/
def numRule (r : Rows) (a b : Word) (f : Tag → Word × Option FlagUpd) : Option (Word × Option FlagUpd) :=
  if unitsAgree a b then (rowTag r (wtag a) (wtag b)).map f else none
/-- A result with the flags of a result word. -/
def resultFlags (w : Word) : Word × Option FlagUpd := (w, flagsOf w (flagRes (pay w)))
/-- An ordered comparison (R39, R129). -/
def orderRule (sgn : Bool) (a b : Word) (v : Bool) : Option (Word × Option FlagUpd) :=
  if cmpPair sgn (wtag a) (wtag b) && unitsAgree a b then some (boolW v, cmpFlags a b) else none
/-- A shift or rotate: its count is M[5:0], or operand b from 0 to 63 (R135). -/
def shiftRule (ok : Tag → Bool) (f : Nat → Nat → Nat → Nat × Bool) (x : Ctx) : Option (Word × Option FlagUpd) :=
  let n : Option Nat :=
    if mF x 6 1 = 1 then (if x.y.b = 0 then some (mF x 0 6) else none)
    else if isNI (wtag (opB x)) ∧ 0 ≤ trueVal (opB x) ∧ trueVal (opB x) ≤ 63 then some (pay (opB x)) else none
  if ok (wtag (opA x)) then n.map fun n =>
    let w := tagWidth (wtag (opA x))
    let r := f w (pay (opA x) % 2 ^ w) n
    (mkW (wtag (opA x)) r.1, flagsOf (mkW (wtag (opA x)) r.1) (flagShift r.1 (if n = 0 then none else some r.2)))
  else none
/-- The result and the flags of an ALU or SHF syllable, where R39 accepts its operands. -/
def wordRule (i : Instr) (x : Ctx) : Option (Word × Option FlagUpd) :=
  let a := opA x
  let b := opB x
  match i with
  | .addS .. => numRule rowsAdd a b fun t => (rowAdd t a b, flagsOf (rowAdd t a b) (flagAdd (pay a) (pay b) (pay (rowAdd t a b))))
  | .subS .. => numRule rowsSub a b fun t => (rowSub t a b, flagsOf (rowSub t a b) (flagSub (pay a) (pay b)))
  | .addcy .. => numRule rowsAddcy a b fun t =>
      (boolW (decide (2 ^ tagWidth t ≤ pay a % 2 ^ tagWidth t + pay b % 2 ^ tagWidth t)),
        if t = .short16 then some (flagAdd (pay a) (pay b) (pay a + pay b)) else none)
  | .subby .. => numRule rowsSubby a b fun t =>
      (boolW (decide (pay a % 2 ^ tagWidth t < pay b % 2 ^ tagWidth t)),
        if t = .short16 then some (flagSub (pay a) (pay b)) else none)
  | .addsat .. => numRule rowsAddsat a b fun t =>
      (satW t a (satVal a + satVal b), flagsOf (satW t a (satVal a + satVal b)) (flagAdd (pay a) (pay b) (pay (satW t a (satVal a + satVal b)))))
  | .subsat .. => numRule rowsSubsat a b fun t =>
      (satW t a (satVal a - satVal b), flagsOf (satW t a (satVal a - satVal b)) (flagSub (pay a) (pay b)))
  | .andS .. => if isLogic (wtag a) && isLogic (wtag b) then some (mkW (logicTag [wtag a, wtag b]) (pay a &&& pay b), none) else none
  | .orS .. => if isLogic (wtag a) && isLogic (wtag b) then some (mkW (logicTag [wtag a, wtag b]) (pay a ||| pay b), none) else none
  | .xorS .. => if isLogic (wtag a) && isLogic (wtag b) then some (mkW (logicTag [wtag a, wtag b]) (pay a ^^^ pay b), none) else none
  | .andn .. => if isLogic (wtag a) && isLogic (wtag b) then
      some (mkW (logicTag [wtag a, wtag b]) (pay a &&& invert (logicTag [wtag a, wtag b]) (pay b)), none) else none
  | .notS .. => if isLogic (wtag a) then some (mkW (logicTag [wtag a]) (invert (logicTag [wtag a]) (pay a)), none) else none
  | .movS .. => if wtag a ≠ .empty then some (resultFlags a) else none
  | .movi .. => some (resultFlags (if mCMP x.k.mstat then mkW .short16 ((mInt x % 2 ^ 16).toNat) else intW (mInt x)))
  | .cmpeq .. => if plainWord a && plainWord b then some (boolW (a == b), cmpFlags a b) else none
  | .cmpne .. => if plainWord a && plainWord b then some (boolW (!(a == b)), cmpFlags a b) else none
  | .cmplt .. => orderRule true a b (ltS a b)
  | .cmple .. => orderRule true a b (ltS a b || eqS a b)
  | .cmpltu .. => orderRule false a b (decide (unsVal a < unsVal b))
  | .cmpleu .. => orderRule false a b (decide (unsVal a < unsVal b) || unsVal a == unsVal b)
  | .minS .. => numRule rowsOrder a b fun t => resultFlags (chosen t (if ltS b a then b else a))
  | .maxS .. => numRule rowsOrder a b fun t => resultFlags (chosen t (if ltS a b then b else a))
  | .minu .. => numRule rowsOrder a b fun t => resultFlags (chosen t (if unsVal b < unsVal a then b else a))
  | .maxu .. => numRule rowsOrder a b fun t => resultFlags (chosen t (if unsVal a < unsVal b then b else a))
  | .absS .. => if isSigned (wtag a) && unitsAgree a a then
      let n := tagWidth (wtag a)
      let w := rowW (wtag a) a (if bitAt (pay a % 2 ^ n) (n - 1) then 2 ^ n - pay a % 2 ^ n else pay a % 2 ^ n)
      some (w, flagsOf w (flagNeg (pay w))) else none
  | .negS .. => if isSigned (wtag a) && unitsAgree a a then
      let w := rowW (wtag a) a (2 ^ tagWidth (wtag a) - pay a % 2 ^ tagWidth (wtag a))
      some (w, flagsOf w (flagNeg (pay w))) else none
  | .sel .. => if isBool (wtag (regRead x.k (mF x 0 5))) && plainWord a && plainWord b then
      some (resultFlags (if pay (regRead x.k (mF x 0 5)) = 1 then a else b)) else none
  | .tagof .. => some (natW (wtag a).code, none)
  | .retag .. => if plainWord a && (retagSub (wtag a) (tagOfCode (mF x 0 4)) (pay a)).isNone then
      some (mkW (tagOfCode (mF x 0 4)) (pay a), none) else none
  | .shlS .. => shiftRule isNBS shlF x
  | .shr .. => shiftRule isNBS shrF x
  | .sar .. => shiftRule (fun t => isInt t || isShort t) sarF x
  | .rol .. => shiftRule isNBS rolF x
  | .ror .. => shiftRule isNBS rorF x
  | .extF .. => if isNIB (wtag a) && decide (mF x 0 6 + (mF x 6 6 + 1) ≤ 36) then
      some (natW (bits (pay a) (mF x 0 6) (mF x 6 6 + 1)), none) else none
  | .insF .. => if isNB (wtag a) && isNB (wtag b) && decide (mF x 0 6 + (mF x 6 6 + 1) ≤ 36) then
      some (mkW (if isNB (wtag (opD x 0)) then wtag (opD x 0) else .bits)
        (setBits (pay a) (mF x 0 6) (mF x 6 6 + 1) (pay b)), none) else none
  | .popc .. => if isNIB (wtag a) then some (natW (popCount 36 (pay a)), none) else none
  | .clz .. => if isNIB (wtag a) then some (natW (clzN (pay a)), none) else none
  | .ctz .. => if isNIB (wtag a) then some (natW (ctzN (pay a)), none) else none
  | .brev .. => if isNBS (wtag a) then
      let r := mkW (wtag a) (brevN (tagWidth (wtag a)) (pay a))
      some (r, flagsOf r (flagShift (pay r) none)) else none
  | .sext .. => if (isNBS (wtag a) || decide (wtag a = .meas)) && decide (mF x 0 6 ≤ 35) then
      some (intW (signed (mF x 0 6 + 1) (pay a)), none) else none
  | .pack16 .. => if isShort (wtag a) && isShort (wtag b) then
      some (bitsW (pay a % 2 ^ 16 * 2 ^ 16 + pay b % 2 ^ 16), none) else none
  | .unpk16 .. => if isNB (wtag a) then some (resultFlags (mkW .short16 (bits (pay a) (16 * mF x 0 1) 16))) else none
  | _ => none

/-- The commands that `wordRule` speaks of: the ALU and SHF syllables that give a word. -/
def wordSyllables : List (CoreId → Syl → Instr) :=
  [.addS, .subS, .addcy, .subby, .addsat, .subsat, .andS, .orS, .xorS, .andn, .notS, .movS, .movi, .cmpeq, .cmpne, .cmplt,
   .cmple, .cmpltu, .cmpleu, .minS, .maxS, .minu, .maxu, .absS, .negS, .sel, .tagof, .retag, .shlS, .shr, .sar, .rol, .ror,
   .extF, .insF, .popc, .clz, .ctz, .brev, .sext, .pack16, .unpk16]

/-- The words and the flags of an LNG syllable, where R39 accepts its operands. -/
def lngRule (i : Instr) (x : Ctx) : Option (List Word × Option FlagUpd) :=
  let a := opA x
  let b := opB x
  let pair := x.y.d.toNat % 8 ≠ 7 ∧ x.y.d ≠ 0
  match i with
  | .mulS .. => (lngTag (wtag a) (wtag b)).map fun t => lngWord (mkW t (productPart t false (trueVal a * trueVal b)))
  | .mulh .. => (lngTag (wtag a) (wtag b)).map fun t => lngWord (mkW t (productPart t true (trueVal a * trueVal b)))
  | .mulw .. => if pair ∧ isNI (wtag a) ∧ isNI (wtag b) then
      some (pairWords (if wtag a = .nat ∧ wtag b = .nat then .nat else .int) (trueVal a * trueVal b), none) else none
  | .mac .. => if pair ∧ isNI (wtag a) ∧ isNI (wtag b) ∧ isNI (wtag (opD x 0)) ∧ wtag (opD x 1) = .wide then
      some (pairWords (if wtag a = .nat ∧ wtag b = .nat ∧ wtag (opD x 0) = .nat then .nat else .int)
        (trueVal a * trueVal b + ((pay (opD x 0) + pay (opD x 1) * 2 ^ 36 : Nat) : Int)), none) else none
  | .divS .. => if trueVal b ≠ 0 then (lngTag (wtag a) (wtag b)).map fun t => lngWord (quotW t a b) else none
  | .rem .. => if trueVal b ≠ 0 then (lngTag (wtag a) (wtag b)).map fun t =>
      lngWord (mkW t ((trueVal a).tmod (trueVal b) % (2 ^ tagWidth t : Nat)).toNat) else none
  | .divu .. => if wtag a = .nat ∧ wtag b = .nat ∧ pay b ≠ 0 then some (lngWord (natW (pay a / pay b))) else none
  | .remu .. => if wtag a = .nat ∧ wtag b = .nat ∧ pay b ≠ 0 then some (lngWord (natW (pay a % pay b))) else none
  | .crc .. => if isNBS (wtag a) ∧ isNBS (wtag b) ∧ mF x 4 2 ≠ 3 then (crcPoly (mF x 0 4)).map fun p =>
      ([bitsW (crcStep p.1 p.2 (8 * 2 ^ mF x 4 2) (mF x 6 1 = 1) (pay a) (pay b))], none) else none
  | .crcfin .. => if isNBS (wtag a) then (crcPoly (mF x 0 4)).map fun p =>
      let q := if mF x 4 1 = 1 then brevN p.1 (pay a % 2 ^ p.1) else pay a % 2 ^ p.1
      ([bitsW (if mF x 5 1 = 1 then 2 ^ p.1 - 1 - q else q)], none) else none
  | .sqrtu .. => if wtag a = .nat then some (lngWord (natW (sqrtN (pay a)))) else none
  | _ => none
/-- The LNG syllables with the number of registers that each writes. -/
def lngSyllables : List ((CoreId → Syl → Instr) × Nat) :=
  [(.mulS, 1), (.mulh, 1), (.mulw, 2), (.mac, 2), (.divS, 1), (.divu, 1), (.rem, 1), (.remu, 1), (.crc, 1), (.crcfin, 1),
   (.sqrtu, 1)]

end Sys2Proof.Machine

open Sys2Proof Sys2Proof.Machine

/-! ## ALU, SHF and LNG syllables -/

/-- R39 to R43, R71, R115, R126 to R137, R146. An ALU or SHF syllable whose operands the tables accept retires: its word
goes to D and its flags to C16, and, when nothing of earlier microwords is under way, the core moves to its sequential
successor and nothing else changes but the watchdog's count and the performance counters. -/
def Obligations.WordSyllablesRetire : Prop :=
  ∀ I ∈ wordSyllables, ∀ (s : State) (c : CoreId) (y : Syl) (w : Word) (u : Option FlagUpd),
    Ready s c (I c y) y → wordRule (I c y) (soleCtx s c (I c y) y) = some (w, u) →
    ∃ t, exec (I c y) s = .next t ∧
      t = retireWord (taken s c (I c y) y) c.val
        (((Acc.start (taken s c (I c y) y)).put y.d.toNat w).flag c.val u) ∧
      (Steady (coreOf s c.val) →
        OnlyCore s c { putAll (passed (coreOf s c.val) y) [(y.d.toNat, w)] with
          mstat := setFlags (coreOf s c.val).mstat u } t)

/-- R139 to R146. An LNG syllable whose operands the tables accept waits for its unit; LNG_RESULT then retires it, with
its words in D (and D + 1) and its flags in C16. LNGTO ends the wait of an LNG syllable: the trap LNGTO with the
syllable's OP in fault info, or POISON with cause 0x07 in its destinations under PSN. -/
def Obligations.LngSyllables : Prop :=
  (∀ p ∈ lngSyllables, ∀ (s : State) (c : CoreId) (y : Syl) (ws : List Word) (u : Option FlagUpd),
    Ready s c (p.1 c y) y → (coreOf s c.val).lngDone = false →
    lngRule (p.1 c y) (soleCtx s c (p.1 c y) y) = some (ws, u) →
    exec (p.1 c y) s = .next (wordWait (taken s c (p.1 c y) y) c.val .lng) ∧
    ∃ t, exec (.lngResult c) (wordWait (taken s c (p.1 c y) y) c.val .lng) = .next t ∧
      (Steady (coreOf s c.val) →
        OnlyCore s c { putAll (passed (coreOf s c.val) y) (((List.range p.2).map (y.d.toNat + ·)).zip ws) with
          mstat := setFlags (coreOf s c.val).mstat u } t)) ∧
  (∀ p ∈ lngSyllables, ∀ (s : State) (c : CoreId) (y : Syl) (ws : List Word) (u : Option FlagUpd) (h : Shape),
    Ready s c (p.1 c y) y → (coreOf s c.val).lngDone = false → sylOf (p.1 c y) = some (h, y) →
    lngRule (p.1 c y) (soleCtx s c (p.1 c y) y) = some (ws, u) →
    exec (.lngto c) (wordWait (taken s c (p.1 c y) y) c.val .lng) =
      .next (if mPSN (coreOf s c.val).mstat then
          retireWord (wordWait (taken s c (p.1 c y) y) c.val .lng) c.val
            ((Acc.start (wordWait (taken s c (p.1 c y) y) c.val .lng)).putAll ((List.range p.2).map (y.d.toNat + ·))
              (poisonW (soleCtx s c (p.1 c y) y) 0 0x07))
        else wordTrap (wordWait (taken s c (p.1 c y) y) c.val .lng) c.val (trp 0x07 (natW 0) (natW h.op))))

/-! ## Retirement, POISON and tag faults -/

/-- R71, R80, R189, R200. The retirement of a microword of one syllable, when nothing of earlier microwords is under way.
`u` is the machine and `k` the core as the syllable's own effects leave them. The core's results are written, its loads
stand in their shadow, its transfer is made (under COMPAT it waits for the delay slot, which this statement leaves aside),
the predictor has learned its branch, and nothing else changes but the watchdog's count and the performance counters. -/
def Obligations.RetirementOfOneSyllable : Prop :=
  ∀ (s u : State) (c : CoreId) (i : Instr) (y : Syl) (k : Core) (a : Acc),
    Inv s → Inv u → Steady k → k.mw = [] → k.slots = 0 → k.wait = .none → k.mpc = (coreOf s c.val).mpc →
    k.cur = (coreOf s c.val).cur → a.st = setCore u c.val (gather i y k) →
    (a.xfer = none ∨ mCMP (coreOf s c.val).mstat = false) →
    a.trapN = none → a.rep = none → a.loop = none → a.after = id →
    OnlyCore u c (settled k y a) (retireWord (taken s c i y) c.val a)

/-- The ALU and SHF syllables whose first check is of operands a and b. -/
def pairSyllables : List (CoreId → Syl → Instr) :=
  [.addS, .subS, .addcy, .subby, .addsat, .subsat, .andS, .orS, .xorS, .andn, .cmpeq, .cmpne, .cmplt, .cmple, .cmpltu,
   .cmpleu, .minS, .maxS, .minu, .maxu, .pack16]

/-- R51. With a POISON operand, the first of a and b that is POISON is the result, and no flag is set. -/
def Obligations.PoisonPropagates : Prop :=
  ∀ I ∈ pairSyllables, ∀ (s : State) (c : CoreId) (y : Syl) (w : Word),
    Ready s c (I c y) y →
    ([opA (soleCtx s c (I c y) y), opB (soleCtx s c (I c y) y)].find? fun v => wtag v = .poison) = some w →
    exec (I c y) s = .next (retireWord (taken s c (I c y) y) c.val
      ((Acc.start (taken s c (I c y) y)).putAll [y.d.toNat] w))

/-- R45, R49, R50. With EMPTY in operand a and no POISON in b, the syllable raises TAGV: SUB 0x01, the tag EMPTY, the
syllable's place in its microword and ROLE 0 in fault info; under PSN it writes POISON instead, which names its mpc, the
subcode and the cause. -/
def Obligations.EmptyOperandFaults : Prop :=
  ∀ I ∈ pairSyllables, ∀ (s : State) (c : CoreId) (y : Syl),
    Ready s c (I c y) y → wtag (opA (soleCtx s c (I c y) y)) = .empty → wtag (opB (soleCtx s c (I c y) y)) ≠ .poison →
    exec (I c y) s = .next (if mPSN (coreOf s c.val).mstat then
        retireWord (taken s c (I c y) y) c.val ((Acc.start (taken s c (I c y) y)).putAll [y.d.toNat]
          (mkW .poison ((sylMpc (soleCtx s c (I c y) y)).toNat * 0x10000 + 0x01 * 0x100 + 0x01)))
      else wordTrap (taken s c (I c y) y) c.val
        ⟨0x01, natW 0, natW (0x01 + (slotsOf y - 1) * 0x1000), some 0, 0, 0⟩)

/-- R48. tagchk passes on a word whose tag its mask names, and then changes nothing; another tag raises TAGV SUB 0x0A, EMPTY
always SUB 0x01, and a POISON word that the mask does not name delivers its fault. tagof never traps and gives the tag's
number. -/
def Obligations.TagchkChecks : Prop :=
  ∀ (s : State) (c : CoreId) (y : Syl),
    (Ready s c (.tagchk c y) y →
      let a := opA (soleCtx s c (.tagchk c y) y)
      let v := taken s c (.tagchk c y) y
      (wtag a = .empty → exec (.tagchk c y) s = .next (wordTrap v c.val (tagvT (slotsOf y - 1) 0x01 0 0 (natW 0)))) ∧
      (wtag a ≠ .empty → bitAt y.m.toNat ((wtag a).code - 1) = true →
        exec (.tagchk c y) s = .next (retireWord v c.val (Acc.start v))) ∧
      (wtag a ≠ .empty → bitAt y.m.toNat ((wtag a).code - 1) = false →
        exec (.tagchk c y) s = .next (wordTrap v c.val
          (if wtag a = .poison then consumeT a else tagvT (slotsOf y - 1) 0x0A (wtag a).code 0 (natW 0))))) ∧
    (Ready s c (.tagof c y) y →
      exec (.tagof c y) s = .next (retireWord (taken s c (.tagof c y) y) c.val
        ((Acc.start (taken s c (.tagof c y) y)).put y.d.toNat
          (natW (wtag (opA (soleCtx s c (.tagof c y) y))).code))))

/-! ## MEM syllables -/

/-- The loads, with the number of words that each loads. -/
def loadSyllables : List ((CoreId → Syl → Instr) × Nat) := [(.ld, 1), (.ld2, 2), (.ld4, 4), (.ldAcq, 1)]
/-- The stores, with the number of words that each stores, and whether it is a release. -/
def storeSyllables : List ((CoreId → Syl → Instr) × Nat × Bool) :=
  [(.st, 1, false), (.st2, 2, false), (.st4, 4, false), (.stRel, 1, true)]
/-- The addresses of a group of `n` words at base + index + M (R148), where the operands have their tags and the registers
of a group stand as R150 asks. -/
def groupOf (x : Ctx) (n : Nat) : Option (List Nat) :=
  if groupOk x n ∧ wtag (opA x) = .addrD ∧ isNI (wtag (opB x)) then
    some (groupAt (effAddr 36 (opA x) (opB x) (mInt x)) n) else none

/-- R153, R155, R189, R197, R258, R262. A load of bank words that the ring may read retires with the words in the load
shadow of D on: those of the youngest buffered store that holds the group, else the words of memory after every overlapping
buffered store. -/
def Obligations.LoadsRetire : Prop :=
  ∀ p ∈ loadSyllables, ∀ (s : State) (c : CoreId) (y : Syl) (l : List Nat),
    let k := coreOf s c.val
    let v := taken s c (p.1 c y) y
    let u := drainOver v c.val (l.headD 0) l.length
    Ready s c (p.1 c y) y → groupOf (soleCtx s c (p.1 c y) y) p.2 = some l →
    (∀ a ∈ l, isBank a = true ∧ bankMay s c.val k.ring false (bankOf a) = true) →
    (∀ ws, forwarded k l = some ws → exec (p.1 c y) s = .next (retireWord v c.val
      { Acc.start v with loads := ((List.range p.2).map (y.d.toNat + ·)).zip ws })) ∧
    (forwarded k l = none → (∀ a ∈ l, u.eccBad.contains a = false) →
      exec (p.1 c y) s = .next (retireWord v c.val { Acc.start v with
        st := l.foldl eccRead u
        loads := ((List.range p.2).map (y.d.toNat + ·)).zip (l.map (memGet u)) }))

/-- R154, R156, R195, R262. A store to bank words that the ring may write retires with its words, under their addresses, as
the youngest entry of the store buffer; st.rel first performs every older store. -/
def Obligations.StoresRetire : Prop :=
  ∀ p ∈ storeSyllables, ∀ (s : State) (c : CoreId) (y : Syl) (l : List Nat),
    let k := coreOf s c.val
    let v := taken s c (p.1 c y) y
    let ws := l.zip ((List.range p.2.1).map fun j => regRead k (y.d.toNat + j))
    Ready s c (p.1 c y) y → groupOf (soleCtx s c (p.1 c y) y) p.2.1 = some l →
    (∀ a ∈ l, isBank a = true ∧ bankMay s c.val k.ring true (bankOf a) = true) →
    (∀ q ∈ ws, wtag q.2 ≠ .empty ∧ (isSecret q.2 = true → bankKeeper s (bankOf q.1) = true)) →
    exec (p.1 c y) s = .next (retireWord v c.val { Acc.start v with
      st := storePush (if p.2.2 then storeDrainAll v c.val else v) c.val ws })

/-- R151, R227, R263. A load or a store of bank words of which the ring may not access one raises BANKDENY, with the first
such address, the bank's owner and the direction. -/
def Obligations.BankDenied : Prop :=
  ∀ (s : State) (c : CoreId) (y : Syl) (a : Nat),
    (∀ (I : CoreId → Syl → Instr), I ∈ [Instr.ld, Instr.ldAcq] → Ready s c (I c y) y →
      groupOf (soleCtx s c (I c y) y) 1 = some [a] → mPSN (coreOf s c.val).mstat = false → isHost a = false →
      (isBank a && bankMay s c.val (coreOf s c.val).ring false (bankOf a)) = false →
      exec (I c y) s = .next (wordTrap (taken s c (I c y) y) c.val
        (trp 0x02 (addrW a) (natW (if isBank a then bankOwner s (bankOf a) else 0))))) ∧
    (∀ (I : CoreId → Syl → Instr), I ∈ [Instr.st, Instr.stRel] → Ready s c (I c y) y →
      groupOf (soleCtx s c (I c y) y) 1 = some [a] → isHost a = false →
      wtag (regRead (coreOf s c.val) y.d.toNat) ≠ .empty → isSecret (regRead (coreOf s c.val) y.d.toNat) = false →
      (isBank a && bankMay s c.val (coreOf s c.val).ring true (bankOf a)) = false →
      exec (I c y) s = .next (wordTrap (taken s c (I c y) y) c.val
        (trp 0x02 (addrW a) (natW ((if isBank a then bankOwner s (bankOf a) else 0) + 16)))))

/-- R196. STORE_PERFORMED writes the words of a buffered store that may be performed, in their order, to memory: every
address that the entry does not name reads as before, and the entry leaves the buffer. -/
def Obligations.StorePerformedWrites : Prop :=
  ∀ (s : State) (c : CoreId) (i : Nat) (e : StoreEnt),
    Inv s → (coreOf s c.val).storeBuf[i]? = some e → storeMay (coreOf s c.val).storeBuf i = true →
    ∃ t, exec (.storePerformed c i) s = .next t ∧
      (∀ a, memGet t a = match e.words.reverse.find? fun p => p.1 == a with
        | some p => p.2
        | none => memGet s a) ∧
      (coreOf t c.val).regs = (coreOf s c.val).regs ∧ (coreOf t c.val).mpc = (coreOf s c.val).mpc ∧
      (coreOf t c.val).mstat = (coreOf s c.val).mstat ∧
      (coreOf t c.val).storeBuf.filter (fun f => !f.marker) =
        ((coreOf s c.val).storeBuf.eraseIdx i).filter (fun f => !f.marker) ∧
      (∀ b, b ≠ c.val → coreOf t b = coreOf s b) ∧ t.io = s.io ∧ t.fld = s.fld ∧ t.cs = s.cs ∧ t.tb = s.tb

/-- The word that an atomic writes at `b` where the old word is `old`: none for a cas that fails (R157). -/
def atomRule (i : Instr) (x : Ctx) (old : Word) : Option (Option Word) :=
  match i with
  | .swap .. => some (some (opB x))
  | .cas .. => some (if old = opD x 0 then some (opB x) else none)
  | .fadd .. =>
    if wtag old = .poison then some (some old)
    else if wtag (opB x) = .poison then some (some (opB x))
    else if unitsAgree old (opB x) then
      (rowTag rowsAdd (wtag old) (wtag (opB x))).map fun t => some (mkW (wtag old) (pay (rowAdd t old (opB x))))
    else none
  | _ => none

/-- R157, R189. An atomic on a bank word that the ring may read and write performs every older store of its core, reads the
old word into the load shadow of D and writes the new one. -/
def Obligations.AtomicsRetire : Prop :=
  ∀ I ∈ [Instr.swap, Instr.cas, Instr.fadd], ∀ (s : State) (c : CoreId) (y : Syl) (n : Option Word),
    let k := coreOf s c.val
    let x := soleCtx s c (I c y) y
    let v := taken s c (I c y) y
    let u := storeDrainAll v c.val
    let b := effAddr 36 (opA x) (natW 0) (mInt x)
    Ready s c (I c y) y → wtag (opA x) = .addrD → isBank b = true →
    bankMay s c.val k.ring false (bankOf b) = true → bankMay s c.val k.ring true (bankOf b) = true →
    wtag (opB x) ≠ .empty →
    (isSecret (opB x) = true → bankKeeper s (bankOf b) = true) →
    u.eccBad.contains b = false → atomRule (I c y) x (memGet u b) = some n →
    exec (I c y) s = .next (retireWord v c.val { Acc.start v with
      loads := [(y.d.toNat, memGet u b)]
      st := match n with
        | none => eccRead u b
        | some w => memPut (eccRead u b) b w })

/-- R158. The fences retire at once: fence.full performs the whole store buffer first, fence.ss leaves a marker in a buffer
that holds a store, fence.ll and fence.io leave nothing behind (loads and I/O accesses are performed when they execute). -/
def Obligations.FencesRetire : Prop :=
  ∀ (s : State) (c : CoreId) (y : Syl),
    (Ready s c (.fenceLl c y) y → exec (.fenceLl c y) s =
      .next (retireWord (taken s c (.fenceLl c y) y) c.val (Acc.start (taken s c (.fenceLl c y) y)))) ∧
    (Ready s c (.fenceIo c y) y → exec (.fenceIo c y) s =
      .next (retireWord (taken s c (.fenceIo c y) y) c.val (Acc.start (taken s c (.fenceIo c y) y)))) ∧
    (Ready s c (.fenceFull c y) y → exec (.fenceFull c y) s =
      .next (retireWord (taken s c (.fenceFull c y) y) c.val { Acc.start (taken s c (.fenceFull c y) y) with
        st := storeDrainAll (taken s c (.fenceFull c y) y) c.val })) ∧
    (Ready s c (.fenceSs c y) y → exec (.fenceSs c y) s =
      .next (retireWord (taken s c (.fenceSs c y) y) c.val { Acc.start (taken s c (.fenceSs c y) y) with
        st := if (coreOf s c.val).storeBuf = [] then taken s c (.fenceSs c y) y
          else setCore s c.val { gather (.fenceSs c y) y (coreOf s c.val) with
            storeBuf := (coreOf s c.val).storeBuf ++ [{ marker := true, words := [] }] } }))

/-- The lines that a pin or unpin names: M[7:0] lines from that of the LINK in A on, all of them present (R161). -/
def pinnedOf (x : Ctx) : Option (List Nat) :=
  let l := bits (pay (opA x)) 3 17
  if wtag (opA x) = .link ∧ mF x 0 8 ≠ 0 ∧ l + mF x 0 8 ≤ 0x14000 then some ((List.range (mF x 0 8)).map (l + ·)) else none

/-- R159 to R162. A movb between banks that its ring may read and write, with no uncorrectable word and no KEYREF or
SEAL in its source, retires, and its destination then holds what its source held, however the two overlap. pin pins its
lines where the limits of R78 allow all of them, and says so in D; unpin unpins them; lease renews the lease of a bank
for a ring 0 core or a core that the bank's owner names. -/
def Obligations.MovbPinUnpinLease : Prop :=
  (∀ (s : State) (c : CoreId) (y : Syl),
    let k := coreOf s c.val
    let x := soleCtx s c (.movb c y) y
    let v := taken s c (.movb c y) y
    let u := storeDrainAll v c.val
    let src := pay (opA x)
    let dst := pay (opD x 0)
    let n := pay (opB x)
    Ready s c (.movb c y) y → k.movb = none → k.hostAcc = none →
    wtag (opA x) = .addrD → wtag (opD x 0) = .addrD → wtag (opB x) = .nat → n ≤ 4096 →
    src + n ≤ 0x200000 → dst + n ≤ 0x200000 →
    (∀ i, i < n → bankMay s c.val k.ring false (bankOf (src + i)) = true ∧
      bankMay s c.val k.ring true (bankOf (dst + i)) = true ∧ isSecret (memGet u (src + i)) = false ∧
      u.eccBad.contains (src + i) = false ∧ u.eccSoft.contains (src + i) = false) →
    ∃ t, exec (.movb c y) s = .next (retireWord v c.val { Acc.start v with st := t }) ∧
      ∀ a, memGet t a = if dst ≤ a ∧ a < dst + n then memGet u (src + (a - dst)) else memGet u a) ∧
  (∀ (s : State) (c : CoreId) (y : Syl),
    (∀ ls, Ready s c (.pin c y) y → pinnedOf (soleCtx s c (.pin c y) y) = some ls →
      let all := (coreOf s c.val).pinned ++ ls.filter fun l => !(coreOf s c.val).pinned.contains l
      exec (.pin c y) s = .next (retireWord (taken s c (.pin c y) y) c.val { Acc.start (taken s c (.pin c y) y) with
        writes := [(y.d.toNat, boolW (pinOk all))]
        st := if pinOk all then setCore s c.val { gather (.pin c y) y (coreOf s c.val) with pinned := all }
          else taken s c (.pin c y) y })) ∧
    (∀ ls, Ready s c (.unpin c y) y → pinnedOf (soleCtx s c (.unpin c y) y) = some ls →
      exec (.unpin c y) s = .next (retireWord (taken s c (.unpin c y) y) c.val
        { Acc.start (taken s c (.unpin c y) y) with
          writes := [(y.d.toNat, boolW true)]
          st := setCore s c.val { gather (.unpin c y) y (coreOf s c.val) with
            pinned := (coreOf s c.val).pinned.filter fun l => !ls.contains l } })) ∧
    (let a := opA (soleCtx s c (.lease c y) y)
     let ok := renewOk s c.val (coreOf s c.val).ring (pay a)
     Ready s c (.lease c y) y → wtag a = .nat → pay a ≤ 31 →
      exec (.lease c y) s = .next (retireWord (taken s c (.lease c y) y) c.val
        { Acc.start (taken s c (.lease c y) y) with
          writes := [(y.d.toNat, boolW ok)]
          st := if ok then renewDo (taken s c (.lease c y) y) (pay a) else taken s c (.lease c y) y })))

/-! ## SEQ syllables -/

/-- R117. A branch on a register whose tag its entry accepts retires; bt is taken on BOOL:1, bf on BOOL:0, bz on payload 0, bnz
on another, brc where the condition that M[5:0] selects differs from M[6]. Taken, outside a delay slot (R83), it transfers to
its target, in a line of its ring (R119). -/
def Obligations.BranchesRetire : Prop :=
  (∀ p ∈ [(Instr.bt, isBool, fun (n : Nat) => n == 1), (Instr.bf, isBool, fun n => n == 0), (Instr.bz, isBz, fun n => n == 0),
      (Instr.bnz, isBz, fun n => n != 0)],
    ∀ (s : State) (c : CoreId) (y : Syl) (l : Link),
    let x := soleCtx s c (p.1 c y) y
    let go := p.2.2 (pay (opA x)) && (coreOf s c.val).delay.isNone
    Ready s c (p.1 c y) y → p.2.1 (wtag (opA x)) = true → directTarget x false = .ok l →
    (go = true → innerLine s (coreOf s c.val).ring l = false) →
    exec (p.1 c y) s = .next (retireWord (taken s c (p.1 c y) y) c.val { Acc.start (taken s c (p.1 c y) y) with
      branch := some ((sylMpc x).toNat, go)
      xfer := if go then some l else none })) ∧
  (∀ (s : State) (c : CoreId) (y : Syl) (l : Link),
    let x := soleCtx s c (.brc c y) y
    let go := (condVal (taken s c (.brc c y) y) c.val (mF x 0 6) != (mF x 6 1 == 1)) && (coreOf s c.val).delay.isNone
    Ready s c (.brc c y) y → directTarget x true = .ok l →
    (go = true → innerLine s (coreOf s c.val).ring l = false) →
    exec (.brc c y) s = .next (retireWord (taken s c (.brc c y) y) c.val { Acc.start (taken s c (.brc c y) y) with
      branch := some ((sylMpc x).toNat, go)
      xfer := if go then some l else none }))

/-- R72, R81, R84 and R116 to R119. br and jr transfer; nop and tfence retire with no effect of their own. Where a
direct target lies: the line of the syllable plus M[14:3] as a signed number, slot M[2:0]; with EXT the place that the
immediate names. A line pad at the start of a microword takes the core to slot 0 of the next line, and nothing else
happens. -/
def Obligations.TransfersAndPads : Prop :=
  (∀ (s : State) (c : CoreId) (y : Syl) (l : Link),
    (Ready s c (.br c y) y → directTarget (soleCtx s c (.br c y) y) false = .ok l → (coreOf s c.val).delay = none →
      innerLine s (coreOf s c.val).ring l = false →
      exec (.br c y) s = .next (retireWord (taken s c (.br c y) y) c.val
        { Acc.start (taken s c (.br c y) y) with xfer := some l })) ∧
    (Ready s c (.jr c y) y → wtag (opA (soleCtx s c (.jr c y) y)) = .link → (coreOf s c.val).delay = none →
      innerLine s (coreOf s c.val).ring (BitVec.ofNat 20 (pay (opA (soleCtx s c (.jr c y) y)))) = false →
      exec (.jr c y) s = .next (retireWord (taken s c (.jr c y) y) c.val { Acc.start (taken s c (.jr c y) y) with
        xfer := some (BitVec.ofNat 20 (pay (opA (soleCtx s c (.jr c y) y)))) })) ∧
    (Ready s c (.nop c y) y → y.m = 0 →
      exec (.nop c y) s = .next (retireWord (taken s c (.nop c y) y) c.val (Acc.start (taken s c (.nop c y) y)))) ∧
    (Ready s c (.tfence c y) y →
      exec (.tfence c y) s = .next (retireWord (taken s c (.tfence c y) y) c.val (Acc.start (taken s c (.tfence c y) y))))) ∧
  (∀ (x : Ctx), x.k.mpc.toNat < 0xA0000 →
    (∀ p, x.y.ext = some p → directTarget x false = .ok (BitVec.ofNat 20 p.toNat)) ∧
    (x.y.ext = none → ∃ l : Link, directTarget x false = .ok l ∧ l.toNat % 8 = x.y.m.toNat % 8 ∧
      (l.toNat / 8 : Int) = ((x.k.mpc.toNat / 8 : Nat) + signed 12 (x.y.m.toNat / 8)) % 131072)) ∧
  (∀ (s : State) (c : CoreId),
    let k := coreOf s c.val
    let y : Syl := { stop := true, ext := none, d := 0, a := 0, b := 0, m := 0x7FFF }
    coreRuns s c.val = true → k.wait = .none → k.haltReq = false → k.mw = [] → lineAbsent (lineOf k.mpc) = false →
    exec (.nop c y) s = .next (setCore s c.val { k with mpc := BitVec.ofNat 20 (8 * (k.mpc.toNat / 8 + 1)) }))

/-- R87, R90, R91, R118. The calls push the link of the place after them on the return stack and transfer; callw also takes
the next window. -/
def Obligations.CallsRetire : Prop :=
  ∀ (s : State) (c : CoreId) (y : Syl) (l : Link),
    let d := ioF s (priv c.val oRSDEPTH) 0 5
    (coreOf s c.val).delay = none → innerLine s (coreOf s c.val).ring l = false →
    (d < 16 ∨ mRSOV (coreOf s c.val).mstat = false) →
    (Ready s c (.callS c y) y → directTarget (soleCtx s c (.callS c y) y) false = .ok l → d ≤ 16 →
      exec (.callS c y) s = .next (retireWord (taken s c (.callS c y) y) c.val
        { Acc.start (taken s c (.callS c y) y) with
          xfer := some l
          after := fun t => rsPush t c.val (returnLink (soleCtx s c (.callS c y) y)) })) ∧
    (Ready s c (.callw c y) y → directTarget (soleCtx s c (.callw c y) y) false = .ok l → d ≤ 16 →
      (coreOf s c.val).live < 15 →
      exec (.callw c y) s = .next (retireWord (taken s c (.callw c y) y) c.val
        { Acc.start (taken s c (.callw c y) y) with
          xfer := some l
          after := fun t => modCore (rsPush t c.val (returnLink (soleCtx s c (.callw c y) y))) c.val windowUp })) ∧
    (Ready s c (.callr c y) y → opA (soleCtx s c (.callr c y) y) = linkW l → d ≤ 16 →
      exec (.callr c y) s = .next (retireWord (taken s c (.callr c y) y) c.val
        { Acc.start (taken s c (.callr c y) y) with
          xfer := some l
          after := fun t => rsPush t c.val (returnLink (soleCtx s c (.callr c y) y)) }))

/-- R88. The returns transfer to the newest entry of the return stack and pop it; retw also takes the window below, and raises
WUNF, with cwp in fault info, when LIVE is 1. -/
def Obligations.ReturnsRetire : Prop :=
  ∀ (s : State) (c : CoreId) (y : Syl),
    (coreOf s c.val).delay = none → 0 < ioF s (priv c.val oRSDEPTH) 0 5 →
    innerLine s (coreOf s c.val).ring (rsTop s c.val) = false →
    (Ready s c (.ret c y) y →
      exec (.ret c y) s = .next (retireWord (taken s c (.ret c y) y) c.val { Acc.start (taken s c (.ret c y) y) with
        xfer := some (rsTop s c.val)
        after := fun t => rsPop t c.val })) ∧
    (Ready s c (.retw c y) y → (coreOf s c.val).live ≠ 1 →
      exec (.retw c y) s = .next (retireWord (taken s c (.retw c y) y) c.val { Acc.start (taken s c (.retw c y) y) with
        xfer := some (rsTop s c.val)
        after := fun t => modCore (rsPop t c.val) c.val windowDown })) ∧
    (Ready s c (.retw c y) y → (coreOf s c.val).live = 1 →
      exec (.retw c y) s = .next (wordTrap (taken s c (.retw c y) y) c.val
        (trp 0x0B (natW 0) (natW (cwpOf (coreOf s c.val))))))

/-- R91. The return stack holds 16 entries: a push on a stack that is not full is the new top, and a pop after it restores the
depth; with RSOV 0 a push on a full one loses the oldest and the depth stays 16, with RSOV 1 it raises RSOVF and nothing is
pushed; a pop from an empty one raises RSUNF. -/
def Obligations.ReturnStackPushPop : Prop :=
  (∀ (s : State) (c : CoreId) (l : Link), Inv s → ioF s (priv c.val oRSDEPTH) 0 5 ≤ 16 →
    rsTop (rsPush s c.val l) c.val = l ∧
    (ioF s (priv c.val oRSDEPTH) 0 5 < 16 →
      ioF (rsPush s c.val l) (priv c.val oRSDEPTH) 0 5 = ioF s (priv c.val oRSDEPTH) 0 5 + 1 ∧
      ioF (rsPop (rsPush s c.val l) c.val) (priv c.val oRSDEPTH) 0 5 = ioF s (priv c.val oRSDEPTH) 0 5) ∧
    (ioF s (priv c.val oRSDEPTH) 0 5 = 16 →
      ioF (rsPush s c.val l) (priv c.val oRSDEPTH) 0 5 = 16 ∧
      ∀ i < 15, ioGet (rsPush s c.val l) (priv c.val (oRSENT i)) = ioGet s (priv c.val (oRSENT (i + 1))))) ∧
  (∀ (s : State) (c : CoreId) (y : Syl) (l : Link), (coreOf s c.val).delay = none →
    (Ready s c (.callS c y) y → directTarget (soleCtx s c (.callS c y) y) false = .ok l →
      innerLine s (coreOf s c.val).ring l = false → ioF s (priv c.val oRSDEPTH) 0 5 = 16 →
      mRSOV (coreOf s c.val).mstat = true →
      exec (.callS c y) s = .next (wordTrap (taken s c (.callS c y) y) c.val (trp 0x0C (natW 0) (natW 16)))) ∧
    (Ready s c (.ret c y) y → ioF s (priv c.val oRSDEPTH) 0 5 = 0 →
      exec (.ret c y) s = .next (wordTrap (taken s c (.ret c y) y) c.val (trp 0x0D (natW 0) (natW 0)))))

/-- R94 to R97. rep, repi and loop retire with their count set: rep's M[7:0], the NAT in A. -/
def Obligations.RepeatsRetire : Prop :=
  ∀ (s : State) (c : CoreId) (y : Syl) (l : Link),
    (Ready s c (.repS c y) y →
      exec (.repS c y) s = .next (retireWord (taken s c (.repS c y) y) c.val { Acc.start (taken s c (.repS c y) y) with
        rep := some (y.m.toNat % 256, false) })) ∧
    (Ready s c (.repi c y) y → wtag (opA (soleCtx s c (.repi c y) y)) = .nat →
      exec (.repi c y) s = .next (retireWord (taken s c (.repi c y) y) c.val { Acc.start (taken s c (.repi c y) y) with
        rep := some (pay (opA (soleCtx s c (.repi c y) y)), true) })) ∧
    (let x := soleCtx s c (.loopS c y) y
     Ready s c (.loopS c y) y → wtag (opA x) = .nat → pay (opA x) ≠ 0 → directTarget x false = .ok l →
      (nextOf x).toNat ≤ l.toNat →
      exec (.loopS c y) s = .next (retireWord (taken s c (.loopS c y) y) c.val { Acc.start (taken s c (.loopS c y) y) with
        loop := some (nextOf x, l, pay (opA x)) }))

/-- R100 to R102, R169 and R384. A wfe with evlat[0] set retires and clears it; another waits, and WFE_RESUME retires
it once the bit is set. A waitt arms its unit and waits; WAITT_RESUME retires it once the unit has fired. A cwait whose
job has ended retires with its status; another waits, and CWAIT_RESUME retires it once the job has ended. The four
kinds of sev: to cores (flag M[2:0] too when M[3] is 1), a hub source from 640 to 1,022, a jig group, a field trigger. -/
def Obligations.WaitsAndEvents : Prop :=
  (∀ (s : State) (c : CoreId) (y : Syl) (h : Shape),
    (Ready s c (.wfe c y) y →
      exec (.wfe c y) s = .next (if bitAt (coreOf s c.val).evlat 0 then
          retireWord (taken s c (.wfe c y) y) c.val { Acc.start (taken s c (.wfe c y) y) with
            st := setCore s c.val { gather (.wfe c y) y (coreOf s c.val) with
              evlat := (coreOf s c.val).evlat / 2 * 2 } }
        else wordWait (taken s c (.wfe c y) y) c.val .wfe)) ∧
    (Held s c (.wfe c y) h y .wfe → bitAt (coreOf s c.val).evlat 0 = true →
      exec (.wfeResume c) s = .next (retireWord s c.val { Acc.start s with
        st := setCore s c.val { coreOf s c.val with evlat := (coreOf s c.val).evlat / 2 * 2 } })) ∧
    (Ready s c (.waitt c y) y → bitAt (cmpSlot s c.val 7) 7 = true → wtag (opA (soleCtx s c (.waitt c y) y)) = .time →
      exec (.waitt c y) s = .next (wordWait (waittArm (taken s c (.waitt c y) y) (cmpSlot s c.val 7 % 64) (y.m.toNat % 4)
        (pay (opA (soleCtx s c (.waitt c y) y)))) c.val .waitt)) ∧
    (Held s c (.waitt c y) h y .waitt → bitAt (cmpSlot s c.val 7) 7 = true →
      wtag (regRead (coreOf s c.val) y.a.toNat) = .time → ioB s (aCMPCTL (cmpSlot s c.val 7 % 64)) 3 = true →
      exec (.waittResume c) s = .next (retireWord s c.val (Acc.start s))) ∧
    (Ready s c (.cwait c y) y → (coreOf s c.val).ring ≤ 2 →
      exec (.cwait c y) s = .next (if (coreOf s c.val).ciphBusy then wordWait (taken s c (.cwait c y) y) c.val .cwait
        else retireWord (taken s c (.cwait c y) y) c.val { Acc.start (taken s c (.cwait c y) y) with
          writes := [(y.d.toNat, natW (coreOf s c.val).ciphSt)] })) ∧
    (Held s c (.cwait c y) h y .cwait → (coreOf s c.val).ring ≤ 2 → (coreOf s c.val).ciphBusy = false →
      exec (.cwaitResume c) s = .next (retireWord s c.val { Acc.start s with
        writes := [(y.d.toNat, natW (coreOf s c.val).ciphSt)] }))) ∧
  (∀ (s : State) (c : CoreId) (y : Syl),
    (let a := opA (soleCtx s c (.sevCores c y) y)
     Ready s c (.sevCores c y) y → y.m.toNat < 4096 → isNB (wtag a) = true →
      exec (.sevCores c y) s = .next (retireWord (taken s c (.sevCores c y) y) c.val
        { Acc.start (taken s c (.sevCores c y) y) with
          after := fun t => (bitList 32 (pay a)).foldl sevCore
            (if bitAt y.m.toNat 3 then (bitList 32 (pay a)).foldl (sevFlag (y.m.toNat % 8)) t else t) })) ∧
    (Ready s c (.sevHubSource c y) y → 640 ≤ y.m.toNat % 1024 → y.m.toNat % 1024 ≤ 1022 →
      exec (.sevHubSource c y) s = .next (retireWord (taken s c (.sevHubSource c y) y) c.val
        { Acc.start (taken s c (.sevHubSource c y) y) with after := fun t => raise t (y.m.toNat % 1024) })) ∧
    (Ready s c (.sevJigGroup c y) y →
      exec (.sevJigGroup c y) s = .next (retireWord (taken s c (.sevJigGroup c y) y) c.val
        { Acc.start (taken s c (.sevJigGroup c y) y) with after := fun t => dhOut t 4 (y.m.toNat % 32 + 32) })) ∧
    (Ready s c (.sevFieldTrigger c y) y →
      exec (.sevFieldTrigger c y) s = .next (retireWord (taken s c (.sevFieldTrigger c y) y) c.val
        { Acc.start (taken s c (.sevFieldTrigger c y) y) with after := fun t => dhOut t 3 (y.m.toNat % 16) })))

/-- R122, R124, R241, R254, R256. A gate, a gret or a tret whose checks pass changes ring at its retirement; trap n retires
and is then taken; park in ring 0 of a core that is not QUIET parks it. -/
def Obligations.RingChangesRetire : Prop :=
  ∀ (s : State) (c : CoreId) (y : Syl),
    (coreOf s c.val).delay = none →
    (∀ g, Ready s c (.gate c y) y → gateCheck (taken s c (.gate c y) y) c.val (y.m.toNat % 256) = .ok g →
      exec (.gate c y) s = .next (retireWord (taken s c (.gate c y) y) c.val { Acc.start (taken s c (.gate c y) y) with
        after := fun t => gateApply t c.val (y.m.toNat % 256) (linkAdd (coreOf s c.val).mpc (slotsOf y)) g })) ∧
    (∀ ws, Ready s c (.gret c y) y → gretCheck (taken s c (.gret c y) y) c.val = .ok ws →
      exec (.gret c y) s = .next (retireWord (taken s c (.gret c y) y) c.val { Acc.start (taken s c (.gret c y) y) with
        after := fun t => gretApply t c.val ws })) ∧
    (∀ ws, Ready s c (.tret c y) y → tretCheck (taken s c (.tret c y) y) c.val = .ok ws →
      exec (.tret c y) s = .next (retireWord (taken s c (.tret c y) y) c.val { Acc.start (taken s c (.tret c y) y) with
        after := fun t => tretApply (drainOver t c.val (pay (tretAddr t c.val)) 16) c.val ws })) ∧
    (Ready s c (.trap c y) y →
      exec (.trap c y) s = .next (retireWord (taken s c (.trap c y) y) c.val { Acc.start (taken s c (.trap c y) y) with
        trapN := some (trp (0x20 + y.m.toNat % 16) (linkW (coreOf s c.val).mpc) (natW (y.m.toNat % 16))) })) ∧
    (Ready s c (.park c y) y → (coreOf s c.val).ring = 0 → bitAt (effQuiet s) c.val = false →
      exec (.park c y) s = .next (retireWord (taken s c (.park c y) y) c.val { Acc.start (taken s c (.park c y) y) with
        after := fun t => parkDo t c.val (y.m.toNat % 2) }))

/-! ## PORT syllables -/

/-- The I/O address of an in or out at base + index + M, modulo 2^24 (R148), where the operands have their tags. -/
def ioPlace (x : Ctx) : Option Nat :=
  if wtag (opA x) = .addrIO ∧ isNI (wtag (opB x)) then some (effAddr 24 (opA x) (opB x) (mInt x)) else none
/-- May core `c` in `ring` read the register at address `a` of I/O space, and is its block mapped and powered (R539)? -/
def ioReadable (s : State) (c ring a : Nat) : Bool :=
  ioMapped a && (!otherPriv c (ioAbs c a) || ring == 0) && !ioIslandOff s (ioAbs c a) &&
  (match regInfo c (ioAbs c a) with | none => true | some i => bitAt i.rd ring)

/-- R165, R539 and R540. An in of a register that the ring may read retires with what the register reads as, and with
the effect that the register's read has; an address of a mapped block at which no register stands reads NAT:0. An out
that the register accepts retires with the write's effect. An in or an out of an address whose block is not mapped
raises IOTO with that address; a register that the ring may not read raises PRIV 0x04 with it. -/
def Obligations.IoSyllables : Prop :=
  (∀ (s : State) (c : CoreId) (y : Syl) (i : Nat),
    let v := taken s c (.inIo c y) y
    Ready s c (.inIo c y) y → ioPlace (soleCtx s c (.inIo c y) y) = some i →
    ioReadable v c.val (coreOf s c.val).ring i = true →
    exec (.inIo c y) s = .next (retireWord v c.val (
      match regInfo c.val (ioAbs c.val i) with
      | none => { Acc.start v with
          writes := [(y.d.toNat, natW 0)]
          st := ioReadEff v c.val (ioAbs c.val i) }
      | some _ => { Acc.start v with
          writes := [(y.d.toNat, ioValue v c.val (ioAbs c.val i))]
          st := ioReadEff v c.val (ioAbs c.val i) }))) ∧
  (∀ (s : State) (c : CoreId) (y : Syl) (i : Nat) (t : State),
    let v := taken s c (.outIo c y) y
    let w := regRead (coreOf s c.val) y.d.toNat
    Ready s c (.outIo c y) y → ioPlace (soleCtx s c (.outIo c y) y) = some i → wtag w ≠ .poison →
    ioWrite v c.val (coreOf s c.val).ring (slotsOf y - 1) i w = .done t →
    exec (.outIo c y) s = .next (retireWord v c.val { Acc.start v with st := t })) ∧
  (∀ (s : State) (c : CoreId) (y : Syl) (i : Nat),
    (Ready s c (.inIo c y) y → ioPlace (soleCtx s c (.inIo c y) y) = some i → ioMapped i = false →
      exec (.inIo c y) s = .next (wordTrap (taken s c (.inIo c y) y) c.val (trp 0x06 (addrIOW i) (natW 0)))) ∧
    (Ready s c (.outIo c y) y → ioPlace (soleCtx s c (.outIo c y) y) = some i → ioMapped i = false →
      wtag (regRead (coreOf s c.val) y.d.toNat) ≠ .poison →
      exec (.outIo c y) s = .next (wordTrap (taken s c (.outIo c y) y) c.val (trp 0x06 (addrIOW i) (natW 0)))) ∧
    (∀ r, Ready s c (.inIo c y) y → ioPlace (soleCtx s c (.inIo c y) y) = some i → ioMapped i = true →
      regInfo c.val (ioAbs c.val i) = some r → bitAt r.rd (coreOf s c.val).ring = false →
      exec (.inIo c y) s = .next (wordTrap (taken s c (.inIo c y) y) c.val (trp 0x08 (addrIOW i) (natW 0x04)))))

/-- R53, R166, R167. fsend in ring 0 or 1 with a type and body words that the dovetail carries answers BOOL:1 and queues its
message, BOOL:0 on a dovetail that is not paired; frecv gives the oldest message of its queue, NAT:0 and two EMPTY:0 words
from an empty one. -/
def Obligations.DovetailPort : Prop :=
  ∀ (s : State) (c : CoreId) (y : Syl),
    (coreOf s c.val).ring ≤ 1 →
    (let x := soleCtx s c (.fsend c y) y
     let v := taken s c (.fsend c y) y
     Ready s c (.fsend c y) y → fsendType (y.m.toNat % 256) = true →
     (∀ w ∈ [opA x, opB x], wtag w ≠ .poison ∧ wtag w ≠ .empty ∧ dvTag (wtag w) = true) →
      ((dvPaired s = false ∨ s.islReset.contains 13 = true) →
        exec (.fsend c y) s = .next (retireWord v c.val { Acc.start v with writes := [(y.d.toNat, boolW false)] })) ∧
      (dvPaired s = true → s.islReset.contains 13 = false → sendFull s c.val = false →
        exec (.fsend c y) s = .next (retireWord v c.val { Acc.start v with
          writes := [(y.d.toNat, boolW true)]
          st := coreSend v c.val ⟨y.m.toNat % 256, opA x, opB x⟩ }))) ∧
    (let v := taken s c (.frecv c y) y
     let ds := [y.d.toNat, y.d.toNat + 1, y.d.toNat + 2]
     Ready s c (.frecv c y) y → y.d ≠ 0 → y.d.toNat % 8 ≤ 5 →
      ((coreOf s c.val).recvQ = [] →
        exec (.frecv c y) s = .next (retireWord v c.val { Acc.start v with
          writes := ds.zip [natW 0, emptyW, emptyW] })) ∧
      (∀ m l, (coreOf s c.val).recvQ = m :: l →
        exec (.frecv c y) s = .next (retireWord v c.val { Acc.start v with
          writes := ds.zip [natW m.typ, m.w0, m.w1]
          st := coreTake v c.val })))

/-- The cipher syllables with their functions (R168). -/
def cipherSyllables : List ((CoreId → Syl → Instr) × Nat) :=
  [(.ciphKeyWrap, 0), (.ciphKeyUnwrap, 1), (.ciphCbcEncrypt, 2), (.ciphCbcDecrypt, 3), (.ciphCtr, 4), (.ciphGcmEncrypt, 5),
   (.ciphGcmDecrypt, 6), (.ciphCcmEncrypt, 7), (.ciphCcmDecrypt, 8), (.ciphCmacGenerate, 9), (.ciphCmacVerify, 10)]

/-- R168, R440. A ciph in rings 0 to 2 with a KEYREF, a job block that the ring may read and write and a length of at most
65,536, on a core without a job, retires and starts the job of its function. -/
def Obligations.CipherStarts : Prop :=
  ∀ p ∈ cipherSyllables, ∀ (s : State) (c : CoreId) (y : Syl),
    let x := soleCtx s c (p.1 c y) y
    let v := taken s c (p.1 c y) y
    let b := pay (opB x)
    Ready s c (p.1 c y) y → y.m.toNat % 16 = p.2 → (coreOf s c.val).ring ≤ 2 → wtag (opA x) = .keyref → wtag (opB x) = .addrD →
    wtag (opD x 0) = .nat → pay (opD x 0) ≤ 65536 → ciphRuns x = false → cipherValid v = true →
    (∀ a ∈ groupAt b 16, isBank a = true ∧ bankMay s c.val (coreOf s c.val).ring false (bankOf a) = true ∧
      bankMay s c.val (coreOf s c.val).ring true (bankOf a) = true) →
    exec (p.1 c y) s = .next (retireWord v c.val { Acc.start v with
      st := ciphStart (drainOver v c.val b 16) c.val (coreOf s c.val).ring p.2 (pay (opD x 0)) (BitVec.ofNat 36 (pay (opA x))) b })

/-- R170 to R172, R300, R301, R409. ledg appends its payload from memory as a record and answers whether there was room;
claim gives the number of the offered source and cmpl completes one; post posts three words as a completion. -/
def Obligations.LedgerHubPort : Prop :=
  ∀ (s : State) (c : CoreId) (y : Syl) (ws : List Word),
    (let x := soleCtx s c (.ledg c y) y
     let v := taken s c (.ledg c y) y
     let l := groupAt (pay (opA x)) (y.m.toNat % 32)
     let typ := mF x 5 10
     Ready s c (.ledg c y) y → y.m.toNat % 32 ≤ 16 → (coreOf s c.val).ring ≤ 2 → (0x100 ≤ typ ∨ (coreOf s c.val).ring = 0) →
     wtag (opA x) = .addrD → portWords x l = .ok ws → payloadCheck x (l.zip ws) = .ok () →
      exec (.ledg c y) s = .next (retireWord v c.val { Acc.start v with
        writes := [(y.d.toNat, boolW (ledgCore v typ ws (coreOf s c.val).ring c.val).1)]
        st := (ledgCore (portReads c.val l v) typ ws (coreOf s c.val).ring c.val).2 })) ∧
    (Ready s c (.claim c y) y →
      exec (.claim c y) s = .next (retireWord (taken s c (.claim c y) y) c.val { Acc.start (taken s c (.claim c y) y) with
        writes := [(y.d.toNat, natW (claimNum (taken s c (.claim c y) y) c.val))]
        st := claimDo (taken s c (.claim c y) y) c.val })) ∧
    (Ready s c (.cmpl c y) y → wtag (opA (soleCtx s c (.cmpl c y) y)) = .nat →
      exec (.cmpl c y) s = .next (retireWord (taken s c (.cmpl c y) y) c.val { Acc.start (taken s c (.cmpl c y) y) with
        st := completeDo (taken s c (.cmpl c y) y) c.val (pay (opA (soleCtx s c (.cmpl c y) y)) % 1024) })) ∧
    (let x := soleCtx s c (.postS c y) y
     let v := taken s c (.postS c y) y
     let l := groupAt (pay (opB x)) 3
     let go := fun t => postDo t (y.m.toNat % 256) (opA x) (ws.getD 0 emptyW) (ws.getD 1 emptyW) (ws.getD 2 emptyW)
     Ready s c (.postS c y) y → (coreOf s c.val).ring ≤ 1 → wtag (opA x) = .session → wtag (opB x) = .addrD →
     portWords x l = .ok ws → payloadCheck x (l.zip ws) = .ok () → wtag (ws.getD 0 emptyW) = .nat →
      exec (.postS c y) s = .next (retireWord v c.val { Acc.start v with
        writes := [(y.d.toNat, boolW (go v).1)]
        st := (go (portReads c.val l v)).2 }))

/-! ## SYS syllables -/

/-- R174, R175, R184 and R228. mfc gives a control register that the ring may read, mtc writes one that it may write;
in a ring that may not, each raises PRIV 0x03 with the register's number. Control registers 4 to 15, 17 and 19 to 21
read back what mtc has written to them, each within its field, and a write of one ring's tsp leaves the others. -/
def Obligations.ControlRegisters : Prop :=
  (∀ (s : State) (c : CoreId) (y : Syl),
    let n := y.m.toNat % 32
    let r := (coreOf s c.val).ring
    n ≤ 21 →
    (Ready s c (.mfc c y) y → r ≤ (crRings n).1 →
      exec (.mfc c y) s = .next (retireWord (taken s c (.mfc c y) y) c.val { Acc.start (taken s c (.mfc c y) y) with
        writes := [(y.d.toNat, crRead (taken s c (.mfc c y) y) c.val n)] })) ∧
    (Ready s c (.mfc c y) y → (crRings n).1 < r →
      exec (.mfc c y) s = .next (wordTrap (taken s c (.mfc c y) y) c.val (trp 0x08 (natW n) (natW 0x03)))) ∧
    (let a := opA (soleCtx s c (.mtc c y) y)
     Ready s c (.mtc c y) y → n ≠ 0 → n ≠ 18 → r ≤ (crRings n).2 → wtag a ≠ .poison → wtag a ≠ .empty →
     crTag n (wtag a) = true → crValueBad n (pay a) = false →
     (n = 1 → mstatPriv r (coreOf s c.val).mstat (pay a) = false) →
      exec (.mtc c y) s = .next (retireWord (taken s c (.mtc c y) y) c.val { Acc.start (taken s c (.mtc c y) y) with
        after := fun t => crWrite t c.val n a })) ∧
    (Ready s c (.mtc c y) y → n ≠ 0 → n ≠ 18 → (crRings n).2 < r →
      exec (.mtc c y) s = .next (wordTrap (taken s c (.mtc c y) y) c.val (trp 0x08 (natW n) (natW 0x03))))) ∧
  (∀ (s : State) (c : CoreId) (w : Word), Inv s → tabWf (fun _ => emptyW) none (coreOf s c.val).tsp = true →
    (∀ n ∈ [4, 9, 10, 19, 20], crRead (crWrite s c.val n w) c.val n = w) ∧
    (∀ n ∈ [11, 12], crRead (crWrite s c.val n w) c.val n = natW (pay w)) ∧
    (∀ n ∈ [13, 14], crRead (crWrite s c.val n w) c.val n = linkW (BitVec.ofNat 20 (pay w))) ∧
    crRead (crWrite s c.val 15 w) c.val 15 = bitsW (pay w % 512) ∧
    crRead (crWrite s c.val 17 w) c.val 17 = natW (pay w % 256 + 256 * (bitAt (pay w) 8).toNat) ∧
    crRead (crWrite s c.val 21 w) c.val 21 = natW (pay w) ∧
    (∀ n ∈ [5, 6, 7, 8], crRead (crWrite s c.val n w) c.val n = w ∧
      ∀ m ∈ [5, 6, 7, 8], m ≠ n → crRead (crWrite s c.val n w) c.val m = crRead s c.val m))

/-- R176, R177, R201 and R221. csld gives the two words of a control-store syllable, csst writes one of a writable
line, cssync retires. pflush empties the predictor; pbar bars prediction for M[7:0] microwords, or with 0 until pbar
with M[8] = 1 ends it. -/
def Obligations.ControlStoreAndPredictor : Prop :=
  (∀ (s : State) (c : CoreId) (y : Syl),
    (let a := opA (soleCtx s c (.csld c y) y)
     let v := taken s c (.csld c y) y
     let l := pay a % 2 ^ 20
     Ready s c (.csld c y) y → y.d ≠ 0 → y.d.toNat % 8 ≤ 6 → wtag a = .link → l / 8 < 0x14000 →
     ((coreOf s c.val).ring = 0 ∨ (coreOf s c.val).ring = 1 ∧ 0x4000 ≤ l / 8) →
      exec (.csld c y) s = .next (retireWord v c.val { Acc.start v with
        writes := [(y.d.toNat, bitsW (csRaw s l).toNat), (y.d.toNat + 1, natW ((csRaw s l).toNat / 2 ^ 36))] })) ∧
    (let x := soleCtx s c (.csst c y) y
     let v := taken s c (.csst c y) y
     let l := pay (opA x) % 2 ^ 20
     Ready s c (.csst c y) y → (coreOf s c.val).ring = 0 → wtag (opA x) = .link → 0x4000 ≤ l / 8 → l / 8 < 0x14000 →
     wtag (opB x) = .bits → wtag (opD x 0) = .nat → pay (opD x 0) ≤ 15 →
      exec (.csst c y) s = .next (retireWord v c.val { Acc.start v with
        after := fun t => csPut t l (BitVec.ofNat 40 (pay (opD x 0) * 2 ^ 36 + pay (opB x))) })) ∧
    (Ready s c (.cssync c y) y →
      exec (.cssync c y) s = .next (retireWord (taken s c (.cssync c y) y) c.val (Acc.start (taken s c (.cssync c y) y))))) ∧
  (∀ (s : State) (c : CoreId) (y : Syl),
    (Ready s c (.pflush c y) y →
      exec (.pflush c y) s = .next (retireWord (taken s c (.pflush c y) y) c.val { Acc.start (taken s c (.pflush c y) y) with
        after := fun t => modCore t c.val fun k => { k with pred := Pred.reset } })) ∧
    (Ready s c (.pbar c y) y →
      exec (.pbar c y) s = .next (retireWord (taken s c (.pbar c y) y) c.val { Acc.start (taken s c (.pbar c y) y) with
        after := fun t => modCore t c.val fun k =>
          if y.m.toNat % 256 = 0 then { k with pbarHold := true } else { k with pbarN := y.m.toNat % 256 } })) ∧
    (Ready s c (.pbarClear c y) y →
      exec (.pbarClear c y) s = .next (retireWord (taken s c (.pbarClear c y) y) c.val
        { Acc.start (taken s c (.pbarClear c y) y) with
          after := fun t => modCore t c.val fun k => { k with
            pbarN := 0
            pbarHold := false } })))

/-- R46, R47, R178 to R181. ctxsw in rings 0 and 1, tagset, splice and mode in ring 0 retire with their answers in D and act
when the answer is 0 (mode always). -/
def Obligations.SystemSyllables : Prop :=
  ∀ (s : State) (c : CoreId) (y : Syl),
    (let a := opA (soleCtx s c (.ctxsw c y) y)
     let v := taken s c (.ctxsw c y) y
     Ready s c (.ctxsw c y) y → (y.d.toNat < 16 ∨ 24 ≤ y.d.toNat) → (coreOf s c.val).ring ≤ 1 → wtag a = .session →
      exec (.ctxsw c y) s = .next (retireWord v c.val { Acc.start v with
        writes := [(y.d.toNat, natW (ctxswAnswer v a))]
        after := if ctxswAnswer v a = 0 then fun t => ctxswDo t c.val a else id })) ∧
    (let a := opA (soleCtx s c (.tagset c y) y)
     let v := taken s c (.tagset c y) y
     Ready s c (.tagset c y) y → (coreOf s c.val).ring = 0 → wtag a ≠ .empty →
     tagLimit (tagOfCode (y.m.toNat % 16)) (pay a) = true →
      exec (.tagset c y) s = .next (retireWord v c.val { Acc.start v with
        writes := [(y.d.toNat, mkW (tagOfCode (y.m.toNat % 16)) (pay a))] })) ∧
    (let x := soleCtx s c (.splice c y) y
     let v := taken s c (.splice c y) y
     Ready s c (.splice c y) y → (coreOf s c.val).ring = 0 → wtag (opA x) = .nat → wtag (opB x) = .nat →
     pay (opA x) ≤ 31 → pay (opB x) ≤ 31 → bitAt (effQuiet s) c.val = false →
      exec (.splice c y) s = .next (retireWord v c.val { Acc.start v with
        writes := [(y.d.toNat, natW (spliceAnswer v (pay (opA x)) (pay (opB x))))]
        after := if spliceAnswer v (pay (opA x)) (pay (opB x)) = 0 then
          fun t => spliceStart t (pay (opA x)) (pay (opB x)) (some c.val) else id })) ∧
    (let a := opA (soleCtx s c (.modeS c y) y)
     let v := taken s c (.modeS c y) y
     let m := modeMask (pay a % 256) (y.m.toNat % 256)
     Ready s c (.modeS c y) y → (coreOf s c.val).ring = 0 → wtag a = .nat →
      exec (.modeS c y) s = .next (retireWord v c.val { Acc.start v with
        writes := [(y.d.toNat, natW (modeNow (modeRequestDo v (pay a % 256) m)))]
        after := fun t => modeRequestDo t (pay a % 256) m }))

/-! ## The block -/

/-- A step with a command in front of the queue is that command's execution on the state with the queue's rest. -/
def Obligations.StepRunsFrontCommand : Prop :=
  ∀ (s : State) (c : Instr) (l : List Instr), step { s with pending := c :: l } = exec c { s with pending := l }

/-- R304, R329. The model's choice (log entry 1): on an empty queue one cycle of SV passes. TB1 advances by 2 ns, every
timebase by 1 to 3, and nothing but the timebases, the field die's clock and the free values drawn changes. -/
def Obligations.IdleStepIsOneCycle : Prop :=
  ∀ s : State, Inv s → s.pending = [] →
    ∃ t, step s = .next t ∧
      tbGet t 1 = (tbGet s 1 + 2) % 2 ^ 72 ∧
      (∀ n < 4, ∃ d, 1 ≤ d ∧ d ≤ 3 ∧ tbGet t n = (tbGet s n + d) % 2 ^ 72) ∧
      t = { s with
        tb := t.tb
        svCycle := s.svCycle + 1
        fresh := t.fresh
        field := { s.field with time := t.field.time } }

/-- What the Reset columns of chapters 3, 5, 7, 8, 9 and 14 give: mstat and cwp of each core, CMPMAP.UNIT7 and EN7, EVMASK, the
ring limits, the ownership records (R34), march and ECC registers, HUBCFG, and MODE with ISLAND for want of a link. No command
waits. -/
def Obligations.ResetValues : Prop :=
  State.reset.pending = [] ∧
  (∀ c : CoreId, let k := coreOf State.reset c.val
    k.mstat = 0 ∧ k.cur = 0 ∧ k.live = 1 ∧ ioF State.reset (priv c.val (oCMPMAP + 1)) 24 6 = 32 + c.val ∧
    ioB State.reset (priv c.val (oCMPMAP + 1)) 31 = true ∧ ioF State.reset (priv c.val oEVMASK) 1 15 = 0x7FFF) ∧
  (∀ k ∈ [1, 2, 3], ioF State.reset (aRINGLIM k) 0 17 = 0x14000) ∧
  (∀ n : Fin 32, bankState State.reset n.val = 2 ∧ ioF State.reset (aBANKOWN n.val) 6 2 = 3 ∧
    ioF State.reset (aBANKOWN n.val) 8 16 = 0xFFFF ∧
    ioF State.reset (aBANKOWN n.val) 24 2 = (if 18 ≤ n.val ∧ n.val ≤ 25 then 1 else 0) ∧
    bankOwner State.reset n.val = (if 12 ≤ n.val ∧ n.val ≤ 15 then 11 else if n.val = 16 ∨ n.val = 17 then 9
      else if 18 ≤ n.val ∧ n.val ≤ 25 then n.val - 17 else 0)) ∧
  ioB State.reset aMARCHCTL 5 = true ∧ ioB State.reset aMARCHCTL 6 = true ∧ ioF State.reset aECCTHR 0 8 = 4 ∧
  ioF State.reset aHUBCFG 0 12 = 100 ∧ ioF State.reset aDEVMODE 0 8 = 0x10

/-- The invariant holds in the state after reset. -/
def Obligations.ResetMeetsInvariant : Prop :=
  Inv State.reset

/-- Every step keeps the invariant: the memory of the banks, the register tables of both dies, the control store, the
timebases and the table of the cores stay in canonical form, and every core stays in one of the four rings (R224) and one of
the sixteen windows (R86). -/
def Obligations.StepKeepsInvariant : Prop :=
  ∀ s t : State, Inv s → step s = .next t → Inv t

/-- No command touches the queue of waiting commands. -/
def Obligations.QueueUntouched : Prop :=
  ∀ (i : Instr) (s t : State), exec i s = .next t → t.pending = s.pending

/-! ## Asynchronous traps and the watchdog -/

/-- R100, R165, R212, R227, R229, R230, R233, R275, R302, R494, R495 and R529. At a boundary that R230 permits the
causes that are pending are taken in the order of R229: NMI with its code, WDOG, STEP after the microword that ran,
BREAK at the place of an enabled breakpoint with ACT 1, LEASELOST with the bank's first address. Each trap carries its
cause, address and information. The interrupt of level `l` that SV presents is taken when IE is set, `l` is above LVL
and the vector's ring may be entered: cause 0x30 + `l`, the level in fault info and in LVL. A core that waits in wfe
first retires the wfe. The watchdog: at half its time WDOGSTAT holds half; when the time has passed without a
retirement WDOG is pending; after a further time the core is kerfed for reason 1. A microword that QUIET holds back
issues at its model cycle, and IOTO ends the stall of an access that a full send queue holds. -/
def Obligations.AsynchronousCauses : Prop :=
  (∀ (s : State) (c : CoreId) (n : Nat) (b : Fin 4),
    let k := coreOf s c.val
    asyncOk s c.val = true →
    ((k.pend.findSome? fun p => match p with | .nmi n => some n | _ => none) = some n →
      innerVector s c.val 0x1A = true →
      exec (.nmi c) s = .next (asyncTrap (modCore s c.val fun k => { k with pend := k.pend.erase (.nmi n) }) c.val
        (trp 0x1A (natW 0) (natW n)) none)) ∧
    (.wdog ∈ k.pend → innerVector s c.val 0x15 = true → asyncBefore s c.val 2 = false →
      exec (.wdog c) s = .next (asyncTrap (modCore s c.val fun k => { k with pend := k.pend.erase .wdog }) c.val
        (trp 0x15 (natW 0) (natW 0)) none)) ∧
    (.step ∈ k.pend → asyncBefore s c.val 3 = false →
      exec (.stepTrap c) s = .next (asyncTrap (modCore s c.val fun k => { k with pend := k.pend.erase .step }) c.val
        (trp 0x03 (linkW k.last) (natW 0)) none)) ∧
    (let w := pay (ioGet s (priv c.val (oDBGBRK b.val)))
     bitAt w 20 = true → bitAt w 21 = true → w % 2 ^ 20 = k.mpc.toNat → asyncBefore s c.val 4 = false →
      exec (.breakTrap c b) s = .next (asyncTrap s c.val (trp 0x14 (linkW k.mpc) (natW b.val)) none)) ∧
    ((k.pend.findSome? fun p => match p with | .leaselost n => some n | _ => none) = some n → mIE k.mstat = true →
      asyncTargetOk s c.val 0x17 = true → asyncBefore s c.val 6 = false →
      exec (.leaselost c) s = .next (asyncTrap (modCore s c.val fun k => { k with pend := k.pend.erase (.leaselost n) })
        c.val (trp 0x17 (addrW (n * 0x10000)) (natW n)) none))) ∧
  (∀ (s : State) (c : CoreId) (y : Syl) (h : Shape),
    let k := coreOf s c.val
    let l := presented s c.val
    asyncOk s c.val = true → mIE k.mstat = true → mLVL k.mstat < l → asyncTargetOk s c.val (0x30 + l) = true →
    asyncBefore s c.val 7 = false →
    (k.wait ≠ .wfe → exec (.interrupt c) s =
      .next (asyncTrap s c.val (trp (0x30 + l) (natW 0) (natW l)) (some l))) ∧
    (Held s c (.wfe c y) h y .wfe → Inv s →
      let u := setEvlat s c.val
      let t := retireWord u c.val { Acc.start u with
        st := setCore u c.val { coreOf u c.val with evlat := (k.evlat ||| 1) / 2 * 2 } }
      exec (.interrupt c) s =
        .next (if intOk t c.val && decide ((coreOf t c.val).wait = .none) && (coreOf t c.val).mw.isEmpty then
          asyncTrap t c.val (trp (0x30 + presented t c.val) (natW 0) (natW (presented t c.val))) (some (presented t c.val))
        else t))) ∧
  (∀ (s : State) (c : CoreId),
    let k := coreOf s c.val
    let lim := wdogTo s c.val
    (coreRuns s c.val = true → ioB s (priv c.val oWDOGCFG) 14 = true → k.wait ∉ [.wfe, .waitt, .quiet] →
      exec (.watchdogHalf c) s = .next (wdogPut s c.val (lim / 2) (ioB s (priv c.val oWDOGSTAT) 14)) ∧
      (.wdog ∉ k.pend → exec (.wdog c) s =
        .next (wdogTake (modCore (wdogPut s c.val lim true) c.val fun k => { k with pend := k.pend ++ [.wdog] }) c.val)) ∧
      (ioB s (priv c.val oWDOGSTAT) 14 = true → exec (.wdogStage2 c) s = .next (kerf s c.val 1))) ∧
    (coreRuns s c.val = true → k.wait = .quiet →
      exec (.pacedIssue c) s = .next (runWord (setCore s c.val { k with
        wait := .none
        paced := true }) c.val false)) ∧
    (coreRuns s c.val = true → k.wait = .sendq →
      exec (.ioto c) s = .next (wordTrap s c.val (trp 0x06 (stallAddr s c.val) (natW 0)))))

/-! ## Traps -/

/-- R234, R237, R238. A trap whose frame can be written, with no load in its shadow: the ring's tsp falls by 16, the 16 words
of the frame stand there (resume point, NPC, mstat, window, repetition and loop, the trap's words, TSTAT), every other bank
word reads as before, and the core is at the vector in the vector's ring, with PSN, CMP and QT cleared in mstat, IE too in
rings 0 and 1, and no repetition or loop. -/
def Obligations.TrapEntrySaves : Prop :=
  ∀ (s : State) (c : CoreId) (t : Trp) (rpc npc v : Link) (ring : Nat),
    let k := coreOf s c.val
    let a := pay (tspOf k ring) - 16
    Inv s → tabWf (fun _ => emptyW) none k.tsp = true →
    k.modeNew = none → k.shadow = [] → k.rearm = none → k.storeBuf = [] →
    trapTarget s c.val t.cause = some (v, ring) → rsvUse s c.val = 0 → wtag (tspOf k ring) = .addrD →
    16 ≤ pay (tspOf k ring) → pay (tspOf k ring) ≤ 0x200000 → a / 0x10000 = (a + 15) / 0x10000 →
    bankMay s c.val ring true (bankOf a) = true →
    let u := takeTrap s c.val t rpc npc false [] none
    ([memGet u a, memGet u (a + 1), memGet u (a + 2), memGet u (a + 3), memGet u (a + 4), memGet u (a + 5), memGet u (a + 6),
        memGet u (a + 7)] =
      [linkW rpc, linkW npc, natW k.mstat.toNat, natW (k.cur % 16 + 16 * (k.live % 32)), natW k.repc, natW k.lcnt, linkW k.lbeg,
        linkW k.lend]) ∧
    ([memGet u (a + 9), memGet u (a + 10), memGet u (a + 11), memGet u (a + 12), memGet u (a + 13)] =
      [natW 0, t.addr, t.info, natW t.prog0, natW t.prog1]) ∧
    wtag (memGet u (a + 14)) = .nat ∧ pay (memGet u (a + 14)) % 4 = k.ring % 4 ∧
    bits (pay (memGet u (a + 14))) 8 8 = t.cause % 256 ∧ bits (pay (memGet u (a + 14))) 32 4 = 9 ∧
    (∀ b, b < a ∨ a + 16 ≤ b → memGet u b = memGet s b) ∧
    (coreOf u c.val).mpc = v ∧ (coreOf u c.val).ring = ring ∧ tspOf (coreOf u c.val) ring = addrW a ∧
    (coreOf u c.val).mstat = mstatEnter k.mstat ring none ∧ (coreOf u c.val).repc = 0 ∧ (coreOf u c.val).lcnt = 0 ∧
    (coreOf u c.val).regs = k.regs ∧ (∀ d, d ≠ c.val → coreOf u d = coreOf s d) ∧ u.fld = s.fld ∧ u.cs = s.cs

/-! ## Host windows -/

/-- R284 to R286, R443 to R445. The access-control unit's answer for a part of a core's access: 0 lets a store part leave and
the access go on, and asks the host for the data of a read part; another answer raises HWDENY, or HWCRC for 0xFE. The data of
a permitted part goes on with the access unless it is late, when it changes nothing; HWTO is taken, logged, and the link
retrains. -/
def Obligations.HostPartsAnswered : Prop :=
  ∀ (s : State) (c : CoreId) (h : HostAcc) (p : HostPart),
    coreRuns s c.val = true → (coreOf s c.val).wait = .host → (coreOf s c.val).hostAcc = some h → h.part = some p →
    (h.granted = false → h.write = false →
      exec (.accessControlAnswer (.core c) 0) s = .next (emit (setCore s c.val { coreOf s c.val with
        hostAcc := some { h with granted := true } }) (.hostRead p.haddr p.len))) ∧
    (h.granted = false → h.write = true →
      exec (.accessControlAnswer (.core c) 0) s = .next (hostGoOn (hostStorePart s h p) c.val (hostAdvance s h p))) ∧
    (∀ ans, h.granted = false → ans ≠ 0 →
      exec (.accessControlAnswer (.core c) ans) s = .next (hostFault (acDenied s 0 c.val ans.toNat) c.val
        (hostTrp h (if ans = 0xFE then 0x19 else 0x04) p.first ans.toNat))) ∧
    (∀ data h', h.granted = true → hostDataOk s p data = true → hostLoadPart s (coreOf s c.val) h p data = .ok h' →
      exec (.hostPartCompletion c data false) s = .next (hostGoOn s c.val h')) ∧
    (∀ data t, h.granted = true → hostDataOk s p data = true → hostLoadPart s (coreOf s c.val) h p data = .error t →
      exec (.hostPartCompletion c data false) s = .next (hostFault s c.val t)) ∧
    (∀ data, exec (.hostPartCompletion c data true) s = .next s) ∧
    exec (.hwto c) s = .next (hostFault (emit (elWrite s 0x08 p.win c.val 0x05 h.done p.first) .retrain) c.val
      (hostTrp h 0x05 p.first 0))

/-- R401, R445, R459, R297. The answers to HL's own questions, the oldest of each kind first: a fetch is asked of the host or
stops its ring with ERRC 3, a record of the ledger is written or the drain stops, an MSI-X message leaves or its pending bit
is set. -/
def Obligations.HostLinkAnswered : Prop :=
  ∀ (s : State) (ans : BitVec 8),
    (∀ (q : Fin 256) (n : Nat),
      s.acQ.find? (fun i => match i with | .fetch p _ => p == q.val | _ => false) = some (.fetch q.val n) →
      let t := { s with acQ := s.acQ.erase (.fetch q.val n) }
      exec (.accessControlAnswer (.ringFetch q) ans) s = .next (
        if ans = 0 then emit t (.hostRead (barGet s (bSQ q.val 0) + 64 * barF s (bSQ q.val 0x10) 0 16) (64 * n))
        else fetchFail (acRefuse t 1 ans.toNat) q.val)) ∧
    (∀ j, s.acQ.find? (fun i => match i with | .drain _ => true | _ => false) = some (.drain j) →
      let t := { s with acQ := s.acQ.erase (.drain j) }
      exec (.accessControlAnswer .drain ans) s = .next (
        if ans = 0 then drainWrite t j
        else ioSetB (modLedger (acRefuse t 3 ans.toNat) fun l => { l with drainOff := true }) aLEDGSTAT 3 true)) ∧
    (∀ v : Fin 512, .msix v.val ∈ s.acQ →
      let t := { s with acQ := s.acQ.erase (.msix v.val) }
      exec (.accessControlAnswer (.msix v) ans) s = .next (
        if ans = 0 then emit t (.msix v.val) else pbaPut (acRefuse t 4 ans.toNat) v.val true)) ∧
    (∀ (r : Fin 256) (resv noirq : Bool) (w0 w1 w2 w3 : Word),
      s.acQ.find? (fun i => match i with | .comp q _ _ _ _ _ _ => q == r.val | _ => false) =
        some (.comp r.val resv noirq w0 w1 w2 w3) →
      ans = 0 →
      exec (.accessControlAnswer (.completion r) ans) s =
        .next (compWrite { s with acQ := s.acQ.erase (.comp r.val resv noirq w0 w1 w2 w3) } r.val noirq w0 w1 w2 w3))

/-! ## Register writes, hub, time -/

namespace Sys2Proof.Machine

/-- Core `c` can write `w` to the register at I/O address `a`: it runs and waits for nothing, the register is its own or its
ring is 0, its ring may write the register, the register accepts the tag, and the register's island answers (R14, R165, R539,
R540). -/
def WriteTaken (s : State) (c : CoreId) (a : Nat) (w : Word) : Prop :=
  coreFree s c.val = true ∧ wtag w ≠ .poison ∧ ioMapped a = true ∧
  (otherPriv c.val (ioAbs c.val a) = true → (coreOf s c.val).ring = 0) ∧
  ∃ i r, regInfo c.val (ioAbs c.val a) = some i ∧ i.wr = some r ∧ bitAt r (coreOf s c.val).ring = true ∧
    ioExtraPriv (coreOf s c.val).ring (ioAbs c.val a) w = false ∧ ioTag (ioAbs c.val a) (wtag w) = true ∧
    ioIslandOff s (ioAbs c.val a) = false

end Sys2Proof.Machine

/-- R11, R14, R91, R93, R165, R227, R388, R539, R540 and R550. A register write by a core: taken, it has the register's
effect; at an address whose block is not mapped it raises IOTO, in a ring that may not write the register PRIV 0x04,
with a tag that the register does not accept TAGV; where no register stands, or one that nothing writes, it changes
nothing. RSDEPTH takes at most 16 and RSENT a LINK; a write of the field shadow sends a CMD-CFG for a field register
that CMD-CFG writes, raises source 392 while the dovetail is not paired, and changes nothing elsewhere. -/
def Obligations.RegisterWrites : Prop :=
  (∀ (s : State) (c : CoreId) (addr : BitVec 24) (w : Word),
    let a := ioAbs c.val addr.toNat
    let r := (coreOf s c.val).ring
    (∀ i t, WriteTaken s c addr.toNat w → regInfo c.val a = some i → ioPerform s c.val r i a w = .done t →
      exec (.registerWrite c addr w) s = .next t) ∧
    (coreFree s c.val = true → wtag w ≠ .poison → ioMapped addr.toNat = false →
      exec (.registerWrite c addr w) s = .next (portTrap s c.val (trp 0x06 (addrIOW addr.toNat) (natW 0)))) ∧
    (∀ i m, coreFree s c.val = true → ioMapped addr.toNat = true → regInfo c.val a = some i → i.wr = some m →
      bitAt m r = false →
      exec (.registerWrite c addr w) s = .next (portTrap s c.val (trp 0x08 (addrIOW addr.toNat) (natW 0x04)))) ∧
    (∀ i m, coreFree s c.val = true → wtag w ≠ .poison → ioMapped addr.toNat = true →
      (otherPriv c.val a = true → r = 0) → regInfo c.val a = some i → i.wr = some m → bitAt m r = true →
      ioExtraPriv r a w = false → ioTag a (wtag w) = false → (a < 0x068000 ∨ 0x069000 ≤ a) →
      exec (.registerWrite c addr w) s = .next (portTrap s c.val
        (tagvT 0 (if wtag w = .empty then 0x01 else 0x02) (wtag w).code 2 (addrIOW addr.toNat)))) ∧
    (coreFree s c.val = true → wtag w ≠ .poison → ioMapped addr.toNat = true → (otherPriv c.val a = true → r = 0) →
      ((regInfo c.val a).bind fun i => i.wr) = none → ioIslandOff s a = false →
      exec (.registerWrite c addr w) s = .next s)) ∧
  (∀ (s : State) (c : CoreId) (k : Fin 16) (f : BitVec 12) (w : Word),
    (WriteTaken s c (priv c.val oRSDEPTH) w →
      exec (.rsdepthWrite c w) s = .next (ioSetF s (priv c.val oRSDEPTH) 0 5 (min 16 (pay w % 32)))) ∧
    (WriteTaken s c (priv c.val (oRSENT k.val)) w →
      exec (.rsentWrite c k w) s = .next (ioPut s (priv c.val (oRSENT k.val)) (mkW .link (pay w % 2 ^ 20)))) ∧
    (WriteTaken s c (aSHADOW f.toNat) w →
      (fieldReg f.toNat ≠ 2 → exec (.shadowWrite c f w) s = .next s) ∧
      (fieldReg f.toNat = 2 → dvPaired s = false → exec (.shadowWrite c f w) s = .next (raise s 392)) ∧
      (fieldReg f.toNat = 2 → dvPaired s = true → sendFull s c.val = false → exec (.shadowWrite c f w) s =
        .next (coreSend s c.val ⟨0x11, natW f.toNat, if wtag w = .bits then w else natW (pay w)⟩))))

/-- R292, R297, R298 and R303. Levels are asserted and withdrawn, an offer times out, occurrences are discarded and
added through SRCSTAT, and an unmasked MSI-X vector sends the message that its pending bit stands for. A pulse of a
source that is neither sent to the host nor offered (PRIO 0, ROUTE 0 or 1): its COUNT rises by one; at 255 it stays and
OVF is set, with the source's number in HUBSTAT.LASTOVF. -/
def Obligations.HubEvents : Prop :=
  (∀ (s : State) (c : CoreId) (n : Fin 1024) (v : Fin 512),
    (srcLevel s n.val = true → srcUp s n.val = false → srcInsvc s n.val = true →
      exec (.levelAssert n) s = .next { s with asserted := s.asserted ++ [n.val] }) ∧
    (srcLevel s n.val = true → srcUp s n.val = false → srcInsvc s n.val = false →
      (let t := { s with asserted := s.asserted ++ [n.val] }
       noCore t n.val = false → exec (.levelAssert n) s = .next (hubEval (hostRoute (wakeMask t n.val) n.val)))) ∧
    (srcLevel s n.val = false ∨ srcUp s n.val = true → exec (.levelAssert n) s = .next s) ∧
    (srcLevel s n.val = true → exec (.levelWithdraw n) s =
      .next (hubEval { s with asserted := s.asserted.filter (· ≠ n.val) })) ∧
    (∀ o, (coreOf s c.val).offer = some o → ioF s aHUBCFG 0 12 ≠ 0 → exec (.offerTimeout c) s =
      .next (hubEval (setCore s c.val { coreOf s c.val with offer := none }) (some (o, c.val)))) ∧
    ((coreOf s c.val).offer = none ∨ ioF s aHUBCFG 0 12 = 0 → exec (.offerTimeout c) s = .next s) ∧
    (WriteTaken s c (aSRCSTAT n.val) (natW 0x100) → exec (.srcstatPendClear c n) s =
      .next (if srcLevel s n.val then s else hubEval (ioSetF s (aSRCSTAT n.val) 0 8 0))) ∧
    (WriteTaken s c (aSRCSTAT n.val) (natW 0x20000) → exec (.srcstatSet c n) s =
      .next (if (coreOf s c.val).ring = 0 ∧ srcLevel s n.val = false then raise s n.val else s)) ∧
    (let t := hostActive (barSetB s (bMSIX v.val 12) 0 false)
     msixOpen t v.val = true → vecSources t v.val = [] → exec (.msixUnmask v) s =
      .next (if bitAt (barGet t (bPBA (v.val / 64))) (v.val % 64) then msixSend (pbaPut t v.val false) v.val else t))) ∧
  (∀ (s : State) (n : Nat), Inv s → n < 1024 →
    (ioF s (aSRCSTAT n) 0 8 < 255 → ioF (addPulse s n) (aSRCSTAT n) 0 8 = ioF s (aSRCSTAT n) 0 8 + 1 ∧
      ioB (addPulse s n) (aSRCSTAT n) 9 = ioB s (aSRCSTAT n) 9) ∧
    (ioF s (aSRCSTAT n) 0 8 = 255 → ioF (addPulse s n) (aSRCSTAT n) 0 8 = 255 ∧ ioB (addPulse s n) (aSRCSTAT n) 9 = true ∧
      ioF (addPulse s n) aHUBSTAT 16 10 = n) ∧
    (∀ a, a ≠ aSRCSTAT n → a ≠ aHUBSTAT → ioGet (addPulse s n) a = ioGet s a))

/-- R305 to R312. TBnHI latches the low half for the reading core, CAPTURE both halves of the timebases that it names, TBnSETHI
sets TB2 and TB3, and TB0 from ring 0 but never backwards; a compare unit is armed, and fires when its time has been reached
under the half-range rule; PPS_HOLD sets HOLD once. -/
def Obligations.TimeEvents : Prop :=
  ∀ (s : State) (c : CoreId) (n : Fin 4) (u : Fin 64) (w : Word),
    (coreFree s c.val = true → exec (.tbhiRead c n) s = .next (setCore s c.val { coreOf s c.val with
      tbCopy := tabSet 0 (coreOf s c.val).tbCopy (4 * n.val) (BitVec.ofNat 36 (tbGet s n.val)) })) ∧
    (∀ m : BitVec 4, WriteTaken s c 0x020020 (natW m.toNat) → exec (.capture c m) s =
      .next ((bitList 4 m.toNat).foldl (fun s n =>
        tbCopyPut (tbCopyPut s c.val n 1 (tbLo s n)) c.val n 2 (tbHi s n)) s)) ∧
    (WriteTaken s c (aTB n.val + 6) w →
      (let v := pay w * 2 ^ 36 + pay (ioGet s (aTB n.val + 5))
       (2 ≤ n.val → exec (.tbsethiWrite c n w) s = .next (tbPut s n.val v)) ∧
       (n.val = 0 → (coreOf s c.val).ring = 0 → tbGet s 0 ≤ v → exec (.tbsethiWrite c n w) s = .next (tbPut s 0 v)) ∧
       (n.val = 0 → v < tbGet s 0 → exec (.tbsethiWrite c n w) s = .next (raise (ioSetB s aTDSTAT 4 true) 576)))) ∧
    (WriteTaken s c (aCMPCTL u.val) (withBits w 4 0) → bitAt (pay w) 3 = false →
      exec (.compareArm c u w) s = .next (cmpArm (ioSetF (ioSetF s (aCMPCTL u.val) 0 2 (pay (withBits w 4 0)))
        (aCMPCTL u.val) 4 1 (pay (withBits w 4 0) / 16)) u.val)) ∧
    (ioB s (aCMPCTL u.val) 2 = true →
      (tbLo s (ioF s (aCMPCTL u.val) 0 2) + 2 ^ 36 - pay (ioGet s (aCMPVAL u.val))) % 2 ^ 36 < 2 ^ 35 →
      Inv s → ∃ t, exec (.compareFire u) s = .next (if ioB s (aCMPCTL u.val) 4 then raise t (320 + u.val) else t) ∧
        ioF t (aCMPCTL u.val) 2 2 = 2 ∧ ioB t (aCMPCTL u.val) 5 = s.cmpDue.contains u.val) ∧
    (ioB s aTDCFG 29 = true → exec .ppsHold s =
      .next (if ioB s aTDSTAT 1 then s else raise (ioSetB s aTDSTAT 1 true) 576))

/-! ## Banks -/

/-- R267 to R269, R271, R274 to R278, R280 and R281. Banks by register writes: ownership records, partitions, power,
marches and live repair. Banks by events: the acknowledgements and the scrub of a change, the expiry and renewal of a
lease, the end of a wake, of a march and of a live repair. -/
def Obligations.Banks : Prop :=
  (∀ (s : State) (c : CoreId) (n : Fin 32) (p : Fin 4) (w : Word),
    let r := (coreOf s c.val).ring
    let v := pay w
    let st := bankState s n.val
    let a := aBANKOWN n.val
    Inv s →
    (WriteTaken s c a w →
      let o := bits v 0 4
      let t := ioSetF s a 4 24 (bits v 4 24)
      (bankownOk s c.val r n.val v = false → exec (.bankownWrite c n w) s = .next (bankEvent s n.val 2)) ∧
      (bankownOk s c.val r n.val v = true → st = 0 → o = bankOwner s n.val → bitAt v 4 = false → o ≠ 0 →
        exec (.bankownWrite c n w) s = .next (leaseStart t n.val)) ∧
      (bankownOk s c.val r n.val v = true → st = 0 → o ≠ bankOwner s n.val ∨ bitAt v 4 = true →
        exec (.bankownWrite c n w) s = .next (bankChgStart (ioSetB t a 35 false) n.val o
          ⟨if bitAt v 4 then 2 else if bankOwner s n.val = 0 then 1 else 0, false, false⟩))) ∧
    (WriteTaken s c (aPART p.val) w → exec (.partWrite c p w) s =
      .next (((List.range 32).filter fun n => bankOwner s n == 12 + p.val && bankState s n == 0).foldl
        (fun s n => bankChgStart s n (12 + p.val) ⟨0, false, true⟩) (ioPut s (aPART p.val) (bitsW (v % 2 ^ 32))))) ∧
    (4 ≤ n.val → ioB s aBANKPWR n.val = true → pwrBusy s n.val = false →
      WriteTaken s c aBANKPWR (bitsW (setBits (pay (ioGet s aBANKPWR)) n.val 1 0)) →
      exec (.bankPowerOff c n) s = .next (bankChgStart (ioSetB s aBANKPWR n.val false) n.val (bankOwner s n.val)
        ⟨0, true, false⟩)) ∧
    (4 ≤ n.val → ioB s aBANKPWR n.val = false → pwrBusy s n.val = false →
      WriteTaken s c aBANKPWR (bitsW (setBits (pay (ioGet s aBANKPWR)) n.val 1 1)) →
      exec (.bankPowerOn c n) s = .next (bankStatePut (ioSetB s aBANKPWR n.val true) n.val 2)) ∧
    (let x := pay (withBits w 0x80 0x100)
     let m := bits x 0 5
     let t := ioSetF s aMARCHCTL 0 7 x
     WriteTaken s c aMARCHCTL (withBits w 0x80 0x100) →
      (marchRefused s m (!bitAt x 5) = true → exec (.marchGo c w) s = .next (bankEvent t m 2)) ∧
      (marchRefused s m (!bitAt x 5) = false → bitAt x 5 = true → exec (.marchGo c w) s =
        .next (ioPut { t with marching := some (m, false) } aMARCHSTAT (natW (1 + 2 * m)))) ∧
      (marchRefused s m (!bitAt x 5) = false → bitAt x 5 = false → exec (.marchGo c w) s =
        .next (readyClear (bankStatePut (ioPut { t with marching := some (m, true) } aMARCHSTAT (natW (1 + 2 * m))) m 3)
          (12 + m)))) ∧
    (∀ m, WriteTaken s c aMARCHCTL (natW (ioF s aMARCHCTL 0 7 + 0x100)) → s.marching = some (m, false) →
      exec (.marchAbort c) s = .next (ioSetB { ioSetF s aMARCHCTL 0 7 (ioF s aMARCHCTL 0 7 + 0x100) with
        marching := none } aMARCHSTAT 0 false)) ∧
    (let x := pay (withBits w 0x1000 0)
     WriteTaken s c aRPCTL (withBits w 0x1000 0) →
      (ioB s aRPCTL 13 = true → exec (.rowRepair c w) s = .next (bankEvent s (bits x 0 2) 2)) ∧
      (ioB s aRPCTL 13 = false → exec (.rowRepair c w) s =
        .next (repairStart (ioSetF s aRPCTL 0 12 x) (bits x 0 2) (bits x 2 2) (bits x 4 8))))) ∧
  (∀ (s : State) (n : Fin 32) (fails : List (Fin 4 × Fin 256)),
    let own := bankOwner s n.val
    let st := bankState s n.val
    let a := aBANKOWN n.val
    (∀ b, st = 4 → bankChgOf s n.val = some b →
      let t := drainBank s n.val
      exec (.ownershipDrainDone n) s = .next (
        if b.off then readyClear (bankStatePut (bankChgDrop t n.val) n.val 1) (12 + n.val)
        else if b.part then bankStatePut (bankChgDrop t n.val) n.val 0
        else if b.scrub = 0 then bankChgEnd t n.val
        else bankStatePut t n.val 2)) ∧
    (∀ b, st = 2 → bankChgOf s n.val = some b → exec (.scrubDone n) s =
      .next (readyUp (bankChgEnd (if b.scrub = 1 then memScrubSecrets s n.val else memScrub s n.val) n.val) (12 + n.val))) ∧
    (own ≠ 0 → st = 0 → exec (.leaseExpiry n) s =
      .next (elWrite (leaselostPend (bankEvent (bankChgStart (ioSetB (ioSetB { s with
        nearLease := s.nearLease.filter (· ≠ n.val) } a 35 true) a 4 true) n.val 0 ⟨2, false, false⟩) n.val 1)
        (if own ≤ 8 ∨ 12 ≤ own then ownerCores s own else 0) n.val) 0x09 n.val 0 0 own 0)) ∧
    (own = 0 ∨ 1 < st → exec (.leaseExpiry n) s = .next s) ∧
    (own ≠ 0 → n.val ∉ s.nearLease → exec (.leaseNearExpiry n) s =
      .next (raise { s with nearLease := s.nearLease ++ [n.val] } (544 + n.val))) ∧
    (own = 9 ∧ ¬ 11 ∈ s.islReset ∨ own = 10 ∧ ¬ 13 ∈ s.islReset ∨ own = 11 → clamping s n.val = false →
      exec (.leaseAutoRenew n) s = .next { s with
        leaseAt := tabSet 0 s.leaseAt n.val (BitVec.ofNat 72 (tbGet s 1))
        nearLease := s.nearLease.filter (· ≠ n.val) }) ∧
    (st = 2 → bankChgOf s n.val = none → wakeKeeps s = false → own = 0 → exec (.bankWakeDone n) s =
      .next (readyUp (bankEvent (bankStatePut (memScrub s n.val) n.val 0) n.val 3) (12 + n.val))) ∧
    (st = 2 → bankChgOf s n.val = none → wakeKeeps s = true → own = 0 → exec (.bankWakeDone n) s =
      .next (readyUp (bankEvent (bankStatePut s n.val 0) n.val 3) (12 + n.val))) ∧
    (∀ d, s.marching = some (n.val, d) →
      let t := marchEnd s n.val fails
      t.marching = none → exec (.marchDone n fails) s = .next (serviceTell t 4 n.val (pay (ioGet t aMARCHSTAT)))) ∧
    (∀ b y r k, s.repairing = some (b, y, r, k) →
      let t := (rowAddrs b y r).foldl (fun s a => if s.eccBad.contains a then memPut s a (mkW .poison 0x10)
        else { s with eccSoft := s.eccSoft.filter (· ≠ a) }) s
      exec .rowRepairDone s = .next (serviceTell (elWrite (bankEvent (ioSetB (ioPut { t with repairing := none }
        (aROWMAP b y k) (natW (r + 256 + 1024))) aRPCTL 13 false) b 5) 0x10 b 0 0 (r + 256 * y + 1024) 0) 5 0 0)))

/-! ## Rings and the host -/

/-- R396 to R400, R412, R413, R464, R466, R481, R500. What the host does to the rings: doorbells, enables and disables of
submission and completion rings, RINGTO, a function level reset, the spool's replay, dropped BAR accesses, ELCFG; and the
link: silence, loss and training. -/
def Obligations.HostEvents : Prop :=
  ∀ (s : State) (q r : Fin 256) (v : BitVec 16) (w : BitVec 32),
    let h := hostActive s
    (barB h (bSQ q.val 8) 0 = false → exec (.sqTailDoorbell q v) s = .next (elWrite h 0x05 q.val 0 0 v.toNat 0)) ∧
    (barB h (bSQ q.val 8) 0 = true → exec (.sqTailDoorbell q v) s = .next (
      if v.toNat < 2 ^ barF h (bSQ q.val 8) 1 5 then barSetF h (bSQ q.val 0x18) 0 16 v.toNat
      else barSetB (barSetF h (bSQ q.val 0x10) 16 8 1) (bSQ q.val 0x10) 24 true)) ∧
    (barB h (bCQ r.val 8) 0 = false → exec (.cqHeadDoorbell r v) s = .next (elWrite h 0x05 r.val 0 0 v.toNat 0)) ∧
    (barB h (bCQ r.val 8) 0 = true →
      let z := cqSize h r.val
      let n := (v.toNat + z - tabGet 0 h.cqHead r.val) % z
      exec (.cqHeadDoorbell r v) s = .next (
        if z ≤ v.toNat ∨ tabGet 0 h.cqUsed r.val < n then barSetB h (bCQ r.val 12) 17 true
        else hlReplay { h with
          cqHead := tabSet 0 h.cqHead r.val v.toNat
          cqUsed := tabSet 0 h.cqUsed r.val (tabGet 0 h.cqUsed r.val - n)
          msiSent := h.msiSent.filter (· ≠ r.val) })) ∧
    (barB h (bSQ q.val 8) 0 = true → exec (.sqEnable q w) s = .next h) ∧
    (barB h (bSQ q.val 8) 0 = false →
      let t := barSetF (barSetF (barSetF h (bSQ q.val 8) 0 16 (setBits w.toNat 0 1 1)) (bSQ q.val 0x10) 0 16 0)
        (bSQ q.val 0x18) 0 16 0
      exec (.sqEnable q w) s = .next (sqBadPut { t with expSeq := tabSet 0 t.expSeq q.val 0 } q.val)) ∧
    (barB h (bSQ q.val 8) 0 = false → exec (.sqDisable q w) s =
      .next (barSetF h (bSQ q.val 8) 0 16 (setBits w.toNat 0 1 0))) ∧
    (barB h (bSQ q.val 8) 0 = true →
      let t := barSetF (barSetF h (bSQ q.val 8) 0 16 (setBits w.toNat 0 1 0)) (bSQ q.val 0x10) 24 2 0
      exec (.sqDisable q w) s = .next (flushEntries { t with
        entries := t.entries.filter fun e => !(e.q == q.val && decide (e.st = EntrySt.reading))
        acQ := t.acQ.filter fun i => match i with | .fetch p _ => p != q.val | _ => true } (fun e => e.q == q.val))) ∧
    (barB h (bCQ r.val 8) 0 = true → exec (.cqEnable r w) s = .next h) ∧
    (barB h (bCQ r.val 8) 0 = false →
      let t := barSetF (barSetF h (bCQ r.val 8) 0 16 (setBits w.toNat 0 1 1)) (bCQ r.val 12) 0 18 0x10000
      let u := barSetB t (bCQ r.val 12) 18 (cqBadNow t r.val)
      exec (.cqEnable r w) s = .next (hlReplay (sqBadFollow { u with
        cqOff := u.cqOff.filter (· ≠ r.val)
        cqUsed := tabSet 0 u.cqUsed r.val 0
        cqHead := tabSet 0 u.cqHead r.val 0
        msiSent := u.msiSent.filter (· ≠ r.val)
        spool := u.spool.map fun e => if e.cq = r.val then { e with hold := false } else e }))) ∧
    (let t := barSetB (barSetF h (bCQ r.val 8) 0 16 (setBits w.toNat 0 1 0)) (bCQ r.val 12) 18 false
     (barB h (bCQ r.val 8) 0 = false → exec (.cqDisable r w) s = .next t) ∧
     (barB h (bCQ r.val 8) 0 = true → exec (.cqDisable r w) s =
      .next (sqBadFollow { t with cqOff := r.val :: t.cqOff.filter (· ≠ r.val) }))) ∧
    (∀ e, barF s (bSQ q.val 12) 0 16 ≠ 0 → entryOf s q.val v.toNat = some e → e.st = .taken →
      exec (.ringTimeout q v) s = .next (entryDone (elWrite s 0x06 q.val 0 0 v.toNat 0) e 7 e.handle (natW 0))) ∧
    (barF s (bSQ q.val 12) 0 16 = 0 → exec (.ringTimeout q v) s = .next s) ∧
    (∃ b, (∀ o, 0x1000 ≤ o ∧ o < 0x4820 ∨ o = bELCFG → tabGet (barReset o) b o = barReset o) ∧
      (∀ k : Fin 512, (tabGet (barReset (bMSIX k.val 12)) b (bMSIX k.val 12)).getLsbD 0 = true) ∧
      exec .functionLevelReset s = .next (flushEntries { s with
        bar := b
        elArmed := true
        entries := s.entries.filter fun e => decide (e.st ≠ EntrySt.reading)
        acQ := s.acQ.filter fun i => match i with | .fetch _ _ => false | _ => true
        expSeq := []
        cqUsed := []
        cqHead := []
        cqOff := []
        msiSent := []
        lringSent := false
        ledger := { s.ledger with recs := s.ledger.recs.map fun r => { r with drained := r.drained && r.passed } } }
        fun _ => true)) ∧
    (s.spool = [] → exec .spoolReplay s = .next (readyFlush (compRelease s.entries.length s))) ∧
    (∀ (d : Bool) (o : BitVec 16), exec (.barAccessDropped d true o) s =
      .next (elWrite (if d then s else h) 0x04 0 0 0 o.toNat 0) ∧
      exec (.barAccessDropped d false o) s = .next (emit s (.hostData 0))) ∧
    (let t := barPut h bELCFG (w.toNat % 2 ^ 10)
     exec (.elcfgAck w) s = .next (if w.getLsbD 10 then { t with elArmed := true } else t)) ∧
    (s.hlOff = false → ioB s aMODECAUSE 1 = false → exec .hostSilence s = .next (modeRun 6 (ioSetB s aMODECAUSE 1 true))) ∧
    (s.hlOff = true → exec .hostSilence s = .next s ∧ exec .linkLoss s = .next s ∧ exec .linkTrained s = .next s) ∧
    (s.hlOff = false → exec .linkLoss s = .next (mailboxLost (setCause (readyClear s 2) 0 true))) ∧
    (s.hlOff = false → s.refLost = false → 11 ∉ s.islReset → s.alive = true → exec .linkTrained s =
      .next ((List.range 512).foldl msixFlush (hlReplay (setCause (readyUp s 2) 0 false)))) ∧
    (exec (.modereqWrite w) s = .next (modeRequestDo h (w.toNat % 256) (w.toNat / 256 % 256 &&& 0x50)))

/-- R283, R397, R401, R403, R405, R458, R459. Entries: asked of the host, checked on arrival, taken by a core into its work
slot; the ledger ring's head and drain; the host's writes of BAR0. -/
def Obligations.RingEntries : Prop :=
  ∀ (s : State) (c : CoreId) (q : Fin 256) (g : Fin 64) (n : Nat) (es : List (List (BitVec 64))) (v : BitVec 16)
    (d : BitVec 64),
    let h := hostActive s
    (min (min n 4) (fetchRoom s q.val) = 0 → exec (.ringFetch q n) s = .next s) ∧
    (∀ m, m = min (min n 4) (fetchRoom s q.val) → m ≠ 0 → exec (.ringFetch q n) s =
      .next (acAsk { s with entries := s.entries ++ List.replicate m (readingEntry q.val) } (.ringFetch q) (.fetch q.val m)
        false (barGet s (bSQ q.val 0) + 64 * barF s (bSQ q.val 0x10) 0 16) (64 * m))) ∧
    ((∀ e ∈ es, e.length = 8) →
      (s.entries.filter fun e => e.q == q.val && decide (e.st = EntrySt.reading)).length = es.length →
      (∀ p m, AcItem.fetch p m ∈ s.acQ → p ≠ q.val) →
      exec (.fetchComplete q es) s = .next (es.foldl (entryArrive q.val) s)) ∧
    ((∃ e ∈ es, e.length ≠ 8) → exec (.fetchComplete q es) s = .fault .illFormed) ∧
    (WriteTaken s c 0x050040 (natW g.val) →
      let t := setCore s c.val (workFree (coreOf s c.val))
      (takeFind t g.val = none → exec (.disptake c g) s = .next t) ∧
      (∀ e, takeFind t g.val = some e →
        let u := entryPut t e { e with
          st := .taken
          core := some c.val }
        exec (.disptake c g) s = .next (modCore { u with rotor := tabSet 0 t.rotor g.val ((e.q / 64 + 1) % 4) } c.val fun k =>
          { k with
            workRun := some ⟨e.q, e.seq, e.words, false⟩
            compRing := some (sqCq u e.q) }))) ∧
    (WriteTaken s c 0x050040 (natW 64) → exec (.disptakeFree c) s = .next (setCore s c.val { coreOf s c.val with
      workFull := false
      workRun := none
      compRing := none })) ∧
    (∀ e, (coreOf s c.val).workRun = some e → (coreOf s c.val).workFull = false → bankOwner s 16 = 9 → bankState s 16 = 0 →
      exec (.workSlotFill c) s = .next (modCore (memPutAll s ((List.range 8).map fun i =>
        (0x100000 + 8 * c.val + i, e.words.getD i emptyW))) c.val fun k => { k with workFull := true })) ∧
    (let z := lringSize h
     let t := barPut h (bLRING 0xC) v.toNat
     exec (.lringHeadWrite v) s = .next (lringLeave { t with
      ledger := { t.ledger with
        recs := markPassed ((v.toNat + z - barF h (bLRING 0xC) 0 16 % z) % z) t.ledger.recs
        drainOff := false }
      lringSent := false })) ∧
    (drainOk (lringLeave s) = false → exec .ledgerDrain s = .next (lringLeave s)) ∧
    (∀ r, drainOk (lringLeave s) = true → drainNext (lringLeave s) = some r → exec .ledgerDrain s =
      .next (acAsk (lringLeave s) .drain (.drain r.slot) true (lringAddr (lringLeave s)) 256)) ∧
    (barRo v.toNat = true → exec (.hostRegisterWrite v d) s = .next h) ∧
    (∀ k j, k < 16 → j = 0 ∨ j = 8 → v.toNat = bHWIN k j → exec (.hostRegisterWrite v d) s =
      .next (barPut h (bHWIN k j) (d.toNat % 2 ^ 36))) ∧
    (0x4814 ≤ v.toNat → v.toNat < 0x5000 → exec (.hostRegisterWrite v d) s =
      .next (elWrite (setCause h 1 false) 0x04 0 0 0 v.toNat 0))

/-! ## Device opcodes -/

namespace Sys2Proof.Machine

/-- Core `c`'s dispatcher works on the entry `w` of opcode `op`: the core runs unhalted in ring 0 and in no microcode
handler, and the entry's words are in its work slot (R405, R419). -/
def InWork (s : State) (c : CoreId) (w : Work) (op : Nat) : Prop :=
  (coreOf s c.val).workRun = some w ∧ coreState s c.val = 0 ∧ (coreOf s c.val).halted = false ∧ (coreOf s c.val).ring = 0 ∧
  (coreOf s c.val).home = none ∧ ((coreOf s c.val).workFull = true ∨ w.held = true) ∧ w.op = op

end Sys2Proof.Machine

/-- R406, R415 to R429. The opcodes that work on sessions: opened with the engine's answer, reloaded, closed; messages sent
and awaited; microcode handlers invoked, and the three gates of the ROM. -/
def Obligations.SessionOpcodes : Prop :=
  ∀ (s : State) (c : CoreId) (w : Work) (st ms ks : BitVec 3) (key : Payload) (msg out : List Byte) (idx : BitVec 20)
    (slot : List Word),
    let n := c.val
    let i := handleIdx w.handle
    (InWork s c w 1 →
      (modeBit s 7 = true → exec (.sessionOpen c st key) s = .next (workEnd s n w 0x0D 5)) ∧
      (modeBit s 7 = false → sessRefused s = true → exec (.sessionOpen c st key) s = .next (workEnd s n w 0x10 0)) ∧
      (modeBit s 7 = false → sessRefused s = false → w.len = 24 ∨ w.len = 40 → w.bufOk s (byteWords w.len) = true →
        bufFault s w.win false = none →
        (findHome s = none → exec (.sessionOpen c st key) s = .next (workEnd s n w 5 0)) ∧
        (∀ j cold, findHome s = some (j, cold) →
          let e := cipherSt s st.toNat
          let t := dispCipher (bufRead s w.win w.idx (byteWords w.len)) n 1 e
          (cipherOk e = false → exec (.sessionOpen c st key) s = .next (workEnd t n w 0x0D e)) ∧
          (∀ u, cipherOk e = true → workRec t n w 0x020 (handleOf s j) 0 = some u → exec (.sessionOpen c st key) s =
            .next (workDone (sessOpenAt u j cold [mkW .keyref key.toNat, w.at 5, w.at 6, w.at 7]) n w 0 (handleOf s j)
              (natW cold.isNone.toNat)))))) ∧
    (∀ cs, coreState s n = 0 → (sessOf s idx.toNat).opened = true → (sessOf s idx.toNat).failed = false →
      (sessOf s idx.toNat).way = none → (sessOf s idx.toNat).cold = some cs → coldOk s = true →
      setTakes s true idx.toNat = true →
      let t := dispCipher (bufRead s (configOf s 1) (poolBase s + 1024 * cs) slot.length) n 10 ms.toNat
      let u := if cipherOk ms.toNat then dispCipher t n 1 ks.toNat else t
      (reloadOk u idx.toNat slot ms.toNat ks.toNat = false → exec (.contextReload c idx slot ms ks key) s =
        .next (failEntries (sessRec (sessPut u idx.toNat { sessOf s idx.toNat with failed := true }) n 0x026
          (mkW .session (idx.toNat + 2 ^ 20 * (sessOf s idx.toNat).gen)) (natW 0) 0).2 idx.toNat)) ∧
      (∀ y, reloadOk u idx.toNat slot ms.toNat ks.toNat = true → freeWay (makeWay u idx.toNat) idx.toNat = some y →
        let v := memPutAll (makeWay u idx.toNat) ((List.range 8).map fun j =>
          (hotAddr idx.toNat y + j, (reloadWords slot key).getD j emptyW))
        exec (.contextReload c idx slot ms ks key) s =
          .next (sessTouch (sessPut v idx.toNat { sessOf v idx.toNat with way := some y }) idx.toNat))) ∧
    (InWork s c w 2 →
      (handleNamed s w.handle = false → exec (.sessionClose c) s = .next (workEnd s n w 4 0)) ∧
      (handleNamed s w.handle = true → sessBusy s w.handle = true → exec (.sessionClose c) s = .next (workHold s n w)) ∧
      (∀ t, handleNamed s w.handle = true → sessBusy s w.handle = false → workRec s n w 0x021 w.handle 0 = some t →
        exec (.sessionClose c) s = .next (workEnd (sessCloseAt t i) n w 0 0))) ∧
    (InWork s c w 3 →
      (∀ b, sessBad s w.handle = some b → exec (.send c msg st out) s = .next (workEnd s n w b 0)) ∧
      (sessBad s w.handle = none → modeBit s 7 = false → sessBusy s w.handle = false → (sessOf s i).way ≠ none →
        sendFull s n = false → msg.length = w.len → out.length = w.len → exec (.send c msg st out) s =
          .next (sendDo s n w msg st.toNat out))) ∧
    (InWork s c w 4 →
      (∀ b, sessBad s w.handle = some b → exec (.postRecv c none) s = .next (workEnd s n w b 0)) ∧
      (sessBad s w.handle = none → modeBit s 7 = false → sessBusy s w.handle = false → w.bufOk s (byteWords w.len) = true →
        exec (.postRecv c none) s = .next (heldStart (modCore (workWait s n w none 0) n workClear) n))) ∧
    (∀ x, (coreOf s n).workRun = none → waitFind s n 4 = some x → x.work.len < msg.length →
      sessBad s x.work.handle = none → sessBusy s x.work.handle = false → (sessOf s (handleIdx x.work.handle)).way ≠ none →
      exec (.postRecv c (some msg)) s = .next (waitDone s x 0x0B (natW 0))) ∧
    (InWork s c w 7 →
      (∀ b, sessBad s w.handle = some b → exec (.invoke c) s = .next (workEnd s n w b 0)) ∧
      (sessBad s w.handle = none → modeBit s 7 = false → sessBusy s w.handle = false → (sessOf s i).way ≠ none →
        handlerReady s n = true →
        (entryTarget s (w.p 5 % 256) = none → exec (.invoke c) s = .next (workEnd s n w 0x0E 0)) ∧
        (∀ t u, entryTarget s (w.p 5 % 256) = some t → workRec s n w 0x025 w.handle (w.p 5 % 256) = some u →
          exec (.invoke c) s = .next (handlerEnter (sessTake u i n) n w t true)))) ∧
    (∀ o t u, 16 ≤ o → InWork s c w o → handlerReady s n = true → entryTarget s o = some t →
      workRec s n w 0x025 w.handle o = some u → exec (.microcodeEntry c) s = .next (handlerEnter u n w t false)) ∧
    (∀ ws, gateFrame s n 253 = some ws →
      (wtag (inReg s n 0) ≠ .keyref → exec (.gateSessOpen c) s = .next (gateAnswer s n ws (natW 2))) ∧
      (wtag (inReg s n 0) = .keyref → wtag (inReg s n 1) = .nat → wtag (inReg s n 2) = .nat → wtag (inReg s n 3) = .nat →
        sessRefused s = false → findHome s = none → exec (.gateSessOpen c) s = .next (gateAnswer s n ws (natW 5)))) ∧
    (∀ ws, gateFrame s n 254 = some ws → wtag (inReg s n 0) = .session → wtag (inReg s n 1) = .nat →
      sessBad s (inReg s n 0) = none → (sessOf s (handleIdx (inReg s n 0))).way ≠ none →
      (sessOf s (handleIdx (inReg s n 0))).busy = none → bitAt (pay (inReg s n 1)) 0 = true →
      exec (.gateSessHot c) s = .next (gateAnswer (sessTouch (sessTake s (handleIdx (inReg s n 0)) n)
        (handleIdx (inReg s n 0))) n ws (natW 0))) ∧
    (∀ ws, gateFrame s n 255 = some ws → (coreOf (gretApply s n ws) n).workRun = none →
      exec (.gateDone c) s = .next (heldStart (modCore (modCore (sessFree (gretApply s n ws) n) n (homeReturn n)) n
        workClear) n))

/-- R104, R105, R109, R307, R384, R415, R418, R427, R460, R464, R487. The other opcodes: NOP, MEASURE, ACTUATE, LEDGER_READ,
SHIM_LOAD and its cut-over, TIME, CONFIG, MODE_REQUEST and ABORT. -/
def Obligations.DeviceOpcodes : Prop :=
  ∀ (s : State) (c : CoreId) (w : Work) (samples : List (Word × Word)) (im : List (BitVec 64)) (st : BitVec 3),
    let n := c.val
    (InWork s c w 0 → exec (.nopEntry c) s = .next (workEnd s n w 0 0)) ∧
    (InWork s c w 5 → w.samples ≠ 0 → 2 * w.samples ≤ w.len → w.bufOk s (2 * w.samples) = true → samples = [] →
      exec (.measure c samples) s = .next (heldStart (modCore (workWait s n w none 0) n workClear) n)) ∧
    (∀ x, (coreOf s n).workRun = none → waitFind s n 5 = some x → bufFault s x.work.win true = none → samples ≠ [] →
      x.count + samples.length < x.work.samples →
      let t := bufWrite s x.work.win (x.work.idx + 2 * x.count) (samples.flatMap fun p => [p.1, p.2])
      exec (.measure c samples) s = .next { t with
        waits := t.waits.map fun y => if y = x then { x with count := x.count + samples.length } else y }) ∧
    (InWork s c w 6 →
      (dvPaired s = false → exec (.actuate c) s = .next (workEnd s n w 0x11 0)) ∧
      (∀ t, dvPaired s = true → sendFull s n = false → workRec s n w 0x024 w.handle (w.p 5 % 2 ^ 32) = some t →
        let m : Msg := ⟨0x10, natW (w.p 6 % 2 ^ 32), natW (w.p 5 % 2 ^ 32 + bits (w.p 7) 0 1 * 2 ^ 33)⟩
        exec (.actuate c) s = .next (coreSend (workWait t n w (some m) 0) n m))) ∧
    (InWork s c w 8 → 32 * w.p 6 ≤ w.len → w.bufOk s (32 * w.p 6) = true → bufFault s w.win true = none →
      let l := recsFrom s (w.p 5) (w.p 6)
      exec (.ledgerRead c) s = .next (workEnd (bufWrite s w.win w.idx (l.flatMap slotWords)) n w 0 l.length)) ∧
    (InWork s c w 9 →
      (w.admin s = false → exec (.shimLoad c im st) s = .next (workEnd s n w 6 0)) ∧
      (w.admin s = true → modeBit s 7 = true → exec (.shimLoad c im st) s =
        .next (workEnd s n w 0x0F (ioF s aSHIMSTAT 0 4))) ∧
      (w.admin s = true → modeBit s 7 = false → w.bufOk s w.len = true → bufFault s w.win false = none →
        s.shimBusy = none → im.length = w.len → waitFind s n 9 = none → exec (.shimLoad c im st) s =
        .next (shimLoadDo s n w im st.toNat))) ∧
    (∀ recs seq, s.shimBusy = some (recs, seq) →
      let t := patchPut { s with shimBusy := none } (patchApply (patchTable s) recs)
      let u := setupHook (raise (shimEnd (ioPut t aSHIMVER (natW (seq + satAt 255 (ioF t aSHIMVER 24 8 + 1) * 2 ^ 24))) seq 1)
        600)
      (u.waits.find? (fun x => x.work.op == 9) = none → exec .shimCutOver s = .next u) ∧
      (∀ x, u.waits.find? (fun x => x.work.op == 9) = some x → exec .shimCutOver s = .next (waitDone u x 0 (natW 1)))) ∧
    (InWork s c w 0xB → bitAt (w.p 5) 0 = false → w.len < 4 → exec (.timeEntry c) s =
      .next (workDone s n w 0 w.handle (mkW .time (tbGet s 0 % 2 ^ 36)))) ∧
    (InWork s c w 0xB → bitAt (w.p 5) 0 = true →
      (w.admin s = false → exec (.timeSet c) s = .next (workEnd s n w 6 0)) ∧
      (w.admin s = true →
        let t := tbSet (ioPut s (aTB 0 + 5) (mkW .time (w.p 7))) 0 0 (w.p 6)
        exec (.timeSet c) s = .next (if tbGet s 0 ≤ w.p 6 * 2 ^ 36 + w.p 7 then timeEnd t n w else workEnd t n w 0x0F 0))) ∧
    (InWork s c w 0xC →
      (bitAt (w.p 5) 8 = false → w.admin s = true → 1 ≤ w.p 5 % 256 → w.p 5 % 256 ≤ 4 →
        exec (.configRead c) s = .next (workEnd s n w 0 (configOf s (w.p 5 % 256)))) ∧
      (bitAt (w.p 5) 8 = true → w.admin s = true → configOk (w.p 5 % 256) (w.p 6) = true →
        poolMoves s (w.p 5 % 256) (w.p 6) (w.p 7) = false → exec (.configWrite c) s =
        .next (workEnd (configPut s (w.p 5 % 256) (w.p 6) (w.p 7)) n w 0 (w.p 6)))) ∧
    (InWork s c w 0xD →
      let mask := w.p 5 / 256 % 256
      (w.admin s = false → mask &&& 0x50 ≠ mask → exec (.modeRequest c) s = .next (workEnd s n w 6 0)) ∧
      (w.admin s = true ∨ mask &&& 0x50 = mask → mask &&& 0x5F = mask →
        let t := modeRequestDo s (w.p 5 % 256) mask
        exec (.modeRequest c) s = .next (workEnd t n w 0 (modeNow t)))) ∧
    (InWork s c w 0xE →
      (entryOf s (w.p 5 % 256) (bits (w.p 5) 8 16) = none → exec (.abortEntry c) s = .next (workEnd s n w 0xA 0)) ∧
      (∀ e, entryOf s (w.p 5 % 256) (bits (w.p 5) 8 16) = some e → e.st = .fetched ∨ e.st = .held →
        exec (.abortEntry c) s = .next (workEnd (entryDone s e 8 e.handle (natW 0)) n w 0 0)))

/-! ## Service, ledger and cipher engine -/

namespace Sys2Proof.Machine

/-- Core `c`'s dispatcher works on the SERVICE entry `w` of action `a`, from an admin ring and without ALARM (R511). -/
def InService (s : State) (c : CoreId) (w : Work) (a : Nat) : Prop :=
  InWork s c w 0xA ∧ w.p 5 = a ∧ w.admin s = true ∧ modeBit s 7 = false

end Sys2Proof.Machine

/-- R180, R278, R281, R331, R453, R498, R504, R509, R511. The actions of SERVICE: each completes its entry at once or leaves it
waiting for what it started; from a ring that is no admin ring an action completes with 6, under ALARM with 0x0F. -/
def Obligations.ServiceActions : Prop :=
  ∀ (s : State) (c : CoreId) (w : Work) (pass : Bool) (st : BitVec 3) (words : List Word),
    let n := c.val
    let u := w.p 6
    (InWork s c w 0xA → w.p 5 = 1 →
      (w.admin s = false → exec (.serviceKerf c) s = .next (workEnd s n w 6 0)) ∧
      (w.admin s = true → modeBit s 7 = true → exec (.serviceKerf c) s = .next (workEnd s n w 0x0F 0))) ∧
    (InService s c w 1 → u < 32 → exec (.serviceKerf c) s =
      .next (if n = u then kerf s u 6 else workEnd (kerf s u 6) n w 0 0)) ∧
    (InService s c w 2 → u < 32 → n ≠ u → exec (.serviceRelease c pass) s =
      .next (workEnd (selfTestEnd (releaseDo s u) u pass) n w 0
        (if clusterOnNow s (u / 4) ∧ u / 4 ∉ s.islReset ∧ pass = true then 0 else 1))) ∧
    (InService s c w 3 → u < 32 → w.p 7 < 32 →
      (spliceAnswer s u (w.p 7) ≠ 0 → exec (.serviceSplice c) s = .next (workEnd s n w 0 (spliceAnswer s u (w.p 7)))) ∧
      (spliceAnswer s u (w.p 7) = 0 → exec (.serviceSplice c) s =
        .next (workWait (clusterWake (setCause (ioPut { s with splice := some (u, w.p 7, 0, some n) } aSPLSTAT
          (natW (splstatRun u (w.p 7)))) 4 true)) n w none 0))) ∧
    (InService s c w 4 → u < 32 →
      let t := marchctlDo s (packNat [(0, 5, u), (5, 1, (bitAt (w.p 7) 0).toNat), (6, 1, ioF s aMARCHCTL 6 1), (7, 1, 1)])
      exec (.serviceMarch c) s = .next (
        if marchRefused s u (!bitAt (w.p 7) 0) then workEnd t n w 0 (pay (ioGet t aMARCHSTAT)) else workWait t n w none u)) ∧
    (InService s c w 5 → s.repairing = none →
      let t := rpctlDo s (u % 2 ^ 12 + 2 ^ 12)
      exec (.rowrepair c) s = .next (if t.repairing.isSome then workWait t n w none 0 else workEnd t n w 0 1)) ∧
    (InService s c w 6 → 1024 ≤ w.len → w.bufOk s 1024 = true → bufFault s w.win true = none →
      exec (.rowmapSave c) s = .next (workEnd (bufWrite s w.win w.idx (rowmapAll s)) n w 0 (rowmapAll s).length)) ∧
    (InService s c w 7 → words.length = w.len → w.bufOk s w.len = true → bufFault s w.win false = none →
      let t := bufRead s w.win w.idx w.len
      let l := words.filter fun x => wtag x = .nat && decide (bankState t (bits (pay x) 0 5) < 2)
      exec (.rowmapRestore c words) s =
        .next (workEnd ((rowmapBanks l).foldl rowmapCycle (l.foldl rowmapApply t)) n w 0 l.length)) ∧
    (InService s c w 8 → u < 8 → w.p 7 < 2 →
      (dvPaired s = false → exec (.chswitch c) s = .next (workEnd s n w 0x11 0)) ∧
      (dvPaired s = true → sendFull s n = false → exec (.chswitch c) s =
        .next (coreSend (workWait s n w none (fHWCH u)) n ⟨0x11, natW (fHWCH u),
          natW (setBits (pay (ioGet s (aSHADOW (fHWCH u)))) 0 1 (w.p 7) &&& 7)⟩))) ∧
    (InService s c w 9 → words.length = 32 → 32 ≤ w.len → w.bufOk s 32 = true →
      (anch s ≠ 0 → exec (.ledgerResume c words st) s = .next (workEnd s n w 0x0F 0)) ∧
      (anch s = 0 → bufFault s w.win false = none →
        let t := cipherCount (bufRead s w.win w.idx 32) 32 (cipherSt s st.toNat)
        let r := resumeReason t words st.toNat
        exec (.ledgerResume c words st) s = .next (
          if r ≠ 0 then workEnd (anchorRefuse t r) n w 0 r
          else workWait { t with ledger := { t.ledger with anchorFrom := some (slotSeq words, slotHead words, 2) } } n w none
            0))) ∧
    (InService s c w 10 →
      (anch s ≠ 0 → exec (.ledgerFresh c) s = .next (workEnd s n w 0x0F 0)) ∧
      (anch s = 0 → exec (.ledgerFresh c) s =
        .next (workWait { s with ledger := { s.ledger with anchorFrom := some (0, 0, 3) } } n w none 0))) ∧
    (InService s c w 11 →
      (8 ≤ u → exec (.clusterReset c) s = .next (workEnd s n w 1 0)) ∧
      (u < 8 → u = s.carrier / 4 → exec (.clusterReset c) s = .next (workEnd s n w 0x0F 0)) ∧
      (u < 8 → u ≠ s.carrier / 4 → u ≠ n / 4 → clusterOnNow s u = true → u ∉ s.islReset →
        exec (.clusterReset c) s = .next (workEnd (clusterResetDo s u) n w 0 0)))

/-- R434, R437, R441, R450 to R456, R461, R485. The cipher engine's answers, reads and writes for its jobs and its timeouts,
its capability word; the ledger's seals, anchoring, key and proofs. -/
def Obligations.EngineEvents : Prop :=
  ∀ (s : State) (c : CoreId) (n : Fin 34) (j : Job) (st : BitVec 3) (area : EngArea) (off k : Nat) (b : List Byte)
    (cap : Payload) (w : Word) (mac mac' : BitVec 128) (burnt : Bool),
    (n.val < 32 → st.toNat ≤ 5 → jobOf s n.val = some j → j.atEng = true → exec (.cipherDone n st) s =
      .next (ciphWake (jobDone s n.val j st.toNat) j.core)) ∧
    (n.val < 32 → st.toNat ≤ 5 → jobOf s n.val = none → exec (.cipherDone n st) s = .next s) ∧
    (32 ≤ n.val ∨ 5 < st.toNat → exec (.cipherDone n st) s = .fault .illFormed) ∧
    (jobOf s n.val = some j → j.atEng = true → n.val < 32 → exec (.cipherJobTimeout n) s =
      .next (ciphWake (jobEnd (emit s (.engAbort n.val)) n.val j 5 2) j.core)) ∧
    (jobOf s n.val = some j → j.atEng = true →
      (∀ a len, n.val < 32 → readArea j area = some (a, len) → areaOk s j false a len = true → areaTags s a len = true →
        exec (.engineRead n area off k) s = .next (emit s (.engData n.val (((areaBytes s a len).drop off).take k)))) ∧
      (∀ a len, n.val < 32 → readArea j area = some (a, len) → areaOk s j false a len = false →
        exec (.engineRead n area off k) s = .next (jobFail s n.val j 4)) ∧
      (n.val < 32 → readArea j area = none →
        exec (.engineRead n area off k) s = .next (emit s (.engData n.val (((blockArea j area).drop off).take k)))) ∧
      (32 ≤ n.val → exec (.engineRead n area off k) s =
        .next (emit s (.engData n.val (((svBytes s n.val area).drop off).take k)))) ∧
      (n.val < 32 → outLimit s j < off + b.length → exec (.engineWrite n .output off b) s = .next (jobFail s n.val j 7)) ∧
      (n.val < 32 → off + b.length ≤ outLimit s j → areaOk s j true j.outA (off + b.length) = true →
        exec (.engineWrite n .output off b) s = .next (areaWrite (jobPut s n.val { j with outN := max j.outN (off + b.length) })
          j j.outA (b.length + 1) off b))) ∧
    (s.alive = true → aCIPHCAP ∈ s.locked → cipherValid s = false → exec (.engineCap cap) s = .next s) ∧
    (s.alive = true → aCIPHCAP ∉ s.locked → exec (.engineCap cap) s =
      .next (cipherUp (ioPut { s with locked := aCIPHCAP :: s.locked } aCIPHCAP (natW (cap.toNat % 2 ^ 9))))) ∧
    (jobOf s 32 = some j → j.atEng = true → exec (.sealDone st mac) s =
      .next (sealEnd (jobDone s 32 j st.toNat) (cipherOk st.toNat && !j.fault) mac)) ∧
    (jobOf s 32 = none → exec (.sealDone st mac) s = .next s) ∧
    (dvPaired s = true → ioB s aDVSTAT 3 = false → ledgKeyed s = true → anch s = 0 → spoolFree (spoolRoom s) ≠ none →
      (otpEpoch s = 4095 → exec (.anchoring burnt st mac) s = .next (anchorTell (anchorRefuse (ioSetF { s with
        ledger := { s.ledger with anchorFrom := none } } aLEDGSTAT 0 2 2) 5) 5)) ∧
      (otpEpoch s ≠ 4095 → mirrorValid s = true → mirrorEpoch s = otpEpoch s →
        let t := dhCfg s fEPOCH (natW (otpEpoch s + 1))
        exec (.anchoring burnt st mac) s = .next (if burnt then
          anchorDo t (mirrorSeq s + 1) (mirrorHead s) (mirrorSeq s) 1 st.toNat mac else t)) ∧
      (otpEpoch s ≠ 4095 → mirrorValid s = true → mirrorEpoch s ≠ otpEpoch s → s.ledger.anchorFrom = none →
        exec (.anchoring burnt st mac) s = .next (anchorRefuse s 1))) ∧
    (WriteTaken s c aLEDGKEY w →
      (ledgKeyed s = false → exec (.ledgkeyWrite c w mac mac') s = .next (ioPut s aLEDGKEY w)) ∧
      (ledgKeyed s = true → anch s = 1 → exec (.ledgkeyWrite c w mac mac') s = .next (keyRotate s w mac mac')) ∧
      (ledgKeyed s = true → anch s ≠ 1 → exec (.ledgkeyWrite c w mac mac') s =
        .next (ledgEng (ioPut s aLEDGKEY w) 0x003 [natW 1]))) ∧
    (WriteTaken s c 0x030008 w →
      let r := (coreOf s c.val).ring
      let a := pay (ioGet s aLEDGAREA)
      (proveOk s c.val r a = true → (∀ q ∈ s.ledger.seals, q.id ≠ pay w) →
        exec (.ledgprove c w st mac) s = .next (proveStatus s c.val r a 2)) ∧
      (∀ q, proveOk s c.val r a = true → q ∈ s.ledger.seals → q.id = pay w → cipherValid s = true → ledgKeyed s = true →
        st = 0 → exec (.ledgprove c w st mac) s = .next (memPut (memPutAll (cipherCount s 32 0) ((List.range 4).map fun i =>
          (a + 8 + i, (macWords mac).getD i emptyW))) (a + 12) (natW 0))))

/-! ## Debug -/

/-- R437, R523 to R533. The operations of a debug port, the mailbox or the TAP: refused with no effect while the port
is not ready; below the level an operation needs, and for what no port may see or change, a denial; otherwise done,
with RESULT 0 and a word read in DMDATA. The response verified, late or wrong; halts and breakpoints reached; the TAP's
instructions. The boundary register's content is a free value (log entry 5). -/
def Obligations.DebugPort : Prop :=
  (∀ (s : State) (tap : Bool) (lv : BitVec 2) (resp : BitVec 128) (a : Payload) (io : BitVec 24) (l : Link) (w : Word)
    (k : CoreId) (n : Fin 4) (en : Bool) (sel : BitVec 6),
    Inv s →
    (dbgReady s tap = false →
      exec (.dbgOpen tap lv) s = .next s ∧ exec (.dbgRespond tap resp) s = .next s ∧ exec (.dbgClose tap) s = .next s ∧
      exec (.debugReadData tap a) s = .next s ∧ exec (.debugWriteData tap a w) s = .next s) ∧
    (dbgReady s tap = true →
      let p := if tap then s else hostActive s
      let at_ := fun x : Nat => barPut p bDMADDR x
      let with_ := fun x y : Nat => barPut (barPut p bDMADDR x) bDMDATA y
      let level := dbgLevel p tap
      (openRefused p tap lv.toNat = true → exec (.dbgOpen tap lv) s = .next (dbgResult p 1)) ∧
      (openRefused p tap lv.toNat = false → exec (.dbgOpen tap lv) s = .next (dbgResult { bump p with
        dbg := { p.dbg with
          chal := BitVec.ofNat 128 (freeVal p)
          asked := some (lv.toNat, tap) } } 3)) ∧
      (dbgAttached p = true → ioB p aDBGSTAT 4 = tap → exec (.dbgClose tap) s =
        .next (dbgResult (setCause (dbgDetach p) 6 false) 0)) ∧
      (dbgAttached p = false → exec (.dbgClose tap) s = .next (dbgResult p 1)) ∧
      (let t := at_ a.toNat
       (level = 0 → exec (.debugReadData tap a) s = .next (dbgNo t tap 4 4 (addrW a.toNat))) ∧
       (1 ≤ level → isBank a.toNat = true → bankKeeper t (bankOf a.toNat) = true → exec (.debugReadData tap a) s =
          .next (dbgNo (barPut t bDMDATA 0) tap 4 1 (addrW a.toNat))) ∧
       (1 ≤ level → isBank a.toNat = true → bankKeeper t (bankOf a.toNat) = false → bankState t (bankOf a.toNat) = 0 →
          a.toNat ∉ t.eccBad → isSecret (memGet t a.toNat) = false → exec (.debugReadData tap a) s =
          .next (dbgResult (barPut (eccRead t a.toNat) bDMDATA (memGet t a.toNat).toNat) 0))) ∧
      (let t := with_ a.toNat w.toNat
       2 ≤ level → isBank a.toNat = true → bankKeeper t (bankOf a.toNat) = false → isSecret (memGet t a.toNat) = false →
        (dbgTag (wtag w) = false → exec (.debugWriteData tap a w) s = .next (dbgNo t tap 5 3 (addrW a.toNat))) ∧
        (dbgTag (wtag w) = true → bankState t (bankOf a.toNat) = 0 → exec (.debugWriteData tap a w) s =
          .next (dbgResult (memPut t a.toNat w) 0))) ∧
      (let t := at_ io.toNat
       ∀ i, 1 ≤ level → dbgNoReg io.toNat = false → isPatch io.toNat = false → regInfo 32 io.toNat = some i →
        bitAt i.rd 1 = true → bitAt i.rd 2 = true → ioIslandOff t io.toNat = false →
        isSecret (ioValue t 32 io.toNat) = false →
        exec (.debugReadIo tap io) s = .next (dbgAnswer t (ioValue t 32 io.toNat))) ∧
      (let t := with_ io.toNat w.toNat
       ∀ i r, 2 ≤ level → dbgNoReg io.toNat = false → isPatch io.toNat = false → regInfo 32 io.toNat = some i →
        bitAt i.rd 1 = true → dbgTag (wtag w) = true → isBrk io.toNat = false → i.wr = some r → bitAt r 2 = true →
        ioExtraPriv 2 io.toNat w = false → ioTag io.toNat (wtag w) = true → ioIslandOff t io.toNat = false →
        exec (.debugWriteIo tap io w) s = .next (dbgPerform t 2 i io.toNat w)) ∧
      (let t := at_ l.toNat
       (1 ≤ level → lineAbsent (lineOf l) = false → 2 ≤ lineRing t (lineOf l) → exec (.debugReadCs tap l) s =
          .next (dbgAnswer (csNote t (lineOf l)) (csRaw t l.toNat))) ∧
       (1 ≤ level → lineAbsent (lineOf l) = false → lineRing t (lineOf l) = 0 → exec (.debugReadCs tap l) s =
          .next (dbgNo (barPut t bDMDATA 0) tap 8 1 (linkW l)))) ∧
      (let t := with_ l.toNat w.toNat
       (level < 3 → exec (.debugWriteCs tap l w) s = .next (dbgNo t tap 9 4 (linkW l))) ∧
       (3 ≤ level → lineWritable (lineOf l) = true → lineRing t (lineOf l) ≠ 0 → exec (.debugWriteCs tap l w) s =
          .next (dbgResult (csPut t l.toNat w) 0))) ∧
      (level < 2 → exec (.dbgHalt tap k) s = .next (dbgNo p tap 10 4 (natW 0)) ∧
        exec (.dbgResume tap k) s = .next (dbgNo p tap 11 4 (natW 0)) ∧
        exec (.dbgStep tap k) s = .next (dbgNo p tap 12 4 (natW 0))) ∧
      (2 ≤ level →
        exec (.dbgHalt tap k) s = .next (dbgResult (setCore p k.val { coreOf p k.val with haltReq := true }) 0) ∧
        ((coreOf p k.val).halted = true →
          exec (.dbgResume tap k) s = .next (dbgResult (setCore p k.val { coreOf p k.val with
            halted := false
            haltReq := false
            stepReq := false }) 0) ∧
          exec (.dbgStep tap k) s = .next (dbgResult (setCore p k.val { coreOf p k.val with
            halted := false
            stepReq := true }) 0)) ∧
        ((coreOf p k.val).halted = false → exec (.dbgStep tap k) s = .next (dbgResult p 1)) ∧
        (let t := with_ l.toNat en.toNat
         (lineAbsent (lineOf l) = true ∨ lineRing t (lineOf l) = 0 → exec (.dbgSetBreakpoint tap k n l en) s =
            .next (dbgNo t tap 13 2 (linkW l))) ∧
         (lineAbsent (lineOf l) = false → lineRing t (lineOf l) ≠ 0 → exec (.dbgSetBreakpoint tap k n l en) s =
            .next (dbgResult (ioPut t (priv k.val (oDBGBRK n.val)) (natW (l.toNat + 2 ^ 20 * en.toNat))) 0)))) ∧
      (let t := at_ sel.toNat
       let x := if sel.toNat < 32 then regRead (coreOf t k.val) sel.toNat else crRead t k.val (sel.toNat - 32)
       1 ≤ level → (coreOf t k.val).halted = true → sel.toNat ≤ 53 → isSecret x = false →
        exec (.dbgReadRegister tap k sel) s = .next (dbgAnswer t x)))) ∧
  (∀ (s : State) (c : CoreId) (n : Fin 4) (tap : Bool) (resp : BitVec 128) (st : BitVec 3) (j : Job) (o : BitVec 8)
    (w : BitVec 64),
    (∀ k, s.alive = true → s.dbg.asked = some (k, true) → s.dbg.verify = false → cipherValid s = true →
      jobOf s 33 = none → exec (.dbgRespond true resp) s = .next (jobStart (ioSetB { s with
        dbg := { s.dbg with
          resp := resp
          verify := true } } aDBGSTAT 0 true) 33 (verifyJob s k))) ∧
    (jobOf s 33 = some j → j.atEng = true → exec (.debugVerifyDone st) s =
      .next (verifyEnd (jobDone s 33 j st.toNat) (cipherOk st.toNat && !j.fault))) ∧
    (jobOf s 33 = none → exec (.debugVerifyDone st) s = .next s) ∧
    (s.dbg.verify = true → exec .challengeExpiry s = .next s) ∧
    (∀ k, s.dbg.verify = false → s.dbg.asked = some (k, tap) → exec .challengeExpiry s =
      .next (dbgDeny { s with dbg := { s.dbg with asked := none } } k tap 2 5 (natW 0))) ∧
    (let k := { coreOf s c.val with
      halted := true
      haltReq := false
      pend := (coreOf s c.val).pend.filter (· ≠ .step) }
     let b := pay (ioGet s (priv c.val (oDBGBRK n.val)))
     (haltAt s c.val = true → (coreOf s c.val).haltReq = true → exec (.debugHaltReached c) s = .next (setCore s c.val k)) ∧
     ((coreOf s c.val).haltReq = false → exec (.debugHaltReached c) s = .next s) ∧
     (haltAt s c.val = true → bitAt b 20 = true → bitAt b 21 = false → b % 2 ^ 20 = (coreOf s c.val).mpc.toNat →
      exec (.breakpointHalt c n) s = .next (setCore s c.val k)) ∧
     (bitAt b 20 = false ∨ bitAt b 21 = true → exec (.breakpointHalt c n) s = .next s)) ∧
    (let show_ := fun (t : State) (ir : Nat) (dr : BitVec 64) => emit { t with
      dbg := { t.dbg with
        tapIr := ir
        tapDr := dr } } (.tap dr)
     exec .tapBypass s = .next (show_ s 0xFF 0) ∧
     exec .tapIdcode s = .next (show_ s 1 (Config.idcode.setWidth 64)) ∧
     (dbgLevel s true = 3 →
      exec .tapSamplePreload s = .next (show_ (bump s) 2 (BitVec.ofNat 64 (freeVal s))) ∧
      exec .tapExtest s = .next (show_ (bump s) 3 (BitVec.ofNat 64 (freeVal s)))) ∧
     (dbgLevel s true ≠ 3 →
      exec .tapSamplePreload s = .next (show_ s 0xFF 0) ∧ exec .tapExtest s = .next (show_ s 0xFF 0)) ∧
     (exec (.tapDbgacc o false w) s = .next (show_ s 0x20 (BitVec.ofNat 64 (dmRead s o.toNat)))) ∧
     (s.alive = true → o = 0x40 → exec (.tapDbgacc o true w) s = .next (barPut (show_ s 0x20 w) bDMADDR w.toNat)) ∧
     (s.alive = true → o = 0 → exec (.tapDbgacc o true w) s = .next (dmCmd (show_ s 0x20 w) true (w.toNat % 2 ^ 32)))))

/-! ## Modes, power and surroundings -/

/-- R472, R473, R484, R491, R492, R496 to R498, R504 to R507. Clusters powered down, lockstep, the resets, kerfs and their
self-tests, and splices. -/
def Obligations.ModeEvents : Prop :=
  ∀ (s : State) (c k : CoreId) (n : Fin 8) (p : Fin 2) (straps : BitVec 2) (failed : BitVec 32) (pass : Bool)
    (ns : BitVec 16) (why : BitVec 3),
    (clusterOnNow s n.val = true → clusterKept s n.val = false → n.val ∉ s.islReset →
      (clusterIdle s n.val = true → exec (.clusterPowerDown n) s = .next (clusterDown s n.val) ∧
        exec (.thriftPowerDownTimeout n) s = .next s) ∧
      (clusterIdle s n.val = false → exec (.clusterPowerDown n) s = .next s ∧
        exec (.thriftPowerDownTimeout n) s = .next (ioSetB s aMODESTAT (1 + n.val) true))) ∧
    (modeBit s 2 = true → coreState s (4 * p.val) = 0 → ioF s (priv (4 * p.val + 1) oCORESTAT) 0 3 = 5 →
      clusterOnNow s p.val = true → exec (.lockstepEntry p) s = .next (lockSet s p.val true)) ∧
    (modeBit s 2 = false → exec (.lockstepEntry p) s = .next s) ∧
    (ioB s aMODESTAT (9 + p.val) = true → exec (.lockstepFailure p) s = .next (kerf (kerf (lockSet
      (elWrite s 0x0A p.val (4 * p.val) 0 (coreOf s (4 * p.val)).mpc.toNat 0) p.val false) (4 * p.val) 3)
      (4 * p.val + 1) 3)) ∧
    (ioB s aMODESTAT (9 + p.val) = false → exec (.lockstepFailure p) s = .next s) ∧
    ((∀ i ∈ [0, 8, 9, 12, 13], i ∉ s.islReset) → exec (.coldReset straps failed) s = .next (bringUp
      (bootOff { hostReset s with straps := if straps = 3 then 0 else straps.toNat }) failed.toNat)) ∧
    ((∃ i ∈ [0, 8, 9, 12, 13], i ∈ s.islReset) → exec (.coldReset straps failed) s = .next s) ∧
    (s.alive = true → exec .deadmanWarning s = .next (elWrite (modCore s s.carrier fun k => { k with
      pend := k.pend ++ [.nmi 3] }) 0x0F 0 s.carrier 0 0 0)) ∧
    (s.alive = true → exec .deadmanRestart s = .next (deadmanDo s)) ∧
    (s.alive = false → exec .deadmanWarning s = .next s ∧ exec .deadmanRestart s = .next s) ∧
    (WriteTaken s c 0x24 (natW (k.val + 32)) → exec (.kerfctlKerf c k) s = .next (kerf s k.val 5)) ∧
    (WriteTaken s c 0x24 (natW (k.val + 64)) → exec (.kerfctlRelease c k) s = .next (releaseDo s k.val)) ∧
    (coreState s k.val = 2 → (coreOf s k.val).test = 0 → thirdKerf s k.val = false → exec (.kerfReset k) s =
      .next (modCore (coreReset s k.val) k.val fun co => { co with test := 2 })) ∧
    (coreState s k.val = 2 → thirdKerf s k.val = true → exec (.kerfReset k) s = .next s) ∧
    (testOf s k.val = 0 → exec (.selfTestDone k pass) s = .next s) ∧
    (testOf s k.val ≠ 0 →
      let t := if pass then testPass s k.val (testOf s k.val) else testFail s k.val
      exec (.selfTestDone k pass) s = .next (hubEval (standbyFollow (skerfFollow (clusterReport
        (if testOf s k.val = 1 then t else elWrite t 0x03 0 k.val 0 (if pass then 0 else 1) 0) (k.val / 4)))))) ∧
    (∀ a b r, s.splice = some (a, b, 0, r) →
      (stopPoint s a = true → exec .spliceStop s = .next { storeDrainAll s a with splice := some (a, b, 1, r) }) ∧
      (stopPoint s a = false → exec .spliceStop s = .next s)) ∧
    (∀ a b r, s.splice = some (a, b, 1, r) → ioF s (priv b oCORESTAT) 0 3 = 5 → coreState s a = 0 →
      exec (.spliceComplete ns) s = .next (spliceEnd (spliceMove s a b) a b r 1 0 ns.toNat)) ∧
    (∀ a b st r, s.splice = some (a, b, st, r) →
      (why = 1 ∧ st = 0 ∨ (why = 2 ∨ why = 3) ∧ st = 1 →
        let t := spliceEnd s a b r 2 why.toNat 0
        exec (.spliceAbandon why) s = .next (if coreState t a = 0 then spliceptTake t a b else t)) ∧
      (¬ (why = 1 ∧ st = 0 ∨ (why = 2 ∨ why = 3) ∧ st = 1) → exec (.spliceAbandon why) s = .next s))

/-- R493, R510, R515 to R520, R535, R536, R556 to R562. The link's lanes, the reference clock, power-good, the regulators, the
adaptive loop of a cluster, the sensors and the veneer. -/
def Obligations.SurroundingEvents : Prop :=
  ∀ (s : State) (i : Fin 14) (n : Fin 8) (lane code volt temp : BitVec 8) (spare : Bool) (h : HardCause),
    (hlUp s = true →
      exec (.ucieLaneFailure lane true) s = .next (elWrite (ioInc s aHWSTAT 2 8) 0x0E lane.toNat 0 0 0 0) ∧
      exec (.ucieLaneFailure lane false) s = .next (linkDown (elWrite s 0x0E lane.toNat 0 0 1 0)) ∧
      exec .ucieLaneRepairTimeout s = .next (linkDown (emit s .retrain))) ∧
    (hlUp s = false → exec (.ucieLaneFailure lane spare) s = .next s ∧ exec .ucieLaneRepairTimeout s = .next s) ∧
    (s.alive = true → s.refLost = false → exec .refclkLoss s = .next (raise (linkDown { s with refLost := true }) 604)) ∧
    (s.refLost = true → exec .refclkLoss s = .next s) ∧
    (exec .refclkReturn s = .next { s with refLost := false }) ∧
    (let t := { s with islReset := i.val :: s.islReset }
     (i.val ∈ s.islReset → exec (.pgNFall i) s = .next s) ∧
     (i.val ∉ s.islReset → s.alive = true →
      (i.val = 8 ∨ i.val = 12 ∨ i.val = 13 → exec (.pgNFall i) s = .next { hostReset t with alive := false }) ∧
      (i.val < 8 → exec (.pgNFall i) s = .next (hubEval (clusterLose t i.val))) ∧
      (i.val = 11 → exec (.pgNFall i) s = .next (hubEval (hlLose t))) ∧
      (i.val = 9 ∨ i.val = 10 → exec (.pgNFall i) s = .next (hubEval ((islandBanks i.val).foldl bankLose t))))) ∧
    (let t := { s with islReset := s.islReset.filter (· ≠ i.val) }
     (i.val ∉ s.islReset → exec (.pgNRise i) s = .next s) ∧
     (i.val ∈ s.islReset → i.val < 9 ∨ 10 < i.val → exec (.pgNRise i) s = .next t) ∧
     (i.val ∈ s.islReset → s.alive = true → i.val = 9 ∨ i.val = 10 → exec (.pgNRise i) s =
      .next ((islandBanks i.val).foldl (fun s n => if n < 4 || ioB s aBANKPWR n then bankStatePut s n 2 else s) t))) ∧
    (s.alive = true → exec (.vidalert i code) s = .next (ioSetB (elWrite (raise { s with vidLow := true } 604) 0x11 i.val 0 0
      code.toNat 0) (aISLSTAT i.val) 20 true)) ∧
    (exec .vidalertRelease s = .next { s with vidLow := false }) ∧
    (s.alive = true → ioF s (aISLENV i.val) 16 8 ≤ code.toNat → code.toNat ≤ vmaxOf s i.val →
      exec (.regulatorAck i code) s = .next (ioSetF s (aISLSTAT i.val) 8 8 code.toNat)) ∧
    (vmaxOf s i.val < code.toNat → exec (.regulatorAck i code) s = .next s) ∧
    (s.alive = true → n.val ∉ s.clOff → n.val ∉ s.islReset →
      let t := ioSetB s (aISLSTAT n.val) 18 (clusterQuiet s n.val)
      exec (.adaptiveStep n none spare) s = .next (clockLower t n.val) ∧
      (code.toNat ≤ vmaxOf t n.val → exec (.adaptiveStep n (some code) spare) s =
        .next (clockMove t n.val code.toNat spare))) ∧
    (s.alive = true → i.val ∉ s.islReset →
      let t := ioSetF s (aSENSSTAT i.val) 0 16 (volt.toNat + 256 * temp.toNat)
      (voltSoft t i.val volt.toNat = false → tempSoft t i.val temp.toNat = false → voltHard t i.val volt.toNat = false →
        9 ≤ temp.toNat → temp.toNat ≤ 204 → exec (.sensorSample i volt temp) s = .next t) ∧
      (ioF s (aSENSSTAT i.val) 0 16 = 0 → voltSoft t i.val volt.toNat = true →
        9 ≤ temp.toNat → temp.toNat ≤ 204 → voltHard (sensCross t i.val 16) i.val volt.toNat = false →
        tempSoft (sensCross t i.val 16) i.val temp.toNat = false →
        exec (.sensorSample i volt temp) s = .next (sensCross t i.val 16))) ∧
    (s.alive = true → i.val ∉ s.islReset → exec (.sensorHardLimit i h) s = .next (tamper s (hardBit h) (some i.val))) ∧
    (s.alive = true → i.val ∈ s.islReset → h = .volt ∨ h = .clock → exec (.sensorHardLimit i h) s = .next s) ∧
    (s.alive = true → exec .veneerMismatch s = .next (tamper (assertLevel s 603) 0 none) ∧
      exec .dualRailDisagree s = .next (tamper s 6 none))

/-! ## The dovetail -/

namespace Sys2Proof.Machine

/-- A frame with the body `w0`, `w1` reaches DH and is acted on: DH lives, the dovetail is paired with 2 working lanes, and
DH's tag rules admit both words (R53, R371, R375). -/
def DhReached (s : State) (w0 w1 : Word) : Prop := dhHears s = true ∧ dvTag (wtag w0) = true ∧ dvTag (wtag w1) = true
/-- A frame with the body `w0`, `w1` reaches DF and is acted on. -/
def DfReached (s : State) (w0 w1 : Word) : Prop := dfHears s = true ∧ dvTag (wtag w0) = true ∧ dvTag (wtag w1) = true
/-- DH has taken a frame of class `cls`. -/
def dhGot (s : State) (cls : Nat) : State := { s with dh := s.dh.take cls }
/-- DF has taken a frame of class `cls`. -/
def dfGot (s : State) (cls : Nat) : State := { s with df := s.df.take cls }

end Sys2Proof.Machine

/-- R329, R371, R375 to R377, R379, R381 to R383, R387. The dovetail's own traffic: heartbeats and their loss, retransmission,
lanes, pairing with its nonces (free values, log entry 5), key rolls, ECHO, TIME-SYNC, and frames outside the catalogue. -/
def Obligations.DovetailLink : Prop :=
  ∀ (s : State) (w0 w1 : Word) (cls lane : Fin 4) (st : BitVec 3) (thr : Bool) (rtt : BitVec 8),
    (DhReached s w0 w1 → exec (.heartbeat true w0 w1) s = .next (heartbeatDh (dhGot s 0) (pay w0) (pay w1))) ∧
    (DfReached s w0 w1 → exec (.heartbeat false w0 w1) s = .next (heartbeatDf (dfGot s 0) (pay w0) (pay w1))) ∧
    (dhHears s = false → exec (.heartbeat true w0 w1) s = .next s) ∧
    (dhHears s = true → dvTag (wtag w0) = false → exec (.heartbeat true w0 w1) s = .next (dvDrop (dhGot s 0))) ∧
    (dvPaired s = true → exec (.heartbeatSend true) s = .next { s with dh := heartbeatOut s.dh }) ∧
    (s.field.paired = true → exec (.heartbeatSend false) s = .next { s with df := heartbeatOut s.df }) ∧
    (dvPaired s = true → exec .dhHeartbeatTimeout s = .next (linkLostWaits (setCause (raise (lostBits.foldl readyClear
      (ioSetF (dhUnpair s) aDVSTAT 2 2 3)) 386) 2 true))) ∧
    (s.field.up = true → s.field.paired = true → exec .dfHeartbeatTimeout s = .next (dfUnpair (bypassShut (safeAll s) 3))) ∧
    (dvPaired s = false → exec .dhHeartbeatTimeout s = .next s ∧ exec (.heartbeatSend true) s = .next s ∧
      exec (.retransmitTimeout true cls) s = .next s ∧ exec .rollRetry s = .next s ∧ exec .keyRollStart s = .next s ∧
      exec .timeSyncSend s = .next s) ∧
    (dvPaired s = true → exec (.retransmitTimeout true cls) s = .next (ioSetF s aLINKCNT 16 16 (satAt 0xFFFF
      (ioF s aLINKCNT 16 16 + (s.dh.unacked.filter fun f => f.cls == cls.val).length)))) ∧
    (s.alive = true → lane.val ∉ s.dh.lanes → exec (.laneFailure true lane) s = .next (laneSet { s with
      dh := { s.dh with lanes := lane.val :: s.dh.lanes } } 6 (setBits (ioF s aDVSTAT 6 4) lane.val 1 1))) ∧
    (s.field.up = true → lane.val ∉ s.df.lanes → exec (.laneFailure false lane) s = .next { s with
      df := { s.df with lanes := lane.val :: s.df.lanes } }) ∧
    (dvPaired s = true → s.alive = true → exec (.hello w0 w1 st) s = .next (dhMacFail s)) ∧
    (dvPaired s = false → pairReady s = true →
      let t := laneRetrain (cipherCount (ioSetB s aDVSTAT 1 true) s.carrier st.toNat)
      (st ≠ 0 → exec (.hello w0 w1 st) s = .next (pairFail t)) ∧
      (st = 0 → exec (.hello w0 w1 st) s = .next (dhSend { bump t with
        dov := { t.dov with
          nf := BitVec.ofNat 36 (pay w1)
          nh := BitVec.ofNat 36 (freeVal t)
          replied := true
          freset := bitAt (pay w0) 4 } } ⟨0x02, natW 2, bitsW (BitVec.ofNat 36 (freeVal t)).toNat⟩))) ∧
    (∀ nf, s.field.up = true → fsReady s = true → s.field.paired = false → s.field.nf = some nf →
      exec .helloRepeat s = .next { bump s with
        df := s.df.send ⟨0x02, natW (1 + 16 * s.field.freset.toNat + 256 * (freeVal s % 256)), bitsW nf.toNat⟩ }) ∧
    (s.field.up = false → exec .helloRepeat s = .next s ∧ exec .fieldTimeUnsync s = .next s) ∧
    (∀ nf, s.field.nf = some nf → s.field.up = true → s.field.paired = false → s.field.keyed = false →
      exec (.reply w0 w1 false) s = .next (pairFail s) ∧
      exec (.reply w0 w1 true) s = .next { s with
        field := { s.field with
          nh := BitVec.ofNat 36 (pay w1)
          keyed := true }
        df := { s.df with key := firstKey s nf (BitVec.ofNat 36 (pay w1)) }.send ⟨0x02, natW 3, bitsW 0⟩ }) ∧
    (s.alive = true → s.dov.replied = true → s.field.keyed = true → dvPaired s = false → 2 ≤ lanesUp s.dh →
      2 ≤ lanesUp s.df →
      exec (.confirm false rtt) s = .next (pairFail s) ∧
      exec (.confirm true rtt) s = .next (sendWake (dfPaired (setCause (readyUp (raise (pairedBits (bothKeyed
        (cipherCount s s.carrier 0)) rtt.toNat) 384) 44) 2 false)))) ∧
    (let m : Msg := ⟨0x02, natW (4 + 256 * (s.dh.epoch + 1)), bitsW 0⟩
     dvPaired s = true →
      (s.dov.rolling = false → 2 ^ 24 ≤ s.dh.sent + s.df.sent → exec .keyRollStart s = .next { s with
        dh := { s.dh.send m with
          key := nextKey (s.dh.send m).key (s.dh.send m).epoch
          epoch := (s.dh.send m).epoch + 1
          sent := 0 }
        dov := { s.dov with rolling := true } }) ∧
      (s.dov.rolling = true → exec .keyRollStart s = .next s ∧
        exec .rollRetry s = .next (dhSend s ⟨0x02, natW (4 + 256 * s.dh.epoch), bitsW 0⟩))) ∧
    (DfReached s w0 w1 → exec (.roll false w0 w1) s = .next (rollDf (dfGot s 0) (bits (pay w0) 8 28))) ∧
    (DhReached s w0 w1 → bits (pay w0) 8 28 ≠ s.dh.epoch % 2 ^ 28 → exec (.roll true w0 w1) s = .next (dhGot s 0)) ∧
    (DhReached s w0 w1 → s.dov.rolling = true → bits (pay w0) 8 28 = s.dh.epoch % 2 ^ 28 → exec (.rollack w0 w1) s =
      .next { s with
        dh := { s.dh.take 0 with prevLeft := 64 }
        dov := { s.dov with rolling := false } }) ∧
    (DfReached s w0 w1 → bitAt (pay w0) 35 = false → exec (.echo false w0 w1) s =
      .next (dfSend (dfGot s 0) ⟨0x03, natW (pay w0 % 2 ^ 35 + 2 ^ 35), w1⟩)) ∧
    (∀ p, DhReached s w0 w1 → bitAt (pay w0) 35 = true → s.dov.echoes.find? (fun e => e.1 == pay w0 % 2 ^ 35) = some p →
      exec (.echo true w0 w1) s = .next (coreRecv { dhGot s 0 with
        dov := { s.dov with echoes := s.dov.echoes.erase p } } p.2 ⟨0x03, natW (pay w0 % 2 ^ 35 + 2 ^ 35), w1⟩)) ∧
    (DfReached s w0 w1 → exec (.timeSync w0 w1) s = .next { s with
      df := s.df.take 0
      field := { s.field with
        time := BitVec.ofNat 36 (pay w0 + ioF s aDVRTT 0 8 / 2)
        rate := signed 36 (pay w1)
        synced := true } }) ∧
    (dvPaired s = true → exec .timeSyncSend s = .next { s with
      dh := s.dh.send ⟨0x04, mkW .time (tbGet s 0 % 2 ^ 36), mkW .int (pay (ioGet s aTDRATE))⟩ }) ∧
    (s.field.up = true → exec .fieldTimeUnsync s = .next { s with field := { s.field with synced := false } }) ∧
    (dhHears s = true → exec (.unknownFrame true cls false) s = .next (dvDrop (dhGot s cls.val))) ∧
    (dfHears s = true → exec (.unknownFrame false cls false) s = .next (dfDrop (dfGot s cls.val))) ∧
    (dhHears s = false → exec (.unknownFrame true cls thr) s = .next s)

/-- R312, R314, R315, R326, R330, R333 to R339, R366, R382, R384 to R386, R388 to R390 and R520. DF's commands:
outputs, registers, safe states, the bypass, and the port controllers' images in both directions. DF's messages at DH:
samples and stamps into the sample ring, events to the hub, status to the shadow, faults, and received images. -/
def Obligations.FieldTraffic : Prop :=
  (∀ (s : State) (w0 w1 : Word) (p : Fin 12) (b : List Byte) (r : BitVec 2) (start : Payload) (ok : Bool),
    let t := dfGot s 1
    let x := pay w0
    let q := portOf s p.val
    (DfReached s w0 w1 → bits (pay w1) 33 3 < 2 → exec (.cmdOutLevels w0 w1) s = .next ((bitList 32 (pay w1)).foldl
      (fun s i => chCommand s (32 * bits (pay w1) 33 3 + i) 1 (bits x i 1)) t)) ∧
    (DfReached s w0 w1 → bits (pay w1) 33 3 = 2 →
      let u := pay w1 % 64
      exec (.cmdOutDac w0 w1) s = .next (
        if chSafe t u || fldB t fSUPSTAT 17 || (jigLevel t u).isSome then chIgnore t u
        else chUpdate (fldSetF t (fCHOUT u) 0 16 x) u)) ∧
    (DfReached s w0 w1 → bits (pay w1) 33 3 = 3 → exec (.cmdOutTrigger w0 w1) s = .next (trigStart t (x % 16))) ∧
    (DfReached s w0 w1 → bits (pay w1) 33 3 = 4 → exec (.cmdOutFlag w0 w1) s =
      .next (flagOp t (x % 8) (bits x 3 2) (bits x 5 2))) ∧
    (∀ u, DfReached s w0 w1 → cfgDo t (x % 2 ^ 16) (pay w1) = some u → exec (.cmdCfg w0 w1) s =
      .next (dfAnswer u (x % 2 ^ 16) false)) ∧
    (DfReached s w0 w1 → cfgDo t (x % 2 ^ 16) (pay w1) = none → exec (.cmdCfg w0 w1) s =
      .next (dfAnswer t (x % 2 ^ 16) true)) ∧
    (DfReached s w0 w1 → bitAt x 33 = false → exec (.safeSetEnter w0 w1) s =
      .next ((safeChannels x).foldl (fun s u => if chSafe s u then s else chUpdate (chSet s u 8 1 1) u) t)) ∧
    (DfReached s w0 w1 → bitAt x 33 = true →
      (supplyBad t = true → exec (.safeSetRelease w0 w1) s = .next (dfRefuse t)) ∧
      (supplyBad t = false → exec (.safeSetRelease w0 w1) s = .next ((safeChannels x).foldl (fun s u =>
        if chSafe s u then safeLeave s u else s) { t with field := { t.field with safe := false } }))) ∧
    (dfHears s = true →
      (fldB s fBYPSTAT 2 = true ∨ fldB s fBYPSTAT 0 = false → exec .bypassOpen s = .next t) ∧
      (fldB s fBYPSTAT 2 = false → fldB s fBYPSTAT 0 = true → fsReady s = true → fldB s fSUPSTAT 17 = false →
        exec .bypassOpen s = .next (dfStatus (fldSetF t fBYPSTAT 1 2 2) fBYPSTAT)) ∧
      (fldB s fBYPSTAT 2 = true ∨ fldB s fBYPSTAT 0 = false → exec .bypassClose s =
        .next (dfStatus (fldSetF (fldSetF t fBYPSTAT 0 3 1) fBYPSTAT 4 4 2) fBYPSTAT))) ∧
    (s.field.up = true → fldB s fBYPSTAT 2 = true → exec (.bypassTestDone true) s =
      .next (dfStatus (fldSetF s fBYPSTAT 0 3 2) fBYPSTAT)) ∧
    (s.field.up = true → fldB s fBYPSTAT 2 = false → exec (.bypassTestDone ok) s = .next s) ∧
    (0 < b.length → b.length ≤ 10 →
      (dfHears s = true → imagePort p.val = true → exec (.portTxFirst p b) s = .next (portGather (dfGot s 3) p.val b)) ∧
      (dfHears s = true → imagePort p.val = true → q.txPart = [] → exec (.portTxLater p b) s = .next (dfGot s 3)) ∧
      (dfHears s = true → imagePort p.val = true → q.txPart ≠ [] → exec (.portTxLater p b) s =
        .next (portGather (dfGot s 3) p.val (q.txPart ++ b)))) ∧
    (b.length = 0 ∨ 10 < b.length →
      exec (.portTxFirst p b) s = .fault .illFormed ∧ exec (.portTxLater p b) s = .fault .illFormed ∧
      exec (.portRxFirst p b) s = .fault .illFormed ∧ exec (.portRxLater p b) s = .fault .illFormed) ∧
    (∀ img l, q.txQ = img :: l → s.field.safe = false → exec (.portFrameSent p r) s =
      (let u := setPort s p.val { q with
        txQ := l
        busOff := q.busOff && r != 0 }
       .next (txReport (if r = 0 then emit u (.canTx p.val img) else u) p.val img.length r.toNat))) ∧
    (q.txQ = [] → exec (.portFrameSent p r) s = .next s) ∧
    (portOn s p.val = true → imagePort p.val = true → b.length < 2 ^ 12 →
      (8192 < rxHeld s p.val + b.length → exec (.portFrameReceived p b start) s =
        .next (setPort s p.val { q with rxDrop := q.rxDrop + 1 })) ∧
      (rxHeld s p.val + b.length ≤ 8192 → exec (.portFrameReceived p b start) s =
        .next (rxFlush (setPort s p.val { q with
          rxWait := q.rxWait ++ [rxBytes b start.toNat]
          busOff := false }) p.val))) ∧
    (portOn s p.val = true → exec (.portBusOff p) s =
      .next (dfFault (setPort s p.val { q with busOff := true }) 9 (some p.val))) ∧
    (portOn s p.val = false → exec (.portBusOff p) s = .next s)) ∧
  (∀ (s : State) (w0 w1 : Word) (p : Fin 12) (b : List Byte),
    let x := pay w0
    let y := pay w1
    (DhReached s w0 w1 →
      let t := dhGot s 2
      (let n := nearest28 (tbGet s 0) (bits y 8 28)
       exec (.sampleMsg w0 w1) s =
        .next (smpPut t [natW (4 * (y % 16) + 64 * bits y 4 4), w0, mkW .time (n % 2 ^ 36), mkW .wide (tbHi s 0)])) ∧
      (let u := smpPut t [natW (1 + 2 ^ 10 * (y % 64) + 2 ^ 16 * bits y 6 1 + 2 ^ 17 * bits y 7 1), natW 0, w0,
        mkW .wide (tbHi s 0)]
       (ppsFed u (y % 64) (bitAt y 6) = false → exec (.stampMsg w0 w1) s = .next u) ∧
       (ppsFed u (y % 64) (bitAt y 6) = true →
        let v := tdStamp u (nearest36 (tbGet u 0) x)
        exec (.stampMsg w0 w1) s = .next (readyFollow v 61 (ioB v aTDSTAT 0))))) ∧
    (DhReached s w0 w1 →
      let t := dhGot s 1
      (let n := x % 2 ^ 10
       let u := if n < 256 ∧ n % 4 = 0 then mirrorPut t (n / 4) (bitAt x 11) else t
       (bitAt x 12 = true ∨ 320 ≤ n → exec (.eventMsg w0 w1) s = .next u) ∧
       (bitAt x 12 = false → n < 320 → srcLevel u n = false → exec (.eventMsg w0 w1) s = .next (raise u n)) ∧
       (bitAt x 12 = false → n < 320 → srcLevel u n = true → exec (.eventMsg w0 w1) s =
        .next (if bitAt x 10 then assertLevel u n else withdrawLevel u n))) ∧
      (let f := x % 2 ^ 16
       (bitAt x 18 = false → bitAt x 17 = false → f < 0x1000 → exec (.statusMsg w0 w1) s =
        .next (shadowEffects (ioPut t (aSHADOW f) w1) f)) ∧
       (bitAt x 18 = false → bitAt x 17 = true → f < 0x200 ∨ 0x208 ≤ f → exec (.statusMsg w0 w1) s =
        .next (raise t 392)) ∧
       (bitAt x 18 = true → exec (.statusMsg w0 w1) s = .next (txReported t f (bits x 19 2) y))) ∧
      (let u := elWrite (raise t 393) 0x0C (bits x 8 8) 0 0 (x % 256) 0
       exec (.faultMsg w0 w1) s = .next (if x % 256 = 4 then tamper u 1 (some 15) else u))) ∧
    (0 < b.length → b.length ≤ 10 → dhHears s = true → imagePort p.val = true →
      let t := dhGot s 3
      let part := tabGet [] s.dov.rxImg p.val
      exec (.portRxFirst p b) s = .next (rxGather t p.val b) ∧
      (part = [] → exec (.portRxLater p b) s = .next t) ∧
      (part ≠ [] → exec (.portRxLater p b) s = .next (rxGather t p.val (part ++ b)))))

/-! ## The field die by itself -/

namespace Sys2Proof.Machine

/-- The field supply is measured as `v`: SUPSTAT carries it with UVW = `v` below UVWARN, and its load current is a free
value (R342, log entry 5). -/
def supplyReads (s : State) (v : Nat) : State :=
  let t := fldSetF (fldSetF s fSUPSTAT 0 16 v) fSUPSTAT 16 1 (if v < fldF s fSUPCFG 0 14 then 1 else 0)
  dfStatus (fldSetF (bump t) fSUPSTAT 21 11 (freeVal t)) fSUPSTAT

end Sys2Proof.Machine

/-- R317 to R323, R329, R331, R390. Channels of a field die out of reset: edges, thresholds, limiting and its latch, heat, load
shedding, the checks of outputs, and the heartwood drivers. That a level, a current or a time is reached is the command's
premise (log entry 4). -/
def Obligations.ChannelEvents : Prop :=
  ∀ (s : State) (u : Fin 64) (h : Fin 8) (rising b : Bool) (at_ : Payload) (mid : BitVec 14),
    s.field.up = true →
    let stat := fCHSTAT u.val
    (1 ≤ chMode s u.val → chMode s u.val ≤ 4 → fldB s stat 0 ≠ rising →
      exec (.channelEdge u rising at_) s = .next (edgeDo s u.val rising at_.toNat)) ∧
    (chMode s u.val = 0 ∨ 4 < chMode s u.val ∨ fldB s stat 0 = rising →
      exec (.channelEdge u rising at_) s = .next s) ∧
    (chMode s u.val = 0 ∨ 4 < chMode s u.val → exec (.thresholdTrack u mid) s = .next s) ∧
    (1 ≤ chMode s u.val → chMode s u.val ≤ 4 → fldB s (fCHTHR u.val) 32 = true →
      exec (.thresholdTrack u mid) s = .next (tcurPut s u.val (fldF s (fCHTHR u.val) 0 14) false)) ∧
    (1 ≤ chMode s u.val → chMode s u.val ≤ 4 → fldB s (fCHTHR u.val) 32 = false →
      fldF s (fCHTHR u.val) 0 14 ≤ mid.toNat → mid.toNat ≤ fldF s (fCHTHR u.val) 14 14 →
      exec (.thresholdTrack u mid) s = .next (tcurPut s u.val
        (if tcur s u.val < mid.toNat then tcur s u.val + 1
         else if mid.toNat < tcur s u.val then tcur s u.val - 1 else tcur s u.val) false)) ∧
    (1 ≤ chMode s u.val → chMode s u.val ≤ 4 → fldB s (fCHTHR u.val) 32 = false →
      mid.toNat < fldF s (fCHTHR u.val) 0 14 → tcur s u.val = fldF s (fCHTHR u.val) 0 14 →
      exec (.thresholdTrack u mid) s = .next (tcurPut s u.val (tcur s u.val) true)) ∧
    (chOutput s u.val = true → fldB s stat 4 = false → fldB s stat 6 = false →
      exec (.currentLimit u) s = .next (chSet s u.val 3 1 1)) ∧
    (chOutput s u.val = false ∨ fldB s stat 4 = true ∨ fldB s stat 6 = true → exec (.currentLimit u) s = .next s) ∧
    (exec (.currentLimitEnd u) s = .next (chSet s u.val 3 1 0)) ∧
    (fldB s stat 3 = true → exec (.shortLatch u) s = .next (chSet s u.val 3 2 2)) ∧
    (fldB s stat 3 = false → exec (.shortLatch u) s = .next s) ∧
    (fldB s (fCHCFG u.val) 26 = true → exec (.shortRetry u true) s = .next (chSet s u.val 4 1 0)) ∧
    (fldB s (fCHCFG u.val) 26 = false → exec (.shortRetry u b) s = .next s) ∧
    (exec (.shortRetry u false) s = .next s) ∧
    (chOutput s u.val = true ∨ chAnalogOut s u.val = true → exec (.thermalShutdown u) s =
      .next (chAfter (pay (fldGet s stat)) (fldSetF (fldSetF s stat 3 1 0) stat 6 1 1) u.val)) ∧
    (exec (.thermalRecover u) s = .next (chSet s u.val 6 1 0)) ∧
    (8 ≤ u.val → chOn s u.val = true → (∀ v < 64, u.val < v → chOn s v = false) →
      exec .loadShed s = .next (chSet s u.val 25 1 1)) ∧
    ((∀ v < 64, 8 ≤ v → chOn s v = false) → exec .loadShed s = .next s) ∧
    (chOutput s u.val = true → fldB s stat 3 = false → chMode s u.val ≠ 3 → fldB s stat 0 ≠ fldB s stat 1 →
      exec (.mismatch u) s = .next (chSet s u.val 2 1 1)) ∧
    (chMode s u.val = 3 → fldB s stat 3 = false → fldB s stat 0 = fldB s stat 1 →
      exec (.mismatch u) s = .next (chSet s u.val 2 1 1)) ∧
    (chOutput s u.val = false ∨ fldB s stat 3 = true → exec (.mismatch u) s = .next s) ∧
    (chMode s u.val = 2 ∨ chMode s u.val = 3 → fldB s stat 1 = false →
      exec (.openLoad u) s = .next (chSet s u.val 5 1 1)) ∧
    (chMode s u.val ≠ 2 ∧ chMode s u.val ≠ 3 ∨ fldB s stat 1 = true → exec (.openLoad u) s = .next s) ∧
    (exec (.openLoadClear u) s = .next (chSet s u.val 5 1 0)) ∧
    (let f := fHWCH h.val
     let d := b.toNat
     let t := fldSetF s f (3 + d) 1 1
     (fldB t f 1 = true → fldF t f 0 1 = d → fldB t f (4 - d) = false → exec (.driverFault h b) s =
      .next (dfStatus (fldSetF (fldSetF t f 0 1 (1 - d)) f 5 1 1) f)) ∧
     (fldB t f 1 = false ∨ fldF t f 0 1 ≠ d ∨ fldB t f (4 - d) = true → exec (.driverFault h b) s =
      .next (dfStatus t f)) ∧
     (fldB s f 5 = false → exec (.hwchSwitchDone h) s = .next s) ∧
     (fldB s f 5 = true → exec (.hwchSwitchDone h) s =
      .next (chSet (dfStatus (fldSetF s f 5 1 0) f) h.val 9 1 (fldF s f 0 1))) ∧
     (fldB s f 2 = true → exec (.standbyTest h false) s =
      .next (dfStatus (fldSetF s f (3 + (1 - fldF s f 0 1)) 1 1) f)) ∧
     (fldB s f 2 = false → exec (.standbyTest h b) s = .next s) ∧
     exec (.standbyTest h true) s = .next s)

/-- R325, R326, R342, R482, R483, R493, R521, R566. Measurement, the field supply, the resets of the field die, its self-tests, its
tamper causes and its one-time-programmable store. -/
def Obligations.FieldEvents : Prop :=
  ∀ (s : State) (t x : Fin 16) (code : BitVec 18) (mid : Payload) (v : BitVec 16) (k : FieldCause) (u : FieldUnit)
    (a : Nat) (w : BitVec 64),
    (s.field.up = true →
      (fldF s (fTRIG t.val) 0 2 = 1 → exec (.triggerPeriod t) s = .next (trigStart s t.val)) ∧
      (fldF s (fTRIG t.val) 0 2 ≠ 1 → exec (.triggerPeriod t) s = .next s) ∧
      ((x.val, t.val) ∉ s.field.convDue → exec (.conversionStart x t) s = .next s) ∧
      ((x.val, t.val) ∈ s.field.convDue →
        let r := { s with field := { s.field with convDue := s.field.convDue.erase (x.val, t.val) } }
        (fldB s (fXCFG x.val) 24 = true → exec (.conversionStart x t) s = .next (fldReport r (fXCFG x.val) 25 1 1)) ∧
        (fldB s (fXCFG x.val) 24 = false → mxReady s = false → exec (.conversionStart x t) s = .next r) ∧
        (fldB s (fXCFG x.val) 24 = false → mxReady s = true → exec (.conversionStart x t) s = .next (fldReport { r with
          field := { r.field with
            convIdx := tabSet 0 r.field.convIdx x.val 0
            convSum := tabSet (0, 0) r.field.convSum x.val (0, 0) } } (fXCFG x.val) 24 1 1))) ∧
      (fldB s (fXCFG x.val) 24 = false → exec (.conversionDone x code mid) s = .next s) ∧
      (∀ n sum, fldB s (fXCFG x.val) 24 = true → tabGet (0, 0) s.field.convSum x.val = (n, sum) →
        n + 1 < 2 ^ fldF s (fXCFG x.val) 20 3 → exec (.conversionDone x code mid) s = .next { s with
          field := { s.field with convSum := tabSet (0, 0) s.field.convSum x.val (n + 1, sum + code.toInt) } }) ∧
      (∀ n sum, fldB s (fXCFG x.val) 24 = true → tabGet (0, 0) s.field.convSum x.val = (n, sum) →
        2 ^ fldF s (fXCFG x.val) 20 3 ≤ n + 1 → (sum + code.toInt) % (2 ^ fldF s (fXCFG x.val) 20 3 : Nat) = 0 →
        let e := tabGet 0 s.field.convIdx x.val
        exec (.conversionDone x code mid) s = .next (scanNext (sampleDo (bump s) x.val e
          ((sum + code.toInt) / (2 ^ fldF s (fXCFG x.val) 20 3 : Nat)) mid.toNat) x.val e)) ∧
      (exec .fsWatchdog s = .next (modField (dfUnpair (bypassShut (safeAll s) 4)) fun f =>
        { f with waitFault := some 3 })) ∧
      (exec .fieldSupplyUp s = .next s) ∧
      (fldB s fSUPSTAT 17 = false → exec (.supplyUvEnter v) s = .next (dfFault (supplyReads (bypassShut (safeAll
        (fldSetF s fSUPSTAT 17 1 1)) 1) v.toNat) 1 none)) ∧
      (fldB s fSUPSTAT 17 = false → exec (.supplyUvExit v) s = .next s) ∧
      (fldB s fSUPSTAT 17 = true → exec (.supplyUvEnter v) s = .next s ∧
        exec (.supplyUvExit v) s = .next (supplyReads (fldSetF s fSUPSTAT 17 1 0) v.toNat)) ∧
      (exec (.supplyOv v) s = .next (supplyReads (fldSetF s fSUPSTAT 18 1 1) v.toNat)) ∧
      (fldB s fSUPSTAT 18 = true → fldB s fSUPSTAT 19 = false → exec .ovlongEnter s =
        .next (dfFault (supplyReads (safeAll (fldSetF s fSUPSTAT 19 1 1)) (fldF s fSUPSTAT 0 16)) 2 none)) ∧
      (fldB s fSUPSTAT 18 = false → exec .ovlongEnter s = .next s ∧ exec (.ovlongExit v) s = .next s) ∧
      (fldB s fSUPSTAT 18 = true → exec (.ovlongExit v) s =
        .next (supplyReads (fldSetF s fSUPSTAT 18 2 0) v.toNat)) ∧
      (exec (.supplyUvw v) s = .next (supplyReads s v.toNat)) ∧
      (exec (.fieldTamper k) s = .next (dfUnpair (bypassShut (safeAll (fldSetF (fldSetF s fFTAMPSTAT
        (match k with
          | .veneer => 0
          | .light => 1
          | .clock => 2
          | .temp => 3) 1 1) fFTAMPSTAT 4 1 1)) 6))) ∧
      (exec .fieldTemperatureWarning s = .next (dfStatus (fldSetF s fFTAMPSTAT 5 1
        (if fldB s fFTAMPSTAT 5 then 0 else 1)) fFTAMPSTAT)) ∧
      (let f := (unitPlace u).1
       let b := (unitPlace u).2.1
       let n := (unitPlace u).2.2
       (fsReady s = true → fldB s f b = false → n ∉ s.field.failed →
        exec (.fieldSelfTestDone u true) s = .next (dfStatus (fldSetF s f b 1 1) f) ∧
        exec (.fieldSelfTestDone u false) s = .next (dfFault (modField (bump s) fun x =>
          { x with failed := n :: x.failed }) (freeVal s % 256) (unitNo u))) ∧
       (fsReady s = false ∨ fldB s f b = true ∨ n ∈ s.field.failed →
        exec (.fieldSelfTestDone u true) s = .next s ∧ exec (.fieldSelfTestDone u false) s = .next s))) ∧
    (s.field.up = false →
      exec (.supplyOv v) s = .next s ∧ exec (.fieldTamper k) s = .next s ∧ exec .fsWatchdog s = .next s ∧
      exec .fieldSupplyUp s = .next (supplyReads (fldSetF (fldSetF (fldSetF { s with field := { s.field with up := true } }
        2 0 8 0xFF) 2 9 1 1) fSUPSTAT 20 1 1) 1600)) ∧
    (let r := { s with
      field := { Field.reset with otp := s.field.otp }
      df := { DvEnd.reset with lanes := s.df.lanes } }
     exec .fieldSupplyLoss s = .next { r with fld := s.fld.filter fun p => p.1 == fEPOCH } ∧
     exec .frstN s = .next { r with fld := s.fld.filter fun p => p.1 == fEPOCH || p.1 == fFTAMPSTAT }) ∧
    (tabGet none s.field.otp Config.otpLockRow = none → tabGet none s.field.otp a = none →
      exec (.otpProvisioning a w) s = .next { s with
        field := { s.field with otp := tabSet none s.field.otp a (some w) } }) ∧
    ((∃ v, tabGet none s.field.otp a = some v ∨ tabGet none s.field.otp Config.otpLockRow = some v) →
      exec (.otpProvisioning a w) s = .next s)

/-! ## The jigs -/

namespace Sys2Proof.Machine

/-- Jig `j`, which stalls in nothing, runs the instruction `i` next: it was injected (`inj`), or the jig runs and fetches it
at its PC (R349, R365). -/
def JigRuns (s : State) (j i : Nat) (inj : Bool) : Prop :=
  s.field.up = true ∧ (jigOf s j).stall = false ∧
    (if inj then ∃ w : BitVec 24, (jigOf s j).inj = some w ∧ w.toNat = i
     else (jigOf s j).inj = none ∧ (jigOf s j).run = true ∧ (jigOf s j).pc < 48 ∧ jStore s j (jigOf s j).pc % 2 ^ 24 = i)
/-- The instruction `i` stands in the latch of jig `j`; a fetched one has moved the PC, an injected one has not (R365). -/
def jigFetched (s : State) (j i : Nat) (inj : Bool) : State :=
  setJig s j (if inj then { jigOf s j with latch := BitVec.ofNat 24 i, inj := none }
    else { jigOf s j with latch := BitVec.ofNat 24 i, pc := (jigOf s j).pc + 1 })
/-- Jig `j` stalls in the instruction `i`. -/
def JigStalls (s : State) (j i : Nat) : Prop :=
  s.field.up = true ∧ (jigOf s j).stall = true ∧ (jigOf s j).latch.toNat = i
/-- The cycle of jig `j` that began in `s` ends in `t`: its pins have been seen, its registers are reported. -/
def jigCycle (s : State) (j : Nat) (rx : Option Nat) (t : State) : State := jigReport s (pinsSeen t j (pinsNow s j rx)) j
/-- Jig `j` halts with the fault `n` (R361): HALTC 3, jig event 1 raised, FAULT code 8 sent; the PC stays. -/
def jigHalted (s : State) (j n : Nat) : State :=
  dfFault (dfPulse (setJig s j { jigOf s j with
    run := false
    stall := false
    haltc := 3
    fault := n }) (257 + 2 * j) false) 8 (some j)
/-- Jig `j` took the fault `n` in place of its instruction, which has no effect; an injected instruction is gone. -/
def jigBad (s : State) (j n : Nat) (inj : Bool) : State :=
  jigReport s (jigHalted (setJig s j { jigOf s j with inj := if inj then none else (jigOf s j).inj }) j n) j

end Sys2Proof.Machine

/-- R346, R349 to R352, R361. BR, HOLD and SHIFT of a jig: a branch taken where COND differs from SENSE, a HOLD that ends or
stalls, a bit through the shifter in each of its four directions, and the faults 1 and 2. -/
def Obligations.JigControl : Prop :=
  (∀ (s : State) (j : Fin 32) (rx : BitVec 4) (i : Nat) (inj : Bool), JigRuns s j.val i inj →
    let t := jigFetched s j.val i inj
    let r := some rx.toNat
    let now := pinsNow s j.val r
    (jType i = 0 →
      (∀ b, jigCond t j.val (bits i 6 5) now = some b → b ≠ bitAt i 5 → exec (.jigBr j rx) s =
        .next (jigCycle s j.val r (setJig t j.val { jigOf t j.val with pc := bits i 11 6 }))) ∧
      (∀ b, jigCond t j.val (bits i 6 5) now = some b → b = bitAt i 5 → exec (.jigBr j rx) s =
        .next (jigCycle s j.val r t)) ∧
      (22 ≤ bits i 6 5 → exec (.jigBr j rx) s = .next (jigBad s j.val 2 inj))) ∧
    (10 ≤ jType i → exec (.jigBr j rx) s = .next (jigBad s j.val 2 inj)) ∧
    (jType i = 1 →
      (bits i 9 2 = 3 → exec (.jigHold j rx) s = .next (jigBad s j.val 2 inj)) ∧
      (bits i 9 2 ≠ 3 → holdMet t j.val i now = true → exec (.jigHold j rx) s =
        .next (jigCycle s j.val r (holdEnd t j.val i))) ∧
      (bits i 9 2 ≠ 3 → holdMet t j.val i now = false → exec (.jigHold j rx) s =
        .next (jigCycle s j.val r (setJig t j.val { jigOf t j.val with stall := true })))) ∧
    (jType i = 2 →
      let u := setJig t j.val { jigOf t j.val with
        left := bits i 7 6 + 1
        stall := true
        lord := if bitAt i 16 then (jigOf t j.val).lord else bitAt i 3 }
      (39 < bits i 7 6 ∨ bits i 4 2 = 3 → exec (.jigShift j rx) s = .next (jigBad s j.val 2 inj)) ∧
      (bits i 7 6 ≤ 39 → bits i 4 2 ≠ 3 → bitAt i 6 = true → exec (.jigShift j rx) s =
        .next (jigCycle s j.val r u)) ∧
      (bits i 7 6 ≤ 39 → bits i 4 2 ≠ 3 → bitAt i 6 = false → exec (.jigShift j rx) s =
        .next (jigCycle s j.val r (shiftDo u j.val i now))))) ∧
  (∀ (s : State) (j : Fin 32) (rx : BitVec 4) (i : Nat), JigStalls s j.val i →
    let r := some rx.toNat
    let now := pinsNow s j.val r
    (jType i = 1 → bits i 14 3 = 4 ∨ holdMet s j.val i now = true → exec (.jigHoldEnd j rx) s =
      .next (jigCycle s j.val r (holdEnd s j.val i))) ∧
    (jType i = 1 → bits i 14 3 ≠ 4 → holdMet s j.val i now = false → exec (.jigHoldEnd j rx) s =
      .next (jigCycle s j.val r s)) ∧
    (jType i = 2 → exec (.jigShiftBit j rx) s = .next (jigCycle s j.val r (shiftDo s j.val i now))) ∧
    (jType i ≠ 1 → exec (.jigHoldEnd j rx) s = .next s) ∧ (jType i ≠ 2 → exec (.jigShiftBit j rx) s = .next s)) ∧
  (∀ (s : State) (j : Fin 32) (rx : BitVec 4), s.field.up = true → (jigOf s j.val).stall = false →
    (jigOf s j.val).inj = none →
    ((jigOf s j.val).run = true → 48 ≤ (jigOf s j.val).pc → exec (.jigBr j rx) s =
      .next (jigReport s (jigHalted s j.val 1) j.val)) ∧
    ((jigOf s j.val).run = false → exec (.jigBr j rx) s = .next s)) ∧
  (∀ (g : Jig) (i : Nat) (pin : Bool),
    let p : BitVec 40 := if pin then 1#40 else 0#40
    let h := (shiftJig g i pin).1
    (bitAt i 16 = false → bitAt i 3 = false → h.shifter = (g.shifter <<< 1) ||| p) ∧
    (bitAt i 16 = false → bitAt i 3 = true → h.shifter = (g.shifter >>> 1) ||| (p <<< 39)) ∧
    (bitAt i 16 = true → bitAt i 3 = false → h.shifter = g.shifter <<< 1 ∧
      (shiftJig g i pin).2 = g.shifter.getLsbD 39) ∧
    (bitAt i 16 = true → bitAt i 3 = true → h.shifter = g.shifter >>> 1 ∧
      (shiftJig g i pin).2 = g.shifter.getLsbD 0) ∧
    (bitAt i 16 = false → h.fill = min 40 (g.fill + 1)) ∧ (bitAt i 16 = true → h.fill = g.fill - 1))

/-- R353 to R355, R357, R360, R362. SWAP, DRIVE, MARK and CRC of a jig, fetched or injected, with the faults 2 and 3 and the
stalls of the queues. -/
def Obligations.JigInstructions : Prop :=
  ∀ (s : State) (j : Fin 32) (i : Nat) (inj : Bool) (stamp : Payload), JigRuns s j.val i inj →
    let t := jigFetched s j.val i inj
    let g := jigOf t j.val
    let fin := fun h : Jig => jigCycle s j.val none (setJig t j.val h)
    let bad := fun n : Nat => jigBad s j.val n inj
    let place := fun w : Word => BitVec.ofNat 40 (pay w * (if bits i 13 2 = 1 then 16 else 1))
    (jIs 3 0 i = true →
      (bits i 13 2 = 3 → exec (.jigSwapOut j) s = .next (bad 2)) ∧
      (bits i 13 2 ≠ 3 → 8 ≤ g.up.length → exec (.jigSwapOut j) s = .next (fin { g with stall := true })) ∧
      (bits i 13 2 ≠ 3 → g.up.length < 8 → exec (.jigSwapOut j) s = .next (fin (if bitAt i 12
        then { g with stall := false, up := g.up ++ [swapWord g i] }
        else { g with stall := false, up := g.up ++ [swapWord g i], shifter := 0#40, fill := 0 })))) ∧
    (jIs 3 1 i = true →
      (2 ≤ bits i 13 2 ∨ 40 < bits i 6 6 → exec (.jigSwapIn j) s = .next (bad 2)) ∧
      (bits i 13 2 < 2 → bits i 6 6 ≤ 40 → g.down = [] → exec (.jigSwapIn j) s = .next (fin { g with stall := true })) ∧
      (∀ w l, bits i 13 2 < 2 → bits i 6 6 ≤ 40 → g.down = w :: l → exec (.jigSwapIn j) s =
        .next (jigCycle s j.val none (jigCredit (setJig t j.val { g with
          stall := false
          shifter := place w
          fill := bits i 6 6
          down := l }) j.val 1)))) ∧
    (jIs 3 2 i = true → bits i 13 2 < 2 → bits i 6 6 ≤ 40 →
      (8 ≤ g.up.length ∨ g.down = [] → exec (.jigSwapExch j) s = .next (fin { g with stall := true })) ∧
      (∀ w l, g.up.length < 8 → g.down = w :: l → exec (.jigSwapExch j) s =
        .next (jigCycle s j.val none (jigCredit (setJig t j.val { g with
          stall := false
          up := g.up ++ [swapWord g i]
          shifter := place w
          fill := bits i 6 6
          down := l }) j.val 1)))) ∧
    (jIs 3 3 i = true → exec (.jigSwapClear j) s = .next (fin { g with
      stall := false
      shifter := 0#40
      fill := 0 })) ∧
    (jType i = 4 → bitAt i 16 = false → exec (.jigDriveLevels j) s = .next (jigCycle s j.val none
      (jigFollow (setJig t j.val { g with levels := merge8 g.levels (bits i 8 8) (bits i 0 8) }) j.val))) ∧
    (jType i = 4 → bitAt i 16 = true →
      ((∃ p ∈ bitList 8 (bits i 8 8 &&& bits i 0 8), bitAt (jpin s j.val p) 7 = false ∨ bitAt (jpin s j.val p) 8 = false) →
        exec (.jigDriveDirections j) s = .next (bad 3)) ∧
      ((∀ p ∈ bitList 8 (bits i 8 8 &&& bits i 0 8), bitAt (jpin s j.val p) 7 = true ∧ bitAt (jpin s j.val p) 8 = true) →
        exec (.jigDriveDirections j) s = .next (jigCycle s j.val none ((bitList 8 (bits i 8 8)).foldl
          (fun s p => dfStatus s (fJPIN j.val p)) (jigFollow (setJig t j.val { g with
            dirs := merge8 g.dirs (bits i 8 8) (bits i 0 8) }) j.val))))) ∧
    (jType i = 6 →
      let u := setJig t j.val { g with markAt := stamp }
      let h := jigOf u j.val
      (8 ≤ h.up.length → exec (.jigMark j stamp) s = .next (jigCycle s j.val none (setJig u j.val { h with
        stall := true }))) ∧
      (h.up.length < 8 → exec (.jigMark j stamp) s = .next (jigCycle s j.val none (setJig (bump u) j.val { h with
        stall := false
        up := h.up ++ [markWord u j.val i]
        unsync := h.unsync || !s.field.synced }))) ∧
      (bitAt i 16 = false → markWord u j.val i = mkW .time h.markAt.toNat)) ∧
    (jCrc 0 i = true →
      (∀ w p, crcPoly (bits i 13 4) = some (w, p) → exec (.jigCrcInit j) s = .next (fin { g with
        crc := if bitAt i 10 then 2 ^ w - 1 else 0
        poly := bits i 13 4 })) ∧
      (8 < bits i 13 4 → exec (.jigCrcInit j) s = .next (bad 2))) ∧
    (jCrc 1 i = true → exec (.jigCrcArm j) s = .next (fin { g with armed := true })) ∧
    (jCrc 2 i = true → exec (.jigCrcDisarm j) s = .next (fin { g with armed := false })) ∧
    (jCrc 3 i = true → ∀ w p, crcPoly g.poly = some (w, p) → exec (.jigCrcCopy j) s = .next (fin { g with
      shifter := BitVec.ofNat 40 (if bitAt i 9 then g.crc * 2 ^ (40 - w) else g.crc)
      fill := w }))

/-- R356, R358, R359. COUNT, SIGNAL and MATCH of a jig, fetched or injected, with the faults 2 and 4. -/
def Obligations.JigCountSignalMatch : Prop :=
  ∀ (s : State) (j : Fin 32) (i : Nat) (inj : Bool), JigRuns s j.val i inj →
    let t := jigFetched s j.val i inj
    let g := jigOf t j.val
    let fin := fun h : Jig => jigCycle s j.val none (setJig t j.val h)
    let bad := fun n : Nat => jigBad s j.val n inj
    let ctr := if bitAt i 14 then g.ctrB else g.ctrA
    let put := fun v : BitVec 20 => if bitAt i 14 then { g with ctrB := v } else { g with ctrA := v }
    let opnd := bits i 0 14
    (jIs 5 0 i = true → exec (.jigCountLoad j) s = .next (fin (put (BitVec.ofNat 20 opnd)))) ∧
    (jIs 5 1 i = true →
      (bitAt i 13 = true → exec (.jigCountLoadSource j) s = .next (fin (put (BitVec.ofNat 20 (jigView g))))) ∧
      (bitAt i 13 = false → bits i 0 6 ≤ 47 → exec (.jigCountLoadSource j) s =
        .next (fin (put (BitVec.ofNat 20 (jStore s j.val (bits i 0 6)))))) ∧
      (bitAt i 13 = false → 47 < bits i 0 6 → exec (.jigCountLoadSource j) s = .next (bad 4))) ∧
    (jIs 5 2 i = true → exec (.jigCountStep j) s = .next (fin (put (if bitAt i 13 then ctr + 1#20 else ctr - 1#20)))) ∧
    (jIs 5 3 i = true → exec (.jigCountCompare j) s = .next (fin { g with cf := decide (ctr = BitVec.ofNat 20 opnd) })) ∧
    (jType i = 7 →
      let u := if bitAt i 16 then dfPulse t (256 + 2 * j.val) false else t
      let v := flagOp u (j.val / 4) (bits i 12 2) (bits i 14 2)
      exec (.jigSignal j) s = .next (jigCycle s j.val none (if bitAt i 11
        then dfPulse (setJig v j.val { jigOf v j.val with run := false, haltc := 2 }) (257 + 2 * j.val) false
        else v))) ∧
    (jIs 8 0 i = true → exec (.jigMatchCompare j) s = .next (fin { g with
      mf := decide ((g.shifter ^^^ g.pat) &&& g.mask = 0#40) })) ∧
    (jIs 8 3 i = true → exec (.jigMatchCompare j) s = .next (bad 2)) ∧
    (jIs 8 1 i = true →
      (bits i 0 6 ≤ 47 → exec (.jigMatchLoadPat j) s = .next (fin { g with
        pat := BitVec.ofNat 40 (jStore s j.val (bits i 0 6)) })) ∧
      (47 < bits i 0 6 → exec (.jigMatchLoadPat j) s = .next (bad 4))) ∧
    (jIs 8 2 i = true →
      (bits i 0 6 ≤ 47 → exec (.jigMatchLoadMask j) s = .next (fin { g with
        mask := BitVec.ofNat 40 (jStore s j.val (bits i 0 6)) })) ∧
      (47 < bits i 0 6 → exec (.jigMatchLoadMask j) s = .next (bad 4)))

/-- R362 to R366, R380, R482, R483. The jigs' messages: JIG-PROG, JIG-INJECT, JIG-CTL, and the words of their queues. -/
def Obligations.JigMessages : Prop :=
  ∀ (s : State) (w0 w1 : Word) (j : Fin 32),
    let t := dfGot s 1
    let a := pay w0
    let n := bits a 0 3
    let k := bits a 3 6
    let js := (bitList 4 (bits a 3 4)).map (· + 4 * n)
    (DfReached s w0 w1 →
      (47 < k ∨ bitAt a 9 = true ∧ k = 47 → exec (.jigProg w0 w1) s = .next (dfRefuse t)) ∧
      (k ≤ 47 → bitAt a 9 = false → exec (.jigProg w0 w1) s =
        .next (dfStatus (fldPut t (fJSTORE n k) (bitsW (pay w1))) (fJSTORE n k))) ∧
      (k < 47 → bitAt a 9 = true → exec (.jigProg w0 w1) s = .next (jStorePut (dfStatus (fldPut t (fJSTORE n k)
        (bitsW (bits a 12 24))) (fJSTORE n k)) n (k + 1) (pay w1 % 2 ^ 24)))) ∧
    (DfReached s w0 w1 →
      let d := a % 32
      let g := jigOf t d
      let sent := fun h : Jig => jigReport t (setJig t d h) d
      (∀ q, g.inj = some q → exec (.jigInject w0 w1) s = .next (sent { g with injref := min 15 (g.injref + 1) })) ∧
      (g.inj = none → bitAt a 5 = false → exec (.jigInject w0 w1) s =
        .next (sent { g with inj := some (BitVec.ofNat 24 (bits a 12 24)) })) ∧
      (g.inj = none → bitAt a 5 = true → g.stall = true → jType g.latch.toNat = 2 → exec (.jigInject w0 w1) s =
        .next (sent { g with
          stall := false
          scnt := bits g.latch.toNat 7 6 + 1 - g.left
          inj := some (BitVec.ofNat 24 (bits a 12 24)) })) ∧
      (g.inj = none → bitAt a 5 = true → g.stall = true → jType g.latch.toNat = 1 ∨ jType g.latch.toNat = 3 →
        exec (.jigInject w0 w1) s = .next (sent { g with
          stall := false
          inj := some (BitVec.ofNat 24 (bits a 12 24)) }))) ∧
    (DfReached s w0 w1 → bits a 7 2 = 0 →
      (grpReady s n = true → exec (.jigStart w0 w1) s = .next (js.foldl (fun s j => jigReport s (setJig s j
        { jigOf s j with pc := bits a 9 6, run := true }) j) t)) ∧
      (grpReady s n = false → exec (.jigStart w0 w1) s = .next (dfRefuse t))) ∧
    (DfReached s w0 w1 → bits a 7 2 = 1 → exec (.jigStop w0 w1) s = .next (js.foldl (fun s j => jigReport s (setJig s j
      (jigStopOne (jigOf s j))) j) t)) ∧
    (DfReached s w0 w1 → bits a 7 2 = 2 → exec (.jigReset w0 w1) s = .next (js.foldl (fun s j => jigCredit (jigReport s
      (setJig s j (jigResetOne (jigOf s j))) j) j (jigOf s j).down.length) t)) ∧
    (DhReached s w0 w1 → exec (.qword true w0 w1) s =
      .next (coreRecv (dhGot s 2) (ioF s (aSHADOW (fJCFG (a % 32))) 22 5) ⟨0x20, w0, w1⟩)) ∧
    (DfReached s w0 w1 → exec (.qword false w0 w1) s = .next (jigReport (dfGot s 2) (setJig (dfGot s 2) (a % 32)
      { jigOf s (a % 32) with down := (jigOf s (a % 32)).down ++ [w1] }) (a % 32))) ∧
    (let c := fldF s (fJCFG j.val) 22 5
     let cred := tabGet 16 s.field.coreCred c
     ((jigOf s j.val).up = [] ∨ s.field.paired = false ∨ cred = 0 → exec (.upQueueSend j) s = .next s) ∧
     (∀ w l, (jigOf s j.val).up = w :: l → s.field.paired = true → 0 < cred → exec (.upQueueSend j) s =
      (let u := dfSend { s with field := { s.field with coreCred := tabSet 16 s.field.coreCred c (cred - 1) } }
        ⟨0x20, natW j.val, w⟩
       .next (jigReport s (setJig u j.val { jigOf s j.val with up := l }) j.val))))
end

