-- ==== Sys2Proof/Laws/Tab.lean ====
section
/-! SUPPORT. Laws of sparse tables: reading after writing, and that every operation keeps the canonical form. -/

namespace Sys2Proof.Machine

variable {α : Type}

theorem tabGet_tabDel_ne (d : α) (t : Tab α) (k j : Nat) (h : j ≠ k) : tabGet d (tabDel t k) j = tabGet d t j := by
  induction t with
  | nil => rfl
  | cons p t ih =>
    obtain ⟨i, v⟩ := p
    simp only [tabDel]
    split
    · next e => simp [tabGet, show i ≠ j from fun x => h (x ▸ e)]
    · simp [tabGet, ih]

theorem tabGet_tabIns (d v : α) (t : Tab α) (k j : Nat) :
    tabGet d (tabIns v t k) j = if j = k then v else tabGet d t j := by
  induction t with
  | nil => by_cases h : k = j <;> simp [tabIns, tabGet, h, eq_comm]
  | cons p t ih =>
    obtain ⟨i, w⟩ := p
    simp only [tabIns]
    split
    · by_cases h : k = j <;> simp [tabGet, h, eq_comm]
    · split
      · next e => by_cases h : k = j <;> simp [tabGet, e, h, eq_comm]
      · next e =>
        simp only [tabGet, ih]
        split
        · next f => simp [show j ≠ k from fun x => e (f.trans x)]
        · rfl

section
variable [DecidableEq α]

/-- The bound that follows a listed key. -/
theorem tabWf_mono {d : Nat → α} {t : Tab α} {l m : Option Nat} (h : tabWf d l t = true)
    (hlm : ∀ a b, m = some a → l = some b → a ≤ b) (hn : l = none → m = none) : tabWf d m t = true := by
  cases t with
  | nil => rfl
  | cons p t =>
    obtain ⟨j, v⟩ := p
    cases l with
    | none => rw [hn rfl]; exact h
    | some l =>
      cases m with
      | none => simp [tabWf] at *; exact ⟨h.1.2, h.2⟩
      | some m =>
        have := hlm m l rfl rfl
        simp [tabWf] at *
        exact ⟨⟨Nat.lt_of_le_of_lt this h.1.1, h.1.2⟩, h.2⟩

theorem tabWf_weaken {d : Nat → α} {t : Tab α} {l : Nat} (h : tabWf d (some l) t = true) : tabWf d none t = true := by
  cases t with
  | nil => rfl
  | cons p t => simp [tabWf] at *; exact ⟨h.1.2, h.2⟩

theorem tabGet_of_lo {d : Nat → α} (e : α) {t : Tab α} {l k : Nat} (h : tabWf d (some l) t = true) (hk : k ≤ l) :
    tabGet e t k = e := by
  induction t generalizing l with
  | nil => rfl
  | cons p t ih =>
    obtain ⟨j, v⟩ := p
    simp [tabWf] at h
    simp only [tabGet]
    rw [if_neg (by omega), ih h.2 (by omega)]

theorem tabGet_tabDel_self {d : Nat → α} (e : α) {t : Tab α} {lo : Option Nat} (k : Nat) (h : tabWf d lo t = true) :
    tabGet e (tabDel t k) k = e := by
  induction t generalizing lo with
  | nil => rfl
  | cons p t ih =>
    obtain ⟨j, v⟩ := p
    simp only [tabWf, Bool.and_eq_true] at h
    simp only [tabDel]
    split
    · next hj => exact tabGet_of_lo e h.2 (by omega)
    · next hj => simp only [tabGet, if_neg hj]; exact ih h.2

/-- Reading a table after writing one key of it. -/
theorem tabGet_tabSet {e : Nat → α} {t : Tab α} {lo : Option Nat} (k j : Nat) (v : α) (h : tabWf e lo t = true) :
    tabGet (e j) (tabSet (e k) t k v) j = if j = k then v else tabGet (e j) t j := by
  unfold tabSet
  split
  · next hv =>
    by_cases hj : j = k
    · subst hj; simp [hv, tabGet_tabDel_self _ _ h]
    · simp [hj, tabGet_tabDel_ne _ _ _ _ hj]
  · exact tabGet_tabIns ..

/-- Another key reads as before, whatever the table. -/
theorem tabGet_tabSet_ne (d e : α) (t : Tab α) (k j : Nat) (v : α) (h : j ≠ k) :
    tabGet d (tabSet e t k v) j = tabGet d t j := by
  unfold tabSet
  split
  · exact tabGet_tabDel_ne _ _ _ _ h
  · simp [tabGet_tabIns, h]

theorem tabWf_tabDel {d : Nat → α} {t : Tab α} {lo : Option Nat} (k : Nat) (h : tabWf d lo t = true) :
    tabWf d lo (tabDel t k) = true := by
  induction t generalizing lo with
  | nil => rfl
  | cons p t ih =>
    obtain ⟨j, v⟩ := p
    simp only [tabDel]
    simp only [tabWf, Bool.and_eq_true] at h
    split
    · refine tabWf_mono h.2 (fun a b ha hb => ?_) (by simp)
      subst ha; simp at hb h; omega
    · simp only [tabWf, Bool.and_eq_true]
      exact ⟨h.1, ih h.2⟩

theorem tabWf_tabIns {d : Nat → α} {t : Tab α} {lo : Option Nat} (k : Nat) {v : α} (hv : v ≠ d k)
    (hl : ∀ l, lo = some l → l < k) (h : tabWf d lo t = true) : tabWf d lo (tabIns v t k) = true := by
  induction t generalizing lo with
  | nil => cases lo <;> simp [tabIns, tabWf, hv]; exact hl _ rfl
  | cons p t ih =>
    obtain ⟨j, w⟩ := p
    simp only [tabIns]
    simp only [tabWf, Bool.and_eq_true, decide_eq_true_eq] at h
    split
    · simp only [tabWf, Bool.and_eq_true, decide_eq_true_eq]
      exact ⟨⟨by cases lo <;> simp; exact hl _ rfl, hv⟩, ⟨by assumption, h.1.2⟩, h.2⟩
    · split
      · next e =>
        subst e
        simp only [tabWf, Bool.and_eq_true, decide_eq_true_eq]
        exact ⟨⟨h.1.1, hv⟩, h.2⟩
      · simp only [tabWf, Bool.and_eq_true, decide_eq_true_eq]
        exact ⟨h.1, ih (fun l e => by simp at e; omega) h.2⟩

/-- Writing a key keeps the canonical form. -/
theorem tabWf_tabSet {d : Nat → α} {t : Tab α} (k : Nat) (v : α) (h : tabWf d none t = true) :
    tabWf d none (tabSet (d k) t k v) = true := by
  unfold tabSet
  split
  · exact tabWf_tabDel k h
  · next hv => exact tabWf_tabIns k hv (by simp) h

/-- Dropping entries keeps the canonical form. -/
theorem tabWf_filter {d : Nat → α} {t : Tab α} {lo : Option Nat} (f : Nat × α → Bool) (h : tabWf d lo t = true) :
    tabWf d lo (t.filter f) = true := by
  induction t generalizing lo with
  | nil => rfl
  | cons p t ih =>
    obtain ⟨j, v⟩ := p
    simp only [tabWf, Bool.and_eq_true] at h
    simp only [List.filter]
    split
    · simp only [tabWf, Bool.and_eq_true]; exact ⟨h.1, ih h.2⟩
    · refine ih (tabWf_mono h.2 (fun a b ha hb => ?_) (by simp))
      subst ha; simp at hb h; omega

omit [DecidableEq α] in
/-- A read of a table without some entries. -/
theorem tabGet_filter_keep (d : α) (t : Tab α) (f : Nat × α → Bool) (k : Nat) (h : ∀ v, f (k, v) = true) :
    tabGet d (t.filter f) k = tabGet d t k := by
  induction t with
  | nil => rfl
  | cons p t ih =>
    obtain ⟨j, v⟩ := p
    by_cases hj : j = k
    · subst hj; simp [List.filter, h, tabGet]
    · simp only [List.filter]
      split <;> simp [tabGet, hj, ih]

omit [DecidableEq α] in
/-- A key all of whose entries go reads as unlisted. -/
theorem tabGet_filter_drop (d : α) (t : Tab α) (f : Nat × α → Bool) (k : Nat) (h : ∀ v, f (k, v) = false) :
    tabGet d (t.filter f) k = d := by
  induction t with
  | nil => rfl
  | cons p t ih =>
    obtain ⟨j, v⟩ := p
    simp only [List.filter]
    split
    · next hf =>
      have : j ≠ k := fun e => by subst e; simp [h] at hf
      simp [tabGet, this, ih]
    · exact ih

end

end Sys2Proof.Machine
end

