-- ==== Sys2Proof/Laws/State.lean ====
section
/-! SUPPORT. What each primitive update of the state leaves as it is, one lemma for each field, and what it makes of
the field that it changes. -/

namespace Sys2Proof.Machine

@[simp] theorem ioPut_pending (s : State) (a : Nat) (w : Word) : (ioPut s a w).pending = s.pending := (rfl)
@[simp] theorem ioPut_fld (s : State) (a : Nat) (w : Word) : (ioPut s a w).fld = s.fld := (rfl)
@[simp] theorem ioPut_bar (s : State) (a : Nat) (w : Word) : (ioPut s a w).bar = s.bar := (rfl)
@[simp] theorem ioPut_mem (s : State) (a : Nat) (w : Word) : (ioPut s a w).mem = s.mem := (rfl)
@[simp] theorem ioPut_eccBad (s : State) (a : Nat) (w : Word) : (ioPut s a w).eccBad = s.eccBad := (rfl)
@[simp] theorem ioPut_eccSoft (s : State) (a : Nat) (w : Word) : (ioPut s a w).eccSoft = s.eccSoft := (rfl)
@[simp] theorem ioPut_rowErrs (s : State) (a : Nat) (w : Word) : (ioPut s a w).rowErrs = s.rowErrs := (rfl)
@[simp] theorem ioPut_cs (s : State) (a : Nat) (w : Word) : (ioPut s a w).cs = s.cs := (rfl)
@[simp] theorem ioPut_csBad (s : State) (a : Nat) (w : Word) : (ioPut s a w).csBad = s.csBad := (rfl)
@[simp] theorem ioPut_csSoft (s : State) (a : Nat) (w : Word) : (ioPut s a w).csSoft = s.csSoft := (rfl)
@[simp] theorem ioPut_cores (s : State) (a : Nat) (w : Word) : (ioPut s a w).cores = s.cores := (rfl)
@[simp] theorem ioPut_tb (s : State) (a : Nat) (w : Word) : (ioPut s a w).tb = s.tb := (rfl)
@[simp] theorem ioPut_svCycle (s : State) (a : Nat) (w : Word) : (ioPut s a w).svCycle = s.svCycle := (rfl)
@[simp] theorem ioPut_fresh (s : State) (a : Nat) (w : Word) : (ioPut s a w).fresh = s.fresh := (rfl)
@[simp] theorem ioPut_leaseAt (s : State) (a : Nat) (w : Word) : (ioPut s a w).leaseAt = s.leaseAt := (rfl)
@[simp] theorem ioPut_nearLease (s : State) (a : Nat) (w : Word) : (ioPut s a w).nearLease = s.nearLease := (rfl)
@[simp] theorem ioPut_cmpDue (s : State) (a : Nat) (w : Word) : (ioPut s a w).cmpDue = s.cmpDue := (rfl)
@[simp] theorem ioPut_bankChg (s : State) (a : Nat) (w : Word) : (ioPut s a w).bankChg = s.bankChg := (rfl)
@[simp] theorem ioPut_marching (s : State) (a : Nat) (w : Word) : (ioPut s a w).marching = s.marching := (rfl)
@[simp] theorem ioPut_repairing (s : State) (a : Nat) (w : Word) : (ioPut s a w).repairing = s.repairing := (rfl)
@[simp] theorem ioPut_asserted (s : State) (a : Nat) (w : Word) : (ioPut s a w).asserted = s.asserted := (rfl)
@[simp] theorem ioPut_lastAny (s : State) (a : Nat) (w : Word) : (ioPut s a w).lastAny = s.lastAny := (rfl)
@[simp] theorem ioPut_tdLast (s : State) (a : Nat) (w : Word) : (ioPut s a w).tdLast = s.tdLast := (rfl)
@[simp] theorem ioPut_jobs (s : State) (a : Nat) (w : Word) : (ioPut s a w).jobs = s.jobs := (rfl)
@[simp] theorem ioPut_ciphQ (s : State) (a : Nat) (w : Word) : (ioPut s a w).ciphQ = s.ciphQ := (rfl)
@[simp] theorem ioPut_keysKept (s : State) (a : Nat) (w : Word) : (ioPut s a w).keysKept = s.keysKept := (rfl)
@[simp] theorem ioPut_ledger (s : State) (a : Nat) (w : Word) : (ioPut s a w).ledger = s.ledger := (rfl)
@[simp] theorem ioPut_entries (s : State) (a : Nat) (w : Word) : (ioPut s a w).entries = s.entries := (rfl)
@[simp] theorem ioPut_waits (s : State) (a : Nat) (w : Word) : (ioPut s a w).waits = s.waits := (rfl)
@[simp] theorem ioPut_expSeq (s : State) (a : Nat) (w : Word) : (ioPut s a w).expSeq = s.expSeq := (rfl)
@[simp] theorem ioPut_rotor (s : State) (a : Nat) (w : Word) : (ioPut s a w).rotor = s.rotor := (rfl)
@[simp] theorem ioPut_cqUsed (s : State) (a : Nat) (w : Word) : (ioPut s a w).cqUsed = s.cqUsed := (rfl)
@[simp] theorem ioPut_cqHead (s : State) (a : Nat) (w : Word) : (ioPut s a w).cqHead = s.cqHead := (rfl)
@[simp] theorem ioPut_msiSent (s : State) (a : Nat) (w : Word) : (ioPut s a w).msiSent = s.msiSent := (rfl)
@[simp] theorem ioPut_spool (s : State) (a : Nat) (w : Word) : (ioPut s a w).spool = s.spool := (rfl)
@[simp] theorem ioPut_spoolPos (s : State) (a : Nat) (w : Word) : (ioPut s a w).spoolPos = s.spoolPos := (rfl)
@[simp] theorem ioPut_readyPend (s : State) (a : Nat) (w : Word) : (ioPut s a w).readyPend = s.readyPend := (rfl)
@[simp] theorem ioPut_acQ (s : State) (a : Nat) (w : Word) : (ioPut s a w).acQ = s.acQ := (rfl)
@[simp] theorem ioPut_cqOff (s : State) (a : Nat) (w : Word) : (ioPut s a w).cqOff = s.cqOff := (rfl)
@[simp] theorem ioPut_sess (s : State) (a : Nat) (w : Word) : (ioPut s a w).sess = s.sess := (rfl)
@[simp] theorem ioPut_sessClock (s : State) (a : Nat) (w : Word) : (ioPut s a w).sessClock = s.sessClock := (rfl)
@[simp] theorem ioPut_config (s : State) (a : Nat) (w : Word) : (ioPut s a w).config = s.config := (rfl)
@[simp] theorem ioPut_locked (s : State) (a : Nat) (w : Word) : (ioPut s a w).locked = s.locked := (rfl)
@[simp] theorem ioPut_shimBusy (s : State) (a : Nat) (w : Word) : (ioPut s a w).shimBusy = s.shimBusy := (rfl)
@[simp] theorem ioPut_hookDone (s : State) (a : Nat) (w : Word) : (ioPut s a w).hookDone = s.hookDone := (rfl)
@[simp] theorem ioPut_elArmed (s : State) (a : Nat) (w : Word) : (ioPut s a w).elArmed = s.elArmed := (rfl)
@[simp] theorem ioPut_lringSent (s : State) (a : Nat) (w : Word) : (ioPut s a w).lringSent = s.lringSent := (rfl)
@[simp] theorem ioPut_clOff (s : State) (a : Nat) (w : Word) : (ioPut s a w).clOff = s.clOff := (rfl)
@[simp] theorem ioPut_islReset (s : State) (a : Nat) (w : Word) : (ioPut s a w).islReset = s.islReset := (rfl)
@[simp] theorem ioPut_hlOff (s : State) (a : Nat) (w : Word) : (ioPut s a w).hlOff = s.hlOff := (rfl)
@[simp] theorem ioPut_straps (s : State) (a : Nat) (w : Word) : (ioPut s a w).straps = s.straps := (rfl)
@[simp] theorem ioPut_alive (s : State) (a : Nat) (w : Word) : (ioPut s a w).alive = s.alive := (rfl)
@[simp] theorem ioPut_refLost (s : State) (a : Nat) (w : Word) : (ioPut s a w).refLost = s.refLost := (rfl)
@[simp] theorem ioPut_vidLow (s : State) (a : Nat) (w : Word) : (ioPut s a w).vidLow = s.vidLow := (rfl)
@[simp] theorem ioPut_dbg (s : State) (a : Nat) (w : Word) : (ioPut s a w).dbg = s.dbg := (rfl)
@[simp] theorem ioPut_dh (s : State) (a : Nat) (w : Word) : (ioPut s a w).dh = s.dh := (rfl)
@[simp] theorem ioPut_df (s : State) (a : Nat) (w : Word) : (ioPut s a w).df = s.df := (rfl)
@[simp] theorem ioPut_dov (s : State) (a : Nat) (w : Word) : (ioPut s a w).dov = s.dov := (rfl)
@[simp] theorem ioPut_field (s : State) (a : Nat) (w : Word) : (ioPut s a w).field = s.field := (rfl)
@[simp] theorem ioPut_splice (s : State) (a : Nat) (w : Word) : (ioPut s a w).splice = s.splice := (rfl)
@[simp] theorem ioPut_carrier (s : State) (a : Nat) (w : Word) : (ioPut s a w).carrier = s.carrier := (rfl)
@[simp] theorem ioPut_out (s : State) (a : Nat) (w : Word) : (ioPut s a w).out = s.out := (rfl)

@[simp] theorem fldPut_pending (s : State) (a : Nat) (w : Word) : (fldPut s a w).pending = s.pending := (rfl)
@[simp] theorem fldPut_io (s : State) (a : Nat) (w : Word) : (fldPut s a w).io = s.io := (rfl)
@[simp] theorem fldPut_bar (s : State) (a : Nat) (w : Word) : (fldPut s a w).bar = s.bar := (rfl)
@[simp] theorem fldPut_mem (s : State) (a : Nat) (w : Word) : (fldPut s a w).mem = s.mem := (rfl)
@[simp] theorem fldPut_eccBad (s : State) (a : Nat) (w : Word) : (fldPut s a w).eccBad = s.eccBad := (rfl)
@[simp] theorem fldPut_eccSoft (s : State) (a : Nat) (w : Word) : (fldPut s a w).eccSoft = s.eccSoft := (rfl)
@[simp] theorem fldPut_rowErrs (s : State) (a : Nat) (w : Word) : (fldPut s a w).rowErrs = s.rowErrs := (rfl)
@[simp] theorem fldPut_cs (s : State) (a : Nat) (w : Word) : (fldPut s a w).cs = s.cs := (rfl)
@[simp] theorem fldPut_csBad (s : State) (a : Nat) (w : Word) : (fldPut s a w).csBad = s.csBad := (rfl)
@[simp] theorem fldPut_csSoft (s : State) (a : Nat) (w : Word) : (fldPut s a w).csSoft = s.csSoft := (rfl)
@[simp] theorem fldPut_cores (s : State) (a : Nat) (w : Word) : (fldPut s a w).cores = s.cores := (rfl)
@[simp] theorem fldPut_tb (s : State) (a : Nat) (w : Word) : (fldPut s a w).tb = s.tb := (rfl)
@[simp] theorem fldPut_svCycle (s : State) (a : Nat) (w : Word) : (fldPut s a w).svCycle = s.svCycle := (rfl)
@[simp] theorem fldPut_fresh (s : State) (a : Nat) (w : Word) : (fldPut s a w).fresh = s.fresh := (rfl)
@[simp] theorem fldPut_leaseAt (s : State) (a : Nat) (w : Word) : (fldPut s a w).leaseAt = s.leaseAt := (rfl)
@[simp] theorem fldPut_nearLease (s : State) (a : Nat) (w : Word) : (fldPut s a w).nearLease = s.nearLease := (rfl)
@[simp] theorem fldPut_cmpDue (s : State) (a : Nat) (w : Word) : (fldPut s a w).cmpDue = s.cmpDue := (rfl)
@[simp] theorem fldPut_bankChg (s : State) (a : Nat) (w : Word) : (fldPut s a w).bankChg = s.bankChg := (rfl)
@[simp] theorem fldPut_marching (s : State) (a : Nat) (w : Word) : (fldPut s a w).marching = s.marching := (rfl)
@[simp] theorem fldPut_repairing (s : State) (a : Nat) (w : Word) : (fldPut s a w).repairing = s.repairing := (rfl)
@[simp] theorem fldPut_asserted (s : State) (a : Nat) (w : Word) : (fldPut s a w).asserted = s.asserted := (rfl)
@[simp] theorem fldPut_lastAny (s : State) (a : Nat) (w : Word) : (fldPut s a w).lastAny = s.lastAny := (rfl)
@[simp] theorem fldPut_tdLast (s : State) (a : Nat) (w : Word) : (fldPut s a w).tdLast = s.tdLast := (rfl)
@[simp] theorem fldPut_jobs (s : State) (a : Nat) (w : Word) : (fldPut s a w).jobs = s.jobs := (rfl)
@[simp] theorem fldPut_ciphQ (s : State) (a : Nat) (w : Word) : (fldPut s a w).ciphQ = s.ciphQ := (rfl)
@[simp] theorem fldPut_keysKept (s : State) (a : Nat) (w : Word) : (fldPut s a w).keysKept = s.keysKept := (rfl)
@[simp] theorem fldPut_ledger (s : State) (a : Nat) (w : Word) : (fldPut s a w).ledger = s.ledger := (rfl)
@[simp] theorem fldPut_entries (s : State) (a : Nat) (w : Word) : (fldPut s a w).entries = s.entries := (rfl)
@[simp] theorem fldPut_waits (s : State) (a : Nat) (w : Word) : (fldPut s a w).waits = s.waits := (rfl)
@[simp] theorem fldPut_expSeq (s : State) (a : Nat) (w : Word) : (fldPut s a w).expSeq = s.expSeq := (rfl)
@[simp] theorem fldPut_rotor (s : State) (a : Nat) (w : Word) : (fldPut s a w).rotor = s.rotor := (rfl)
@[simp] theorem fldPut_cqUsed (s : State) (a : Nat) (w : Word) : (fldPut s a w).cqUsed = s.cqUsed := (rfl)
@[simp] theorem fldPut_cqHead (s : State) (a : Nat) (w : Word) : (fldPut s a w).cqHead = s.cqHead := (rfl)
@[simp] theorem fldPut_msiSent (s : State) (a : Nat) (w : Word) : (fldPut s a w).msiSent = s.msiSent := (rfl)
@[simp] theorem fldPut_spool (s : State) (a : Nat) (w : Word) : (fldPut s a w).spool = s.spool := (rfl)
@[simp] theorem fldPut_spoolPos (s : State) (a : Nat) (w : Word) : (fldPut s a w).spoolPos = s.spoolPos := (rfl)
@[simp] theorem fldPut_readyPend (s : State) (a : Nat) (w : Word) : (fldPut s a w).readyPend = s.readyPend := (rfl)
@[simp] theorem fldPut_acQ (s : State) (a : Nat) (w : Word) : (fldPut s a w).acQ = s.acQ := (rfl)
@[simp] theorem fldPut_cqOff (s : State) (a : Nat) (w : Word) : (fldPut s a w).cqOff = s.cqOff := (rfl)
@[simp] theorem fldPut_sess (s : State) (a : Nat) (w : Word) : (fldPut s a w).sess = s.sess := (rfl)
@[simp] theorem fldPut_sessClock (s : State) (a : Nat) (w : Word) : (fldPut s a w).sessClock = s.sessClock := (rfl)
@[simp] theorem fldPut_config (s : State) (a : Nat) (w : Word) : (fldPut s a w).config = s.config := (rfl)
@[simp] theorem fldPut_locked (s : State) (a : Nat) (w : Word) : (fldPut s a w).locked = s.locked := (rfl)
@[simp] theorem fldPut_shimBusy (s : State) (a : Nat) (w : Word) : (fldPut s a w).shimBusy = s.shimBusy := (rfl)
@[simp] theorem fldPut_hookDone (s : State) (a : Nat) (w : Word) : (fldPut s a w).hookDone = s.hookDone := (rfl)
@[simp] theorem fldPut_elArmed (s : State) (a : Nat) (w : Word) : (fldPut s a w).elArmed = s.elArmed := (rfl)
@[simp] theorem fldPut_lringSent (s : State) (a : Nat) (w : Word) : (fldPut s a w).lringSent = s.lringSent := (rfl)
@[simp] theorem fldPut_clOff (s : State) (a : Nat) (w : Word) : (fldPut s a w).clOff = s.clOff := (rfl)
@[simp] theorem fldPut_islReset (s : State) (a : Nat) (w : Word) : (fldPut s a w).islReset = s.islReset := (rfl)
@[simp] theorem fldPut_hlOff (s : State) (a : Nat) (w : Word) : (fldPut s a w).hlOff = s.hlOff := (rfl)
@[simp] theorem fldPut_straps (s : State) (a : Nat) (w : Word) : (fldPut s a w).straps = s.straps := (rfl)
@[simp] theorem fldPut_alive (s : State) (a : Nat) (w : Word) : (fldPut s a w).alive = s.alive := (rfl)
@[simp] theorem fldPut_refLost (s : State) (a : Nat) (w : Word) : (fldPut s a w).refLost = s.refLost := (rfl)
@[simp] theorem fldPut_vidLow (s : State) (a : Nat) (w : Word) : (fldPut s a w).vidLow = s.vidLow := (rfl)
@[simp] theorem fldPut_dbg (s : State) (a : Nat) (w : Word) : (fldPut s a w).dbg = s.dbg := (rfl)
@[simp] theorem fldPut_dh (s : State) (a : Nat) (w : Word) : (fldPut s a w).dh = s.dh := (rfl)
@[simp] theorem fldPut_df (s : State) (a : Nat) (w : Word) : (fldPut s a w).df = s.df := (rfl)
@[simp] theorem fldPut_dov (s : State) (a : Nat) (w : Word) : (fldPut s a w).dov = s.dov := (rfl)
@[simp] theorem fldPut_field (s : State) (a : Nat) (w : Word) : (fldPut s a w).field = s.field := (rfl)
@[simp] theorem fldPut_splice (s : State) (a : Nat) (w : Word) : (fldPut s a w).splice = s.splice := (rfl)
@[simp] theorem fldPut_carrier (s : State) (a : Nat) (w : Word) : (fldPut s a w).carrier = s.carrier := (rfl)
@[simp] theorem fldPut_out (s : State) (a : Nat) (w : Word) : (fldPut s a w).out = s.out := (rfl)

@[simp] theorem barPut_pending (s : State) (o n : Nat) : (barPut s o n).pending = s.pending := (rfl)
@[simp] theorem barPut_io (s : State) (o n : Nat) : (barPut s o n).io = s.io := (rfl)
@[simp] theorem barPut_fld (s : State) (o n : Nat) : (barPut s o n).fld = s.fld := (rfl)
@[simp] theorem barPut_mem (s : State) (o n : Nat) : (barPut s o n).mem = s.mem := (rfl)
@[simp] theorem barPut_eccBad (s : State) (o n : Nat) : (barPut s o n).eccBad = s.eccBad := (rfl)
@[simp] theorem barPut_eccSoft (s : State) (o n : Nat) : (barPut s o n).eccSoft = s.eccSoft := (rfl)
@[simp] theorem barPut_rowErrs (s : State) (o n : Nat) : (barPut s o n).rowErrs = s.rowErrs := (rfl)
@[simp] theorem barPut_cs (s : State) (o n : Nat) : (barPut s o n).cs = s.cs := (rfl)
@[simp] theorem barPut_csBad (s : State) (o n : Nat) : (barPut s o n).csBad = s.csBad := (rfl)
@[simp] theorem barPut_csSoft (s : State) (o n : Nat) : (barPut s o n).csSoft = s.csSoft := (rfl)
@[simp] theorem barPut_cores (s : State) (o n : Nat) : (barPut s o n).cores = s.cores := (rfl)
@[simp] theorem barPut_tb (s : State) (o n : Nat) : (barPut s o n).tb = s.tb := (rfl)
@[simp] theorem barPut_svCycle (s : State) (o n : Nat) : (barPut s o n).svCycle = s.svCycle := (rfl)
@[simp] theorem barPut_fresh (s : State) (o n : Nat) : (barPut s o n).fresh = s.fresh := (rfl)
@[simp] theorem barPut_leaseAt (s : State) (o n : Nat) : (barPut s o n).leaseAt = s.leaseAt := (rfl)
@[simp] theorem barPut_nearLease (s : State) (o n : Nat) : (barPut s o n).nearLease = s.nearLease := (rfl)
@[simp] theorem barPut_cmpDue (s : State) (o n : Nat) : (barPut s o n).cmpDue = s.cmpDue := (rfl)
@[simp] theorem barPut_bankChg (s : State) (o n : Nat) : (barPut s o n).bankChg = s.bankChg := (rfl)
@[simp] theorem barPut_marching (s : State) (o n : Nat) : (barPut s o n).marching = s.marching := (rfl)
@[simp] theorem barPut_repairing (s : State) (o n : Nat) : (barPut s o n).repairing = s.repairing := (rfl)
@[simp] theorem barPut_asserted (s : State) (o n : Nat) : (barPut s o n).asserted = s.asserted := (rfl)
@[simp] theorem barPut_lastAny (s : State) (o n : Nat) : (barPut s o n).lastAny = s.lastAny := (rfl)
@[simp] theorem barPut_tdLast (s : State) (o n : Nat) : (barPut s o n).tdLast = s.tdLast := (rfl)
@[simp] theorem barPut_jobs (s : State) (o n : Nat) : (barPut s o n).jobs = s.jobs := (rfl)
@[simp] theorem barPut_ciphQ (s : State) (o n : Nat) : (barPut s o n).ciphQ = s.ciphQ := (rfl)
@[simp] theorem barPut_keysKept (s : State) (o n : Nat) : (barPut s o n).keysKept = s.keysKept := (rfl)
@[simp] theorem barPut_ledger (s : State) (o n : Nat) : (barPut s o n).ledger = s.ledger := (rfl)
@[simp] theorem barPut_entries (s : State) (o n : Nat) : (barPut s o n).entries = s.entries := (rfl)
@[simp] theorem barPut_waits (s : State) (o n : Nat) : (barPut s o n).waits = s.waits := (rfl)
@[simp] theorem barPut_expSeq (s : State) (o n : Nat) : (barPut s o n).expSeq = s.expSeq := (rfl)
@[simp] theorem barPut_rotor (s : State) (o n : Nat) : (barPut s o n).rotor = s.rotor := (rfl)
@[simp] theorem barPut_cqUsed (s : State) (o n : Nat) : (barPut s o n).cqUsed = s.cqUsed := (rfl)
@[simp] theorem barPut_cqHead (s : State) (o n : Nat) : (barPut s o n).cqHead = s.cqHead := (rfl)
@[simp] theorem barPut_msiSent (s : State) (o n : Nat) : (barPut s o n).msiSent = s.msiSent := (rfl)
@[simp] theorem barPut_spool (s : State) (o n : Nat) : (barPut s o n).spool = s.spool := (rfl)
@[simp] theorem barPut_spoolPos (s : State) (o n : Nat) : (barPut s o n).spoolPos = s.spoolPos := (rfl)
@[simp] theorem barPut_readyPend (s : State) (o n : Nat) : (barPut s o n).readyPend = s.readyPend := (rfl)
@[simp] theorem barPut_acQ (s : State) (o n : Nat) : (barPut s o n).acQ = s.acQ := (rfl)
@[simp] theorem barPut_cqOff (s : State) (o n : Nat) : (barPut s o n).cqOff = s.cqOff := (rfl)
@[simp] theorem barPut_sess (s : State) (o n : Nat) : (barPut s o n).sess = s.sess := (rfl)
@[simp] theorem barPut_sessClock (s : State) (o n : Nat) : (barPut s o n).sessClock = s.sessClock := (rfl)
@[simp] theorem barPut_config (s : State) (o n : Nat) : (barPut s o n).config = s.config := (rfl)
@[simp] theorem barPut_locked (s : State) (o n : Nat) : (barPut s o n).locked = s.locked := (rfl)
@[simp] theorem barPut_shimBusy (s : State) (o n : Nat) : (barPut s o n).shimBusy = s.shimBusy := (rfl)
@[simp] theorem barPut_hookDone (s : State) (o n : Nat) : (barPut s o n).hookDone = s.hookDone := (rfl)
@[simp] theorem barPut_elArmed (s : State) (o n : Nat) : (barPut s o n).elArmed = s.elArmed := (rfl)
@[simp] theorem barPut_lringSent (s : State) (o n : Nat) : (barPut s o n).lringSent = s.lringSent := (rfl)
@[simp] theorem barPut_clOff (s : State) (o n : Nat) : (barPut s o n).clOff = s.clOff := (rfl)
@[simp] theorem barPut_islReset (s : State) (o n : Nat) : (barPut s o n).islReset = s.islReset := (rfl)
@[simp] theorem barPut_hlOff (s : State) (o n : Nat) : (barPut s o n).hlOff = s.hlOff := (rfl)
@[simp] theorem barPut_straps (s : State) (o n : Nat) : (barPut s o n).straps = s.straps := (rfl)
@[simp] theorem barPut_alive (s : State) (o n : Nat) : (barPut s o n).alive = s.alive := (rfl)
@[simp] theorem barPut_refLost (s : State) (o n : Nat) : (barPut s o n).refLost = s.refLost := (rfl)
@[simp] theorem barPut_vidLow (s : State) (o n : Nat) : (barPut s o n).vidLow = s.vidLow := (rfl)
@[simp] theorem barPut_dbg (s : State) (o n : Nat) : (barPut s o n).dbg = s.dbg := (rfl)
@[simp] theorem barPut_dh (s : State) (o n : Nat) : (barPut s o n).dh = s.dh := (rfl)
@[simp] theorem barPut_df (s : State) (o n : Nat) : (barPut s o n).df = s.df := (rfl)
@[simp] theorem barPut_dov (s : State) (o n : Nat) : (barPut s o n).dov = s.dov := (rfl)
@[simp] theorem barPut_field (s : State) (o n : Nat) : (barPut s o n).field = s.field := (rfl)
@[simp] theorem barPut_splice (s : State) (o n : Nat) : (barPut s o n).splice = s.splice := (rfl)
@[simp] theorem barPut_carrier (s : State) (o n : Nat) : (barPut s o n).carrier = s.carrier := (rfl)
@[simp] theorem barPut_out (s : State) (o n : Nat) : (barPut s o n).out = s.out := (rfl)

@[simp] theorem setCore_pending (s : State) (c : Nat) (k : Core) : (setCore s c k).pending = s.pending := (rfl)
@[simp] theorem setCore_io (s : State) (c : Nat) (k : Core) : (setCore s c k).io = s.io := (rfl)
@[simp] theorem setCore_fld (s : State) (c : Nat) (k : Core) : (setCore s c k).fld = s.fld := (rfl)
@[simp] theorem setCore_bar (s : State) (c : Nat) (k : Core) : (setCore s c k).bar = s.bar := (rfl)
@[simp] theorem setCore_mem (s : State) (c : Nat) (k : Core) : (setCore s c k).mem = s.mem := (rfl)
@[simp] theorem setCore_eccBad (s : State) (c : Nat) (k : Core) : (setCore s c k).eccBad = s.eccBad := (rfl)
@[simp] theorem setCore_eccSoft (s : State) (c : Nat) (k : Core) : (setCore s c k).eccSoft = s.eccSoft := (rfl)
@[simp] theorem setCore_rowErrs (s : State) (c : Nat) (k : Core) : (setCore s c k).rowErrs = s.rowErrs := (rfl)
@[simp] theorem setCore_cs (s : State) (c : Nat) (k : Core) : (setCore s c k).cs = s.cs := (rfl)
@[simp] theorem setCore_csBad (s : State) (c : Nat) (k : Core) : (setCore s c k).csBad = s.csBad := (rfl)
@[simp] theorem setCore_csSoft (s : State) (c : Nat) (k : Core) : (setCore s c k).csSoft = s.csSoft := (rfl)
@[simp] theorem setCore_tb (s : State) (c : Nat) (k : Core) : (setCore s c k).tb = s.tb := (rfl)
@[simp] theorem setCore_svCycle (s : State) (c : Nat) (k : Core) : (setCore s c k).svCycle = s.svCycle := (rfl)
@[simp] theorem setCore_fresh (s : State) (c : Nat) (k : Core) : (setCore s c k).fresh = s.fresh := (rfl)
@[simp] theorem setCore_leaseAt (s : State) (c : Nat) (k : Core) : (setCore s c k).leaseAt = s.leaseAt := (rfl)
@[simp] theorem setCore_nearLease (s : State) (c : Nat) (k : Core) : (setCore s c k).nearLease = s.nearLease := (rfl)
@[simp] theorem setCore_cmpDue (s : State) (c : Nat) (k : Core) : (setCore s c k).cmpDue = s.cmpDue := (rfl)
@[simp] theorem setCore_bankChg (s : State) (c : Nat) (k : Core) : (setCore s c k).bankChg = s.bankChg := (rfl)
@[simp] theorem setCore_marching (s : State) (c : Nat) (k : Core) : (setCore s c k).marching = s.marching := (rfl)
@[simp] theorem setCore_repairing (s : State) (c : Nat) (k : Core) : (setCore s c k).repairing = s.repairing := (rfl)
@[simp] theorem setCore_asserted (s : State) (c : Nat) (k : Core) : (setCore s c k).asserted = s.asserted := (rfl)
@[simp] theorem setCore_lastAny (s : State) (c : Nat) (k : Core) : (setCore s c k).lastAny = s.lastAny := (rfl)
@[simp] theorem setCore_tdLast (s : State) (c : Nat) (k : Core) : (setCore s c k).tdLast = s.tdLast := (rfl)
@[simp] theorem setCore_jobs (s : State) (c : Nat) (k : Core) : (setCore s c k).jobs = s.jobs := (rfl)
@[simp] theorem setCore_ciphQ (s : State) (c : Nat) (k : Core) : (setCore s c k).ciphQ = s.ciphQ := (rfl)
@[simp] theorem setCore_keysKept (s : State) (c : Nat) (k : Core) : (setCore s c k).keysKept = s.keysKept := (rfl)
@[simp] theorem setCore_ledger (s : State) (c : Nat) (k : Core) : (setCore s c k).ledger = s.ledger := (rfl)
@[simp] theorem setCore_entries (s : State) (c : Nat) (k : Core) : (setCore s c k).entries = s.entries := (rfl)
@[simp] theorem setCore_waits (s : State) (c : Nat) (k : Core) : (setCore s c k).waits = s.waits := (rfl)
@[simp] theorem setCore_expSeq (s : State) (c : Nat) (k : Core) : (setCore s c k).expSeq = s.expSeq := (rfl)
@[simp] theorem setCore_rotor (s : State) (c : Nat) (k : Core) : (setCore s c k).rotor = s.rotor := (rfl)
@[simp] theorem setCore_cqUsed (s : State) (c : Nat) (k : Core) : (setCore s c k).cqUsed = s.cqUsed := (rfl)
@[simp] theorem setCore_cqHead (s : State) (c : Nat) (k : Core) : (setCore s c k).cqHead = s.cqHead := (rfl)
@[simp] theorem setCore_msiSent (s : State) (c : Nat) (k : Core) : (setCore s c k).msiSent = s.msiSent := (rfl)
@[simp] theorem setCore_spool (s : State) (c : Nat) (k : Core) : (setCore s c k).spool = s.spool := (rfl)
@[simp] theorem setCore_spoolPos (s : State) (c : Nat) (k : Core) : (setCore s c k).spoolPos = s.spoolPos := (rfl)
@[simp] theorem setCore_readyPend (s : State) (c : Nat) (k : Core) : (setCore s c k).readyPend = s.readyPend := (rfl)
@[simp] theorem setCore_acQ (s : State) (c : Nat) (k : Core) : (setCore s c k).acQ = s.acQ := (rfl)
@[simp] theorem setCore_cqOff (s : State) (c : Nat) (k : Core) : (setCore s c k).cqOff = s.cqOff := (rfl)
@[simp] theorem setCore_sess (s : State) (c : Nat) (k : Core) : (setCore s c k).sess = s.sess := (rfl)
@[simp] theorem setCore_sessClock (s : State) (c : Nat) (k : Core) : (setCore s c k).sessClock = s.sessClock := (rfl)
@[simp] theorem setCore_config (s : State) (c : Nat) (k : Core) : (setCore s c k).config = s.config := (rfl)
@[simp] theorem setCore_locked (s : State) (c : Nat) (k : Core) : (setCore s c k).locked = s.locked := (rfl)
@[simp] theorem setCore_shimBusy (s : State) (c : Nat) (k : Core) : (setCore s c k).shimBusy = s.shimBusy := (rfl)
@[simp] theorem setCore_hookDone (s : State) (c : Nat) (k : Core) : (setCore s c k).hookDone = s.hookDone := (rfl)
@[simp] theorem setCore_elArmed (s : State) (c : Nat) (k : Core) : (setCore s c k).elArmed = s.elArmed := (rfl)
@[simp] theorem setCore_lringSent (s : State) (c : Nat) (k : Core) : (setCore s c k).lringSent = s.lringSent := (rfl)
@[simp] theorem setCore_clOff (s : State) (c : Nat) (k : Core) : (setCore s c k).clOff = s.clOff := (rfl)
@[simp] theorem setCore_islReset (s : State) (c : Nat) (k : Core) : (setCore s c k).islReset = s.islReset := (rfl)
@[simp] theorem setCore_hlOff (s : State) (c : Nat) (k : Core) : (setCore s c k).hlOff = s.hlOff := (rfl)
@[simp] theorem setCore_straps (s : State) (c : Nat) (k : Core) : (setCore s c k).straps = s.straps := (rfl)
@[simp] theorem setCore_alive (s : State) (c : Nat) (k : Core) : (setCore s c k).alive = s.alive := (rfl)
@[simp] theorem setCore_refLost (s : State) (c : Nat) (k : Core) : (setCore s c k).refLost = s.refLost := (rfl)
@[simp] theorem setCore_vidLow (s : State) (c : Nat) (k : Core) : (setCore s c k).vidLow = s.vidLow := (rfl)
@[simp] theorem setCore_dbg (s : State) (c : Nat) (k : Core) : (setCore s c k).dbg = s.dbg := (rfl)
@[simp] theorem setCore_dh (s : State) (c : Nat) (k : Core) : (setCore s c k).dh = s.dh := (rfl)
@[simp] theorem setCore_df (s : State) (c : Nat) (k : Core) : (setCore s c k).df = s.df := (rfl)
@[simp] theorem setCore_dov (s : State) (c : Nat) (k : Core) : (setCore s c k).dov = s.dov := (rfl)
@[simp] theorem setCore_field (s : State) (c : Nat) (k : Core) : (setCore s c k).field = s.field := (rfl)
@[simp] theorem setCore_splice (s : State) (c : Nat) (k : Core) : (setCore s c k).splice = s.splice := (rfl)
@[simp] theorem setCore_carrier (s : State) (c : Nat) (k : Core) : (setCore s c k).carrier = s.carrier := (rfl)
@[simp] theorem setCore_out (s : State) (c : Nat) (k : Core) : (setCore s c k).out = s.out := (rfl)

@[simp] theorem csPut_pending (s : State) (l : Nat) (w : BitVec 40) : (csPut s l w).pending = s.pending := (rfl)
@[simp] theorem csPut_io (s : State) (l : Nat) (w : BitVec 40) : (csPut s l w).io = s.io := (rfl)
@[simp] theorem csPut_fld (s : State) (l : Nat) (w : BitVec 40) : (csPut s l w).fld = s.fld := (rfl)
@[simp] theorem csPut_bar (s : State) (l : Nat) (w : BitVec 40) : (csPut s l w).bar = s.bar := (rfl)
@[simp] theorem csPut_mem (s : State) (l : Nat) (w : BitVec 40) : (csPut s l w).mem = s.mem := (rfl)
@[simp] theorem csPut_eccBad (s : State) (l : Nat) (w : BitVec 40) : (csPut s l w).eccBad = s.eccBad := (rfl)
@[simp] theorem csPut_eccSoft (s : State) (l : Nat) (w : BitVec 40) : (csPut s l w).eccSoft = s.eccSoft := (rfl)
@[simp] theorem csPut_rowErrs (s : State) (l : Nat) (w : BitVec 40) : (csPut s l w).rowErrs = s.rowErrs := (rfl)
@[simp] theorem csPut_csBad (s : State) (l : Nat) (w : BitVec 40) : (csPut s l w).csBad = s.csBad := (rfl)
@[simp] theorem csPut_csSoft (s : State) (l : Nat) (w : BitVec 40) : (csPut s l w).csSoft = s.csSoft := (rfl)
@[simp] theorem csPut_cores (s : State) (l : Nat) (w : BitVec 40) : (csPut s l w).cores = s.cores := (rfl)
@[simp] theorem csPut_tb (s : State) (l : Nat) (w : BitVec 40) : (csPut s l w).tb = s.tb := (rfl)
@[simp] theorem csPut_svCycle (s : State) (l : Nat) (w : BitVec 40) : (csPut s l w).svCycle = s.svCycle := (rfl)
@[simp] theorem csPut_fresh (s : State) (l : Nat) (w : BitVec 40) : (csPut s l w).fresh = s.fresh := (rfl)
@[simp] theorem csPut_leaseAt (s : State) (l : Nat) (w : BitVec 40) : (csPut s l w).leaseAt = s.leaseAt := (rfl)
@[simp] theorem csPut_nearLease (s : State) (l : Nat) (w : BitVec 40) : (csPut s l w).nearLease = s.nearLease := (rfl)
@[simp] theorem csPut_cmpDue (s : State) (l : Nat) (w : BitVec 40) : (csPut s l w).cmpDue = s.cmpDue := (rfl)
@[simp] theorem csPut_bankChg (s : State) (l : Nat) (w : BitVec 40) : (csPut s l w).bankChg = s.bankChg := (rfl)
@[simp] theorem csPut_marching (s : State) (l : Nat) (w : BitVec 40) : (csPut s l w).marching = s.marching := (rfl)
@[simp] theorem csPut_repairing (s : State) (l : Nat) (w : BitVec 40) : (csPut s l w).repairing = s.repairing := (rfl)
@[simp] theorem csPut_asserted (s : State) (l : Nat) (w : BitVec 40) : (csPut s l w).asserted = s.asserted := (rfl)
@[simp] theorem csPut_lastAny (s : State) (l : Nat) (w : BitVec 40) : (csPut s l w).lastAny = s.lastAny := (rfl)
@[simp] theorem csPut_tdLast (s : State) (l : Nat) (w : BitVec 40) : (csPut s l w).tdLast = s.tdLast := (rfl)
@[simp] theorem csPut_jobs (s : State) (l : Nat) (w : BitVec 40) : (csPut s l w).jobs = s.jobs := (rfl)
@[simp] theorem csPut_ciphQ (s : State) (l : Nat) (w : BitVec 40) : (csPut s l w).ciphQ = s.ciphQ := (rfl)
@[simp] theorem csPut_keysKept (s : State) (l : Nat) (w : BitVec 40) : (csPut s l w).keysKept = s.keysKept := (rfl)
@[simp] theorem csPut_ledger (s : State) (l : Nat) (w : BitVec 40) : (csPut s l w).ledger = s.ledger := (rfl)
@[simp] theorem csPut_entries (s : State) (l : Nat) (w : BitVec 40) : (csPut s l w).entries = s.entries := (rfl)
@[simp] theorem csPut_waits (s : State) (l : Nat) (w : BitVec 40) : (csPut s l w).waits = s.waits := (rfl)
@[simp] theorem csPut_expSeq (s : State) (l : Nat) (w : BitVec 40) : (csPut s l w).expSeq = s.expSeq := (rfl)
@[simp] theorem csPut_rotor (s : State) (l : Nat) (w : BitVec 40) : (csPut s l w).rotor = s.rotor := (rfl)
@[simp] theorem csPut_cqUsed (s : State) (l : Nat) (w : BitVec 40) : (csPut s l w).cqUsed = s.cqUsed := (rfl)
@[simp] theorem csPut_cqHead (s : State) (l : Nat) (w : BitVec 40) : (csPut s l w).cqHead = s.cqHead := (rfl)
@[simp] theorem csPut_msiSent (s : State) (l : Nat) (w : BitVec 40) : (csPut s l w).msiSent = s.msiSent := (rfl)
@[simp] theorem csPut_spool (s : State) (l : Nat) (w : BitVec 40) : (csPut s l w).spool = s.spool := (rfl)
@[simp] theorem csPut_spoolPos (s : State) (l : Nat) (w : BitVec 40) : (csPut s l w).spoolPos = s.spoolPos := (rfl)
@[simp] theorem csPut_readyPend (s : State) (l : Nat) (w : BitVec 40) : (csPut s l w).readyPend = s.readyPend := (rfl)
@[simp] theorem csPut_acQ (s : State) (l : Nat) (w : BitVec 40) : (csPut s l w).acQ = s.acQ := (rfl)
@[simp] theorem csPut_cqOff (s : State) (l : Nat) (w : BitVec 40) : (csPut s l w).cqOff = s.cqOff := (rfl)
@[simp] theorem csPut_sess (s : State) (l : Nat) (w : BitVec 40) : (csPut s l w).sess = s.sess := (rfl)
@[simp] theorem csPut_sessClock (s : State) (l : Nat) (w : BitVec 40) : (csPut s l w).sessClock = s.sessClock := (rfl)
@[simp] theorem csPut_config (s : State) (l : Nat) (w : BitVec 40) : (csPut s l w).config = s.config := (rfl)
@[simp] theorem csPut_locked (s : State) (l : Nat) (w : BitVec 40) : (csPut s l w).locked = s.locked := (rfl)
@[simp] theorem csPut_shimBusy (s : State) (l : Nat) (w : BitVec 40) : (csPut s l w).shimBusy = s.shimBusy := (rfl)
@[simp] theorem csPut_hookDone (s : State) (l : Nat) (w : BitVec 40) : (csPut s l w).hookDone = s.hookDone := (rfl)
@[simp] theorem csPut_elArmed (s : State) (l : Nat) (w : BitVec 40) : (csPut s l w).elArmed = s.elArmed := (rfl)
@[simp] theorem csPut_lringSent (s : State) (l : Nat) (w : BitVec 40) : (csPut s l w).lringSent = s.lringSent := (rfl)
@[simp] theorem csPut_clOff (s : State) (l : Nat) (w : BitVec 40) : (csPut s l w).clOff = s.clOff := (rfl)
@[simp] theorem csPut_islReset (s : State) (l : Nat) (w : BitVec 40) : (csPut s l w).islReset = s.islReset := (rfl)
@[simp] theorem csPut_hlOff (s : State) (l : Nat) (w : BitVec 40) : (csPut s l w).hlOff = s.hlOff := (rfl)
@[simp] theorem csPut_straps (s : State) (l : Nat) (w : BitVec 40) : (csPut s l w).straps = s.straps := (rfl)
@[simp] theorem csPut_alive (s : State) (l : Nat) (w : BitVec 40) : (csPut s l w).alive = s.alive := (rfl)
@[simp] theorem csPut_refLost (s : State) (l : Nat) (w : BitVec 40) : (csPut s l w).refLost = s.refLost := (rfl)
@[simp] theorem csPut_vidLow (s : State) (l : Nat) (w : BitVec 40) : (csPut s l w).vidLow = s.vidLow := (rfl)
@[simp] theorem csPut_dbg (s : State) (l : Nat) (w : BitVec 40) : (csPut s l w).dbg = s.dbg := (rfl)
@[simp] theorem csPut_dh (s : State) (l : Nat) (w : BitVec 40) : (csPut s l w).dh = s.dh := (rfl)
@[simp] theorem csPut_df (s : State) (l : Nat) (w : BitVec 40) : (csPut s l w).df = s.df := (rfl)
@[simp] theorem csPut_dov (s : State) (l : Nat) (w : BitVec 40) : (csPut s l w).dov = s.dov := (rfl)
@[simp] theorem csPut_field (s : State) (l : Nat) (w : BitVec 40) : (csPut s l w).field = s.field := (rfl)
@[simp] theorem csPut_splice (s : State) (l : Nat) (w : BitVec 40) : (csPut s l w).splice = s.splice := (rfl)
@[simp] theorem csPut_carrier (s : State) (l : Nat) (w : BitVec 40) : (csPut s l w).carrier = s.carrier := (rfl)
@[simp] theorem csPut_out (s : State) (l : Nat) (w : BitVec 40) : (csPut s l w).out = s.out := (rfl)

@[simp] theorem tbPut_pending (s : State) (n v : Nat) : (tbPut s n v).pending = s.pending := (rfl)
@[simp] theorem tbPut_io (s : State) (n v : Nat) : (tbPut s n v).io = s.io := (rfl)
@[simp] theorem tbPut_fld (s : State) (n v : Nat) : (tbPut s n v).fld = s.fld := (rfl)
@[simp] theorem tbPut_bar (s : State) (n v : Nat) : (tbPut s n v).bar = s.bar := (rfl)
@[simp] theorem tbPut_mem (s : State) (n v : Nat) : (tbPut s n v).mem = s.mem := (rfl)
@[simp] theorem tbPut_eccBad (s : State) (n v : Nat) : (tbPut s n v).eccBad = s.eccBad := (rfl)
@[simp] theorem tbPut_eccSoft (s : State) (n v : Nat) : (tbPut s n v).eccSoft = s.eccSoft := (rfl)
@[simp] theorem tbPut_rowErrs (s : State) (n v : Nat) : (tbPut s n v).rowErrs = s.rowErrs := (rfl)
@[simp] theorem tbPut_cs (s : State) (n v : Nat) : (tbPut s n v).cs = s.cs := (rfl)
@[simp] theorem tbPut_csBad (s : State) (n v : Nat) : (tbPut s n v).csBad = s.csBad := (rfl)
@[simp] theorem tbPut_csSoft (s : State) (n v : Nat) : (tbPut s n v).csSoft = s.csSoft := (rfl)
@[simp] theorem tbPut_cores (s : State) (n v : Nat) : (tbPut s n v).cores = s.cores := (rfl)
@[simp] theorem tbPut_svCycle (s : State) (n v : Nat) : (tbPut s n v).svCycle = s.svCycle := (rfl)
@[simp] theorem tbPut_fresh (s : State) (n v : Nat) : (tbPut s n v).fresh = s.fresh := (rfl)
@[simp] theorem tbPut_leaseAt (s : State) (n v : Nat) : (tbPut s n v).leaseAt = s.leaseAt := (rfl)
@[simp] theorem tbPut_nearLease (s : State) (n v : Nat) : (tbPut s n v).nearLease = s.nearLease := (rfl)
@[simp] theorem tbPut_cmpDue (s : State) (n v : Nat) : (tbPut s n v).cmpDue = s.cmpDue := (rfl)
@[simp] theorem tbPut_bankChg (s : State) (n v : Nat) : (tbPut s n v).bankChg = s.bankChg := (rfl)
@[simp] theorem tbPut_marching (s : State) (n v : Nat) : (tbPut s n v).marching = s.marching := (rfl)
@[simp] theorem tbPut_repairing (s : State) (n v : Nat) : (tbPut s n v).repairing = s.repairing := (rfl)
@[simp] theorem tbPut_asserted (s : State) (n v : Nat) : (tbPut s n v).asserted = s.asserted := (rfl)
@[simp] theorem tbPut_lastAny (s : State) (n v : Nat) : (tbPut s n v).lastAny = s.lastAny := (rfl)
@[simp] theorem tbPut_tdLast (s : State) (n v : Nat) : (tbPut s n v).tdLast = s.tdLast := (rfl)
@[simp] theorem tbPut_jobs (s : State) (n v : Nat) : (tbPut s n v).jobs = s.jobs := (rfl)
@[simp] theorem tbPut_ciphQ (s : State) (n v : Nat) : (tbPut s n v).ciphQ = s.ciphQ := (rfl)
@[simp] theorem tbPut_keysKept (s : State) (n v : Nat) : (tbPut s n v).keysKept = s.keysKept := (rfl)
@[simp] theorem tbPut_ledger (s : State) (n v : Nat) : (tbPut s n v).ledger = s.ledger := (rfl)
@[simp] theorem tbPut_entries (s : State) (n v : Nat) : (tbPut s n v).entries = s.entries := (rfl)
@[simp] theorem tbPut_waits (s : State) (n v : Nat) : (tbPut s n v).waits = s.waits := (rfl)
@[simp] theorem tbPut_expSeq (s : State) (n v : Nat) : (tbPut s n v).expSeq = s.expSeq := (rfl)
@[simp] theorem tbPut_rotor (s : State) (n v : Nat) : (tbPut s n v).rotor = s.rotor := (rfl)
@[simp] theorem tbPut_cqUsed (s : State) (n v : Nat) : (tbPut s n v).cqUsed = s.cqUsed := (rfl)
@[simp] theorem tbPut_cqHead (s : State) (n v : Nat) : (tbPut s n v).cqHead = s.cqHead := (rfl)
@[simp] theorem tbPut_msiSent (s : State) (n v : Nat) : (tbPut s n v).msiSent = s.msiSent := (rfl)
@[simp] theorem tbPut_spool (s : State) (n v : Nat) : (tbPut s n v).spool = s.spool := (rfl)
@[simp] theorem tbPut_spoolPos (s : State) (n v : Nat) : (tbPut s n v).spoolPos = s.spoolPos := (rfl)
@[simp] theorem tbPut_readyPend (s : State) (n v : Nat) : (tbPut s n v).readyPend = s.readyPend := (rfl)
@[simp] theorem tbPut_acQ (s : State) (n v : Nat) : (tbPut s n v).acQ = s.acQ := (rfl)
@[simp] theorem tbPut_cqOff (s : State) (n v : Nat) : (tbPut s n v).cqOff = s.cqOff := (rfl)
@[simp] theorem tbPut_sess (s : State) (n v : Nat) : (tbPut s n v).sess = s.sess := (rfl)
@[simp] theorem tbPut_sessClock (s : State) (n v : Nat) : (tbPut s n v).sessClock = s.sessClock := (rfl)
@[simp] theorem tbPut_config (s : State) (n v : Nat) : (tbPut s n v).config = s.config := (rfl)
@[simp] theorem tbPut_locked (s : State) (n v : Nat) : (tbPut s n v).locked = s.locked := (rfl)
@[simp] theorem tbPut_shimBusy (s : State) (n v : Nat) : (tbPut s n v).shimBusy = s.shimBusy := (rfl)
@[simp] theorem tbPut_hookDone (s : State) (n v : Nat) : (tbPut s n v).hookDone = s.hookDone := (rfl)
@[simp] theorem tbPut_elArmed (s : State) (n v : Nat) : (tbPut s n v).elArmed = s.elArmed := (rfl)
@[simp] theorem tbPut_lringSent (s : State) (n v : Nat) : (tbPut s n v).lringSent = s.lringSent := (rfl)
@[simp] theorem tbPut_clOff (s : State) (n v : Nat) : (tbPut s n v).clOff = s.clOff := (rfl)
@[simp] theorem tbPut_islReset (s : State) (n v : Nat) : (tbPut s n v).islReset = s.islReset := (rfl)
@[simp] theorem tbPut_hlOff (s : State) (n v : Nat) : (tbPut s n v).hlOff = s.hlOff := (rfl)
@[simp] theorem tbPut_straps (s : State) (n v : Nat) : (tbPut s n v).straps = s.straps := (rfl)
@[simp] theorem tbPut_alive (s : State) (n v : Nat) : (tbPut s n v).alive = s.alive := (rfl)
@[simp] theorem tbPut_refLost (s : State) (n v : Nat) : (tbPut s n v).refLost = s.refLost := (rfl)
@[simp] theorem tbPut_vidLow (s : State) (n v : Nat) : (tbPut s n v).vidLow = s.vidLow := (rfl)
@[simp] theorem tbPut_dbg (s : State) (n v : Nat) : (tbPut s n v).dbg = s.dbg := (rfl)
@[simp] theorem tbPut_dh (s : State) (n v : Nat) : (tbPut s n v).dh = s.dh := (rfl)
@[simp] theorem tbPut_df (s : State) (n v : Nat) : (tbPut s n v).df = s.df := (rfl)
@[simp] theorem tbPut_dov (s : State) (n v : Nat) : (tbPut s n v).dov = s.dov := (rfl)
@[simp] theorem tbPut_field (s : State) (n v : Nat) : (tbPut s n v).field = s.field := (rfl)
@[simp] theorem tbPut_splice (s : State) (n v : Nat) : (tbPut s n v).splice = s.splice := (rfl)
@[simp] theorem tbPut_carrier (s : State) (n v : Nat) : (tbPut s n v).carrier = s.carrier := (rfl)
@[simp] theorem tbPut_out (s : State) (n v : Nat) : (tbPut s n v).out = s.out := (rfl)

@[simp] theorem memPut_pending (s : State) (a : Nat) (w : Word) : (memPut s a w).pending = s.pending := (rfl)
@[simp] theorem memPut_io (s : State) (a : Nat) (w : Word) : (memPut s a w).io = s.io := (rfl)
@[simp] theorem memPut_fld (s : State) (a : Nat) (w : Word) : (memPut s a w).fld = s.fld := (rfl)
@[simp] theorem memPut_bar (s : State) (a : Nat) (w : Word) : (memPut s a w).bar = s.bar := (rfl)
@[simp] theorem memPut_rowErrs (s : State) (a : Nat) (w : Word) : (memPut s a w).rowErrs = s.rowErrs := (rfl)
@[simp] theorem memPut_cs (s : State) (a : Nat) (w : Word) : (memPut s a w).cs = s.cs := (rfl)
@[simp] theorem memPut_csBad (s : State) (a : Nat) (w : Word) : (memPut s a w).csBad = s.csBad := (rfl)
@[simp] theorem memPut_csSoft (s : State) (a : Nat) (w : Word) : (memPut s a w).csSoft = s.csSoft := (rfl)
@[simp] theorem memPut_cores (s : State) (a : Nat) (w : Word) : (memPut s a w).cores = s.cores := (rfl)
@[simp] theorem memPut_tb (s : State) (a : Nat) (w : Word) : (memPut s a w).tb = s.tb := (rfl)
@[simp] theorem memPut_svCycle (s : State) (a : Nat) (w : Word) : (memPut s a w).svCycle = s.svCycle := (rfl)
@[simp] theorem memPut_fresh (s : State) (a : Nat) (w : Word) : (memPut s a w).fresh = s.fresh := (rfl)
@[simp] theorem memPut_leaseAt (s : State) (a : Nat) (w : Word) : (memPut s a w).leaseAt = s.leaseAt := (rfl)
@[simp] theorem memPut_nearLease (s : State) (a : Nat) (w : Word) : (memPut s a w).nearLease = s.nearLease := (rfl)
@[simp] theorem memPut_cmpDue (s : State) (a : Nat) (w : Word) : (memPut s a w).cmpDue = s.cmpDue := (rfl)
@[simp] theorem memPut_bankChg (s : State) (a : Nat) (w : Word) : (memPut s a w).bankChg = s.bankChg := (rfl)
@[simp] theorem memPut_marching (s : State) (a : Nat) (w : Word) : (memPut s a w).marching = s.marching := (rfl)
@[simp] theorem memPut_repairing (s : State) (a : Nat) (w : Word) : (memPut s a w).repairing = s.repairing := (rfl)
@[simp] theorem memPut_asserted (s : State) (a : Nat) (w : Word) : (memPut s a w).asserted = s.asserted := (rfl)
@[simp] theorem memPut_lastAny (s : State) (a : Nat) (w : Word) : (memPut s a w).lastAny = s.lastAny := (rfl)
@[simp] theorem memPut_tdLast (s : State) (a : Nat) (w : Word) : (memPut s a w).tdLast = s.tdLast := (rfl)
@[simp] theorem memPut_jobs (s : State) (a : Nat) (w : Word) : (memPut s a w).jobs = s.jobs := (rfl)
@[simp] theorem memPut_ciphQ (s : State) (a : Nat) (w : Word) : (memPut s a w).ciphQ = s.ciphQ := (rfl)
@[simp] theorem memPut_keysKept (s : State) (a : Nat) (w : Word) : (memPut s a w).keysKept = s.keysKept := (rfl)
@[simp] theorem memPut_ledger (s : State) (a : Nat) (w : Word) : (memPut s a w).ledger = s.ledger := (rfl)
@[simp] theorem memPut_entries (s : State) (a : Nat) (w : Word) : (memPut s a w).entries = s.entries := (rfl)
@[simp] theorem memPut_waits (s : State) (a : Nat) (w : Word) : (memPut s a w).waits = s.waits := (rfl)
@[simp] theorem memPut_expSeq (s : State) (a : Nat) (w : Word) : (memPut s a w).expSeq = s.expSeq := (rfl)
@[simp] theorem memPut_rotor (s : State) (a : Nat) (w : Word) : (memPut s a w).rotor = s.rotor := (rfl)
@[simp] theorem memPut_cqUsed (s : State) (a : Nat) (w : Word) : (memPut s a w).cqUsed = s.cqUsed := (rfl)
@[simp] theorem memPut_cqHead (s : State) (a : Nat) (w : Word) : (memPut s a w).cqHead = s.cqHead := (rfl)
@[simp] theorem memPut_msiSent (s : State) (a : Nat) (w : Word) : (memPut s a w).msiSent = s.msiSent := (rfl)
@[simp] theorem memPut_spool (s : State) (a : Nat) (w : Word) : (memPut s a w).spool = s.spool := (rfl)
@[simp] theorem memPut_spoolPos (s : State) (a : Nat) (w : Word) : (memPut s a w).spoolPos = s.spoolPos := (rfl)
@[simp] theorem memPut_readyPend (s : State) (a : Nat) (w : Word) : (memPut s a w).readyPend = s.readyPend := (rfl)
@[simp] theorem memPut_acQ (s : State) (a : Nat) (w : Word) : (memPut s a w).acQ = s.acQ := (rfl)
@[simp] theorem memPut_cqOff (s : State) (a : Nat) (w : Word) : (memPut s a w).cqOff = s.cqOff := (rfl)
@[simp] theorem memPut_sess (s : State) (a : Nat) (w : Word) : (memPut s a w).sess = s.sess := (rfl)
@[simp] theorem memPut_sessClock (s : State) (a : Nat) (w : Word) : (memPut s a w).sessClock = s.sessClock := (rfl)
@[simp] theorem memPut_config (s : State) (a : Nat) (w : Word) : (memPut s a w).config = s.config := (rfl)
@[simp] theorem memPut_locked (s : State) (a : Nat) (w : Word) : (memPut s a w).locked = s.locked := (rfl)
@[simp] theorem memPut_shimBusy (s : State) (a : Nat) (w : Word) : (memPut s a w).shimBusy = s.shimBusy := (rfl)
@[simp] theorem memPut_hookDone (s : State) (a : Nat) (w : Word) : (memPut s a w).hookDone = s.hookDone := (rfl)
@[simp] theorem memPut_elArmed (s : State) (a : Nat) (w : Word) : (memPut s a w).elArmed = s.elArmed := (rfl)
@[simp] theorem memPut_lringSent (s : State) (a : Nat) (w : Word) : (memPut s a w).lringSent = s.lringSent := (rfl)
@[simp] theorem memPut_clOff (s : State) (a : Nat) (w : Word) : (memPut s a w).clOff = s.clOff := (rfl)
@[simp] theorem memPut_islReset (s : State) (a : Nat) (w : Word) : (memPut s a w).islReset = s.islReset := (rfl)
@[simp] theorem memPut_hlOff (s : State) (a : Nat) (w : Word) : (memPut s a w).hlOff = s.hlOff := (rfl)
@[simp] theorem memPut_straps (s : State) (a : Nat) (w : Word) : (memPut s a w).straps = s.straps := (rfl)
@[simp] theorem memPut_alive (s : State) (a : Nat) (w : Word) : (memPut s a w).alive = s.alive := (rfl)
@[simp] theorem memPut_refLost (s : State) (a : Nat) (w : Word) : (memPut s a w).refLost = s.refLost := (rfl)
@[simp] theorem memPut_vidLow (s : State) (a : Nat) (w : Word) : (memPut s a w).vidLow = s.vidLow := (rfl)
@[simp] theorem memPut_dbg (s : State) (a : Nat) (w : Word) : (memPut s a w).dbg = s.dbg := (rfl)
@[simp] theorem memPut_dh (s : State) (a : Nat) (w : Word) : (memPut s a w).dh = s.dh := (rfl)
@[simp] theorem memPut_df (s : State) (a : Nat) (w : Word) : (memPut s a w).df = s.df := (rfl)
@[simp] theorem memPut_dov (s : State) (a : Nat) (w : Word) : (memPut s a w).dov = s.dov := (rfl)
@[simp] theorem memPut_field (s : State) (a : Nat) (w : Word) : (memPut s a w).field = s.field := (rfl)
@[simp] theorem memPut_splice (s : State) (a : Nat) (w : Word) : (memPut s a w).splice = s.splice := (rfl)
@[simp] theorem memPut_carrier (s : State) (a : Nat) (w : Word) : (memPut s a w).carrier = s.carrier := (rfl)
@[simp] theorem memPut_out (s : State) (a : Nat) (w : Word) : (memPut s a w).out = s.out := (rfl)

@[simp] theorem bump_pending (s : State) : (bump s).pending = s.pending := (rfl)
@[simp] theorem bump_io (s : State) : (bump s).io = s.io := (rfl)
@[simp] theorem bump_fld (s : State) : (bump s).fld = s.fld := (rfl)
@[simp] theorem bump_bar (s : State) : (bump s).bar = s.bar := (rfl)
@[simp] theorem bump_mem (s : State) : (bump s).mem = s.mem := (rfl)
@[simp] theorem bump_eccBad (s : State) : (bump s).eccBad = s.eccBad := (rfl)
@[simp] theorem bump_eccSoft (s : State) : (bump s).eccSoft = s.eccSoft := (rfl)
@[simp] theorem bump_rowErrs (s : State) : (bump s).rowErrs = s.rowErrs := (rfl)
@[simp] theorem bump_cs (s : State) : (bump s).cs = s.cs := (rfl)
@[simp] theorem bump_csBad (s : State) : (bump s).csBad = s.csBad := (rfl)
@[simp] theorem bump_csSoft (s : State) : (bump s).csSoft = s.csSoft := (rfl)
@[simp] theorem bump_cores (s : State) : (bump s).cores = s.cores := (rfl)
@[simp] theorem bump_tb (s : State) : (bump s).tb = s.tb := (rfl)
@[simp] theorem bump_svCycle (s : State) : (bump s).svCycle = s.svCycle := (rfl)
@[simp] theorem bump_leaseAt (s : State) : (bump s).leaseAt = s.leaseAt := (rfl)
@[simp] theorem bump_nearLease (s : State) : (bump s).nearLease = s.nearLease := (rfl)
@[simp] theorem bump_cmpDue (s : State) : (bump s).cmpDue = s.cmpDue := (rfl)
@[simp] theorem bump_bankChg (s : State) : (bump s).bankChg = s.bankChg := (rfl)
@[simp] theorem bump_marching (s : State) : (bump s).marching = s.marching := (rfl)
@[simp] theorem bump_repairing (s : State) : (bump s).repairing = s.repairing := (rfl)
@[simp] theorem bump_asserted (s : State) : (bump s).asserted = s.asserted := (rfl)
@[simp] theorem bump_lastAny (s : State) : (bump s).lastAny = s.lastAny := (rfl)
@[simp] theorem bump_tdLast (s : State) : (bump s).tdLast = s.tdLast := (rfl)
@[simp] theorem bump_jobs (s : State) : (bump s).jobs = s.jobs := (rfl)
@[simp] theorem bump_ciphQ (s : State) : (bump s).ciphQ = s.ciphQ := (rfl)
@[simp] theorem bump_keysKept (s : State) : (bump s).keysKept = s.keysKept := (rfl)
@[simp] theorem bump_ledger (s : State) : (bump s).ledger = s.ledger := (rfl)
@[simp] theorem bump_entries (s : State) : (bump s).entries = s.entries := (rfl)
@[simp] theorem bump_waits (s : State) : (bump s).waits = s.waits := (rfl)
@[simp] theorem bump_expSeq (s : State) : (bump s).expSeq = s.expSeq := (rfl)
@[simp] theorem bump_rotor (s : State) : (bump s).rotor = s.rotor := (rfl)
@[simp] theorem bump_cqUsed (s : State) : (bump s).cqUsed = s.cqUsed := (rfl)
@[simp] theorem bump_cqHead (s : State) : (bump s).cqHead = s.cqHead := (rfl)
@[simp] theorem bump_msiSent (s : State) : (bump s).msiSent = s.msiSent := (rfl)
@[simp] theorem bump_spool (s : State) : (bump s).spool = s.spool := (rfl)
@[simp] theorem bump_spoolPos (s : State) : (bump s).spoolPos = s.spoolPos := (rfl)
@[simp] theorem bump_readyPend (s : State) : (bump s).readyPend = s.readyPend := (rfl)
@[simp] theorem bump_acQ (s : State) : (bump s).acQ = s.acQ := (rfl)
@[simp] theorem bump_cqOff (s : State) : (bump s).cqOff = s.cqOff := (rfl)
@[simp] theorem bump_sess (s : State) : (bump s).sess = s.sess := (rfl)
@[simp] theorem bump_sessClock (s : State) : (bump s).sessClock = s.sessClock := (rfl)
@[simp] theorem bump_config (s : State) : (bump s).config = s.config := (rfl)
@[simp] theorem bump_locked (s : State) : (bump s).locked = s.locked := (rfl)
@[simp] theorem bump_shimBusy (s : State) : (bump s).shimBusy = s.shimBusy := (rfl)
@[simp] theorem bump_hookDone (s : State) : (bump s).hookDone = s.hookDone := (rfl)
@[simp] theorem bump_elArmed (s : State) : (bump s).elArmed = s.elArmed := (rfl)
@[simp] theorem bump_lringSent (s : State) : (bump s).lringSent = s.lringSent := (rfl)
@[simp] theorem bump_clOff (s : State) : (bump s).clOff = s.clOff := (rfl)
@[simp] theorem bump_islReset (s : State) : (bump s).islReset = s.islReset := (rfl)
@[simp] theorem bump_hlOff (s : State) : (bump s).hlOff = s.hlOff := (rfl)
@[simp] theorem bump_straps (s : State) : (bump s).straps = s.straps := (rfl)
@[simp] theorem bump_alive (s : State) : (bump s).alive = s.alive := (rfl)
@[simp] theorem bump_refLost (s : State) : (bump s).refLost = s.refLost := (rfl)
@[simp] theorem bump_vidLow (s : State) : (bump s).vidLow = s.vidLow := (rfl)
@[simp] theorem bump_dbg (s : State) : (bump s).dbg = s.dbg := (rfl)
@[simp] theorem bump_dh (s : State) : (bump s).dh = s.dh := (rfl)
@[simp] theorem bump_df (s : State) : (bump s).df = s.df := (rfl)
@[simp] theorem bump_dov (s : State) : (bump s).dov = s.dov := (rfl)
@[simp] theorem bump_field (s : State) : (bump s).field = s.field := (rfl)
@[simp] theorem bump_splice (s : State) : (bump s).splice = s.splice := (rfl)
@[simp] theorem bump_carrier (s : State) : (bump s).carrier = s.carrier := (rfl)
@[simp] theorem bump_out (s : State) : (bump s).out = s.out := (rfl)

@[simp] theorem emit_pending (s : State) (o : Out) : (emit s o).pending = s.pending := (rfl)
@[simp] theorem emit_io (s : State) (o : Out) : (emit s o).io = s.io := (rfl)
@[simp] theorem emit_fld (s : State) (o : Out) : (emit s o).fld = s.fld := (rfl)
@[simp] theorem emit_bar (s : State) (o : Out) : (emit s o).bar = s.bar := (rfl)
@[simp] theorem emit_mem (s : State) (o : Out) : (emit s o).mem = s.mem := (rfl)
@[simp] theorem emit_eccBad (s : State) (o : Out) : (emit s o).eccBad = s.eccBad := (rfl)
@[simp] theorem emit_eccSoft (s : State) (o : Out) : (emit s o).eccSoft = s.eccSoft := (rfl)
@[simp] theorem emit_rowErrs (s : State) (o : Out) : (emit s o).rowErrs = s.rowErrs := (rfl)
@[simp] theorem emit_cs (s : State) (o : Out) : (emit s o).cs = s.cs := (rfl)
@[simp] theorem emit_csBad (s : State) (o : Out) : (emit s o).csBad = s.csBad := (rfl)
@[simp] theorem emit_csSoft (s : State) (o : Out) : (emit s o).csSoft = s.csSoft := (rfl)
@[simp] theorem emit_cores (s : State) (o : Out) : (emit s o).cores = s.cores := (rfl)
@[simp] theorem emit_tb (s : State) (o : Out) : (emit s o).tb = s.tb := (rfl)
@[simp] theorem emit_svCycle (s : State) (o : Out) : (emit s o).svCycle = s.svCycle := (rfl)
@[simp] theorem emit_fresh (s : State) (o : Out) : (emit s o).fresh = s.fresh := (rfl)
@[simp] theorem emit_leaseAt (s : State) (o : Out) : (emit s o).leaseAt = s.leaseAt := (rfl)
@[simp] theorem emit_nearLease (s : State) (o : Out) : (emit s o).nearLease = s.nearLease := (rfl)
@[simp] theorem emit_cmpDue (s : State) (o : Out) : (emit s o).cmpDue = s.cmpDue := (rfl)
@[simp] theorem emit_bankChg (s : State) (o : Out) : (emit s o).bankChg = s.bankChg := (rfl)
@[simp] theorem emit_marching (s : State) (o : Out) : (emit s o).marching = s.marching := (rfl)
@[simp] theorem emit_repairing (s : State) (o : Out) : (emit s o).repairing = s.repairing := (rfl)
@[simp] theorem emit_asserted (s : State) (o : Out) : (emit s o).asserted = s.asserted := (rfl)
@[simp] theorem emit_lastAny (s : State) (o : Out) : (emit s o).lastAny = s.lastAny := (rfl)
@[simp] theorem emit_tdLast (s : State) (o : Out) : (emit s o).tdLast = s.tdLast := (rfl)
@[simp] theorem emit_jobs (s : State) (o : Out) : (emit s o).jobs = s.jobs := (rfl)
@[simp] theorem emit_ciphQ (s : State) (o : Out) : (emit s o).ciphQ = s.ciphQ := (rfl)
@[simp] theorem emit_keysKept (s : State) (o : Out) : (emit s o).keysKept = s.keysKept := (rfl)
@[simp] theorem emit_ledger (s : State) (o : Out) : (emit s o).ledger = s.ledger := (rfl)
@[simp] theorem emit_entries (s : State) (o : Out) : (emit s o).entries = s.entries := (rfl)
@[simp] theorem emit_waits (s : State) (o : Out) : (emit s o).waits = s.waits := (rfl)
@[simp] theorem emit_expSeq (s : State) (o : Out) : (emit s o).expSeq = s.expSeq := (rfl)
@[simp] theorem emit_rotor (s : State) (o : Out) : (emit s o).rotor = s.rotor := (rfl)
@[simp] theorem emit_cqUsed (s : State) (o : Out) : (emit s o).cqUsed = s.cqUsed := (rfl)
@[simp] theorem emit_cqHead (s : State) (o : Out) : (emit s o).cqHead = s.cqHead := (rfl)
@[simp] theorem emit_msiSent (s : State) (o : Out) : (emit s o).msiSent = s.msiSent := (rfl)
@[simp] theorem emit_spool (s : State) (o : Out) : (emit s o).spool = s.spool := (rfl)
@[simp] theorem emit_spoolPos (s : State) (o : Out) : (emit s o).spoolPos = s.spoolPos := (rfl)
@[simp] theorem emit_readyPend (s : State) (o : Out) : (emit s o).readyPend = s.readyPend := (rfl)
@[simp] theorem emit_acQ (s : State) (o : Out) : (emit s o).acQ = s.acQ := (rfl)
@[simp] theorem emit_cqOff (s : State) (o : Out) : (emit s o).cqOff = s.cqOff := (rfl)
@[simp] theorem emit_sess (s : State) (o : Out) : (emit s o).sess = s.sess := (rfl)
@[simp] theorem emit_sessClock (s : State) (o : Out) : (emit s o).sessClock = s.sessClock := (rfl)
@[simp] theorem emit_config (s : State) (o : Out) : (emit s o).config = s.config := (rfl)
@[simp] theorem emit_locked (s : State) (o : Out) : (emit s o).locked = s.locked := (rfl)
@[simp] theorem emit_shimBusy (s : State) (o : Out) : (emit s o).shimBusy = s.shimBusy := (rfl)
@[simp] theorem emit_hookDone (s : State) (o : Out) : (emit s o).hookDone = s.hookDone := (rfl)
@[simp] theorem emit_elArmed (s : State) (o : Out) : (emit s o).elArmed = s.elArmed := (rfl)
@[simp] theorem emit_lringSent (s : State) (o : Out) : (emit s o).lringSent = s.lringSent := (rfl)
@[simp] theorem emit_clOff (s : State) (o : Out) : (emit s o).clOff = s.clOff := (rfl)
@[simp] theorem emit_islReset (s : State) (o : Out) : (emit s o).islReset = s.islReset := (rfl)
@[simp] theorem emit_hlOff (s : State) (o : Out) : (emit s o).hlOff = s.hlOff := (rfl)
@[simp] theorem emit_straps (s : State) (o : Out) : (emit s o).straps = s.straps := (rfl)
@[simp] theorem emit_alive (s : State) (o : Out) : (emit s o).alive = s.alive := (rfl)
@[simp] theorem emit_refLost (s : State) (o : Out) : (emit s o).refLost = s.refLost := (rfl)
@[simp] theorem emit_vidLow (s : State) (o : Out) : (emit s o).vidLow = s.vidLow := (rfl)
@[simp] theorem emit_dbg (s : State) (o : Out) : (emit s o).dbg = s.dbg := (rfl)
@[simp] theorem emit_dh (s : State) (o : Out) : (emit s o).dh = s.dh := (rfl)
@[simp] theorem emit_df (s : State) (o : Out) : (emit s o).df = s.df := (rfl)
@[simp] theorem emit_dov (s : State) (o : Out) : (emit s o).dov = s.dov := (rfl)
@[simp] theorem emit_field (s : State) (o : Out) : (emit s o).field = s.field := (rfl)
@[simp] theorem emit_splice (s : State) (o : Out) : (emit s o).splice = s.splice := (rfl)
@[simp] theorem emit_carrier (s : State) (o : Out) : (emit s o).carrier = s.carrier := (rfl)

/-! ## Registers of a core -/

@[simp] theorem regPutIdx_mpc (k : Core) (i : Nat) (w : Word) : (regPutIdx k i w).mpc = k.mpc := (rfl)
@[simp] theorem regPutIdx_mstat (k : Core) (i : Nat) (w : Word) : (regPutIdx k i w).mstat = k.mstat := (rfl)
@[simp] theorem regPutIdx_ring (k : Core) (i : Nat) (w : Word) : (regPutIdx k i w).ring = k.ring := (rfl)
@[simp] theorem regPutIdx_cur (k : Core) (i : Nat) (w : Word) : (regPutIdx k i w).cur = k.cur := (rfl)
@[simp] theorem regPutIdx_live (k : Core) (i : Nat) (w : Word) : (regPutIdx k i w).live = k.live := (rfl)
@[simp] theorem regPutIdx_wsp (k : Core) (i : Nat) (w : Word) : (regPutIdx k i w).wsp = k.wsp := (rfl)
@[simp] theorem regPutIdx_tsp (k : Core) (i : Nat) (w : Word) : (regPutIdx k i w).tsp = k.tsp := (rfl)
@[simp] theorem regPutIdx_vtb (k : Core) (i : Nat) (w : Word) : (regPutIdx k i w).vtb = k.vtb := (rfl)
@[simp] theorem regPutIdx_gtb (k : Core) (i : Nat) (w : Word) : (regPutIdx k i w).gtb = k.gtb := (rfl)
@[simp] theorem regPutIdx_repc (k : Core) (i : Nat) (w : Word) : (regPutIdx k i w).repc = k.repc := (rfl)
@[simp] theorem regPutIdx_repInt (k : Core) (i : Nat) (w : Word) : (regPutIdx k i w).repInt = k.repInt := (rfl)
@[simp] theorem regPutIdx_lcnt (k : Core) (i : Nat) (w : Word) : (regPutIdx k i w).lcnt = k.lcnt := (rfl)
@[simp] theorem regPutIdx_lbeg (k : Core) (i : Nat) (w : Word) : (regPutIdx k i w).lbeg = k.lbeg := (rfl)
@[simp] theorem regPutIdx_lend (k : Core) (i : Nat) (w : Word) : (regPutIdx k i w).lend = k.lend := (rfl)
@[simp] theorem regPutIdx_evlat (k : Core) (i : Nat) (w : Word) : (regPutIdx k i w).evlat = k.evlat := (rfl)
@[simp] theorem regPutIdx_pbarN (k : Core) (i : Nat) (w : Word) : (regPutIdx k i w).pbarN = k.pbarN := (rfl)
@[simp] theorem regPutIdx_pbarHold (k : Core) (i : Nat) (w : Word) : (regPutIdx k i w).pbarHold = k.pbarHold := (rfl)
@[simp] theorem regPutIdx_ctx (k : Core) (i : Nat) (w : Word) : (regPutIdx k i w).ctx = k.ctx := (rfl)
@[simp] theorem regPutIdx_shdw0 (k : Core) (i : Nat) (w : Word) : (regPutIdx k i w).shdw0 = k.shdw0 := (rfl)
@[simp] theorem regPutIdx_shdw1 (k : Core) (i : Nat) (w : Word) : (regPutIdx k i w).shdw1 = k.shdw1 := (rfl)
@[simp] theorem regPutIdx_mw (k : Core) (i : Nat) (w : Word) : (regPutIdx k i w).mw = k.mw := (rfl)
@[simp] theorem regPutIdx_slots (k : Core) (i : Nat) (w : Word) : (regPutIdx k i w).slots = k.slots := (rfl)
@[simp] theorem regPutIdx_shadow (k : Core) (i : Nat) (w : Word) : (regPutIdx k i w).shadow = k.shadow := (rfl)
@[simp] theorem regPutIdx_rearm (k : Core) (i : Nat) (w : Word) : (regPutIdx k i w).rearm = k.rearm := (rfl)
@[simp] theorem regPutIdx_delay (k : Core) (i : Nat) (w : Word) : (regPutIdx k i w).delay = k.delay := (rfl)
@[simp] theorem regPutIdx_wait (k : Core) (i : Nat) (w : Word) : (regPutIdx k i w).wait = k.wait := (rfl)
@[simp] theorem regPutIdx_lngDone (k : Core) (i : Nat) (w : Word) : (regPutIdx k i w).lngDone = k.lngDone := (rfl)
@[simp] theorem regPutIdx_paced (k : Core) (i : Nat) (w : Word) : (regPutIdx k i w).paced = k.paced := (rfl)
@[simp] theorem regPutIdx_hostAcc (k : Core) (i : Nat) (w : Word) : (regPutIdx k i w).hostAcc = k.hostAcc := (rfl)
@[simp] theorem regPutIdx_storeBuf (k : Core) (i : Nat) (w : Word) : (regPutIdx k i w).storeBuf = k.storeBuf := (rfl)
@[simp] theorem regPutIdx_movb (k : Core) (i : Nat) (w : Word) : (regPutIdx k i w).movb = k.movb := (rfl)
@[simp] theorem regPutIdx_stub (k : Core) (i : Nat) (w : Word) : (regPutIdx k i w).stub = k.stub := (rfl)
@[simp] theorem regPutIdx_offer (k : Core) (i : Nat) (w : Word) : (regPutIdx k i w).offer = k.offer := (rfl)
@[simp] theorem regPutIdx_claims (k : Core) (i : Nat) (w : Word) : (regPutIdx k i w).claims = k.claims := (rfl)
@[simp] theorem regPutIdx_pinned (k : Core) (i : Nat) (w : Word) : (regPutIdx k i w).pinned = k.pinned := (rfl)
@[simp] theorem regPutIdx_pred (k : Core) (i : Nat) (w : Word) : (regPutIdx k i w).pred = k.pred := (rfl)
@[simp] theorem regPutIdx_tbCopy (k : Core) (i : Nat) (w : Word) : (regPutIdx k i w).tbCopy = k.tbCopy := (rfl)
@[simp] theorem regPutIdx_sendQ (k : Core) (i : Nat) (w : Word) : (regPutIdx k i w).sendQ = k.sendQ := (rfl)
@[simp] theorem regPutIdx_recvQ (k : Core) (i : Nat) (w : Word) : (regPutIdx k i w).recvQ = k.recvQ := (rfl)
@[simp] theorem regPutIdx_pend (k : Core) (i : Nat) (w : Word) : (regPutIdx k i w).pend = k.pend := (rfl)
@[simp] theorem regPutIdx_halted (k : Core) (i : Nat) (w : Word) : (regPutIdx k i w).halted = k.halted := (rfl)
@[simp] theorem regPutIdx_haltReq (k : Core) (i : Nat) (w : Word) : (regPutIdx k i w).haltReq = k.haltReq := (rfl)
@[simp] theorem regPutIdx_stepReq (k : Core) (i : Nat) (w : Word) : (regPutIdx k i w).stepReq = k.stepReq := (rfl)
@[simp] theorem regPutIdx_ciphSt (k : Core) (i : Nat) (w : Word) : (regPutIdx k i w).ciphSt = k.ciphSt := (rfl)
@[simp] theorem regPutIdx_ciphBusy (k : Core) (i : Nat) (w : Word) : (regPutIdx k i w).ciphBusy = k.ciphBusy := (rfl)
@[simp] theorem regPutIdx_ledgAck (k : Core) (i : Nat) (w : Word) : (regPutIdx k i w).ledgAck = k.ledgAck := (rfl)
@[simp] theorem regPutIdx_compRing (k : Core) (i : Nat) (w : Word) : (regPutIdx k i w).compRing = k.compRing := (rfl)
@[simp] theorem regPutIdx_workFull (k : Core) (i : Nat) (w : Word) : (regPutIdx k i w).workFull = k.workFull := (rfl)
@[simp] theorem regPutIdx_workRun (k : Core) (i : Nat) (w : Word) : (regPutIdx k i w).workRun = k.workRun := (rfl)
@[simp] theorem regPutIdx_home (k : Core) (i : Nat) (w : Word) : (regPutIdx k i w).home = k.home := (rfl)
@[simp] theorem regPutIdx_kerfTimes (k : Core) (i : Nat) (w : Word) : (regPutIdx k i w).kerfTimes = k.kerfTimes := (rfl)
@[simp] theorem regPutIdx_modeNew (k : Core) (i : Nat) (w : Word) : (regPutIdx k i w).modeNew = k.modeNew := (rfl)
@[simp] theorem regPutIdx_test (k : Core) (i : Nat) (w : Word) : (regPutIdx k i w).test = k.test := (rfl)
@[simp] theorem regPutIdx_last (k : Core) (i : Nat) (w : Word) : (regPutIdx k i w).last = k.last := (rfl)

/-! ## Reading back -/

/-- A bank word after a write of a bank word. -/
theorem memGet_memPut {s : State} (h : Memory.wf s.mem = true) (a b : Nat) (w : Word) :
    memGet (memPut s a w) b = if b = a then w else memGet s b :=
  tabGet_tabSet (e := fun _ => emptyW) a b w h

/-- Another bank word reads as before. -/
theorem memGet_memPut_ne (s : State) {a b : Nat} (h : b ≠ a) (w : Word) : memGet (memPut s a w) b = memGet s b :=
  tabGet_tabSet_ne _ _ _ _ _ _ h

/-- An I/O register after a write of an I/O register. -/
theorem ioGet_ioPut {s : State} (h : tabWf ioReset none s.io = true) (a b : Nat) (w : Word) :
    ioGet (ioPut s a w) b = if b = a then w else ioGet s b :=
  tabGet_tabSet a b w h

/-- Another I/O register reads as before. -/
theorem ioGet_ioPut_ne (s : State) {a b : Nat} (h : b ≠ a) (w : Word) : ioGet (ioPut s a w) b = ioGet s b :=
  tabGet_tabSet_ne _ _ _ _ _ _ h

/-- A field register after a write of a field register. -/
theorem fldGet_fldPut {s : State} (h : tabWf fldReset none s.fld = true) (a b : Nat) (w : Word) :
    fldGet (fldPut s a w) b = if b = a then w else fldGet s b :=
  tabGet_tabSet a b w h

/-- Another field register reads as before. -/
theorem fldGet_fldPut_ne (s : State) {a b : Nat} (h : b ≠ a) (w : Word) : fldGet (fldPut s a w) b = fldGet s b :=
  tabGet_tabSet_ne _ _ _ _ _ _ h

/-- A core after a change of a core. -/
theorem coreOf_setCore {s : State} (h : tabWf (fun _ => Core.reset) none s.cores = true) (c d : Nat) (k : Core) :
    coreOf (setCore s c k) d = if d = c then k else coreOf s d :=
  tabGet_tabSet (e := fun _ => Core.reset) c d k h

/-- Another core is as before. -/
theorem coreOf_setCore_ne (s : State) {c d : Nat} (h : d ≠ c) (k : Core) : coreOf (setCore s c k) d = coreOf s d :=
  tabGet_tabSet_ne _ _ _ _ _ _ h

/-- A syllable of the writable store after a write. -/
theorem csRaw_csPut {s : State} (h : tabWf (fun _ => 0#40) none s.cs = true) (l m : Nat) (w : BitVec 40) (hm : 0x20000 ≤ m) :
    csRaw (csPut s l w) m = if m = l then w else csRaw s m := by
  have := tabGet_tabSet (e := fun _ => 0#40) l m w h
  simp only [csRaw, csPut, if_neg (Nat.not_lt.mpr hm)]
  exact this

/-- Another table does not change a read. -/
@[simp] theorem memGet_ioPut (s : State) (a b : Nat) (w : Word) : memGet (ioPut s a w) b = memGet s b := (rfl)
@[simp] theorem memGet_setCore (s : State) (c b : Nat) (k : Core) : memGet (setCore s c k) b = memGet s b := (rfl)
@[simp] theorem memGet_fldPut (s : State) (a b : Nat) (w : Word) : memGet (fldPut s a w) b = memGet s b := (rfl)
@[simp] theorem memGet_bump (s : State) (b : Nat) : memGet (bump s) b = memGet s b := (rfl)
@[simp] theorem memGet_emit (s : State) (o : Out) (b : Nat) : memGet (emit s o) b = memGet s b := (rfl)
@[simp] theorem ioGet_memPut (s : State) (a b : Nat) (w : Word) : ioGet (memPut s a w) b = ioGet s b := (rfl)
@[simp] theorem ioGet_setCore (s : State) (c b : Nat) (k : Core) : ioGet (setCore s c k) b = ioGet s b := (rfl)
@[simp] theorem ioGet_fldPut (s : State) (a b : Nat) (w : Word) : ioGet (fldPut s a w) b = ioGet s b := (rfl)
@[simp] theorem ioGet_bump (s : State) (b : Nat) : ioGet (bump s) b = ioGet s b := (rfl)
@[simp] theorem ioGet_emit (s : State) (o : Out) (b : Nat) : ioGet (emit s o) b = ioGet s b := (rfl)
@[simp] theorem coreOf_ioPut (s : State) (a c : Nat) (w : Word) : coreOf (ioPut s a w) c = coreOf s c := (rfl)
@[simp] theorem coreOf_memPut (s : State) (a c : Nat) (w : Word) : coreOf (memPut s a w) c = coreOf s c := (rfl)
@[simp] theorem coreOf_fldPut (s : State) (a c : Nat) (w : Word) : coreOf (fldPut s a w) c = coreOf s c := (rfl)
@[simp] theorem coreOf_bump (s : State) (c : Nat) : coreOf (bump s) c = coreOf s c := (rfl)
@[simp] theorem coreOf_emit (s : State) (o : Out) (c : Nat) : coreOf (emit s o) c = coreOf s c := (rfl)
@[simp] theorem fldGet_ioPut (s : State) (a b : Nat) (w : Word) : fldGet (ioPut s a w) b = fldGet s b := (rfl)
@[simp] theorem fldGet_setCore (s : State) (c b : Nat) (k : Core) : fldGet (setCore s c k) b = fldGet s b := (rfl)

end Sys2Proof.Machine
end

