-- ==== Sys2Proof/Laws/Keeps.lean ====
section
/-! SUPPORT. `Keeps z s`: from `z` to `s` the queue is as it was and the invariant is kept. Every operation of the model
keeps it; the files Laws/Keeps1.lean and on say so of one definition after the other. -/

namespace Sys2Proof.Machine

/-- From `z` to `s` the queue of commands is unchanged and the invariant is kept. -/
def Keeps (z s : State) : Prop := s.pending = z.pending ∧ (Inv z → Inv s)

theorem Keeps.refl (z : State) : Keeps z z := ⟨rfl, id⟩

theorem Keeps.trans {a b c : State} (h : Keeps a b) (g : Keeps b c) : Keeps a c :=
  ⟨g.1.trans h.1, fun i => g.2 (h.2 i)⟩

/-- A change outside the queue and the tables of the invariant. -/
theorem Keeps.of_same {z s t : State} (h : Keeps z s) (hp : t.pending = s.pending) (hm : t.mem = s.mem)
    (hi : t.io = s.io) (hf : t.fld = s.fld) (hb : t.bar = s.bar) (hc : t.cs = s.cs) (ht : t.tb = s.tb)
    (hk : t.cores = s.cores) : Keeps z t := by
  refine ⟨hp.trans h.1, fun i => ?_⟩
  have := h.2 i
  simp only [Inv, coreOf] at *
  rw [hm, hi, hf, hb, hc, ht, hk]
  exact this

/-- A state written out that has the queue and the tables of another. -/
theorem keeps_mk {z s : State} {x_eccBad : List Nat} {x_eccSoft : List Nat} {x_rowErrs : Tab (List (Nat × Nat))} {x_csBad : List Nat}
    {x_csSoft : List Nat} {x_svCycle : Nat} {x_fresh : Nat} {x_leaseAt : Tab (BitVec 72)} {x_nearLease : List Nat}
    {x_cmpDue : List Nat} {x_bankChg : Tab BankChange} {x_marching : Option (Nat × Bool)} {x_repairing : Option
    (Nat × Nat × Nat × Nat)} {x_asserted : List Nat} {x_lastAny : Nat} {x_tdLast : List Int} {x_jobs : Tab Job}
    {x_ciphQ : List Nat} {x_keysKept : Option (List Payload)} {x_ledger : Ledger} {x_entries : List Entry}
    {x_waits : List Waiter} {x_expSeq : Tab Nat} {x_rotor : Tab Nat} {x_cqUsed : Tab Nat} {x_cqHead : Tab Nat}
    {x_msiSent : List Nat} {x_spool : List SpoolEnt} {x_spoolPos : Nat} {x_readyPend : List Nat} {x_acQ : List
    AcItem} {x_cqOff : List Nat} {x_sess : Tab Session} {x_sessClock : Nat} {x_config : Tab Nat} {x_locked : List
    Nat} {x_shimBusy : Option (List (Nat × Nat) × Nat)} {x_hookDone : Bool} {x_elArmed : Bool} {x_lringSent :
    Bool} {x_clOff : List Nat} {x_islReset : List Nat} {x_hlOff : Bool} {x_straps : Nat} {x_alive : Bool}
    {x_refLost : Bool} {x_vidLow : Bool} {x_debug : Debug} {x_dh : DvEnd} {x_df : DvEnd} {x_dov : DovH} {x_field :
    Field} {x_splice : Option (Nat × Nat × Nat × Option Nat)} {x_carrier : Nat} {x_out : List Out}
    (h : Keeps z s) :
    Keeps z (State.mk s.pending s.io s.fld s.bar s.mem x_eccBad x_eccSoft x_rowErrs s.cs x_csBad x_csSoft s.cores s.tb x_svCycle
      x_fresh x_leaseAt x_nearLease x_cmpDue x_bankChg x_marching x_repairing x_asserted x_lastAny x_tdLast x_jobs
      x_ciphQ x_keysKept x_ledger x_entries x_waits x_expSeq x_rotor x_cqUsed x_cqHead x_msiSent x_spool x_spoolPos
      x_readyPend x_acQ x_cqOff x_sess x_sessClock x_config x_locked x_shimBusy x_hookDone x_elArmed x_lringSent
      x_clOff x_islReset x_hlOff x_straps x_alive x_refLost x_vidLow x_debug x_dh x_df x_dov x_field x_splice
      x_carrier x_out) :=
  h.of_same rfl rfl rfl rfl rfl rfl rfl rfl

theorem keeps_ite {z a b : State} {p : Prop} [Decidable p] (ha : p → Keeps z a) (hb : ¬ p → Keeps z b) :
    Keeps z (if p then a else b) := by
  split
  · exact ha ‹_›
  · exact hb ‹_›

theorem keeps_foldl {α : Type} {z s : State} (f : State → α → State) (l : List α) (h : Keeps z s)
    (hf : ∀ s x, Keeps s (f s x)) : Keeps z (l.foldl f s) := by
  induction l generalizing s with
  | nil => exact h
  | cons x l ih => exact ih (h.trans (hf s x))

theorem keeps_foldr {α : Type} {z s : State} (f : α → State → State) (l : List α) (h : Keeps z s)
    (hf : ∀ x s, Keeps s (f x s)) : Keeps z (l.foldr f s) := by
  induction l with
  | nil => exact h
  | cons x l ih => exact ih.trans (hf x _)

theorem keeps_ioPut {z s : State} (a : Nat) (w : Word) (h : Keeps z s) : Keeps z (ioPut s a w) :=
  ⟨h.1, fun i => by have := h.2 i; simp only [Inv] at *; exact ⟨this.1, tabWf_tabSet a w this.2.1, this.2.2⟩⟩

theorem keeps_fldPut {z s : State} (a : Nat) (w : Word) (h : Keeps z s) : Keeps z (fldPut s a w) :=
  ⟨h.1, fun i => by
    have := h.2 i; simp only [Inv] at *; exact ⟨this.1, this.2.1, tabWf_tabSet a w this.2.2.1, this.2.2.2⟩⟩

theorem keeps_barPut {z s : State} (o n : Nat) (h : Keeps z s) : Keeps z (barPut s o n) :=
  ⟨h.1, fun i => by
    have := h.2 i; simp only [Inv] at *
    exact ⟨this.1, this.2.1, this.2.2.1, tabWf_tabSet (d := barReset) o _ this.2.2.2.1, this.2.2.2.2⟩⟩

theorem keeps_csPut {z s : State} (l : Nat) (w : BitVec 40) (h : Keeps z s) : Keeps z (csPut s l w) :=
  ⟨h.1, fun i => by
    have := h.2 i; simp only [Inv] at *
    exact ⟨this.1, this.2.1, this.2.2.1, this.2.2.2.1, tabWf_tabSet (d := fun _ => 0#40) l w this.2.2.2.2.1, this.2.2.2.2.2⟩⟩

theorem keeps_tbPut {z s : State} (n v : Nat) (h : Keeps z s) : Keeps z (tbPut s n v) :=
  ⟨h.1, fun i => by
    have := h.2 i; simp only [Inv] at *
    exact ⟨this.1, this.2.1, this.2.2.1, this.2.2.2.1, this.2.2.2.2.1,
      tabWf_tabSet (d := fun _ => 0#72) n _ this.2.2.2.2.2.1, this.2.2.2.2.2.2⟩⟩

theorem keeps_memPut {z s : State} (a : Nat) (w : Word) (h : Keeps z s) : Keeps z (memPut s a w) :=
  ⟨h.1, fun i => by
    have := h.2 i; simp only [Inv] at *
    exact ⟨tabWf_tabSet (d := fun _ => emptyW) a w this.1, this.2⟩⟩

theorem keeps_setCore {z s : State} (c : Nat) (k : Core) (h : Keeps z s)
    (hk : coreLegal (coreOf s c) → coreLegal k) : Keeps z (setCore s c k) :=
  ⟨h.1, fun i => by
    have := h.2 i; simp only [Inv] at *
    obtain ⟨h1, h2, h3, h4, h5, h6, h7, h8⟩ := this
    refine ⟨h1, h2, h3, h4, h5, h6, tabWf_tabSet (d := fun _ => Core.reset) c k h7, fun d => ?_⟩
    rw [coreOf_setCore h7]
    split
    · exact hk (h8 c)
    · exact h8 d⟩

theorem keeps_modCore {z s : State} (c : Nat) (f : Core → Core) (h : Keeps z s)
    (hk : coreLegal (coreOf s c) → coreLegal (f (coreOf s c))) : Keeps z (modCore s c f) :=
  keeps_setCore c _ h hk

/-- Memory without some of its words. -/
theorem keeps_memFilter {z s : State} (f : Nat × Word → Bool) (e g : List Nat) (h : Keeps z s) :
    Keeps z { s with mem := s.mem.filter f, eccBad := e, eccSoft := g } :=
  ⟨h.1, fun i => by have := h.2 i; exact ⟨tabWf_filter f this.1, this.2⟩⟩

/-- A state written out whose memory has lost some words. -/
theorem keeps_mkMem {z s : State} {f : Nat × Word → Bool} {x_eccBad : List Nat} {x_eccSoft : List Nat} {x_rowErrs : Tab (List (Nat × Nat))} {x_csBad : List Nat}
    {x_csSoft : List Nat} {x_svCycle : Nat} {x_fresh : Nat} {x_leaseAt : Tab (BitVec 72)} {x_nearLease : List Nat}
    {x_cmpDue : List Nat} {x_bankChg : Tab BankChange} {x_marching : Option (Nat × Bool)} {x_repairing : Option
    (Nat × Nat × Nat × Nat)} {x_asserted : List Nat} {x_lastAny : Nat} {x_tdLast : List Int} {x_jobs : Tab Job}
    {x_ciphQ : List Nat} {x_keysKept : Option (List Payload)} {x_ledger : Ledger} {x_entries : List Entry}
    {x_waits : List Waiter} {x_expSeq : Tab Nat} {x_rotor : Tab Nat} {x_cqUsed : Tab Nat} {x_cqHead : Tab Nat}
    {x_msiSent : List Nat} {x_spool : List SpoolEnt} {x_spoolPos : Nat} {x_readyPend : List Nat} {x_acQ : List
    AcItem} {x_cqOff : List Nat} {x_sess : Tab Session} {x_sessClock : Nat} {x_config : Tab Nat} {x_locked : List
    Nat} {x_shimBusy : Option (List (Nat × Nat) × Nat)} {x_hookDone : Bool} {x_elArmed : Bool} {x_lringSent :
    Bool} {x_clOff : List Nat} {x_islReset : List Nat} {x_hlOff : Bool} {x_straps : Nat} {x_alive : Bool}
    {x_refLost : Bool} {x_vidLow : Bool} {x_debug : Debug} {x_dh : DvEnd} {x_df : DvEnd} {x_dov : DovH} {x_field :
    Field} {x_splice : Option (Nat × Nat × Nat × Option Nat)} {x_carrier : Nat} {x_out : List Out}
    (h : Keeps z s) :
    Keeps z (State.mk s.pending s.io s.fld s.bar (s.mem.filter f) x_eccBad x_eccSoft x_rowErrs s.cs x_csBad x_csSoft s.cores s.tb
      x_svCycle x_fresh x_leaseAt x_nearLease x_cmpDue x_bankChg x_marching x_repairing x_asserted x_lastAny
      x_tdLast x_jobs x_ciphQ x_keysKept x_ledger x_entries x_waits x_expSeq x_rotor x_cqUsed x_cqHead x_msiSent
      x_spool x_spoolPos x_readyPend x_acQ x_cqOff x_sess x_sessClock x_config x_locked x_shimBusy x_hookDone
      x_elArmed x_lringSent x_clOff x_islReset x_hlOff x_straps x_alive x_refLost x_vidLow x_debug x_dh x_df x_dov
      x_field x_splice x_carrier x_out) :=
  (keeps_memFilter f s.eccBad s.eccSoft h).of_same rfl rfl rfl rfl rfl rfl rfl rfl

theorem keeps_ioFilter {z s : State} (f : Nat × Word → Bool) (h : Keeps z s) : Keeps z { s with io := s.io.filter f } :=
  ⟨h.1, fun i => by have := h.2 i; exact ⟨this.1, tabWf_filter f this.2.1, this.2.2⟩⟩

/-- A state written out whose I/O registers have lost some entries. -/
theorem keeps_mkIo {z s : State} {f : Nat × Word → Bool} {x_eccBad : List Nat} {x_eccSoft : List Nat} {x_rowErrs : Tab (List (Nat × Nat))} {x_csBad : List Nat}
    {x_csSoft : List Nat} {x_svCycle : Nat} {x_fresh : Nat} {x_leaseAt : Tab (BitVec 72)} {x_nearLease : List Nat}
    {x_cmpDue : List Nat} {x_bankChg : Tab BankChange} {x_marching : Option (Nat × Bool)} {x_repairing : Option
    (Nat × Nat × Nat × Nat)} {x_asserted : List Nat} {x_lastAny : Nat} {x_tdLast : List Int} {x_jobs : Tab Job}
    {x_ciphQ : List Nat} {x_keysKept : Option (List Payload)} {x_ledger : Ledger} {x_entries : List Entry}
    {x_waits : List Waiter} {x_expSeq : Tab Nat} {x_rotor : Tab Nat} {x_cqUsed : Tab Nat} {x_cqHead : Tab Nat}
    {x_msiSent : List Nat} {x_spool : List SpoolEnt} {x_spoolPos : Nat} {x_readyPend : List Nat} {x_acQ : List
    AcItem} {x_cqOff : List Nat} {x_sess : Tab Session} {x_sessClock : Nat} {x_config : Tab Nat} {x_locked : List
    Nat} {x_shimBusy : Option (List (Nat × Nat) × Nat)} {x_hookDone : Bool} {x_elArmed : Bool} {x_lringSent :
    Bool} {x_clOff : List Nat} {x_islReset : List Nat} {x_hlOff : Bool} {x_straps : Nat} {x_alive : Bool}
    {x_refLost : Bool} {x_vidLow : Bool} {x_debug : Debug} {x_dh : DvEnd} {x_df : DvEnd} {x_dov : DovH} {x_field :
    Field} {x_splice : Option (Nat × Nat × Nat × Option Nat)} {x_carrier : Nat} {x_out : List Out}
    (h : Keeps z s) :
    Keeps z (State.mk s.pending (s.io.filter f) s.fld s.bar s.mem x_eccBad x_eccSoft x_rowErrs s.cs x_csBad x_csSoft s.cores s.tb
      x_svCycle x_fresh x_leaseAt x_nearLease x_cmpDue x_bankChg x_marching x_repairing x_asserted x_lastAny
      x_tdLast x_jobs x_ciphQ x_keysKept x_ledger x_entries x_waits x_expSeq x_rotor x_cqUsed x_cqHead x_msiSent
      x_spool x_spoolPos x_readyPend x_acQ x_cqOff x_sess x_sessClock x_config x_locked x_shimBusy x_hookDone
      x_elArmed x_lringSent x_clOff x_islReset x_hlOff x_straps x_alive x_refLost x_vidLow x_debug x_dh x_df x_dov
      x_field x_splice x_carrier x_out) :=
  (keeps_ioFilter f h).of_same rfl rfl rfl rfl rfl rfl rfl rfl

theorem keeps_bump {z s : State} (h : Keeps z s) : Keeps z (bump s) := h.of_same rfl rfl rfl rfl rfl rfl rfl rfl
theorem keeps_emit {z s : State} (o : Out) (h : Keeps z s) : Keeps z (emit s o) :=
  h.of_same rfl rfl rfl rfl rfl rfl rfl rfl

/-! ## Legal cores -/

theorem coreLegal_of {k l : Core} (h : coreLegal k) (hr : l.ring = k.ring) (hc : l.cur = k.cur) : coreLegal l := by
  simp only [coreLegal] at *; omega

/-- A core written out that has the ring and the window of another. -/
theorem legal_mk {k : Core} {x_regs : Tab Word} {x_mpc : Link} {x_mstat : Payload} {x_live : Nat} {x_wsp : Word} {x_tsp : Tab Word} {x_vtb
    : Word} {x_gtb : Word} {x_repc : Nat} {x_repInt : Bool} {x_lcnt : Nat} {x_lbeg : Link} {x_lend : Link}
    {x_evlat : Nat} {x_pbarN : Nat} {x_pbarHold : Bool} {x_ctx : Word} {x_shdw0 : Word} {x_shdw1 : Payload} {x_mw
    : List Instr} {x_slots : Nat} {x_shadow : List Shadow} {x_rearm : Option Shadow} {x_delay : Option Link}
    {x_wait : Wait} {x_lngDone : Bool} {x_paced : Bool} {x_hostAcc : Option HostAcc} {x_storeBuf : List StoreEnt}
    {x_movb : Option Movb} {x_stub : Option Nat} {x_offer : Option Nat} {x_claims : List (Nat × Nat)} {x_pinned :
    List Nat} {x_pred : Pred} {x_tbCopy : Tab Payload} {x_sendQ : List Msg} {x_recvQ : List Msg} {x_pend : List
    Async} {x_halted : Bool} {x_haltReq : Bool} {x_stepReq : Bool} {x_ciphSt : Nat} {x_ciphBusy : Bool} {x_ledgAck
    : Bool} {x_compRing : Option Nat} {x_workFull : Bool} {x_workRun : Option Work} {x_home : Option Home}
    {x_kerfTimes : List Nat} {x_modeNew : Option (Bool × Bool)} {x_test : Nat} {x_last : Link}
    (h : coreLegal k) :
    coreLegal (Core.mk x_regs x_mpc x_mstat k.ring k.cur x_live x_wsp x_tsp x_vtb x_gtb x_repc x_repInt x_lcnt x_lbeg x_lend x_evlat
      x_pbarN x_pbarHold x_ctx x_shdw0 x_shdw1 x_mw x_slots x_shadow x_rearm x_delay x_wait x_lngDone x_paced
      x_hostAcc x_storeBuf x_movb x_stub x_offer x_claims x_pinned x_pred x_tbCopy x_sendQ x_recvQ x_pend x_halted
      x_haltReq x_stepReq x_ciphSt x_ciphBusy x_ledgAck x_compRing x_workFull x_workRun x_home x_kerfTimes x_modeNew
      x_test x_last) :=
  coreLegal_of h rfl rfl

/-- A core written out with a legal ring and window. -/
theorem legal_mkAny {x_regs : Tab Word} {x_mpc : Link} {x_mstat : Payload} {x_ring : Nat} {x_cur : Nat} {x_live : Nat} {x_wsp :
    Word} {x_tsp : Tab Word} {x_vtb : Word} {x_gtb : Word} {x_repc : Nat} {x_repInt : Bool} {x_lcnt : Nat} {x_lbeg
    : Link} {x_lend : Link} {x_evlat : Nat} {x_pbarN : Nat} {x_pbarHold : Bool} {x_ctx : Word} {x_shdw0 : Word}
    {x_shdw1 : Payload} {x_mw : List Instr} {x_slots : Nat} {x_shadow : List Shadow} {x_rearm : Option Shadow}
    {x_delay : Option Link} {x_wait : Wait} {x_lngDone : Bool} {x_paced : Bool} {x_hostAcc : Option HostAcc}
    {x_storeBuf : List StoreEnt} {x_movb : Option Movb} {x_stub : Option Nat} {x_offer : Option Nat} {x_claims :
    List (Nat × Nat)} {x_pinned : List Nat} {x_pred : Pred} {x_tbCopy : Tab Payload} {x_sendQ : List Msg} {x_recvQ
    : List Msg} {x_pend : List Async} {x_halted : Bool} {x_haltReq : Bool} {x_stepReq : Bool} {x_ciphSt : Nat}
    {x_ciphBusy : Bool} {x_ledgAck : Bool} {x_compRing : Option Nat} {x_workFull : Bool} {x_workRun : Option Work}
    {x_home : Option Home} {x_kerfTimes : List Nat} {x_modeNew : Option (Bool × Bool)} {x_test : Nat} {x_last :
    Link}
    (hr : x_ring < 4) (hc : x_cur < 16) :
    coreLegal (Core.mk x_regs x_mpc x_mstat x_ring x_cur x_live x_wsp x_tsp x_vtb x_gtb x_repc x_repInt x_lcnt x_lbeg x_lend x_evlat
      x_pbarN x_pbarHold x_ctx x_shdw0 x_shdw1 x_mw x_slots x_shadow x_rearm x_delay x_wait x_lngDone x_paced
      x_hostAcc x_storeBuf x_movb x_stub x_offer x_claims x_pinned x_pred x_tbCopy x_sendQ x_recvQ x_pend x_halted
      x_haltReq x_stepReq x_ciphSt x_ciphBusy x_ledgAck x_compRing x_workFull x_workRun x_home x_kerfTimes x_modeNew
      x_test x_last) :=
  ⟨hr, hc⟩

theorem coreLegal_reset : coreLegal Core.reset := by simp [coreLegal, Core.reset]

end Sys2Proof.Machine
end

