-- ==== Sys2Proof/Laws/Issue.lean ====
section
/-! SUPPORT. A microword of one syllable: how it is issued, and what its retirement does. -/

namespace Sys2Proof.Machine



/-- The tag of a word that is built from its tag and payload. -/
@[simp] theorem wtag_mkW (t : Tag) (p : Nat) : wtag (mkW t p) = t := by
  have h : (mkW t p).toNat / 2 ^ 36 = t.code := by
    unfold mkW
    rw [BitVec.toNat_ofNat]
    have : t.code < 16 := by cases t <;> decide
    have : p % 2 ^ 36 < 2 ^ 36 := Nat.mod_lt _ (by decide)
    omega
  unfold wtag
  rw [h]
  cases t <;> rfl
/-- The payload of such a word. -/
@[simp] theorem pay_mkW (t : Tag) (p : Nat) : pay (mkW t p) = p % 2 ^ 36 := by
  unfold pay mkW
  rw [BitVec.toNat_ofNat]
  have : t.code < 16 := by cases t <;> decide
  omega

theorem coreOf_taken {s : State} (hI : Inv s) (c : CoreId) (i : Instr) (y : Syl) :
    coreOf (taken s c i y) c.val = gather i y (coreOf s c.val) := by
  rw [taken, modCore, coreOf_setCore hI.2.2.2.2.2.2.1, if_pos rfl]

theorem isPad_false {k : Core} {i : Instr} {h : Shape} {y : Syl} (hi : sylOf i = some (h, y))
    (hn : h.cls = 0 → h.op = 0 → y.m ≠ 0x7FFF#15) : isPad k i = false := by
  unfold isPad
  split
  · next c y' =>
    simp [sylOf] at hi
    obtain ⟨rfl, rfl⟩ := hi
    have := hn rfl rfl
    simp
    intro _ _ e
    apply this
    rw [e]
  · simp

theorem wordOf_taken {s : State} (hI : Inv s) {c : CoreId} {i : Instr} {h : Shape} {y : Syl} (hS : Sole s c i h y)
    (hi : sylOf i = some (h, y)) :
    wordOf (coreOf (taken s c i y) c.val) = [⟨i, h, y, (coreOf s c.val).mpc.toNat % 8 + slotsOf y - 1⟩] := by
  rw [coreOf_taken hI, wordOf, gather, hS.first]
  simp [placed, hi]

theorem classMax_pos (n : Nat) : 0 < classMax n := by unfold classMax; split <;> decide

theorem wholeFault_taken {s : State} (hI : Inv s) {c : CoreId} {i : Instr} {h : Shape} {y : Syl} (hS : Sole s c i h y)
    (hi : sylOf i = some (h, y)) : wholeFault (taken s c i y) c.val = none := by
  have hk := coreOf_taken hI c i y
  have hw := wordOf_taken hI hS hi
  have hill : wholeIllop (coreOf (taken s c i y) c.val) = none := by
    have h1 : lineAbsent (lineOf (coreOf (taken s c i y) c.val).mpc) = false := by rw [hk]; exact hS.present
    have h2 : noSeq (coreOf (taken s c i y) c.val) = noSeq (coreOf s c.val) := by rw [hk]; rfl
    unfold wholeIllop
    rw [hw, h1, h2]
    have h3 := hS.fits
    have h4 : (coreOf (taken s c i y) c.val).slots = slotsOf y := by rw [hk]; simp [gather, hS.zero]
    have h5 : (coreOf (taken s c i y) c.val).mpc = (coreOf s c.val).mpc := by rw [hk]; rfl
    have hp := classMax_pos h.cls
    rw [h4, h5]
    simp [wordFlaw, hS.ext, hS.far, hS.stop, show ¬ (8 < (coreOf s c.val).mpc.toNat % 8 + slotsOf y) by omega,
      show classMax h.cls ≠ 0 by omega]
    intro hn hc
    rcases hS.plain with h6 | h6 | h6
    · exact absurd hc h6
    · exact h6
    · rw [h6] at hn; simp at hn
  have hq : quietDue (coreOf (taken s c i y) c.val) = false := by
    rw [hk]; simp [quietDue, gather, hS.calm]
  have hr : redirectOf (taken s c i y) = redirectOf s := rfl
  have hb : (taken s c i y).csBad = s.csBad := rfl
  have hin : innerLine (taken s c i y) = innerLine s := rfl
  unfold wholeFault
  dsimp only
  rw [hr, hb, hin, hill, hq, hk]
  have h1 : (gather i y (coreOf s c.val)).mpc = (coreOf s c.val).mpc := rfl
  have h2 : (gather i y (coreOf s c.val)).mstat = (coreOf s c.val).mstat := rfl
  have h3 : (gather i y (coreOf s c.val)).ring = (coreOf s c.val).ring := rfl
  rw [h1, h2, h3, hS.calm, hS.whole, hS.ring]
  simp

/-- A microword of one syllable is evaluated as that syllable. -/
theorem issueState_sole {s : State} (hI : Inv s) {c : CoreId} {i : Instr} {h : Shape} {y : Syl} (hS : Sole s c i h y)
    (hi : sylOf i = some (h, y)) (hn : h.cls = 0 → h.op = 0 → y.m ≠ 0x7FFF#15) :
    issueState s c.val i y =
      wordEnd (taken s c i y) c.val (semOf i (soleCtx s c i y) (Acc.start (taken s c i y))) := by
  have hk := coreOf_taken hI c i y
  have hw := wordOf_taken hI hS hi
  have hwf := wholeFault_taken hI hS hi
  have htake : issueState s c.val i y = issueTake s c.val i y := by
    simp [issueState, hS.idle, hS.runs, hS.free]
  have hrun : issueTake s c.val i y = runWord (taken s c i y) c.val false := by
    unfold issueTake
    rw [isPad_false hi hn]
    have hf : wordFull (coreOf (taken s c i y) c.val) y = true := by simp [wordFull, hS.stop]
    have hm : mQT (coreOf (taken s c i y) c.val).mstat = false := by rw [hk]; exact hS.calm
    have he : modCore s c.val (gather i y) = taken s c i y := rfl
    dsimp only
    rw [he, hf, hm]
    simp
  rw [htake, hrun]
  unfold runWord
  have hnote : csNote (taken s c i y) (redirectOf (taken s c i y) (lineOf (coreOf (taken s c i y) c.val).mpc)) = taken s c i y := by
    have hr : redirectOf (taken s c i y) = redirectOf s := rfl
    have h1 : (coreOf (taken s c i y) c.val).mpc = (coreOf s c.val).mpc := by rw [hk]; rfl
    have hb : (taken s c i y).csBad = s.csBad := rfl
    have hb2 : (taken s c i y).csSoft = s.csSoft := rfl
    unfold csNote
    rw [hr, h1, hb, hb2, hS.whole, hS.sound]
    simp
  have hwait : (coreOf (taken s c i y) c.val).wait = .none := by rw [hk]; exact hS.idle
  rw [if_pos hwait, hnote]
  dsimp only
  rw [hwf]
  simp only [evalWord, hw, List.foldl, hS.named]
  rfl


/-- A microword that gathers no fault and no wait retires. -/
theorem wordEnd_retires {s : State} {c : Nat} {a : Acc} (hf : a.fault = none) (hh : a.hold = none)
    (hp : succPriv s (coreOf s c) a = none) (hl : a.late = none) (hq : a.lateHold = none) :
    wordEnd s c a = retireWord s c a := by
  unfold wordEnd; rw [hf, hh, hp, hl, hq]

theorem succPriv_sole {s : State} (hI : Inv s) {c : CoreId} {i : Instr} {h : Shape} {y : Syl} (hS : Sole s c i h y)
    (a : Acc) : succPriv (taken s c i y) (coreOf (taken s c i y) c.val) a = none := by
  have hk := coreOf_taken hI c i y
  have h1 : skipPad (taken s c i y) = skipPad s := rfl
  have h2 : innerLine (taken s c i y) = innerLine s := rfl
  unfold succPriv
  dsimp only
  rw [h1, h2, hk]
  have h3 : (gather i y (coreOf s c.val)).ring = (coreOf s c.val).ring := rfl
  rw [h3, hS.next]
  simp

/-- A syllable alone in its microword, that gathers no fault and no wait, retires. -/
theorem exec_sole {s : State} (hI : Inv s) {c : CoreId} {i : Instr} {h : Shape} {y : Syl} (hS : Sole s c i h y)
    (hi : sylOf i = some (h, y)) (hn : h.cls = 0 → h.op = 0 → y.m ≠ 0x7FFF#15) (hw : i.wellFormed = true) {a : Acc}
    (ha : semOf i (soleCtx s c i y) (Acc.start (taken s c i y)) = a)
    (hf : a.fault = none) (hh : a.hold = none) (hl : a.late = none) (hq : a.lateHold = none) :
    issue i c y s = .next (retireWord (taken s c i y) c.val a) := by
  unfold issue
  rw [if_pos hw, issueState_sole hI hS hi hn, ha, wordEnd_retires hf hh (succPriv_sole hI hS a) hl hq]


/-- `t` is `s` but for performance counters of core `c`. -/
def Counted (s : State) (c : Nat) (t : State) : Prop :=
  t = { s with
    io := t.io
    fresh := t.fresh } ∧
  ∀ a, (∀ n : Fin 4, a ≠ priv c (oPMCNT n.val)) → ioGet t a = ioGet s a

theorem Counted.refl (s : State) (c : Nat) : Counted s c s := ⟨rfl, fun _ _ => rfl⟩
theorem Counted.trans {s t u : State} {c : Nat} (h : Counted s c t) (g : Counted t c u) : Counted s c u := by
  refine ⟨?_, fun a ha => (g.2 a ha).trans (h.2 a ha)⟩
  rw [g.1, h.1]
theorem counted_pmAdd (c ring evt v : Nat) (s : State) : Counted s c (pmAdd c ring evt v s) := by
  unfold pmAdd
  have hl : ∀ n ∈ (List.range 4).filter (pmSelects s c ring evt), n < 4 := by
    intro n hn; simpa using (List.mem_filter.1 hn).1
  revert hl
  generalize (List.range 4).filter (pmSelects s c ring evt) = l
  induction l generalizing s with
  | nil => intro _; exact Counted.refl _ _
  | cons n l ih =>
    intro hl
    refine Counted.trans ?_ (ih _ fun m hm => hl m (List.mem_cons_of_mem _ hm))
    refine ⟨rfl, fun a ha => ioGet_ioPut_ne _ (ha ⟨n, hl n (List.mem_cons_self ..)⟩) _⟩
theorem counted_bump (s : State) (c : Nat) : Counted s c (bump s) := ⟨rfl, fun _ _ => rfl⟩
theorem counted_pmFree (c ring evt : Nat) (s : State) : Counted s c (pmFree c ring evt s) := by
  unfold pmFree
  split
  · exact (counted_pmAdd ..).trans (counted_bump ..)
  · exact Counted.refl _ _
theorem counted_pmWord (s0 : State) (c : Nat) (a : Acc) (s : State) : Counted s c (pmWord s0 c a s) := by
  unfold pmWord
  dsimp only
  split
  · exact ((((((((counted_pmAdd ..).trans (counted_pmAdd ..)).trans (counted_pmAdd ..)).trans (counted_pmAdd ..)).trans (counted_pmAdd ..)).trans (counted_pmAdd ..)).trans (counted_pmFree ..)).trans (counted_pmFree ..))
  · exact (((((((counted_pmAdd ..).trans (counted_pmAdd ..)).trans (counted_pmAdd ..)).trans (counted_pmAdd ..)).trans (counted_pmAdd ..)).trans (counted_pmAdd ..)).trans (counted_pmFree ..))

theorem tabDel_of_lo {α : Type} [DecidableEq α] {d : Nat → α} {t : Tab α} {l k : Nat} (h : tabWf d (some l) t = true) (hk : k ≤ l) :
    tabDel t k = t := by
  induction t generalizing l with
  | nil => rfl
  | cons p t ih =>
    obtain ⟨j, v⟩ := p
    simp [tabWf] at h
    simp only [tabDel]
    rw [if_neg (by omega), ih h.2 (by omega)]

/-- The entry of a key written twice. -/
theorem tabIns_tabIns {α : Type} (v w : α) (t : Tab α) (k : Nat) : tabIns w (tabIns v t k) k = tabIns w t k := by
  induction t with
  | nil => simp [tabIns]
  | cons p t ih =>
    obtain ⟨j, u⟩ := p
    simp only [tabIns]
    by_cases h : k < j
    · simp [tabIns, h]
    · by_cases e : j = k
      · simp [tabIns, e]
      · simp [tabIns, h, e, ih]
theorem tabDel_tabIns {α : Type} [DecidableEq α] {d : Nat → α} {lo : Option Nat} (v : α) {t : Tab α} (k : Nat) (h : tabWf d lo t = true) :
    tabDel (tabIns v t k) k = tabDel t k := by
  induction t generalizing lo with
  | nil => simp [tabIns, tabDel]
  | cons p t ih =>
    obtain ⟨j, u⟩ := p
    simp only [tabWf, Bool.and_eq_true] at h
    simp only [tabIns]
    by_cases hk : k < j
    · have := tabDel_of_lo h.2 (Nat.le_of_lt hk)
      simp [tabDel, hk, this, show j ≠ k by omega]
    · by_cases e : j = k
      · simp [tabDel, e]
      · simp [tabDel, hk, e, ih h.2]
theorem tabIns_tabDel {α : Type} [DecidableEq α] {d : Nat → α} {lo : Option Nat} (v : α) {t : Tab α} (k : Nat) (h : tabWf d lo t = true) :
    tabIns v (tabDel t k) k = tabIns v t k := by
  induction t generalizing lo with
  | nil => rfl
  | cons p t ih =>
    obtain ⟨j, u⟩ := p
    simp only [tabWf, Bool.and_eq_true] at h
    simp only [tabDel]
    by_cases e : j = k
    · subst e
      simp only [if_true, tabIns, Nat.lt_irrefl, if_false]
      cases t with
      | nil => rfl
      | cons q t =>
        obtain ⟨i, x⟩ := q
        have := h.2
        simp [tabWf] at this
        simp [tabIns, this.1.1]
    · by_cases hk : k < j
      · simp [tabIns, hk, e, tabDel_of_lo h.2 (Nat.le_of_lt hk)]
      · simp [tabIns, hk, e, ih h.2]
theorem tabDel_tabDel {α : Type} [DecidableEq α] {d : Nat → α} {lo : Option Nat} {t : Tab α} (k : Nat) (h : tabWf d lo t = true) :
    tabDel (tabDel t k) k = tabDel t k := by
  induction t generalizing lo with
  | nil => rfl
  | cons p t ih =>
    obtain ⟨j, u⟩ := p
    simp only [tabWf, Bool.and_eq_true] at h
    simp only [tabDel]
    by_cases e : j = k
    · subst e; simp [tabDel_of_lo h.2 (Nat.le_refl _)]
    · simp [tabDel, e, ih h.2]
/-- A key written twice holds the second word. -/
theorem tabSet_tabSet {α : Type} [DecidableEq α] {d : Nat → α} {t : Tab α} (e : α) (k : Nat) (v w : α) (h : tabWf d none t = true) :
    tabSet e (tabSet e t k v) k w = tabSet e t k w := by
  unfold tabSet
  split <;> split
  · exact tabDel_tabDel k h
  · exact tabDel_tabIns v k h
  · exact tabIns_tabDel w k h
  · exact tabIns_tabIns ..
theorem setCore_setCore {s : State} (hI : tabWf (fun _ => Core.reset) none s.cores = true) (c : Nat) (k l : Core) : setCore (setCore s c k) c l = setCore s c l := by
  simp only [setCore]
  rw [tabSet_tabSet (d := fun _ => Core.reset) _ _ _ _ hI]

theorem OnlyCore.of_counted {s t u : State} {c : CoreId} {k : Core} (h : OnlyCore s c k t) (g : Counted t c.val u) :
    OnlyCore s c k u := by
  refine ⟨?_, fun a h1 h2 => (g.2 a h2).trans (h.2 a h1 h2)⟩
  rw [g.1, h.1]
theorem onlyCore_wdogRestart {s : State} {c : CoreId} {k : Core} : OnlyCore s c k (wdogRestart (setCore s c.val k) c.val) := by
  unfold wdogRestart
  dsimp only
  split
  · exact ⟨rfl, fun _ _ _ => rfl⟩
  · exact ⟨rfl, fun a h _ => ioGet_ioPut_ne _ h _⟩


theorem foldl_regPut (cur : Nat) (ws : List (Nat × Word)) (k : Core) :
    ws.foldl (fun l p => regPut l cur p.1 p.2) k = { k with regs := regsAll cur ws k.regs } := by
  induction ws generalizing k with
  | nil => rfl
  | cons p ws ih =>
    simp only [List.foldl]
    rw [ih]
    unfold regPut regPutIdx
    by_cases h : p.1 = 0 <;> simp [h, regsAll]

theorem flowPlace_steady {k : Core} (hl : k.lcnt = 0) : flowPlace k = linkAdd k.mpc k.slots := by
  unfold flowPlace; rw [hl]; simp

theorem retirePred_eq (a : Acc) (k : Core) :
    retirePred a k = { k with
      pred := learned k a.branch
      pbarN := k.pbarN - 1 } := by
  unfold retirePred learned
  cases a.branch with
  | none => rfl
  | some q =>
    obtain ⟨place, go⟩ := q
    by_cases h : predBarred k = true <;> simp [h]
/-- The core of a steady retirement. -/
theorem retire_core (s0 : State) {k : Core} (hK : Steady k) (h1 : k.mw = []) (h2 : k.slots = 0) (h3 : k.wait = .none) {a : Acc}
    {i : Instr} {y : Syl} {w : Wait} (cmp : Bool) (hx : a.xfer = none ∨ cmp = false) (hr : a.rep = none) (hp : a.loop = none) :
    retireDebug k.mpc (wordClear (retirePred a (retireXfer a cmp (retireFlow s0 a (retireRegs k.cur a
      { gather i y k with wait := w }))))) = settled k y a := by
  obtain ⟨a1, a2, a3, a4, a5, a6, a7⟩ := hK
  have e : retireRegs k.cur a { gather i y k with wait := w } =
      { gather i y k with
        wait := w
        regs := regsAll k.cur a.writes k.regs
        shadow := shadowNew k.cur a.loads } := by
    unfold retireRegs
    rw [foldl_regPut]
    simp [gather, a1, a2, shadowStep]
  rw [e]
  have e2 : retireFlow s0 a { gather i y k with
        wait := w
        regs := regsAll k.cur a.writes k.regs
        shadow := shadowNew k.cur a.loads } =
      { gather i y k with
        wait := w
        regs := regsAll k.cur a.writes k.regs
        shadow := shadowNew k.cur a.loads
        repInt := false
        mpc := linkAdd k.mpc (slotsOf y) } := by
    cases k
    dsimp only at *
    subst a1 a2 a3 a4 a5 a6 a7 h1 h2 h3
    unfold retireFlow
    simp [hr, hp, gather, flowPlace]
  rw [e2]
  rw [retirePred_eq]
  unfold retireXfer settled
  have hcmp : ∀ t, a.xfer = some t → cmp = false := by
    intro t ht; rcases hx with h | h
    · rw [h] at ht; cases ht
    · exact h
  revert hcmp
  generalize a.xfer = x
  intro hcmp
  have hlearn : ∀ l : Core, l.pbarN = k.pbarN → l.pbarHold = k.pbarHold → l.mstat = k.mstat → l.pred = k.pred →
      learned l a.branch = learned k a.branch := by
    intro l g1 g2 g3 g4
    unfold learned predBarred
    rw [g1, g2, g3, g4]
  cases x with
  | none =>
    generalize learned k a.branch = q at hlearn ⊢
    clear e e2 hx hr hp hcmp
    cases k
    dsimp only at *
    subst a1 a2 a3 a4 a5 a6 a7 h1 h2 h3
    simp [gather, passed, putAll, retireDebug, wordClear]
    exact hlearn _ rfl rfl rfl rfl
  | some t =>
    rw [hcmp t rfl]
    generalize learned k a.branch = q at hlearn ⊢
    clear e e2 hx hr hp hcmp
    cases k
    dsimp only at *
    subst a1 a2 a3 a4 a5 a6 a7 h1 h2 h3
    simp [gather, passed, putAll, retireDebug, wordClear]
    exact hlearn _ rfl rfl rfl rfl

/-- What the retirement of a microword of one syllable does, when nothing of earlier microwords is under way. `s0` is the
state in which it was evaluated, `u` and `k` the state and the core that the syllable's own effects leave, `w` what the core
waited for. -/
theorem retire_settled {s0 u : State} {c : CoreId} {i : Instr} {y : Syl} {k : Core} {w : Wait}
    (hu : tabWf (fun _ => Core.reset) none u.cores = true) (hK : Steady k) (h1 : k.mw = []) (h2 : k.slots = 0)
    (h3 : k.wait = .none) (h4 : k.mpc = (coreOf s0 c.val).mpc) (h5 : k.cur = (coreOf s0 c.val).cur) {a : Acc}
    (hst : a.st = setCore u c.val { gather i y k with wait := w })
    (hx : a.xfer = none ∨ mCMP (coreOf s0 c.val).mstat = false)
    (ht : a.trapN = none) (hr : a.rep = none) (hp : a.loop = none) (haf : a.after = id) :
    OnlyCore u c (settled k y a) (retireWord s0 c.val a) := by
  unfold retireWord
  dsimp only
  rw [ht]
  dsimp only
  refine OnlyCore.of_counted ?_ (counted_pmWord ..)
  have hmod : ∀ f : Core → Core, modCore a.st c.val f = setCore u c.val (f { gather i y k with wait := w }) := by
    intro f
    unfold modCore
    rw [hst, coreOf_setCore hu, if_pos rfl, setCore_setCore hu]
  rw [hmod, ← h5, ← h4, retire_core _ hK h1 h2 h3 _ hx hr hp, haf]
  generalize hKK : settled k y a = K
  have hmn : K.modeNew = none := by rw [← hKK]; exact hK.mode
  have hO : OnlyCore u c K (wdogRestart (setCore u c.val K) c.val) := onlyCore_wdogRestart
  simp only [id]
  generalize hv : wdogRestart (setCore u c.val K) c.val = v at hO ⊢
  have hcv : coreOf v c.val = K := by
    rw [hO.1]
    show coreOf (setCore u c.val K) c.val = K
    rw [coreOf_setCore hu, if_pos rfl]
  have : modCore v c.val modeApply = v := by
    unfold modCore
    rw [hcv]
    have : modeApply K = K := by unfold modeApply; rw [hmn]
    rw [this]
    have e1 : setCore v c.val K = { setCore (setCore u c.val K) c.val K with
        io := v.io
        fresh := v.fresh } :=
      (congrArg (fun x => setCore x c.val K) hO.1).trans rfl
    rw [e1, setCore_setCore hu]
    exact hO.1.symm
  rw [this]
  exact hO

/-- The same for a syllable that is evaluated at once. -/
theorem retire_taken {s u : State} (hI : Inv s) {c : CoreId} {i : Instr} {y : Syl} {k : Core}
    (hu : tabWf (fun _ => Core.reset) none u.cores = true) (hK : Steady k) (h1 : k.mw = []) (h2 : k.slots = 0)
    (h3 : k.wait = .none) (h4 : k.mpc = (coreOf s c.val).mpc) (h5 : k.cur = (coreOf s c.val).cur) {a : Acc}
    (hst : a.st = setCore u c.val (gather i y k))
    (hx : a.xfer = none ∨ mCMP (coreOf s c.val).mstat = false)
    (ht : a.trapN = none) (hr : a.rep = none) (hp : a.loop = none) (haf : a.after = id) :
    OnlyCore u c (settled k y a) (retireWord (taken s c i y) c.val a) := by
  have hk := coreOf_taken hI c i y
  refine retire_settled (i := i) (w := .none) hu hK h1 h2 h3 (by rw [hk]; exact h4) (by rw [hk]; exact h5) ?_
    (by rw [hk]; exact hx) ht hr hp haf
  rw [hst]
  have : gather i y k = { gather i y k with wait := .none } := by
    cases k; dsimp only at h3; subst h3; rfl
  rw [← this]

/-- Under nothing else, no load, no transfer and no branch. -/
theorem settled_plain {k : Core} (hs : k.shadow = []) {y : Syl} {a : Acc} (h1 : a.loads = []) (h2 : a.xfer = none)
    (h3 : a.branch = none) : settled k y a = putAll (passed k y) a.writes := by
  unfold settled learned
  rw [h1, h2, h3]
  cases k; dsimp only at hs; subst hs; rfl

/-- A waiting microword of one syllable that goes on is evaluated as that syllable. -/
theorem run_held {s : State} {c : CoreId} {i : Instr} {h : Shape} {y : Syl} {w : Wait} (hS : Held s c i h y w) (t : Bool) :
    runWord s c.val t = wordEnd s c.val (semOf i (heldCtx s c y t) (Acc.start s)) := by
  have hw : wordOf (coreOf s c.val) = [⟨i, h, y, (coreOf s c.val).mpc.toNat % 8 + slotsOf y - 1⟩] := by
    rw [wordOf, hS.word]
    simp [placed, hS.shape]
  have hill : wholeIllop (coreOf s c.val) = none := by
    unfold wholeIllop
    rw [hw, hS.present, hS.size]
    have h3 := hS.fits
    have hp := classMax_pos h.cls
    simp [wordFlaw, hS.ext, hS.far, hS.stop, show ¬ (8 < (coreOf s c.val).mpc.toNat % 8 + slotsOf y) by omega,
      show classMax h.cls ≠ 0 by omega]
    intro hn hc
    rcases hS.plain with h6 | h6 | h6
    · exact absurd hc h6
    · exact h6
    · rw [h6] at hn; simp at hn
  have hwf : wholeFault s c.val = none := by
    unfold wholeFault
    dsimp only
    rw [hill, hS.whole, hS.ring, quietDue, hS.calm]
    simp
  unfold runWord
  rw [if_neg (by rw [hS.waits]; exact hS.real)]
  dsimp only
  rw [hwf]
  simp only [evalWord, hw, List.foldl, hS.named]
  rfl

theorem succPriv_held {s : State} {c : CoreId} {i : Instr} {h : Shape} {y : Syl} {w : Wait} (hS : Held s c i h y w) (a : Acc) :
    succPriv s (coreOf s c.val) a = none := by
  unfold succPriv
  dsimp only
  rw [hS.next]
  simp

/-- A waiting syllable that goes on, and gathers no fault and no wait, retires. -/
theorem run_held_retires {s : State} {c : CoreId} {i : Instr} {h : Shape} {y : Syl} {w : Wait} (hS : Held s c i h y w) {t : Bool}
    {a : Acc} (ha : semOf i (heldCtx s c y t) (Acc.start s) = a)
    (hf : a.fault = none) (hh : a.hold = none) (hl : a.late = none) (hq : a.lateHold = none) :
    runWord s c.val t = retireWord s c.val a := by
  rw [run_held hS, ha, wordEnd_retires hf hh (succPriv_held hS a) hl hq]

/-- A syllable that is ready, and that gathers no fault and no wait, retires. -/
theorem issue_ready {s : State} {c : CoreId} {i : Instr} {y : Syl} (hR : Ready s c i y) {a : Acc}
    (ha : semOf i (soleCtx s c i y) (Acc.start (taken s c i y)) = a)
    (hf : a.fault = none) (hh : a.hold = none) (hl : a.late = none) (hq : a.lateHold = none) :
    issue i c y s = .next (retireWord (taken s c i y) c.val a) := by
  obtain ⟨hI, hw, h, hi, hn, hS⟩ := hR
  exact exec_sole hI hS hi hn hw ha hf hh hl hq

end Sys2Proof.Machine
end

