-- ==== Sys2Proof/Laws/Fields.lean ====
section
/-! SUPPORT. What a write of a field leaves in its own field and in the others, and what several stores leave in memory. -/

namespace Sys2Proof.Machine

/-- A field reads what was written to it. -/
theorem bits_setBits (n lo w v : Nat) : bits (setBits n lo w v) lo w = v % 2 ^ w := by
  unfold bits setBits
  have h1 : n % 2 ^ lo < 2 ^ lo := Nat.mod_lt _ (Nat.two_pow_pos _)
  have h2 : v % 2 ^ w < 2 ^ w := Nat.mod_lt _ (Nat.two_pow_pos _)
  rw [Nat.pow_add, show n % 2 ^ lo + v % 2 ^ w * 2 ^ lo + n / (2 ^ lo * 2 ^ w) * (2 ^ lo * 2 ^ w) =
    n % 2 ^ lo + 2 ^ lo * (v % 2 ^ w + 2 ^ w * (n / (2 ^ lo * 2 ^ w))) by
      rw [Nat.mul_add, Nat.mul_comm (v % 2 ^ w), Nat.mul_comm (n / _), Nat.mul_assoc]; omega]
  rw [Nat.add_mul_div_left _ _ (Nat.two_pow_pos _), Nat.div_eq_of_lt h1, Nat.zero_add, Nat.add_mul_mod_self_left,
    Nat.mod_mod]

/-- A field above the one written reads as before. -/
theorem bits_setBits_above (n lo w v l x : Nat) (h : lo + w ≤ l) : bits (setBits n lo w v) l x = bits n l x := by
  have e : setBits n lo w v / 2 ^ l = n / 2 ^ l := by
    obtain ⟨d, rfl⟩ := Nat.exists_eq_add_of_le h
    unfold setBits
    have h1 : n % 2 ^ lo < 2 ^ lo := Nat.mod_lt _ (Nat.two_pow_pos _)
    have h2 : v % 2 ^ w < 2 ^ w := Nat.mod_lt _ (Nat.two_pow_pos _)
    have h3 : n % 2 ^ lo + v % 2 ^ w * 2 ^ lo < 2 ^ (lo + w) := by
      rw [Nat.pow_add]
      calc n % 2 ^ lo + v % 2 ^ w * 2 ^ lo < 2 ^ lo + v % 2 ^ w * 2 ^ lo := by omega
        _ = (v % 2 ^ w + 1) * 2 ^ lo := by rw [Nat.add_mul]; omega
        _ ≤ 2 ^ w * 2 ^ lo := Nat.mul_le_mul_right _ h2
        _ = 2 ^ lo * 2 ^ w := Nat.mul_comm _ _
    rw [Nat.pow_add 2 (lo + w) d, ← Nat.div_div_eq_div_mul, ← Nat.div_div_eq_div_mul, Nat.mul_comm (n / 2 ^ (lo + w)),
      Nat.add_mul_div_left _ _ (Nat.two_pow_pos _), Nat.div_eq_of_lt h3, Nat.zero_add]
  unfold bits
  rw [e]

/-- A field below the one written reads as before. -/
theorem bits_setBits_below (n lo w v l x : Nat) (h : l + x ≤ lo) : bits (setBits n lo w v) l x = bits n l x := by
  have e : setBits n lo w v % 2 ^ lo = n % 2 ^ lo := by
    unfold setBits
    rw [Nat.pow_add, show n % 2 ^ lo + v % 2 ^ w * 2 ^ lo + n / (2 ^ lo * 2 ^ w) * (2 ^ lo * 2 ^ w) =
      n % 2 ^ lo + 2 ^ lo * (v % 2 ^ w + 2 ^ w * (n / (2 ^ lo * 2 ^ w))) by
        rw [Nat.mul_add, Nat.mul_comm (v % 2 ^ w), Nat.mul_comm (n / _), Nat.mul_assoc]; omega]
    rw [Nat.add_mul_mod_self_left, Nat.mod_mod]
  obtain ⟨d, rfl⟩ := Nat.exists_eq_add_of_le h
  have low : ∀ y : Nat, y / 2 ^ l % 2 ^ x = y % 2 ^ (l + x + d) / 2 ^ l % 2 ^ x := by
    intro y
    rw [Nat.pow_add, Nat.pow_add, Nat.mul_assoc, Nat.mod_mul_right_div_self, Nat.mod_mul_right_mod]
  unfold bits
  rw [low (setBits _ _ _ _), e, ← low]

/-- A field within a word that keeps its width. -/
theorem setBits_lt {n lo w v k : Nat} (hn : n < 2 ^ k) (h : lo + w ≤ k) : setBits n lo w v < 2 ^ k := by
  obtain ⟨d, rfl⟩ := Nat.exists_eq_add_of_le h
  unfold setBits
  have h1 : n % 2 ^ lo < 2 ^ lo := Nat.mod_lt _ (Nat.two_pow_pos _)
  have h2 : v % 2 ^ w < 2 ^ w := Nat.mod_lt _ (Nat.two_pow_pos _)
  have h3 : n % 2 ^ lo + v % 2 ^ w * 2 ^ lo < 2 ^ (lo + w) := by
    rw [Nat.pow_add]
    calc n % 2 ^ lo + v % 2 ^ w * 2 ^ lo < 2 ^ lo + v % 2 ^ w * 2 ^ lo := by omega
      _ = (v % 2 ^ w + 1) * 2 ^ lo := by rw [Nat.add_mul]; omega
      _ ≤ 2 ^ w * 2 ^ lo := Nat.mul_le_mul_right _ h2
      _ = 2 ^ lo * 2 ^ w := Nat.mul_comm _ _
  have h4 : n / 2 ^ (lo + w) < 2 ^ d := by
    rw [Nat.div_lt_iff_lt_mul (Nat.two_pow_pos _), ← Nat.pow_add, Nat.add_comm d]
    exact hn
  calc n % 2 ^ lo + v % 2 ^ w * 2 ^ lo + n / 2 ^ (lo + w) * 2 ^ (lo + w)
      < 2 ^ (lo + w) + n / 2 ^ (lo + w) * 2 ^ (lo + w) := by omega
    _ = (n / 2 ^ (lo + w) + 1) * 2 ^ (lo + w) := by rw [Nat.add_mul]; omega
    _ ≤ 2 ^ d * 2 ^ (lo + w) := Nat.mul_le_mul_right _ h4
    _ = 2 ^ (lo + w + d) := by rw [Nat.pow_add 2 (lo + w), Nat.mul_comm]

/-- A payload has 36 bits. -/
theorem pay_lt (w : Word) : pay w < 2 ^ 36 := by
  unfold pay; exact Nat.mod_lt _ (Nat.two_pow_pos _)

/-- The payload of a register after a write of one of its fields. -/
theorem pay_ioSetF {s : State} (h : tabWf ioReset none s.io = true) (a lo w v : Nat) (hw : lo + w ≤ 36) :
    pay (ioGet (ioSetF s a lo w v) a) = setBits (pay (ioGet s a)) lo w v := by
  unfold ioSetF
  rw [ioGet_ioPut h, if_pos rfl, pay_mkW]
  exact Nat.mod_eq_of_lt (setBits_lt (pay_lt _) hw)

/-- A field of a register reads what was written to it. -/
theorem ioF_ioSetF {s : State} (h : tabWf ioReset none s.io = true) (a lo w v : Nat) (hw : lo + w ≤ 36) :
    ioF (ioSetF s a lo w v) a lo w = v % 2 ^ w := by
  unfold ioF; rw [pay_ioSetF h _ _ _ _ hw, bits_setBits]

/-- Another field of the register reads as before. -/
theorem ioF_ioSetF_other {s : State} (h : tabWf ioReset none s.io = true) (a lo w v l x : Nat) (hw : lo + w ≤ 36)
    (hd : lo + w ≤ l ∨ l + x ≤ lo) : ioF (ioSetF s a lo w v) a l x = ioF s a l x := by
  unfold ioF; rw [pay_ioSetF h _ _ _ _ hw]
  rcases hd with hd | hd
  · exact bits_setBits_above _ _ _ _ _ _ hd
  · exact bits_setBits_below _ _ _ _ _ _ hd

/-- A field of another register reads as before. -/
theorem ioF_ioSetF_ne (s : State) {a b : Nat} (h : b ≠ a) (lo w v l x : Nat) : ioF (ioSetF s a lo w v) b l x = ioF s b l x := by
  unfold ioF ioSetF; rw [ioGet_ioPut_ne _ h]

/-- A store keeps the memory canonical. -/
theorem memPut_wf {s : State} (h : Memory.wf s.mem = true) (a : Nat) (w : Word) : Memory.wf (memPut s a w).mem = true :=
  tabWf_tabSet (d := fun _ => emptyW) a w h

/-- A word after several stores: the last that names it, else what stood there. -/
theorem memGet_memPutAll {s : State} (h : Memory.wf s.mem = true) (ws : List (Nat × Word)) (a : Nat) :
    memGet (memPutAll s ws) a = match ws.reverse.find? fun p => p.1 == a with
      | some p => p.2
      | none => memGet s a := by
  induction ws generalizing s with
  | nil => rfl
  | cons p ws ih =>
    show memGet (memPutAll (memPut s p.1 p.2) ws) a = _
    rw [ih (memPut_wf h _ _), List.reverse_cons, List.find?_append]
    cases ws.reverse.find? (fun q => q.1 == a) with
    | some q => rfl
    | none =>
      rw [memGet_memPut h]
      by_cases hp : a = p.1
      · subst hp; simp
      · simp [hp, show p.1 ≠ a from fun h => hp h.symm]

/-- Several stores change nothing but the memory of the banks and its errors. -/
theorem memPutAll_eq (s : State) (ws : List (Nat × Word)) : memPutAll s ws = { s with
    mem := (memPutAll s ws).mem
    eccBad := (memPutAll s ws).eccBad
    eccSoft := (memPutAll s ws).eccSoft } := by
  induction ws generalizing s with
  | nil => rfl
  | cons p ws ih =>
    show memPutAll (memPut s p.1 p.2) ws = _
    rw [ih]; rfl

/-- A BAR0 register reads what was written to it. -/
theorem barGet_barPut {s : State} (h : tabWf barReset none s.bar = true) (o n p : Nat) :
    barGet (barPut s o n) p = if p = o then n % 2 ^ 64 else barGet s p := by
  unfold barGet barPut
  rw [tabGet_tabSet o p _ h]
  split
  · rw [BitVec.toNat_ofNat]
  · rfl

/-- A write of a BAR0 register keeps the table canonical. -/
theorem barPut_wf {s : State} (h : tabWf barReset none s.bar = true) (o n : Nat) :
    tabWf barReset none (barPut s o n).bar = true := tabWf_tabSet _ _ h

/-! ## What a write of a field of a register keeps

Cite these: by `rfl` the kernel would compare the register tables, and with them the words. -/

@[simp] theorem ioSetF_pending (s : State) (a lo w v : Nat) : (ioSetF s a lo w v).pending = s.pending := ioPut_pending ..
@[simp] theorem ioSetF_fld (s : State) (a lo w v : Nat) : (ioSetF s a lo w v).fld = s.fld := ioPut_fld ..
@[simp] theorem ioSetF_bar (s : State) (a lo w v : Nat) : (ioSetF s a lo w v).bar = s.bar := ioPut_bar ..
@[simp] theorem ioSetF_mem (s : State) (a lo w v : Nat) : (ioSetF s a lo w v).mem = s.mem := ioPut_mem ..
@[simp] theorem ioSetF_eccBad (s : State) (a lo w v : Nat) : (ioSetF s a lo w v).eccBad = s.eccBad := ioPut_eccBad ..
@[simp] theorem ioSetF_eccSoft (s : State) (a lo w v : Nat) : (ioSetF s a lo w v).eccSoft = s.eccSoft := ioPut_eccSoft ..
@[simp] theorem ioSetF_rowErrs (s : State) (a lo w v : Nat) : (ioSetF s a lo w v).rowErrs = s.rowErrs := ioPut_rowErrs ..
@[simp] theorem ioSetF_cs (s : State) (a lo w v : Nat) : (ioSetF s a lo w v).cs = s.cs := ioPut_cs ..
@[simp] theorem ioSetF_csBad (s : State) (a lo w v : Nat) : (ioSetF s a lo w v).csBad = s.csBad := ioPut_csBad ..
@[simp] theorem ioSetF_csSoft (s : State) (a lo w v : Nat) : (ioSetF s a lo w v).csSoft = s.csSoft := ioPut_csSoft ..
@[simp] theorem ioSetF_cores (s : State) (a lo w v : Nat) : (ioSetF s a lo w v).cores = s.cores := ioPut_cores ..
@[simp] theorem ioSetF_tb (s : State) (a lo w v : Nat) : (ioSetF s a lo w v).tb = s.tb := ioPut_tb ..
@[simp] theorem ioSetF_svCycle (s : State) (a lo w v : Nat) : (ioSetF s a lo w v).svCycle = s.svCycle := ioPut_svCycle ..
@[simp] theorem ioSetF_fresh (s : State) (a lo w v : Nat) : (ioSetF s a lo w v).fresh = s.fresh := ioPut_fresh ..
@[simp] theorem ioSetF_leaseAt (s : State) (a lo w v : Nat) : (ioSetF s a lo w v).leaseAt = s.leaseAt := ioPut_leaseAt ..
@[simp] theorem ioSetF_nearLease (s : State) (a lo w v : Nat) : (ioSetF s a lo w v).nearLease = s.nearLease := ioPut_nearLease ..
@[simp] theorem ioSetF_cmpDue (s : State) (a lo w v : Nat) : (ioSetF s a lo w v).cmpDue = s.cmpDue := ioPut_cmpDue ..
@[simp] theorem ioSetF_bankChg (s : State) (a lo w v : Nat) : (ioSetF s a lo w v).bankChg = s.bankChg := ioPut_bankChg ..
@[simp] theorem ioSetF_marching (s : State) (a lo w v : Nat) : (ioSetF s a lo w v).marching = s.marching := ioPut_marching ..
@[simp] theorem ioSetF_repairing (s : State) (a lo w v : Nat) : (ioSetF s a lo w v).repairing = s.repairing := ioPut_repairing ..
@[simp] theorem ioSetF_asserted (s : State) (a lo w v : Nat) : (ioSetF s a lo w v).asserted = s.asserted := ioPut_asserted ..
@[simp] theorem ioSetF_lastAny (s : State) (a lo w v : Nat) : (ioSetF s a lo w v).lastAny = s.lastAny := ioPut_lastAny ..
@[simp] theorem ioSetF_tdLast (s : State) (a lo w v : Nat) : (ioSetF s a lo w v).tdLast = s.tdLast := ioPut_tdLast ..
@[simp] theorem ioSetF_jobs (s : State) (a lo w v : Nat) : (ioSetF s a lo w v).jobs = s.jobs := ioPut_jobs ..
@[simp] theorem ioSetF_ciphQ (s : State) (a lo w v : Nat) : (ioSetF s a lo w v).ciphQ = s.ciphQ := ioPut_ciphQ ..
@[simp] theorem ioSetF_keysKept (s : State) (a lo w v : Nat) : (ioSetF s a lo w v).keysKept = s.keysKept := ioPut_keysKept ..
@[simp] theorem ioSetF_ledger (s : State) (a lo w v : Nat) : (ioSetF s a lo w v).ledger = s.ledger := ioPut_ledger ..
@[simp] theorem ioSetF_entries (s : State) (a lo w v : Nat) : (ioSetF s a lo w v).entries = s.entries := ioPut_entries ..
@[simp] theorem ioSetF_waits (s : State) (a lo w v : Nat) : (ioSetF s a lo w v).waits = s.waits := ioPut_waits ..
@[simp] theorem ioSetF_expSeq (s : State) (a lo w v : Nat) : (ioSetF s a lo w v).expSeq = s.expSeq := ioPut_expSeq ..
@[simp] theorem ioSetF_rotor (s : State) (a lo w v : Nat) : (ioSetF s a lo w v).rotor = s.rotor := ioPut_rotor ..
@[simp] theorem ioSetF_cqUsed (s : State) (a lo w v : Nat) : (ioSetF s a lo w v).cqUsed = s.cqUsed := ioPut_cqUsed ..
@[simp] theorem ioSetF_cqHead (s : State) (a lo w v : Nat) : (ioSetF s a lo w v).cqHead = s.cqHead := ioPut_cqHead ..
@[simp] theorem ioSetF_msiSent (s : State) (a lo w v : Nat) : (ioSetF s a lo w v).msiSent = s.msiSent := ioPut_msiSent ..
@[simp] theorem ioSetF_spool (s : State) (a lo w v : Nat) : (ioSetF s a lo w v).spool = s.spool := ioPut_spool ..
@[simp] theorem ioSetF_spoolPos (s : State) (a lo w v : Nat) : (ioSetF s a lo w v).spoolPos = s.spoolPos := ioPut_spoolPos ..
@[simp] theorem ioSetF_readyPend (s : State) (a lo w v : Nat) : (ioSetF s a lo w v).readyPend = s.readyPend := ioPut_readyPend ..
@[simp] theorem ioSetF_acQ (s : State) (a lo w v : Nat) : (ioSetF s a lo w v).acQ = s.acQ := ioPut_acQ ..
@[simp] theorem ioSetF_cqOff (s : State) (a lo w v : Nat) : (ioSetF s a lo w v).cqOff = s.cqOff := ioPut_cqOff ..
@[simp] theorem ioSetF_sess (s : State) (a lo w v : Nat) : (ioSetF s a lo w v).sess = s.sess := ioPut_sess ..
@[simp] theorem ioSetF_sessClock (s : State) (a lo w v : Nat) : (ioSetF s a lo w v).sessClock = s.sessClock := ioPut_sessClock ..
@[simp] theorem ioSetF_config (s : State) (a lo w v : Nat) : (ioSetF s a lo w v).config = s.config := ioPut_config ..
@[simp] theorem ioSetF_locked (s : State) (a lo w v : Nat) : (ioSetF s a lo w v).locked = s.locked := ioPut_locked ..
@[simp] theorem ioSetF_shimBusy (s : State) (a lo w v : Nat) : (ioSetF s a lo w v).shimBusy = s.shimBusy := ioPut_shimBusy ..
@[simp] theorem ioSetF_hookDone (s : State) (a lo w v : Nat) : (ioSetF s a lo w v).hookDone = s.hookDone := ioPut_hookDone ..
@[simp] theorem ioSetF_elArmed (s : State) (a lo w v : Nat) : (ioSetF s a lo w v).elArmed = s.elArmed := ioPut_elArmed ..
@[simp] theorem ioSetF_lringSent (s : State) (a lo w v : Nat) : (ioSetF s a lo w v).lringSent = s.lringSent := ioPut_lringSent ..
@[simp] theorem ioSetF_clOff (s : State) (a lo w v : Nat) : (ioSetF s a lo w v).clOff = s.clOff := ioPut_clOff ..
@[simp] theorem ioSetF_islReset (s : State) (a lo w v : Nat) : (ioSetF s a lo w v).islReset = s.islReset := ioPut_islReset ..
@[simp] theorem ioSetF_hlOff (s : State) (a lo w v : Nat) : (ioSetF s a lo w v).hlOff = s.hlOff := ioPut_hlOff ..
@[simp] theorem ioSetF_straps (s : State) (a lo w v : Nat) : (ioSetF s a lo w v).straps = s.straps := ioPut_straps ..
@[simp] theorem ioSetF_alive (s : State) (a lo w v : Nat) : (ioSetF s a lo w v).alive = s.alive := ioPut_alive ..
@[simp] theorem ioSetF_refLost (s : State) (a lo w v : Nat) : (ioSetF s a lo w v).refLost = s.refLost := ioPut_refLost ..
@[simp] theorem ioSetF_vidLow (s : State) (a lo w v : Nat) : (ioSetF s a lo w v).vidLow = s.vidLow := ioPut_vidLow ..
@[simp] theorem ioSetF_dbg (s : State) (a lo w v : Nat) : (ioSetF s a lo w v).dbg = s.dbg := ioPut_dbg ..
@[simp] theorem ioSetF_dh (s : State) (a lo w v : Nat) : (ioSetF s a lo w v).dh = s.dh := ioPut_dh ..
@[simp] theorem ioSetF_df (s : State) (a lo w v : Nat) : (ioSetF s a lo w v).df = s.df := ioPut_df ..
@[simp] theorem ioSetF_dov (s : State) (a lo w v : Nat) : (ioSetF s a lo w v).dov = s.dov := ioPut_dov ..
@[simp] theorem ioSetF_field (s : State) (a lo w v : Nat) : (ioSetF s a lo w v).field = s.field := ioPut_field ..
@[simp] theorem ioSetF_splice (s : State) (a lo w v : Nat) : (ioSetF s a lo w v).splice = s.splice := ioPut_splice ..
@[simp] theorem ioSetF_carrier (s : State) (a lo w v : Nat) : (ioSetF s a lo w v).carrier = s.carrier := ioPut_carrier ..
@[simp] theorem ioSetF_out (s : State) (a lo w v : Nat) : (ioSetF s a lo w v).out = s.out := ioPut_out ..
@[simp] theorem ioSetB_pending (s : State) (a i : Nat) (b : Bool) : (ioSetB s a i b).pending = s.pending := ioPut_pending ..
@[simp] theorem ioSetB_fld (s : State) (a i : Nat) (b : Bool) : (ioSetB s a i b).fld = s.fld := ioPut_fld ..
@[simp] theorem ioSetB_bar (s : State) (a i : Nat) (b : Bool) : (ioSetB s a i b).bar = s.bar := ioPut_bar ..
@[simp] theorem ioSetB_mem (s : State) (a i : Nat) (b : Bool) : (ioSetB s a i b).mem = s.mem := ioPut_mem ..
@[simp] theorem ioSetB_eccBad (s : State) (a i : Nat) (b : Bool) : (ioSetB s a i b).eccBad = s.eccBad := ioPut_eccBad ..
@[simp] theorem ioSetB_eccSoft (s : State) (a i : Nat) (b : Bool) : (ioSetB s a i b).eccSoft = s.eccSoft := ioPut_eccSoft ..
@[simp] theorem ioSetB_rowErrs (s : State) (a i : Nat) (b : Bool) : (ioSetB s a i b).rowErrs = s.rowErrs := ioPut_rowErrs ..
@[simp] theorem ioSetB_cs (s : State) (a i : Nat) (b : Bool) : (ioSetB s a i b).cs = s.cs := ioPut_cs ..
@[simp] theorem ioSetB_csBad (s : State) (a i : Nat) (b : Bool) : (ioSetB s a i b).csBad = s.csBad := ioPut_csBad ..
@[simp] theorem ioSetB_csSoft (s : State) (a i : Nat) (b : Bool) : (ioSetB s a i b).csSoft = s.csSoft := ioPut_csSoft ..
@[simp] theorem ioSetB_cores (s : State) (a i : Nat) (b : Bool) : (ioSetB s a i b).cores = s.cores := ioPut_cores ..
@[simp] theorem ioSetB_tb (s : State) (a i : Nat) (b : Bool) : (ioSetB s a i b).tb = s.tb := ioPut_tb ..
@[simp] theorem ioSetB_svCycle (s : State) (a i : Nat) (b : Bool) : (ioSetB s a i b).svCycle = s.svCycle := ioPut_svCycle ..
@[simp] theorem ioSetB_fresh (s : State) (a i : Nat) (b : Bool) : (ioSetB s a i b).fresh = s.fresh := ioPut_fresh ..
@[simp] theorem ioSetB_leaseAt (s : State) (a i : Nat) (b : Bool) : (ioSetB s a i b).leaseAt = s.leaseAt := ioPut_leaseAt ..
@[simp] theorem ioSetB_nearLease (s : State) (a i : Nat) (b : Bool) : (ioSetB s a i b).nearLease = s.nearLease := ioPut_nearLease ..
@[simp] theorem ioSetB_cmpDue (s : State) (a i : Nat) (b : Bool) : (ioSetB s a i b).cmpDue = s.cmpDue := ioPut_cmpDue ..
@[simp] theorem ioSetB_bankChg (s : State) (a i : Nat) (b : Bool) : (ioSetB s a i b).bankChg = s.bankChg := ioPut_bankChg ..
@[simp] theorem ioSetB_marching (s : State) (a i : Nat) (b : Bool) : (ioSetB s a i b).marching = s.marching := ioPut_marching ..
@[simp] theorem ioSetB_repairing (s : State) (a i : Nat) (b : Bool) : (ioSetB s a i b).repairing = s.repairing := ioPut_repairing ..
@[simp] theorem ioSetB_asserted (s : State) (a i : Nat) (b : Bool) : (ioSetB s a i b).asserted = s.asserted := ioPut_asserted ..
@[simp] theorem ioSetB_lastAny (s : State) (a i : Nat) (b : Bool) : (ioSetB s a i b).lastAny = s.lastAny := ioPut_lastAny ..
@[simp] theorem ioSetB_tdLast (s : State) (a i : Nat) (b : Bool) : (ioSetB s a i b).tdLast = s.tdLast := ioPut_tdLast ..
@[simp] theorem ioSetB_jobs (s : State) (a i : Nat) (b : Bool) : (ioSetB s a i b).jobs = s.jobs := ioPut_jobs ..
@[simp] theorem ioSetB_ciphQ (s : State) (a i : Nat) (b : Bool) : (ioSetB s a i b).ciphQ = s.ciphQ := ioPut_ciphQ ..
@[simp] theorem ioSetB_keysKept (s : State) (a i : Nat) (b : Bool) : (ioSetB s a i b).keysKept = s.keysKept := ioPut_keysKept ..
@[simp] theorem ioSetB_ledger (s : State) (a i : Nat) (b : Bool) : (ioSetB s a i b).ledger = s.ledger := ioPut_ledger ..
@[simp] theorem ioSetB_entries (s : State) (a i : Nat) (b : Bool) : (ioSetB s a i b).entries = s.entries := ioPut_entries ..
@[simp] theorem ioSetB_waits (s : State) (a i : Nat) (b : Bool) : (ioSetB s a i b).waits = s.waits := ioPut_waits ..
@[simp] theorem ioSetB_expSeq (s : State) (a i : Nat) (b : Bool) : (ioSetB s a i b).expSeq = s.expSeq := ioPut_expSeq ..
@[simp] theorem ioSetB_rotor (s : State) (a i : Nat) (b : Bool) : (ioSetB s a i b).rotor = s.rotor := ioPut_rotor ..
@[simp] theorem ioSetB_cqUsed (s : State) (a i : Nat) (b : Bool) : (ioSetB s a i b).cqUsed = s.cqUsed := ioPut_cqUsed ..
@[simp] theorem ioSetB_cqHead (s : State) (a i : Nat) (b : Bool) : (ioSetB s a i b).cqHead = s.cqHead := ioPut_cqHead ..
@[simp] theorem ioSetB_msiSent (s : State) (a i : Nat) (b : Bool) : (ioSetB s a i b).msiSent = s.msiSent := ioPut_msiSent ..
@[simp] theorem ioSetB_spool (s : State) (a i : Nat) (b : Bool) : (ioSetB s a i b).spool = s.spool := ioPut_spool ..
@[simp] theorem ioSetB_spoolPos (s : State) (a i : Nat) (b : Bool) : (ioSetB s a i b).spoolPos = s.spoolPos := ioPut_spoolPos ..
@[simp] theorem ioSetB_readyPend (s : State) (a i : Nat) (b : Bool) : (ioSetB s a i b).readyPend = s.readyPend := ioPut_readyPend ..
@[simp] theorem ioSetB_acQ (s : State) (a i : Nat) (b : Bool) : (ioSetB s a i b).acQ = s.acQ := ioPut_acQ ..
@[simp] theorem ioSetB_cqOff (s : State) (a i : Nat) (b : Bool) : (ioSetB s a i b).cqOff = s.cqOff := ioPut_cqOff ..
@[simp] theorem ioSetB_sess (s : State) (a i : Nat) (b : Bool) : (ioSetB s a i b).sess = s.sess := ioPut_sess ..
@[simp] theorem ioSetB_sessClock (s : State) (a i : Nat) (b : Bool) : (ioSetB s a i b).sessClock = s.sessClock := ioPut_sessClock ..
@[simp] theorem ioSetB_config (s : State) (a i : Nat) (b : Bool) : (ioSetB s a i b).config = s.config := ioPut_config ..
@[simp] theorem ioSetB_locked (s : State) (a i : Nat) (b : Bool) : (ioSetB s a i b).locked = s.locked := ioPut_locked ..
@[simp] theorem ioSetB_shimBusy (s : State) (a i : Nat) (b : Bool) : (ioSetB s a i b).shimBusy = s.shimBusy := ioPut_shimBusy ..
@[simp] theorem ioSetB_hookDone (s : State) (a i : Nat) (b : Bool) : (ioSetB s a i b).hookDone = s.hookDone := ioPut_hookDone ..
@[simp] theorem ioSetB_elArmed (s : State) (a i : Nat) (b : Bool) : (ioSetB s a i b).elArmed = s.elArmed := ioPut_elArmed ..
@[simp] theorem ioSetB_lringSent (s : State) (a i : Nat) (b : Bool) : (ioSetB s a i b).lringSent = s.lringSent := ioPut_lringSent ..
@[simp] theorem ioSetB_clOff (s : State) (a i : Nat) (b : Bool) : (ioSetB s a i b).clOff = s.clOff := ioPut_clOff ..
@[simp] theorem ioSetB_islReset (s : State) (a i : Nat) (b : Bool) : (ioSetB s a i b).islReset = s.islReset := ioPut_islReset ..
@[simp] theorem ioSetB_hlOff (s : State) (a i : Nat) (b : Bool) : (ioSetB s a i b).hlOff = s.hlOff := ioPut_hlOff ..
@[simp] theorem ioSetB_straps (s : State) (a i : Nat) (b : Bool) : (ioSetB s a i b).straps = s.straps := ioPut_straps ..
@[simp] theorem ioSetB_alive (s : State) (a i : Nat) (b : Bool) : (ioSetB s a i b).alive = s.alive := ioPut_alive ..
@[simp] theorem ioSetB_refLost (s : State) (a i : Nat) (b : Bool) : (ioSetB s a i b).refLost = s.refLost := ioPut_refLost ..
@[simp] theorem ioSetB_vidLow (s : State) (a i : Nat) (b : Bool) : (ioSetB s a i b).vidLow = s.vidLow := ioPut_vidLow ..
@[simp] theorem ioSetB_dbg (s : State) (a i : Nat) (b : Bool) : (ioSetB s a i b).dbg = s.dbg := ioPut_dbg ..
@[simp] theorem ioSetB_dh (s : State) (a i : Nat) (b : Bool) : (ioSetB s a i b).dh = s.dh := ioPut_dh ..
@[simp] theorem ioSetB_df (s : State) (a i : Nat) (b : Bool) : (ioSetB s a i b).df = s.df := ioPut_df ..
@[simp] theorem ioSetB_dov (s : State) (a i : Nat) (b : Bool) : (ioSetB s a i b).dov = s.dov := ioPut_dov ..
@[simp] theorem ioSetB_field (s : State) (a i : Nat) (b : Bool) : (ioSetB s a i b).field = s.field := ioPut_field ..
@[simp] theorem ioSetB_splice (s : State) (a i : Nat) (b : Bool) : (ioSetB s a i b).splice = s.splice := ioPut_splice ..
@[simp] theorem ioSetB_carrier (s : State) (a i : Nat) (b : Bool) : (ioSetB s a i b).carrier = s.carrier := ioPut_carrier ..
@[simp] theorem ioSetB_out (s : State) (a i : Nat) (b : Bool) : (ioSetB s a i b).out = s.out := ioPut_out ..

end Sys2Proof.Machine
end

