-- ==== Sys2Proof/Laws/Keeps1.lean ====
section
/-! SUPPORT. Registers and hub keep the invariant. -/

namespace Sys2Proof.Machine

/-! The tactics of these proofs are one list for every goal, so that some of them do nothing in some goals. -/
set_option linter.all false

theorem keeps_ioSetF {z : State} {s : State} (a lo w v : Nat) (hK : Keeps z s) :
    Keeps z (ioSetF s a lo w v) := by
  unfold ioSetF
  with_reducible repeat' first
    | assumption | exact Keeps.refl _ | intro _ | apply keeps_ioPut | split | dsimp only

theorem keeps_ioSetB {z : State} {s : State} (a i : Nat) (b : Bool) (hK : Keeps z s) :
    Keeps z (ioSetB s a i b) := by
  unfold ioSetB
  with_reducible repeat' first
    | assumption | exact Keeps.refl _ | intro _ | apply keeps_ioSetF | split | dsimp only

theorem keeps_ioInc {z : State} {s : State} (a lo w : Nat) (hK : Keeps z s) :
    Keeps z (ioInc s a lo w) := by
  unfold ioInc
  with_reducible repeat' first
    | assumption | exact Keeps.refl _ | intro _ | apply keeps_ioSetF | split | dsimp only

theorem keeps_fldSetF {z : State} {s : State} (f lo w v : Nat) (hK : Keeps z s) :
    Keeps z (fldSetF s f lo w v) := by
  unfold fldSetF
  with_reducible repeat' first
    | assumption | exact Keeps.refl _ | intro _ | apply keeps_fldPut | split | dsimp only

theorem keeps_fldSetB {z : State} {s : State} (f i : Nat) (b : Bool) (hK : Keeps z s) :
    Keeps z (fldSetB s f i b) := by
  unfold fldSetB
  with_reducible repeat' first
    | assumption | exact Keeps.refl _ | intro _ | apply keeps_fldSetF | split | dsimp only

theorem keeps_barSetF {z : State} {s : State} (o lo w v : Nat) (hK : Keeps z s) :
    Keeps z (barSetF s o lo w v) := by
  unfold barSetF
  with_reducible repeat' first
    | assumption | exact Keeps.refl _ | intro _ | apply keeps_barPut | split | dsimp only

theorem keeps_barSetB {z : State} {s : State} (o i : Nat) (b : Bool) (hK : Keeps z s) :
    Keeps z (barSetB s o i b) := by
  unfold barSetB
  with_reducible repeat' first
    | assumption | exact Keeps.refl _ | intro _ | apply keeps_barSetF | split | dsimp only

theorem keeps_memPutAll {z : State} {s : State} (l : List (Nat × Word)) (hK : Keeps z s) :
    Keeps z (memPutAll s l) := by
  unfold memPutAll
  with_reducible repeat' first
    | assumption | exact Keeps.refl _ | intro _ | apply keeps_memPut | apply keeps_foldl | split | dsimp only

theorem keeps_memScrub {z : State} {s : State} (bank : Nat) (hK : Keeps z s) :
    Keeps z (memScrub s bank) := by
  unfold memScrub
  with_reducible repeat' first
    | assumption | exact Keeps.refl _ | intro _ | (apply legal_mk; assumption) | split | dsimp only | apply keeps_mk
    | apply keeps_mkMem | apply legal_mk

theorem keeps_memScrubSecrets {z : State} {s : State} (bank : Nat) (hK : Keeps z s) :
    Keeps z (memScrubSecrets s bank) := by
  unfold memScrubSecrets
  with_reducible repeat' first
    | assumption | exact Keeps.refl _ | intro _ | (apply legal_mk; assumption) | split | dsimp only | apply keeps_mk
    | apply keeps_mkMem | apply legal_mk

theorem keeps_readyPut {z : State} {s : State} (n : Nat) (b : Bool) (hK : Keeps z s) :
    Keeps z (readyPut s n b) := by
  unfold readyPut
  with_reducible repeat' first
    | assumption | exact Keeps.refl _ | intro _ | refine keeps_ite (fun _ => ?_) (fun _ => ?_) | apply keeps_ioSetB
    | split | dsimp only

theorem keeps_acAsk {z : State} {s : State} (r : AcReq) (i : AcItem) (write : Bool) (haddr len : Nat) (hK : Keeps z s) :
    Keeps z (acAsk s r i write haddr len) := by
  unfold acAsk
  with_reducible repeat' first
    | assumption | exact Keeps.refl _ | intro _ | apply keeps_emit | (apply legal_mk; assumption) | split
    | dsimp only | apply keeps_mk | apply legal_mk

theorem keeps_pbaPut {z : State} {s : State} (v : Nat) (b : Bool) (hK : Keeps z s) :
    Keeps z (pbaPut s v b) := by
  unfold pbaPut
  with_reducible repeat' first
    | assumption | exact Keeps.refl _ | intro _ | apply keeps_barPut | split | dsimp only

theorem keeps_msixSend {z : State} {s : State} (v : Nat) (hK : Keeps z s) :
    Keeps z (msixSend s v) := by
  unfold msixSend
  with_reducible repeat' first
    | assumption | exact Keeps.refl _ | intro _ | refine keeps_ite (fun _ => ?_) (fun _ => ?_) | apply keeps_acAsk
    | apply keeps_pbaPut | split | dsimp only

theorem keeps_elWrite {z : State} {s : State} (code unit core cause detail addr : Nat) (hK : Keeps z s) :
    Keeps z (elWrite s code unit core cause detail addr) := by
  unfold elWrite
  with_reducible repeat' first
    | assumption | exact Keeps.refl _ | intro _ | refine keeps_ite (fun _ => ?_) (fun _ => ?_) | apply keeps_msixSend
    | apply keeps_barPut | (apply legal_mk; assumption) | split | dsimp only | apply keeps_mk | apply legal_mk

theorem keeps_readySet {z : State} {s : State} (n : Nat) (hK : Keeps z s) :
    Keeps z (readySet s n) := by
  unfold readySet
  with_reducible repeat' first
    | assumption | exact Keeps.refl _ | intro _ | refine keeps_ite (fun _ => ?_) (fun _ => ?_) | apply keeps_readyPut
    | (apply legal_mk; assumption) | split | dsimp only | apply keeps_mk | apply legal_mk

theorem keeps_readyClear {z : State} {s : State} (n : Nat) (hK : Keeps z s) :
    Keeps z (readyClear s n) := by
  unfold readyClear
  with_reducible repeat' first
    | assumption | exact Keeps.refl _ | intro _ | refine keeps_ite (fun _ => ?_) (fun _ => ?_) | apply keeps_elWrite
    | apply keeps_readyPut | split | dsimp only

theorem keeps_setCoreState {z : State} {s : State} (c v : Nat) (hK : Keeps z s) :
    Keeps z (setCoreState s c v) := by
  unfold setCoreState
  with_reducible repeat' first
    | assumption | exact Keeps.refl _ | intro _ | apply keeps_ioSetF | apply keeps_setCore | split | dsimp only

theorem keeps_offerOne {z : State} {s t : State} {skip : Option (Nat × Nat)} (e : offerOne skip s = some t)
    (h : Keeps z s) : Keeps z t := by
  unfold offerOne at e
  dsimp only at e
  split at e
  · cases e
  · split at e
    · cases e
    · injection e with e
      subst e
      refine keeps_ite (fun _ => ?_) (fun _ => ?_)
      · exact keeps_mk (keeps_modCore _ _ h fun hk => legal_mk hk)
      · exact keeps_modCore _ _ h fun hk => legal_mk hk

theorem keeps_offerLoop {z : State} (skip : Option (Nat × Nat)) (n : Nat) {s : State} (h : Keeps z s) :
    Keeps z (offerLoop skip n s) := by
  induction n generalizing s with
  | zero => exact h
  | succ n ih =>
    unfold offerLoop
    split
    · exact h
    · exact ih (keeps_offerOne ‹_› h)

theorem keeps_offerStrip {z : State} {s : State}  (hK : Keeps z s) :
    Keeps z (offerStrip s) := by
  unfold offerStrip
  with_reducible repeat' first
    | assumption | exact Keeps.refl _ | intro _ | refine keeps_ite (fun _ => ?_) (fun _ => ?_) | apply keeps_modCore
    | apply keeps_foldl | (apply legal_mk; assumption) | split | dsimp only | apply keeps_mk | apply legal_mk

theorem keeps_hubEval {z : State} {s : State} (skip : Option (Nat × Nat) := none) (hK : Keeps z s) :
    Keeps z (hubEval s skip) := by
  unfold hubEval
  with_reducible repeat' first
    | assumption | exact Keeps.refl _ | intro _ | apply keeps_offerLoop | apply keeps_offerStrip | split | dsimp only

theorem keeps_setEvlat {z : State} {s : State} (c : Nat) (hK : Keeps z s) :
    Keeps z (setEvlat s c) := by
  unfold setEvlat
  with_reducible repeat' first
    | assumption | exact Keeps.refl _ | intro _ | apply keeps_modCore | (apply legal_mk; assumption) | split
    | dsimp only | apply keeps_mk | apply legal_mk

theorem keeps_wakeMask {z : State} {s : State} (n : Nat) (hK : Keeps z s) :
    Keeps z (wakeMask s n) := by
  unfold wakeMask
  with_reducible repeat' first
    | assumption | exact Keeps.refl _ | intro _ | refine keeps_ite (fun _ => ?_) (fun _ => ?_) | apply keeps_setEvlat
    | apply keeps_foldl | split | dsimp only

theorem keeps_hostRoute {z : State} {s : State} (n : Nat) (hK : Keeps z s) :
    Keeps z (hostRoute s n) := by
  unfold hostRoute
  with_reducible repeat' first
    | assumption | exact Keeps.refl _ | intro _ | refine keeps_ite (fun _ => ?_) (fun _ => ?_) | apply keeps_ioSetF
    | apply keeps_msixSend | apply keeps_pbaPut | apply keeps_foldl | split | dsimp only

theorem keeps_addPulse {z : State} {s : State} (n : Nat) (hK : Keeps z s) :
    Keeps z (addPulse s n) := by
  unfold addPulse
  with_reducible repeat' first
    | assumption | exact Keeps.refl _ | intro _ | refine keeps_ite (fun _ => ?_) (fun _ => ?_) | apply keeps_ioSetB
    | apply keeps_ioSetF | split | dsimp only

theorem keeps_raiseQuiet {z : State} {s : State} (n : Nat) (hK : Keeps z s) :
    Keeps z (raiseQuiet s n) := by
  unfold raiseQuiet
  with_reducible repeat' first
    | assumption | exact Keeps.refl _ | intro _ | apply keeps_addPulse | apply keeps_hostRoute | apply keeps_hubEval
    | apply keeps_wakeMask | split | dsimp only

theorem keeps_raise {z : State} {s : State} (n : Nat) (hK : Keeps z s) :
    Keeps z (raise s n) := by
  unfold raise
  with_reducible repeat' first
    | assumption | exact Keeps.refl _ | intro _ | refine keeps_ite (fun _ => ?_) (fun _ => ?_) | apply keeps_ioInc
    | apply keeps_raiseQuiet | split | dsimp only

theorem keeps_assertLevel {z : State} {s : State} (n : Nat) (hK : Keeps z s) :
    Keeps z (assertLevel s n) := by
  unfold assertLevel
  with_reducible repeat' first
    | assumption | exact Keeps.refl _ | intro _ | refine keeps_ite (fun _ => ?_) (fun _ => ?_)
    | apply keeps_hostRoute | apply keeps_hubEval | apply keeps_ioInc | apply keeps_raiseQuiet | apply keeps_wakeMask
    | (apply legal_mk; assumption) | split | dsimp only | apply keeps_mk | apply legal_mk

theorem keeps_withdrawLevel {z : State} {s : State} (n : Nat) (hK : Keeps z s) :
    Keeps z (withdrawLevel s n) := by
  unfold withdrawLevel
  with_reducible repeat' first
    | assumption | exact Keeps.refl _ | intro _ | apply keeps_hubEval | (apply legal_mk; assumption) | split
    | dsimp only | apply keeps_mk | apply legal_mk

theorem keeps_claimDo {z : State} {s : State} (c : Nat) (hK : Keeps z s) :
    Keeps z (claimDo s c) := by
  unfold claimDo
  with_reducible repeat' first
    | assumption | exact Keeps.refl _ | intro _ | refine keeps_ite (fun _ => ?_) (fun _ => ?_) | apply keeps_hubEval
    | apply keeps_ioSetB | apply keeps_ioSetF | apply keeps_modCore | (apply legal_mk; assumption) | split
    | dsimp only | apply keeps_mk | apply legal_mk

theorem keeps_leaveService {z : State} {s : State} (c : Nat) (n : Nat) (hK : Keeps z s) :
    Keeps z (leaveService c s n) := by
  unfold leaveService
  with_reducible repeat' first
    | assumption | exact Keeps.refl _ | intro _ | refine keeps_ite (fun _ => ?_) (fun _ => ?_)
    | apply keeps_hostRoute | apply keeps_ioSetB | apply keeps_ioSetF | apply keeps_wakeMask | split | dsimp only

theorem keeps_completeDo {z : State} {s : State} (c n : Nat) (hK : Keeps z s) :
    Keeps z (completeDo s c n) := by
  unfold completeDo
  with_reducible repeat' first
    | assumption | exact Keeps.refl _ | intro _ | refine keeps_ite (fun _ => ?_) (fun _ => ?_) | apply keeps_hubEval
    | apply keeps_ioInc | apply keeps_leaveService | apply keeps_raise | apply keeps_modCore | apply keeps_foldl
    | (apply legal_mk; assumption) | split | dsimp only | apply keeps_mk | apply legal_mk

theorem keeps_dropClaims {z : State} {s : State} (c : Nat) (hK : Keeps z s) :
    Keeps z (dropClaims s c) := by
  unfold dropClaims
  with_reducible repeat' first
    | assumption | exact Keeps.refl _ | intro _ | apply keeps_leaveService | apply keeps_modCore | apply keeps_foldl
    | (apply legal_mk; assumption) | split | dsimp only | apply keeps_mk | apply legal_mk

end Sys2Proof.Machine
end

