-- ==== Sys2Proof/Laws/Keeps2.lean ====
section
/-! SUPPORT. Dovetail, access control, cipher port, ledger, completions and modes keep the invariant. -/

namespace Sys2Proof.Machine

/-! The tactics of these proofs are one list for every goal, so that some of them do nothing in some goals. -/
set_option linter.all false

theorem keeps_dhSend {z : State} {s : State} (m : Msg) (hK : Keeps z s) :
    Keeps z (dhSend s m) := by
  unfold dhSend
  with_reducible repeat' first
    | assumption | exact Keeps.refl _ | intro _ | (apply legal_mk; assumption) | split | dsimp only | apply keeps_mk
    | apply legal_mk

theorem keeps_dfSend {z : State} {s : State} (m : Msg) (hK : Keeps z s) :
    Keeps z (dfSend s m) := by
  unfold dfSend
  with_reducible repeat' first
    | assumption | exact Keeps.refl _ | intro _ | refine keeps_ite (fun _ => ?_) (fun _ => ?_)
    | (apply legal_mk; assumption) | split | dsimp only | apply keeps_mk | apply legal_mk

theorem keeps_dhBypass {z : State} {s : State} (f : Nat) (w : Word) (hK : Keeps z s) :
    Keeps z (dhBypass s f w) := by
  unfold dhBypass
  with_reducible repeat' first
    | assumption | exact Keeps.refl _ | intro _ | refine keeps_ite (fun _ => ?_) (fun _ => ?_) | apply keeps_dhSend
    | split | dsimp only

theorem keeps_dhCfg {z : State} {s : State} (f : Nat) (w : Word) (hK : Keeps z s) :
    Keeps z (dhCfg s f w) := by
  unfold dhCfg
  with_reducible repeat' first
    | assumption | exact Keeps.refl _ | intro _ | apply keeps_dhBypass | apply keeps_dhSend | split | dsimp only

theorem keeps_dfFault {z : State} {s : State} (code : Nat) (unit : Option Nat) (hK : Keeps z s) :
    Keeps z (dfFault s code unit) := by
  unfold dfFault
  with_reducible repeat' first
    | assumption | exact Keeps.refl _ | intro _ | apply keeps_dfSend | apply keeps_bump | split | dsimp only

theorem keeps_dvDrop {z : State} {s : State}  (hK : Keeps z s) :
    Keeps z (dvDrop s) := by
  unfold dvDrop
  with_reducible repeat' first
    | assumption | exact Keeps.refl _ | intro _ | refine keeps_ite (fun _ => ?_) (fun _ => ?_) | apply keeps_ioInc
    | apply keeps_raise | (apply legal_mk; assumption) | split | dsimp only | apply keeps_mk | apply legal_mk

theorem keeps_portTx {z : State} {s : State} (c p len off : Nat) (hK : Keeps z s) :
    Keeps z (portTx s c p len off) := by
  unfold portTx
  with_reducible repeat' first
    | assumption | exact Keeps.refl _ | intro _ | refine keeps_ite (fun _ => ?_) (fun _ => ?_) | apply keeps_dhSend
    | apply keeps_dvDrop | apply keeps_foldl | (apply legal_mk; assumption) | split | dsimp only | apply keeps_mk
    | apply legal_mk

theorem keeps_waitSent {z : State} {s : State} (c : Nat) (m : Msg) (hK : Keeps z s) :
    Keeps z (waitSent s c m) := by
  unfold waitSent
  with_reducible repeat' first
    | assumption | exact Keeps.refl _ | intro _ | refine keeps_ite (fun _ => ?_) (fun _ => ?_)
    | (apply legal_mk; assumption) | split | dsimp only | apply keeps_mk | apply legal_mk

theorem keeps_dvPass {z : State} {s : State} (c : Nat) (m : Msg) (hK : Keeps z s) :
    Keeps z (dvPass s c m) := by
  unfold dvPass
  with_reducible repeat' first
    | assumption | exact Keeps.refl _ | intro _ | refine keeps_ite (fun _ => ?_) (fun _ => ?_) | apply keeps_dhCfg
    | apply keeps_dhSend | apply keeps_portTx | (apply legal_mk; assumption) | split | dsimp only | apply keeps_mk
    | apply legal_mk

theorem keeps_dvTake {z : State} {s : State} (c : Nat) (m : Msg) (hK : Keeps z s) :
    Keeps z (dvTake s c m) := by
  unfold dvTake
  with_reducible repeat' first
    | assumption | exact Keeps.refl _ | intro _ | apply keeps_dvPass | apply keeps_waitSent | split | dsimp only

theorem keeps_dvDrain {z : State} (n : Nat) : ∀ (c : Nat) (s : State) (_ : Keeps z s),
    Keeps z (dvDrain c n s) := by
  induction n with
  | zero =>
    intros
    unfold dvDrain
    with_reducible repeat' first
      | assumption | exact Keeps.refl _ | intro _ | refine keeps_ite (fun _ => ?_) (fun _ => ?_) | apply keeps_dvTake
      | apply keeps_modCore | (apply legal_mk; assumption) | split | dsimp only | apply keeps_mk | apply legal_mk
  | succ n ih =>
    intros
    unfold dvDrain
    with_reducible repeat' first
      | assumption | exact Keeps.refl _ | intro _ | apply ih | refine keeps_ite (fun _ => ?_) (fun _ => ?_)
      | apply keeps_dvTake | apply keeps_modCore | (apply legal_mk; assumption) | split | dsimp only | apply keeps_mk
      | apply legal_mk

theorem keeps_coreSend {z : State} {s : State} (c : Nat) (m : Msg) (hK : Keeps z s) :
    Keeps z (coreSend s c m) := by
  unfold coreSend
  with_reducible repeat' first
    | assumption | exact Keeps.refl _ | intro _ | apply keeps_dvDrain | apply keeps_modCore
    | (apply legal_mk; assumption) | split | dsimp only | apply keeps_mk | apply legal_mk

theorem keeps_coreRecv {z : State} {s : State} (c : Nat) (m : Msg) (hK : Keeps z s) :
    Keeps z (coreRecv s c m) := by
  unfold coreRecv
  with_reducible repeat' first
    | assumption | exact Keeps.refl _ | intro _ | refine keeps_ite (fun _ => ?_) (fun _ => ?_) | apply keeps_modCore
    | (apply legal_mk; assumption) | split | dsimp only | apply keeps_mk | apply legal_mk

theorem keeps_coreRefill {z : State} {s : State} (c : Nat) (hK : Keeps z s) :
    Keeps z (coreRefill s c) := by
  unfold coreRefill
  with_reducible repeat' first
    | assumption | exact Keeps.refl _ | intro _ | apply keeps_coreRecv | (apply legal_mk; assumption) | split
    | dsimp only | apply keeps_mk | apply legal_mk

theorem keeps_coreTake {z : State} {s : State} (c : Nat) (hK : Keeps z s) :
    Keeps z (coreTake s c) := by
  unfold coreTake
  with_reducible repeat' first
    | assumption | exact Keeps.refl _ | intro _ | apply keeps_coreRefill | apply keeps_modCore
    | (apply legal_mk; assumption) | split | dsimp only | apply keeps_mk | apply legal_mk

theorem keeps_dhSafeSet {z : State} {s : State} (group release : Bool) (mask : Nat) (hK : Keeps z s) :
    Keeps z (dhSafeSet s group release mask) := by
  unfold dhSafeSet
  with_reducible repeat' first
    | assumption | exact Keeps.refl _ | intro _ | apply keeps_dhSend | split | dsimp only

theorem legal_regPutIdx (i : Nat) (w : Word) {k : Core} (h : coreLegal k) : coreLegal (regPutIdx k i w) := by
  unfold regPutIdx
  with_reducible repeat' first
    | assumption | exact Keeps.refl _ | intro _ | (apply legal_mk; assumption) | split | dsimp only | apply keeps_mk
    | apply legal_mk

theorem legal_regPut (cur d : Nat) (w : Word) {k : Core} (h : coreLegal k) : coreLegal (regPut k cur d w) := by
  unfold regPut
  with_reducible repeat' first
    | assumption | exact Keeps.refl _ | intro _ | refine keeps_ite (fun _ => ?_) (fun _ => ?_)
    | apply legal_regPutIdx | split | dsimp only

/-- What a microword has gathered keeps the queue and the invariant: its state, the states in which it waits, and its
late effects. -/
def AccKeeps (z : State) (a : Acc) : Prop :=
  Keeps z a.st ∧ (∀ p, a.hold = some p → Keeps z p.2) ∧ (∀ p, a.lateHold = some p → Keeps z p.2) ∧
  (∀ t, Keeps z t → Keeps z (a.faultSt t)) ∧ ∀ t, Keeps z t → Keeps z (a.after t)

/-- The same of what a syllable may gather. -/
def ResKeeps (z : State) (r : Res Acc) : Prop := ∀ a, r = .ok a → AccKeeps z a

theorem resk_ok {z : State} {a : Acc} (h : AccKeeps z a) : ResKeeps z (.ok a) := fun b e => by injection e with e; subst e; exact h
theorem resk_pure {z : State} {a : Acc} (h : AccKeeps z a) : ResKeeps z (pure a) := resk_ok h
theorem resk_error {z : State} (f : Flaw) : ResKeeps z (.error f) := fun _ e => by cases e
theorem resk_throw {z : State} (f : Flaw) : ResKeeps z (throw f) := fun _ e => by cases e
theorem resk_throwBind {z : State} {α : Type} (e : Flaw) (f : α → Res Acc) : ResKeeps z (throw e >>= f) :=
  fun _ e => by cases e
theorem acc_lateHold {z s : State} {a : Acc} (w : Wait) (h : AccKeeps z a) (hs : Keeps z s) :
    AccKeeps z { a with lateHold := a.lateHold <|> some (w, s) } := by
  refine ⟨h.1, h.2.1, fun p e => ?_, h.2.2.2⟩
  have h3 := h.2.2.1
  dsimp only at e
  cases hl : a.lateHold with
  | none =>
    rw [hl] at e
    injection e with e
    subst e
    exact hs
  | some q =>
    rw [hl] at e
    injection e with e
    subst e
    exact h3 _ hl
theorem resk_bind {z : State} {α : Type} (r : Res α) (f : α → Res Acc) (h : ∀ b, r = .ok b → ResKeeps z (f b)) :
    ResKeeps z (r >>= f) := by
  intro a e
  cases r with
  | error x => cases e
  | ok b => exact h b rfl a e
theorem resk_ite {z : State} {p : Prop} [Decidable p] {a b : Res Acc} (ha : p → ResKeeps z a) (hb : ¬ p → ResKeeps z b) :
    ResKeeps z (if p then a else b) := by
  split
  · exact ha ‹_›
  · exact hb ‹_›
theorem acc_ite {z : State} {p : Prop} [Decidable p] {a b : Acc} (ha : p → AccKeeps z a) (hb : ¬ p → AccKeeps z b) :
    AccKeeps z (if p then a else b) := by
  split
  · exact ha ‹_›
  · exact hb ‹_›

theorem acc_start {z s : State} (h : Keeps z s) : AccKeeps z (Acc.start s) :=
  ⟨h, (fun _ e => by cases e), (fun _ e => by cases e), fun _ h => h, fun _ h => h⟩
theorem acc_st {z s : State} {a : Acc} (h : AccKeeps z a) (hs : Keeps z s) : AccKeeps z { a with st := s } :=
  ⟨hs, h.2⟩
/-- Fields that hold no state do not matter. -/
theorem acc_mk {z : State} {a : Acc} {writes loads : List (Nat × Word)} {fault late : Option Trp} {xfer : Option Link}
    {branch : Option (Nat × Bool)} {trapN : Option Trp} {rep : Option (Nat × Bool)} {loop : Option (Link × Link × Nat)}
    (h : AccKeeps z a) :
    AccKeeps z (Acc.mk a.st writes loads fault a.faultSt a.hold late a.lateHold xfer branch trapN rep loop a.after) := h

theorem acc_addFault {z : State} {a : Acc} (t : Trp) (h : AccKeeps z a) : AccKeeps z (a.addFault t) := by
  unfold Acc.addFault
  exact acc_ite (fun _ => h) (fun _ => h)

theorem acc_addFaultSt {z : State} {a : Acc} (t : Trp) (f : State → State) (h : AccKeeps z a)
    (hf : ∀ t, Keeps z t → Keeps z (f t)) : AccKeeps z (a.addFaultSt t f) := by
  unfold Acc.addFaultSt
  exact acc_ite (fun _ => ⟨h.1, h.2.1, h.2.2.1, hf, h.2.2.2.2⟩) (fun _ => h)

theorem acc_addHold {z s : State} {a : Acc} (w : Wait) (h : AccKeeps z a) (hs : Keeps z s) : AccKeeps z (a.addHold w s) := by
  unfold Acc.addHold
  refine acc_ite (fun _ => ⟨h.1, ?_, h.2.2⟩) (fun _ => h)
  intro p e
  injection e with e
  subst e
  exact hs

theorem acc_put {z : State} {a : Acc} (d : Nat) (w : Word) (h : AccKeeps z a) : AccKeeps z (a.put d w) := h

theorem acc_putAll {z : State} {a : Acc} (d : List Nat) (w : Word) (h : AccKeeps z a) : AccKeeps z (a.putAll d w) := h

theorem acc_load {z : State} {a : Acc} (l : List (Nat × Word)) (h : AccKeeps z a) : AccKeeps z (a.load l) := h

theorem acc_eff {z : State} {a : Acc} (f : State → State) (h : AccKeeps z a) (hf : Keeps z a.st → Keeps z (f a.st)) :
    AccKeeps z (a.eff f) := ⟨hf h.1, h.2⟩

theorem acc_flag {z : State} {a : Acc} (c : Nat) (u : Option FlagUpd) (h : AccKeeps z a) : AccKeeps z (a.flag c u) :=
  acc_eff _ h fun hs => keeps_modCore _ _ hs fun hk => legal_mk hk

theorem acc_flawed {z : State} {a : Acc} (x : Ctx) (ds : List Nat) (f : Flaw) (h : AccKeeps z a) :
    AccKeeps z (flawed x ds a f) := by
  cases f with
  | trap t => exact acc_addFault t h
  | soft n t => exact acc_ite (fun _ => h) (fun _ => acc_addFault t h)
  | late t => exact h
  | poison w => exact h

theorem acc_outcome {z : State} {a : Acc} (x : Ctx) (ds : List Nat) (r : Res Acc) (h : AccKeeps z a) (hr : ResKeeps z r) :
    AccKeeps z (outcome x ds a r) := by
  unfold outcome
  split
  · exact hr _ rfl
  · exact acc_flawed _ _ _ h

theorem acc_semWord {z : State} {x : Ctx} {a : Acc} (f : Ctx → Res (Word × Option FlagUpd)) (_ : Keeps z x.s)
    (h : AccKeeps z a) : AccKeeps z (semWord f x a) := by
  unfold semWord
  split
  · exact acc_flag _ _ (acc_put _ _ h)
  · exact acc_flawed _ _ _ h

theorem acc_semLng {z : State} {x : Ctx} {a : Acc} (op n : Nat) (f : Ctx → Res (List Word × Option FlagUpd)) (hs : Keeps z x.s)
    (h : AccKeeps z a) : AccKeeps z (semLng op n f x a) := by
  unfold semLng
  split
  · refine acc_ite (fun _ => acc_flag _ _ h) (fun _ => acc_ite (fun _ => acc_flawed _ _ _ h) (fun _ => acc_addHold _ h hs))
  · exact acc_flawed _ _ _ h

theorem acc_semTagchk {z : State} {x : Ctx} {a : Acc} (_ : Keeps z x.s) (h : AccKeeps z a) : AccKeeps z (semTagchk x a) := by
  unfold semTagchk
  exact acc_ite (fun _ => acc_flawed _ _ _ h) fun _ => acc_ite (fun _ => h) fun _ => acc_ite (fun _ => acc_addFault _ h) fun _ =>
    acc_flawed _ _ _ h

theorem keeps_bankEvent {z : State} {s : State} (n bit : Nat) (hK : Keeps z s) :
    Keeps z (bankEvent s n bit) := by
  unfold bankEvent
  with_reducible repeat' first
    | assumption | exact Keeps.refl _ | intro _ | apply keeps_ioSetB | apply keeps_raise | split | dsimp only

theorem keeps_eccLast {z : State} {s : State} (a : Nat) (hK : Keeps z s) :
    Keeps z (eccLast s a) := by
  unfold eccLast
  with_reducible repeat' first
    | assumption | exact Keeps.refl _ | intro _ | apply keeps_ioSetF | split | dsimp only

theorem keeps_repairStart {z : State} {s : State} (b w r : Nat) (hK : Keeps z s) :
    Keeps z (repairStart s b w r) := by
  unfold repairStart
  with_reducible repeat' first
    | assumption | exact Keeps.refl _ | intro _ | refine keeps_ite (fun _ => ?_) (fun _ => ?_) | apply keeps_elWrite
    | apply keeps_ioSetB | (apply legal_mk; assumption) | split | dsimp only | apply keeps_mk | apply legal_mk

theorem keeps_rowCount {z : State} {s : State} (a : Nat) (hK : Keeps z s) :
    Keeps z (rowCount s a).2 := by
  unfold rowCount
  with_reducible repeat' first
    | assumption | exact Keeps.refl _ | intro _ | refine keeps_ite (fun _ => ?_) (fun _ => ?_)
    | (apply legal_mk; assumption) | split | dsimp only | apply keeps_mk | apply legal_mk
theorem keeps_rowCount_eq {z : State} {s t : State} {a : Nat} {b : Nat} (e : rowCount s a = (b, t)) (hK : Keeps z s) :
    Keeps z t := by
  have := keeps_rowCount (z := z) a hK
  rw [e] at this; exact this

theorem keeps_eccCorrected {z : State} {s : State} (a : Nat) (hK : Keeps z s) :
    Keeps z (eccCorrected s a) := by
  unfold eccCorrected
  with_reducible repeat' first
    | assumption | exact Keeps.refl _ | intro _ | refine keeps_ite (fun _ => ?_) (fun _ => ?_)
    | apply keeps_bankEvent | apply keeps_eccLast | apply keeps_elWrite | apply keeps_ioInc | apply keeps_repairStart
    | apply keeps_rowCount | refine keeps_rowCount_eq (by assumption) ?_ | split | dsimp only

theorem keeps_eccRead {z : State} {s : State} (a : Nat) (hK : Keeps z s) :
    Keeps z (eccRead s a) := by
  unfold eccRead
  with_reducible repeat' first
    | assumption | exact Keeps.refl _ | intro _ | refine keeps_ite (fun _ => ?_) (fun _ => ?_)
    | apply keeps_eccCorrected | apply keeps_eccLast | apply keeps_ioInc | split | dsimp only

theorem keeps_jobPut {z : State} {s : State} (n : Nat) (j : Job) (hK : Keeps z s) :
    Keeps z (jobPut s n j) := by
  unfold jobPut
  with_reducible repeat' first
    | assumption | exact Keeps.refl _ | intro _ | (apply legal_mk; assumption) | split | dsimp only | apply keeps_mk
    | apply legal_mk

theorem keeps_jobDel {z : State} {s : State} (n : Nat) (hK : Keeps z s) :
    Keeps z (jobDel s n) := by
  unfold jobDel
  with_reducible repeat' first
    | assumption | exact Keeps.refl _ | intro _ | (apply legal_mk; assumption) | split | dsimp only | apply keeps_mk
    | apply legal_mk

theorem keeps_cipherPass {z : State} (n : Nat) : ∀  (s : State) (_ : Keeps z s),
    Keeps z (cipherPass  n s) := by
  induction n with
  | zero =>
    intros
    unfold cipherPass
    with_reducible repeat' first
      | assumption | exact Keeps.refl _ | intro _ | refine keeps_ite (fun _ => ?_) (fun _ => ?_) | apply keeps_jobPut
      | apply keeps_emit | (apply legal_mk; assumption) | split | dsimp only | apply keeps_mk | apply legal_mk
  | succ n ih =>
    intros
    unfold cipherPass
    with_reducible repeat' first
      | assumption | exact Keeps.refl _ | intro _ | apply ih | refine keeps_ite (fun _ => ?_) (fun _ => ?_)
      | apply keeps_jobPut | apply keeps_emit | (apply legal_mk; assumption) | split | dsimp only | apply keeps_mk
      | apply legal_mk

theorem keeps_jobStart {z : State} {s : State} (n : Nat) (j : Job) (hK : Keeps z s) :
    Keeps z (jobStart s n j) := by
  unfold jobStart
  with_reducible repeat' first
    | assumption | exact Keeps.refl _ | intro _ | apply keeps_cipherPass | apply keeps_jobPut
    | (apply legal_mk; assumption) | split | dsimp only | apply keeps_mk | apply legal_mk

theorem keeps_portPut {z : State} {s : State} (j : Job) (a : Nat) (w : Word) (hK : Keeps z s) :
    Keeps z (portPut s j a w) := by
  unfold portPut
  with_reducible repeat' first
    | assumption | exact Keeps.refl _ | intro _ | refine keeps_ite (fun _ => ?_) (fun _ => ?_) | apply keeps_memPut
    | split | dsimp only

theorem keeps_resultPut {z : State} {s : State} (j : Job) (st detail : Nat) (hK : Keeps z s) :
    Keeps z (resultPut s j st detail) := by
  unfold resultPut
  with_reducible repeat' first
    | assumption | exact Keeps.refl _ | intro _ | apply keeps_portPut | split | dsimp only

theorem keeps_cipherCount {z : State} {s : State} (n st : Nat) (hK : Keeps z s) :
    Keeps z (cipherCount s n st) := by
  unfold cipherCount
  with_reducible repeat' first
    | assumption | exact Keeps.refl _ | intro _ | refine keeps_ite (fun _ => ?_) (fun _ => ?_) | apply keeps_ioInc
    | apply keeps_ioSetF | split | dsimp only

theorem legal_coreJobEnd (st : Nat) {k : Core} (h : coreLegal k) : coreLegal (coreJobEnd st k) := by
  unfold coreJobEnd
  with_reducible repeat' first
    | assumption | exact Keeps.refl _ | intro _ | refine keeps_ite (fun _ => ?_) (fun _ => ?_)
    | (apply legal_mk; assumption) | split | dsimp only | apply keeps_mk | apply legal_mk

theorem keeps_jobLeave {z : State} {s : State} (n : Nat) (j : Job) (st detail : Nat) (hK : Keeps z s) :
    Keeps z (jobLeave s n j st detail) := by
  unfold jobLeave
  with_reducible repeat' first
    | assumption | exact Keeps.refl _ | intro _ | refine keeps_ite (fun _ => ?_) (fun _ => ?_)
    | apply keeps_cipherCount | apply keeps_cipherPass | apply keeps_jobDel | apply keeps_resultPut
    | apply legal_coreJobEnd | apply keeps_modCore | split | dsimp only

theorem keeps_ciphStart {z : State} {s : State} (c ring func len : Nat) (key : Payload) (block : Nat) (hK : Keeps z s) :
    Keeps z (ciphStart s c ring func len key block) := by
  unfold ciphStart
  with_reducible repeat' first
    | assumption | exact Keeps.refl _ | intro _ | refine keeps_ite (fun _ => ?_) (fun _ => ?_) | apply keeps_jobLeave
    | apply keeps_jobStart | apply keeps_modCore | (apply legal_mk; assumption) | split | dsimp only | apply keeps_mk
    | apply legal_mk

theorem keeps_jobFail {z : State} {s : State} (n : Nat) (j : Job) (detail : Nat) (hK : Keeps z s) :
    Keeps z (jobFail s n j detail) := by
  unfold jobFail
  with_reducible repeat' first
    | assumption | exact Keeps.refl _ | intro _ | refine keeps_ite (fun _ => ?_) (fun _ => ?_) | apply keeps_jobPut
    | (apply legal_mk; assumption) | split | dsimp only | apply keeps_mk | apply legal_mk

theorem keeps_areaWrite {z : State} (n : Nat) : ∀ (s : State) (j : Job) (a off : Nat) (b : List Byte) (_ : Keeps z s),
    Keeps z (areaWrite s j a n off b) := by
  induction n with
  | zero => intros; unfold areaWrite; assumption
  | succ n ih =>
    intros
    unfold areaWrite
    with_reducible repeat' first
      | assumption
      | refine keeps_ite (fun _ => ?_) (fun _ => ?_)
      | apply ih
      | apply keeps_portPut
      | dsimp only

theorem keeps_zeroOut {z : State} {s : State} (j : Job) (hK : Keeps z s) :
    Keeps z (zeroOut s j) := by
  unfold zeroOut
  with_reducible repeat' first
    | assumption | exact Keeps.refl _ | intro _ | apply keeps_portPut | apply keeps_foldl | split | dsimp only

theorem keeps_ledgSeqPut {z : State} {s : State} (n : Nat) (hK : Keeps z s) :
    Keeps z (ledgSeqPut s n) := by
  unfold ledgSeqPut
  with_reducible repeat' first
    | assumption | exact Keeps.refl _ | intro _ | apply keeps_ioPut | split | dsimp only

theorem keeps_modLedger {z : State} {s : State} (f : Ledger → Ledger) (hK : Keeps z s) :
    Keeps z (modLedger s f) := by
  unfold modLedger
  with_reducible repeat' first
    | assumption | exact Keeps.refl _ | intro _ | (apply legal_mk; assumption) | split | dsimp only | apply keeps_mk
    | apply legal_mk

theorem keeps_slotClear {z : State} {s : State} (j : Nat) (hK : Keeps z s) :
    Keeps z (slotClear s j) := by
  unfold slotClear
  with_reducible repeat' first
    | assumption | exact Keeps.refl _ | intro _ | refine keeps_ite (fun _ => ?_) (fun _ => ?_)
    | (apply legal_mk; assumption) | split | dsimp only | apply keeps_mk | apply keeps_mkMem | apply legal_mk

theorem keeps_slotWrite {z : State} {s : State} (j : Nat) (ws : List Word) (hK : Keeps z s) :
    Keeps z (slotWrite s j ws) := by
  unfold slotWrite
  with_reducible repeat' first
    | assumption | exact Keeps.refl _ | intro _ | refine keeps_ite (fun _ => ?_) (fun _ => ?_)
    | apply keeps_memPutAll | apply keeps_slotClear | apply keeps_memPut | split | dsimp only

theorem keeps_spoolRoom {z : State} {s : State}  (hK : Keeps z s) :
    Keeps z (spoolRoom s) := by
  unfold spoolRoom
  with_reducible repeat' first
    | assumption | exact Keeps.refl _ | intro _ | refine keeps_ite (fun _ => ?_) (fun _ => ?_)
    | apply keeps_modLedger | apply keeps_slotClear | (apply legal_mk; assumption) | split | dsimp only
    | apply keeps_mk | apply legal_mk

theorem keeps_recAdd {z : State} {s : State} (ws : List Word) (hK : Keeps z s) :
    Keeps z (recAdd s ws).2 := by
  unfold recAdd
  with_reducible repeat' first
    | assumption | exact Keeps.refl _ | intro _ | apply keeps_modLedger | apply keeps_slotWrite
    | apply keeps_spoolRoom | (apply legal_mk; assumption) | split | dsimp only | apply keeps_mk | apply legal_mk
theorem keeps_recAdd_eq {z : State} {s t : State} {ws : List Word} {b : Bool} (e : recAdd s ws = (b, t)) (hK : Keeps z s) :
    Keeps z t := by
  have := keeps_recAdd (z := z) ws hK
  rw [e] at this; exact this

theorem keeps_recChain {z : State} {s : State} (r : LRec) (seq : Nat) (hK : Keeps z s) :
    Keeps z (recChain s r seq) := by
  unfold recChain
  with_reducible repeat' first
    | assumption | exact Keeps.refl _ | intro _ | refine keeps_ite (fun _ => ?_) (fun _ => ?_)
    | apply keeps_ledgSeqPut | apply keeps_modLedger | apply keeps_slotWrite | apply keeps_modCore
    | (apply legal_mk; assumption) | split | dsimp only | apply keeps_mk | apply legal_mk

theorem keeps_sealFail {z : State} {s : State}  (hK : Keeps z s) :
    Keeps z (sealFail s) := by
  unfold sealFail
  with_reducible repeat' first
    | assumption | exact Keeps.refl _ | intro _ | apply keeps_ioSetB | apply keeps_modLedger
    | (apply legal_mk; assumption) | split | dsimp only | apply keeps_mk | apply legal_mk

theorem keeps_sealStart {z : State} {s : State}  (hK : Keeps z s) :
    Keeps z (sealStart s) := by
  unfold sealStart
  with_reducible repeat' first
    | assumption | exact Keeps.refl _ | intro _ | refine keeps_ite (fun _ => ?_) (fun _ => ?_) | apply keeps_jobStart
    | apply keeps_modLedger | apply keeps_sealFail | (apply legal_mk; assumption) | split | dsimp only
    | apply keeps_mk | apply legal_mk

theorem keeps_ledgRun {z : State} (n : Nat) : ∀  (s : State) (_ : Keeps z s),
    Keeps z (ledgRun  n s) := by
  induction n with
  | zero =>
    intros
    unfold ledgRun
    with_reducible repeat' first
      | assumption | exact Keeps.refl _ | intro _ | refine keeps_ite (fun _ => ?_) (fun _ => ?_)
      | apply keeps_recChain | apply keeps_sealStart | split | dsimp only
  | succ n ih =>
    intros
    unfold ledgRun
    with_reducible repeat' first
      | assumption | exact Keeps.refl _ | intro _ | apply ih | refine keeps_ite (fun _ => ?_) (fun _ => ?_)
      | apply keeps_recChain | apply keeps_sealStart | split | dsimp only

theorem keeps_ledgChain {z : State} {s : State}  (hK : Keeps z s) :
    Keeps z (ledgChain s) := by
  unfold ledgChain
  with_reducible repeat' first
    | assumption | exact Keeps.refl _ | intro _ | apply keeps_ledgRun | split | dsimp only

theorem keeps_ledgTake {z : State} {s : State} (typ : Nat) (payload : List Word) (ring core : Nat) (eng : Bool) (hK : Keeps z s) :
    Keeps z (ledgTake s typ payload ring core eng).2 := by
  unfold ledgTake
  with_reducible repeat' first
    | assumption | exact Keeps.refl _ | intro _ | apply keeps_ledgChain | apply keeps_recAdd
    | refine keeps_recAdd_eq (by assumption) ?_ | split | dsimp only
theorem keeps_ledgTake_eq {z : State} {s t : State} {typ : Nat} {payload : List Word} {ring core : Nat} {eng : Bool} {b : Bool} (e : ledgTake s typ payload ring core eng = (b, t)) (hK : Keeps z s) :
    Keeps z t := by
  have := keeps_ledgTake (z := z) typ payload ring core eng hK
  rw [e] at this; exact this

theorem keeps_ledgEng {z : State} {s : State} (typ : Nat) (payload : List Word) (hK : Keeps z s) :
    Keeps z (ledgEng s typ payload) := by
  unfold ledgEng
  with_reducible repeat' first
    | assumption | exact Keeps.refl _ | intro _ | apply keeps_ledgTake | refine keeps_ledgTake_eq (by assumption) ?_
    | split | dsimp only

theorem keeps_ledgCore {z : State} {s : State} (typ : Nat) (payload : List Word) (ring c : Nat) (hK : Keeps z s) :
    Keeps z (ledgCore s typ payload ring c).2 := by
  unfold ledgCore
  with_reducible repeat' first
    | assumption | exact Keeps.refl _ | intro _ | refine keeps_ite (fun _ => ?_) (fun _ => ?_) | apply keeps_ledgTake
    | refine keeps_ledgTake_eq (by assumption) ?_ | apply keeps_modCore | (apply legal_mk; assumption) | split
    | dsimp only | apply keeps_mk | apply legal_mk
theorem keeps_ledgCore_eq {z : State} {s t : State} {typ : Nat} {payload : List Word} {ring c : Nat} {b : Bool} (e : ledgCore s typ payload ring c = (b, t)) (hK : Keeps z s) :
    Keeps z t := by
  have := keeps_ledgCore (z := z) typ payload ring c hK
  rw [e] at this; exact this

theorem keeps_mirrorSend {z : State} {s : State} (seq : Nat) (h : BitVec 256) (hK : Keeps z s) :
    Keeps z (mirrorSend s seq h) := by
  unfold mirrorSend
  with_reducible repeat' first
    | assumption | exact Keeps.refl _ | intro _ | apply keeps_dhCfg | apply keeps_foldl | split | dsimp only

theorem keeps_checkpointAdd {z : State} {s : State} (ws : List Word) (mac : BitVec 128) (hK : Keeps z s) :
    Keeps z (checkpointAdd s ws mac) := by
  unfold checkpointAdd
  with_reducible repeat' first
    | assumption | exact Keeps.refl _ | intro _ | apply keeps_mirrorSend | apply keeps_modLedger | apply keeps_recAdd
    | refine keeps_recAdd_eq (by assumption) ?_ | apply keeps_recChain | apply keeps_sealFail | apply keeps_ioPut
    | (apply legal_mk; assumption) | split | dsimp only | apply keeps_mk | apply legal_mk

theorem keeps_sealEnd {z : State} {s : State} (ok : Bool) (mac : BitVec 128) (hK : Keeps z s) :
    Keeps z (sealEnd s ok mac) := by
  unfold sealEnd
  with_reducible repeat' first
    | assumption | exact Keeps.refl _ | intro _ | refine keeps_ite (fun _ => ?_) (fun _ => ?_)
    | apply keeps_checkpointAdd | apply keeps_ledgChain | apply keeps_sealFail | split | dsimp only

theorem keeps_keylowRec {z : State} {s : State} (n : Nat) (j : Job) (hK : Keeps z s) :
    Keeps z (keylowRec s n j) := by
  unfold keylowRec
  with_reducible repeat' first
    | assumption | exact Keeps.refl _ | intro _ | refine keeps_ite (fun _ => ?_) (fun _ => ?_) | apply keeps_ledgEng
    | split | dsimp only

theorem keeps_jobEnd {z : State} {s : State} (n : Nat) (j : Job) (st d : Nat) (hK : Keeps z s) :
    Keeps z (jobEnd s n j st d) := by
  unfold jobEnd
  with_reducible repeat' first
    | assumption | exact Keeps.refl _ | intro _ | refine keeps_ite (fun _ => ?_) (fun _ => ?_) | apply keeps_jobLeave
    | apply keeps_keylowRec | split | dsimp only

theorem keeps_jobDone {z : State} {s : State} (n : Nat) (j : Job) (st : Nat) (hK : Keeps z s) :
    Keeps z (jobDone s n j st) := by
  unfold jobDone
  with_reducible repeat' first
    | assumption | exact Keeps.refl _ | intro _ | refine keeps_ite (fun _ => ?_) (fun _ => ?_) | apply keeps_jobEnd
    | apply keeps_zeroOut | split | dsimp only

theorem keeps_cipherRevoke {z : State} {s : State}  (hK : Keeps z s) :
    Keeps z (cipherRevoke s) := by
  unfold cipherRevoke
  with_reducible repeat' first
    | assumption | exact Keeps.refl _ | intro _ | refine keeps_ite (fun _ => ?_) (fun _ => ?_) | apply keeps_jobEnd
    | apply keeps_sealEnd | apply keeps_emit | apply keeps_foldl | (apply legal_mk; assumption) | split | dsimp only
    | apply keeps_mk | apply legal_mk

theorem keeps_lateInc {z : State} {s : State} (r : Nat) (hK : Keeps z s) :
    Keeps z (lateInc s r) := by
  unfold lateInc
  with_reducible repeat' first
    | assumption | exact Keeps.refl _ | intro _ | apply keeps_barSetF | split | dsimp only

theorem keeps_cspPut {z : State} {s : State} (r : Nat) (resv noirq hold : Bool) (ws : List Word) (hK : Keeps z s) :
    Keeps z (cspPut s r resv noirq hold ws) := by
  unfold cspPut
  with_reducible repeat' first
    | assumption | exact Keeps.refl _ | intro _ | apply keeps_memPutAll | apply keeps_memPut
    | (apply legal_mk; assumption) | split | dsimp only | apply keeps_mk | apply legal_mk

theorem keeps_compOut {z : State} {s t : State} {r : Nat} {resv noirq : Bool} {ws : List Word} (e : compOut s r resv noirq ws = some t) (hK : Keeps z s) :
    Keeps z t := by
  unfold compOut at e
  revert e
  with_reducible repeat' first
    | assumption | exact Keeps.refl _ | (intro e; cases e; done)
    | (intro e; injection e with e; injection e with _ e; subst e) | (intro e; injection e with e; subst e)
    | refine keeps_ite (fun _ => ?_) (fun _ => ?_) | apply keeps_acAsk | apply keeps_cspPut | apply keeps_lateInc
    | split | dsimp only | intro _

theorem keeps_entryDrop {z : State} {s : State} (e : Entry) (hK : Keeps z s) :
    Keeps z (entryDrop s e) := by
  unfold entryDrop
  with_reducible repeat' first
    | assumption | exact Keeps.refl _ | intro _ | refine keeps_ite (fun _ => ?_) (fun _ => ?_) | apply keeps_raise
    | (apply legal_mk; assumption) | split | dsimp only | apply keeps_mk | apply legal_mk

theorem keeps_compRelease {z : State} (n : Nat) : ∀  (s : State) (_ : Keeps z s),
    Keeps z (compRelease  n s) := by
  induction n with
  | zero =>
    intros
    unfold compRelease
    with_reducible repeat' first
      | assumption | exact Keeps.refl _ | intro _ | refine keeps_compOut (by assumption) ?_ | apply keeps_entryDrop
      | split | dsimp only
  | succ n ih =>
    intros
    unfold compRelease
    with_reducible repeat' first
      | assumption | exact Keeps.refl _ | intro _ | apply ih | refine keeps_compOut (by assumption) ?_
      | apply keeps_entryDrop | split | dsimp only

theorem keeps_entryPut {z : State} {s : State} (e e' : Entry) (hK : Keeps z s) :
    Keeps z (entryPut s e e') := by
  unfold entryPut
  with_reducible repeat' first
    | assumption | exact Keeps.refl _ | intro _ | refine keeps_ite (fun _ => ?_) (fun _ => ?_)
    | (apply legal_mk; assumption) | split | dsimp only | apply keeps_mk | apply legal_mk

theorem keeps_entryDone {z : State} {s : State} (e : Entry) (st : Nat) (w1 w3 : Word) (hK : Keeps z s) :
    Keeps z (entryDone s e st w1 w3) := by
  unfold entryDone
  with_reducible repeat' first
    | assumption | exact Keeps.refl _ | intro _ | refine keeps_ite (fun _ => ?_) (fun _ => ?_)
    | apply keeps_compRelease | apply keeps_entryPut | (apply legal_mk; assumption) | split | dsimp only
    | apply keeps_mk | apply legal_mk

theorem keeps_flushEntries {z : State} {s : State} (p : Entry → Bool) (hK : Keeps z s) :
    Keeps z (flushEntries s p) := by
  unfold flushEntries
  with_reducible repeat' first
    | assumption | exact Keeps.refl _ | intro _ | apply keeps_entryDone | apply keeps_foldl | split | dsimp only

theorem keeps_unsolSend {z : State} {s t : State} {r k : Nat} {w1 w2 w3 : Word} (e : unsolSend s r k w1 w2 w3 = some t) (hK : Keeps z s) :
    Keeps z t := by
  unfold unsolSend at e
  revert e
  with_reducible repeat' first
    | assumption | exact Keeps.refl _ | (intro e; cases e; done)
    | (intro e; injection e with e; injection e with _ e; subst e) | (intro e; injection e with e; subst e)
    | refine keeps_ite (fun _ => ?_) (fun _ => ?_) | refine keeps_compOut (by assumption) ?_ | split | dsimp only
    | intro _

theorem keeps_readyFlush {z : State} {s : State}  (hK : Keeps z s) :
    Keeps z (readyFlush s) := by
  unfold readyFlush
  with_reducible repeat' first
    | assumption | exact Keeps.refl _ | intro _ | refine keeps_unsolSend (by assumption) ?_ | apply keeps_foldl
    | (apply legal_mk; assumption) | split | dsimp only | apply keeps_mk | apply legal_mk

theorem keeps_readyUp {z : State} {s : State} (n : Nat) (hK : Keeps z s) :
    Keeps z (readyUp s n) := by
  unfold readyUp
  with_reducible repeat' first
    | assumption | exact Keeps.refl _ | intro _ | apply keeps_readyFlush | apply keeps_readySet | split | dsimp only

theorem keeps_readyFollow {z : State} {s : State} (n : Nat) (b : Bool) (hK : Keeps z s) :
    Keeps z (readyFollow s n b) := by
  unfold readyFollow
  with_reducible repeat' first
    | assumption | exact Keeps.refl _ | intro _ | refine keeps_ite (fun _ => ?_) (fun _ => ?_)
    | apply keeps_readyClear | apply keeps_readyUp | split | dsimp only

theorem keeps_compWrite {z : State} {s : State} (r : Nat) (noirq : Bool) (w0 w1 w2 w3 : Word) (hK : Keeps z s) :
    Keeps z (compWrite s r noirq w0 w1 w2 w3) := by
  unfold compWrite
  with_reducible repeat' first
    | assumption | exact Keeps.refl _ | intro _ | refine keeps_ite (fun _ => ?_) (fun _ => ?_) | apply keeps_barSetF
    | apply keeps_msixSend | apply keeps_emit | (apply legal_mk; assumption) | split | dsimp only | apply keeps_mk
    | apply legal_mk

theorem keeps_acDenied {z : State} {s : State} (kind core ans : Nat) (hK : Keeps z s) :
    Keeps z (acDenied s kind core ans) := by
  unfold acDenied
  with_reducible repeat' first
    | assumption | exact Keeps.refl _ | intro _ | refine keeps_ite (fun _ => ?_) (fun _ => ?_) | apply keeps_ioInc
    | apply keeps_ioPut | split | dsimp only

theorem keeps_cspReplay {z : State} (n : Nat) : ∀  (v1 : List Nat) (s : State) (_ : Keeps z s),
    Keeps z (cspReplay  n v1 s) := by
  induction n with
  | zero =>
    intros
    unfold cspReplay
    with_reducible repeat' first
      | assumption | exact Keeps.refl _ | intro _ | refine keeps_ite (fun _ => ?_) (fun _ => ?_) | apply keeps_acAsk
      | apply keeps_lateInc | (apply legal_mk; assumption) | split | dsimp only | apply keeps_mk | apply legal_mk
  | succ n ih =>
    intros
    unfold cspReplay
    with_reducible repeat' first
      | assumption | exact Keeps.refl _ | intro _ | apply ih | refine keeps_ite (fun _ => ?_) (fun _ => ?_)
      | apply keeps_acAsk | apply keeps_lateInc | (apply legal_mk; assumption) | split | dsimp only | apply keeps_mk
      | apply legal_mk

theorem keeps_hlReplay {z : State} {s : State}  (hK : Keeps z s) :
    Keeps z (hlReplay s) := by
  unfold hlReplay
  with_reducible repeat' first
    | assumption | exact Keeps.refl _ | intro _ | apply keeps_compRelease | apply keeps_cspReplay
    | apply keeps_readyFlush | split | dsimp only

theorem legal_setMembership (cmp qt : Bool) {k : Core} (h : coreLegal k) : coreLegal (setMembership cmp qt k) := by
  unfold setMembership
  with_reducible repeat' first
    | assumption | exact Keeps.refl _ | intro _ | refine keeps_ite (fun _ => ?_) (fun _ => ?_)
    | (apply legal_mk; assumption) | split | dsimp only | apply keeps_mk | apply legal_mk

theorem keeps_followMasks {z : State} {t : State} (s : State) (hK : Keeps z t) :
    Keeps z (followMasks s t) := by
  unfold followMasks
  with_reducible repeat' first
    | assumption | exact Keeps.refl _ | intro _ | apply legal_setMembership | apply keeps_modCore | apply keeps_foldl
    | split | dsimp only

theorem keeps_lockSet {z : State} {s : State} (p : Nat) (b : Bool) (hK : Keeps z s) :
    Keeps z (lockSet s p b) := by
  unfold lockSet
  with_reducible repeat' first
    | assumption | exact Keeps.refl _ | intro _ | refine keeps_ite (fun _ => ?_) (fun _ => ?_) | apply keeps_ioSetB
    | apply keeps_ledgEng | split | dsimp only

theorem keeps_lockBreak {z : State} {s : State} (c : Nat) (hK : Keeps z s) :
    Keeps z (lockBreak s c) := by
  unfold lockBreak
  with_reducible repeat' first
    | assumption | exact Keeps.refl _ | intro _ | apply keeps_lockSet | split | dsimp only

theorem keeps_dbgDetach {z : State} {s : State}  (hK : Keeps z s) :
    Keeps z (dbgDetach s) := by
  unfold dbgDetach
  with_reducible repeat' first
    | assumption | exact Keeps.refl _ | intro _ | apply keeps_ioSetF | apply keeps_modCore | apply keeps_foldl
    | (apply legal_mk; assumption) | split | dsimp only | apply keeps_mk | apply legal_mk

theorem keeps_clusterOn {z : State} {s : State} (n : Nat) (hK : Keeps z s) :
    Keeps z (clusterOn s n) := by
  unfold clusterOn
  with_reducible repeat' first
    | assumption | exact Keeps.refl _ | intro _ | apply keeps_ioSetB | (apply legal_mk; assumption) | split
    | dsimp only | apply keeps_mk | apply legal_mk

theorem keeps_clusterWake {z : State} {s : State}  (hK : Keeps z s) :
    Keeps z (clusterWake s) := by
  unfold clusterWake
  with_reducible repeat' first
    | assumption | exact Keeps.refl _ | intro _ | apply keeps_clusterOn | apply keeps_foldl | split | dsimp only

theorem keeps_hlDown {z : State} {s : State}  (hK : Keeps z s) :
    Keeps z (hlDown s) := by
  unfold hlDown
  with_reducible repeat' first
    | assumption | exact Keeps.refl _ | intro _ | refine keeps_ite (fun _ => ?_) (fun _ => ?_)
    | apply keeps_dbgDetach | apply keeps_ioSetB | apply keeps_readyClear | (apply legal_mk; assumption) | split
    | dsimp only | apply keeps_mk | apply legal_mk

theorem keeps_hlOn {z : State} {s : State}  (hK : Keeps z s) :
    Keeps z (hlOn s) := by
  unfold hlOn
  with_reducible repeat' first
    | assumption | exact Keeps.refl _ | intro _ | apply keeps_ioSetB | (apply legal_mk; assumption) | split
    | dsimp only | apply keeps_mk | apply legal_mk

theorem keeps_modeWrite {z : State} {s : State}  (hK : Keeps z s) :
    Keeps z (modeWrite s) := by
  unfold modeWrite
  with_reducible repeat' first
    | assumption | exact Keeps.refl _ | intro _ | apply keeps_ioPut | split | dsimp only

theorem keeps_alarmEnter {z : State} {s : State}  (hK : Keeps z s) :
    Keeps z (alarmEnter s) := by
  unfold alarmEnter
  with_reducible repeat' first
    | assumption | exact Keeps.refl _ | intro _ | refine keeps_ite (fun _ => ?_) (fun _ => ?_)
    | apply keeps_cipherRevoke | apply keeps_dbgDetach | apply keeps_dhSafeSet | apply keeps_ioSetB
    | apply keeps_modCore | apply keeps_foldl | (apply legal_mk; assumption) | split | dsimp only | apply keeps_mk
    | apply legal_mk

theorem keeps_modeEffects {z : State} {s : State} (before : State) (old : Word) (hK : Keeps z s) :
    Keeps z (modeEffects before old s) := by
  unfold modeEffects
  with_reducible repeat' first
    | assumption | exact Keeps.refl _ | intro _ | refine keeps_ite (fun _ => ?_) (fun _ => ?_)
    | apply keeps_alarmEnter | apply keeps_clusterWake | apply keeps_dhSend | apply keeps_flushEntries
    | apply keeps_followMasks | apply keeps_ledgEng | apply keeps_lockSet | apply keeps_raise | split | dsimp only

theorem keeps_modeRun {z : State} (n : Nat) : ∀  (s : State) (_ : Keeps z s),
    Keeps z (modeRun  n s) := by
  induction n with
  | zero =>
    intros
    unfold modeRun
    with_reducible repeat' first
      | assumption | exact Keeps.refl _ | intro _ | refine keeps_ite (fun _ => ?_) (fun _ => ?_) | apply keeps_hlDown
      | apply keeps_hlOn | apply keeps_modeEffects | apply keeps_modeWrite | split | dsimp only
  | succ n ih =>
    intros
    unfold modeRun
    with_reducible repeat' first
      | assumption | exact Keeps.refl _ | intro _ | apply ih | refine keeps_ite (fun _ => ?_) (fun _ => ?_)
      | apply keeps_hlDown | apply keeps_hlOn | apply keeps_modeEffects | apply keeps_modeWrite | split | dsimp only

theorem keeps_setCause {z : State} {s : State} (i : Nat) (b : Bool) (hK : Keeps z s) :
    Keeps z (setCause s i b) := by
  unfold setCause
  with_reducible repeat' first
    | assumption | exact Keeps.refl _ | intro _ | refine keeps_ite (fun _ => ?_) (fun _ => ?_) | apply keeps_ioSetB
    | apply keeps_modeRun | split | dsimp only

theorem keeps_modeRequestDo {z : State} {s : State} (v mask : Nat) (hK : Keeps z s) :
    Keeps z (modeRequestDo s v mask) := by
  unfold modeRequestDo
  with_reducible repeat' first
    | assumption | exact Keeps.refl _ | intro _ | refine keeps_ite (fun _ => ?_) (fun _ => ?_)
    | apply keeps_dbgDetach | apply keeps_ioSetB | apply keeps_ioSetF | apply keeps_modeRun | split | dsimp only

theorem keeps_maskWritten {z : State} {s : State} (before : State) (hK : Keeps z s) :
    Keeps z (maskWritten before s) := by
  unfold maskWritten
  with_reducible repeat' first
    | assumption | exact Keeps.refl _ | intro _ | apply keeps_clusterWake | apply keeps_followMasks
    | apply keeps_modeRun | split | dsimp only

theorem keeps_tamper {z : State} {s : State} (bit : Nat) (island : Option Nat) (hK : Keeps z s) :
    Keeps z (tamper s bit island) := by
  unfold tamper
  with_reducible repeat' first
    | assumption | exact Keeps.refl _ | intro _ | refine keeps_ite (fun _ => ?_) (fun _ => ?_) | apply keeps_ioSetB
    | apply keeps_ioSetF | apply keeps_setCause | split | dsimp only

end Sys2Proof.Machine
end

