-- ==== Sys2Proof/Laws/Keeps3.lean ====
section
/-! SUPPORT. Banks, rings, time, I/O registers and traps keep the invariant. -/

namespace Sys2Proof.Machine

/-! The tactics of these proofs are one list for every goal, so that some of them do nothing in some goals. -/
set_option linter.all false

theorem keeps_skerfFollow {z : State} {s : State}  (hK : Keeps z s) :
    Keeps z (skerfFollow s) := by
  unfold skerfFollow
  with_reducible repeat' first
    | assumption | exact Keeps.refl _ | intro _ | apply keeps_setCause | split | dsimp only

theorem keeps_clusterReport {z : State} {s : State} (n : Nat) (hK : Keeps z s) :
    Keeps z (clusterReport s n) := by
  unfold clusterReport
  with_reducible repeat' first
    | assumption | exact Keeps.refl _ | intro _ | apply keeps_readyFollow | split | dsimp only

theorem keeps_moveBits {z : State} {s : State} (a b : Nat) (as_ : List Nat) (hK : Keeps z s) :
    Keeps z (moveBits s a b as_) := by
  unfold moveBits
  with_reducible repeat' first
    | assumption | exact Keeps.refl _ | intro _ | apply keeps_ioPut | apply keeps_foldl | split | dsimp only

theorem keeps_sessFree {z : State} {s : State} (c : Nat) (hK : Keeps z s) :
    Keeps z (sessFree s c) := by
  unfold sessFree
  with_reducible repeat' first
    | assumption | exact Keeps.refl _ | intro _ | refine keeps_ite (fun _ => ?_) (fun _ => ?_)
    | (apply legal_mk; assumption) | split | dsimp only | apply keeps_mk | apply legal_mk

theorem keeps_takeover {z : State} {s : State}  (hK : Keeps z s) :
    Keeps z (takeover s) := by
  unfold takeover
  with_reducible repeat' first
    | assumption | exact Keeps.refl _ | intro _ | refine keeps_ite (fun _ => ?_) (fun _ => ?_)
    | apply keeps_clusterOn | apply keeps_hubEval | apply keeps_ioSetB | apply keeps_moveBits | apply keeps_setEvlat
    | (apply legal_mk; assumption) | split | dsimp only | apply keeps_mk | apply legal_mk

theorem keeps_standbyFollow {z : State} {s : State}  (hK : Keeps z s) :
    Keeps z (standbyFollow s) := by
  unfold standbyFollow
  with_reducible repeat' first
    | assumption | exact Keeps.refl _ | intro _ | refine keeps_ite (fun _ => ?_) (fun _ => ?_) | apply keeps_ioSetB
    | split | dsimp only

theorem legal_kerfStrip  {k : Core} (h : coreLegal k) : coreLegal (kerfStrip k) := by
  unfold kerfStrip
  with_reducible repeat' first
    | assumption | exact Keeps.refl _ | intro _ | (apply legal_mk; assumption) | split | dsimp only | apply keeps_mk
    | apply legal_mk

theorem keeps_waitsDrop {z : State} {s : State} (c : Nat) (hK : Keeps z s) :
    Keeps z (waitsDrop s c) := by
  unfold waitsDrop
  with_reducible repeat' first
    | assumption | exact Keeps.refl _ | intro _ | (apply legal_mk; assumption) | split | dsimp only | apply keeps_mk
    | apply legal_mk

theorem keeps_kerf {z : State} {s : State} (c reason : Nat) (hK : Keeps z s) :
    Keeps z (kerf s c reason) := by
  unfold kerf
  with_reducible repeat' first
    | assumption | exact Keeps.refl _ | intro _ | refine keeps_ite (fun _ => ?_) (fun _ => ?_)
    | apply keeps_clusterReport | apply keeps_elWrite | apply keeps_hubEval | apply keeps_ioSetB
    | apply keeps_lockBreak | apply keeps_raise | apply keeps_sessFree | apply keeps_skerfFollow
    | apply keeps_standbyFollow | apply keeps_takeover | apply keeps_waitsDrop | apply legal_kerfStrip
    | apply keeps_ioPut | apply keeps_modCore | (apply legal_mk; assumption) | split | dsimp only | apply keeps_mk
    | apply legal_mk

theorem legal_Core_fresh : coreLegal Core.fresh := by
  unfold Core.fresh
  exact legal_mk coreLegal_reset

theorem legal_Core_idle (c : Nat) {k : Core} (h : coreLegal k) : coreLegal (Core.idle c k) :=
  ⟨Nat.zero_lt_succ 3, h.2⟩

theorem keeps_coreReset {z : State} {s : State} (c : Nat) (hK : Keeps z s) :
    Keeps z (coreReset s c) := by
  unfold coreReset
  with_reducible repeat' first
    | assumption | exact Keeps.refl _ | intro _ | apply keeps_dropClaims | apply keeps_hubEval | apply keeps_sessFree
    | apply keeps_waitsDrop | apply legal_Core_fresh | apply keeps_ioPut | apply keeps_setCore
    | (apply legal_mk; assumption) | split | dsimp only | apply keeps_mk | apply keeps_mkIo | apply legal_mk

theorem keeps_parkHard {z : State} {s : State} (c : Nat) (spare : Bool) (hK : Keeps z s) :
    Keeps z (parkHard s c spare) := by
  unfold parkHard
  with_reducible repeat' first
    | assumption | exact Keeps.refl _ | intro _ | apply keeps_ioSetF | split | dsimp only

theorem keeps_storeHead {z : State} {s : State} (c : Nat) (hK : Keeps z s) :
    Keeps z (storeHead s c) := by
  unfold storeHead
  with_reducible repeat' first
    | assumption | exact Keeps.refl _ | intro _ | apply keeps_memPutAll | apply keeps_memPut | apply keeps_modCore
    | (apply legal_mk; assumption) | split | dsimp only | apply keeps_mk | apply legal_mk

theorem keeps_storeTrim {z : State} {s : State} (c : Nat) (hK : Keeps z s) :
    Keeps z (storeTrim s c) := by
  unfold storeTrim
  with_reducible repeat' first
    | assumption | exact Keeps.refl _ | intro _ | refine keeps_ite (fun _ => ?_) (fun _ => ?_) | apply keeps_modCore
    | (apply legal_mk; assumption) | split | dsimp only | apply keeps_mk | apply legal_mk

theorem keeps_storeDrain {z : State} (n : Nat) : ∀ (s : State) (c : Nat)  (_ : Keeps z s),
    Keeps z (storeDrain s c n) := by
  induction n with
  | zero =>
    intros
    unfold storeDrain
    with_reducible repeat' first
      | assumption | exact Keeps.refl _ | intro _ | apply keeps_storeHead | apply keeps_storeTrim | split
      | dsimp only
  | succ n ih =>
    intros
    unfold storeDrain
    with_reducible repeat' first
      | assumption | exact Keeps.refl _ | intro _ | apply ih | apply keeps_storeHead | apply keeps_storeTrim | split
      | dsimp only

theorem keeps_storeDrainAll {z : State} {s : State} (c : Nat) (hK : Keeps z s) :
    Keeps z (storeDrainAll s c) := by
  unfold storeDrainAll
  with_reducible repeat' first
    | assumption | exact Keeps.refl _ | intro _ | apply keeps_storeDrain | split | dsimp only

theorem keeps_drainBank {z : State} {s : State} (n : Nat) (hK : Keeps z s) :
    Keeps z (drainBank s n) := by
  unfold drainBank
  with_reducible repeat' first
    | assumption | exact Keeps.refl _ | intro _ | apply keeps_storeDrain | apply keeps_foldl | split | dsimp only

theorem keeps_bankStatePut {z : State} {s : State} (n v : Nat) (hK : Keeps z s) :
    Keeps z (bankStatePut s n v) := by
  unfold bankStatePut
  with_reducible repeat' first
    | assumption | exact Keeps.refl _ | intro _ | apply keeps_ioSetF | split | dsimp only

theorem keeps_bankChgStart {z : State} {s : State} (n next : Nat) (b : BankChange) (hK : Keeps z s) :
    Keeps z (bankChgStart s n next b) := by
  unfold bankChgStart
  with_reducible repeat' first
    | assumption | exact Keeps.refl _ | intro _ | apply keeps_bankStatePut | apply keeps_ioSetF
    | (apply legal_mk; assumption) | split | dsimp only | apply keeps_mk | apply legal_mk

theorem keeps_bankChgDrop {z : State} {s : State} (n : Nat) (hK : Keeps z s) :
    Keeps z (bankChgDrop s n) := by
  unfold bankChgDrop
  with_reducible repeat' first
    | assumption | exact Keeps.refl _ | intro _ | apply keeps_ioSetF | (apply legal_mk; assumption) | split
    | dsimp only | apply keeps_mk | apply legal_mk

theorem keeps_leaseStart {z : State} {s : State} (n : Nat) (hK : Keeps z s) :
    Keeps z (leaseStart s n) := by
  unfold leaseStart
  with_reducible repeat' first
    | assumption | exact Keeps.refl _ | intro _ | (apply legal_mk; assumption) | split | dsimp only | apply keeps_mk
    | apply legal_mk

theorem keeps_bankChgEnd {z : State} {s : State} (n : Nat) (hK : Keeps z s) :
    Keeps z (bankChgEnd s n) := by
  unfold bankChgEnd
  with_reducible repeat' first
    | assumption | exact Keeps.refl _ | intro _ | refine keeps_ite (fun _ => ?_) (fun _ => ?_)
    | apply keeps_bankChgDrop | apply keeps_bankEvent | apply keeps_bankStatePut | apply keeps_ioSetF
    | apply keeps_leaseStart | (apply legal_mk; assumption) | split | dsimp only | apply keeps_mk | apply legal_mk

theorem keeps_bankownFields {z : State} {s : State} (n w : Nat) (hK : Keeps z s) :
    Keeps z (bankownFields s n w) := by
  unfold bankownFields
  with_reducible repeat' first
    | assumption | exact Keeps.refl _ | intro _ | apply keeps_ioSetF | split | dsimp only

theorem keeps_bankownDo {z : State} {s : State} (c ring n w : Nat) (hK : Keeps z s) :
    Keeps z (bankownDo s c ring n w) := by
  unfold bankownDo
  with_reducible repeat' first
    | assumption | exact Keeps.refl _ | intro _ | refine keeps_ite (fun _ => ?_) (fun _ => ?_)
    | apply keeps_bankChgStart | apply keeps_bankEvent | apply keeps_bankownFields | apply keeps_ioSetB
    | apply keeps_ioSetF | apply keeps_leaseStart | split | dsimp only

theorem keeps_leaselostPend {z : State} {s : State} (mask n : Nat) (hK : Keeps z s) :
    Keeps z (leaselostPend s mask n) := by
  unfold leaselostPend
  with_reducible repeat' first
    | assumption | exact Keeps.refl _ | intro _ | apply keeps_modCore | apply keeps_foldl
    | (apply legal_mk; assumption) | split | dsimp only | apply keeps_mk | apply legal_mk

theorem keeps_clampDo {z : State} {s : State} (n : Nat) (hK : Keeps z s) :
    Keeps z (clampDo s n) := by
  unfold clampDo
  with_reducible repeat' first
    | assumption | exact Keeps.refl _ | intro _ | refine keeps_ite (fun _ => ?_) (fun _ => ?_)
    | apply keeps_bankChgStart | apply keeps_bankEvent | apply keeps_elWrite | apply keeps_ioSetB
    | apply keeps_ioSetF | apply keeps_leaselostPend | (apply legal_mk; assumption) | split | dsimp only
    | apply keeps_mk | apply legal_mk

theorem keeps_drainDone {z : State} {s : State} (n : Nat) (hK : Keeps z s) :
    Keeps z (drainDone s n) := by
  unfold drainDone
  with_reducible repeat' first
    | assumption | exact Keeps.refl _ | intro _ | refine keeps_ite (fun _ => ?_) (fun _ => ?_)
    | apply keeps_bankChgDrop | apply keeps_bankChgEnd | apply keeps_bankStatePut | apply keeps_drainBank
    | apply keeps_readyClear | split | dsimp only

theorem keeps_scrubEnd {z : State} {s : State} (n : Nat) (hK : Keeps z s) :
    Keeps z (scrubEnd s n) := by
  unfold scrubEnd
  with_reducible repeat' first
    | assumption | exact Keeps.refl _ | intro _ | refine keeps_ite (fun _ => ?_) (fun _ => ?_)
    | apply keeps_bankChgEnd | apply keeps_memScrub | apply keeps_memScrubSecrets | apply keeps_readyUp | split
    | dsimp only

theorem keeps_renewDo {z : State} {s : State} (n : Nat) (hK : Keeps z s) :
    Keeps z (renewDo s n) := by
  unfold renewDo
  with_reducible repeat' first
    | assumption | exact Keeps.refl _ | intro _ | refine keeps_ite (fun _ => ?_) (fun _ => ?_)
    | apply keeps_leaseStart | split | dsimp only

theorem keeps_partDo {z : State} {s : State} (p w : Nat) (hK : Keeps z s) :
    Keeps z (partDo s p w) := by
  unfold partDo
  with_reducible repeat' first
    | assumption | exact Keeps.refl _ | intro _ | apply keeps_bankChgStart | apply keeps_ioPut | apply keeps_foldl
    | split | dsimp only

theorem keeps_pwrBit {z : State} {s : State} (w : Nat) (n : Nat) (hK : Keeps z s) :
    Keeps z (pwrBit w s n) := by
  unfold pwrBit
  with_reducible repeat' first
    | assumption | exact Keeps.refl _ | intro _ | refine keeps_ite (fun _ => ?_) (fun _ => ?_)
    | apply keeps_bankChgStart | apply keeps_bankEvent | apply keeps_bankStatePut | apply keeps_ioSetB | split
    | dsimp only

theorem keeps_bankpwrDo {z : State} {s : State} (w : Nat) (hK : Keeps z s) :
    Keeps z (bankpwrDo s w) := by
  unfold bankpwrDo
  with_reducible repeat' first
    | assumption | exact Keeps.refl _ | intro _ | apply keeps_pwrBit | apply keeps_foldl | split | dsimp only

theorem keeps_wakeDone {z : State} {s : State} (n : Nat) (hK : Keeps z s) :
    Keeps z (wakeDone s n) := by
  unfold wakeDone
  with_reducible repeat' first
    | assumption | exact Keeps.refl _ | intro _ | refine keeps_ite (fun _ => ?_) (fun _ => ?_)
    | apply keeps_bankEvent | apply keeps_bankStatePut | apply keeps_leaseStart | apply keeps_memScrub
    | apply keeps_readyUp | split | dsimp only

theorem keeps_marchctlDo {z : State} {s : State} (w : Nat) (hK : Keeps z s) :
    Keeps z (marchctlDo s w) := by
  unfold marchctlDo
  with_reducible repeat' first
    | assumption | exact Keeps.refl _ | intro _ | refine keeps_ite (fun _ => ?_) (fun _ => ?_)
    | apply keeps_bankEvent | apply keeps_bankStatePut | apply keeps_ioSetB | apply keeps_ioSetF
    | apply keeps_readyClear | apply keeps_ioPut | (apply legal_mk; assumption) | split | dsimp only | apply keeps_mk
    | apply legal_mk

theorem keeps_marchRow {z : State} {s : State} (n : Nat) (f : Fin 4 × Fin 256) (hK : Keeps z s) :
    Keeps z (marchRow n s f) := by
  unfold marchRow
  with_reducible repeat' first
    | assumption | exact Keeps.refl _ | intro _ | refine keeps_ite (fun _ => ?_) (fun _ => ?_)
    | apply keeps_bankEvent | apply keeps_ioSetB | apply keeps_ioPut | split | dsimp only

theorem keeps_marchEnd {z : State} {s : State} (n : Nat) (fails : List (Fin 4 × Fin 256)) (hK : Keeps z s) :
    Keeps z (marchEnd s n fails) := by
  unfold marchEnd
  with_reducible repeat' first
    | assumption | exact Keeps.refl _ | intro _ | refine keeps_ite (fun _ => ?_) (fun _ => ?_)
    | apply keeps_bankEvent | apply keeps_bankStatePut | apply keeps_ioSetB | apply keeps_marchRow
    | apply keeps_memScrub | apply keeps_readyUp | apply keeps_skerfFollow | apply keeps_ioPut | apply keeps_foldl
    | (apply legal_mk; assumption) | split | dsimp only | apply keeps_mk | apply legal_mk

theorem keeps_repairEnd {z : State} {s : State}  (hK : Keeps z s) :
    Keeps z (repairEnd s) := by
  unfold repairEnd
  with_reducible repeat' first
    | assumption | exact Keeps.refl _ | intro _ | refine keeps_ite (fun _ => ?_) (fun _ => ?_)
    | apply keeps_bankEvent | apply keeps_elWrite | apply keeps_ioSetB | apply keeps_ioPut | apply keeps_memPut
    | apply keeps_foldl | (apply legal_mk; assumption) | split | dsimp only | apply keeps_mk | apply legal_mk

theorem keeps_rpctlDo {z : State} {s : State} (w : Nat) (hK : Keeps z s) :
    Keeps z (rpctlDo s w) := by
  unfold rpctlDo
  with_reducible repeat' first
    | assumption | exact Keeps.refl _ | intro _ | refine keeps_ite (fun _ => ?_) (fun _ => ?_)
    | apply keeps_bankEvent | apply keeps_ioSetF | apply keeps_repairStart | split | dsimp only

theorem keeps_rowmapDo {z : State} {s : State} (a w : Nat) (hK : Keeps z s) :
    Keeps z (rowmapDo s a w) := by
  unfold rowmapDo
  with_reducible repeat' first
    | assumption | exact Keeps.refl _ | intro _ | refine keeps_ite (fun _ => ?_) (fun _ => ?_)
    | apply keeps_bankEvent | apply keeps_ioPut | split | dsimp only

theorem keeps_hostActive {z : State} {s : State}  (hK : Keeps z s) :
    Keeps z (hostActive s) := by
  unfold hostActive
  with_reducible repeat' first
    | assumption | exact Keeps.refl _ | intro _ | apply keeps_setCause | split | dsimp only

theorem keeps_sqBadPut {z : State} {s : State} (q : Nat) (hK : Keeps z s) :
    Keeps z (sqBadPut s q) := by
  unfold sqBadPut
  with_reducible repeat' first
    | assumption | exact Keeps.refl _ | intro _ | apply keeps_barSetB | split | dsimp only

theorem keeps_sqBadFollow {z : State} {s : State}  (hK : Keeps z s) :
    Keeps z (sqBadFollow s) := by
  unfold sqBadFollow
  with_reducible repeat' first
    | assumption | exact Keeps.refl _ | intro _ | apply keeps_sqBadPut | apply keeps_foldl | split | dsimp only

theorem keeps_sqEnableDo {z : State} {s : State} (q : Nat) (w : Nat) (hK : Keeps z s) :
    Keeps z (sqEnableDo s q w) := by
  unfold sqEnableDo
  with_reducible repeat' first
    | assumption | exact Keeps.refl _ | intro _ | refine keeps_ite (fun _ => ?_) (fun _ => ?_) | apply keeps_barSetF
    | apply keeps_sqBadPut | (apply legal_mk; assumption) | split | dsimp only | apply keeps_mk | apply legal_mk

theorem keeps_sqDisableDo {z : State} {s : State} (q : Nat) (w : Nat) (hK : Keeps z s) :
    Keeps z (sqDisableDo s q w) := by
  unfold sqDisableDo
  with_reducible repeat' first
    | assumption | exact Keeps.refl _ | intro _ | refine keeps_ite (fun _ => ?_) (fun _ => ?_) | apply keeps_barSetF
    | apply keeps_flushEntries | (apply legal_mk; assumption) | split | dsimp only | apply keeps_mk | apply legal_mk

theorem keeps_cqEnableDo {z : State} {s : State} (r : Nat) (w : Nat) (hK : Keeps z s) :
    Keeps z (cqEnableDo s r w) := by
  unfold cqEnableDo
  with_reducible repeat' first
    | assumption | exact Keeps.refl _ | intro _ | refine keeps_ite (fun _ => ?_) (fun _ => ?_) | apply keeps_barSetB
    | apply keeps_barSetF | apply keeps_hlReplay | apply keeps_sqBadFollow | (apply legal_mk; assumption) | split
    | dsimp only | apply keeps_mk | apply legal_mk

theorem keeps_cqDisableDo {z : State} {s : State} (r : Nat) (w : Nat) (hK : Keeps z s) :
    Keeps z (cqDisableDo s r w) := by
  unfold cqDisableDo
  with_reducible repeat' first
    | assumption | exact Keeps.refl _ | intro _ | refine keeps_ite (fun _ => ?_) (fun _ => ?_) | apply keeps_barSetB
    | apply keeps_barSetF | apply keeps_sqBadFollow | (apply legal_mk; assumption) | split | dsimp only
    | apply keeps_mk | apply legal_mk

theorem keeps_sqDoorbell {z : State} {s : State} (q v : Nat) (hK : Keeps z s) :
    Keeps z (sqDoorbell s q v) := by
  unfold sqDoorbell
  with_reducible repeat' first
    | assumption | exact Keeps.refl _ | intro _ | refine keeps_ite (fun _ => ?_) (fun _ => ?_) | apply keeps_barSetB
    | apply keeps_barSetF | apply keeps_elWrite | split | dsimp only

theorem keeps_cqDoorbell {z : State} {s : State} (r v : Nat) (hK : Keeps z s) :
    Keeps z (cqDoorbell s r v) := by
  unfold cqDoorbell
  with_reducible repeat' first
    | assumption | exact Keeps.refl _ | intro _ | refine keeps_ite (fun _ => ?_) (fun _ => ?_) | apply keeps_barSetB
    | apply keeps_elWrite | apply keeps_hlReplay | (apply legal_mk; assumption) | split | dsimp only | apply keeps_mk
    | apply legal_mk

theorem keeps_ringFetchDo {z : State} {s : State} (q n : Nat) (hK : Keeps z s) :
    Keeps z (ringFetchDo s q n) := by
  unfold ringFetchDo
  with_reducible repeat' first
    | assumption | exact Keeps.refl _ | intro _ | refine keeps_ite (fun _ => ?_) (fun _ => ?_) | apply keeps_acAsk
    | (apply legal_mk; assumption) | split | dsimp only | apply keeps_mk | apply legal_mk

theorem keeps_fetchFail {z : State} {s : State} (q : Nat) (hK : Keeps z s) :
    Keeps z (fetchFail s q) := by
  unfold fetchFail
  with_reducible repeat' first
    | assumption | exact Keeps.refl _ | intro _ | apply keeps_barSetB | apply keeps_barSetF
    | (apply legal_mk; assumption) | split | dsimp only | apply keeps_mk | apply legal_mk

theorem keeps_entryArrive {z : State} {s : State} (q : Nat) (e : List (BitVec 64)) (hK : Keeps z s) :
    Keeps z (entryArrive q s e) := by
  unfold entryArrive
  with_reducible repeat' first
    | assumption | exact Keeps.refl _ | intro _ | refine keeps_ite (fun _ => ?_) (fun _ => ?_) | apply keeps_barSetB
    | apply keeps_barSetF | apply keeps_entryDone | apply keeps_raise | (apply legal_mk; assumption) | split
    | dsimp only | apply keeps_mk | apply legal_mk

theorem keeps_fetchDone {z : State} {s : State} (q : Nat) (es : List (List (BitVec 64))) (hK : Keeps z s) :
    Keeps z (fetchDone s q es) := by
  unfold fetchDone
  with_reducible repeat' first
    | assumption | exact Keeps.refl _ | intro _ | refine keeps_ite (fun _ => ?_) (fun _ => ?_)
    | apply keeps_entryArrive | apply keeps_foldl | split | dsimp only

theorem legal_workFree  {k : Core} (h : coreLegal k) : coreLegal (workFree k) := by
  unfold workFree
  with_reducible repeat' first
    | assumption | exact Keeps.refl _ | intro _ | (apply legal_mk; assumption) | split | dsimp only | apply keeps_mk
    | apply legal_mk

theorem keeps_takeDo {z : State} {s : State} (c g : Nat) (hK : Keeps z s) :
    Keeps z (takeDo s c g) := by
  unfold takeDo
  with_reducible repeat' first
    | assumption | exact Keeps.refl _ | intro _ | apply keeps_entryPut | apply legal_workFree | apply keeps_modCore
    | (apply legal_mk; assumption) | split | dsimp only | apply keeps_mk | apply legal_mk

theorem keeps_disptakeDo {z : State} {s : State} (c w : Nat) (hK : Keeps z s) :
    Keeps z (disptakeDo s c w) := by
  unfold disptakeDo
  with_reducible repeat' first
    | assumption | exact Keeps.refl _ | intro _ | refine keeps_ite (fun _ => ?_) (fun _ => ?_) | apply keeps_takeDo
    | apply legal_workFree | apply keeps_modCore | split | dsimp only

theorem keeps_workFill {z : State} {s : State} (c : Nat) (hK : Keeps z s) :
    Keeps z (workFill s c) := by
  unfold workFill
  with_reducible repeat' first
    | assumption | exact Keeps.refl _ | intro _ | refine keeps_ite (fun _ => ?_) (fun _ => ?_)
    | apply keeps_memPutAll | apply keeps_memPut | apply keeps_modCore | (apply legal_mk; assumption) | split
    | dsimp only | apply keeps_mk | apply legal_mk

theorem keeps_ringtoDo {z : State} {s : State} (q seq : Nat) (hK : Keeps z s) :
    Keeps z (ringtoDo s q seq) := by
  unfold ringtoDo
  with_reducible repeat' first
    | assumption | exact Keeps.refl _ | intro _ | refine keeps_ite (fun _ => ?_) (fun _ => ?_) | apply keeps_elWrite
    | apply keeps_entryDone | split | dsimp only

theorem tabWf_map {α : Type} [DecidableEq α] {d : Nat → α} (f : Nat × α → Nat × α) (hf : ∀ p, (f p).1 = p.1)
    (g : Nat × α → Bool) (hg : ∀ p, g p = true → p.2 ≠ d p.1) {lo : Option Nat} {t : Tab α} (h : tabWf d lo t = true) :
    tabWf d lo ((t.map f).filter g) = true := by
  induction t generalizing lo with
  | nil => rfl
  | cons p t ih =>
    obtain ⟨j, v⟩ := p
    simp only [tabWf, Bool.and_eq_true] at h
    simp only [List.map, List.filter]
    split
    · next e =>
      have h1 := hf (j, v)
      have h2 := hg _ e
      generalize hfe : f (j, v) = q at h1 h2 ⊢
      obtain ⟨i, w⟩ := q
      dsimp only at h1 h2
      subst h1
      simp only [tabWf, Bool.and_eq_true, decide_eq_true_eq]
      exact ⟨⟨h.1.1, h2⟩, ih h.2⟩
    · refine ih (tabWf_mono h.2 (fun a b ha hb => ?_) (by simp))
      subst ha; simp at hb h; omega

theorem keeps_flrDo {z : State} {s : State} (hK : Keeps z s) : Keeps z (flrDo s) := by
  unfold flrDo
  refine keeps_flushEntries _ ⟨hK.1, fun i => ?_⟩
  have h := hK.2 i
  refine ⟨h.1, h.2.1, h.2.2.1, tabWf_map _ (fun p => ?_) _ (fun p e => ?_) h.2.2.2.1, h.2.2.2.2⟩
  · split <;> rfl
  · simp only [Bool.and_eq_true, decide_eq_true_eq] at e
    exact e.2

theorem keeps_recNow {z : State} {s : State} (typ : Nat) (payload : List Word) (hK : Keeps z s) :
    Keeps z (recNow s typ payload) := by
  unfold recNow
  with_reducible repeat' first
    | assumption | exact Keeps.refl _ | intro _ | apply keeps_recAdd | refine keeps_recAdd_eq (by assumption) ?_
    | apply keeps_recChain | split | dsimp only

theorem keeps_checkpointNow {z : State} {s : State} (mac : BitVec 128) (hK : Keeps z s) :
    Keeps z (checkpointNow s mac) := by
  unfold checkpointNow
  with_reducible repeat' first
    | assumption | exact Keeps.refl _ | intro _ | refine keeps_ite (fun _ => ?_) (fun _ => ?_)
    | apply keeps_checkpointAdd | apply keeps_sealFail | split | dsimp only

theorem keeps_sealTake {z : State} {s : State}  (hK : Keeps z s) :
    Keeps z (sealTake s) := by
  unfold sealTake
  with_reducible repeat' first
    | assumption | exact Keeps.refl _ | intro _ | apply keeps_jobLeave | apply keeps_modLedger
    | (apply legal_mk; assumption) | split | dsimp only | apply keeps_mk | apply legal_mk

theorem keeps_keyRotate {z : State} {s : State} (w : Word) (macOld macNew : BitVec 128) (hK : Keeps z s) :
    Keeps z (keyRotate s w macOld macNew) := by
  unfold keyRotate
  with_reducible repeat' first
    | assumption | exact Keeps.refl _ | intro _ | refine keeps_ite (fun _ => ?_) (fun _ => ?_)
    | apply keeps_checkpointNow | apply keeps_ledgChain | apply keeps_recNow | apply keeps_sealStart
    | apply keeps_sealTake | apply keeps_ioPut | split | dsimp only

theorem keeps_ledgKeyDo {z : State} {s : State} (w : Word) (macOld macNew : BitVec 128) (hK : Keeps z s) :
    Keeps z (ledgKeyDo s w macOld macNew) := by
  unfold ledgKeyDo
  with_reducible repeat' first
    | assumption | exact Keeps.refl _ | intro _ | refine keeps_ite (fun _ => ?_) (fun _ => ?_)
    | apply keeps_keyRotate | apply keeps_ledgEng | apply keeps_ioPut | split | dsimp only

theorem keeps_proveStatus {z : State} {s : State} (c ring a v : Nat) (hK : Keeps z s) :
    Keeps z (proveStatus s c ring a v) := by
  unfold proveStatus
  with_reducible repeat' first
    | assumption | exact Keeps.refl _ | intro _ | refine keeps_ite (fun _ => ?_) (fun _ => ?_) | apply keeps_memPut
    | split | dsimp only

theorem keeps_proveDo {z : State} {s : State} (c ring : Nat) (w : Word) (st : Nat) (mac : BitVec 128) (hK : Keeps z s) :
    Keeps z (proveDo s c ring w st mac) := by
  unfold proveDo
  with_reducible repeat' first
    | assumption | exact Keeps.refl _ | intro _ | refine keeps_ite (fun _ => ?_) (fun _ => ?_)
    | apply keeps_cipherCount | apply keeps_memPutAll | apply keeps_proveStatus | apply keeps_memPut | split
    | dsimp only

theorem keeps_releaseDo {z : State} {s : State} (k : Nat) (hK : Keeps z s) :
    Keeps z (releaseDo s k) := by
  unfold releaseDo
  with_reducible repeat' first
    | assumption | exact Keeps.refl _ | intro _ | refine keeps_ite (fun _ => ?_) (fun _ => ?_)
    | apply keeps_clusterReport | apply keeps_coreReset | apply keeps_parkHard | apply keeps_modCore
    | (apply legal_mk; assumption) | split | dsimp only | apply keeps_mk | apply legal_mk

theorem keeps_kerfctlDo {z : State} {s : State} (w : Nat) (hK : Keeps z s) :
    Keeps z (kerfctlDo s w) := by
  unfold kerfctlDo
  with_reducible repeat' first
    | assumption | exact Keeps.refl _ | intro _ | refine keeps_ite (fun _ => ?_) (fun _ => ?_) | apply keeps_kerf
    | apply keeps_releaseDo | split | dsimp only

theorem keeps_tbAdvance {z : State} {s : State} (n : Nat) (hK : Keeps z s) :
    Keeps z (tbAdvance s n) := by
  unfold tbAdvance
  with_reducible repeat' first
    | assumption | exact Keeps.refl _ | intro _ | apply keeps_tbPut | apply keeps_bump | split | dsimp only

theorem keeps_fieldAdvance {z : State} {s : State}  (hK : Keeps z s) :
    Keeps z (fieldAdvance s) := by
  unfold fieldAdvance
  with_reducible repeat' first
    | assumption | exact Keeps.refl _ | intro _ | refine keeps_ite (fun _ => ?_) (fun _ => ?_) | apply keeps_bump
    | (apply legal_mk; assumption) | split | dsimp only | apply keeps_mk | apply legal_mk

theorem keeps_svTick {z : State} {s : State}  (hK : Keeps z s) :
    Keeps z (svTick s) := by
  unfold svTick
  with_reducible repeat' first
    | assumption | exact Keeps.refl _ | intro _ | apply keeps_fieldAdvance | apply keeps_tbAdvance
    | apply keeps_foldl | (apply legal_mk; assumption) | split | dsimp only | apply keeps_mk | apply legal_mk

theorem keeps_tbCopyPut {z : State} {s : State} (c n k v : Nat) (hK : Keeps z s) :
    Keeps z (tbCopyPut s c n k v) := by
  unfold tbCopyPut
  with_reducible repeat' first
    | assumption | exact Keeps.refl _ | intro _ | apply keeps_modCore | (apply legal_mk; assumption) | split
    | dsimp only | apply keeps_mk | apply legal_mk

theorem keeps_tbhiLatch {z : State} {s : State} (c n : Nat) (hK : Keeps z s) :
    Keeps z (tbhiLatch s c n) := by
  unfold tbhiLatch
  with_reducible repeat' first
    | assumption | exact Keeps.refl _ | intro _ | apply keeps_tbCopyPut | split | dsimp only

theorem keeps_captureDo {z : State} {s : State} (c mask : Nat) (hK : Keeps z s) :
    Keeps z (captureDo s c mask) := by
  unfold captureDo
  with_reducible repeat' first
    | assumption | exact Keeps.refl _ | intro _ | apply keeps_tbCopyPut | apply keeps_foldl | split | dsimp only

theorem keeps_tdReport {z : State} {s : State} (bit : Nat) (hK : Keeps z s) :
    Keeps z (tdReport s bit) := by
  unfold tdReport
  with_reducible repeat' first
    | assumption | exact Keeps.refl _ | intro _ | apply keeps_ioSetB | apply keeps_raise | split | dsimp only

theorem keeps_tbSet {z : State} {s : State} (ring n hi : Nat) (hK : Keeps z s) :
    Keeps z (tbSet s ring n hi) := by
  unfold tbSet
  with_reducible repeat' first
    | assumption | exact Keeps.refl _ | intro _ | refine keeps_ite (fun _ => ?_) (fun _ => ?_) | apply keeps_tdReport
    | apply keeps_tbPut | split | dsimp only

theorem keeps_cmpArm {z : State} {s : State} (u : Nat) (hK : Keeps z s) :
    Keeps z (cmpArm s u) := by
  unfold cmpArm
  with_reducible repeat' first
    | assumption | exact Keeps.refl _ | intro _ | refine keeps_ite (fun _ => ?_) (fun _ => ?_) | apply keeps_ioSetB
    | apply keeps_ioSetF | (apply legal_mk; assumption) | split | dsimp only | apply keeps_mk | apply legal_mk

theorem keeps_cmpctlDo {z : State} {s : State} (u w : Nat) (hK : Keeps z s) :
    Keeps z (cmpctlDo s u w) := by
  unfold cmpctlDo
  with_reducible repeat' first
    | assumption | exact Keeps.refl _ | intro _ | refine keeps_ite (fun _ => ?_) (fun _ => ?_) | apply keeps_cmpArm
    | apply keeps_ioSetB | apply keeps_ioSetF | split | dsimp only

theorem keeps_cmpEval {z : State} {s : State} (u : Nat) (hK : Keeps z s) :
    Keeps z (cmpEval s u) := by
  unfold cmpEval
  with_reducible repeat' first
    | assumption | exact Keeps.refl _ | intro _ | refine keeps_ite (fun _ => ?_) (fun _ => ?_) | apply keeps_ioSetB
    | apply keeps_ioSetF | apply keeps_raise | (apply legal_mk; assumption) | split | dsimp only | apply keeps_mk
    | apply legal_mk

theorem keeps_tdRatePut {z : State} {s : State} (r : Int) (hK : Keeps z s) :
    Keeps z (tdRatePut s r) := by
  unfold tdRatePut
  with_reducible repeat' first
    | assumption | exact Keeps.refl _ | intro _ | apply keeps_ioPut | split | dsimp only

theorem keeps_tdServo {z : State} {s : State}  (hK : Keeps z s) :
    Keeps z (tdServo s) := by
  unfold tdServo
  with_reducible repeat' first
    | assumption | exact Keeps.refl _ | intro _ | apply keeps_tdRatePut | apply keeps_bump | split | dsimp only

theorem keeps_tdNote {z : State} {s : State} (e : Int) (hK : Keeps z s) :
    Keeps z (tdNote s e) := by
  unfold tdNote
  with_reducible repeat' first
    | assumption | exact Keeps.refl _ | intro _ | apply keeps_ioSetB | apply keeps_ioPut
    | (apply legal_mk; assumption) | split | dsimp only | apply keeps_mk | apply legal_mk

theorem keeps_tdStamp {z : State} {s : State} (stamp : Nat) (hK : Keeps z s) :
    Keeps z (tdStamp s stamp) := by
  unfold tdStamp
  with_reducible repeat' first
    | assumption | exact Keeps.refl _ | intro _ | refine keeps_ite (fun _ => ?_) (fun _ => ?_) | apply keeps_tdNote
    | apply keeps_tdRatePut | apply keeps_tdReport | apply keeps_tdServo | apply keeps_tbPut | split | dsimp only

theorem keeps_tdHold {z : State} {s : State}  (hK : Keeps z s) :
    Keeps z (tdHold s) := by
  unfold tdHold
  with_reducible repeat' first
    | assumption | exact Keeps.refl _ | intro _ | refine keeps_ite (fun _ => ?_) (fun _ => ?_) | apply keeps_tdReport
    | split | dsimp only

theorem keeps_tdcfgDo {z : State} {s : State} (w : Nat) (hK : Keeps z s) :
    Keeps z (tdcfgDo s w) := by
  unfold tdcfgDo
  with_reducible repeat' first
    | assumption | exact Keeps.refl _ | intro _ | refine keeps_ite (fun _ => ?_) (fun _ => ?_) | apply keeps_ioSetF
    | apply keeps_tdRatePut | split | dsimp only

theorem keeps_ioReadEff {z : State} {s : State} (c a : Nat) (hK : Keeps z s) :
    Keeps z (ioReadEff s c a) := by
  unfold ioReadEff
  with_reducible repeat' first
    | assumption | exact Keeps.refl _ | intro _ | refine keeps_ite (fun _ => ?_) (fun _ => ?_) | apply keeps_claimDo
    | apply keeps_tbhiLatch | split | dsimp only

theorem keeps_ioRead {z : State} {s t : State} {w_ : Word} {c ring a0 : Nat} (e : ioRead s c ring a0 = .ok (w_, t)) (hK : Keeps z s) :
    Keeps z t := by
  unfold ioRead at e
  revert e
  with_reducible repeat' first
    | assumption | exact Keeps.refl _ | (intro e; cases e; done)
    | (intro e; injection e with e; injection e with _ e; subst e) | (intro e; injection e with e; subst e)
    | refine keeps_ite (fun _ => ?_) (fun _ => ?_) | apply keeps_ioReadEff | split | dsimp only | intro _

theorem keeps_plainWrite {z : State} {s : State} (i : RegInfo) (a w : Nat) (hK : Keeps z s) :
    Keeps z (plainWrite s i a w) := by
  unfold plainWrite
  with_reducible repeat' first
    | assumption | exact Keeps.refl _ | intro _ | apply keeps_ioPut | split | dsimp only

theorem keeps_lockWrite {z : State} {s : State} (a : Nat) (w : Word) (hK : Keeps z s) :
    Keeps z (lockWrite s a w) := by
  unfold lockWrite
  with_reducible repeat' first
    | assumption | exact Keeps.refl _ | intro _ | refine keeps_ite (fun _ => ?_) (fun _ => ?_) | apply keeps_ioPut
    | (apply legal_mk; assumption) | split | dsimp only | apply keeps_mk | apply legal_mk

theorem keeps_bootKey {z : State} {s : State} (a v : Nat) (hK : Keeps z s) :
    Keeps z (bootKey s a v) := by
  unfold bootKey
  with_reducible repeat' first
    | assumption | exact Keeps.refl _ | intro _ | apply keeps_lockWrite | split | dsimp only

theorem keeps_bootKeys {z : State} {s : State}  (hK : Keeps z s) :
    Keeps z (bootKeys s) := by
  unfold bootKeys
  with_reducible repeat' first
    | assumption | exact Keeps.refl _ | intro _ | refine keeps_ite (fun _ => ?_) (fun _ => ?_) | apply keeps_bootKey
    | apply keeps_ioPut | split | dsimp only

theorem keeps_cipherUp {z : State} {s : State}  (hK : Keeps z s) :
    Keeps z (cipherUp s) := by
  unfold cipherUp
  with_reducible repeat' first
    | assumption | exact Keeps.refl _ | intro _ | refine keeps_ite (fun _ => ?_) (fun _ => ?_) | apply keeps_bootKeys
    | apply keeps_cipherPass | apply keeps_readyUp | split | dsimp only

theorem keeps_islenvDo {z : State} {s : State} (i w : Nat) (hK : Keeps z s) :
    Keeps z (islenvDo s i w) := by
  unfold islenvDo
  with_reducible repeat' first
    | assumption | exact Keeps.refl _ | intro _ | refine keeps_ite (fun _ => ?_) (fun _ => ?_) | apply keeps_ioSetB
    | apply keeps_ioSetF | split | dsimp only

theorem keeps_islstatDo {z : State} {s : State} (i w : Nat) (hK : Keeps z s) :
    Keeps z (islstatDo s i w) := by
  unfold islstatDo
  with_reducible repeat' first
    | assumption | exact Keeps.refl _ | intro _ | refine keeps_ite (fun _ => ?_) (fun _ => ?_)
    | apply keeps_plainWrite | split | dsimp only

theorem keeps_srcstatDo {z : State} {s : State} (ring n w : Nat) (hK : Keeps z s) :
    Keeps z (srcstatDo s ring n w) := by
  unfold srcstatDo
  with_reducible repeat' first
    | assumption | exact Keeps.refl _ | intro _ | refine keeps_ite (fun _ => ?_) (fun _ => ?_) | apply keeps_hubEval
    | apply keeps_ioSetB | apply keeps_ioSetF | apply keeps_raise | split | dsimp only

theorem keeps_hwdvDo {z : State} {s : State} (w j v : Nat) (hK : Keeps z s) :
    Keeps z (hwdvDo s w j v) := by
  unfold hwdvDo
  with_reducible repeat' first
    | assumption | exact Keeps.refl _ | intro _ | refine keeps_ite (fun _ => ?_) (fun _ => ?_) | apply keeps_barSetB
    | split | dsimp only

theorem keeps_wdogcfgDo {z : State} {s : State} (a ring w : Nat) (hK : Keeps z s) :
    Keeps z (wdogcfgDo s a ring w) := by
  unfold wdogcfgDo
  with_reducible repeat' first
    | assumption | exact Keeps.refl _ | intro _ | refine keeps_ite (fun _ => ?_) (fun _ => ?_) | apply keeps_ioSetB
    | apply keeps_ioSetF | split | dsimp only

theorem keeps_trimDo {z : State} {s : State} (a : Nat) (w : Word) (hK : Keeps z s) :
    Keeps z (trimDo s a w) := by
  unfold trimDo
  with_reducible repeat' first
    | assumption | exact Keeps.refl _ | intro _ | refine keeps_ite (fun _ => ?_) (fun _ => ?_) | apply keeps_ioPut
    | split | dsimp only

theorem keeps_skeyDo {z : State} {s : State} (k w : Nat) (hK : Keeps z s) :
    Keeps z (skeyDo s k w) := by
  unfold skeyDo
  with_reducible repeat' first
    | assumption | exact Keeps.refl _ | intro _ | refine keeps_ite (fun _ => ?_) (fun _ => ?_)
    | (apply legal_mk; assumption) | split | dsimp only | apply keeps_mk | apply legal_mk

theorem keeps_shadowDo {z : State} {s t : State} {c f : Nat} {w : Word} (e : shadowDo s c f w = .done t) (hK : Keeps z s) :
    Keeps z t := by
  unfold shadowDo at e
  revert e
  with_reducible repeat' first
    | assumption | exact Keeps.refl _ | (intro e; cases e; done)
    | (intro e; injection e with e; injection e with _ e; subst e) | (intro e; injection e with e; subst e)
    | refine keeps_ite (fun _ => ?_) (fun _ => ?_) | apply keeps_coreSend | apply keeps_raise | split | dsimp only
    | intro _

theorem keeps_sysWrite {z : State} {s : State} (c ring : Nat) (i : RegInfo) (a : Nat) (w : Word) (hK : Keeps z s) :
    Keeps z (sysWrite s c ring i a w) := by
  unfold sysWrite
  with_reducible repeat' first
    | assumption | exact Keeps.refl _ | intro _ | refine keeps_ite (fun _ => ?_) (fun _ => ?_)
    | apply keeps_bankownDo | apply keeps_bankpwrDo | apply keeps_captureDo | apply keeps_cipherUp
    | apply keeps_cmpctlDo | apply keeps_disptakeDo | apply keeps_hostRoute | apply keeps_hubEval
    | apply keeps_hwdvDo | apply keeps_kerfctlDo | apply keeps_ledgChain | apply keeps_ledgKeyDo
    | apply keeps_lockWrite | apply keeps_maskWritten | apply keeps_partDo | apply keeps_plainWrite
    | apply keeps_proveDo | apply keeps_srcstatDo | apply keeps_tbSet | apply keeps_tdcfgDo | apply keeps_trimDo
    | apply keeps_ioPut | apply keeps_bump | split | dsimp only

theorem keeps_islandWrite {z : State} {s : State} (i : RegInfo) (a : Nat) (w : Word) (hK : Keeps z s) :
    Keeps z (islandWrite s i a w) := by
  unfold islandWrite
  with_reducible repeat' first
    | assumption | exact Keeps.refl _ | intro _ | refine keeps_ite (fun _ => ?_) (fun _ => ?_) | apply keeps_islenvDo
    | apply keeps_islstatDo | apply keeps_lockWrite | apply keeps_marchctlDo | apply keeps_plainWrite
    | apply keeps_rowmapDo | apply keeps_rpctlDo | apply keeps_skeyDo | split | dsimp only

theorem keeps_privWrite {z : State} {s : State} (c ring : Nat) (i : RegInfo) (k o : Nat) (w : Word) (hK : Keeps z s) :
    Keeps z (privWrite s c ring i k o w) := by
  unfold privWrite
  with_reducible repeat' first
    | assumption | exact Keeps.refl _ | intro _ | refine keeps_ite (fun _ => ?_) (fun _ => ?_)
    | apply keeps_completeDo | apply keeps_hubEval | apply keeps_ioSetF | apply keeps_plainWrite
    | apply keeps_wdogcfgDo | apply keeps_ioPut | split | dsimp only

theorem keeps_ioPerform {z : State} {s t : State} {c ring : Nat} {i : RegInfo} {a : Nat} {w : Word} (e : ioPerform s c ring i a w = .done t) (hK : Keeps z s) :
    Keeps z t := by
  unfold ioPerform at e
  revert e
  with_reducible repeat' first
    | assumption | exact Keeps.refl _ | (intro e; cases e; done)
    | (intro e; injection e with e; injection e with _ e; subst e) | (intro e; injection e with e; subst e)
    | refine keeps_ite (fun _ => ?_) (fun _ => ?_) | apply keeps_islandWrite | apply keeps_privWrite
    | refine keeps_shadowDo (by assumption) ?_ | apply keeps_sysWrite | split | dsimp only | intro _

theorem keeps_ioWrite {z : State} {s t : State} {c ring pos a0 : Nat} {w : Word} (e : ioWrite s c ring pos a0 w = .done t) (hK : Keeps z s) :
    Keeps z t := by
  unfold ioWrite at e
  revert e
  with_reducible repeat' first
    | assumption | exact Keeps.refl _ | (intro e; cases e; done)
    | (intro e; injection e with e; injection e with _ e; subst e) | (intro e; injection e with e; subst e)
    | refine keeps_ioPerform (by assumption) ?_ | split | dsimp only | intro _

theorem keeps_hostAsk {z : State} {s t : State} {c ring : Nat} {h : HostAcc} (e : hostAsk s c ring h = .ok t) (hK : Keeps z s) :
    Keeps z t := by
  unfold hostAsk at e
  revert e
  with_reducible repeat' first
    | assumption | exact Keeps.refl _ | (intro e; cases e; done)
    | (intro e; injection e with e; injection e with _ e; subst e) | (intro e; injection e with e; subst e)
    | refine keeps_ite (fun _ => ?_) (fun _ => ?_) | apply keeps_emit | apply keeps_modCore
    | (apply legal_mk; assumption) | split | dsimp only | apply keeps_mk | apply legal_mk | intro _

theorem keeps_hostStorePart {z : State} {s : State} (h : HostAcc) (p : HostPart) (hK : Keeps z s) :
    Keeps z (hostStorePart s h p) := by
  unfold hostStorePart
  with_reducible repeat' first
    | assumption | exact Keeps.refl _ | intro _ | refine keeps_ite (fun _ => ?_) (fun _ => ?_) | apply keeps_emit
    | split | dsimp only

theorem legal_foldRegs {α : Type} (l : List α) (f : α → Nat) (g : α → Word) {k : Core} (h : coreLegal k) :
    coreLegal (l.foldl (fun k e => regPutIdx k (f e) (g e)) k) := by
  induction l generalizing k with
  | nil => exact h
  | cons e l ih => exact ih (legal_mk h)

theorem legal_shadowFlush {k : Core} (h : coreLegal k) : coreLegal (shadowFlush k) :=
  legal_mk (legal_foldRegs _ _ _ h)

theorem keeps_drainOver {z : State} {s : State} (c lo n : Nat) (hK : Keeps z s) :
    Keeps z (drainOver s c lo n) := by
  unfold drainOver
  with_reducible repeat' first
    | assumption | exact Keeps.refl _ | intro _ | apply keeps_storeDrain | split | dsimp only

theorem legal_tspPut (r : Nat) (w : Word) {k : Core} (h : coreLegal k) : coreLegal (tspPut k r w) := by
  unfold tspPut
  with_reducible repeat' first
    | assumption | exact Keeps.refl _ | intro _ | (apply legal_mk; assumption) | split | dsimp only | apply keeps_mk
    | apply legal_mk

theorem keeps_memRow {z : State} {s : State} (a : Nat) (ws : List Word) (hK : Keeps z s) :
    Keeps z (memRow s a ws) := by
  unfold memRow
  with_reducible repeat' first
    | assumption | exact Keeps.refl _ | intro _ | apply keeps_memPutAll | apply keeps_memPut | split | dsimp only

theorem legal_coreEnter {t : Nat} (ht : t < 4) (v : Link) (lvl : Option Nat) (r : Option Shadow) (sw : Word) {k : Core}
    (h : coreLegal k) : coreLegal (coreEnter t v lvl r sw k) :=
  ⟨ht, (legal_shadowFlush h).2⟩

theorem legal_modeApply  {k : Core} (h : coreLegal k) : coreLegal (modeApply k) := by
  unfold modeApply
  with_reducible repeat' first
    | assumption | exact Keeps.refl _ | intro _ | (apply legal_mk; assumption) | split | dsimp only | apply keeps_mk
    | apply legal_mk

theorem keeps_trapCount {z : State} {s : State} (c cause t : Nat) (stub : Bool) (hK : Keeps z s) :
    Keeps z (trapCount s c cause t stub) := by
  unfold trapCount
  with_reducible repeat' first
    | assumption | exact Keeps.refl _ | intro _ | apply keeps_ioInc | apply keeps_ioSetB | apply keeps_ioSetF | split
    | dsimp only

theorem keeps_parkSoft {z : State} {s : State} (c : Nat) (hK : Keeps z s) :
    Keeps z (parkSoft s c) := by
  unfold parkSoft
  with_reducible repeat' first
    | assumption | exact Keeps.refl _ | intro _ | apply keeps_hubEval | apply keeps_ioSetF | split | dsimp only

theorem bits_lt (n lo w : Nat) : bits n lo w < 2 ^ w := Nat.mod_lt _ (Nat.two_pow_pos w)

theorem keeps_tretApply {z : State} {s : State} (c : Nat) (ws : List Word) (hK : Keeps z s) :
    Keeps z (tretApply s c ws) := by
  unfold tretApply
  dsimp only
  refine keeps_setCore _ _ ?_ fun _ => ⟨bits_lt _ 0 2, bits_lt _ 0 4⟩
  exact keeps_ite (fun _ => keeps_ioSetF _ _ _ _ hK) (fun _ => hK)

theorem keeps_stubRun {z : State} {s : State} (c : Nat) (t : Trp) (back : State → State) (hb : ∀ s, Keeps s (back s))
    (hK : Keeps z s) : Keeps z (stubRun s c t back) := by
  unfold stubRun
  dsimp only
  have h1 : Keeps z (raise (elWrite s 0x01 0 c t.cause (pay t.info) (pay t.addr)) (576 + t.cause % 64)) :=
    keeps_raise _ (keeps_elWrite _ _ _ _ _ _ hK)
  refine keeps_ite (fun _ => keeps_ite (fun _ => keeps_hubEval _ (keeps_parkHard _ _ h1)) (fun _ => h1.trans (hb _)))
    (fun _ => keeps_ite (fun _ => keeps_kerf _ _ h1) (fun _ => keeps_parkSoft _ (keeps_modCore _ _ h1 fun hk => legal_mk hk)))

theorem lineRing_lt (s : State) (n : Nat) : lineRing s n < 4 := by
  unfold lineRing
  repeat' split
  all_goals omega

theorem trapTarget_lt {s : State} {c cause : Nat} {v : Link} {t : Nat} (e : trapTarget s c cause = some (v, t)) : t < 4 := by
  unfold trapTarget at e
  split at e
  · cases e
  · dsimp only at e
    split at e
    · cases e
    · injection e with e
      injection e with _ e
      exact e ▸ lineRing_lt _ _

theorem keeps_doubleEnter {z : State} {s : State} (c : Nat) (t : Trp) (rpc npc : Link) (ds : Bool) (r : Option Shadow)
    (sw : Word) (dreason : Nat) (hK : Keeps z s) : Keeps z (doubleEnter s c t rpc npc ds r sw dreason) := by
  unfold doubleEnter
  dsimp only
  refine keeps_ite (fun _ => keeps_kerf _ _ hK) (fun _ => ?_)
  split
  · exact keeps_kerf _ _ (keeps_modCore _ _ (keeps_trapCount _ _ _ _ (keeps_ioSetF _ _ _ _ (keeps_memRow _ _
      (keeps_drainOver _ _ _ hK)))) fun hk => legal_coreEnter (Nat.zero_lt_succ 3) _ _ _ _ hk)
  · exact keeps_modCore _ _ (keeps_trapCount _ _ _ _ (keeps_ioSetF _ _ _ _ (keeps_memRow _ _
      (keeps_drainOver _ _ _ hK)))) fun hk => legal_coreEnter (Nat.zero_lt_succ 3) _ _ _ _ hk

theorem keeps_trapFrame {z : State} {s : State} (c : Nat) (t : Trp) (rpc npc : Link) (ds : Bool) (reads : List Nat)
    (lvl : Option Nat) (back : State → State) (hb : ∀ s, Keeps s (back s)) (hK : Keeps z s) :
    Keeps z (trapFrame s c t rpc npc ds reads lvl back) := by
  unfold trapFrame
  extract_lets s1 k r sw s2 tgt ring d a s3 s4 v s5
  have h2 : Keeps z s2 := keeps_bump (keeps_modCore _ _ hK fun hk => legal_modeApply hk)
  refine keeps_ite (fun _ => keeps_doubleEnter _ _ _ _ _ _ _ _ h2) (fun _ => ?_)
  have hr : ring < 4 := by
    have : ∀ o, tgt = o → (match o with | none => 0 | some (_, x) => x) < 4 := by
      intro o e
      cases o with
      | none => exact Nat.zero_lt_succ 3
      | some p => exact trapTarget_lt e
    exact this tgt rfl
  have h5 : Keeps z s5 := keeps_modCore _ _ (keeps_trapCount _ _ _ _ (keeps_memRow _ _ (keeps_drainOver _ _ _ h2)))
    fun hk => legal_tspPut _ _ (legal_coreEnter hr _ _ _ _ hk)
  exact keeps_ite (fun _ => keeps_stubRun _ _ _ hb h5) (fun _ => h5)

theorem keeps_stubReturn {z : State} {s : State} (c : Nat) (hK : Keeps z s) : Keeps z (stubReturn s c) := by
  unfold stubReturn
  split
  · exact keeps_tretApply _ _ hK
  · exact keeps_trapFrame _ _ _ _ _ _ _ _ Keeps.refl hK

theorem keeps_takeTrap {z : State} {s : State} (c : Nat) (t : Trp) (rpc npc : Link) (ds : Bool) (reads : List Nat)
    (lvl : Option Nat) (hK : Keeps z s) : Keeps z (takeTrap s c t rpc npc ds reads lvl) :=
  keeps_trapFrame _ _ _ _ _ _ _ _ (fun s => keeps_stubReturn c (Keeps.refl s)) hK

theorem keeps_sevCore {z : State} {s : State} (c : Nat) (hK : Keeps z s) :
    Keeps z (sevCore s c) := by
  unfold sevCore
  with_reducible repeat' first
    | assumption | exact Keeps.refl _ | intro _ | refine keeps_ite (fun _ => ?_) (fun _ => ?_) | apply keeps_hubEval
    | apply keeps_ioSetF | apply keeps_setEvlat | apply keeps_stubReturn | split | dsimp only

theorem legal_windowClear (w j n : Nat) {k : Core} (h : coreLegal k) : coreLegal (windowClear k w j n) :=
  legal_foldRegs _ _ _ h

theorem legal_gateWindow (wpol : Nat) {k : Core} (h : coreLegal k) : coreLegal (gateWindow wpol k) := by
  unfold gateWindow
  dsimp only
  have h1 : ∀ l n, coreLegal { k with cur := (k.cur + 1) % 16, live := l, regs := n } := fun l n =>
    ⟨h.1, Nat.mod_lt _ (Nat.zero_lt_succ 15)⟩
  split
  · exact h
  · split
    · exact legal_windowClear _ _ _ (by split; exact legal_windowClear _ _ _ (h1 _ _); exact h1 _ _)
    · split
      · exact legal_windowClear _ _ _ (h1 _ _)
      · exact h1 _ _

theorem gateCheck_ring {s : State} {c n : Nat} {g : GateDesc} (e : gateCheck s c n = .ok g) : g.tring < 4 := by
  unfold gateCheck at e
  dsimp only at e
  repeat' split at e
  all_goals first | (cases e; done) | (injection e with e; subst e; exact bits_lt _ 0 2)

theorem keeps_gateApply {z : State} {s : State} (c n : Nat) (ret : Link) {g : GateDesc} (hg : g.tring < 4) (hK : Keeps z s) :
    Keeps z (gateApply s c n ret g) := by
  unfold gateApply
  dsimp only
  exact keeps_modCore _ _ (keeps_memRow _ _ (keeps_drainOver _ _ _ hK)) fun hk =>
    ⟨hg, (legal_gateWindow _ (legal_tspPut _ _ hk)).2⟩

theorem legal_gretWindow (wpol : Nat) {k : Core} (h : coreLegal k) : coreLegal (gretWindow wpol k) := by
  unfold gretWindow
  dsimp only
  split
  · exact h
  · refine ⟨?_, Nat.mod_lt _ (Nat.zero_lt_succ 15)⟩
    dsimp only
    split
    · exact (legal_windowClear _ _ _ h).1
    · exact h.1

theorem keeps_gretApply {z : State} {s : State} (c : Nat) (ws : List Word) (hK : Keeps z s) :
    Keeps z (gretApply s c ws) := by
  unfold gretApply
  dsimp only
  exact keeps_modCore _ _ (keeps_drainOver _ _ _ hK) fun hk =>
    ⟨bits_lt _ 0 2, (legal_gretWindow _ (legal_tspPut _ _ hk)).2⟩

end Sys2Proof.Machine
end

