-- ==== Sys2Proof/Laws/Keeps4.lean ====
section
/-! SUPPORT. The meanings of the syllables keep the invariant. -/

namespace Sys2Proof.Machine

/-! The tactics of these proofs are one list for every goal, so that some of them do nothing in some goals. -/
set_option linter.all false

theorem acc_Acc_go {z : State} (a : Acc) (l : Link) (hA : AccKeeps z a) :
    AccKeeps z (Acc.go a l) := by
  unfold Acc.go
  with_reducible repeat' first
    | assumption | exact Keeps.refl _ | intro _ | (apply acc_mk; assumption)
    | refine acc_ite (fun _ => ?_) (fun _ => ?_) | refine resk_ite (fun _ => ?_) (fun _ => ?_) | apply resk_ok
    | apply resk_pure | apply resk_error | apply resk_throw | apply resk_throwBind | apply acc_lateHold
    | (refine resk_bind _ _ (fun _ _ => ?_)) | apply acc_outcome | apply acc_flawed | apply acc_addFault
    | apply acc_addFaultSt | apply acc_addHold | apply acc_put | apply acc_putAll | apply acc_load | apply acc_eff
    | apply acc_flag | (apply legal_mk; assumption) | split | dsimp only | apply keeps_mk | apply legal_mk
    | apply acc_mk

theorem resk_branchAcc {z : State} (x : Ctx) (a : Acc) (brc taken : Bool) (_hx : Keeps z x.s) (hA : AccKeeps z a) :
    ResKeeps z (branchAcc x a brc taken) := by
  unfold branchAcc
  with_reducible repeat' first
    | assumption | exact Keeps.refl _ | intro _ | (apply acc_mk; assumption)
    | refine acc_ite (fun _ => ?_) (fun _ => ?_) | refine resk_ite (fun _ => ?_) (fun _ => ?_) | apply resk_ok
    | apply resk_pure | apply resk_error | apply resk_throw | apply resk_throwBind | apply acc_lateHold
    | (refine resk_bind _ _ (fun _ _ => ?_)) | apply acc_outcome | apply acc_flawed | apply acc_addFault
    | apply acc_addFaultSt | apply acc_addHold | apply acc_put | apply acc_putAll | apply acc_load | apply acc_eff
    | apply acc_flag | refine keeps_ite (fun _ => ?_) (fun _ => ?_) | apply acc_Acc_go | (apply legal_mk; assumption)
    | split | dsimp only | apply keeps_mk | apply legal_mk | apply acc_mk

theorem acc_semBcond {z : State} {x : Ctx} {a : Acc} (ok : Tag → Bool) (test : Nat → Bool) (_hx : Keeps z x.s) (hA : AccKeeps z a) :
    AccKeeps z (semBcond ok test x a) := by
  unfold semBcond
  with_reducible repeat' first
    | assumption | exact Keeps.refl _ | intro _ | (apply acc_mk; assumption)
    | refine acc_ite (fun _ => ?_) (fun _ => ?_) | refine resk_ite (fun _ => ?_) (fun _ => ?_) | apply resk_ok
    | apply resk_pure | apply resk_error | apply resk_throw | apply resk_throwBind | apply acc_lateHold
    | (refine resk_bind _ _ (fun _ _ => ?_)) | apply acc_outcome | apply acc_flawed | apply acc_addFault
    | apply acc_addFaultSt | apply acc_addHold | apply acc_put | apply acc_putAll | apply acc_load | apply acc_eff
    | apply acc_flag | apply acc_outcome | apply resk_branchAcc | split | dsimp only | apply acc_mk

theorem acc_semBr {z : State} {x : Ctx} {a : Acc}  (_hx : Keeps z x.s) (hA : AccKeeps z a) :
    AccKeeps z (semBr  x a) := by
  unfold semBr
  with_reducible repeat' first
    | assumption | exact Keeps.refl _ | intro _ | (apply acc_mk; assumption)
    | refine acc_ite (fun _ => ?_) (fun _ => ?_) | refine resk_ite (fun _ => ?_) (fun _ => ?_) | apply resk_ok
    | apply resk_pure | apply resk_error | apply resk_throw | apply resk_throwBind | apply acc_lateHold
    | (refine resk_bind _ _ (fun _ _ => ?_)) | apply acc_outcome | apply acc_flawed | apply acc_addFault
    | apply acc_addFaultSt | apply acc_addHold | apply acc_put | apply acc_putAll | apply acc_load | apply acc_eff
    | apply acc_flag | refine keeps_ite (fun _ => ?_) (fun _ => ?_) | apply acc_Acc_go | apply acc_outcome | split
    | dsimp only | apply acc_mk

theorem acc_semBt {z : State} {x : Ctx} {a : Acc}  (_hx : Keeps z x.s) (hA : AccKeeps z a) :
    AccKeeps z (semBt  x a) := by
  unfold semBt
  with_reducible repeat' first
    | assumption | exact Keeps.refl _ | intro _ | (apply acc_mk; assumption)
    | refine acc_ite (fun _ => ?_) (fun _ => ?_) | refine resk_ite (fun _ => ?_) (fun _ => ?_) | apply resk_ok
    | apply resk_pure | apply resk_error | apply resk_throw | apply resk_throwBind | apply acc_lateHold
    | (refine resk_bind _ _ (fun _ _ => ?_)) | apply acc_outcome | apply acc_flawed | apply acc_addFault
    | apply acc_addFaultSt | apply acc_addHold | apply acc_put | apply acc_putAll | apply acc_load | apply acc_eff
    | apply acc_flag | apply acc_semBcond | split | dsimp only | apply acc_mk

theorem acc_semBf {z : State} {x : Ctx} {a : Acc}  (_hx : Keeps z x.s) (hA : AccKeeps z a) :
    AccKeeps z (semBf  x a) := by
  unfold semBf
  with_reducible repeat' first
    | assumption | exact Keeps.refl _ | intro _ | (apply acc_mk; assumption)
    | refine acc_ite (fun _ => ?_) (fun _ => ?_) | refine resk_ite (fun _ => ?_) (fun _ => ?_) | apply resk_ok
    | apply resk_pure | apply resk_error | apply resk_throw | apply resk_throwBind | apply acc_lateHold
    | (refine resk_bind _ _ (fun _ _ => ?_)) | apply acc_outcome | apply acc_flawed | apply acc_addFault
    | apply acc_addFaultSt | apply acc_addHold | apply acc_put | apply acc_putAll | apply acc_load | apply acc_eff
    | apply acc_flag | apply acc_semBcond | split | dsimp only | apply acc_mk

theorem acc_semBz {z : State} {x : Ctx} {a : Acc}  (_hx : Keeps z x.s) (hA : AccKeeps z a) :
    AccKeeps z (semBz  x a) := by
  unfold semBz
  with_reducible repeat' first
    | assumption | exact Keeps.refl _ | intro _ | (apply acc_mk; assumption)
    | refine acc_ite (fun _ => ?_) (fun _ => ?_) | refine resk_ite (fun _ => ?_) (fun _ => ?_) | apply resk_ok
    | apply resk_pure | apply resk_error | apply resk_throw | apply resk_throwBind | apply acc_lateHold
    | (refine resk_bind _ _ (fun _ _ => ?_)) | apply acc_outcome | apply acc_flawed | apply acc_addFault
    | apply acc_addFaultSt | apply acc_addHold | apply acc_put | apply acc_putAll | apply acc_load | apply acc_eff
    | apply acc_flag | apply acc_semBcond | split | dsimp only | apply acc_mk

theorem acc_semBnz {z : State} {x : Ctx} {a : Acc}  (_hx : Keeps z x.s) (hA : AccKeeps z a) :
    AccKeeps z (semBnz  x a) := by
  unfold semBnz
  with_reducible repeat' first
    | assumption | exact Keeps.refl _ | intro _ | (apply acc_mk; assumption)
    | refine acc_ite (fun _ => ?_) (fun _ => ?_) | refine resk_ite (fun _ => ?_) (fun _ => ?_) | apply resk_ok
    | apply resk_pure | apply resk_error | apply resk_throw | apply resk_throwBind | apply acc_lateHold
    | (refine resk_bind _ _ (fun _ _ => ?_)) | apply acc_outcome | apply acc_flawed | apply acc_addFault
    | apply acc_addFaultSt | apply acc_addHold | apply acc_put | apply acc_putAll | apply acc_load | apply acc_eff
    | apply acc_flag | apply acc_semBcond | split | dsimp only | apply acc_mk

theorem acc_semBrc {z : State} {x : Ctx} {a : Acc}  (_hx : Keeps z x.s) (hA : AccKeeps z a) :
    AccKeeps z (semBrc  x a) := by
  unfold semBrc
  with_reducible repeat' first
    | assumption | exact Keeps.refl _ | intro _ | (apply acc_mk; assumption)
    | refine acc_ite (fun _ => ?_) (fun _ => ?_) | refine resk_ite (fun _ => ?_) (fun _ => ?_) | apply resk_ok
    | apply resk_pure | apply resk_error | apply resk_throw | apply resk_throwBind | apply acc_lateHold
    | (refine resk_bind _ _ (fun _ _ => ?_)) | apply acc_outcome | apply acc_flawed | apply acc_addFault
    | apply acc_addFaultSt | apply acc_addHold | apply acc_put | apply acc_putAll | apply acc_load | apply acc_eff
    | apply acc_flag | apply acc_outcome | apply resk_branchAcc | split | dsimp only | apply acc_mk

theorem keeps_rsPush {z : State} {s : State} (c : Nat) (l : Link) (hK : Keeps z s) :
    Keeps z (rsPush s c l) := by
  unfold rsPush
  with_reducible repeat' first
    | assumption | exact Keeps.refl _ | intro _ | refine keeps_ite (fun _ => ?_) (fun _ => ?_) | apply keeps_ioSetF
    | apply keeps_ioPut | apply keeps_foldl | split | dsimp only

theorem keeps_rsPop {z : State} {s : State} (c : Nat) (hK : Keeps z s) :
    Keeps z (rsPop s c) := by
  unfold rsPop
  with_reducible repeat' first
    | assumption | exact Keeps.refl _ | intro _ | apply keeps_ioSetF | split | dsimp only

theorem legal_windowUp {k : Core} (h : coreLegal k) : coreLegal (windowUp k) := ⟨h.1, Nat.mod_lt _ (Nat.zero_lt_succ 15)⟩

theorem legal_windowDown {k : Core} (h : coreLegal k) : coreLegal (windowDown k) := ⟨h.1, Nat.mod_lt _ (Nat.zero_lt_succ 15)⟩

theorem acc_later {z : State} {a : Acc} (f : State → State) (h : AccKeeps z a) (hf : ∀ t, Keeps z t → Keeps z (f t)) :
    AccKeeps z (a.later f) :=
  ⟨h.1, h.2.1, h.2.2.1, h.2.2.2.1, fun t ht => hf _ (h.2.2.2.2 t ht)⟩

theorem acc_semCall {z : State} {x : Ctx} {a : Acc}  (_hx : Keeps z x.s) (hA : AccKeeps z a) :
    AccKeeps z (semCall  x a) := by
  unfold semCall
  with_reducible repeat' first
    | assumption | exact Keeps.refl _ | intro _ | (apply acc_mk; assumption)
    | refine acc_ite (fun _ => ?_) (fun _ => ?_) | refine resk_ite (fun _ => ?_) (fun _ => ?_) | apply resk_ok
    | apply resk_pure | apply resk_error | apply resk_throw | apply resk_throwBind | apply acc_lateHold
    | (refine resk_bind _ _ (fun _ _ => ?_)) | apply acc_outcome | apply acc_flawed | apply acc_addFault
    | apply acc_addFaultSt | apply acc_addHold | apply acc_put | apply acc_putAll | apply acc_load | apply acc_eff
    | apply acc_flag | refine keeps_ite (fun _ => ?_) (fun _ => ?_) | apply acc_Acc_go | apply acc_later
    | apply acc_outcome | apply keeps_rsPush | split | dsimp only | apply acc_mk

theorem acc_semCallw {z : State} {x : Ctx} {a : Acc}  (_hx : Keeps z x.s) (hA : AccKeeps z a) :
    AccKeeps z (semCallw  x a) := by
  unfold semCallw
  with_reducible repeat' first
    | assumption | exact Keeps.refl _ | intro _ | (apply acc_mk; assumption)
    | refine acc_ite (fun _ => ?_) (fun _ => ?_) | refine resk_ite (fun _ => ?_) (fun _ => ?_) | apply resk_ok
    | apply resk_pure | apply resk_error | apply resk_throw | apply resk_throwBind | apply acc_lateHold
    | (refine resk_bind _ _ (fun _ _ => ?_)) | apply acc_outcome | apply acc_flawed | apply acc_addFault
    | apply acc_addFaultSt | apply acc_addHold | apply acc_put | apply acc_putAll | apply acc_load | apply acc_eff
    | apply acc_flag | refine keeps_ite (fun _ => ?_) (fun _ => ?_) | apply acc_Acc_go | apply acc_later
    | apply acc_outcome | apply keeps_rsPush | apply legal_windowUp | apply keeps_modCore | split | dsimp only
    | apply acc_mk

theorem acc_semRet {z : State} {x : Ctx} {a : Acc}  (_hx : Keeps z x.s) (hA : AccKeeps z a) :
    AccKeeps z (semRet  x a) := by
  unfold semRet
  with_reducible repeat' first
    | assumption | exact Keeps.refl _ | intro _ | (apply acc_mk; assumption)
    | refine acc_ite (fun _ => ?_) (fun _ => ?_) | refine resk_ite (fun _ => ?_) (fun _ => ?_) | apply resk_ok
    | apply resk_pure | apply resk_error | apply resk_throw | apply resk_throwBind | apply acc_lateHold
    | (refine resk_bind _ _ (fun _ _ => ?_)) | apply acc_outcome | apply acc_flawed | apply acc_addFault
    | apply acc_addFaultSt | apply acc_addHold | apply acc_put | apply acc_putAll | apply acc_load | apply acc_eff
    | apply acc_flag | refine keeps_ite (fun _ => ?_) (fun _ => ?_) | apply acc_Acc_go | apply acc_later
    | apply acc_outcome | apply keeps_rsPop | split | dsimp only | apply acc_mk

theorem acc_semRetw {z : State} {x : Ctx} {a : Acc}  (_hx : Keeps z x.s) (hA : AccKeeps z a) :
    AccKeeps z (semRetw  x a) := by
  unfold semRetw
  with_reducible repeat' first
    | assumption | exact Keeps.refl _ | intro _ | (apply acc_mk; assumption)
    | refine acc_ite (fun _ => ?_) (fun _ => ?_) | refine resk_ite (fun _ => ?_) (fun _ => ?_) | apply resk_ok
    | apply resk_pure | apply resk_error | apply resk_throw | apply resk_throwBind | apply acc_lateHold
    | (refine resk_bind _ _ (fun _ _ => ?_)) | apply acc_outcome | apply acc_flawed | apply acc_addFault
    | apply acc_addFaultSt | apply acc_addHold | apply acc_put | apply acc_putAll | apply acc_load | apply acc_eff
    | apply acc_flag | refine keeps_ite (fun _ => ?_) (fun _ => ?_) | apply acc_Acc_go | apply acc_later
    | apply acc_outcome | apply keeps_rsPop | apply legal_windowDown | apply keeps_modCore | split | dsimp only
    | apply acc_mk

theorem acc_semJr {z : State} {x : Ctx} {a : Acc}  (_hx : Keeps z x.s) (hA : AccKeeps z a) :
    AccKeeps z (semJr  x a) := by
  unfold semJr
  with_reducible repeat' first
    | assumption | exact Keeps.refl _ | intro _ | (apply acc_mk; assumption)
    | refine acc_ite (fun _ => ?_) (fun _ => ?_) | refine resk_ite (fun _ => ?_) (fun _ => ?_) | apply resk_ok
    | apply resk_pure | apply resk_error | apply resk_throw | apply resk_throwBind | apply acc_lateHold
    | (refine resk_bind _ _ (fun _ _ => ?_)) | apply acc_outcome | apply acc_flawed | apply acc_addFault
    | apply acc_addFaultSt | apply acc_addHold | apply acc_put | apply acc_putAll | apply acc_load | apply acc_eff
    | apply acc_flag | refine keeps_ite (fun _ => ?_) (fun _ => ?_) | apply acc_Acc_go | apply acc_outcome | split
    | dsimp only | apply acc_mk

theorem acc_semCallr {z : State} {x : Ctx} {a : Acc}  (_hx : Keeps z x.s) (hA : AccKeeps z a) :
    AccKeeps z (semCallr  x a) := by
  unfold semCallr
  with_reducible repeat' first
    | assumption | exact Keeps.refl _ | intro _ | (apply acc_mk; assumption)
    | refine acc_ite (fun _ => ?_) (fun _ => ?_) | refine resk_ite (fun _ => ?_) (fun _ => ?_) | apply resk_ok
    | apply resk_pure | apply resk_error | apply resk_throw | apply resk_throwBind | apply acc_lateHold
    | (refine resk_bind _ _ (fun _ _ => ?_)) | apply acc_outcome | apply acc_flawed | apply acc_addFault
    | apply acc_addFaultSt | apply acc_addHold | apply acc_put | apply acc_putAll | apply acc_load | apply acc_eff
    | apply acc_flag | refine keeps_ite (fun _ => ?_) (fun _ => ?_) | apply acc_Acc_go | apply acc_later
    | apply acc_outcome | apply keeps_rsPush | split | dsimp only | apply acc_mk

theorem acc_semRep {z : State} {x : Ctx} {a : Acc}  (_hx : Keeps z x.s) (hA : AccKeeps z a) :
    AccKeeps z (semRep  x a) := by
  unfold semRep
  with_reducible repeat' first
    | assumption | exact Keeps.refl _ | intro _ | (apply acc_mk; assumption)
    | refine acc_ite (fun _ => ?_) (fun _ => ?_) | refine resk_ite (fun _ => ?_) (fun _ => ?_) | apply resk_ok
    | apply resk_pure | apply resk_error | apply resk_throw | apply resk_throwBind | apply acc_lateHold
    | (refine resk_bind _ _ (fun _ _ => ?_)) | apply acc_outcome | apply acc_flawed | apply acc_addFault
    | apply acc_addFaultSt | apply acc_addHold | apply acc_put | apply acc_putAll | apply acc_load | apply acc_eff
    | apply acc_flag | (apply legal_mk; assumption) | split | dsimp only | apply keeps_mk | apply legal_mk
    | apply acc_mk

theorem acc_semRepi {z : State} {x : Ctx} {a : Acc}  (_hx : Keeps z x.s) (hA : AccKeeps z a) :
    AccKeeps z (semRepi  x a) := by
  unfold semRepi
  with_reducible repeat' first
    | assumption | exact Keeps.refl _ | intro _ | (apply acc_mk; assumption)
    | refine acc_ite (fun _ => ?_) (fun _ => ?_) | refine resk_ite (fun _ => ?_) (fun _ => ?_) | apply resk_ok
    | apply resk_pure | apply resk_error | apply resk_throw | apply resk_throwBind | apply acc_lateHold
    | (refine resk_bind _ _ (fun _ _ => ?_)) | apply acc_outcome | apply acc_flawed | apply acc_addFault
    | apply acc_addFaultSt | apply acc_addHold | apply acc_put | apply acc_putAll | apply acc_load | apply acc_eff
    | apply acc_flag | apply acc_outcome | (apply legal_mk; assumption) | split | dsimp only | apply keeps_mk
    | apply legal_mk | apply acc_mk

theorem acc_semLoop {z : State} {x : Ctx} {a : Acc}  (_hx : Keeps z x.s) (hA : AccKeeps z a) :
    AccKeeps z (semLoop  x a) := by
  unfold semLoop
  with_reducible repeat' first
    | assumption | exact Keeps.refl _ | intro _ | (apply acc_mk; assumption)
    | refine acc_ite (fun _ => ?_) (fun _ => ?_) | refine resk_ite (fun _ => ?_) (fun _ => ?_) | apply resk_ok
    | apply resk_pure | apply resk_error | apply resk_throw | apply resk_throwBind | apply acc_lateHold
    | (refine resk_bind _ _ (fun _ _ => ?_)) | apply acc_outcome | apply acc_flawed | apply acc_addFault
    | apply acc_addFaultSt | apply acc_addHold | apply acc_put | apply acc_putAll | apply acc_load | apply acc_eff
    | apply acc_flag | refine keeps_ite (fun _ => ?_) (fun _ => ?_) | apply acc_outcome
    | (apply legal_mk; assumption) | split | dsimp only | apply keeps_mk | apply legal_mk | apply acc_mk

theorem acc_semWfe {z : State} {x : Ctx} {a : Acc}  (_hx : Keeps z x.s) (hA : AccKeeps z a) :
    AccKeeps z (semWfe  x a) := by
  unfold semWfe
  with_reducible repeat' first
    | assumption | exact Keeps.refl _ | intro _ | (apply acc_mk; assumption)
    | refine acc_ite (fun _ => ?_) (fun _ => ?_) | refine resk_ite (fun _ => ?_) (fun _ => ?_) | apply resk_ok
    | apply resk_pure | apply resk_error | apply resk_throw | apply resk_throwBind | apply acc_lateHold
    | (refine resk_bind _ _ (fun _ _ => ?_)) | apply acc_outcome | apply acc_flawed | apply acc_addFault
    | apply acc_addFaultSt | apply acc_addHold | apply acc_put | apply acc_putAll | apply acc_load | apply acc_eff
    | apply acc_flag | refine keeps_ite (fun _ => ?_) (fun _ => ?_) | apply acc_addHold | apply acc_eff
    | apply keeps_modCore | (apply legal_mk; assumption) | split | dsimp only | apply keeps_mk | apply legal_mk
    | apply acc_mk

theorem keeps_sevFlag {z : State} {s : State} (f : Nat) (c : Nat) (hK : Keeps z s) :
    Keeps z (sevFlag f s c) := by
  unfold sevFlag
  with_reducible repeat' first
    | assumption | exact Keeps.refl _ | intro _ | apply keeps_modCore | (apply legal_mk; assumption) | split
    | dsimp only | apply keeps_mk | apply legal_mk

theorem acc_semSevCores {z : State} {x : Ctx} {a : Acc}  (_hx : Keeps z x.s) (hA : AccKeeps z a) :
    AccKeeps z (semSevCores  x a) := by
  unfold semSevCores
  with_reducible repeat' first
    | assumption | exact Keeps.refl _ | intro _ | (apply acc_mk; assumption)
    | refine acc_ite (fun _ => ?_) (fun _ => ?_) | refine resk_ite (fun _ => ?_) (fun _ => ?_) | apply resk_ok
    | apply resk_pure | apply resk_error | apply resk_throw | apply resk_throwBind | apply acc_lateHold
    | (refine resk_bind _ _ (fun _ _ => ?_)) | apply acc_outcome | apply acc_flawed | apply acc_addFault
    | apply acc_addFaultSt | apply acc_addHold | apply acc_put | apply acc_putAll | apply acc_load | apply acc_eff
    | apply acc_flag | refine keeps_ite (fun _ => ?_) (fun _ => ?_) | apply acc_later | apply acc_outcome
    | apply keeps_sevCore | apply keeps_sevFlag | apply keeps_foldl | split | dsimp only | apply acc_mk

theorem acc_semSevHub {z : State} {x : Ctx} {a : Acc}  (_hx : Keeps z x.s) (hA : AccKeeps z a) :
    AccKeeps z (semSevHub  x a) := by
  unfold semSevHub
  with_reducible repeat' first
    | assumption | exact Keeps.refl _ | intro _ | (apply acc_mk; assumption)
    | refine acc_ite (fun _ => ?_) (fun _ => ?_) | refine resk_ite (fun _ => ?_) (fun _ => ?_) | apply resk_ok
    | apply resk_pure | apply resk_error | apply resk_throw | apply resk_throwBind | apply acc_lateHold
    | (refine resk_bind _ _ (fun _ _ => ?_)) | apply acc_outcome | apply acc_flawed | apply acc_addFault
    | apply acc_addFaultSt | apply acc_addHold | apply acc_put | apply acc_putAll | apply acc_load | apply acc_eff
    | apply acc_flag | refine keeps_ite (fun _ => ?_) (fun _ => ?_) | apply acc_later | apply acc_outcome
    | apply keeps_raise | split | dsimp only | apply acc_mk

theorem keeps_dhOut {z : State} {s : State} (form w0 : Nat) (hK : Keeps z s) :
    Keeps z (dhOut s form w0) := by
  unfold dhOut
  with_reducible repeat' first
    | assumption | exact Keeps.refl _ | intro _ | refine keeps_ite (fun _ => ?_) (fun _ => ?_) | apply keeps_dhSend
    | split | dsimp only

theorem acc_semSevJig {z : State} {x : Ctx} {a : Acc}  (_hx : Keeps z x.s) (hA : AccKeeps z a) :
    AccKeeps z (semSevJig  x a) := by
  unfold semSevJig
  with_reducible repeat' first
    | assumption | exact Keeps.refl _ | intro _ | (apply acc_mk; assumption)
    | refine acc_ite (fun _ => ?_) (fun _ => ?_) | refine resk_ite (fun _ => ?_) (fun _ => ?_) | apply resk_ok
    | apply resk_pure | apply resk_error | apply resk_throw | apply resk_throwBind | apply acc_lateHold
    | (refine resk_bind _ _ (fun _ _ => ?_)) | apply acc_outcome | apply acc_flawed | apply acc_addFault
    | apply acc_addFaultSt | apply acc_addHold | apply acc_put | apply acc_putAll | apply acc_load | apply acc_eff
    | apply acc_flag | apply acc_later | apply keeps_dhOut | split | dsimp only | apply acc_mk

theorem acc_semSevTrig {z : State} {x : Ctx} {a : Acc}  (_hx : Keeps z x.s) (hA : AccKeeps z a) :
    AccKeeps z (semSevTrig  x a) := by
  unfold semSevTrig
  with_reducible repeat' first
    | assumption | exact Keeps.refl _ | intro _ | (apply acc_mk; assumption)
    | refine acc_ite (fun _ => ?_) (fun _ => ?_) | refine resk_ite (fun _ => ?_) (fun _ => ?_) | apply resk_ok
    | apply resk_pure | apply resk_error | apply resk_throw | apply resk_throwBind | apply acc_lateHold
    | (refine resk_bind _ _ (fun _ _ => ?_)) | apply acc_outcome | apply acc_flawed | apply acc_addFault
    | apply acc_addFaultSt | apply acc_addHold | apply acc_put | apply acc_putAll | apply acc_load | apply acc_eff
    | apply acc_flag | apply acc_later | apply keeps_dhOut | split | dsimp only | apply acc_mk

theorem keeps_waittArm {z : State} {s : State} (u tb v : Nat) (hK : Keeps z s) :
    Keeps z (waittArm s u tb v) := by
  unfold waittArm
  with_reducible repeat' first
    | assumption | exact Keeps.refl _ | intro _ | apply keeps_cmpArm | apply keeps_ioSetF | apply keeps_ioPut | split
    | dsimp only

theorem acc_semWaitt {z : State} {x : Ctx} {a : Acc}  (_hx : Keeps z x.s) (hA : AccKeeps z a) :
    AccKeeps z (semWaitt  x a) := by
  unfold semWaitt
  with_reducible repeat' first
    | assumption | exact Keeps.refl _ | intro _ | (apply acc_mk; assumption)
    | refine acc_ite (fun _ => ?_) (fun _ => ?_) | refine resk_ite (fun _ => ?_) (fun _ => ?_) | apply resk_ok
    | apply resk_pure | apply resk_error | apply resk_throw | apply resk_throwBind | apply acc_lateHold
    | (refine resk_bind _ _ (fun _ _ => ?_)) | apply acc_outcome | apply acc_flawed | apply acc_addFault
    | apply acc_addFaultSt | apply acc_addHold | apply acc_put | apply acc_putAll | apply acc_load | apply acc_eff
    | apply acc_flag | refine keeps_ite (fun _ => ?_) (fun _ => ?_) | apply acc_addHold | apply acc_outcome
    | apply keeps_waittArm | split | dsimp only | apply acc_mk

theorem orTrap_ok {α : Type} {r : Except Trp α} {v : α} (e : orTrap r = .ok v) : r = .ok v := by
  unfold orTrap at e
  split at e
  · injection e with e
    exact e ▸ rfl
  · cases e

theorem acc_semGate {z : State} {x : Ctx} {a : Acc} (hx : Keeps z x.s) (hA : AccKeeps z a) :
    AccKeeps z (semGate x a) := by
  unfold semGate
  refine acc_outcome _ _ _ hA (resk_ite (fun _ => resk_pure hA) fun _ => resk_bind _ _ fun g hg => resk_pure ?_)
  exact acc_later _ hA fun t ht => keeps_gateApply _ _ _ (gateCheck_ring (orTrap_ok hg)) ht

theorem acc_semGret {z : State} {x : Ctx} {a : Acc}  (_hx : Keeps z x.s) (hA : AccKeeps z a) :
    AccKeeps z (semGret  x a) := by
  unfold semGret
  with_reducible repeat' first
    | assumption | exact Keeps.refl _ | intro _ | (apply acc_mk; assumption)
    | refine acc_ite (fun _ => ?_) (fun _ => ?_) | refine resk_ite (fun _ => ?_) (fun _ => ?_) | apply resk_ok
    | apply resk_pure | apply resk_error | apply resk_throw | apply resk_throwBind | apply acc_lateHold
    | (refine resk_bind _ _ (fun _ _ => ?_)) | apply acc_outcome | apply acc_flawed | apply acc_addFault
    | apply acc_addFaultSt | apply acc_addHold | apply acc_put | apply acc_putAll | apply acc_load | apply acc_eff
    | apply acc_flag | refine keeps_ite (fun _ => ?_) (fun _ => ?_) | apply acc_later | apply acc_outcome
    | apply keeps_gretApply | split | dsimp only | apply acc_mk

theorem acc_semTret {z : State} {x : Ctx} {a : Acc}  (_hx : Keeps z x.s) (hA : AccKeeps z a) :
    AccKeeps z (semTret  x a) := by
  unfold semTret
  with_reducible repeat' first
    | assumption | exact Keeps.refl _ | intro _ | (apply acc_mk; assumption)
    | refine acc_ite (fun _ => ?_) (fun _ => ?_) | refine resk_ite (fun _ => ?_) (fun _ => ?_) | apply resk_ok
    | apply resk_pure | apply resk_error | apply resk_throw | apply resk_throwBind | apply acc_lateHold
    | (refine resk_bind _ _ (fun _ _ => ?_)) | apply acc_outcome | apply acc_flawed | apply acc_addFault
    | apply acc_addFaultSt | apply acc_addHold | apply acc_put | apply acc_putAll | apply acc_load | apply acc_eff
    | apply acc_flag | refine keeps_ite (fun _ => ?_) (fun _ => ?_) | apply acc_later | apply acc_outcome
    | apply keeps_drainOver | apply keeps_tretApply | split | dsimp only | apply acc_mk

theorem acc_semTrap {z : State} {x : Ctx} {a : Acc}  (_hx : Keeps z x.s) (hA : AccKeeps z a) :
    AccKeeps z (semTrap  x a) := by
  unfold semTrap
  with_reducible repeat' first
    | assumption | exact Keeps.refl _ | intro _ | (apply acc_mk; assumption)
    | refine acc_ite (fun _ => ?_) (fun _ => ?_) | refine resk_ite (fun _ => ?_) (fun _ => ?_) | apply resk_ok
    | apply resk_pure | apply resk_error | apply resk_throw | apply resk_throwBind | apply acc_lateHold
    | (refine resk_bind _ _ (fun _ _ => ?_)) | apply acc_outcome | apply acc_flawed | apply acc_addFault
    | apply acc_addFaultSt | apply acc_addHold | apply acc_put | apply acc_putAll | apply acc_load | apply acc_eff
    | apply acc_flag | (apply legal_mk; assumption) | split | dsimp only | apply keeps_mk | apply legal_mk
    | apply acc_mk

theorem acc_semTfence {z : State} {x : Ctx} {a : Acc}  (_hx : Keeps z x.s) (hA : AccKeeps z a) :
    AccKeeps z (semTfence  x a) := by
  unfold semTfence
  with_reducible repeat' first
    | assumption | exact Keeps.refl _ | intro _ | (apply acc_mk; assumption)
    | refine acc_ite (fun _ => ?_) (fun _ => ?_) | refine resk_ite (fun _ => ?_) (fun _ => ?_) | apply resk_ok
    | apply resk_pure | apply resk_error | apply resk_throw | apply resk_throwBind | apply acc_lateHold
    | (refine resk_bind _ _ (fun _ _ => ?_)) | apply acc_outcome | apply acc_flawed | apply acc_addFault
    | apply acc_addFaultSt | apply acc_addHold | apply acc_put | apply acc_putAll | apply acc_load | apply acc_eff
    | apply acc_flag | split | dsimp only | apply acc_mk

theorem keeps_parkDo {z : State} {s : State} (c n : Nat) (hK : Keeps z s) :
    Keeps z (parkDo s c n) := by
  unfold parkDo
  with_reducible repeat' first
    | assumption | exact Keeps.refl _ | intro _ | apply keeps_hubEval | apply keeps_ioSetF | split | dsimp only

theorem acc_semPark {z : State} {x : Ctx} {a : Acc}  (_hx : Keeps z x.s) (hA : AccKeeps z a) :
    AccKeeps z (semPark  x a) := by
  unfold semPark
  with_reducible repeat' first
    | assumption | exact Keeps.refl _ | intro _ | (apply acc_mk; assumption)
    | refine acc_ite (fun _ => ?_) (fun _ => ?_) | refine resk_ite (fun _ => ?_) (fun _ => ?_) | apply resk_ok
    | apply resk_pure | apply resk_error | apply resk_throw | apply resk_throwBind | apply acc_lateHold
    | (refine resk_bind _ _ (fun _ _ => ?_)) | apply acc_outcome | apply acc_flawed | apply acc_addFault
    | apply acc_addFaultSt | apply acc_addHold | apply acc_put | apply acc_putAll | apply acc_load | apply acc_eff
    | apply acc_flag | refine keeps_ite (fun _ => ?_) (fun _ => ?_) | apply acc_later | apply acc_outcome
    | apply keeps_parkDo | split | dsimp only | apply acc_mk

theorem acc_semNop {z : State} {x : Ctx} {a : Acc}  (_hx : Keeps z x.s) (hA : AccKeeps z a) :
    AccKeeps z (semNop  x a) := by
  unfold semNop
  with_reducible repeat' first
    | assumption | exact Keeps.refl _ | intro _ | (apply acc_mk; assumption)
    | refine acc_ite (fun _ => ?_) (fun _ => ?_) | refine resk_ite (fun _ => ?_) (fun _ => ?_) | apply resk_ok
    | apply resk_pure | apply resk_error | apply resk_throw | apply resk_throwBind | apply acc_lateHold
    | (refine resk_bind _ _ (fun _ _ => ?_)) | apply acc_outcome | apply acc_flawed | apply acc_addFault
    | apply acc_addFaultSt | apply acc_addHold | apply acc_put | apply acc_putAll | apply acc_load | apply acc_eff
    | apply acc_flag | refine keeps_ite (fun _ => ?_) (fun _ => ?_) | apply acc_outcome | split | dsimp only
    | apply acc_mk

theorem acc_loadFlaw {z : State} {a : Acc} (x : Ctx) (ds : List Nat) (f : Flaw) (h : AccKeeps z a) :
    AccKeeps z (loadFlaw x ds a f) := by
  cases f with
  | soft n t => exact acc_ite (fun _ => acc_load _ h) (fun _ => acc_addFault t h)
  | trap t => exact acc_flawed _ _ _ h
  | late t => exact acc_flawed _ _ _ h
  | poison w => exact acc_flawed _ _ _ h

theorem acc_bankLoad {z : State} (x : Ctx) (a : Acc) (ds as_ : List Nat) (_hx : Keeps z x.s) (hA : AccKeeps z a) :
    AccKeeps z (bankLoad x a ds as_) := by
  unfold bankLoad
  with_reducible repeat' first
    | assumption | exact Keeps.refl _ | intro _ | (apply acc_mk; assumption)
    | refine acc_ite (fun _ => ?_) (fun _ => ?_) | refine resk_ite (fun _ => ?_) (fun _ => ?_) | apply resk_ok
    | apply resk_pure | apply resk_error | apply resk_throw | apply resk_throwBind | apply acc_lateHold
    | (refine resk_bind _ _ (fun _ _ => ?_)) | apply acc_outcome | apply acc_flawed | apply acc_addFault
    | apply acc_addFaultSt | apply acc_addHold | apply acc_put | apply acc_putAll | apply acc_load | apply acc_eff
    | apply acc_flag | refine keeps_ite (fun _ => ?_) (fun _ => ?_) | apply acc_addFaultSt | apply acc_eff
    | apply acc_load | apply keeps_drainOver | apply keeps_eccRead | apply keeps_foldl | split | dsimp only
    | apply acc_mk

theorem keeps_hostStart {z t : State} {x : Ctx} {write : Bool} {as_ : List Nat} {ws : List (Nat × Word)}
    (e : hostStart x write as_ ws = .ok t) (h : Keeps z x.s) : Keeps z t := keeps_hostAsk e h

theorem acc_hostLoad {z : State} (x : Ctx) (a : Acc) (ds as_ : List Nat) (_hx : Keeps z x.s) (hA : AccKeeps z a) :
    AccKeeps z (hostLoad x a ds as_) := by
  unfold hostLoad
  with_reducible repeat' first
    | assumption | exact Keeps.refl _ | intro _ | (apply acc_mk; assumption)
    | refine acc_ite (fun _ => ?_) (fun _ => ?_) | refine resk_ite (fun _ => ?_) (fun _ => ?_) | apply resk_ok
    | apply resk_pure | apply resk_error | apply resk_throw | apply resk_throwBind | apply acc_lateHold
    | (refine resk_bind _ _ (fun _ _ => ?_)) | apply acc_outcome | apply acc_flawed | apply acc_addFault
    | apply acc_addFaultSt | apply acc_addHold | apply acc_put | apply acc_putAll | apply acc_load | apply acc_eff
    | apply acc_flag | apply acc_addFault | apply acc_addHold | apply acc_load
    | refine keeps_hostStart (by assumption) ?_ | split | dsimp only | apply acc_mk

theorem acc_semLoad {z : State} {x : Ctx} {a : Acc} (n : Nat) (_hx : Keeps z x.s) (hA : AccKeeps z a) :
    AccKeeps z (semLoad n x a) := by
  unfold semLoad
  with_reducible repeat' first
    | assumption | exact Keeps.refl _ | intro _ | (apply acc_mk; assumption)
    | refine acc_ite (fun _ => ?_) (fun _ => ?_) | refine resk_ite (fun _ => ?_) (fun _ => ?_) | apply resk_ok
    | apply resk_pure | apply resk_error | apply resk_throw | apply resk_throwBind | apply acc_lateHold
    | (refine resk_bind _ _ (fun _ _ => ?_)) | apply acc_outcome | apply acc_flawed | apply acc_addFault
    | apply acc_addFaultSt | apply acc_addHold | apply acc_put | apply acc_putAll | apply acc_load | apply acc_eff
    | apply acc_flag | refine keeps_ite (fun _ => ?_) (fun _ => ?_) | apply acc_bankLoad | apply acc_flawed
    | apply acc_hostLoad | apply acc_loadFlaw | split | dsimp only | apply acc_mk

theorem keeps_storeRoom {z : State} (n : Nat) : ∀ (c : Nat) (s : State) (_ : Keeps z s),
    Keeps z (storeRoom c n s) := by
  induction n with
  | zero =>
    intros
    unfold storeRoom
    with_reducible repeat' first
      | assumption | exact Keeps.refl _ | intro _ | refine keeps_ite (fun _ => ?_) (fun _ => ?_)
      | apply keeps_storeDrain | split | dsimp only
  | succ n ih =>
    intros
    unfold storeRoom
    with_reducible repeat' first
      | assumption | exact Keeps.refl _ | intro _ | apply ih | refine keeps_ite (fun _ => ?_) (fun _ => ?_)
      | apply keeps_storeDrain | split | dsimp only

theorem keeps_storePush {z : State} {s : State} (c : Nat) (ws : List (Nat × Word)) (hK : Keeps z s) :
    Keeps z (storePush s c ws) := by
  unfold storePush
  with_reducible repeat' first
    | assumption | exact Keeps.refl _ | intro _ | apply keeps_storeRoom | apply keeps_modCore
    | (apply legal_mk; assumption) | split | dsimp only | apply keeps_mk | apply legal_mk

theorem keeps_beforeHostStore {z : State} {s : State} (c : Nat) (rel : Bool) (hK : Keeps z s) :
    Keeps z (beforeHostStore s c rel) := by
  unfold beforeHostStore
  with_reducible repeat' first
    | assumption | exact Keeps.refl _ | intro _ | refine keeps_ite (fun _ => ?_) (fun _ => ?_)
    | apply keeps_storeDrain | apply keeps_storeDrainAll | split | dsimp only

theorem acc_hostStore {z : State} (x : Ctx) (a : Acc) (rel : Bool) (ws : List (Nat × Word)) (_hx : Keeps z x.s) (hA : AccKeeps z a) :
    AccKeeps z (hostStore x a rel ws) := by
  unfold hostStore
  with_reducible repeat' first
    | assumption | exact Keeps.refl _ | intro _ | (apply acc_mk; assumption)
    | refine acc_ite (fun _ => ?_) (fun _ => ?_) | refine resk_ite (fun _ => ?_) (fun _ => ?_) | apply resk_ok
    | apply resk_pure | apply resk_error | apply resk_throw | apply resk_throwBind | apply acc_lateHold
    | (refine resk_bind _ _ (fun _ _ => ?_)) | apply acc_outcome | apply acc_flawed | apply acc_addFault
    | apply acc_addFaultSt | apply acc_addHold | apply acc_put | apply acc_putAll | apply acc_load | apply acc_eff
    | apply acc_flag | apply acc_addFault | apply keeps_beforeHostStore | refine keeps_hostStart (by assumption) ?_
    | (apply legal_mk; assumption) | split | dsimp only | apply keeps_mk | apply legal_mk | apply acc_mk

theorem acc_semStore {z : State} {x : Ctx} {a : Acc} (n : Nat) (rel : Bool) (_hx : Keeps z x.s) (hA : AccKeeps z a) :
    AccKeeps z (semStore n rel x a) := by
  unfold semStore
  with_reducible repeat' first
    | assumption | exact Keeps.refl _ | intro _ | (apply acc_mk; assumption)
    | refine acc_ite (fun _ => ?_) (fun _ => ?_) | refine resk_ite (fun _ => ?_) (fun _ => ?_) | apply resk_ok
    | apply resk_pure | apply resk_error | apply resk_throw | apply resk_throwBind | apply acc_lateHold
    | (refine resk_bind _ _ (fun _ _ => ?_)) | apply acc_outcome | apply acc_flawed | apply acc_addFault
    | apply acc_addFaultSt | apply acc_addHold | apply acc_put | apply acc_putAll | apply acc_load | apply acc_eff
    | apply acc_flag | refine keeps_ite (fun _ => ?_) (fun _ => ?_) | apply acc_eff | apply acc_hostStore
    | apply acc_outcome | apply keeps_storeDrainAll | apply keeps_storePush | split | dsimp only | apply acc_mk

theorem acc_atomDo {z : State} (x : Ctx) (a : Acc) (b : Nat) (f : Word → Res (Option Word)) (_hx : Keeps z x.s) (hA : AccKeeps z a) :
    AccKeeps z (atomDo x a b f) := by
  unfold atomDo
  with_reducible repeat' first
    | assumption | exact Keeps.refl _ | intro _ | (apply acc_mk; assumption)
    | refine acc_ite (fun _ => ?_) (fun _ => ?_) | refine resk_ite (fun _ => ?_) (fun _ => ?_) | apply resk_ok
    | apply resk_pure | apply resk_error | apply resk_throw | apply resk_throwBind | apply acc_lateHold
    | (refine resk_bind _ _ (fun _ _ => ?_)) | apply acc_outcome | apply acc_flawed | apply acc_addFault
    | apply acc_addFaultSt | apply acc_addHold | apply acc_put | apply acc_putAll | apply acc_load | apply acc_eff
    | apply acc_flag | refine keeps_ite (fun _ => ?_) (fun _ => ?_) | apply acc_addFaultSt | apply acc_eff
    | apply acc_load | apply acc_loadFlaw | apply keeps_eccRead | apply keeps_storeDrainAll | apply keeps_memPut
    | split | dsimp only | apply acc_mk

theorem acc_semAtomic {z : State} {x : Ctx} {a : Acc} (ops data : Ctx → List Word) (f : Ctx → Nat → Word → Res (Option Word)) (_hx : Keeps z x.s) (hA : AccKeeps z a) :
    AccKeeps z (semAtomic ops data f x a) := by
  unfold semAtomic
  with_reducible repeat' first
    | assumption | exact Keeps.refl _ | intro _ | (apply acc_mk; assumption)
    | refine acc_ite (fun _ => ?_) (fun _ => ?_) | refine resk_ite (fun _ => ?_) (fun _ => ?_) | apply resk_ok
    | apply resk_pure | apply resk_error | apply resk_throw | apply resk_throwBind | apply acc_lateHold
    | (refine resk_bind _ _ (fun _ _ => ?_)) | apply acc_outcome | apply acc_flawed | apply acc_addFault
    | apply acc_addFaultSt | apply acc_addHold | apply acc_put | apply acc_putAll | apply acc_load | apply acc_eff
    | apply acc_flag | apply acc_atomDo | apply acc_loadFlaw | split | dsimp only | apply acc_mk

theorem acc_semSwap {z : State} {x : Ctx} {a : Acc}  (_hx : Keeps z x.s) (hA : AccKeeps z a) :
    AccKeeps z (semSwap  x a) := by
  unfold semSwap
  with_reducible repeat' first
    | assumption | exact Keeps.refl _ | intro _ | (apply acc_mk; assumption)
    | refine acc_ite (fun _ => ?_) (fun _ => ?_) | refine resk_ite (fun _ => ?_) (fun _ => ?_) | apply resk_ok
    | apply resk_pure | apply resk_error | apply resk_throw | apply resk_throwBind | apply acc_lateHold
    | (refine resk_bind _ _ (fun _ _ => ?_)) | apply acc_outcome | apply acc_flawed | apply acc_addFault
    | apply acc_addFaultSt | apply acc_addHold | apply acc_put | apply acc_putAll | apply acc_load | apply acc_eff
    | apply acc_flag | apply acc_semAtomic | split | dsimp only | apply acc_mk

theorem acc_semCas {z : State} {x : Ctx} {a : Acc}  (_hx : Keeps z x.s) (hA : AccKeeps z a) :
    AccKeeps z (semCas  x a) := by
  unfold semCas
  with_reducible repeat' first
    | assumption | exact Keeps.refl _ | intro _ | (apply acc_mk; assumption)
    | refine acc_ite (fun _ => ?_) (fun _ => ?_) | refine resk_ite (fun _ => ?_) (fun _ => ?_) | apply resk_ok
    | apply resk_pure | apply resk_error | apply resk_throw | apply resk_throwBind | apply acc_lateHold
    | (refine resk_bind _ _ (fun _ _ => ?_)) | apply acc_outcome | apply acc_flawed | apply acc_addFault
    | apply acc_addFaultSt | apply acc_addHold | apply acc_put | apply acc_putAll | apply acc_load | apply acc_eff
    | apply acc_flag | apply acc_semAtomic | split | dsimp only | apply acc_mk

theorem acc_semFadd {z : State} {x : Ctx} {a : Acc}  (_hx : Keeps z x.s) (hA : AccKeeps z a) :
    AccKeeps z (semFadd  x a) := by
  unfold semFadd
  with_reducible repeat' first
    | assumption | exact Keeps.refl _ | intro _ | (apply acc_mk; assumption)
    | refine acc_ite (fun _ => ?_) (fun _ => ?_) | refine resk_ite (fun _ => ?_) (fun _ => ?_) | apply resk_ok
    | apply resk_pure | apply resk_error | apply resk_throw | apply resk_throwBind | apply acc_lateHold
    | (refine resk_bind _ _ (fun _ _ => ?_)) | apply acc_outcome | apply acc_flawed | apply acc_addFault
    | apply acc_addFaultSt | apply acc_addHold | apply acc_put | apply acc_putAll | apply acc_load | apply acc_eff
    | apply acc_flag | apply acc_semAtomic | split | dsimp only | apply acc_mk

theorem acc_semFenceLl {z : State} {x : Ctx} {a : Acc}  (_hx : Keeps z x.s) (hA : AccKeeps z a) :
    AccKeeps z (semFenceLl  x a) := by
  unfold semFenceLl
  with_reducible repeat' first
    | assumption | exact Keeps.refl _ | intro _ | (apply acc_mk; assumption)
    | refine acc_ite (fun _ => ?_) (fun _ => ?_) | refine resk_ite (fun _ => ?_) (fun _ => ?_) | apply resk_ok
    | apply resk_pure | apply resk_error | apply resk_throw | apply resk_throwBind | apply acc_lateHold
    | (refine resk_bind _ _ (fun _ _ => ?_)) | apply acc_outcome | apply acc_flawed | apply acc_addFault
    | apply acc_addFaultSt | apply acc_addHold | apply acc_put | apply acc_putAll | apply acc_load | apply acc_eff
    | apply acc_flag | split | dsimp only | apply acc_mk

theorem acc_semFenceSs {z : State} {x : Ctx} {a : Acc}  (_hx : Keeps z x.s) (hA : AccKeeps z a) :
    AccKeeps z (semFenceSs  x a) := by
  unfold semFenceSs
  with_reducible repeat' first
    | assumption | exact Keeps.refl _ | intro _ | (apply acc_mk; assumption)
    | refine acc_ite (fun _ => ?_) (fun _ => ?_) | refine resk_ite (fun _ => ?_) (fun _ => ?_) | apply resk_ok
    | apply resk_pure | apply resk_error | apply resk_throw | apply resk_throwBind | apply acc_lateHold
    | (refine resk_bind _ _ (fun _ _ => ?_)) | apply acc_outcome | apply acc_flawed | apply acc_addFault
    | apply acc_addFaultSt | apply acc_addHold | apply acc_put | apply acc_putAll | apply acc_load | apply acc_eff
    | apply acc_flag | refine keeps_ite (fun _ => ?_) (fun _ => ?_) | apply acc_eff | apply keeps_modCore
    | (apply legal_mk; assumption) | split | dsimp only | apply keeps_mk | apply legal_mk | apply acc_mk

theorem acc_semFenceFull {z : State} {x : Ctx} {a : Acc}  (_hx : Keeps z x.s) (hA : AccKeeps z a) :
    AccKeeps z (semFenceFull  x a) := by
  unfold semFenceFull
  with_reducible repeat' first
    | assumption | exact Keeps.refl _ | intro _ | (apply acc_mk; assumption)
    | refine acc_ite (fun _ => ?_) (fun _ => ?_) | refine resk_ite (fun _ => ?_) (fun _ => ?_) | apply resk_ok
    | apply resk_pure | apply resk_error | apply resk_throw | apply resk_throwBind | apply acc_lateHold
    | (refine resk_bind _ _ (fun _ _ => ?_)) | apply acc_outcome | apply acc_flawed | apply acc_addFault
    | apply acc_addFaultSt | apply acc_addHold | apply acc_put | apply acc_putAll | apply acc_load | apply acc_eff
    | apply acc_flag | apply acc_eff | apply keeps_storeDrainAll | split | dsimp only | apply acc_mk

theorem acc_semFenceIo {z : State} {x : Ctx} {a : Acc}  (_hx : Keeps z x.s) (hA : AccKeeps z a) :
    AccKeeps z (semFenceIo  x a) := by
  unfold semFenceIo
  with_reducible repeat' first
    | assumption | exact Keeps.refl _ | intro _ | (apply acc_mk; assumption)
    | refine acc_ite (fun _ => ?_) (fun _ => ?_) | refine resk_ite (fun _ => ?_) (fun _ => ?_) | apply resk_ok
    | apply resk_pure | apply resk_error | apply resk_throw | apply resk_throwBind | apply acc_lateHold
    | (refine resk_bind _ _ (fun _ _ => ?_)) | apply acc_outcome | apply acc_flawed | apply acc_addFault
    | apply acc_addFaultSt | apply acc_addHold | apply acc_put | apply acc_putAll | apply acc_load | apply acc_eff
    | apply acc_flag | split | dsimp only | apply acc_mk

theorem keeps_movbMark {z : State} {s : State} (o : MovbOp) (moved : Nat) (hK : Keeps z s) :
    Keeps z (movbMark o moved s) := by
  unfold movbMark
  with_reducible repeat' first
    | assumption | exact Keeps.refl _ | intro _ | apply keeps_modCore | (apply legal_mk; assumption) | split
    | dsimp only | apply keeps_mk | apply legal_mk

theorem keeps_movbRead {z : State} {s t : State} {w_ : Word} {o : MovbOp} {x : Nat} (e : movbRead o s x = .ok (w_, t)) (hK : Keeps z s) :
    Keeps z t := by
  unfold movbRead at e
  revert e
  with_reducible repeat' first
    | assumption | exact Keeps.refl _ | (intro e; cases e; done)
    | (intro e; injection e with e; injection e with _ e; subst e) | (intro e; injection e with e; subst e)
    | refine keeps_ite (fun _ => ?_) (fun _ => ?_) | apply keeps_eccRead | split | dsimp only | intro _

theorem keeps_movbHost {z s t : State} {o : MovbOp} {write : Bool} {a : Nat} {ws : List (Nat × Word)}
    (e : movbHost o s write a ws = .ok t) (h : Keeps z s) : Keeps z t := keeps_hostAsk e h

theorem except_map_ok {α β : Type} {r : Except Trp α} {f : α → β} {b : β} (e : r.map f = .ok b) :
    ∃ a, r = .ok a ∧ f a = b := by
  cases r with
  | error x => cases e
  | ok a => injection e with e; exact ⟨a, rfl, e⟩

theorem keeps_movbPut {z s t : State} {o : MovbOp} {b : Bool} {y : Nat} {w : Word}
    (e : movbPut o s y w = .ok (b, t)) (h : Keeps z s) : Keeps z t := by
  unfold movbPut at e
  split at e
  · split at e
    · cases e
    · obtain ⟨u, hu, hv⟩ := except_map_ok e
      injection hv with _ hv
      subst hv
      exact keeps_movbHost hu h
  · split at e
    · cases e
    · injection e with e
      injection e with _ e
      subst e
      exact keeps_memPut _ _ h

theorem keeps_movbStep {z s t : State} {o : MovbOp} {b : Bool} {moved : Nat}
    (e : movbStep o s moved = .ok (b, t)) (h : Keeps z s) : Keeps z t := by
  unfold movbStep at e
  dsimp only at e
  split at e
  · split at e
    · injection e with e
      injection e with _ e
      exact e ▸ h
    · split at e
      · injection e with e
        injection e with _ e
        exact e ▸ h
      · exact keeps_movbPut e h
  · split at e
    · obtain ⟨u, hu, hv⟩ := except_map_ok e
      injection hv with _ hv
      subst hv
      exact keeps_movbHost hu h
    · split at e
      · cases e
      · next hr => exact keeps_movbPut e (keeps_movbRead hr h)

theorem keeps_movbRun {z : State} (o : MovbOp) (n : Nat) : ∀ (moved : Nat) {s : State} (_ : Keeps z s),
    Keeps z (movbRun o n moved s).1 := by
  induction n with
  | zero => intros; unfold movbRun; assumption
  | succ n ih =>
    intro moved s h
    unfold movbRun
    split
    · exact h
    · exact keeps_movbStep ‹_› h
    · exact ih _ (keeps_movbMark _ _ (keeps_movbStep ‹_› h))

theorem keeps_movbGo {z s : State} (o : MovbOp) (h : Keeps z s) : Keeps z (movbGo o s).1 := by
  unfold movbGo
  dsimp only
  split
  · exact keeps_movbRun _ _ _ (keeps_storeDrainAll _ h)
  · exact keeps_movbRun _ _ _ (keeps_movbMark _ _ (keeps_storeDrainAll _ h))

theorem keeps_movbGo_eq {z s t : State} {o : MovbOp} {r : MovbEnd} (e : movbGo o s = (t, r)) (h : Keeps z s) : Keeps z t := by
  have := keeps_movbGo o h
  rw [e] at this
  exact this

theorem acc_semMovb {z : State} {x : Ctx} {a : Acc}  (_hx : Keeps z x.s) (hA : AccKeeps z a) :
    AccKeeps z (semMovb  x a) := by
  unfold semMovb
  with_reducible repeat' first
    | assumption | exact Keeps.refl _ | intro _ | (apply acc_mk; assumption)
    | refine acc_ite (fun _ => ?_) (fun _ => ?_) | refine resk_ite (fun _ => ?_) (fun _ => ?_) | apply resk_ok
    | apply resk_pure | apply resk_error | apply resk_throw | apply resk_throwBind | apply acc_lateHold
    | (refine resk_bind _ _ (fun _ _ => ?_)) | apply acc_outcome | apply acc_flawed | apply acc_addFault
    | apply acc_addFaultSt | apply acc_addHold | apply acc_put | apply acc_putAll | apply acc_load | apply acc_eff
    | apply acc_flag | apply acc_addFaultSt | apply acc_eff | apply acc_outcome | apply keeps_movbGo
    | refine keeps_movbGo_eq (by assumption) ?_ | (apply legal_mk; assumption) | split | dsimp only | apply keeps_mk
    | apply legal_mk | apply acc_mk

theorem acc_semPin {z : State} {x : Ctx} {a : Acc}  (_hx : Keeps z x.s) (hA : AccKeeps z a) :
    AccKeeps z (semPin  x a) := by
  unfold semPin
  with_reducible repeat' first
    | assumption | exact Keeps.refl _ | intro _ | (apply acc_mk; assumption)
    | refine acc_ite (fun _ => ?_) (fun _ => ?_) | refine resk_ite (fun _ => ?_) (fun _ => ?_) | apply resk_ok
    | apply resk_pure | apply resk_error | apply resk_throw | apply resk_throwBind | apply acc_lateHold
    | (refine resk_bind _ _ (fun _ _ => ?_)) | apply acc_outcome | apply acc_flawed | apply acc_addFault
    | apply acc_addFaultSt | apply acc_addHold | apply acc_put | apply acc_putAll | apply acc_load | apply acc_eff
    | apply acc_flag | refine keeps_ite (fun _ => ?_) (fun _ => ?_) | apply acc_eff | apply acc_outcome
    | apply acc_put | apply keeps_modCore | (apply legal_mk; assumption) | split | dsimp only | apply keeps_mk
    | apply legal_mk | apply acc_mk

theorem acc_semUnpin {z : State} {x : Ctx} {a : Acc}  (_hx : Keeps z x.s) (hA : AccKeeps z a) :
    AccKeeps z (semUnpin  x a) := by
  unfold semUnpin
  with_reducible repeat' first
    | assumption | exact Keeps.refl _ | intro _ | (apply acc_mk; assumption)
    | refine acc_ite (fun _ => ?_) (fun _ => ?_) | refine resk_ite (fun _ => ?_) (fun _ => ?_) | apply resk_ok
    | apply resk_pure | apply resk_error | apply resk_throw | apply resk_throwBind | apply acc_lateHold
    | (refine resk_bind _ _ (fun _ _ => ?_)) | apply acc_outcome | apply acc_flawed | apply acc_addFault
    | apply acc_addFaultSt | apply acc_addHold | apply acc_put | apply acc_putAll | apply acc_load | apply acc_eff
    | apply acc_flag | apply acc_eff | apply acc_outcome | apply acc_put | apply keeps_modCore
    | (apply legal_mk; assumption) | split | dsimp only | apply keeps_mk | apply legal_mk | apply acc_mk

theorem acc_semLease {z : State} {x : Ctx} {a : Acc}  (_hx : Keeps z x.s) (hA : AccKeeps z a) :
    AccKeeps z (semLease  x a) := by
  unfold semLease
  with_reducible repeat' first
    | assumption | exact Keeps.refl _ | intro _ | (apply acc_mk; assumption)
    | refine acc_ite (fun _ => ?_) (fun _ => ?_) | refine resk_ite (fun _ => ?_) (fun _ => ?_) | apply resk_ok
    | apply resk_pure | apply resk_error | apply resk_throw | apply resk_throwBind | apply acc_lateHold
    | (refine resk_bind _ _ (fun _ _ => ?_)) | apply acc_outcome | apply acc_flawed | apply acc_addFault
    | apply acc_addFaultSt | apply acc_addHold | apply acc_put | apply acc_putAll | apply acc_load | apply acc_eff
    | apply acc_flag | refine keeps_ite (fun _ => ?_) (fun _ => ?_) | apply acc_eff | apply acc_outcome
    | apply acc_put | apply keeps_renewDo | split | dsimp only | apply acc_mk

theorem keeps_spliceStart {z : State} {s : State} (a b : Nat) (req : Option Nat) (hK : Keeps z s) :
    Keeps z (spliceStart s a b req) := by
  unfold spliceStart
  with_reducible repeat' first
    | assumption | exact Keeps.refl _ | intro _ | apply keeps_clusterWake | apply keeps_setCause | apply keeps_ioPut
    | (apply legal_mk; assumption) | split | dsimp only | apply keeps_mk | apply legal_mk

theorem keeps_sessPut {z : State} {s : State} (i : Nat) (e : Session) (hK : Keeps z s) :
    Keeps z (sessPut s i e) := by
  unfold sessPut
  with_reducible repeat' first
    | assumption | exact Keeps.refl _ | intro _ | (apply legal_mk; assumption) | split | dsimp only | apply keeps_mk
    | apply legal_mk

theorem keeps_sessTouch {z : State} {s : State} (i : Nat) (hK : Keeps z s) :
    Keeps z (sessTouch s i) := by
  unfold sessTouch
  with_reducible repeat' first
    | assumption | exact Keeps.refl _ | intro _ | apply keeps_sessPut | (apply legal_mk; assumption) | split
    | dsimp only | apply keeps_mk | apply legal_mk

theorem keeps_ctxSave {z : State} {s : State} (c : Nat) (hK : Keeps z s) :
    Keeps z (ctxSave s c) := by
  unfold ctxSave
  with_reducible repeat' first
    | assumption | exact Keeps.refl _ | intro _ | refine keeps_ite (fun _ => ?_) (fun _ => ?_)
    | apply keeps_memPutAll | apply keeps_memPut | split | dsimp only

theorem legal_foldPut {α : Type} (l : List α) (c : Core → Nat) (f : α → Nat) (g : α → Word) {k : Core} (h : coreLegal k) :
    coreLegal (l.foldl (fun k e => regPut k (c k) (f e) (g e)) k) := by
  induction l generalizing k with
  | nil => exact h
  | cons e l ih => exact ih (legal_regPut _ _ _ h)

theorem keeps_ctxswDo {z : State} {s : State} (c : Nat) (h : Word) (hK : Keeps z s) : Keeps z (ctxswDo s c h) := by
  unfold ctxswDo
  dsimp only
  refine keeps_modCore _ _ ?_ fun hk => legal_mk (legal_foldPut _ _ _ _ hk)
  exact keeps_ite (fun _ => keeps_ctxSave _ hK) (fun _ => keeps_sessTouch _ (keeps_ctxSave _ hK))

theorem acc_portWait {z : State} (x : Ctx) (a : Acc) (w : Wait) (_hx : Keeps z x.s) (hA : AccKeeps z a) :
    AccKeeps z (portWait x a w) := by
  unfold portWait
  with_reducible repeat' first
    | assumption | exact Keeps.refl _ | intro _ | (apply acc_mk; assumption)
    | refine acc_ite (fun _ => ?_) (fun _ => ?_) | refine resk_ite (fun _ => ?_) (fun _ => ?_) | apply resk_ok
    | apply resk_pure | apply resk_error | apply resk_throw | apply resk_throwBind | apply acc_lateHold
    | (refine resk_bind _ _ (fun _ _ => ?_)) | apply acc_outcome | apply acc_flawed | apply acc_addFault
    | apply acc_addFaultSt | apply acc_addHold | apply acc_put | apply acc_putAll | apply acc_load | apply acc_eff
    | apply acc_flag | refine keeps_ite (fun _ => ?_) (fun _ => ?_) | apply acc_addFault
    | (apply legal_mk; assumption) | split | dsimp only | apply keeps_mk | apply legal_mk | apply acc_mk

theorem acc_semIn {z : State} {x : Ctx} {a : Acc}  (_hx : Keeps z x.s) (hA : AccKeeps z a) :
    AccKeeps z (semIn  x a) := by
  unfold semIn
  with_reducible repeat' first
    | assumption | exact Keeps.refl _ | intro _ | (apply acc_mk; assumption)
    | refine acc_ite (fun _ => ?_) (fun _ => ?_) | refine resk_ite (fun _ => ?_) (fun _ => ?_) | apply resk_ok
    | apply resk_pure | apply resk_error | apply resk_throw | apply resk_throwBind | apply acc_lateHold
    | (refine resk_bind _ _ (fun _ _ => ?_)) | apply acc_outcome | apply acc_flawed | apply acc_addFault
    | apply acc_addFaultSt | apply acc_addHold | apply acc_put | apply acc_putAll | apply acc_load | apply acc_eff
    | apply acc_flag | apply acc_eff | apply acc_outcome | apply acc_put | refine keeps_ioRead (by assumption) ?_
    | apply keeps_ioReadEff | split | dsimp only | apply acc_mk

theorem keeps_outDone {z : State} {s : State} (x : Ctx) (i : Nat) (w : Word) (hK : Keeps z s) :
    Keeps z (outDone x i w s) := by
  unfold outDone
  with_reducible repeat' first
    | assumption | exact Keeps.refl _ | intro _ | refine keeps_ioWrite (by assumption) ?_ | split | dsimp only

theorem acc_semOut {z : State} {x : Ctx} {a : Acc}  (_hx : Keeps z x.s) (hA : AccKeeps z a) :
    AccKeeps z (semOut  x a) := by
  unfold semOut
  with_reducible repeat' first
    | assumption | exact Keeps.refl _ | intro _ | (apply acc_mk; assumption)
    | refine acc_ite (fun _ => ?_) (fun _ => ?_) | refine resk_ite (fun _ => ?_) (fun _ => ?_) | apply resk_ok
    | apply resk_pure | apply resk_error | apply resk_throw | apply resk_throwBind | apply acc_lateHold
    | (refine resk_bind _ _ (fun _ _ => ?_)) | apply acc_outcome | apply acc_flawed | apply acc_addFault
    | apply acc_addFaultSt | apply acc_addHold | apply acc_put | apply acc_putAll | apply acc_load | apply acc_eff
    | apply acc_flag | refine keeps_ite (fun _ => ?_) (fun _ => ?_) | apply acc_eff | apply acc_outcome
    | apply acc_portWait | refine keeps_ioWrite (by assumption) ?_ | apply keeps_outDone | split | dsimp only
    | apply acc_mk

theorem acc_semFsend {z : State} {x : Ctx} {a : Acc}  (_hx : Keeps z x.s) (hA : AccKeeps z a) :
    AccKeeps z (semFsend  x a) := by
  unfold semFsend
  with_reducible repeat' first
    | assumption | exact Keeps.refl _ | intro _ | (apply acc_mk; assumption)
    | refine acc_ite (fun _ => ?_) (fun _ => ?_) | refine resk_ite (fun _ => ?_) (fun _ => ?_) | apply resk_ok
    | apply resk_pure | apply resk_error | apply resk_throw | apply resk_throwBind | apply acc_lateHold
    | (refine resk_bind _ _ (fun _ _ => ?_)) | apply acc_outcome | apply acc_flawed | apply acc_addFault
    | apply acc_addFaultSt | apply acc_addHold | apply acc_put | apply acc_putAll | apply acc_load | apply acc_eff
    | apply acc_flag | refine keeps_ite (fun _ => ?_) (fun _ => ?_) | apply acc_eff | apply acc_outcome
    | apply acc_portWait | apply acc_put | apply keeps_coreSend | split | dsimp only | apply acc_mk

theorem acc_semFrecv {z : State} {x : Ctx} {a : Acc}  (_hx : Keeps z x.s) (hA : AccKeeps z a) :
    AccKeeps z (semFrecv  x a) := by
  unfold semFrecv
  with_reducible repeat' first
    | assumption | exact Keeps.refl _ | intro _ | (apply acc_mk; assumption)
    | refine acc_ite (fun _ => ?_) (fun _ => ?_) | refine resk_ite (fun _ => ?_) (fun _ => ?_) | apply resk_ok
    | apply resk_pure | apply resk_error | apply resk_throw | apply resk_throwBind | apply acc_lateHold
    | (refine resk_bind _ _ (fun _ _ => ?_)) | apply acc_outcome | apply acc_flawed | apply acc_addFault
    | apply acc_addFaultSt | apply acc_addHold | apply acc_put | apply acc_putAll | apply acc_load | apply acc_eff
    | apply acc_flag | refine keeps_ite (fun _ => ?_) (fun _ => ?_) | apply acc_eff | apply acc_outcome
    | apply keeps_coreTake | (apply legal_mk; assumption) | split | dsimp only | apply keeps_mk | apply legal_mk
    | apply acc_mk

theorem acc_semCiph {z : State} {x : Ctx} {a : Acc}  (_hx : Keeps z x.s) (hA : AccKeeps z a) :
    AccKeeps z (semCiph  x a) := by
  unfold semCiph
  with_reducible repeat' first
    | assumption | exact Keeps.refl _ | intro _ | (apply acc_mk; assumption)
    | refine acc_ite (fun _ => ?_) (fun _ => ?_) | refine resk_ite (fun _ => ?_) (fun _ => ?_) | apply resk_ok
    | apply resk_pure | apply resk_error | apply resk_throw | apply resk_throwBind | apply acc_lateHold
    | (refine resk_bind _ _ (fun _ _ => ?_)) | apply acc_outcome | apply acc_flawed | apply acc_addFault
    | apply acc_addFaultSt | apply acc_addHold | apply acc_put | apply acc_putAll | apply acc_load | apply acc_eff
    | apply acc_flag | refine keeps_ite (fun _ => ?_) (fun _ => ?_) | apply acc_eff | apply acc_outcome
    | apply acc_portWait | apply keeps_ciphStart | apply keeps_drainOver | split | dsimp only | apply acc_mk

theorem acc_semCwait {z : State} {x : Ctx} {a : Acc}  (_hx : Keeps z x.s) (hA : AccKeeps z a) :
    AccKeeps z (semCwait  x a) := by
  unfold semCwait
  with_reducible repeat' first
    | assumption | exact Keeps.refl _ | intro _ | (apply acc_mk; assumption)
    | refine acc_ite (fun _ => ?_) (fun _ => ?_) | refine resk_ite (fun _ => ?_) (fun _ => ?_) | apply resk_ok
    | apply resk_pure | apply resk_error | apply resk_throw | apply resk_throwBind | apply acc_lateHold
    | (refine resk_bind _ _ (fun _ _ => ?_)) | apply acc_outcome | apply acc_flawed | apply acc_addFault
    | apply acc_addFaultSt | apply acc_addHold | apply acc_put | apply acc_putAll | apply acc_load | apply acc_eff
    | apply acc_flag | refine keeps_ite (fun _ => ?_) (fun _ => ?_) | apply acc_outcome | apply acc_put
    | (apply legal_mk; assumption) | split | dsimp only | apply keeps_mk | apply legal_mk | apply acc_mk

theorem keeps_portReads {z : State} {s : State} (c : Nat) (as_ : List Nat) (hK : Keeps z s) :
    Keeps z (portReads c as_ s) := by
  unfold portReads
  with_reducible repeat' first
    | assumption | exact Keeps.refl _ | intro _ | apply keeps_drainOver | apply keeps_eccRead | apply keeps_foldl
    | split | dsimp only

theorem acc_semLedg {z : State} {x : Ctx} {a : Acc}  (_hx : Keeps z x.s) (hA : AccKeeps z a) :
    AccKeeps z (semLedg  x a) := by
  unfold semLedg
  with_reducible repeat' first
    | assumption | exact Keeps.refl _ | intro _ | (apply acc_mk; assumption)
    | refine acc_ite (fun _ => ?_) (fun _ => ?_) | refine resk_ite (fun _ => ?_) (fun _ => ?_) | apply resk_ok
    | apply resk_pure | apply resk_error | apply resk_throw | apply resk_throwBind | apply acc_lateHold
    | (refine resk_bind _ _ (fun _ _ => ?_)) | apply acc_outcome | apply acc_flawed | apply acc_addFault
    | apply acc_addFaultSt | apply acc_addHold | apply acc_put | apply acc_putAll | apply acc_load | apply acc_eff
    | apply acc_flag | refine keeps_ite (fun _ => ?_) (fun _ => ?_) | apply acc_eff | apply acc_outcome
    | apply acc_put | apply keeps_ledgCore | refine keeps_ledgCore_eq (by assumption) ?_ | apply keeps_portReads
    | split | dsimp only | apply acc_mk

theorem acc_semClaim {z : State} {x : Ctx} {a : Acc}  (_hx : Keeps z x.s) (hA : AccKeeps z a) :
    AccKeeps z (semClaim  x a) := by
  unfold semClaim
  with_reducible repeat' first
    | assumption | exact Keeps.refl _ | intro _ | (apply acc_mk; assumption)
    | refine acc_ite (fun _ => ?_) (fun _ => ?_) | refine resk_ite (fun _ => ?_) (fun _ => ?_) | apply resk_ok
    | apply resk_pure | apply resk_error | apply resk_throw | apply resk_throwBind | apply acc_lateHold
    | (refine resk_bind _ _ (fun _ _ => ?_)) | apply acc_outcome | apply acc_flawed | apply acc_addFault
    | apply acc_addFaultSt | apply acc_addHold | apply acc_put | apply acc_putAll | apply acc_load | apply acc_eff
    | apply acc_flag | apply acc_eff | apply acc_put | apply keeps_claimDo | split | dsimp only | apply acc_mk

theorem acc_semCmpl {z : State} {x : Ctx} {a : Acc}  (_hx : Keeps z x.s) (hA : AccKeeps z a) :
    AccKeeps z (semCmpl  x a) := by
  unfold semCmpl
  with_reducible repeat' first
    | assumption | exact Keeps.refl _ | intro _ | (apply acc_mk; assumption)
    | refine acc_ite (fun _ => ?_) (fun _ => ?_) | refine resk_ite (fun _ => ?_) (fun _ => ?_) | apply resk_ok
    | apply resk_pure | apply resk_error | apply resk_throw | apply resk_throwBind | apply acc_lateHold
    | (refine resk_bind _ _ (fun _ _ => ?_)) | apply acc_outcome | apply acc_flawed | apply acc_addFault
    | apply acc_addFaultSt | apply acc_addHold | apply acc_put | apply acc_putAll | apply acc_load | apply acc_eff
    | apply acc_flag | apply acc_eff | apply acc_outcome | apply keeps_completeDo | split | dsimp only | apply acc_mk

theorem keeps_postDo {z : State} {s : State} (r : Nat) (h w0 w2 w3 : Word) (hK : Keeps z s) :
    Keeps z (postDo s r h w0 w2 w3).2 := by
  unfold postDo
  with_reducible repeat' first
    | assumption | exact Keeps.refl _ | intro _ | refine keeps_ite (fun _ => ?_) (fun _ => ?_)
    | refine keeps_compOut (by assumption) ?_ | apply keeps_compRelease | apply keeps_entryPut | apply keeps_lateInc
    | (apply legal_mk; assumption) | split | dsimp only | apply keeps_mk | apply legal_mk
theorem keeps_postDo_eq {z : State} {s t : State} {r : Nat} {h w0 w2 w3 : Word} {b : Bool} (e : postDo s r h w0 w2 w3 = (b, t)) (hK : Keeps z s) :
    Keeps z t := by
  have := keeps_postDo (z := z) r h w0 w2 w3 hK
  rw [e] at this; exact this

theorem acc_semPost {z : State} {x : Ctx} {a : Acc}  (_hx : Keeps z x.s) (hA : AccKeeps z a) :
    AccKeeps z (semPost  x a) := by
  unfold semPost
  with_reducible repeat' first
    | assumption | exact Keeps.refl _ | intro _ | (apply acc_mk; assumption)
    | refine acc_ite (fun _ => ?_) (fun _ => ?_) | refine resk_ite (fun _ => ?_) (fun _ => ?_) | apply resk_ok
    | apply resk_pure | apply resk_error | apply resk_throw | apply resk_throwBind | apply acc_lateHold
    | (refine resk_bind _ _ (fun _ _ => ?_)) | apply acc_outcome | apply acc_flawed | apply acc_addFault
    | apply acc_addFaultSt | apply acc_addHold | apply acc_put | apply acc_putAll | apply acc_load | apply acc_eff
    | apply acc_flag | apply acc_Acc_go | apply acc_eff | apply acc_outcome | apply acc_put | apply keeps_portReads
    | apply keeps_postDo | refine keeps_postDo_eq (by assumption) ?_ | split | dsimp only | apply acc_mk

theorem acc_semMfc {z : State} {x : Ctx} {a : Acc}  (_hx : Keeps z x.s) (hA : AccKeeps z a) :
    AccKeeps z (semMfc  x a) := by
  unfold semMfc
  with_reducible repeat' first
    | assumption | exact Keeps.refl _ | intro _ | (apply acc_mk; assumption)
    | refine acc_ite (fun _ => ?_) (fun _ => ?_) | refine resk_ite (fun _ => ?_) (fun _ => ?_) | apply resk_ok
    | apply resk_pure | apply resk_error | apply resk_throw | apply resk_throwBind | apply acc_lateHold
    | (refine resk_bind _ _ (fun _ _ => ?_)) | apply acc_outcome | apply acc_flawed | apply acc_addFault
    | apply acc_addFaultSt | apply acc_addHold | apply acc_put | apply acc_putAll | apply acc_load | apply acc_eff
    | apply acc_flag | refine keeps_ite (fun _ => ?_) (fun _ => ?_) | apply acc_outcome | apply acc_put | split
    | dsimp only | apply acc_mk

theorem legal_crCore (n : Nat) (w : Word) {k : Core} (hp : n = 2 → pay w ≤ 3) (h : coreLegal k) :
    coreLegal (crCore n w k) := by
  unfold crCore
  dsimp only
  split
  case h_2 =>
    split
    · exact ⟨Nat.lt_succ_of_le (hp rfl), h.2⟩
    · exact h
  case h_3 => exact ⟨h.1, bits_lt _ 0 4⟩
  all_goals first | exact legal_mk h | exact legal_tspPut _ _ h | exact h

theorem keeps_crWrite {z : State} {s : State} (c n : Nat) (w : Word) (hp : n = 2 → pay w ≤ 3) (hK : Keeps z s) :
    Keeps z (crWrite s c n w) := by
  unfold crWrite
  exact keeps_ite (fun _ => keeps_hubEval _ (keeps_ioPut _ _ hK)) (fun _ => keeps_modCore _ _ hK fun hk => legal_crCore _ _ hp hk)

theorem crValueBad_ring {n p : Nat} (h : ¬ crValueBad n p = true) : n = 2 → p ≤ 3 := by
  intro e
  subst e
  simp [crValueBad] at h
  exact h

theorem acc_semMtc {z : State} {x : Ctx} {a : Acc}  (_hx : Keeps z x.s) (hA : AccKeeps z a) :
    AccKeeps z (semMtc  x a) := by
  unfold semMtc
  with_reducible repeat' first
    | assumption | exact Keeps.refl _ | intro _ | (apply acc_mk; assumption)
    | refine acc_ite (fun _ => ?_) (fun _ => ?_) | refine resk_ite (fun _ => ?_) (fun _ => ?_) | apply resk_ok
    | apply resk_pure | apply resk_error | apply resk_throw | apply resk_throwBind | apply acc_lateHold
    | (refine resk_bind _ _ (fun _ _ => ?_)) | apply acc_outcome | apply acc_flawed | apply acc_addFault
    | apply acc_addFaultSt | apply acc_addHold | apply acc_put | apply acc_putAll | apply acc_load | apply acc_eff
    | apply acc_flag | refine keeps_ite (fun _ => ?_) (fun _ => ?_) | apply acc_later | apply acc_outcome
    | apply crValueBad_ring | apply keeps_crWrite | split | dsimp only | apply acc_mk

theorem acc_semCsld {z : State} {x : Ctx} {a : Acc}  (_hx : Keeps z x.s) (hA : AccKeeps z a) :
    AccKeeps z (semCsld  x a) := by
  unfold semCsld
  with_reducible repeat' first
    | assumption | exact Keeps.refl _ | intro _ | (apply acc_mk; assumption)
    | refine acc_ite (fun _ => ?_) (fun _ => ?_) | refine resk_ite (fun _ => ?_) (fun _ => ?_) | apply resk_ok
    | apply resk_pure | apply resk_error | apply resk_throw | apply resk_throwBind | apply acc_lateHold
    | (refine resk_bind _ _ (fun _ _ => ?_)) | apply acc_outcome | apply acc_flawed | apply acc_addFault
    | apply acc_addFaultSt | apply acc_addHold | apply acc_put | apply acc_putAll | apply acc_load | apply acc_eff
    | apply acc_flag | refine keeps_ite (fun _ => ?_) (fun _ => ?_) | apply acc_outcome | apply acc_put | split
    | dsimp only | apply acc_mk

theorem acc_semCsst {z : State} {x : Ctx} {a : Acc}  (_hx : Keeps z x.s) (hA : AccKeeps z a) :
    AccKeeps z (semCsst  x a) := by
  unfold semCsst
  with_reducible repeat' first
    | assumption | exact Keeps.refl _ | intro _ | (apply acc_mk; assumption)
    | refine acc_ite (fun _ => ?_) (fun _ => ?_) | refine resk_ite (fun _ => ?_) (fun _ => ?_) | apply resk_ok
    | apply resk_pure | apply resk_error | apply resk_throw | apply resk_throwBind | apply acc_lateHold
    | (refine resk_bind _ _ (fun _ _ => ?_)) | apply acc_outcome | apply acc_flawed | apply acc_addFault
    | apply acc_addFaultSt | apply acc_addHold | apply acc_put | apply acc_putAll | apply acc_load | apply acc_eff
    | apply acc_flag | refine keeps_ite (fun _ => ?_) (fun _ => ?_) | apply acc_later | apply acc_outcome
    | apply keeps_csPut | split | dsimp only | apply acc_mk

theorem acc_semCssync {z : State} {x : Ctx} {a : Acc}  (_hx : Keeps z x.s) (hA : AccKeeps z a) :
    AccKeeps z (semCssync  x a) := by
  unfold semCssync
  with_reducible repeat' first
    | assumption | exact Keeps.refl _ | intro _ | (apply acc_mk; assumption)
    | refine acc_ite (fun _ => ?_) (fun _ => ?_) | refine resk_ite (fun _ => ?_) (fun _ => ?_) | apply resk_ok
    | apply resk_pure | apply resk_error | apply resk_throw | apply resk_throwBind | apply acc_lateHold
    | (refine resk_bind _ _ (fun _ _ => ?_)) | apply acc_outcome | apply acc_flawed | apply acc_addFault
    | apply acc_addFaultSt | apply acc_addHold | apply acc_put | apply acc_putAll | apply acc_load | apply acc_eff
    | apply acc_flag | apply acc_outcome | split | dsimp only | apply acc_mk

theorem acc_semPflush {z : State} {x : Ctx} {a : Acc}  (_hx : Keeps z x.s) (hA : AccKeeps z a) :
    AccKeeps z (semPflush  x a) := by
  unfold semPflush
  with_reducible repeat' first
    | assumption | exact Keeps.refl _ | intro _ | (apply acc_mk; assumption)
    | refine acc_ite (fun _ => ?_) (fun _ => ?_) | refine resk_ite (fun _ => ?_) (fun _ => ?_) | apply resk_ok
    | apply resk_pure | apply resk_error | apply resk_throw | apply resk_throwBind | apply acc_lateHold
    | (refine resk_bind _ _ (fun _ _ => ?_)) | apply acc_outcome | apply acc_flawed | apply acc_addFault
    | apply acc_addFaultSt | apply acc_addHold | apply acc_put | apply acc_putAll | apply acc_load | apply acc_eff
    | apply acc_flag | apply acc_later | apply acc_outcome | apply keeps_modCore | (apply legal_mk; assumption)
    | split | dsimp only | apply keeps_mk | apply legal_mk | apply acc_mk

theorem acc_semPbar {z : State} {x : Ctx} {a : Acc}  (_hx : Keeps z x.s) (hA : AccKeeps z a) :
    AccKeeps z (semPbar  x a) := by
  unfold semPbar
  with_reducible repeat' first
    | assumption | exact Keeps.refl _ | intro _ | (apply acc_mk; assumption)
    | refine acc_ite (fun _ => ?_) (fun _ => ?_) | refine resk_ite (fun _ => ?_) (fun _ => ?_) | apply resk_ok
    | apply resk_pure | apply resk_error | apply resk_throw | apply resk_throwBind | apply acc_lateHold
    | (refine resk_bind _ _ (fun _ _ => ?_)) | apply acc_outcome | apply acc_flawed | apply acc_addFault
    | apply acc_addFaultSt | apply acc_addHold | apply acc_put | apply acc_putAll | apply acc_load | apply acc_eff
    | apply acc_flag | refine keeps_ite (fun _ => ?_) (fun _ => ?_) | apply acc_later | apply keeps_modCore
    | (apply legal_mk; assumption) | split | dsimp only | apply keeps_mk | apply legal_mk | apply acc_mk

theorem acc_semPbarClear {z : State} {x : Ctx} {a : Acc}  (_hx : Keeps z x.s) (hA : AccKeeps z a) :
    AccKeeps z (semPbarClear  x a) := by
  unfold semPbarClear
  with_reducible repeat' first
    | assumption | exact Keeps.refl _ | intro _ | (apply acc_mk; assumption)
    | refine acc_ite (fun _ => ?_) (fun _ => ?_) | refine resk_ite (fun _ => ?_) (fun _ => ?_) | apply resk_ok
    | apply resk_pure | apply resk_error | apply resk_throw | apply resk_throwBind | apply acc_lateHold
    | (refine resk_bind _ _ (fun _ _ => ?_)) | apply acc_outcome | apply acc_flawed | apply acc_addFault
    | apply acc_addFaultSt | apply acc_addHold | apply acc_put | apply acc_putAll | apply acc_load | apply acc_eff
    | apply acc_flag | apply acc_later | apply keeps_modCore | (apply legal_mk; assumption) | split | dsimp only
    | apply keeps_mk | apply legal_mk | apply acc_mk

theorem acc_semCtxsw {z : State} {x : Ctx} {a : Acc}  (_hx : Keeps z x.s) (hA : AccKeeps z a) :
    AccKeeps z (semCtxsw  x a) := by
  unfold semCtxsw
  with_reducible repeat' first
    | assumption | exact Keeps.refl _ | intro _ | (apply acc_mk; assumption)
    | refine acc_ite (fun _ => ?_) (fun _ => ?_) | refine resk_ite (fun _ => ?_) (fun _ => ?_) | apply resk_ok
    | apply resk_pure | apply resk_error | apply resk_throw | apply resk_throwBind | apply acc_lateHold
    | (refine resk_bind _ _ (fun _ _ => ?_)) | apply acc_outcome | apply acc_flawed | apply acc_addFault
    | apply acc_addFaultSt | apply acc_addHold | apply acc_put | apply acc_putAll | apply acc_load | apply acc_eff
    | apply acc_flag | refine keeps_ite (fun _ => ?_) (fun _ => ?_) | apply acc_later | apply acc_outcome
    | apply acc_put | apply keeps_ctxswDo | split | dsimp only | apply acc_mk

theorem acc_semTagset {z : State} {x : Ctx} {a : Acc}  (_hx : Keeps z x.s) (hA : AccKeeps z a) :
    AccKeeps z (semTagset  x a) := by
  unfold semTagset
  with_reducible repeat' first
    | assumption | exact Keeps.refl _ | intro _ | (apply acc_mk; assumption)
    | refine acc_ite (fun _ => ?_) (fun _ => ?_) | refine resk_ite (fun _ => ?_) (fun _ => ?_) | apply resk_ok
    | apply resk_pure | apply resk_error | apply resk_throw | apply resk_throwBind | apply acc_lateHold
    | (refine resk_bind _ _ (fun _ _ => ?_)) | apply acc_outcome | apply acc_flawed | apply acc_addFault
    | apply acc_addFaultSt | apply acc_addHold | apply acc_put | apply acc_putAll | apply acc_load | apply acc_eff
    | apply acc_flag | refine keeps_ite (fun _ => ?_) (fun _ => ?_) | apply acc_outcome | apply acc_put | split
    | dsimp only | apply acc_mk

theorem acc_semSplice {z : State} {x : Ctx} {a : Acc}  (_hx : Keeps z x.s) (hA : AccKeeps z a) :
    AccKeeps z (semSplice  x a) := by
  unfold semSplice
  with_reducible repeat' first
    | assumption | exact Keeps.refl _ | intro _ | (apply acc_mk; assumption)
    | refine acc_ite (fun _ => ?_) (fun _ => ?_) | refine resk_ite (fun _ => ?_) (fun _ => ?_) | apply resk_ok
    | apply resk_pure | apply resk_error | apply resk_throw | apply resk_throwBind | apply acc_lateHold
    | (refine resk_bind _ _ (fun _ _ => ?_)) | apply acc_outcome | apply acc_flawed | apply acc_addFault
    | apply acc_addFaultSt | apply acc_addHold | apply acc_put | apply acc_putAll | apply acc_load | apply acc_eff
    | apply acc_flag | refine keeps_ite (fun _ => ?_) (fun _ => ?_) | apply acc_later | apply acc_outcome
    | apply acc_put | apply keeps_spliceStart | split | dsimp only | apply acc_mk

theorem acc_semMode {z : State} {x : Ctx} {a : Acc}  (_hx : Keeps z x.s) (hA : AccKeeps z a) :
    AccKeeps z (semMode  x a) := by
  unfold semMode
  with_reducible repeat' first
    | assumption | exact Keeps.refl _ | intro _ | (apply acc_mk; assumption)
    | refine acc_ite (fun _ => ?_) (fun _ => ?_) | refine resk_ite (fun _ => ?_) (fun _ => ?_) | apply resk_ok
    | apply resk_pure | apply resk_error | apply resk_throw | apply resk_throwBind | apply acc_lateHold
    | (refine resk_bind _ _ (fun _ _ => ?_)) | apply acc_outcome | apply acc_flawed | apply acc_addFault
    | apply acc_addFaultSt | apply acc_addHold | apply acc_put | apply acc_putAll | apply acc_load | apply acc_eff
    | apply acc_flag | apply acc_later | apply acc_outcome | apply acc_put | apply keeps_modeRequestDo | split
    | dsimp only | apply acc_mk

end Sys2Proof.Machine
end

