-- ==== Sys2Proof/Laws/Keeps5.lean ====
section
/-! SUPPORT. Microwords, the syllable rows and the rows of cores, hub and rings keep the invariant. -/

namespace Sys2Proof.Machine

/-! The tactics of these proofs are one list for every goal, so that some of them do nothing in some goals. -/
set_option linter.all false

theorem acc_semOf {z : State} {x : Ctx} {a : Acc} (i : Instr) (_hx : Keeps z x.s) (hA : AccKeeps z a) :
    AccKeeps z (semOf i x a) := by
  unfold semOf
  with_reducible repeat' first
    | assumption | exact Keeps.refl _ | intro _ | (apply acc_mk; assumption)
    | refine acc_ite (fun _ => ?_) (fun _ => ?_) | refine resk_ite (fun _ => ?_) (fun _ => ?_) | apply resk_ok
    | apply resk_pure | apply resk_error | apply resk_throw | apply resk_throwBind | apply acc_lateHold
    | (refine resk_bind _ _ (fun _ _ => ?_)) | apply acc_outcome | apply acc_flawed | apply acc_addFault
    | apply acc_addFaultSt | apply acc_addHold | apply acc_put | apply acc_putAll | apply acc_load | apply acc_eff
    | apply acc_flag | apply acc_semBf | apply acc_semBnz | apply acc_semBr | apply acc_semBrc | apply acc_semBt
    | apply acc_semBz | apply acc_semCall | apply acc_semCallr | apply acc_semCallw | apply acc_semCas
    | apply acc_semCiph | apply acc_semClaim | apply acc_semCmpl | apply acc_semCsld | apply acc_semCsst
    | apply acc_semCssync | apply acc_semCtxsw | apply acc_semCwait | apply acc_semFadd | apply acc_semFenceFull
    | apply acc_semFenceIo | apply acc_semFenceLl | apply acc_semFenceSs | apply acc_semFrecv | apply acc_semFsend
    | apply acc_semGate | apply acc_semGret | apply acc_semIn | apply acc_semJr | apply acc_semLease
    | apply acc_semLedg | apply acc_semLng | apply acc_semLoad | apply acc_semLoop | apply acc_semMfc
    | apply acc_semMode | apply acc_semMovb | apply acc_semMtc | apply acc_semNop | apply acc_semOut
    | apply acc_semPark | apply acc_semPbar | apply acc_semPbarClear | apply acc_semPflush | apply acc_semPin
    | apply acc_semPost | apply acc_semRep | apply acc_semRepi | apply acc_semRet | apply acc_semRetw
    | apply acc_semSevCores | apply acc_semSevHub | apply acc_semSevJig | apply acc_semSevTrig | apply acc_semSplice
    | apply acc_semStore | apply acc_semSwap | apply acc_semTagchk | apply acc_semTagset | apply acc_semTfence
    | apply acc_semTrap | apply acc_semTret | apply acc_semUnpin | apply acc_semWaitt | apply acc_semWfe
    | apply acc_semWord | split | dsimp only | apply acc_mk

theorem keeps_csNote {z : State} {s : State} (l : Nat) (hK : Keeps z s) :
    Keeps z (csNote s l) := by
  unfold csNote
  with_reducible repeat' first
    | assumption | exact Keeps.refl _ | intro _ | refine keeps_ite (fun _ => ?_) (fun _ => ?_) | apply keeps_ioInc
    | split | dsimp only

theorem acc_foldl {α : Type} {z : State} (f : Acc → α → Acc) (l : List α) {a : Acc} (h : AccKeeps z a)
    (hf : ∀ a x, AccKeeps z a → AccKeeps z (f a x)) : AccKeeps z (l.foldl f a) := by
  induction l generalizing a with
  | nil => exact h
  | cons x l ih => exact ih (hf _ _ h)

theorem acc_evalWord {z s : State} (c : Nat) (lngTo : Bool) (h : Keeps z s) : AccKeeps z (evalWord s c lngTo) := by
  unfold evalWord
  refine acc_foldl _ _ (acc_start h) fun a p ha => acc_ite (fun _ => acc_addFault _ ha) fun _ => ?_
  exact acc_semOf p.i (x := ctxOf s c lngTo p) h ha

theorem legal_retireRegs (cur : Nat) (a : Acc) {k : Core} (h : coreLegal k) : coreLegal (retireRegs cur a k) := by
  unfold retireRegs
  dsimp only
  exact legal_mk (legal_foldRegs _ _ _ (legal_foldPut _ (fun _ => cur) _ _ h))

theorem legal_wordClear  {k : Core} (h : coreLegal k) : coreLegal (wordClear k) := by
  unfold wordClear
  with_reducible repeat' first
    | assumption | exact Keeps.refl _ | intro _ | (apply legal_mk; assumption) | split | dsimp only | apply keeps_mk
    | apply legal_mk

theorem legal_retireFlow (s : State) (a : Acc) {k : Core} (h : coreLegal k) : coreLegal (retireFlow s a k) := by
  unfold retireFlow
  with_reducible repeat' first
    | assumption | exact Keeps.refl _ | intro _ | refine keeps_ite (fun _ => ?_) (fun _ => ?_)
    | (apply legal_mk; assumption) | split | dsimp only | apply keeps_mk | apply legal_mk

theorem legal_retireXfer (a : Acc) (cmp : Bool) {k : Core} (h : coreLegal k) : coreLegal (retireXfer a cmp k) := by
  unfold retireXfer
  with_reducible repeat' first
    | assumption | exact Keeps.refl _ | intro _ | refine keeps_ite (fun _ => ?_) (fun _ => ?_)
    | (apply legal_mk; assumption) | split | dsimp only | apply keeps_mk | apply legal_mk

theorem legal_retirePred (a : Acc) {k : Core} (h : coreLegal k) : coreLegal (retirePred a k) := by
  unfold retirePred
  with_reducible repeat' first
    | assumption | exact Keeps.refl _ | intro _ | refine keeps_ite (fun _ => ?_) (fun _ => ?_)
    | (apply legal_mk; assumption) | split | dsimp only | apply keeps_mk | apply legal_mk

theorem keeps_pmAdd {z : State} {s : State} (c ring evt v : Nat) (hK : Keeps z s) :
    Keeps z (pmAdd c ring evt v s) := by
  unfold pmAdd
  with_reducible repeat' first
    | assumption | exact Keeps.refl _ | intro _ | apply keeps_ioPut | apply keeps_foldl | split | dsimp only

theorem keeps_pmFree {z : State} {s : State} (c ring evt : Nat) (hK : Keeps z s) :
    Keeps z (pmFree c ring evt s) := by
  unfold pmFree
  with_reducible repeat' first
    | assumption | exact Keeps.refl _ | intro _ | refine keeps_ite (fun _ => ?_) (fun _ => ?_) | apply keeps_pmAdd
    | apply keeps_bump | split | dsimp only

theorem keeps_pmWord {z s : State} (s0 : State) (c : Nat) (a : Acc) (h : Keeps z s) : Keeps z (pmWord s0 c a s) := by
  unfold pmWord
  extract_lets k w g wrong s1 s2 s3 s4
  have h1 : Keeps z s1 := keeps_pmAdd _ _ _ _ (keeps_pmAdd _ _ _ _ (keeps_pmAdd _ _ _ _ h))
  have h3 : Keeps z s3 := keeps_pmAdd _ _ _ _ (keeps_pmAdd _ _ _ _ (keeps_pmAdd _ _ _ _ h1))
  exact keeps_ite (fun _ => keeps_pmFree _ _ _ (keeps_pmFree _ _ _ h3)) (fun _ => keeps_pmFree _ _ _ h3)

theorem keeps_wdogRestart {z : State} {s : State} (c : Nat) (hK : Keeps z s) :
    Keeps z (wdogRestart s c) := by
  unfold wdogRestart
  with_reducible repeat' first
    | assumption | exact Keeps.refl _ | intro _ | refine keeps_ite (fun _ => ?_) (fun _ => ?_) | apply keeps_ioPut
    | split | dsimp only

theorem legal_retireDebug (old : Link) {k : Core} (h : coreLegal k) : coreLegal (retireDebug old k) := by
  unfold retireDebug
  with_reducible repeat' first
    | assumption | exact Keeps.refl _ | intro _ | refine keeps_ite (fun _ => ?_) (fun _ => ?_)
    | (apply legal_mk; assumption) | split | dsimp only | apply keeps_mk | apply legal_mk

theorem keeps_retireWord {z s0 : State} (c : Nat) {a : Acc} (hA : AccKeeps z a) : Keeps z (retireWord s0 c a) := by
  unfold retireWord
  extract_lets k s1 s2
  have h1 : Keeps z s1 := keeps_modCore _ _ hA.1 fun hk => legal_retireDebug _ (legal_wordClear (legal_retirePred _
    (legal_retireXfer _ _ (legal_retireFlow _ _ (legal_retireRegs _ _ hk)))))
  have h2 : Keeps z s2 := keeps_pmWord _ _ _ (keeps_modCore _ _ (hA.2.2.2.2 _ (keeps_wdogRestart _ h1)) fun hk => legal_modeApply hk)
  split
  · exact h2
  · exact keeps_takeTrap _ _ _ _ _ _ _ h2

theorem keeps_wordTrap {z : State} {s : State} (c : Nat) (t : Trp) (hK : Keeps z s) :
    Keeps z (wordTrap s c t) := by
  unfold wordTrap
  with_reducible repeat' first
    | assumption | exact Keeps.refl _ | intro _ | apply keeps_takeTrap | split | dsimp only

theorem keeps_lateRead {z : State} {s : State} (t : Trp) (hK : Keeps z s) :
    Keeps z (lateRead t s) := by
  unfold lateRead
  with_reducible repeat' first
    | assumption | exact Keeps.refl _ | intro _ | refine keeps_ite (fun _ => ?_) (fun _ => ?_) | apply keeps_eccRead
    | split | dsimp only

theorem keeps_wordWait {z : State} {s : State} (c : Nat) (w : Wait) (hK : Keeps z s) :
    Keeps z (wordWait s c w) := by
  unfold wordWait
  with_reducible repeat' first
    | assumption | exact Keeps.refl _ | intro _ | apply keeps_modCore | (apply legal_mk; assumption) | split
    | dsimp only | apply keeps_mk | apply legal_mk

theorem keeps_wordEnd {z s : State} (c : Nat) {a : Acc} (hA : AccKeeps z a) (h : Keeps z s) : Keeps z (wordEnd s c a) := by
  unfold wordEnd
  split
  · exact keeps_wordTrap _ _ (hA.2.2.2.1 _ h)
  · split
    · exact keeps_wordWait _ _ (hA.2.1 _ ‹_›)
    · split
      · exact keeps_wordTrap _ _ h
      · split
        · exact keeps_wordTrap _ _ (keeps_lateRead _ h)
        · split
          · exact keeps_wordWait _ _ (hA.2.2.1 _ ‹_›)
          · exact keeps_retireWord _ hA

theorem keeps_runWord {z : State} {s : State} (c : Nat) (lngTo : Bool) (hK : Keeps z s) :
    Keeps z (runWord s c lngTo) := by
  unfold runWord
  with_reducible repeat' first
    | assumption | exact Keeps.refl _ | intro _ | refine keeps_ite (fun _ => ?_) (fun _ => ?_) | apply acc_evalWord
    | apply keeps_csNote | apply keeps_wordEnd | apply keeps_wordTrap | apply keeps_modCore
    | (apply legal_mk; assumption) | split | dsimp only | apply keeps_mk | apply legal_mk

theorem keeps_lngDeliver {z : State} {s : State} (c : Nat) (hK : Keeps z s) :
    Keeps z (lngDeliver s c) := by
  unfold lngDeliver
  with_reducible repeat' first
    | assumption | exact Keeps.refl _ | intro _ | apply keeps_runWord | apply keeps_modCore
    | (apply legal_mk; assumption) | split | dsimp only | apply keeps_mk | apply legal_mk

theorem legal_gather (i : Instr) (y : Syl) {k : Core} (h : coreLegal k) : coreLegal (gather i y k) := by
  unfold gather
  with_reducible repeat' first
    | assumption | exact Keeps.refl _ | intro _ | (apply legal_mk; assumption) | split | dsimp only | apply keeps_mk
    | apply legal_mk

theorem keeps_issueTake {z : State} {s : State} (c : Nat) (i : Instr) (y : Syl) (hK : Keeps z s) :
    Keeps z (issueTake s c i y) := by
  unfold issueTake
  with_reducible repeat' first
    | assumption | exact Keeps.refl _ | intro _ | refine keeps_ite (fun _ => ?_) (fun _ => ?_) | apply keeps_runWord
    | apply keeps_wordWait | apply legal_gather | apply keeps_modCore | (apply legal_mk; assumption) | split
    | dsimp only | apply keeps_mk | apply legal_mk

theorem keeps_issueState {z : State} {s0 : State} (c : Nat) (i : Instr) (y : Syl) (hK : Keeps z s0) :
    Keeps z (issueState s0 c i y) := by
  unfold issueState
  with_reducible repeat' first
    | assumption | exact Keeps.refl _ | intro _ | refine keeps_ite (fun _ => ?_) (fun _ => ?_)
    | apply keeps_issueTake | apply keeps_lngDeliver | split | dsimp only

theorem keeps_issue {z s s2 : State} {i : Instr} {c : CoreId} {y : Syl} (e : issue i c y s = .next s2) (hK : Keeps z s) :
    Keeps z s2 := by
  unfold issue at e
  revert e
  with_reducible repeat' first
    | assumption | exact Keeps.refl _ | (intro e; cases e; done)
    | (intro e; injection e with e; injection e with _ e; subst e) | (intro e; injection e with e; subst e)
    | refine keeps_ite (fun _ => ?_) (fun _ => ?_) | apply keeps_issueState | split | dsimp only | intro _

theorem keeps_execNop {z s s2 : State} {c : CoreId} {y : Syl} (e : execNop c y s = .next s2)
    (hK : Keeps z s) : Keeps z s2 := keeps_issue e hK

theorem keeps_execBr {z s s2 : State} {c : CoreId} {y : Syl} (e : execBr c y s = .next s2)
    (hK : Keeps z s) : Keeps z s2 := keeps_issue e hK

theorem keeps_execBt {z s s2 : State} {c : CoreId} {y : Syl} (e : execBt c y s = .next s2)
    (hK : Keeps z s) : Keeps z s2 := keeps_issue e hK

theorem keeps_execBf {z s s2 : State} {c : CoreId} {y : Syl} (e : execBf c y s = .next s2)
    (hK : Keeps z s) : Keeps z s2 := keeps_issue e hK

theorem keeps_execBz {z s s2 : State} {c : CoreId} {y : Syl} (e : execBz c y s = .next s2)
    (hK : Keeps z s) : Keeps z s2 := keeps_issue e hK

theorem keeps_execBnz {z s s2 : State} {c : CoreId} {y : Syl} (e : execBnz c y s = .next s2)
    (hK : Keeps z s) : Keeps z s2 := keeps_issue e hK

theorem keeps_execBrc {z s s2 : State} {c : CoreId} {y : Syl} (e : execBrc c y s = .next s2)
    (hK : Keeps z s) : Keeps z s2 := keeps_issue e hK

theorem keeps_execCallS {z s s2 : State} {c : CoreId} {y : Syl} (e : execCallS c y s = .next s2)
    (hK : Keeps z s) : Keeps z s2 := keeps_issue e hK

theorem keeps_execCallw {z s s2 : State} {c : CoreId} {y : Syl} (e : execCallw c y s = .next s2)
    (hK : Keeps z s) : Keeps z s2 := keeps_issue e hK

theorem keeps_execRet {z s s2 : State} {c : CoreId} {y : Syl} (e : execRet c y s = .next s2)
    (hK : Keeps z s) : Keeps z s2 := keeps_issue e hK

theorem keeps_execRetw {z s s2 : State} {c : CoreId} {y : Syl} (e : execRetw c y s = .next s2)
    (hK : Keeps z s) : Keeps z s2 := keeps_issue e hK

theorem keeps_execJr {z s s2 : State} {c : CoreId} {y : Syl} (e : execJr c y s = .next s2)
    (hK : Keeps z s) : Keeps z s2 := keeps_issue e hK

theorem keeps_execCallr {z s s2 : State} {c : CoreId} {y : Syl} (e : execCallr c y s = .next s2)
    (hK : Keeps z s) : Keeps z s2 := keeps_issue e hK

theorem keeps_execRepS {z s s2 : State} {c : CoreId} {y : Syl} (e : execRepS c y s = .next s2)
    (hK : Keeps z s) : Keeps z s2 := keeps_issue e hK

theorem keeps_execRepi {z s s2 : State} {c : CoreId} {y : Syl} (e : execRepi c y s = .next s2)
    (hK : Keeps z s) : Keeps z s2 := keeps_issue e hK

theorem keeps_execLoopS {z s s2 : State} {c : CoreId} {y : Syl} (e : execLoopS c y s = .next s2)
    (hK : Keeps z s) : Keeps z s2 := keeps_issue e hK

theorem keeps_execWfe {z s s2 : State} {c : CoreId} {y : Syl} (e : execWfe c y s = .next s2)
    (hK : Keeps z s) : Keeps z s2 := keeps_issue e hK

theorem keeps_execSevCores {z s s2 : State} {c : CoreId} {y : Syl} (e : execSevCores c y s = .next s2)
    (hK : Keeps z s) : Keeps z s2 := keeps_issue e hK

theorem keeps_execSevHubSource {z s s2 : State} {c : CoreId} {y : Syl} (e : execSevHubSource c y s = .next s2)
    (hK : Keeps z s) : Keeps z s2 := keeps_issue e hK

theorem keeps_execSevJigGroup {z s s2 : State} {c : CoreId} {y : Syl} (e : execSevJigGroup c y s = .next s2)
    (hK : Keeps z s) : Keeps z s2 := keeps_issue e hK

theorem keeps_execSevFieldTrigger {z s s2 : State} {c : CoreId} {y : Syl} (e : execSevFieldTrigger c y s = .next s2)
    (hK : Keeps z s) : Keeps z s2 := keeps_issue e hK

theorem keeps_execWaitt {z s s2 : State} {c : CoreId} {y : Syl} (e : execWaitt c y s = .next s2)
    (hK : Keeps z s) : Keeps z s2 := keeps_issue e hK

theorem keeps_execGate {z s s2 : State} {c : CoreId} {y : Syl} (e : execGate c y s = .next s2)
    (hK : Keeps z s) : Keeps z s2 := keeps_issue e hK

theorem keeps_execGret {z s s2 : State} {c : CoreId} {y : Syl} (e : execGret c y s = .next s2)
    (hK : Keeps z s) : Keeps z s2 := keeps_issue e hK

theorem keeps_execTret {z s s2 : State} {c : CoreId} {y : Syl} (e : execTret c y s = .next s2)
    (hK : Keeps z s) : Keeps z s2 := keeps_issue e hK

theorem keeps_execTrap {z s s2 : State} {c : CoreId} {y : Syl} (e : execTrap c y s = .next s2)
    (hK : Keeps z s) : Keeps z s2 := keeps_issue e hK

theorem keeps_execTfence {z s s2 : State} {c : CoreId} {y : Syl} (e : execTfence c y s = .next s2)
    (hK : Keeps z s) : Keeps z s2 := keeps_issue e hK

theorem keeps_execPark {z s s2 : State} {c : CoreId} {y : Syl} (e : execPark c y s = .next s2)
    (hK : Keeps z s) : Keeps z s2 := keeps_issue e hK

theorem keeps_execAddS {z s s2 : State} {c : CoreId} {y : Syl} (e : execAddS c y s = .next s2)
    (hK : Keeps z s) : Keeps z s2 := keeps_issue e hK

theorem keeps_execSubS {z s s2 : State} {c : CoreId} {y : Syl} (e : execSubS c y s = .next s2)
    (hK : Keeps z s) : Keeps z s2 := keeps_issue e hK

theorem keeps_execAddcy {z s s2 : State} {c : CoreId} {y : Syl} (e : execAddcy c y s = .next s2)
    (hK : Keeps z s) : Keeps z s2 := keeps_issue e hK

theorem keeps_execSubby {z s s2 : State} {c : CoreId} {y : Syl} (e : execSubby c y s = .next s2)
    (hK : Keeps z s) : Keeps z s2 := keeps_issue e hK

theorem keeps_execAndS {z s s2 : State} {c : CoreId} {y : Syl} (e : execAndS c y s = .next s2)
    (hK : Keeps z s) : Keeps z s2 := keeps_issue e hK

theorem keeps_execOrS {z s s2 : State} {c : CoreId} {y : Syl} (e : execOrS c y s = .next s2)
    (hK : Keeps z s) : Keeps z s2 := keeps_issue e hK

theorem keeps_execXorS {z s s2 : State} {c : CoreId} {y : Syl} (e : execXorS c y s = .next s2)
    (hK : Keeps z s) : Keeps z s2 := keeps_issue e hK

theorem keeps_execAndn {z s s2 : State} {c : CoreId} {y : Syl} (e : execAndn c y s = .next s2)
    (hK : Keeps z s) : Keeps z s2 := keeps_issue e hK

theorem keeps_execNotS {z s s2 : State} {c : CoreId} {y : Syl} (e : execNotS c y s = .next s2)
    (hK : Keeps z s) : Keeps z s2 := keeps_issue e hK

theorem keeps_execMovS {z s s2 : State} {c : CoreId} {y : Syl} (e : execMovS c y s = .next s2)
    (hK : Keeps z s) : Keeps z s2 := keeps_issue e hK

theorem keeps_execMovi {z s s2 : State} {c : CoreId} {y : Syl} (e : execMovi c y s = .next s2)
    (hK : Keeps z s) : Keeps z s2 := keeps_issue e hK

theorem keeps_execCmpeq {z s s2 : State} {c : CoreId} {y : Syl} (e : execCmpeq c y s = .next s2)
    (hK : Keeps z s) : Keeps z s2 := keeps_issue e hK

theorem keeps_execCmpne {z s s2 : State} {c : CoreId} {y : Syl} (e : execCmpne c y s = .next s2)
    (hK : Keeps z s) : Keeps z s2 := keeps_issue e hK

theorem keeps_execCmplt {z s s2 : State} {c : CoreId} {y : Syl} (e : execCmplt c y s = .next s2)
    (hK : Keeps z s) : Keeps z s2 := keeps_issue e hK

theorem keeps_execCmple {z s s2 : State} {c : CoreId} {y : Syl} (e : execCmple c y s = .next s2)
    (hK : Keeps z s) : Keeps z s2 := keeps_issue e hK

theorem keeps_execCmpltu {z s s2 : State} {c : CoreId} {y : Syl} (e : execCmpltu c y s = .next s2)
    (hK : Keeps z s) : Keeps z s2 := keeps_issue e hK

theorem keeps_execCmpleu {z s s2 : State} {c : CoreId} {y : Syl} (e : execCmpleu c y s = .next s2)
    (hK : Keeps z s) : Keeps z s2 := keeps_issue e hK

theorem keeps_execMinS {z s s2 : State} {c : CoreId} {y : Syl} (e : execMinS c y s = .next s2)
    (hK : Keeps z s) : Keeps z s2 := keeps_issue e hK

theorem keeps_execMaxS {z s s2 : State} {c : CoreId} {y : Syl} (e : execMaxS c y s = .next s2)
    (hK : Keeps z s) : Keeps z s2 := keeps_issue e hK

theorem keeps_execMinu {z s s2 : State} {c : CoreId} {y : Syl} (e : execMinu c y s = .next s2)
    (hK : Keeps z s) : Keeps z s2 := keeps_issue e hK

theorem keeps_execMaxu {z s s2 : State} {c : CoreId} {y : Syl} (e : execMaxu c y s = .next s2)
    (hK : Keeps z s) : Keeps z s2 := keeps_issue e hK

theorem keeps_execAbsS {z s s2 : State} {c : CoreId} {y : Syl} (e : execAbsS c y s = .next s2)
    (hK : Keeps z s) : Keeps z s2 := keeps_issue e hK

theorem keeps_execNegS {z s s2 : State} {c : CoreId} {y : Syl} (e : execNegS c y s = .next s2)
    (hK : Keeps z s) : Keeps z s2 := keeps_issue e hK

theorem keeps_execSel {z s s2 : State} {c : CoreId} {y : Syl} (e : execSel c y s = .next s2)
    (hK : Keeps z s) : Keeps z s2 := keeps_issue e hK

theorem keeps_execAddsat {z s s2 : State} {c : CoreId} {y : Syl} (e : execAddsat c y s = .next s2)
    (hK : Keeps z s) : Keeps z s2 := keeps_issue e hK

theorem keeps_execSubsat {z s s2 : State} {c : CoreId} {y : Syl} (e : execSubsat c y s = .next s2)
    (hK : Keeps z s) : Keeps z s2 := keeps_issue e hK

theorem keeps_execTagof {z s s2 : State} {c : CoreId} {y : Syl} (e : execTagof c y s = .next s2)
    (hK : Keeps z s) : Keeps z s2 := keeps_issue e hK

theorem keeps_execRetag {z s s2 : State} {c : CoreId} {y : Syl} (e : execRetag c y s = .next s2)
    (hK : Keeps z s) : Keeps z s2 := keeps_issue e hK

theorem keeps_execTagchk {z s s2 : State} {c : CoreId} {y : Syl} (e : execTagchk c y s = .next s2)
    (hK : Keeps z s) : Keeps z s2 := keeps_issue e hK

theorem keeps_execShlS {z s s2 : State} {c : CoreId} {y : Syl} (e : execShlS c y s = .next s2)
    (hK : Keeps z s) : Keeps z s2 := keeps_issue e hK

theorem keeps_execShr {z s s2 : State} {c : CoreId} {y : Syl} (e : execShr c y s = .next s2)
    (hK : Keeps z s) : Keeps z s2 := keeps_issue e hK

theorem keeps_execSar {z s s2 : State} {c : CoreId} {y : Syl} (e : execSar c y s = .next s2)
    (hK : Keeps z s) : Keeps z s2 := keeps_issue e hK

theorem keeps_execRol {z s s2 : State} {c : CoreId} {y : Syl} (e : execRol c y s = .next s2)
    (hK : Keeps z s) : Keeps z s2 := keeps_issue e hK

theorem keeps_execRor {z s s2 : State} {c : CoreId} {y : Syl} (e : execRor c y s = .next s2)
    (hK : Keeps z s) : Keeps z s2 := keeps_issue e hK

theorem keeps_execExtF {z s s2 : State} {c : CoreId} {y : Syl} (e : execExtF c y s = .next s2)
    (hK : Keeps z s) : Keeps z s2 := keeps_issue e hK

theorem keeps_execInsF {z s s2 : State} {c : CoreId} {y : Syl} (e : execInsF c y s = .next s2)
    (hK : Keeps z s) : Keeps z s2 := keeps_issue e hK

theorem keeps_execPopc {z s s2 : State} {c : CoreId} {y : Syl} (e : execPopc c y s = .next s2)
    (hK : Keeps z s) : Keeps z s2 := keeps_issue e hK

theorem keeps_execClz {z s s2 : State} {c : CoreId} {y : Syl} (e : execClz c y s = .next s2)
    (hK : Keeps z s) : Keeps z s2 := keeps_issue e hK

theorem keeps_execCtz {z s s2 : State} {c : CoreId} {y : Syl} (e : execCtz c y s = .next s2)
    (hK : Keeps z s) : Keeps z s2 := keeps_issue e hK

theorem keeps_execBrev {z s s2 : State} {c : CoreId} {y : Syl} (e : execBrev c y s = .next s2)
    (hK : Keeps z s) : Keeps z s2 := keeps_issue e hK

theorem keeps_execSext {z s s2 : State} {c : CoreId} {y : Syl} (e : execSext c y s = .next s2)
    (hK : Keeps z s) : Keeps z s2 := keeps_issue e hK

theorem keeps_execPack16 {z s s2 : State} {c : CoreId} {y : Syl} (e : execPack16 c y s = .next s2)
    (hK : Keeps z s) : Keeps z s2 := keeps_issue e hK

theorem keeps_execUnpk16 {z s s2 : State} {c : CoreId} {y : Syl} (e : execUnpk16 c y s = .next s2)
    (hK : Keeps z s) : Keeps z s2 := keeps_issue e hK

theorem keeps_execMulS {z s s2 : State} {c : CoreId} {y : Syl} (e : execMulS c y s = .next s2)
    (hK : Keeps z s) : Keeps z s2 := keeps_issue e hK

theorem keeps_execMulh {z s s2 : State} {c : CoreId} {y : Syl} (e : execMulh c y s = .next s2)
    (hK : Keeps z s) : Keeps z s2 := keeps_issue e hK

theorem keeps_execMulw {z s s2 : State} {c : CoreId} {y : Syl} (e : execMulw c y s = .next s2)
    (hK : Keeps z s) : Keeps z s2 := keeps_issue e hK

theorem keeps_execMac {z s s2 : State} {c : CoreId} {y : Syl} (e : execMac c y s = .next s2)
    (hK : Keeps z s) : Keeps z s2 := keeps_issue e hK

theorem keeps_execDivS {z s s2 : State} {c : CoreId} {y : Syl} (e : execDivS c y s = .next s2)
    (hK : Keeps z s) : Keeps z s2 := keeps_issue e hK

theorem keeps_execDivu {z s s2 : State} {c : CoreId} {y : Syl} (e : execDivu c y s = .next s2)
    (hK : Keeps z s) : Keeps z s2 := keeps_issue e hK

theorem keeps_execRem {z s s2 : State} {c : CoreId} {y : Syl} (e : execRem c y s = .next s2)
    (hK : Keeps z s) : Keeps z s2 := keeps_issue e hK

theorem keeps_execRemu {z s s2 : State} {c : CoreId} {y : Syl} (e : execRemu c y s = .next s2)
    (hK : Keeps z s) : Keeps z s2 := keeps_issue e hK

theorem keeps_execCrc {z s s2 : State} {c : CoreId} {y : Syl} (e : execCrc c y s = .next s2)
    (hK : Keeps z s) : Keeps z s2 := keeps_issue e hK

theorem keeps_execCrcfin {z s s2 : State} {c : CoreId} {y : Syl} (e : execCrcfin c y s = .next s2)
    (hK : Keeps z s) : Keeps z s2 := keeps_issue e hK

theorem keeps_execSqrtu {z s s2 : State} {c : CoreId} {y : Syl} (e : execSqrtu c y s = .next s2)
    (hK : Keeps z s) : Keeps z s2 := keeps_issue e hK

theorem keeps_execLd {z s s2 : State} {c : CoreId} {y : Syl} (e : execLd c y s = .next s2)
    (hK : Keeps z s) : Keeps z s2 := keeps_issue e hK

theorem keeps_execSt {z s s2 : State} {c : CoreId} {y : Syl} (e : execSt c y s = .next s2)
    (hK : Keeps z s) : Keeps z s2 := keeps_issue e hK

theorem keeps_execLd2 {z s s2 : State} {c : CoreId} {y : Syl} (e : execLd2 c y s = .next s2)
    (hK : Keeps z s) : Keeps z s2 := keeps_issue e hK

theorem keeps_execSt2 {z s s2 : State} {c : CoreId} {y : Syl} (e : execSt2 c y s = .next s2)
    (hK : Keeps z s) : Keeps z s2 := keeps_issue e hK

theorem keeps_execLd4 {z s s2 : State} {c : CoreId} {y : Syl} (e : execLd4 c y s = .next s2)
    (hK : Keeps z s) : Keeps z s2 := keeps_issue e hK

theorem keeps_execSt4 {z s s2 : State} {c : CoreId} {y : Syl} (e : execSt4 c y s = .next s2)
    (hK : Keeps z s) : Keeps z s2 := keeps_issue e hK

theorem keeps_execLdAcq {z s s2 : State} {c : CoreId} {y : Syl} (e : execLdAcq c y s = .next s2)
    (hK : Keeps z s) : Keeps z s2 := keeps_issue e hK

theorem keeps_execStRel {z s s2 : State} {c : CoreId} {y : Syl} (e : execStRel c y s = .next s2)
    (hK : Keeps z s) : Keeps z s2 := keeps_issue e hK

theorem keeps_execSwap {z s s2 : State} {c : CoreId} {y : Syl} (e : execSwap c y s = .next s2)
    (hK : Keeps z s) : Keeps z s2 := keeps_issue e hK

theorem keeps_execCas {z s s2 : State} {c : CoreId} {y : Syl} (e : execCas c y s = .next s2)
    (hK : Keeps z s) : Keeps z s2 := keeps_issue e hK

theorem keeps_execFadd {z s s2 : State} {c : CoreId} {y : Syl} (e : execFadd c y s = .next s2)
    (hK : Keeps z s) : Keeps z s2 := keeps_issue e hK

theorem keeps_execFenceLl {z s s2 : State} {c : CoreId} {y : Syl} (e : execFenceLl c y s = .next s2)
    (hK : Keeps z s) : Keeps z s2 := keeps_issue e hK

theorem keeps_execFenceSs {z s s2 : State} {c : CoreId} {y : Syl} (e : execFenceSs c y s = .next s2)
    (hK : Keeps z s) : Keeps z s2 := keeps_issue e hK

theorem keeps_execFenceFull {z s s2 : State} {c : CoreId} {y : Syl} (e : execFenceFull c y s = .next s2)
    (hK : Keeps z s) : Keeps z s2 := keeps_issue e hK

theorem keeps_execFenceIo {z s s2 : State} {c : CoreId} {y : Syl} (e : execFenceIo c y s = .next s2)
    (hK : Keeps z s) : Keeps z s2 := keeps_issue e hK

theorem keeps_execMovb {z s s2 : State} {c : CoreId} {y : Syl} (e : execMovb c y s = .next s2)
    (hK : Keeps z s) : Keeps z s2 := keeps_issue e hK

theorem keeps_execPin {z s s2 : State} {c : CoreId} {y : Syl} (e : execPin c y s = .next s2)
    (hK : Keeps z s) : Keeps z s2 := keeps_issue e hK

theorem keeps_execUnpin {z s s2 : State} {c : CoreId} {y : Syl} (e : execUnpin c y s = .next s2)
    (hK : Keeps z s) : Keeps z s2 := keeps_issue e hK

theorem keeps_execLease {z s s2 : State} {c : CoreId} {y : Syl} (e : execLease c y s = .next s2)
    (hK : Keeps z s) : Keeps z s2 := keeps_issue e hK

theorem keeps_execInIo {z s s2 : State} {c : CoreId} {y : Syl} (e : execInIo c y s = .next s2)
    (hK : Keeps z s) : Keeps z s2 := keeps_issue e hK

theorem keeps_execOutIo {z s s2 : State} {c : CoreId} {y : Syl} (e : execOutIo c y s = .next s2)
    (hK : Keeps z s) : Keeps z s2 := keeps_issue e hK

theorem keeps_execFsend {z s s2 : State} {c : CoreId} {y : Syl} (e : execFsend c y s = .next s2)
    (hK : Keeps z s) : Keeps z s2 := keeps_issue e hK

theorem keeps_execFrecv {z s s2 : State} {c : CoreId} {y : Syl} (e : execFrecv c y s = .next s2)
    (hK : Keeps z s) : Keeps z s2 := keeps_issue e hK

theorem keeps_execCiphKeyWrap {z s s2 : State} {c : CoreId} {y : Syl} (e : execCiphKeyWrap c y s = .next s2)
    (hK : Keeps z s) : Keeps z s2 := keeps_issue e hK

theorem keeps_execCiphKeyUnwrap {z s s2 : State} {c : CoreId} {y : Syl} (e : execCiphKeyUnwrap c y s = .next s2)
    (hK : Keeps z s) : Keeps z s2 := keeps_issue e hK

theorem keeps_execCiphCbcEncrypt {z s s2 : State} {c : CoreId} {y : Syl} (e : execCiphCbcEncrypt c y s = .next s2)
    (hK : Keeps z s) : Keeps z s2 := keeps_issue e hK

theorem keeps_execCiphCbcDecrypt {z s s2 : State} {c : CoreId} {y : Syl} (e : execCiphCbcDecrypt c y s = .next s2)
    (hK : Keeps z s) : Keeps z s2 := keeps_issue e hK

theorem keeps_execCiphCtr {z s s2 : State} {c : CoreId} {y : Syl} (e : execCiphCtr c y s = .next s2)
    (hK : Keeps z s) : Keeps z s2 := keeps_issue e hK

theorem keeps_execCiphGcmEncrypt {z s s2 : State} {c : CoreId} {y : Syl} (e : execCiphGcmEncrypt c y s = .next s2)
    (hK : Keeps z s) : Keeps z s2 := keeps_issue e hK

theorem keeps_execCiphGcmDecrypt {z s s2 : State} {c : CoreId} {y : Syl} (e : execCiphGcmDecrypt c y s = .next s2)
    (hK : Keeps z s) : Keeps z s2 := keeps_issue e hK

theorem keeps_execCiphCcmEncrypt {z s s2 : State} {c : CoreId} {y : Syl} (e : execCiphCcmEncrypt c y s = .next s2)
    (hK : Keeps z s) : Keeps z s2 := keeps_issue e hK

theorem keeps_execCiphCcmDecrypt {z s s2 : State} {c : CoreId} {y : Syl} (e : execCiphCcmDecrypt c y s = .next s2)
    (hK : Keeps z s) : Keeps z s2 := keeps_issue e hK

theorem keeps_execCiphCmacGenerate {z s s2 : State} {c : CoreId} {y : Syl} (e : execCiphCmacGenerate c y s = .next s2)
    (hK : Keeps z s) : Keeps z s2 := keeps_issue e hK

theorem keeps_execCiphCmacVerify {z s s2 : State} {c : CoreId} {y : Syl} (e : execCiphCmacVerify c y s = .next s2)
    (hK : Keeps z s) : Keeps z s2 := keeps_issue e hK

theorem keeps_execCwait {z s s2 : State} {c : CoreId} {y : Syl} (e : execCwait c y s = .next s2)
    (hK : Keeps z s) : Keeps z s2 := keeps_issue e hK

theorem keeps_execLedg {z s s2 : State} {c : CoreId} {y : Syl} (e : execLedg c y s = .next s2)
    (hK : Keeps z s) : Keeps z s2 := keeps_issue e hK

theorem keeps_execClaim {z s s2 : State} {c : CoreId} {y : Syl} (e : execClaim c y s = .next s2)
    (hK : Keeps z s) : Keeps z s2 := keeps_issue e hK

theorem keeps_execCmpl {z s s2 : State} {c : CoreId} {y : Syl} (e : execCmpl c y s = .next s2)
    (hK : Keeps z s) : Keeps z s2 := keeps_issue e hK

theorem keeps_execPostS {z s s2 : State} {c : CoreId} {y : Syl} (e : execPostS c y s = .next s2)
    (hK : Keeps z s) : Keeps z s2 := keeps_issue e hK

theorem keeps_execMfc {z s s2 : State} {c : CoreId} {y : Syl} (e : execMfc c y s = .next s2)
    (hK : Keeps z s) : Keeps z s2 := keeps_issue e hK

theorem keeps_execMtc {z s s2 : State} {c : CoreId} {y : Syl} (e : execMtc c y s = .next s2)
    (hK : Keeps z s) : Keeps z s2 := keeps_issue e hK

theorem keeps_execCsld {z s s2 : State} {c : CoreId} {y : Syl} (e : execCsld c y s = .next s2)
    (hK : Keeps z s) : Keeps z s2 := keeps_issue e hK

theorem keeps_execCsst {z s s2 : State} {c : CoreId} {y : Syl} (e : execCsst c y s = .next s2)
    (hK : Keeps z s) : Keeps z s2 := keeps_issue e hK

theorem keeps_execCssync {z s s2 : State} {c : CoreId} {y : Syl} (e : execCssync c y s = .next s2)
    (hK : Keeps z s) : Keeps z s2 := keeps_issue e hK

theorem keeps_execPflush {z s s2 : State} {c : CoreId} {y : Syl} (e : execPflush c y s = .next s2)
    (hK : Keeps z s) : Keeps z s2 := keeps_issue e hK

theorem keeps_execPbar {z s s2 : State} {c : CoreId} {y : Syl} (e : execPbar c y s = .next s2)
    (hK : Keeps z s) : Keeps z s2 := keeps_issue e hK

theorem keeps_execPbarClear {z s s2 : State} {c : CoreId} {y : Syl} (e : execPbarClear c y s = .next s2)
    (hK : Keeps z s) : Keeps z s2 := keeps_issue e hK

theorem keeps_execCtxsw {z s s2 : State} {c : CoreId} {y : Syl} (e : execCtxsw c y s = .next s2)
    (hK : Keeps z s) : Keeps z s2 := keeps_issue e hK

theorem keeps_execTagset {z s s2 : State} {c : CoreId} {y : Syl} (e : execTagset c y s = .next s2)
    (hK : Keeps z s) : Keeps z s2 := keeps_issue e hK

theorem keeps_execSplice {z s s2 : State} {c : CoreId} {y : Syl} (e : execSplice c y s = .next s2)
    (hK : Keeps z s) : Keeps z s2 := keeps_issue e hK

theorem keeps_execModeS {z s s2 : State} {c : CoreId} {y : Syl} (e : execModeS c y s = .next s2)
    (hK : Keeps z s) : Keeps z s2 := keeps_issue e hK

theorem keeps_resumeWait {z : State} {s : State} (c : Nat) (w : Wait) (lngTo : Bool) (hK : Keeps z s) :
    Keeps z (resumeWait s c w lngTo) := by
  unfold resumeWait
  with_reducible repeat' first
    | assumption | exact Keeps.refl _ | intro _ | refine keeps_ite (fun _ => ?_) (fun _ => ?_) | apply keeps_runWord
    | split | dsimp only

theorem keeps_execLngResult {z s s2 : State} {c : CoreId} (e : execLngResult c s = .next s2) (hK : Keeps z s) :
    Keeps z s2 := by
  unfold execLngResult at e
  revert e
  with_reducible repeat' first
    | assumption | exact Keeps.refl _ | (intro e; cases e; done)
    | (intro e; injection e with e; injection e with _ e; subst e) | (intro e; injection e with e; subst e)
    | refine keeps_ite (fun _ => ?_) (fun _ => ?_) | apply keeps_lngDeliver | split | dsimp only | intro _

theorem keeps_execLngto {z s s2 : State} {c : CoreId} (e : execLngto c s = .next s2) (hK : Keeps z s) :
    Keeps z s2 := by
  unfold execLngto at e
  revert e
  with_reducible repeat' first
    | assumption | exact Keeps.refl _ | (intro e; cases e; done)
    | (intro e; injection e with e; injection e with _ e; subst e) | (intro e; injection e with e; subst e)
    | apply keeps_resumeWait | split | dsimp only | intro _

theorem keeps_execWfeResume {z s s2 : State} {c : CoreId} (e : execWfeResume c s = .next s2) (hK : Keeps z s) :
    Keeps z s2 := by
  unfold execWfeResume at e
  revert e
  with_reducible repeat' first
    | assumption | exact Keeps.refl _ | (intro e; cases e; done)
    | (intro e; injection e with e; injection e with _ e; subst e) | (intro e; injection e with e; subst e)
    | apply keeps_resumeWait | split | dsimp only | intro _

theorem keeps_execWaittResume {z s s2 : State} {c : CoreId} (e : execWaittResume c s = .next s2) (hK : Keeps z s) :
    Keeps z s2 := by
  unfold execWaittResume at e
  revert e
  with_reducible repeat' first
    | assumption | exact Keeps.refl _ | (intro e; cases e; done)
    | (intro e; injection e with e; injection e with _ e; subst e) | (intro e; injection e with e; subst e)
    | apply keeps_resumeWait | split | dsimp only | intro _

theorem keeps_execCwaitResume {z s s2 : State} {c : CoreId} (e : execCwaitResume c s = .next s2) (hK : Keeps z s) :
    Keeps z s2 := by
  unfold execCwaitResume at e
  revert e
  with_reducible repeat' first
    | assumption | exact Keeps.refl _ | (intro e; cases e; done)
    | (intro e; injection e with e; injection e with _ e; subst e) | (intro e; injection e with e; subst e)
    | apply keeps_resumeWait | split | dsimp only | intro _

theorem keeps_execPacedIssue {z s s2 : State} {c : CoreId} (e : execPacedIssue c s = .next s2) (hK : Keeps z s) :
    Keeps z s2 := by
  unfold execPacedIssue at e
  revert e
  with_reducible repeat' first
    | assumption | exact Keeps.refl _ | (intro e; cases e; done)
    | (intro e; injection e with e; injection e with _ e; subst e) | (intro e; injection e with e; subst e)
    | refine keeps_ite (fun _ => ?_) (fun _ => ?_) | apply keeps_runWord | apply keeps_modCore
    | (apply legal_mk; assumption) | split | dsimp only | apply keeps_mk | apply legal_mk | intro _

theorem keeps_execIoto {z s s2 : State} {c : CoreId} (e : execIoto c s = .next s2) (hK : Keeps z s) :
    Keeps z s2 := by
  unfold execIoto at e
  revert e
  with_reducible repeat' first
    | assumption | exact Keeps.refl _ | (intro e; cases e; done)
    | (intro e; injection e with e; injection e with _ e; subst e) | (intro e; injection e with e; subst e)
    | refine keeps_ite (fun _ => ?_) (fun _ => ?_) | apply keeps_wordTrap | split | dsimp only | intro _

theorem keeps_sendWake {z : State} {s : State}  (hK : Keeps z s) :
    Keeps z (sendWake s) := by
  unfold sendWake
  with_reducible repeat' first
    | assumption | exact Keeps.refl _ | intro _ | refine keeps_ite (fun _ => ?_) (fun _ => ?_)
    | apply keeps_resumeWait | apply keeps_foldl | split | dsimp only

theorem keeps_ciphWake {z : State} {s : State} (c : Nat) (hK : Keeps z s) :
    Keeps z (ciphWake s c) := by
  unfold ciphWake
  with_reducible repeat' first
    | assumption | exact Keeps.refl _ | intro _ | refine keeps_ite (fun _ => ?_) (fun _ => ?_)
    | apply keeps_resumeWait | split | dsimp only

theorem keeps_asyncTrap {z : State} {s : State} (c : Nat) (t : Trp) (lvl : Option Nat) (hK : Keeps z s) :
    Keeps z (asyncTrap s c t lvl) := by
  unfold asyncTrap
  with_reducible repeat' first
    | assumption | exact Keeps.refl _ | intro _ | apply keeps_takeTrap | split | dsimp only

theorem keeps_pendTrap {z : State} {s : State} (c : Nat) (p : Async) (n : Nat) (t : Trp) (hK : Keeps z s) :
    Keeps z (pendTrap s c p n t) := by
  unfold pendTrap
  with_reducible repeat' first
    | assumption | exact Keeps.refl _ | intro _ | refine keeps_ite (fun _ => ?_) (fun _ => ?_)
    | apply keeps_asyncTrap | apply keeps_modCore | (apply legal_mk; assumption) | split | dsimp only
    | apply keeps_mk | apply legal_mk

theorem keeps_execNmi {z s s2 : State} {c : CoreId} (e : execNmi c s = .next s2) (hK : Keeps z s) :
    Keeps z s2 := by
  unfold execNmi at e
  revert e
  with_reducible repeat' first
    | assumption | exact Keeps.refl _ | (intro e; cases e; done)
    | (intro e; injection e with e; injection e with _ e; subst e) | (intro e; injection e with e; subst e)
    | apply keeps_pendTrap | (apply legal_mk; assumption) | split | dsimp only | apply keeps_mk | apply legal_mk
    | intro _

theorem keeps_execLeaselost {z s s2 : State} {c : CoreId} (e : execLeaselost c s = .next s2) (hK : Keeps z s) :
    Keeps z s2 := by
  unfold execLeaselost at e
  revert e
  with_reducible repeat' first
    | assumption | exact Keeps.refl _ | (intro e; cases e; done)
    | (intro e; injection e with e; injection e with _ e; subst e) | (intro e; injection e with e; subst e)
    | apply keeps_pendTrap | (apply legal_mk; assumption) | split | dsimp only | apply keeps_mk | apply legal_mk
    | intro _

theorem keeps_execStepTrap {z s s2 : State} {c : CoreId} (e : execStepTrap c s = .next s2) (hK : Keeps z s) :
    Keeps z s2 := by
  unfold execStepTrap at e
  revert e
  with_reducible repeat' first
    | assumption | exact Keeps.refl _ | (intro e; cases e; done)
    | (intro e; injection e with e; injection e with _ e; subst e) | (intro e; injection e with e; subst e)
    | refine keeps_ite (fun _ => ?_) (fun _ => ?_) | apply keeps_pendTrap | split | dsimp only | intro _

theorem keeps_execBreakTrap {z s s2 : State} {c : CoreId} {n : Fin 4} (e : execBreakTrap c n s = .next s2) (hK : Keeps z s) :
    Keeps z s2 := by
  unfold execBreakTrap at e
  revert e
  with_reducible repeat' first
    | assumption | exact Keeps.refl _ | (intro e; cases e; done)
    | (intro e; injection e with e; injection e with _ e; subst e) | (intro e; injection e with e; subst e)
    | refine keeps_ite (fun _ => ?_) (fun _ => ?_) | apply keeps_asyncTrap | split | dsimp only | intro _

theorem keeps_intTake {z : State} {s : State} (c : Nat) (hK : Keeps z s) :
    Keeps z (intTake s c) := by
  unfold intTake
  with_reducible repeat' first
    | assumption | exact Keeps.refl _ | intro _ | apply keeps_asyncTrap | split | dsimp only

theorem keeps_execInterrupt {z s s2 : State} {c : CoreId} (e : execInterrupt c s = .next s2) (hK : Keeps z s) :
    Keeps z s2 := by
  unfold execInterrupt at e
  revert e
  with_reducible repeat' first
    | assumption | exact Keeps.refl _ | (intro e; cases e; done)
    | (intro e; injection e with e; injection e with _ e; subst e) | (intro e; injection e with e; subst e)
    | refine keeps_ite (fun _ => ?_) (fun _ => ?_) | apply keeps_intTake | apply keeps_runWord | apply keeps_setEvlat
    | split | dsimp only | intro _

theorem keeps_wdogPut {z : State} {s : State} (c us : Nat) (stage2 : Bool) (hK : Keeps z s) :
    Keeps z (wdogPut s c us stage2) := by
  unfold wdogPut
  with_reducible repeat' first
    | assumption | exact Keeps.refl _ | intro _ | apply keeps_ioPut | split | dsimp only

theorem keeps_wdogTake {z : State} {s : State} (c : Nat) (hK : Keeps z s) :
    Keeps z (wdogTake s c) := by
  unfold wdogTake
  with_reducible repeat' first
    | assumption | exact Keeps.refl _ | intro _ | refine keeps_ite (fun _ => ?_) (fun _ => ?_)
    | apply keeps_asyncTrap | apply keeps_modCore | (apply legal_mk; assumption) | split | dsimp only
    | apply keeps_mk | apply legal_mk

theorem keeps_execWdog {z s s2 : State} {c : CoreId} (e : execWdog c s = .next s2) (hK : Keeps z s) :
    Keeps z s2 := by
  unfold execWdog at e
  revert e
  with_reducible repeat' first
    | assumption | exact Keeps.refl _ | (intro e; cases e; done)
    | (intro e; injection e with e; injection e with _ e; subst e) | (intro e; injection e with e; subst e)
    | refine keeps_ite (fun _ => ?_) (fun _ => ?_) | apply keeps_wdogPut | apply keeps_wdogTake | apply keeps_modCore
    | (apply legal_mk; assumption) | split | dsimp only | apply keeps_mk | apply legal_mk | intro _

theorem keeps_execWdogStage2 {z s s2 : State} {c : CoreId} (e : execWdogStage2 c s = .next s2) (hK : Keeps z s) :
    Keeps z s2 := by
  unfold execWdogStage2 at e
  revert e
  with_reducible repeat' first
    | assumption | exact Keeps.refl _ | (intro e; cases e; done)
    | (intro e; injection e with e; injection e with _ e; subst e) | (intro e; injection e with e; subst e)
    | refine keeps_ite (fun _ => ?_) (fun _ => ?_) | apply keeps_kerf | split | dsimp only | intro _

theorem keeps_execWatchdogHalf {z s s2 : State} {c : CoreId} (e : execWatchdogHalf c s = .next s2) (hK : Keeps z s) :
    Keeps z s2 := by
  unfold execWatchdogHalf at e
  revert e
  with_reducible repeat' first
    | assumption | exact Keeps.refl _ | (intro e; cases e; done)
    | (intro e; injection e with e; injection e with _ e; subst e) | (intro e; injection e with e; subst e)
    | refine keeps_ite (fun _ => ?_) (fun _ => ?_) | apply keeps_wdogPut | split | dsimp only | intro _

theorem keeps_execStorePerformed {z s s2 : State} {c : CoreId} {i : Nat} (e : execStorePerformed c i s = .next s2) (hK : Keeps z s) :
    Keeps z s2 := by
  unfold execStorePerformed at e
  revert e
  with_reducible repeat' first
    | assumption | exact Keeps.refl _ | (intro e; cases e; done)
    | (intro e; injection e with e; injection e with _ e; subst e) | (intro e; injection e with e; subst e)
    | refine keeps_ite (fun _ => ?_) (fun _ => ?_) | apply keeps_memPutAll | apply keeps_storeTrim
    | apply keeps_memPut | apply keeps_modCore | (apply legal_mk; assumption) | split | dsimp only | apply keeps_mk
    | apply legal_mk | intro _

theorem keeps_hostFault {z : State} {s : State} (c : Nat) (t : Trp) (hK : Keeps z s) :
    Keeps z (hostFault s c t) := by
  unfold hostFault
  with_reducible repeat' first
    | assumption | exact Keeps.refl _ | intro _ | refine keeps_ite (fun _ => ?_) (fun _ => ?_) | apply keeps_wordTrap
    | (apply legal_mk; assumption) | split | dsimp only | apply keeps_mk | apply legal_mk

theorem keeps_hostGoOn {z : State} {s : State} (c : Nat) (h : HostAcc) (hK : Keeps z s) :
    Keeps z (hostGoOn s c h) := by
  unfold hostGoOn
  with_reducible repeat' first
    | assumption | exact Keeps.refl _ | intro _ | refine keeps_ite (fun _ => ?_) (fun _ => ?_)
    | refine keeps_hostAsk (by assumption) ?_ | apply keeps_hostFault | apply keeps_runWord | split | dsimp only

theorem keeps_coreAnswer {z : State} {s : State} (c ans : Nat) (hK : Keeps z s) :
    Keeps z (coreAnswer s c ans) := by
  unfold coreAnswer
  with_reducible repeat' first
    | assumption | exact Keeps.refl _ | intro _ | refine keeps_ite (fun _ => ?_) (fun _ => ?_) | apply keeps_acDenied
    | apply keeps_hostFault | apply keeps_hostGoOn | apply keeps_hostStorePart | apply keeps_emit
    | apply keeps_modCore | (apply legal_mk; assumption) | split | dsimp only | apply keeps_mk | apply legal_mk

theorem keeps_execHostPartCompletion {z s s2 : State} {c : CoreId} {data : List (BitVec 64)} {late : Bool} (e : execHostPartCompletion c data late s = .next s2) (hK : Keeps z s) :
    Keeps z s2 := by
  unfold execHostPartCompletion at e
  revert e
  with_reducible repeat' first
    | assumption | exact Keeps.refl _ | (intro e; cases e; done)
    | (intro e; injection e with e; injection e with _ e; subst e) | (intro e; injection e with e; subst e)
    | refine keeps_ite (fun _ => ?_) (fun _ => ?_) | apply keeps_hostFault | apply keeps_hostGoOn | split
    | dsimp only | intro _

theorem keeps_execHwto {z s s2 : State} {c : CoreId} (e : execHwto c s = .next s2) (hK : Keeps z s) :
    Keeps z s2 := by
  unfold execHwto at e
  revert e
  with_reducible repeat' first
    | assumption | exact Keeps.refl _ | (intro e; cases e; done)
    | (intro e; injection e with e; injection e with _ e; subst e) | (intro e; injection e with e; subst e)
    | apply keeps_elWrite | apply keeps_hostFault | apply keeps_emit | split | dsimp only | intro _

theorem keeps_acRefuse {z : State} {s : State} (kind ans : Nat) (hK : Keeps z s) :
    Keeps z (acRefuse s kind ans) := by
  unfold acRefuse
  with_reducible repeat' first
    | assumption | exact Keeps.refl _ | intro _ | apply keeps_acDenied | apply keeps_elWrite | split | dsimp only

theorem keeps_fetchAnswer {z : State} {s : State} (q ans : Nat) (hK : Keeps z s) :
    Keeps z (fetchAnswer s q ans) := by
  unfold fetchAnswer
  with_reducible repeat' first
    | assumption | exact Keeps.refl _ | intro _ | refine keeps_ite (fun _ => ?_) (fun _ => ?_) | apply keeps_acRefuse
    | apply keeps_fetchFail | apply keeps_emit | (apply legal_mk; assumption) | split | dsimp only | apply keeps_mk
    | apply legal_mk

theorem keeps_compAnswer {z : State} {s : State} (r ans : Nat) (hK : Keeps z s) :
    Keeps z (compAnswer s r ans) := by
  unfold compAnswer
  with_reducible repeat' first
    | assumption | exact Keeps.refl _ | intro _ | refine keeps_ite (fun _ => ?_) (fun _ => ?_) | apply keeps_acAsk
    | apply keeps_acRefuse | apply keeps_compWrite | apply keeps_cspPut | (apply legal_mk; assumption) | split
    | dsimp only | apply keeps_mk | apply legal_mk

theorem keeps_drainWrite {z : State} {s : State} (j : Nat) (hK : Keeps z s) :
    Keeps z (drainWrite s j) := by
  unfold drainWrite
  with_reducible repeat' first
    | assumption | exact Keeps.refl _ | intro _ | refine keeps_ite (fun _ => ?_) (fun _ => ?_) | apply keeps_barSetF
    | apply keeps_modLedger | apply keeps_msixSend | apply keeps_emit | (apply legal_mk; assumption) | split
    | dsimp only | apply keeps_mk | apply legal_mk

theorem keeps_drainAnswer {z : State} {s : State} (ans : Nat) (hK : Keeps z s) :
    Keeps z (drainAnswer s ans) := by
  unfold drainAnswer
  with_reducible repeat' first
    | assumption | exact Keeps.refl _ | intro _ | refine keeps_ite (fun _ => ?_) (fun _ => ?_) | apply keeps_acRefuse
    | apply keeps_drainWrite | apply keeps_ioSetB | apply keeps_modLedger | (apply legal_mk; assumption) | split
    | dsimp only | apply keeps_mk | apply legal_mk

theorem keeps_msixAnswer {z : State} {s : State} (v ans : Nat) (hK : Keeps z s) :
    Keeps z (msixAnswer s v ans) := by
  unfold msixAnswer
  with_reducible repeat' first
    | assumption | exact Keeps.refl _ | intro _ | refine keeps_ite (fun _ => ?_) (fun _ => ?_) | apply keeps_acRefuse
    | apply keeps_pbaPut | apply keeps_emit | (apply legal_mk; assumption) | split | dsimp only | apply keeps_mk
    | apply legal_mk

theorem keeps_execAccessControlAnswer {z s s2 : State} {r : AcReq} {ans : BitVec 8} (e : execAccessControlAnswer r ans s = .next s2) (hK : Keeps z s) :
    Keeps z s2 := by
  unfold execAccessControlAnswer at e
  revert e
  with_reducible repeat' first
    | assumption | exact Keeps.refl _ | (intro e; cases e; done)
    | (intro e; injection e with e; injection e with _ e; subst e) | (intro e; injection e with e; subst e)
    | apply keeps_compAnswer | apply keeps_coreAnswer | apply keeps_drainAnswer | apply keeps_fetchAnswer
    | apply keeps_msixAnswer | split | dsimp only | intro _

theorem keeps_portTrap {z : State} {s : State} (c : Nat) (t : Trp) (hK : Keeps z s) :
    Keeps z (portTrap s c t) := by
  unfold portTrap
  with_reducible repeat' first
    | assumption | exact Keeps.refl _ | intro _ | apply keeps_takeTrap | split | dsimp only

theorem keeps_busWriteWith {z s : State} (c a : Nat) (w : Word) (f : RegInfo → IoOut)
    (hf : ∀ i t, f i = .done t → Keeps z t) (hK : Keeps z s) : Keeps z (busWriteWith s c a w f) := by
  unfold busWriteWith
  refine keeps_ite (fun _ => hK) (fun _ => ?_)
  split
  · exact keeps_portTrap _ _ hK
  · refine keeps_ite (fun _ => keeps_portTrap _ _ hK) (fun _ => ?_)
    split
    · exact hK
    · split
      · exact hf _ _ ‹_›
      · exact keeps_portTrap _ _ hK
      · exact hK

theorem keeps_busWrite {z s : State} (c a : Nat) (w : Word) (hK : Keeps z s) : Keeps z (busWrite s c a w) :=
  keeps_busWriteWith _ _ _ _ (fun _ _ e => keeps_ioPerform e hK) hK

theorem keeps_execRegisterWrite {z s s2 : State} {c : CoreId} {addr : BitVec 24} {w : Word} (e : execRegisterWrite c addr w s = .next s2) (hK : Keeps z s) :
    Keeps z s2 := by
  unfold execRegisterWrite at e
  revert e
  with_reducible repeat' first
    | assumption | exact Keeps.refl _ | (intro e; cases e; done)
    | (intro e; injection e with e; injection e with _ e; subst e) | (intro e; injection e with e; subst e)
    | apply keeps_busWrite | split | dsimp only | intro _

theorem keeps_execShadowWrite {z s s2 : State} {c : CoreId} {f : BitVec 12} {w : Word} (e : execShadowWrite c f w s = .next s2) (hK : Keeps z s) :
    Keeps z s2 := by
  unfold execShadowWrite at e
  revert e
  with_reducible repeat' first
    | assumption | exact Keeps.refl _ | (intro e; cases e; done)
    | (intro e; injection e with e; injection e with _ e; subst e) | (intro e; injection e with e; subst e)
    | apply keeps_busWrite | split | dsimp only | intro _

theorem keeps_execRsdepthWrite {z s s2 : State} {c : CoreId} {w : Word} (e : execRsdepthWrite c w s = .next s2) (hK : Keeps z s) :
    Keeps z s2 := by
  unfold execRsdepthWrite at e
  revert e
  with_reducible repeat' first
    | assumption | exact Keeps.refl _ | (intro e; cases e; done)
    | (intro e; injection e with e; injection e with _ e; subst e) | (intro e; injection e with e; subst e)
    | apply keeps_busWrite | split | dsimp only | intro _

theorem keeps_execRsentWrite {z s s2 : State} {c : CoreId} {k : Fin 16} {w : Word} (e : execRsentWrite c k w s = .next s2) (hK : Keeps z s) :
    Keeps z s2 := by
  unfold execRsentWrite at e
  revert e
  with_reducible repeat' first
    | assumption | exact Keeps.refl _ | (intro e; cases e; done)
    | (intro e; injection e with e; injection e with _ e; subst e) | (intro e; injection e with e; subst e)
    | apply keeps_busWrite | split | dsimp only | intro _

theorem keeps_execLevelAssert {z s s2 : State} {n : Fin 1024} (e : execLevelAssert n s = .next s2) (hK : Keeps z s) :
    Keeps z s2 := by
  unfold execLevelAssert at e
  revert e
  with_reducible repeat' first
    | assumption | exact Keeps.refl _ | (intro e; cases e; done)
    | (intro e; injection e with e; injection e with _ e; subst e) | (intro e; injection e with e; subst e)
    | refine keeps_ite (fun _ => ?_) (fun _ => ?_) | apply keeps_assertLevel | split | dsimp only | intro _

theorem keeps_execLevelWithdraw {z s s2 : State} {n : Fin 1024} (e : execLevelWithdraw n s = .next s2) (hK : Keeps z s) :
    Keeps z s2 := by
  unfold execLevelWithdraw at e
  revert e
  with_reducible repeat' first
    | assumption | exact Keeps.refl _ | (intro e; cases e; done)
    | (intro e; injection e with e; injection e with _ e; subst e) | (intro e; injection e with e; subst e)
    | refine keeps_ite (fun _ => ?_) (fun _ => ?_) | apply keeps_withdrawLevel | (apply legal_mk; assumption) | split
    | dsimp only | apply keeps_mk | apply legal_mk | intro _

theorem keeps_execOfferTimeout {z s s2 : State} {c : CoreId} (e : execOfferTimeout c s = .next s2) (hK : Keeps z s) :
    Keeps z s2 := by
  unfold execOfferTimeout at e
  revert e
  with_reducible repeat' first
    | assumption | exact Keeps.refl _ | (intro e; cases e; done)
    | (intro e; injection e with e; injection e with _ e; subst e) | (intro e; injection e with e; subst e)
    | refine keeps_ite (fun _ => ?_) (fun _ => ?_) | apply keeps_hubEval | apply keeps_modCore
    | (apply legal_mk; assumption) | split | dsimp only | apply keeps_mk | apply legal_mk | intro _

theorem keeps_execSrcstatPendClear {z s s2 : State} {c : CoreId} {n : Fin 1024} (e : execSrcstatPendClear c n s = .next s2) (hK : Keeps z s) :
    Keeps z s2 := by
  unfold execSrcstatPendClear at e
  revert e
  with_reducible repeat' first
    | assumption | exact Keeps.refl _ | (intro e; cases e; done)
    | (intro e; injection e with e; injection e with _ e; subst e) | (intro e; injection e with e; subst e)
    | apply keeps_busWrite | split | dsimp only | intro _

theorem keeps_execSrcstatSet {z s s2 : State} {c : CoreId} {n : Fin 1024} (e : execSrcstatSet c n s = .next s2) (hK : Keeps z s) :
    Keeps z s2 := by
  unfold execSrcstatSet at e
  revert e
  with_reducible repeat' first
    | assumption | exact Keeps.refl _ | (intro e; cases e; done)
    | (intro e; injection e with e; injection e with _ e; subst e) | (intro e; injection e with e; subst e)
    | apply keeps_busWrite | split | dsimp only | intro _

theorem keeps_msixFlush {z : State} {s : State} (v : Nat) (hK : Keeps z s) :
    Keeps z (msixFlush s v) := by
  unfold msixFlush
  with_reducible repeat' first
    | assumption | exact Keeps.refl _ | intro _ | refine keeps_ite (fun _ => ?_) (fun _ => ?_)
    | apply keeps_hostRoute | apply keeps_msixSend | apply keeps_pbaPut | apply keeps_foldl | split | dsimp only

theorem keeps_execMsixUnmask {z s s2 : State} {v : Fin 512} (e : execMsixUnmask v s = .next s2) (hK : Keeps z s) :
    Keeps z s2 := by
  unfold execMsixUnmask at e
  revert e
  with_reducible repeat' first
    | assumption | exact Keeps.refl _ | (intro e; cases e; done)
    | (intro e; injection e with e; injection e with _ e; subst e) | (intro e; injection e with e; subst e)
    | apply keeps_barSetB | apply keeps_hostActive | apply keeps_msixFlush | split | dsimp only | intro _

theorem keeps_execTbhiRead {z s s2 : State} {c : CoreId} {n : Fin 4} (e : execTbhiRead c n s = .next s2) (hK : Keeps z s) :
    Keeps z s2 := by
  unfold execTbhiRead at e
  revert e
  with_reducible repeat' first
    | assumption | exact Keeps.refl _ | (intro e; cases e; done)
    | (intro e; injection e with e; injection e with _ e; subst e) | (intro e; injection e with e; subst e)
    | refine keeps_ite (fun _ => ?_) (fun _ => ?_) | apply keeps_tbhiLatch | split | dsimp only | intro _

theorem keeps_execCapture {z s s2 : State} {c : CoreId} {mask : BitVec 4} (e : execCapture c mask s = .next s2) (hK : Keeps z s) :
    Keeps z s2 := by
  unfold execCapture at e
  revert e
  with_reducible repeat' first
    | assumption | exact Keeps.refl _ | (intro e; cases e; done)
    | (intro e; injection e with e; injection e with _ e; subst e) | (intro e; injection e with e; subst e)
    | apply keeps_busWrite | split | dsimp only | intro _

theorem keeps_execTbsethiWrite {z s s2 : State} {c : CoreId} {n : Fin 4} {w : Word} (e : execTbsethiWrite c n w s = .next s2) (hK : Keeps z s) :
    Keeps z s2 := by
  unfold execTbsethiWrite at e
  revert e
  with_reducible repeat' first
    | assumption | exact Keeps.refl _ | (intro e; cases e; done)
    | (intro e; injection e with e; injection e with _ e; subst e) | (intro e; injection e with e; subst e)
    | apply keeps_busWrite | split | dsimp only | intro _

theorem keeps_execCompareArm {z s s2 : State} {c : CoreId} {u : Fin 64} {w : Word} (e : execCompareArm c u w s = .next s2) (hK : Keeps z s) :
    Keeps z s2 := by
  unfold execCompareArm at e
  revert e
  with_reducible repeat' first
    | assumption | exact Keeps.refl _ | (intro e; cases e; done)
    | (intro e; injection e with e; injection e with _ e; subst e) | (intro e; injection e with e; subst e)
    | apply keeps_busWrite | (apply legal_mk; assumption) | split | dsimp only | apply keeps_mk | apply legal_mk
    | intro _

theorem keeps_execCompareFire {z s s2 : State} {u : Fin 64} (e : execCompareFire u s = .next s2) (hK : Keeps z s) :
    Keeps z s2 := by
  unfold execCompareFire at e
  revert e
  with_reducible repeat' first
    | assumption | exact Keeps.refl _ | (intro e; cases e; done)
    | (intro e; injection e with e; injection e with _ e; subst e) | (intro e; injection e with e; subst e)
    | apply keeps_cmpEval | split | dsimp only | intro _

theorem keeps_execPpsHold {z s s2 : State}  (e : execPpsHold s = .next s2) (hK : Keeps z s) :
    Keeps z s2 := by
  unfold execPpsHold at e
  revert e
  with_reducible repeat' first
    | assumption | exact Keeps.refl _ | (intro e; cases e; done)
    | (intro e; injection e with e; injection e with _ e; subst e) | (intro e; injection e with e; subst e)
    | apply keeps_tdHold | split | dsimp only | intro _

theorem keeps_msixFlushAll {z : State} {s : State}  (hK : Keeps z s) :
    Keeps z (msixFlushAll s) := by
  unfold msixFlushAll
  with_reducible repeat' first
    | assumption | exact Keeps.refl _ | intro _ | apply keeps_msixFlush | apply keeps_foldl | split | dsimp only

theorem keeps_execSqTailDoorbell {z s s2 : State} {q : Fin 256} {v : BitVec 16} (e : execSqTailDoorbell q v s = .next s2) (hK : Keeps z s) :
    Keeps z s2 := by
  unfold execSqTailDoorbell at e
  revert e
  with_reducible repeat' first
    | assumption | exact Keeps.refl _ | (intro e; cases e; done)
    | (intro e; injection e with e; injection e with _ e; subst e) | (intro e; injection e with e; subst e)
    | apply keeps_hostActive | apply keeps_sqDoorbell | split | dsimp only | intro _

theorem keeps_execCqHeadDoorbell {z s s2 : State} {r : Fin 256} {v : BitVec 16} (e : execCqHeadDoorbell r v s = .next s2) (hK : Keeps z s) :
    Keeps z s2 := by
  unfold execCqHeadDoorbell at e
  revert e
  with_reducible repeat' first
    | assumption | exact Keeps.refl _ | (intro e; cases e; done)
    | (intro e; injection e with e; injection e with _ e; subst e) | (intro e; injection e with e; subst e)
    | apply keeps_cqDoorbell | apply keeps_hostActive | split | dsimp only | intro _

theorem keeps_execSqEnable {z s s2 : State} {q : Fin 256} {w : BitVec 32} (e : execSqEnable q w s = .next s2) (hK : Keeps z s) :
    Keeps z s2 := by
  unfold execSqEnable at e
  revert e
  with_reducible repeat' first
    | assumption | exact Keeps.refl _ | (intro e; cases e; done)
    | (intro e; injection e with e; injection e with _ e; subst e) | (intro e; injection e with e; subst e)
    | apply keeps_hostActive | apply keeps_sqEnableDo | split | dsimp only | intro _

theorem keeps_execSqDisable {z s s2 : State} {q : Fin 256} {w : BitVec 32} (e : execSqDisable q w s = .next s2) (hK : Keeps z s) :
    Keeps z s2 := by
  unfold execSqDisable at e
  revert e
  with_reducible repeat' first
    | assumption | exact Keeps.refl _ | (intro e; cases e; done)
    | (intro e; injection e with e; injection e with _ e; subst e) | (intro e; injection e with e; subst e)
    | apply keeps_hostActive | apply keeps_sqDisableDo | split | dsimp only | intro _

theorem keeps_execCqEnable {z s s2 : State} {r : Fin 256} {w : BitVec 32} (e : execCqEnable r w s = .next s2) (hK : Keeps z s) :
    Keeps z s2 := by
  unfold execCqEnable at e
  revert e
  with_reducible repeat' first
    | assumption | exact Keeps.refl _ | (intro e; cases e; done)
    | (intro e; injection e with e; injection e with _ e; subst e) | (intro e; injection e with e; subst e)
    | apply keeps_cqEnableDo | apply keeps_hostActive | split | dsimp only | intro _

theorem keeps_execCqDisable {z s s2 : State} {r : Fin 256} {w : BitVec 32} (e : execCqDisable r w s = .next s2) (hK : Keeps z s) :
    Keeps z s2 := by
  unfold execCqDisable at e
  revert e
  with_reducible repeat' first
    | assumption | exact Keeps.refl _ | (intro e; cases e; done)
    | (intro e; injection e with e; injection e with _ e; subst e) | (intro e; injection e with e; subst e)
    | apply keeps_cqDisableDo | apply keeps_hostActive | split | dsimp only | intro _

theorem keeps_execRingFetch {z s s2 : State} {q : Fin 256} {n : Nat} (e : execRingFetch q n s = .next s2) (hK : Keeps z s) :
    Keeps z s2 := by
  unfold execRingFetch at e
  revert e
  with_reducible repeat' first
    | assumption | exact Keeps.refl _ | (intro e; cases e; done)
    | (intro e; injection e with e; injection e with _ e; subst e) | (intro e; injection e with e; subst e)
    | apply keeps_ringFetchDo | split | dsimp only | intro _

theorem keeps_execFetchComplete {z s s2 : State} {q : Fin 256} {entries : List (List (BitVec 64))} (e : execFetchComplete q entries s = .next s2) (hK : Keeps z s) :
    Keeps z s2 := by
  unfold execFetchComplete at e
  revert e
  with_reducible repeat' first
    | assumption | exact Keeps.refl _ | (intro e; cases e; done)
    | (intro e; injection e with e; injection e with _ e; subst e) | (intro e; injection e with e; subst e)
    | refine keeps_ite (fun _ => ?_) (fun _ => ?_) | apply keeps_fetchDone | split | dsimp only | intro _

theorem keeps_execDisptake {z s s2 : State} {c : CoreId} {g : Fin 64} (e : execDisptake c g s = .next s2) (hK : Keeps z s) :
    Keeps z s2 := by
  unfold execDisptake at e
  revert e
  with_reducible repeat' first
    | assumption | exact Keeps.refl _ | (intro e; cases e; done)
    | (intro e; injection e with e; injection e with _ e; subst e) | (intro e; injection e with e; subst e)
    | apply keeps_busWrite | split | dsimp only | intro _

theorem keeps_execDisptakeFree {z s s2 : State} {c : CoreId} (e : execDisptakeFree c s = .next s2) (hK : Keeps z s) :
    Keeps z s2 := by
  unfold execDisptakeFree at e
  revert e
  with_reducible repeat' first
    | assumption | exact Keeps.refl _ | (intro e; cases e; done)
    | (intro e; injection e with e; injection e with _ e; subst e) | (intro e; injection e with e; subst e)
    | apply keeps_busWrite | split | dsimp only | intro _

theorem keeps_execWorkSlotFill {z s s2 : State} {c : CoreId} (e : execWorkSlotFill c s = .next s2) (hK : Keeps z s) :
    Keeps z s2 := by
  unfold execWorkSlotFill at e
  revert e
  with_reducible repeat' first
    | assumption | exact Keeps.refl _ | (intro e; cases e; done)
    | (intro e; injection e with e; injection e with _ e; subst e) | (intro e; injection e with e; subst e)
    | apply keeps_workFill | split | dsimp only | intro _

theorem keeps_execRingTimeout {z s s2 : State} {q : Fin 256} {seq : BitVec 16} (e : execRingTimeout q seq s = .next s2) (hK : Keeps z s) :
    Keeps z s2 := by
  unfold execRingTimeout at e
  revert e
  with_reducible repeat' first
    | assumption | exact Keeps.refl _ | (intro e; cases e; done)
    | (intro e; injection e with e; injection e with _ e; subst e) | (intro e; injection e with e; subst e)
    | apply keeps_ringtoDo | split | dsimp only | intro _

theorem keeps_execFunctionLevelReset {z s s2 : State}  (e : execFunctionLevelReset s = .next s2) (hK : Keeps z s) :
    Keeps z s2 := by
  unfold execFunctionLevelReset at e
  revert e
  with_reducible repeat' first
    | assumption | exact Keeps.refl _ | (intro e; cases e; done)
    | (intro e; injection e with e; injection e with _ e; subst e) | (intro e; injection e with e; subst e)
    | apply keeps_flrDo | split | dsimp only | intro _

theorem keeps_execSpoolReplay {z s s2 : State}  (e : execSpoolReplay s = .next s2) (hK : Keeps z s) :
    Keeps z s2 := by
  unfold execSpoolReplay at e
  revert e
  with_reducible repeat' first
    | assumption | exact Keeps.refl _ | (intro e; cases e; done)
    | (intro e; injection e with e; injection e with _ e; subst e) | (intro e; injection e with e; subst e)
    | apply keeps_hlReplay | split | dsimp only | intro _

theorem keeps_barDrop {z : State} {s : State} (write : Bool) (off : Nat) (hK : Keeps z s) :
    Keeps z (barDrop s write off) := by
  unfold barDrop
  with_reducible repeat' first
    | assumption | exact Keeps.refl _ | intro _ | refine keeps_ite (fun _ => ?_) (fun _ => ?_) | apply keeps_elWrite
    | apply keeps_hostActive | split | dsimp only

theorem keeps_execBarAccessDropped {z s s2 : State} {bar2 write : Bool} {off : BitVec 16} (e : execBarAccessDropped bar2 write off s = .next s2) (hK : Keeps z s) :
    Keeps z s2 := by
  unfold execBarAccessDropped at e
  revert e
  with_reducible repeat' first
    | assumption | exact Keeps.refl _ | (intro e; cases e; done)
    | (intro e; injection e with e; injection e with _ e; subst e) | (intro e; injection e with e; subst e)
    | refine keeps_ite (fun _ => ?_) (fun _ => ?_) | apply keeps_barDrop | apply keeps_elWrite | apply keeps_emit
    | split | dsimp only | intro _

theorem keeps_elcfgWrite {z : State} {s : State} (w : Nat) (hK : Keeps z s) :
    Keeps z (elcfgWrite s w) := by
  unfold elcfgWrite
  with_reducible repeat' first
    | assumption | exact Keeps.refl _ | intro _ | refine keeps_ite (fun _ => ?_) (fun _ => ?_) | apply keeps_barPut
    | (apply legal_mk; assumption) | split | dsimp only | apply keeps_mk | apply legal_mk

theorem keeps_execElcfgAck {z s s2 : State} {w : BitVec 32} (e : execElcfgAck w s = .next s2) (hK : Keeps z s) :
    Keeps z s2 := by
  unfold execElcfgAck at e
  revert e
  with_reducible repeat' first
    | assumption | exact Keeps.refl _ | (intro e; cases e; done)
    | (intro e; injection e with e; injection e with _ e; subst e) | (intro e; injection e with e; subst e)
    | apply keeps_elcfgWrite | apply keeps_hostActive | split | dsimp only | intro _

theorem keeps_execHostSilence {z s s2 : State}  (e : execHostSilence s = .next s2) (hK : Keeps z s) :
    Keeps z s2 := by
  unfold execHostSilence at e
  revert e
  with_reducible repeat' first
    | assumption | exact Keeps.refl _ | (intro e; cases e; done)
    | (intro e; injection e with e; injection e with _ e; subst e) | (intro e; injection e with e; subst e)
    | refine keeps_ite (fun _ => ?_) (fun _ => ?_) | apply keeps_setCause | split | dsimp only | intro _

theorem keeps_mailboxLost {z : State} {s : State}  (hK : Keeps z s) :
    Keeps z (mailboxLost s) := by
  unfold mailboxLost
  with_reducible repeat' first
    | assumption | exact Keeps.refl _ | intro _ | refine keeps_ite (fun _ => ?_) (fun _ => ?_)
    | apply keeps_dbgDetach | apply keeps_setCause | split | dsimp only

theorem keeps_linkDown {z : State} {s : State}  (hK : Keeps z s) :
    Keeps z (linkDown s) := by
  unfold linkDown
  with_reducible repeat' first
    | assumption | exact Keeps.refl _ | intro _ | refine keeps_ite (fun _ => ?_) (fun _ => ?_)
    | apply keeps_mailboxLost | apply keeps_readyClear | apply keeps_setCause | split | dsimp only

theorem keeps_execLinkLoss {z s s2 : State}  (e : execLinkLoss s = .next s2) (hK : Keeps z s) :
    Keeps z s2 := by
  unfold execLinkLoss at e
  revert e
  with_reducible repeat' first
    | assumption | exact Keeps.refl _ | (intro e; cases e; done)
    | (intro e; injection e with e; injection e with _ e; subst e) | (intro e; injection e with e; subst e)
    | apply keeps_linkDown | split | dsimp only | intro _

theorem keeps_linkUp {z : State} {s : State}  (hK : Keeps z s) :
    Keeps z (linkUp s) := by
  unfold linkUp
  with_reducible repeat' first
    | assumption | exact Keeps.refl _ | intro _ | refine keeps_ite (fun _ => ?_) (fun _ => ?_) | apply keeps_hlReplay
    | apply keeps_msixFlushAll | apply keeps_readyUp | apply keeps_setCause | split | dsimp only

theorem keeps_execLinkTrained {z s s2 : State}  (e : execLinkTrained s = .next s2) (hK : Keeps z s) :
    Keeps z s2 := by
  unfold execLinkTrained at e
  revert e
  with_reducible repeat' first
    | assumption | exact Keeps.refl _ | (intro e; cases e; done)
    | (intro e; injection e with e; injection e with _ e; subst e) | (intro e; injection e with e; subst e)
    | apply keeps_linkUp | split | dsimp only | intro _

theorem keeps_execModereqWrite {z s s2 : State} {w : BitVec 32} (e : execModereqWrite w s = .next s2) (hK : Keeps z s) :
    Keeps z s2 := by
  unfold execModereqWrite at e
  revert e
  with_reducible repeat' first
    | assumption | exact Keeps.refl _ | (intro e; cases e; done)
    | (intro e; injection e with e; injection e with _ e; subst e) | (intro e; injection e with e; subst e)
    | apply keeps_hostActive | apply keeps_modeRequestDo | split | dsimp only | intro _

theorem keeps_lringLeave {z : State} {s : State}  (hK : Keeps z s) :
    Keeps z (lringLeave s) := by
  unfold lringLeave
  with_reducible repeat' first
    | assumption | exact Keeps.refl _ | intro _ | refine keeps_ite (fun _ => ?_) (fun _ => ?_)
    | apply keeps_modLedger | apply keeps_slotClear | apply keeps_foldl | (apply legal_mk; assumption) | split
    | dsimp only | apply keeps_mk | apply legal_mk

theorem keeps_lringHeadDo {z : State} {s : State} (v : Nat) (hK : Keeps z s) :
    Keeps z (lringHeadDo s v) := by
  unfold lringHeadDo
  with_reducible repeat' first
    | assumption | exact Keeps.refl _ | intro _ | apply keeps_lringLeave | apply keeps_modLedger | apply keeps_barPut
    | (apply legal_mk; assumption) | split | dsimp only | apply keeps_mk | apply legal_mk

theorem keeps_execLringHeadWrite {z s s2 : State} {v : BitVec 16} (e : execLringHeadWrite v s = .next s2) (hK : Keeps z s) :
    Keeps z s2 := by
  unfold execLringHeadWrite at e
  revert e
  with_reducible repeat' first
    | assumption | exact Keeps.refl _ | (intro e; cases e; done)
    | (intro e; injection e with e; injection e with _ e; subst e) | (intro e; injection e with e; subst e)
    | apply keeps_hostActive | apply keeps_lringHeadDo | split | dsimp only | intro _

theorem keeps_execLedgerDrain {z s s2 : State}  (e : execLedgerDrain s = .next s2) (hK : Keeps z s) :
    Keeps z s2 := by
  unfold execLedgerDrain at e
  revert e
  with_reducible repeat' first
    | assumption | exact Keeps.refl _ | (intro e; cases e; done)
    | (intro e; injection e with e; injection e with _ e; subst e) | (intro e; injection e with e; subst e)
    | refine keeps_ite (fun _ => ?_) (fun _ => ?_) | apply keeps_acAsk | apply keeps_lringLeave | split | dsimp only
    | intro _

end Sys2Proof.Machine
end

