-- ==== Sys2Proof/Laws/Keeps6.lean ====
section
/-! SUPPORT. The rows of the dispatcher, the ledger, bring-up, service, banks, modes and ciphers keep the invariant. -/

namespace Sys2Proof.Machine

/-! The tactics of these proofs are one list for every goal, so that some of them do nothing in some goals. -/
set_option linter.all false

theorem keeps_workPost {z : State} {s : State} (q seq st : Nat) (w1 w3 : Word) (hK : Keeps z s) :
    Keeps z (workPost s q seq st w1 w3) := by
  unfold workPost
  with_reducible repeat' first
    | assumption | exact Keeps.refl _ | intro _ | apply keeps_entryDone | apply keeps_lateInc | split | dsimp only

theorem keeps_heldStart {z : State} {s : State} (c : Nat) (hK : Keeps z s) :
    Keeps z (heldStart s c) := by
  unfold heldStart
  with_reducible repeat' first
    | assumption | exact Keeps.refl _ | intro _ | refine keeps_ite (fun _ => ?_) (fun _ => ?_) | apply keeps_entryPut
    | apply keeps_modCore | (apply legal_mk; assumption) | split | dsimp only | apply keeps_mk | apply legal_mk

theorem legal_workClear  {k : Core} (h : coreLegal k) : coreLegal (workClear k) := by
  unfold workClear
  with_reducible repeat' first
    | assumption | exact Keeps.refl _ | intro _ | (apply legal_mk; assumption) | split | dsimp only | apply keeps_mk
    | apply legal_mk

theorem keeps_sessIdle {z : State} {s : State} (i : Nat) (hK : Keeps z s) :
    Keeps z (sessIdle s i) := by
  unfold sessIdle
  with_reducible repeat' first
    | assumption | exact Keeps.refl _ | intro _ | apply keeps_sessPut | (apply legal_mk; assumption) | split
    | dsimp only | apply keeps_mk | apply legal_mk

theorem keeps_workDone {z : State} {s : State} (c : Nat) (w : Work) (st : Nat) (w1 w3 : Word) (hK : Keeps z s) :
    Keeps z (workDone s c w st w1 w3) := by
  unfold workDone
  with_reducible repeat' first
    | assumption | exact Keeps.refl _ | intro _ | apply keeps_heldStart | apply keeps_workPost
    | apply legal_workClear | apply keeps_modCore | split | dsimp only

theorem keeps_workEnd {z : State} {s : State} (c : Nat) (w : Work) (st r : Nat) (hK : Keeps z s) :
    Keeps z (workEnd s c w st r) := by
  unfold workEnd
  with_reducible repeat' first
    | assumption | exact Keeps.refl _ | intro _ | apply keeps_workDone | split | dsimp only

theorem keeps_workWait {z : State} {s : State} (c : Nat) (w : Work) (msg : Option Msg) (n : Nat) (hK : Keeps z s) :
    Keeps z (workWait s c w msg n) := by
  unfold workWait
  with_reducible repeat' first
    | assumption | exact Keeps.refl _ | intro _ | apply keeps_entryPut | (apply legal_mk; assumption) | split
    | dsimp only | apply keeps_mk | apply legal_mk

theorem keeps_waitDone {z : State} {s : State} (x : Waiter) (st : Nat) (w3 : Word) (hK : Keeps z s) :
    Keeps z (waitDone s x st w3) := by
  unfold waitDone
  with_reducible repeat' first
    | assumption | exact Keeps.refl _ | intro _ | refine keeps_ite (fun _ => ?_) (fun _ => ?_)
    | apply keeps_heldStart | apply keeps_sessIdle | apply keeps_workPost | apply legal_workClear
    | apply keeps_modCore | (apply legal_mk; assumption) | split | dsimp only | apply keeps_mk | apply legal_mk

theorem keeps_waitAcked {z : State} {s : State}  (hK : Keeps z s) :
    Keeps z (waitAcked s) := by
  unfold waitAcked
  with_reducible repeat' first
    | assumption | exact Keeps.refl _ | intro _ | apply keeps_waitDone | apply keeps_foldl | split | dsimp only

theorem keeps_workHold {z : State} {s : State} (c : Nat) (w : Work) (hK : Keeps z s) :
    Keeps z (workHold s c w) := by
  unfold workHold
  with_reducible repeat' first
    | assumption | exact Keeps.refl _ | intro _ | refine keeps_ite (fun _ => ?_) (fun _ => ?_) | apply keeps_entryPut
    | apply keeps_heldStart | apply legal_workClear | apply keeps_modCore | (apply legal_mk; assumption) | split
    | dsimp only | apply keeps_mk | apply legal_mk

theorem keeps_sessTake {z : State} {s : State} (i c : Nat) (hK : Keeps z s) :
    Keeps z (sessTake s i c) := by
  unfold sessTake
  with_reducible repeat' first
    | assumption | exact Keeps.refl _ | intro _ | apply keeps_sessPut | (apply legal_mk; assumption) | split
    | dsimp only | apply keeps_mk | apply legal_mk

theorem keeps_sessRec {z : State} {s : State} (c typ : Nat) (h cookie : Word) (n : Nat) (hK : Keeps z s) :
    Keeps z (sessRec s c typ h cookie n).2 := by
  unfold sessRec
  with_reducible repeat' first
    | assumption | exact Keeps.refl _ | intro _ | apply keeps_ledgCore | refine keeps_ledgCore_eq (by assumption) ?_
    | split | dsimp only
theorem keeps_sessRec_eq {z : State} {s t : State} {c typ : Nat} {h cookie : Word} {n : Nat} {b : Bool} (e : sessRec s c typ h cookie n = (b, t)) (hK : Keeps z s) :
    Keeps z t := by
  have := keeps_sessRec (z := z) c typ h cookie n hK
  rw [e] at this; exact this

theorem keeps_workRec {z : State} {s t : State} {c : Nat} {w : Work} {typ : Nat} {h : Word} {n : Nat} (e : workRec s c w typ h n = some t) (hK : Keeps z s) :
    Keeps z t := by
  unfold workRec at e
  revert e
  with_reducible repeat' first
    | assumption | exact Keeps.refl _ | (intro e; cases e; done)
    | (intro e; injection e with e; injection e with _ e; subst e) | (intro e; injection e with e; subst e)
    | refine keeps_ite (fun _ => ?_) (fun _ => ?_) | apply keeps_sessRec | refine keeps_sessRec_eq (by assumption) ?_
    | split | dsimp only | intro _

theorem keeps_bufWrite {z : State} {s : State} (v i : Nat) (ws : List Word) (hK : Keeps z s) :
    Keeps z (bufWrite s v i ws) := by
  unfold bufWrite
  with_reducible repeat' first
    | assumption | exact Keeps.refl _ | intro _ | refine keeps_ite (fun _ => ?_) (fun _ => ?_) | apply keeps_emit
    | split | dsimp only

theorem keeps_bufRead {z : State} {s : State} (v i n : Nat) (hK : Keeps z s) :
    Keeps z (bufRead s v i n) := by
  unfold bufRead
  with_reducible repeat' first
    | assumption | exact Keeps.refl _ | intro _ | refine keeps_ite (fun _ => ?_) (fun _ => ?_) | apply keeps_emit
    | split | dsimp only

theorem keeps_dispCipher {z : State} {s : State} (c func st : Nat) (hK : Keeps z s) :
    Keeps z (dispCipher s c func st) := by
  unfold dispCipher
  with_reducible repeat' first
    | assumption | exact Keeps.refl _ | intro _ | refine keeps_ite (fun _ => ?_) (fun _ => ?_)
    | apply keeps_cipherCount | apply keeps_ledgEng | apply keeps_modCore | (apply legal_mk; assumption) | split
    | dsimp only | apply keeps_mk | apply legal_mk

theorem keeps_freeWords {z : State} (n : Nat) : ∀ {s : State} (_ : Keeps z s), Keeps z (freeWords n s).2 := by
  induction n with
  | zero => intro s h; exact h
  | succ n ih => intro s h; exact ih (keeps_bump h)

theorem keeps_evict {z s : State} (j : Nat) (hK : Keeps z s) : Keeps z (evict s j) := by
  unfold evict
  dsimp only
  split
  · exact keeps_sessPut _ _ (keeps_memPutAll _ (keeps_bufWrite _ _ _ (keeps_freeWords _ (keeps_freeWords _ hK))))
  · exact hK

theorem keeps_makeWay {z : State} {s : State} (i : Nat) (hK : Keeps z s) :
    Keeps z (makeWay s i) := by
  unfold makeWay
  with_reducible repeat' first
    | assumption | exact Keeps.refl _ | intro _ | refine keeps_ite (fun _ => ?_) (fun _ => ?_) | apply keeps_evict
    | split | dsimp only

theorem keeps_sessOpenAt {z : State} {s : State} (i : Nat) (cold : Option Nat) (ws : List Word) (hK : Keeps z s) :
    Keeps z (sessOpenAt s i cold ws) := by
  unfold sessOpenAt
  with_reducible repeat' first
    | assumption | exact Keeps.refl _ | intro _ | apply keeps_makeWay | apply keeps_memPutAll | apply keeps_sessPut
    | apply keeps_sessTouch | apply keeps_memPut | (apply legal_mk; assumption) | split | dsimp only | apply keeps_mk
    | apply legal_mk

theorem keeps_sessCloseAt {z : State} {s : State} (i : Nat) (hK : Keeps z s) :
    Keeps z (sessCloseAt s i) := by
  unfold sessCloseAt
  with_reducible repeat' first
    | assumption | exact Keeps.refl _ | intro _ | refine keeps_ite (fun _ => ?_) (fun _ => ?_)
    | apply keeps_memPutAll | apply keeps_sessPut | apply keeps_memPut | (apply legal_mk; assumption) | split
    | dsimp only | apply keeps_mk | apply legal_mk

theorem keeps_hotPut {z : State} {s : State} (i j : Nat) (x : Word) (hK : Keeps z s) :
    Keeps z (hotPut s i j x) := by
  unfold hotPut
  with_reducible repeat' first
    | assumption | exact Keeps.refl _ | intro _ | apply keeps_memPut | split | dsimp only

theorem keeps_failEntries {z : State} {s : State} (i : Nat) (hK : Keeps z s) :
    Keeps z (failEntries s i) := by
  unfold failEntries
  with_reducible repeat' first
    | assumption | exact Keeps.refl _ | intro _ | refine keeps_ite (fun _ => ?_) (fun _ => ?_)
    | apply keeps_entryDone | apply keeps_heldStart | apply legal_workClear | apply keeps_modCore | apply keeps_foldl
    | (apply legal_mk; assumption) | split | dsimp only | apply keeps_mk | apply legal_mk

theorem keeps_reloadDo {z : State} {s : State} (c i : Nat) (slot : List Word) (macSt keySt : Nat) (key : Payload) (hK : Keeps z s) :
    Keeps z (reloadDo s c i slot macSt keySt key) := by
  unfold reloadDo
  with_reducible repeat' first
    | assumption | exact Keeps.refl _ | intro _ | refine keeps_ite (fun _ => ?_) (fun _ => ?_) | apply keeps_bufRead
    | apply keeps_dispCipher | apply keeps_failEntries | apply keeps_makeWay | apply keeps_memPutAll
    | apply keeps_sessPut | apply keeps_sessRec | refine keeps_sessRec_eq (by assumption) ?_ | apply keeps_sessTouch
    | apply keeps_memPut | (apply legal_mk; assumption) | split | dsimp only | apply keeps_mk | apply legal_mk

theorem keeps_execNopEntry {z s s2 : State} {c : CoreId} (e : execNopEntry c s = .next s2) (hK : Keeps z s) :
    Keeps z s2 := by
  unfold execNopEntry at e
  revert e
  with_reducible repeat' first
    | assumption | exact Keeps.refl _ | (intro e; cases e; done)
    | (intro e; injection e with e; injection e with _ e; subst e) | (intro e; injection e with e; subst e)
    | apply keeps_workEnd | split | dsimp only | intro _

theorem keeps_sessionOpenDo {z : State} {s : State} (c : Nat) (w : Work) (st : Nat) (key : Payload) (hK : Keeps z s) :
    Keeps z (sessionOpenDo s c w st key) := by
  unfold sessionOpenDo
  with_reducible repeat' first
    | assumption | exact Keeps.refl _ | intro _ | refine keeps_ite (fun _ => ?_) (fun _ => ?_) | apply keeps_bufRead
    | apply keeps_dispCipher | apply keeps_sessOpenAt | apply keeps_workDone | apply keeps_workEnd
    | refine keeps_workRec (by assumption) ?_ | split | dsimp only

theorem keeps_execSessionOpen {z s s2 : State} {c : CoreId} {st : BitVec 3} {key : Payload} (e : execSessionOpen c st key s = .next s2) (hK : Keeps z s) :
    Keeps z s2 := by
  unfold execSessionOpen at e
  revert e
  with_reducible repeat' first
    | assumption | exact Keeps.refl _ | (intro e; cases e; done)
    | (intro e; injection e with e; injection e with _ e; subst e) | (intro e; injection e with e; subst e)
    | apply keeps_sessionOpenDo | split | dsimp only | intro _

theorem keeps_execContextReload {z s s2 : State} {c : CoreId} {idx : BitVec 20} {slot : List Word} {macSt keySt : BitVec 3} {key : Payload} (e : execContextReload c idx slot macSt keySt key s = .next s2) (hK : Keeps z s) :
    Keeps z s2 := by
  unfold execContextReload at e
  revert e
  with_reducible repeat' first
    | assumption | exact Keeps.refl _ | (intro e; cases e; done)
    | (intro e; injection e with e; injection e with _ e; subst e) | (intro e; injection e with e; subst e)
    | refine keeps_ite (fun _ => ?_) (fun _ => ?_) | apply keeps_reloadDo | split | dsimp only | intro _

theorem keeps_sessionCloseDo {z : State} {s : State} (c : Nat) (w : Work) (hK : Keeps z s) :
    Keeps z (sessionCloseDo s c w) := by
  unfold sessionCloseDo
  with_reducible repeat' first
    | assumption | exact Keeps.refl _ | intro _ | apply keeps_sessCloseAt | apply keeps_workEnd
    | refine keeps_workRec (by assumption) ?_ | split | dsimp only

theorem keeps_execSessionClose {z s s2 : State} {c : CoreId} (e : execSessionClose c s = .next s2) (hK : Keeps z s) :
    Keeps z s2 := by
  unfold execSessionClose at e
  revert e
  with_reducible repeat' first
    | assumption | exact Keeps.refl _ | (intro e; cases e; done)
    | (intro e; injection e with e; injection e with _ e; subst e) | (intro e; injection e with e; subst e)
    | refine keeps_ite (fun _ => ?_) (fun _ => ?_) | apply keeps_sessionCloseDo | apply keeps_workEnd
    | apply keeps_workHold | split | dsimp only | intro _

theorem keeps_sendImage {z : State} {s : State} (c p : Nat) (img : List Byte) (off : Nat) (hK : Keeps z s) :
    Keeps z (sendImage s c p img off) := by
  unfold sendImage
  with_reducible repeat' first
    | assumption | exact Keeps.refl _ | intro _ | refine keeps_ite (fun _ => ?_) (fun _ => ?_) | apply keeps_coreSend
    | apply keeps_memPutAll | apply keeps_memPut | split | dsimp only

theorem keeps_sendDo {z : State} {s : State} (c : Nat) (w : Work) (msg : List Byte) (st : Nat) (out : List Byte) (hK : Keeps z s) :
    Keeps z (sendDo s c w msg st out) := by
  unfold sendDo
  with_reducible repeat' first
    | assumption | exact Keeps.refl _ | intro _ | refine keeps_ite (fun _ => ?_) (fun _ => ?_) | apply keeps_bufRead
    | apply keeps_dispCipher | apply keeps_hotPut | apply keeps_sendImage | apply keeps_sessTake
    | apply keeps_sessTouch | apply keeps_workEnd | refine keeps_workRec (by assumption) ?_ | apply keeps_workWait
    | apply keeps_bump | split | dsimp only

theorem keeps_execSend {z s s2 : State} {c : CoreId} {msg : List Byte} {st : BitVec 3} {cipherText : List Byte} (e : execSend c msg st cipherText s = .next s2) (hK : Keeps z s) :
    Keeps z s2 := by
  unfold execSend at e
  revert e
  with_reducible repeat' first
    | assumption | exact Keeps.refl _ | (intro e; cases e; done)
    | (intro e; injection e with e; injection e with _ e; subst e) | (intro e; injection e with e; subst e)
    | refine keeps_ite (fun _ => ?_) (fun _ => ?_) | apply keeps_sendDo | apply keeps_workEnd | apply keeps_workHold
    | split | dsimp only | intro _

theorem keeps_postRecvStart {z : State} {s : State} (c : Nat) (w : Work) (hK : Keeps z s) :
    Keeps z (postRecvStart s c w) := by
  unfold postRecvStart
  with_reducible repeat' first
    | assumption | exact Keeps.refl _ | intro _ | refine keeps_ite (fun _ => ?_) (fun _ => ?_)
    | apply keeps_heldStart | apply keeps_workEnd | apply keeps_workHold | apply keeps_workWait
    | apply legal_workClear | apply keeps_modCore | split | dsimp only

theorem keeps_postRecvDone {z : State} {s : State} (c : Nat) (x : Waiter) (msg : List Byte) (hK : Keeps z s) :
    Keeps z (postRecvDone s c x msg) := by
  unfold postRecvDone
  with_reducible repeat' first
    | assumption | exact Keeps.refl _ | intro _ | refine keeps_ite (fun _ => ?_) (fun _ => ?_) | apply keeps_bufWrite
    | apply keeps_hotPut | apply keeps_waitDone | refine keeps_workRec (by assumption) ?_ | split | dsimp only

theorem keeps_execPostRecv {z s s2 : State} {c : CoreId} {msg : Option (List Byte)} (e : execPostRecv c msg s = .next s2) (hK : Keeps z s) :
    Keeps z s2 := by
  unfold execPostRecv at e
  revert e
  with_reducible repeat' first
    | assumption | exact Keeps.refl _ | (intro e; cases e; done)
    | (intro e; injection e with e; injection e with _ e; subst e) | (intro e; injection e with e; subst e)
    | apply keeps_postRecvDone | apply keeps_postRecvStart | split | dsimp only | intro _

theorem keeps_measureStart {z : State} {s : State} (c : Nat) (w : Work) (hK : Keeps z s) :
    Keeps z (measureStart s c w) := by
  unfold measureStart
  with_reducible repeat' first
    | assumption | exact Keeps.refl _ | intro _ | refine keeps_ite (fun _ => ?_) (fun _ => ?_)
    | apply keeps_heldStart | apply keeps_workEnd | apply keeps_workWait | apply legal_workClear
    | apply keeps_modCore | split | dsimp only

theorem keeps_measureMore {z : State} {s : State} (x : Waiter) (l : List (Word × Word)) (hK : Keeps z s) :
    Keeps z (measureMore s x l) := by
  unfold measureMore
  with_reducible repeat' first
    | assumption | exact Keeps.refl _ | intro _ | refine keeps_ite (fun _ => ?_) (fun _ => ?_) | apply keeps_bufWrite
    | apply keeps_waitDone | (apply legal_mk; assumption) | split | dsimp only | apply keeps_mk | apply legal_mk

theorem keeps_execMeasure {z s s2 : State} {c : CoreId} {samples : List (Word × Word)} (e : execMeasure c samples s = .next s2) (hK : Keeps z s) :
    Keeps z s2 := by
  unfold execMeasure at e
  revert e
  with_reducible repeat' first
    | assumption | exact Keeps.refl _ | (intro e; cases e; done)
    | (intro e; injection e with e; injection e with _ e; subst e) | (intro e; injection e with e; subst e)
    | refine keeps_ite (fun _ => ?_) (fun _ => ?_) | apply keeps_measureMore | apply keeps_measureStart | split
    | dsimp only | intro _

theorem keeps_execActuate {z s s2 : State} {c : CoreId} (e : execActuate c s = .next s2) (hK : Keeps z s) :
    Keeps z s2 := by
  unfold execActuate at e
  revert e
  with_reducible repeat' first
    | assumption | exact Keeps.refl _ | (intro e; cases e; done)
    | (intro e; injection e with e; injection e with _ e; subst e) | (intro e; injection e with e; subst e)
    | refine keeps_ite (fun _ => ?_) (fun _ => ?_) | apply keeps_coreSend | apply keeps_workEnd
    | refine keeps_workRec (by assumption) ?_ | apply keeps_workWait | split | dsimp only | intro _

theorem keeps_handlerEnter {z s : State} (c : Nat) (w : Work) (t : Link) (invoke : Bool) (hK : Keeps z s) :
    Keeps z (handlerEnter s c w t invoke) := by
  unfold handlerEnter
  extract_lets s1 s2
  have h1 : Keeps z s1 := by
    refine keeps_modCore _ _ hK fun hk => ?_
    dsimp only
    with_reducible apply legal_mkAny
    · have := legal_foldPut (List.range 8) (fun k => k.cur) (fun i => 24 + i) (fun i => w.at i)
        (k := { coreOf s c with home := some ⟨(coreOf s c).mpc, (coreOf s c).cur, (coreOf s c).live, (coreOf s c).mw,
          (coreOf s c).slots, (coreOf s c).wait⟩ }) (legal_mk hk)
      have h4 : _ < 4 := And.left this
      exact h4
    · exact Nat.mod_lt _ (Nat.zero_lt_succ 15)
  have h2 : Keeps z s2 := keeps_ite (fun _ => keeps_ctxswDo _ _ h1) (fun _ => h1)
  exact keeps_modCore _ _ h2 fun hk => ⟨Nat.le_of_ble_eq_true rfl, hk.2⟩

theorem keeps_invokeDo {z : State} {s : State} (c : Nat) (w : Work) (hK : Keeps z s) :
    Keeps z (invokeDo s c w) := by
  unfold invokeDo
  with_reducible repeat' first
    | assumption | exact Keeps.refl _ | intro _ | apply keeps_handlerEnter | apply keeps_sessTake
    | apply keeps_workEnd | refine keeps_workRec (by assumption) ?_ | split | dsimp only

theorem keeps_execInvoke {z s s2 : State} {c : CoreId} (e : execInvoke c s = .next s2) (hK : Keeps z s) :
    Keeps z s2 := by
  unfold execInvoke at e
  revert e
  with_reducible repeat' first
    | assumption | exact Keeps.refl _ | (intro e; cases e; done)
    | (intro e; injection e with e; injection e with _ e; subst e) | (intro e; injection e with e; subst e)
    | refine keeps_ite (fun _ => ?_) (fun _ => ?_) | apply keeps_invokeDo | apply keeps_workEnd
    | apply keeps_workHold | split | dsimp only | intro _

theorem keeps_execMicrocodeEntry {z s s2 : State} {c : CoreId} (e : execMicrocodeEntry c s = .next s2) (hK : Keeps z s) :
    Keeps z s2 := by
  unfold execMicrocodeEntry at e
  revert e
  with_reducible repeat' first
    | assumption | exact Keeps.refl _ | (intro e; cases e; done)
    | (intro e; injection e with e; injection e with _ e; subst e) | (intro e; injection e with e; subst e)
    | refine keeps_ite (fun _ => ?_) (fun _ => ?_) | apply keeps_handlerEnter | apply keeps_workEnd
    | refine keeps_workRec (by assumption) ?_ | split | dsimp only | intro _

theorem keeps_execLedgerRead {z s s2 : State} {c : CoreId} (e : execLedgerRead c s = .next s2) (hK : Keeps z s) :
    Keeps z s2 := by
  unfold execLedgerRead at e
  revert e
  with_reducible repeat' first
    | assumption | exact Keeps.refl _ | (intro e; cases e; done)
    | (intro e; injection e with e; injection e with _ e; subst e) | (intro e; injection e with e; subst e)
    | refine keeps_ite (fun _ => ?_) (fun _ => ?_) | apply keeps_bufWrite | apply keeps_workEnd | split | dsimp only
    | intro _

theorem keeps_timeEnd {z : State} {s : State} (c : Nat) (w : Work) (hK : Keeps z s) :
    Keeps z (timeEnd s c w) := by
  unfold timeEnd
  with_reducible repeat' first
    | assumption | exact Keeps.refl _ | intro _ | refine keeps_ite (fun _ => ?_) (fun _ => ?_) | apply keeps_bufWrite
    | apply keeps_captureDo | apply keeps_workDone | apply keeps_workEnd | split | dsimp only

theorem keeps_execTimeEntry {z s s2 : State} {c : CoreId} (e : execTimeEntry c s = .next s2) (hK : Keeps z s) :
    Keeps z s2 := by
  unfold execTimeEntry at e
  revert e
  with_reducible repeat' first
    | assumption | exact Keeps.refl _ | (intro e; cases e; done)
    | (intro e; injection e with e; injection e with _ e; subst e) | (intro e; injection e with e; subst e)
    | refine keeps_ite (fun _ => ?_) (fun _ => ?_) | apply keeps_timeEnd | split | dsimp only | intro _

theorem keeps_execTimeSet {z s s2 : State} {c : CoreId} (e : execTimeSet c s = .next s2) (hK : Keeps z s) :
    Keeps z s2 := by
  unfold execTimeSet at e
  revert e
  with_reducible repeat' first
    | assumption | exact Keeps.refl _ | (intro e; cases e; done)
    | (intro e; injection e with e; injection e with _ e; subst e) | (intro e; injection e with e; subst e)
    | refine keeps_ite (fun _ => ?_) (fun _ => ?_) | apply keeps_tbSet | apply keeps_timeEnd | apply keeps_workEnd
    | apply keeps_ioPut | split | dsimp only | intro _

theorem keeps_execConfigRead {z s s2 : State} {c : CoreId} (e : execConfigRead c s = .next s2) (hK : Keeps z s) :
    Keeps z s2 := by
  unfold execConfigRead at e
  revert e
  with_reducible repeat' first
    | assumption | exact Keeps.refl _ | (intro e; cases e; done)
    | (intro e; injection e with e; injection e with _ e; subst e) | (intro e; injection e with e; subst e)
    | refine keeps_ite (fun _ => ?_) (fun _ => ?_) | apply keeps_workEnd | split | dsimp only | intro _

theorem keeps_configPut {z : State} {s : State} (i v base : Nat) (hK : Keeps z s) :
    Keeps z (configPut s i v base) := by
  unfold configPut
  with_reducible repeat' first
    | assumption | exact Keeps.refl _ | intro _ | refine keeps_ite (fun _ => ?_) (fun _ => ?_)
    | (apply legal_mk; assumption) | split | dsimp only | apply keeps_mk | apply legal_mk

theorem keeps_execConfigWrite {z s s2 : State} {c : CoreId} (e : execConfigWrite c s = .next s2) (hK : Keeps z s) :
    Keeps z s2 := by
  unfold execConfigWrite at e
  revert e
  with_reducible repeat' first
    | assumption | exact Keeps.refl _ | (intro e; cases e; done)
    | (intro e; injection e with e; injection e with _ e; subst e) | (intro e; injection e with e; subst e)
    | refine keeps_ite (fun _ => ?_) (fun _ => ?_) | apply keeps_configPut | apply keeps_workEnd | split | dsimp only
    | intro _

theorem keeps_execModeRequest {z s s2 : State} {c : CoreId} (e : execModeRequest c s = .next s2) (hK : Keeps z s) :
    Keeps z s2 := by
  unfold execModeRequest at e
  revert e
  with_reducible repeat' first
    | assumption | exact Keeps.refl _ | (intro e; cases e; done)
    | (intro e; injection e with e; injection e with _ e; subst e) | (intro e; injection e with e; subst e)
    | refine keeps_ite (fun _ => ?_) (fun _ => ?_) | apply keeps_modeRequestDo | apply keeps_workEnd | split
    | dsimp only | intro _

theorem keeps_execAbortEntry {z s s2 : State} {c : CoreId} (e : execAbortEntry c s = .next s2) (hK : Keeps z s) :
    Keeps z s2 := by
  unfold execAbortEntry at e
  revert e
  with_reducible repeat' first
    | assumption | exact Keeps.refl _ | (intro e; cases e; done)
    | (intro e; injection e with e; injection e with _ e; subst e) | (intro e; injection e with e; subst e)
    | refine keeps_ite (fun _ => ?_) (fun _ => ?_) | apply keeps_entryDone | apply keeps_waitDone
    | apply keeps_workEnd | split | dsimp only | intro _

theorem keeps_shimScrub {z : State} {s : State} (n : Nat) (hK : Keeps z s) :
    Keeps z (shimScrub s n) := by
  unfold shimScrub
  with_reducible repeat' first
    | assumption | exact Keeps.refl _ | intro _ | (apply legal_mk; assumption) | split | dsimp only | apply keeps_mk
    | apply keeps_mkMem | apply legal_mk

theorem keeps_shimLine {z : State} {s : State} (r : Nat × List (BitVec 40)) (hK : Keeps z s) :
    Keeps z (shimLine s r) := by
  unfold shimLine
  with_reducible repeat' first
    | assumption | exact Keeps.refl _ | intro _ | apply keeps_csPut | apply keeps_foldl
    | (apply legal_mk; assumption) | split | dsimp only | apply keeps_mk | apply legal_mk

theorem keeps_shimEnd {z : State} {s : State} (seq code : Nat) (hK : Keeps z s) :
    Keeps z (shimEnd s seq code) := by
  unfold shimEnd
  with_reducible repeat' first
    | assumption | exact Keeps.refl _ | intro _ | apply keeps_ioSetB | apply keeps_ioSetF | apply keeps_ledgEng
    | split | dsimp only

theorem keeps_shimLoadDo {z : State} {s : State} (c : Nat) (w : Work) (im : List (BitVec 64)) (macSt : Nat) (hK : Keeps z s) :
    Keeps z (shimLoadDo s c w im macSt) := by
  unfold shimLoadDo
  with_reducible repeat' first
    | assumption | exact Keeps.refl _ | intro _ | refine keeps_ite (fun _ => ?_) (fun _ => ?_) | apply keeps_bufRead
    | apply keeps_cipherCount | apply keeps_ioInc | apply keeps_ioSetB | apply keeps_shimEnd | apply keeps_shimLine
    | apply keeps_shimScrub | apply keeps_workEnd | apply keeps_workWait | apply keeps_foldl
    | (apply legal_mk; assumption) | split | dsimp only | apply keeps_mk | apply legal_mk

theorem keeps_execShimLoad {z s s2 : State} {c : CoreId} {image : List (BitVec 64)} {macSt : BitVec 3} (e : execShimLoad c image macSt s = .next s2) (hK : Keeps z s) :
    Keeps z s2 := by
  unfold execShimLoad at e
  revert e
  with_reducible repeat' first
    | assumption | exact Keeps.refl _ | (intro e; cases e; done)
    | (intro e; injection e with e; injection e with _ e; subst e) | (intro e; injection e with e; subst e)
    | refine keeps_ite (fun _ => ?_) (fun _ => ?_) | apply keeps_shimLoadDo | apply keeps_workEnd | split
    | dsimp only | intro _

theorem keeps_patchPut {z : State} {s : State} (t : List (Nat × Nat × Nat)) (hK : Keeps z s) :
    Keeps z (patchPut s t) := by
  unfold patchPut
  with_reducible repeat' first
    | assumption | exact Keeps.refl _ | intro _ | apply keeps_ioPut | apply keeps_foldl | split | dsimp only

theorem keeps_setupHook {z s : State} (hK : Keeps z s) : Keeps z (setupHook s) := by
  unfold setupHook
  dsimp only
  refine keeps_ite (fun _ => keeps_mk hK) (fun _ => ?_)
  exact keeps_modCore _ _ (keeps_rsPush _ _ (keeps_mk hK)) fun hk => ⟨Nat.zero_lt_succ 3, hk.2⟩

theorem keeps_execShimCutOver {z s s2 : State}  (e : execShimCutOver s = .next s2) (hK : Keeps z s) :
    Keeps z s2 := by
  unfold execShimCutOver at e
  revert e
  with_reducible repeat' first
    | assumption | exact Keeps.refl _ | (intro e; cases e; done)
    | (intro e; injection e with e; injection e with _ e; subst e) | (intro e; injection e with e; subst e)
    | apply keeps_patchPut | apply keeps_raise | apply keeps_setupHook | apply keeps_shimEnd | apply keeps_waitDone
    | apply keeps_ioPut | (apply legal_mk; assumption) | split | dsimp only | apply keeps_mk | apply legal_mk
    | intro _

theorem keeps_gateAnswer {z : State} {s : State} (c : Nat) (ws : List Word) (r : Word) (hK : Keeps z s) :
    Keeps z (gateAnswer s c ws r) := by
  unfold gateAnswer
  with_reducible repeat' first
    | assumption | exact Keeps.refl _ | intro _ | apply keeps_gretApply | apply legal_regPut | apply keeps_modCore
    | split | dsimp only

theorem keeps_gateOpenDo {z : State} {s : State} (c : Nat) (ws : List Word) (hK : Keeps z s) :
    Keeps z (gateOpenDo s c ws) := by
  unfold gateOpenDo
  with_reducible repeat' first
    | assumption | exact Keeps.refl _ | intro _ | refine keeps_ite (fun _ => ?_) (fun _ => ?_)
    | apply keeps_gateAnswer | apply keeps_sessOpenAt | apply keeps_sessRec
    | refine keeps_sessRec_eq (by assumption) ?_ | refine keeps_unsolSend (by assumption) ?_ | split | dsimp only

theorem keeps_execGateSessOpen {z s s2 : State} {c : CoreId} (e : execGateSessOpen c s = .next s2) (hK : Keeps z s) :
    Keeps z s2 := by
  unfold execGateSessOpen at e
  revert e
  with_reducible repeat' first
    | assumption | exact Keeps.refl _ | (intro e; cases e; done)
    | (intro e; injection e with e; injection e with _ e; subst e) | (intro e; injection e with e; subst e)
    | refine keeps_ite (fun _ => ?_) (fun _ => ?_) | apply keeps_gateAnswer | apply keeps_gateOpenDo | split
    | dsimp only | intro _

theorem keeps_gateHotDo {z : State} {s : State} (c : Nat) (ws : List Word) (h : Word) (acquire : Bool) (hK : Keeps z s) :
    Keeps z (gateHotDo s c ws h acquire) := by
  unfold gateHotDo
  with_reducible repeat' first
    | assumption | exact Keeps.refl _ | intro _ | refine keeps_ite (fun _ => ?_) (fun _ => ?_)
    | apply keeps_gateAnswer | apply keeps_sessIdle | apply keeps_sessTake | apply keeps_sessTouch | split
    | dsimp only

theorem keeps_execGateSessHot {z s s2 : State} {c : CoreId} (e : execGateSessHot c s = .next s2) (hK : Keeps z s) :
    Keeps z s2 := by
  unfold execGateSessHot at e
  revert e
  with_reducible repeat' first
    | assumption | exact Keeps.refl _ | (intro e; cases e; done)
    | (intro e; injection e with e; injection e with _ e; subst e) | (intro e; injection e with e; subst e)
    | refine keeps_ite (fun _ => ?_) (fun _ => ?_) | apply keeps_gateAnswer | apply keeps_gateHotDo | split
    | dsimp only | intro _

theorem legal_homeReturn (c : Nat) {k : Core} (h : coreLegal k) : coreLegal (homeReturn c k) := by
  unfold homeReturn
  split
  · exact legal_Core_idle _ h
  · exact ⟨Nat.zero_lt_succ 3, Nat.mod_lt _ (Nat.zero_lt_succ 15)⟩

theorem keeps_gateDoneDo {z : State} {s : State} (c : Nat) (ws : List Word) (hK : Keeps z s) :
    Keeps z (gateDoneDo s c ws) := by
  unfold gateDoneDo
  with_reducible repeat' first
    | assumption | exact Keeps.refl _ | intro _ | refine keeps_ite (fun _ => ?_) (fun _ => ?_) | apply keeps_ctxswDo
    | apply keeps_entryDone | apply keeps_gretApply | apply keeps_heldStart | apply keeps_sessFree
    | apply legal_homeReturn | apply legal_workClear | apply keeps_modCore | split | dsimp only

theorem keeps_execGateDone {z s s2 : State} {c : CoreId} (e : execGateDone c s = .next s2) (hK : Keeps z s) :
    Keeps z s2 := by
  unfold execGateDone at e
  revert e
  with_reducible repeat' first
    | assumption | exact Keeps.refl _ | (intro e; cases e; done)
    | (intro e; injection e with e; injection e with _ e; subst e) | (intro e; injection e with e; subst e)
    | apply keeps_gateDoneDo | split | dsimp only | intro _

theorem keeps_execSealDone {z s s2 : State} {st : BitVec 3} {mac : BitVec 128} (e : execSealDone st mac s = .next s2) (hK : Keeps z s) :
    Keeps z s2 := by
  unfold execSealDone at e
  revert e
  with_reducible repeat' first
    | assumption | exact Keeps.refl _ | (intro e; cases e; done)
    | (intro e; injection e with e; injection e with _ e; subst e) | (intro e; injection e with e; subst e)
    | refine keeps_ite (fun _ => ?_) (fun _ => ?_) | apply keeps_jobDone | apply keeps_sealEnd | split | dsimp only
    | intro _

theorem keeps_anchorTell {z : State} {s : State} (r : Nat) (hK : Keeps z s) :
    Keeps z (anchorTell s r) := by
  unfold anchorTell
  with_reducible repeat' first
    | assumption | exact Keeps.refl _ | intro _ | refine keeps_ite (fun _ => ?_) (fun _ => ?_) | apply keeps_waitDone
    | apply keeps_foldl | split | dsimp only

theorem keeps_anchorRefuse {z : State} {s : State} (r : Nat) (hK : Keeps z s) :
    Keeps z (anchorRefuse s r) := by
  unfold anchorRefuse
  with_reducible repeat' first
    | assumption | exact Keeps.refl _ | intro _ | apply keeps_ledgEng | split | dsimp only

theorem keeps_chainAll {z : State} (n : Nat) : ∀  (s : State) (_ : Keeps z s),
    Keeps z (chainAll  n s) := by
  induction n with
  | zero =>
    intros
    unfold chainAll
    with_reducible repeat' first
      | assumption | exact Keeps.refl _ | intro _ | apply keeps_recChain | split | dsimp only
  | succ n ih =>
    intros
    unfold chainAll
    with_reducible repeat' first
      | assumption | exact Keeps.refl _ | intro _ | apply ih | apply keeps_recChain | split | dsimp only

theorem keeps_anchorDo {z : State} {s : State} (next : Nat) (h : BitVec 256) (q src : Nat) (st : Nat) (mac : BitVec 128) (hK : Keeps z s) :
    Keeps z (anchorDo s next h q src st mac) := by
  unfold anchorDo
  with_reducible repeat' first
    | assumption | exact Keeps.refl _ | intro _ | refine keeps_ite (fun _ => ?_) (fun _ => ?_)
    | apply keeps_anchorTell | apply keeps_chainAll | apply keeps_checkpointNow | apply keeps_cipherCount
    | apply keeps_ioSetF | apply keeps_ledgSeqPut | apply keeps_modLedger | apply keeps_readyUp | apply keeps_recNow
    | apply keeps_sealFail | apply keeps_ioPut | (apply legal_mk; assumption) | split | dsimp only | apply keeps_mk
    | apply legal_mk

theorem keeps_execAnchoring {z s s2 : State} {burnt : Bool} {st : BitVec 3} {mac : BitVec 128} (e : execAnchoring burnt st mac s = .next s2) (hK : Keeps z s) :
    Keeps z s2 := by
  unfold execAnchoring at e
  revert e
  with_reducible repeat' first
    | assumption | exact Keeps.refl _ | (intro e; cases e; done)
    | (intro e; injection e with e; injection e with _ e; subst e) | (intro e; injection e with e; subst e)
    | refine keeps_ite (fun _ => ?_) (fun _ => ?_) | apply keeps_anchorDo | apply keeps_anchorRefuse
    | apply keeps_anchorTell | apply keeps_dhCfg | apply keeps_ioSetF | apply keeps_modLedger | apply keeps_spoolRoom
    | (apply legal_mk; assumption) | split | dsimp only | apply keeps_mk | apply legal_mk | intro _

theorem keeps_execLedgkeyWrite {z s t : State} {c : CoreId} {w : Word} {macOld macNew : BitVec 128}
    (e : execLedgkeyWrite c w macOld macNew s = .next t) (hK : Keeps z s) : Keeps z t := by
  injection e with e
  subst e
  exact keeps_busWriteWith _ _ _ _ (fun _ _ e => by injection e with e; subst e; exact keeps_ledgKeyDo _ _ _ hK) hK

theorem keeps_execLedgprove {z s t : State} {c : CoreId} {w : Word} {st : BitVec 3} {mac : BitVec 128}
    (e : execLedgprove c w st mac s = .next t) (hK : Keeps z s) : Keeps z t := by
  injection e with e
  subst e
  exact keeps_busWriteWith _ _ _ _ (fun _ _ e => by injection e with e; subst e; exact keeps_proveDo _ _ _ _ _ hK) hK

theorem keeps_widenMasks {z : State} {s : State} (k : Nat) (hK : Keeps z s) :
    Keeps z (widenMasks s k) := by
  unfold widenMasks
  with_reducible repeat' first
    | assumption | exact Keeps.refl _ | intro _ | refine keeps_ite (fun _ => ?_) (fun _ => ?_) | apply keeps_ioSetB
    | apply keeps_foldl | split | dsimp only

theorem keeps_idleStart {z : State} {s : State} (k : Nat) (hK : Keeps z s) :
    Keeps z (idleStart s k) := by
  unfold idleStart
  with_reducible repeat' first
    | assumption | exact Keeps.refl _ | intro _ | apply keeps_hubEval | apply keeps_ioSetF | apply keeps_widenMasks
    | apply legal_Core_idle | apply keeps_modCore | (apply legal_mk; assumption) | split | dsimp only
    | apply keeps_mk | apply legal_mk

theorem keeps_leaveKerf {z : State} {s : State} (k : Nat) (hK : Keeps z s) :
    Keeps z (leaveKerf s k) := by
  unfold leaveKerf
  with_reducible repeat' first
    | assumption | exact Keeps.refl _ | intro _ | apply keeps_ioSetB | split | dsimp only

theorem keeps_stfailPut {z : State} {s : State} (k : Nat) (b : Bool) (hK : Keeps z s) :
    Keeps z (stfailPut s k b) := by
  unfold stfailPut
  with_reducible repeat' first
    | assumption | exact Keeps.refl _ | intro _ | apply keeps_ioSetB | split | dsimp only

theorem keeps_testFail {z : State} {s : State} (k : Nat) (hK : Keeps z s) :
    Keeps z (testFail s k) := by
  unfold testFail
  with_reducible repeat' first
    | assumption | exact Keeps.refl _ | intro _ | refine keeps_ite (fun _ => ?_) (fun _ => ?_) | apply keeps_ioSetF
    | apply keeps_kerf | apply keeps_stfailPut | apply keeps_modCore | (apply legal_mk; assumption) | split
    | dsimp only | apply keeps_mk | apply legal_mk

theorem keeps_testPass {z : State} {s : State} (k t : Nat) (hK : Keeps z s) :
    Keeps z (testPass s k t) := by
  unfold testPass
  with_reducible repeat' first
    | assumption | exact Keeps.refl _ | intro _ | refine keeps_ite (fun _ => ?_) (fun _ => ?_)
    | apply keeps_idleStart | apply keeps_leaveKerf | apply keeps_parkHard | apply keeps_stfailPut
    | apply keeps_modCore | (apply legal_mk; assumption) | split | dsimp only | apply keeps_mk | apply legal_mk

theorem keeps_selfTestEnd {z : State} {s : State} (k : Nat) (pass : Bool) (hK : Keeps z s) :
    Keeps z (selfTestEnd s k pass) := by
  unfold selfTestEnd
  with_reducible repeat' first
    | assumption | exact Keeps.refl _ | intro _ | refine keeps_ite (fun _ => ?_) (fun _ => ?_)
    | apply keeps_clusterReport | apply keeps_elWrite | apply keeps_hubEval | apply keeps_skerfFollow
    | apply keeps_standbyFollow | apply keeps_testFail | apply keeps_testPass | split | dsimp only

theorem keeps_coreOff {z : State} {s : State} (c : Nat) (hK : Keeps z s) :
    Keeps z (coreOff s c) := by
  unfold coreOff
  with_reducible repeat' first
    | assumption | exact Keeps.refl _ | intro _ | apply keeps_coreReset | apply keeps_setCoreState
    | apply keeps_storeDrainAll | apply keeps_modCore | apply keeps_setCore | (apply legal_mk; assumption) | split
    | dsimp only | apply keeps_mk | apply legal_mk

theorem keeps_clusterDown {z : State} {s : State} (n : Nat) (hK : Keeps z s) :
    Keeps z (clusterDown s n) := by
  unfold clusterDown
  with_reducible repeat' first
    | assumption | exact Keeps.refl _ | intro _ | refine keeps_ite (fun _ => ?_) (fun _ => ?_)
    | apply keeps_clusterReport | apply keeps_coreOff | apply keeps_hubEval | apply keeps_ioSetB
    | apply keeps_lockSet | apply keeps_standbyFollow | apply keeps_foldl | (apply legal_mk; assumption) | split
    | dsimp only | apply keeps_mk | apply legal_mk

theorem keeps_clusterResetDo {z : State} {s : State} (n : Nat) (hK : Keeps z s) :
    Keeps z (clusterResetDo s n) := by
  unfold clusterResetDo
  with_reducible repeat' first
    | assumption | exact Keeps.refl _ | intro _ | refine keeps_ite (fun _ => ?_) (fun _ => ?_)
    | apply keeps_clusterReport | apply keeps_coreReset | apply keeps_hubEval | apply keeps_lockSet
    | apply keeps_setCoreState | apply keeps_standbyFollow | apply keeps_storeDrainAll | apply keeps_modCore
    | apply keeps_setCore | apply keeps_foldl | (apply legal_mk; assumption) | split | dsimp only | apply keeps_mk
    | apply legal_mk

theorem keeps_romTables {z : State} {s : State}  (hK : Keeps z s) :
    Keeps z (romTables s) := by
  unfold romTables
  with_reducible repeat' first
    | assumption | exact Keeps.refl _ | intro _ | refine keeps_ite (fun _ => ?_) (fun _ => ?_)
    | apply keeps_memPutAll | apply keeps_memPut | split | dsimp only

theorem keeps_romSources {z : State} {s : State}  (hK : Keeps z s) :
    Keeps z (romSources s) := by
  unfold romSources
  with_reducible repeat' first
    | assumption | exact Keeps.refl _ | intro _ | refine keeps_ite (fun _ => ?_) (fun _ => ?_) | apply keeps_ioSetF
    | apply keeps_ioPut | apply keeps_foldl | split | dsimp only

theorem keeps_bootCore {z : State} {s : State} (failed : Nat) (c : Nat) (hK : Keeps z s) :
    Keeps z (bootCore failed s c) := by
  unfold bootCore
  with_reducible repeat' first
    | assumption | exact Keeps.refl _ | intro _ | refine keeps_ite (fun _ => ?_) (fun _ => ?_) | apply keeps_kerf
    | apply keeps_parkHard | apply keeps_setCoreState | apply keeps_stfailPut | apply legal_Core_fresh
    | apply keeps_setCore | (apply legal_mk; assumption) | split | dsimp only | apply keeps_mk | apply legal_mk

theorem keeps_bootBanks {z : State} {s : State}  (hK : Keeps z s) :
    Keeps z (bootBanks s) := by
  unfold bootBanks
  with_reducible repeat' first
    | assumption | exact Keeps.refl _ | intro _ | apply keeps_wakeDone | apply keeps_foldl | split | dsimp only

theorem keeps_bootRom {z : State} {s : State}  (hK : Keeps z s) :
    Keeps z (bootRom s) := by
  unfold bootRom
  with_reducible repeat' first
    | assumption | exact Keeps.refl _ | intro _ | refine keeps_ite (fun _ => ?_) (fun _ => ?_)
    | apply keeps_idleStart | apply keeps_readyUp | apply keeps_romSources | apply keeps_romTables
    | apply keeps_foldl | split | dsimp only

theorem keeps_bringUp {z : State} {s : State} (failed : Nat) (hK : Keeps z s) :
    Keeps z (bringUp s failed) := by
  unfold bringUp
  with_reducible repeat' first
    | assumption | exact Keeps.refl _ | intro _ | refine keeps_ite (fun _ => ?_) (fun _ => ?_)
    | apply keeps_bootBanks | apply keeps_bootCore | apply keeps_bootRom | apply keeps_clusterReport
    | apply keeps_hubEval | apply keeps_readyUp | apply keeps_standbyFollow | apply keeps_foldl | split | dsimp only

theorem keeps_hostReset {z s : State} (hK : Keeps z s) : Keeps z (hostReset s) :=
  ⟨hK.1, fun i => ⟨rfl, rfl, (hK.2 i).2.2.1, rfl, rfl, rfl, rfl, fun _ => coreLegal_reset⟩⟩

theorem keeps_bootOff {z : State} {s : State}  (hK : Keeps z s) :
    Keeps z (bootOff s) := by
  unfold bootOff
  with_reducible repeat' first
    | assumption | exact Keeps.refl _ | intro _ | refine keeps_ite (fun _ => ?_) (fun _ => ?_)
    | apply keeps_bankStatePut | apply keeps_foldl | split | dsimp only

theorem keeps_coldReset {z : State} {s : State} (straps failed : Nat) (hK : Keeps z s) :
    Keeps z (coldReset s straps failed) := by
  unfold coldReset
  with_reducible repeat' first
    | assumption | exact Keeps.refl _ | intro _ | refine keeps_ite (fun _ => ?_) (fun _ => ?_) | apply keeps_bootOff
    | apply keeps_bringUp | apply keeps_hostReset | (apply legal_mk; assumption) | split | dsimp only
    | apply keeps_mk | apply legal_mk

theorem keeps_deadmanKeep {z : State} {t : State} (s : State) (hK : Keeps z t) :
    Keeps z (deadmanKeep s t) := by
  unfold deadmanKeep
  with_reducible repeat' first
    | assumption | exact Keeps.refl _ | intro _ | refine keeps_ite (fun _ => ?_) (fun _ => ?_) | apply keeps_ioSetB
    | apply keeps_ioSetF | apply keeps_ioPut | apply keeps_foldl | split | dsimp only

theorem keeps_rowmapKeep {z : State} {t : State} (s : State) (hK : Keeps z t) :
    Keeps z (rowmapKeep s t) := by
  unfold rowmapKeep
  with_reducible repeat' first
    | assumption | exact Keeps.refl _ | intro _ | apply keeps_ioPut | apply keeps_foldl | split | dsimp only

theorem keeps_errlogKeep {z : State} {t : State} (s : State) (hK : Keeps z t) :
    Keeps z (errlogKeep s t) := by
  unfold errlogKeep
  with_reducible repeat' first
    | assumption | exact Keeps.refl _ | intro _ | apply keeps_barPut | apply keeps_foldl | split | dsimp only

theorem keeps_deadmanDo {z s : State} (hK : Keeps z s) : Keeps z (deadmanDo s) := by
  unfold deadmanDo
  extract_lets t1 t2 t3
  have h2 : Keeps z t2 := ⟨hK.1, fun i => by
    have h := hK.2 i
    have h1 := (keeps_hostReset hK).2 i
    refine ⟨?_, h1.2.1, h1.2.2.1, h1.2.2.2.1, h1.2.2.2.2.1, h.2.2.2.2.2.1, h1.2.2.2.2.2.2⟩
    show Memory.wf (if s.straps = 1 then s.mem else []) = true
    split
    · exact h.1
    · rfl⟩
  have h3 : Keeps z t3 := keeps_errlogKeep _ (keeps_rowmapKeep _ (keeps_deadmanKeep _ h2))
  exact keeps_bringUp _ (keeps_bootOff (keeps_modeRun _ _ (keeps_elWrite _ _ _ _ _ _ h3)))

theorem keeps_serviceDo {z s : State} (c a : Nat) (f : Work → State) (hf : ∀ w, Keeps z (f w)) (hK : Keeps z s) :
    Keeps z (serviceDo s c a f) := by
  unfold serviceDo
  split
  · exact hK
  · exact keeps_ite (fun _ => hK) fun _ => keeps_ite (fun _ => keeps_workEnd _ _ _ _ hK) fun _ =>
      keeps_ite (fun _ => keeps_workEnd _ _ _ _ hK) fun _ => hf _

theorem keeps_endOther {z : State} {s : State} (c k : Nat) (w : Work) (r : Nat) (hK : Keeps z s) :
    Keeps z (endOther s c k w r) := by
  unfold endOther
  with_reducible repeat' first
    | assumption | exact Keeps.refl _ | intro _ | refine keeps_ite (fun _ => ?_) (fun _ => ?_) | apply keeps_workEnd
    | split | dsimp only

theorem keeps_execServiceKerf {z s s2 : State} {c : CoreId} (e : execServiceKerf c s = .next s2) (hK : Keeps z s) :
    Keeps z s2 := by
  unfold execServiceKerf at e
  revert e
  with_reducible repeat' first
    | assumption | exact Keeps.refl _ | (intro e; cases e; done)
    | (intro e; injection e with e; injection e with _ e; subst e) | (intro e; injection e with e; subst e)
    | refine keeps_ite (fun _ => ?_) (fun _ => ?_) | apply keeps_endOther | apply keeps_kerf | apply keeps_serviceDo
    | apply keeps_workEnd | split | dsimp only | intro _

theorem keeps_execServiceRelease {z s s2 : State} {c : CoreId} {pass : Bool} (e : execServiceRelease c pass s = .next s2) (hK : Keeps z s) :
    Keeps z s2 := by
  unfold execServiceRelease at e
  revert e
  with_reducible repeat' first
    | assumption | exact Keeps.refl _ | (intro e; cases e; done)
    | (intro e; injection e with e; injection e with _ e; subst e) | (intro e; injection e with e; subst e)
    | refine keeps_ite (fun _ => ?_) (fun _ => ?_) | apply keeps_endOther | apply keeps_releaseDo
    | apply keeps_selfTestEnd | apply keeps_serviceDo | apply keeps_workEnd | split | dsimp only | intro _

theorem keeps_execServiceSplice {z s s2 : State} {c : CoreId} (e : execServiceSplice c s = .next s2) (hK : Keeps z s) :
    Keeps z s2 := by
  unfold execServiceSplice at e
  revert e
  with_reducible repeat' first
    | assumption | exact Keeps.refl _ | (intro e; cases e; done)
    | (intro e; injection e with e; injection e with _ e; subst e) | (intro e; injection e with e; subst e)
    | refine keeps_ite (fun _ => ?_) (fun _ => ?_) | apply keeps_serviceDo | apply keeps_spliceStart
    | apply keeps_workEnd | apply keeps_workWait | split | dsimp only | intro _

theorem keeps_execServiceMarch {z s s2 : State} {c : CoreId} (e : execServiceMarch c s = .next s2) (hK : Keeps z s) :
    Keeps z s2 := by
  unfold execServiceMarch at e
  revert e
  with_reducible repeat' first
    | assumption | exact Keeps.refl _ | (intro e; cases e; done)
    | (intro e; injection e with e; injection e with _ e; subst e) | (intro e; injection e with e; subst e)
    | refine keeps_ite (fun _ => ?_) (fun _ => ?_) | apply keeps_marchctlDo | apply keeps_serviceDo
    | apply keeps_workEnd | apply keeps_workWait | split | dsimp only | intro _

theorem keeps_execRowrepair {z s s2 : State} {c : CoreId} (e : execRowrepair c s = .next s2) (hK : Keeps z s) :
    Keeps z s2 := by
  unfold execRowrepair at e
  revert e
  with_reducible repeat' first
    | assumption | exact Keeps.refl _ | (intro e; cases e; done)
    | (intro e; injection e with e; injection e with _ e; subst e) | (intro e; injection e with e; subst e)
    | refine keeps_ite (fun _ => ?_) (fun _ => ?_) | apply keeps_rpctlDo | apply keeps_serviceDo
    | apply keeps_workEnd | apply keeps_workWait | split | dsimp only | intro _

theorem keeps_execRowmapSave {z s s2 : State} {c : CoreId} (e : execRowmapSave c s = .next s2) (hK : Keeps z s) :
    Keeps z s2 := by
  unfold execRowmapSave at e
  revert e
  with_reducible repeat' first
    | assumption | exact Keeps.refl _ | (intro e; cases e; done)
    | (intro e; injection e with e; injection e with _ e; subst e) | (intro e; injection e with e; subst e)
    | refine keeps_ite (fun _ => ?_) (fun _ => ?_) | apply keeps_bufWrite | apply keeps_serviceDo
    | apply keeps_workEnd | split | dsimp only | intro _

theorem keeps_rowmapApply {z : State} {s : State} (x : Word) (hK : Keeps z s) :
    Keeps z (rowmapApply s x) := by
  unfold rowmapApply
  with_reducible repeat' first
    | assumption | exact Keeps.refl _ | intro _ | apply keeps_ioPut | split | dsimp only

theorem keeps_rowmapCycle {z : State} {s : State} (b : Nat) (hK : Keeps z s) :
    Keeps z (rowmapCycle s b) := by
  unfold rowmapCycle
  with_reducible repeat' first
    | assumption | exact Keeps.refl _ | intro _ | refine keeps_ite (fun _ => ?_) (fun _ => ?_)
    | apply keeps_bankStatePut | apply keeps_readyClear | split | dsimp only

theorem keeps_execRowmapRestore {z s s2 : State} {c : CoreId} {words : List Word} (e : execRowmapRestore c words s = .next s2) (hK : Keeps z s) :
    Keeps z s2 := by
  unfold execRowmapRestore at e
  revert e
  with_reducible repeat' first
    | assumption | exact Keeps.refl _ | (intro e; cases e; done)
    | (intro e; injection e with e; injection e with _ e; subst e) | (intro e; injection e with e; subst e)
    | refine keeps_ite (fun _ => ?_) (fun _ => ?_) | apply keeps_bufRead | apply keeps_rowmapApply
    | apply keeps_rowmapCycle | apply keeps_serviceDo | apply keeps_workEnd | apply keeps_foldl | split | dsimp only
    | intro _

theorem keeps_execChswitch {z s s2 : State} {c : CoreId} (e : execChswitch c s = .next s2) (hK : Keeps z s) :
    Keeps z s2 := by
  unfold execChswitch at e
  revert e
  with_reducible repeat' first
    | assumption | exact Keeps.refl _ | (intro e; cases e; done)
    | (intro e; injection e with e; injection e with _ e; subst e) | (intro e; injection e with e; subst e)
    | refine keeps_ite (fun _ => ?_) (fun _ => ?_) | apply keeps_coreSend | apply keeps_serviceDo
    | apply keeps_workEnd | apply keeps_workWait | split | dsimp only | intro _

theorem keeps_execLedgerResume {z s s2 : State} {c : CoreId} {slot : List Word} {macSt : BitVec 3} (e : execLedgerResume c slot macSt s = .next s2) (hK : Keeps z s) :
    Keeps z s2 := by
  unfold execLedgerResume at e
  revert e
  with_reducible repeat' first
    | assumption | exact Keeps.refl _ | (intro e; cases e; done)
    | (intro e; injection e with e; injection e with _ e; subst e) | (intro e; injection e with e; subst e)
    | refine keeps_ite (fun _ => ?_) (fun _ => ?_) | apply keeps_anchorRefuse | apply keeps_bufRead
    | apply keeps_cipherCount | apply keeps_modLedger | apply keeps_serviceDo | apply keeps_workEnd
    | apply keeps_workWait | (apply legal_mk; assumption) | split | dsimp only | apply keeps_mk | apply legal_mk
    | intro _

theorem keeps_execLedgerFresh {z s s2 : State} {c : CoreId} (e : execLedgerFresh c s = .next s2) (hK : Keeps z s) :
    Keeps z s2 := by
  unfold execLedgerFresh at e
  revert e
  with_reducible repeat' first
    | assumption | exact Keeps.refl _ | (intro e; cases e; done)
    | (intro e; injection e with e; injection e with _ e; subst e) | (intro e; injection e with e; subst e)
    | refine keeps_ite (fun _ => ?_) (fun _ => ?_) | apply keeps_modLedger | apply keeps_serviceDo
    | apply keeps_workEnd | apply keeps_workWait | (apply legal_mk; assumption) | split | dsimp only | apply keeps_mk
    | apply legal_mk | intro _

theorem keeps_execClusterReset {z s s2 : State} {c : CoreId} (e : execClusterReset c s = .next s2) (hK : Keeps z s) :
    Keeps z s2 := by
  unfold execClusterReset at e
  revert e
  with_reducible repeat' first
    | assumption | exact Keeps.refl _ | (intro e; cases e; done)
    | (intro e; injection e with e; injection e with _ e; subst e) | (intro e; injection e with e; subst e)
    | refine keeps_ite (fun _ => ?_) (fun _ => ?_) | apply keeps_clusterResetDo | apply keeps_serviceDo
    | apply keeps_workEnd | split | dsimp only | intro _

theorem keeps_serviceTell {z : State} {s : State} (a n r : Nat) (hK : Keeps z s) :
    Keeps z (serviceTell s a n r) := by
  unfold serviceTell
  with_reducible repeat' first
    | assumption | exact Keeps.refl _ | intro _ | apply keeps_waitDone | apply keeps_foldl | split | dsimp only

theorem keeps_execBankownWrite {z s s2 : State} {c : CoreId} {n : Fin 32} {w : Word} (e : execBankownWrite c n w s = .next s2) (hK : Keeps z s) :
    Keeps z s2 := by
  unfold execBankownWrite at e
  revert e
  with_reducible repeat' first
    | assumption | exact Keeps.refl _ | (intro e; cases e; done)
    | (intro e; injection e with e; injection e with _ e; subst e) | (intro e; injection e with e; subst e)
    | apply keeps_busWrite | split | dsimp only | intro _

theorem keeps_execOwnershipDrainDone {z s s2 : State} {n : Fin 32} (e : execOwnershipDrainDone n s = .next s2) (hK : Keeps z s) :
    Keeps z s2 := by
  unfold execOwnershipDrainDone at e
  revert e
  with_reducible repeat' first
    | assumption | exact Keeps.refl _ | (intro e; cases e; done)
    | (intro e; injection e with e; injection e with _ e; subst e) | (intro e; injection e with e; subst e)
    | apply keeps_drainDone | split | dsimp only | intro _

theorem keeps_execScrubDone {z s s2 : State} {n : Fin 32} (e : execScrubDone n s = .next s2) (hK : Keeps z s) :
    Keeps z s2 := by
  unfold execScrubDone at e
  revert e
  with_reducible repeat' first
    | assumption | exact Keeps.refl _ | (intro e; cases e; done)
    | (intro e; injection e with e; injection e with _ e; subst e) | (intro e; injection e with e; subst e)
    | apply keeps_scrubEnd | split | dsimp only | intro _

theorem keeps_execLeaseExpiry {z s s2 : State} {n : Fin 32} (e : execLeaseExpiry n s = .next s2) (hK : Keeps z s) :
    Keeps z s2 := by
  unfold execLeaseExpiry at e
  revert e
  with_reducible repeat' first
    | assumption | exact Keeps.refl _ | (intro e; cases e; done)
    | (intro e; injection e with e; injection e with _ e; subst e) | (intro e; injection e with e; subst e)
    | apply keeps_clampDo | split | dsimp only | intro _

theorem keeps_execLeaseNearExpiry {z s s2 : State} {n : Fin 32} (e : execLeaseNearExpiry n s = .next s2) (hK : Keeps z s) :
    Keeps z s2 := by
  unfold execLeaseNearExpiry at e
  revert e
  with_reducible repeat' first
    | assumption | exact Keeps.refl _ | (intro e; cases e; done)
    | (intro e; injection e with e; injection e with _ e; subst e) | (intro e; injection e with e; subst e)
    | refine keeps_ite (fun _ => ?_) (fun _ => ?_) | apply keeps_raise | (apply legal_mk; assumption) | split
    | dsimp only | apply keeps_mk | apply legal_mk | intro _

theorem keeps_execLeaseAutoRenew {z s s2 : State} {n : Fin 32} (e : execLeaseAutoRenew n s = .next s2) (hK : Keeps z s) :
    Keeps z s2 := by
  unfold execLeaseAutoRenew at e
  revert e
  with_reducible repeat' first
    | assumption | exact Keeps.refl _ | (intro e; cases e; done)
    | (intro e; injection e with e; injection e with _ e; subst e) | (intro e; injection e with e; subst e)
    | refine keeps_ite (fun _ => ?_) (fun _ => ?_) | apply keeps_leaseStart | split | dsimp only | intro _

theorem keeps_execPartWrite {z s s2 : State} {c : CoreId} {p : Fin 4} {w : Word} (e : execPartWrite c p w s = .next s2) (hK : Keeps z s) :
    Keeps z s2 := by
  unfold execPartWrite at e
  revert e
  with_reducible repeat' first
    | assumption | exact Keeps.refl _ | (intro e; cases e; done)
    | (intro e; injection e with e; injection e with _ e; subst e) | (intro e; injection e with e; subst e)
    | apply keeps_busWrite | split | dsimp only | intro _

theorem keeps_execBankPowerOff {z s s2 : State} {c : CoreId} {n : Fin 32} (e : execBankPowerOff c n s = .next s2) (hK : Keeps z s) :
    Keeps z s2 := by
  unfold execBankPowerOff at e
  revert e
  with_reducible repeat' first
    | assumption | exact Keeps.refl _ | (intro e; cases e; done)
    | (intro e; injection e with e; injection e with _ e; subst e) | (intro e; injection e with e; subst e)
    | apply keeps_busWrite | split | dsimp only | intro _

theorem keeps_execBankPowerOn {z s s2 : State} {c : CoreId} {n : Fin 32} (e : execBankPowerOn c n s = .next s2) (hK : Keeps z s) :
    Keeps z s2 := by
  unfold execBankPowerOn at e
  revert e
  with_reducible repeat' first
    | assumption | exact Keeps.refl _ | (intro e; cases e; done)
    | (intro e; injection e with e; injection e with _ e; subst e) | (intro e; injection e with e; subst e)
    | apply keeps_busWrite | split | dsimp only | intro _

theorem keeps_execBankWakeDone {z s s2 : State} {n : Fin 32} (e : execBankWakeDone n s = .next s2) (hK : Keeps z s) :
    Keeps z s2 := by
  unfold execBankWakeDone at e
  revert e
  with_reducible repeat' first
    | assumption | exact Keeps.refl _ | (intro e; cases e; done)
    | (intro e; injection e with e; injection e with _ e; subst e) | (intro e; injection e with e; subst e)
    | apply keeps_wakeDone | split | dsimp only | intro _

theorem keeps_execMarchGo {z s s2 : State} {c : CoreId} {w : Word} (e : execMarchGo c w s = .next s2) (hK : Keeps z s) :
    Keeps z s2 := by
  unfold execMarchGo at e
  revert e
  with_reducible repeat' first
    | assumption | exact Keeps.refl _ | (intro e; cases e; done)
    | (intro e; injection e with e; injection e with _ e; subst e) | (intro e; injection e with e; subst e)
    | apply keeps_busWrite | (apply legal_mk; assumption) | split | dsimp only | apply keeps_mk | apply legal_mk
    | intro _

theorem keeps_execMarchAbort {z s s2 : State} {c : CoreId} (e : execMarchAbort c s = .next s2) (hK : Keeps z s) :
    Keeps z s2 := by
  unfold execMarchAbort at e
  revert e
  with_reducible repeat' first
    | assumption | exact Keeps.refl _ | (intro e; cases e; done)
    | (intro e; injection e with e; injection e with _ e; subst e) | (intro e; injection e with e; subst e)
    | apply keeps_busWrite | split | dsimp only | intro _

theorem keeps_wakeMarch {z : State} {s : State} (n : Nat) (fails : List (Fin 4 × Fin 256)) (hK : Keeps z s) :
    Keeps z (wakeMarch s n fails) := by
  unfold wakeMarch
  with_reducible repeat' first
    | assumption | exact Keeps.refl _ | intro _ | refine keeps_ite (fun _ => ?_) (fun _ => ?_)
    | apply keeps_bankEvent | apply keeps_bankStatePut | apply keeps_marchRow | apply keeps_skerfFollow
    | apply keeps_foldl | split | dsimp only

theorem keeps_execMarchDone {z s s2 : State} {n : Fin 32} {fails : List (Fin 4 × Fin 256)} (e : execMarchDone n fails s = .next s2) (hK : Keeps z s) :
    Keeps z s2 := by
  unfold execMarchDone at e
  revert e
  with_reducible repeat' first
    | assumption | exact Keeps.refl _ | (intro e; cases e; done)
    | (intro e; injection e with e; injection e with _ e; subst e) | (intro e; injection e with e; subst e)
    | refine keeps_ite (fun _ => ?_) (fun _ => ?_) | apply keeps_marchEnd | apply keeps_serviceTell
    | apply keeps_wakeMarch | split | dsimp only | intro _

theorem keeps_execRowRepair {z s s2 : State} {c : CoreId} {w : Word} (e : execRowRepair c w s = .next s2) (hK : Keeps z s) :
    Keeps z s2 := by
  unfold execRowRepair at e
  revert e
  with_reducible repeat' first
    | assumption | exact Keeps.refl _ | (intro e; cases e; done)
    | (intro e; injection e with e; injection e with _ e; subst e) | (intro e; injection e with e; subst e)
    | apply keeps_busWrite | (apply legal_mk; assumption) | split | dsimp only | apply keeps_mk | apply legal_mk
    | intro _

theorem keeps_execRowRepairDone {z s s2 : State}  (e : execRowRepairDone s = .next s2) (hK : Keeps z s) :
    Keeps z s2 := by
  unfold execRowRepairDone at e
  revert e
  with_reducible repeat' first
    | assumption | exact Keeps.refl _ | (intro e; cases e; done)
    | (intro e; injection e with e; injection e with _ e; subst e) | (intro e; injection e with e; subst e)
    | refine keeps_ite (fun _ => ?_) (fun _ => ?_) | apply keeps_repairEnd | apply keeps_serviceTell | split
    | dsimp only | intro _

theorem keeps_execClusterPowerDown {z s s2 : State} {n : Fin 8} (e : execClusterPowerDown n s = .next s2) (hK : Keeps z s) :
    Keeps z s2 := by
  unfold execClusterPowerDown at e
  revert e
  with_reducible repeat' first
    | assumption | exact Keeps.refl _ | (intro e; cases e; done)
    | (intro e; injection e with e; injection e with _ e; subst e) | (intro e; injection e with e; subst e)
    | refine keeps_ite (fun _ => ?_) (fun _ => ?_) | apply keeps_clusterDown | split | dsimp only | intro _

theorem keeps_execThriftPowerDownTimeout {z s s2 : State} {n : Fin 8} (e : execThriftPowerDownTimeout n s = .next s2) (hK : Keeps z s) :
    Keeps z s2 := by
  unfold execThriftPowerDownTimeout at e
  revert e
  with_reducible repeat' first
    | assumption | exact Keeps.refl _ | (intro e; cases e; done)
    | (intro e; injection e with e; injection e with _ e; subst e) | (intro e; injection e with e; subst e)
    | refine keeps_ite (fun _ => ?_) (fun _ => ?_) | apply keeps_ioSetB | split | dsimp only | intro _

theorem keeps_execLockstepEntry {z s s2 : State} {p : Fin 2} (e : execLockstepEntry p s = .next s2) (hK : Keeps z s) :
    Keeps z s2 := by
  unfold execLockstepEntry at e
  revert e
  with_reducible repeat' first
    | assumption | exact Keeps.refl _ | (intro e; cases e; done)
    | (intro e; injection e with e; injection e with _ e; subst e) | (intro e; injection e with e; subst e)
    | refine keeps_ite (fun _ => ?_) (fun _ => ?_) | apply keeps_lockSet | split | dsimp only | intro _

theorem keeps_execLockstepFailure {z s s2 : State} {p : Fin 2} (e : execLockstepFailure p s = .next s2) (hK : Keeps z s) :
    Keeps z s2 := by
  unfold execLockstepFailure at e
  revert e
  with_reducible repeat' first
    | assumption | exact Keeps.refl _ | (intro e; cases e; done)
    | (intro e; injection e with e; injection e with _ e; subst e) | (intro e; injection e with e; subst e)
    | refine keeps_ite (fun _ => ?_) (fun _ => ?_) | apply keeps_elWrite | apply keeps_kerf | apply keeps_lockSet
    | split | dsimp only | intro _

theorem keeps_execColdReset {z s s2 : State} {straps : BitVec 2} {failed : BitVec 32} (e : execColdReset straps failed s = .next s2) (hK : Keeps z s) :
    Keeps z s2 := by
  unfold execColdReset at e
  revert e
  with_reducible repeat' first
    | assumption | exact Keeps.refl _ | (intro e; cases e; done)
    | (intro e; injection e with e; injection e with _ e; subst e) | (intro e; injection e with e; subst e)
    | apply keeps_coldReset | split | dsimp only | intro _

theorem keeps_execDeadmanWarning {z s s2 : State}  (e : execDeadmanWarning s = .next s2) (hK : Keeps z s) :
    Keeps z s2 := by
  unfold execDeadmanWarning at e
  revert e
  with_reducible repeat' first
    | assumption | exact Keeps.refl _ | (intro e; cases e; done)
    | (intro e; injection e with e; injection e with _ e; subst e) | (intro e; injection e with e; subst e)
    | refine keeps_ite (fun _ => ?_) (fun _ => ?_) | apply keeps_elWrite | apply keeps_modCore
    | (apply legal_mk; assumption) | split | dsimp only | apply keeps_mk | apply legal_mk | intro _

theorem keeps_execDeadmanRestart {z s s2 : State}  (e : execDeadmanRestart s = .next s2) (hK : Keeps z s) :
    Keeps z s2 := by
  unfold execDeadmanRestart at e
  revert e
  with_reducible repeat' first
    | assumption | exact Keeps.refl _ | (intro e; cases e; done)
    | (intro e; injection e with e; injection e with _ e; subst e) | (intro e; injection e with e; subst e)
    | refine keeps_ite (fun _ => ?_) (fun _ => ?_) | apply keeps_deadmanDo | split | dsimp only | intro _

theorem keeps_execKerfctlKerf {z s s2 : State} {c k : CoreId} (e : execKerfctlKerf c k s = .next s2) (hK : Keeps z s) :
    Keeps z s2 := by
  unfold execKerfctlKerf at e
  revert e
  with_reducible repeat' first
    | assumption | exact Keeps.refl _ | (intro e; cases e; done)
    | (intro e; injection e with e; injection e with _ e; subst e) | (intro e; injection e with e; subst e)
    | apply keeps_busWrite | split | dsimp only | intro _

theorem keeps_execKerfctlRelease {z s s2 : State} {c k : CoreId} (e : execKerfctlRelease c k s = .next s2) (hK : Keeps z s) :
    Keeps z s2 := by
  unfold execKerfctlRelease at e
  revert e
  with_reducible repeat' first
    | assumption | exact Keeps.refl _ | (intro e; cases e; done)
    | (intro e; injection e with e; injection e with _ e; subst e) | (intro e; injection e with e; subst e)
    | apply keeps_busWrite | split | dsimp only | intro _

theorem keeps_execKerfReset {z s s2 : State} {k : CoreId} (e : execKerfReset k s = .next s2) (hK : Keeps z s) :
    Keeps z s2 := by
  unfold execKerfReset at e
  revert e
  with_reducible repeat' first
    | assumption | exact Keeps.refl _ | (intro e; cases e; done)
    | (intro e; injection e with e; injection e with _ e; subst e) | (intro e; injection e with e; subst e)
    | refine keeps_ite (fun _ => ?_) (fun _ => ?_) | apply keeps_coreReset | apply keeps_modCore
    | (apply legal_mk; assumption) | split | dsimp only | apply keeps_mk | apply legal_mk | intro _

theorem keeps_execSelfTestDone {z s s2 : State} {k : CoreId} {pass : Bool} (e : execSelfTestDone k pass s = .next s2) (hK : Keeps z s) :
    Keeps z s2 := by
  unfold execSelfTestDone at e
  revert e
  with_reducible repeat' first
    | assumption | exact Keeps.refl _ | (intro e; cases e; done)
    | (intro e; injection e with e; injection e with _ e; subst e) | (intro e; injection e with e; subst e)
    | apply keeps_selfTestEnd | split | dsimp only | intro _

theorem keeps_execSpliceStop {z s s2 : State}  (e : execSpliceStop s = .next s2) (hK : Keeps z s) :
    Keeps z s2 := by
  unfold execSpliceStop at e
  revert e
  with_reducible repeat' first
    | assumption | exact Keeps.refl _ | (intro e; cases e; done)
    | (intro e; injection e with e; injection e with _ e; subst e) | (intro e; injection e with e; subst e)
    | refine keeps_ite (fun _ => ?_) (fun _ => ?_) | apply keeps_storeDrainAll | (apply legal_mk; assumption) | split
    | dsimp only | apply keeps_mk | apply legal_mk | intro _

theorem keeps_spliceRegs {z : State} {s : State} (a b : Nat) (hK : Keeps z s) :
    Keeps z (spliceRegs s a b) := by
  unfold spliceRegs
  with_reducible repeat' first
    | assumption | exact Keeps.refl _ | intro _ | apply keeps_ioSetF | apply keeps_ioPut | apply keeps_foldl | split
    | dsimp only

theorem legal_spliceFrom  {ka : Core} (h : coreLegal ka) : coreLegal (spliceFrom ka) := by
  unfold spliceFrom
  with_reducible repeat' first
    | assumption | exact Keeps.refl _ | intro _ | (apply legal_mk; assumption) | split | dsimp only | apply keeps_mk
    | apply legal_mk

theorem keeps_spliceHeld {z : State} {s : State} (a b : Nat) (hK : Keeps z s) :
    Keeps z (spliceHeld s a b) := by
  unfold spliceHeld
  with_reducible repeat' first
    | assumption | exact Keeps.refl _ | intro _ | refine keeps_ite (fun _ => ?_) (fun _ => ?_)
    | (apply legal_mk; assumption) | split | dsimp only | apply keeps_mk | apply legal_mk

theorem keeps_spliceEnd {z : State} {s : State} (a b : Nat) (req : Option Nat) (res why ns : Nat) (hK : Keeps z s) :
    Keeps z (spliceEnd s a b req res why ns) := by
  unfold spliceEnd
  with_reducible repeat' first
    | assumption | exact Keeps.refl _ | intro _ | refine keeps_ite (fun _ => ?_) (fun _ => ?_) | apply keeps_elWrite
    | apply keeps_serviceTell | apply keeps_setCause | apply keeps_sevCore | apply keeps_ioPut
    | (apply legal_mk; assumption) | split | dsimp only | apply keeps_mk | apply legal_mk

theorem keeps_setCoreOf {z s : State} (c a : Nat) (k : Core) (h : Keeps z s)
    (hk : coreLegal (coreOf s a) → coreLegal k) : Keeps z (setCore s c k) :=
  ⟨h.1, fun i => (keeps_setCore c k (Keeps.refl s) fun _ => hk ((h.2 i).2.2.2.2.2.2.2 a)).2 (h.2 i)⟩

theorem keeps_splicePair {z s : State} (a b : Nat) (h : Keeps z s) :
    Keeps z (setCore (setCore s b (spliceTo (coreOf s a) (coreOf s b))) a (spliceFrom (coreOf s a))) := by
  have h1 : Keeps z (setCore s b (spliceTo (coreOf s a) (coreOf s b))) := keeps_setCoreOf b a _ h fun hk => legal_mk hk
  refine ⟨h1.1, fun i => ?_⟩
  exact (keeps_setCore a _ (Keeps.refl _) fun _ => legal_spliceFrom ((h.2 i).2.2.2.2.2.2.2 a)).2 (h1.2 i)

theorem keeps_spliceMove {z s : State} (a b : Nat) (hK : Keeps z s) : Keeps z (spliceMove s a b) := by
  unfold spliceMove
  dsimp only
  with_reducible repeat' first
    | assumption
    | exact Keeps.refl _
    | intro _
    | refine keeps_ite (fun _ => ?_) (fun _ => ?_)
    | apply keeps_hubEval
    | apply keeps_standbyFollow
    | apply keeps_clusterReport
    | apply keeps_foldl
    | apply keeps_modCore
    | apply legal_setMembership
    | apply keeps_ioSetF
    | apply keeps_parkHard
    | apply keeps_moveBits
    | apply keeps_splicePair
    | apply keeps_spliceHeld
    | apply keeps_spliceRegs
    | apply keeps_lockBreak
    | apply keeps_mk

theorem keeps_execSpliceComplete {z s s2 : State} {ns : BitVec 16} (e : execSpliceComplete ns s = .next s2) (hK : Keeps z s) :
    Keeps z s2 := by
  unfold execSpliceComplete at e
  revert e
  with_reducible repeat' first
    | assumption | exact Keeps.refl _ | (intro e; cases e; done)
    | (intro e; injection e with e; injection e with _ e; subst e) | (intro e; injection e with e; subst e)
    | refine keeps_ite (fun _ => ?_) (fun _ => ?_) | apply keeps_spliceEnd | apply keeps_spliceMove | split
    | dsimp only | intro _

theorem keeps_spliceptTake {z : State} {s : State} (a b : Nat) (hK : Keeps z s) :
    Keeps z (spliceptTake s a b) := by
  unfold spliceptTake
  with_reducible repeat' first
    | assumption | exact Keeps.refl _ | intro _ | refine keeps_ite (fun _ => ?_) (fun _ => ?_)
    | apply keeps_asyncTrap | apply keeps_modCore | (apply legal_mk; assumption) | split | dsimp only
    | apply keeps_mk | apply legal_mk

theorem keeps_execSpliceAbandon {z s s2 : State} {why : BitVec 3} (e : execSpliceAbandon why s = .next s2) (hK : Keeps z s) :
    Keeps z s2 := by
  unfold execSpliceAbandon at e
  revert e
  with_reducible repeat' first
    | assumption | exact Keeps.refl _ | (intro e; cases e; done)
    | (intro e; injection e with e; injection e with _ e; subst e) | (intro e; injection e with e; subst e)
    | refine keeps_ite (fun _ => ?_) (fun _ => ?_) | apply keeps_spliceEnd | apply keeps_spliceptTake | split
    | dsimp only | intro _

theorem keeps_execCipherDone {z s s2 : State} {n : Fin 34} {st : BitVec 3} (e : execCipherDone n st s = .next s2) (hK : Keeps z s) :
    Keeps z s2 := by
  unfold execCipherDone at e
  revert e
  with_reducible repeat' first
    | assumption | exact Keeps.refl _ | (intro e; cases e; done)
    | (intro e; injection e with e; injection e with _ e; subst e) | (intro e; injection e with e; subst e)
    | refine keeps_ite (fun _ => ?_) (fun _ => ?_) | apply keeps_ciphWake | apply keeps_jobDone | split | dsimp only
    | intro _

theorem keeps_jobTimeout {z : State} {s : State} (n : Nat) (j : Job) (hK : Keeps z s) :
    Keeps z (jobTimeout s n j) := by
  unfold jobTimeout
  with_reducible repeat' first
    | assumption | exact Keeps.refl _ | intro _ | apply keeps_jobEnd | apply keeps_emit | split | dsimp only

theorem keeps_engAnswer {z : State} {s : State} (n off k : Nat) (b : List Byte) (hK : Keeps z s) :
    Keeps z (engAnswer s n off k b) := by
  unfold engAnswer
  with_reducible repeat' first
    | assumption | exact Keeps.refl _ | intro _ | apply keeps_emit | split | dsimp only

theorem keeps_coreRead {z : State} {s : State} (n : Nat) (j : Job) (area : EngArea) (off k : Nat) (hK : Keeps z s) :
    Keeps z (coreRead s n j area off k) := by
  unfold coreRead
  with_reducible repeat' first
    | assumption | exact Keeps.refl _ | intro _ | refine keeps_ite (fun _ => ?_) (fun _ => ?_)
    | apply keeps_engAnswer | apply keeps_jobFail | split | dsimp only

theorem keeps_execEngineRead {z s s2 : State} {n : Fin 34} {area : EngArea} {off k : Nat} (e : execEngineRead n area off k s = .next s2) (hK : Keeps z s) :
    Keeps z s2 := by
  unfold execEngineRead at e
  revert e
  with_reducible repeat' first
    | assumption | exact Keeps.refl _ | (intro e; cases e; done)
    | (intro e; injection e with e; injection e with _ e; subst e) | (intro e; injection e with e; subst e)
    | refine keeps_ite (fun _ => ?_) (fun _ => ?_) | apply keeps_coreRead | apply keeps_engAnswer | split
    | dsimp only | intro _

theorem keeps_outWrite {z : State} {s : State} (n : Nat) (j : Job) (off : Nat) (b : List Byte) (hK : Keeps z s) :
    Keeps z (outWrite s n j off b) := by
  unfold outWrite
  with_reducible repeat' first
    | assumption | exact Keeps.refl _ | intro _ | refine keeps_ite (fun _ => ?_) (fun _ => ?_)
    | apply keeps_areaWrite | apply keeps_jobFail | apply keeps_jobPut | (apply legal_mk; assumption) | split
    | dsimp only | apply keeps_mk | apply legal_mk

theorem keeps_tagWrite {z : State} {s : State} (n : Nat) (j : Job) (off : Nat) (b : List Byte) (hK : Keeps z s) :
    Keeps z (tagWrite s n j off b) := by
  unfold tagWrite
  with_reducible repeat' first
    | assumption | exact Keeps.refl _ | intro _ | refine keeps_ite (fun _ => ?_) (fun _ => ?_)
    | apply keeps_areaWrite | apply keeps_jobFail | split | dsimp only

theorem keeps_keyWrite {z : State} {s : State} (n : Nat) (j : Job) (off : Nat) (b : List Byte) (hK : Keeps z s) :
    Keeps z (keyWrite s n j off b) := by
  unfold keyWrite
  with_reducible repeat' first
    | assumption | exact Keeps.refl _ | intro _ | refine keeps_ite (fun _ => ?_) (fun _ => ?_) | apply keeps_jobFail
    | apply keeps_portPut | apply keeps_foldl | split | dsimp only

theorem keeps_execEngineWrite {z s s2 : State} {n : Fin 34} {area : EngArea} {off : Nat} {b : List Byte} (e : execEngineWrite n area off b s = .next s2) (hK : Keeps z s) :
    Keeps z s2 := by
  unfold execEngineWrite at e
  revert e
  with_reducible repeat' first
    | assumption | exact Keeps.refl _ | (intro e; cases e; done)
    | (intro e; injection e with e; injection e with _ e; subst e) | (intro e; injection e with e; subst e)
    | refine keeps_ite (fun _ => ?_) (fun _ => ?_) | apply keeps_jobFail | apply keeps_keyWrite
    | apply keeps_outWrite | apply keeps_tagWrite | split | dsimp only | intro _

theorem keeps_execEngineCap {z s s2 : State} {w : Payload} (e : execEngineCap w s = .next s2) (hK : Keeps z s) :
    Keeps z s2 := by
  unfold execEngineCap at e
  revert e
  with_reducible repeat' first
    | assumption | exact Keeps.refl _ | (intro e; cases e; done)
    | (intro e; injection e with e; injection e with _ e; subst e) | (intro e; injection e with e; subst e)
    | refine keeps_ite (fun _ => ?_) (fun _ => ?_) | apply keeps_cipherUp | apply keeps_lockWrite | split
    | dsimp only | intro _

end Sys2Proof.Machine
end

