-- ==== Sys2Proof/Laws/Keeps7.lean ====
section
/-! SUPPORT. The rows of power, debug, the field die and the dovetail keep the invariant. -/

namespace Sys2Proof.Machine

/-! The tactics of these proofs are one list for every goal, so that some of them do nothing in some goals. -/
set_option linter.all false

theorem keeps_execUcieLaneFailure {z s s2 : State} {lane : BitVec 8} {spareLeft : Bool} (e : execUcieLaneFailure lane spareLeft s = .next s2) (hK : Keeps z s) :
    Keeps z s2 := by
  unfold execUcieLaneFailure at e
  revert e
  with_reducible repeat' first
    | assumption | exact Keeps.refl _ | (intro e; cases e; done)
    | (intro e; injection e with e; injection e with _ e; subst e) | (intro e; injection e with e; subst e)
    | refine keeps_ite (fun _ => ?_) (fun _ => ?_) | apply keeps_elWrite | apply keeps_ioInc | apply keeps_linkDown
    | split | dsimp only | intro _

theorem keeps_execUcieLaneRepairTimeout {z s s2 : State}  (e : execUcieLaneRepairTimeout s = .next s2) (hK : Keeps z s) :
    Keeps z s2 := by
  unfold execUcieLaneRepairTimeout at e
  revert e
  with_reducible repeat' first
    | assumption | exact Keeps.refl _ | (intro e; cases e; done)
    | (intro e; injection e with e; injection e with _ e; subst e) | (intro e; injection e with e; subst e)
    | refine keeps_ite (fun _ => ?_) (fun _ => ?_) | apply keeps_linkDown | apply keeps_emit | split | dsimp only
    | intro _

theorem keeps_execRefclkLoss {z s s2 : State}  (e : execRefclkLoss s = .next s2) (hK : Keeps z s) :
    Keeps z s2 := by
  unfold execRefclkLoss at e
  revert e
  with_reducible repeat' first
    | assumption | exact Keeps.refl _ | (intro e; cases e; done)
    | (intro e; injection e with e; injection e with _ e; subst e) | (intro e; injection e with e; subst e)
    | refine keeps_ite (fun _ => ?_) (fun _ => ?_) | apply keeps_linkDown | apply keeps_raise
    | (apply legal_mk; assumption) | split | dsimp only | apply keeps_mk | apply legal_mk | intro _

theorem keeps_execRefclkReturn {z s s2 : State}  (e : execRefclkReturn s = .next s2) (hK : Keeps z s) :
    Keeps z s2 := by
  unfold execRefclkReturn at e
  revert e
  with_reducible repeat' first
    | assumption | exact Keeps.refl _ | (intro e; cases e; done)
    | (intro e; injection e with e; injection e with _ e; subst e) | (intro e; injection e with e; subst e)
    | (apply legal_mk; assumption) | split | dsimp only | apply keeps_mk | apply legal_mk | intro _

theorem keeps_bankLose {z : State} {s : State} (n : Nat) (hK : Keeps z s) :
    Keeps z (bankLose s n) := by
  unfold bankLose
  with_reducible repeat' first
    | assumption | exact Keeps.refl _ | intro _ | refine keeps_ite (fun _ => ?_) (fun _ => ?_)
    | apply keeps_bankStatePut | apply keeps_memScrub | apply keeps_readyClear | (apply legal_mk; assumption) | split
    | dsimp only | apply keeps_mk | apply legal_mk

theorem keeps_clusterLose {z : State} {s : State} (n : Nat) (hK : Keeps z s) :
    Keeps z (clusterLose s n) := by
  unfold clusterLose
  with_reducible repeat' first
    | assumption | exact Keeps.refl _ | intro _ | refine keeps_ite (fun _ => ?_) (fun _ => ?_)
    | apply keeps_clusterReport | apply keeps_coreReset | apply keeps_lockSet | apply keeps_setCoreState
    | apply keeps_standbyFollow | apply keeps_modCore | apply keeps_setCore | apply keeps_foldl
    | (apply legal_mk; assumption) | split | dsimp only | apply keeps_mk | apply legal_mk

theorem keeps_barFilter {z s : State} (f : Nat × BitVec 64 → Bool) (h : Keeps z s) :
    Keeps z { s with bar := s.bar.filter f } :=
  ⟨h.1, fun i => by have := h.2 i; exact ⟨this.1, this.2.1, this.2.2.1, tabWf_filter f this.2.2.2.1, this.2.2.2.2⟩⟩

theorem keeps_hlLose {z s : State} (hK : Keeps z s) : Keeps z (hlLose s) := by
  unfold hlLose
  exact (keeps_barFilter (fun p => p.1 == bELCOUNT || (decide (0x5100 ≤ p.1) && decide (p.1 < 0x6000)))
    (keeps_flrDo (keeps_linkDown hK))).of_same rfl rfl rfl rfl rfl rfl rfl rfl

theorem keeps_execPgNFall {z s s2 : State} {i : Fin 14} (e : execPgNFall i s = .next s2) (hK : Keeps z s) :
    Keeps z s2 := by
  unfold execPgNFall at e
  revert e
  with_reducible repeat' first
    | assumption | exact Keeps.refl _ | (intro e; cases e; done)
    | (intro e; injection e with e; injection e with _ e; subst e) | (intro e; injection e with e; subst e)
    | refine keeps_ite (fun _ => ?_) (fun _ => ?_) | apply keeps_bankLose | apply keeps_clusterLose
    | apply keeps_hlLose | apply keeps_hostReset | apply keeps_hubEval | apply keeps_foldl
    | (apply legal_mk; assumption) | split | dsimp only | apply keeps_mk | apply legal_mk | intro _

theorem keeps_execPgNRise {z s s2 : State} {i : Fin 14} (e : execPgNRise i s = .next s2) (hK : Keeps z s) :
    Keeps z s2 := by
  unfold execPgNRise at e
  revert e
  with_reducible repeat' first
    | assumption | exact Keeps.refl _ | (intro e; cases e; done)
    | (intro e; injection e with e; injection e with _ e; subst e) | (intro e; injection e with e; subst e)
    | refine keeps_ite (fun _ => ?_) (fun _ => ?_) | apply keeps_bankStatePut | apply keeps_foldl
    | (apply legal_mk; assumption) | split | dsimp only | apply keeps_mk | apply legal_mk | intro _

theorem keeps_execVidalert {z s s2 : State} {i : Fin 14} {code : BitVec 8} (e : execVidalert i code s = .next s2) (hK : Keeps z s) :
    Keeps z s2 := by
  unfold execVidalert at e
  revert e
  with_reducible repeat' first
    | assumption | exact Keeps.refl _ | (intro e; cases e; done)
    | (intro e; injection e with e; injection e with _ e; subst e) | (intro e; injection e with e; subst e)
    | refine keeps_ite (fun _ => ?_) (fun _ => ?_) | apply keeps_elWrite | apply keeps_ioSetB | apply keeps_raise
    | (apply legal_mk; assumption) | split | dsimp only | apply keeps_mk | apply legal_mk | intro _

theorem keeps_execVidalertRelease {z s s2 : State}  (e : execVidalertRelease s = .next s2) (hK : Keeps z s) :
    Keeps z s2 := by
  unfold execVidalertRelease at e
  revert e
  with_reducible repeat' first
    | assumption | exact Keeps.refl _ | (intro e; cases e; done)
    | (intro e; injection e with e; injection e with _ e; subst e) | (intro e; injection e with e; subst e)
    | (apply legal_mk; assumption) | split | dsimp only | apply keeps_mk | apply legal_mk | intro _

theorem keeps_execRegulatorAck {z s s2 : State} {i : Fin 14} {code : BitVec 8} (e : execRegulatorAck i code s = .next s2) (hK : Keeps z s) :
    Keeps z s2 := by
  unfold execRegulatorAck at e
  revert e
  with_reducible repeat' first
    | assumption | exact Keeps.refl _ | (intro e; cases e; done)
    | (intro e; injection e with e; injection e with _ e; subst e) | (intro e; injection e with e; subst e)
    | refine keeps_ite (fun _ => ?_) (fun _ => ?_) | apply keeps_ioSetF | split | dsimp only | intro _

theorem keeps_vidRequest {z : State} {s : State} (i code : Nat) (hK : Keeps z s) :
    Keeps z (vidRequest s i code) := by
  unfold vidRequest
  with_reducible repeat' first
    | assumption | exact Keeps.refl _ | intro _ | refine keeps_ite (fun _ => ?_) (fun _ => ?_) | apply keeps_emit
    | split | dsimp only

theorem keeps_clockPut {z : State} {s : State} (i f : Nat) (hK : Keeps z s) :
    Keeps z (clockPut s i f) := by
  unfold clockPut
  with_reducible repeat' first
    | assumption | exact Keeps.refl _ | intro _ | refine keeps_ite (fun _ => ?_) (fun _ => ?_) | apply keeps_ioSetB
    | apply keeps_ioSetF | apply keeps_raise | apply keeps_foldl | split | dsimp only

theorem keeps_quietSlow {z : State} {s : State} (i : Nat) (hK : Keeps z s) :
    Keeps z (quietSlow s i) := by
  unfold quietSlow
  with_reducible repeat' first
    | assumption | exact Keeps.refl _ | intro _ | refine keeps_ite (fun _ => ?_) (fun _ => ?_) | apply keeps_modCore
    | apply keeps_foldl | (apply legal_mk; assumption) | split | dsimp only | apply keeps_mk | apply legal_mk

theorem keeps_clockLower {z : State} {s : State} (i : Nat) (hK : Keeps z s) :
    Keeps z (clockLower s i) := by
  unfold clockLower
  with_reducible repeat' first
    | assumption | exact Keeps.refl _ | intro _ | refine keeps_ite (fun _ => ?_) (fun _ => ?_) | apply keeps_clockPut
    | apply keeps_ioSetB | apply keeps_quietSlow | apply keeps_vidRequest | split | dsimp only

theorem keeps_clockMove {z : State} {s : State} (i v : Nat) (spare : Bool) (hK : Keeps z s) :
    Keeps z (clockMove s i v spare) := by
  unfold clockMove
  with_reducible repeat' first
    | assumption | exact Keeps.refl _ | intro _ | refine keeps_ite (fun _ => ?_) (fun _ => ?_) | apply keeps_clockPut
    | apply keeps_vidRequest | split | dsimp only

theorem keeps_execAdaptiveStep {z s s2 : State} {i : Fin 8} {v : Option (BitVec 8)} {spare : Bool} (e : execAdaptiveStep i v spare s = .next s2) (hK : Keeps z s) :
    Keeps z s2 := by
  unfold execAdaptiveStep at e
  revert e
  with_reducible repeat' first
    | assumption | exact Keeps.refl _ | (intro e; cases e; done)
    | (intro e; injection e with e; injection e with _ e; subst e) | (intro e; injection e with e; subst e)
    | refine keeps_ite (fun _ => ?_) (fun _ => ?_) | apply keeps_clockLower | apply keeps_clockMove
    | apply keeps_ioSetB | split | dsimp only | intro _

theorem keeps_sensCross {z : State} {s : State} (i b : Nat) (hK : Keeps z s) :
    Keeps z (sensCross s i b) := by
  unfold sensCross
  with_reducible repeat' first
    | assumption | exact Keeps.refl _ | intro _ | refine keeps_ite (fun _ => ?_) (fun _ => ?_) | apply keeps_ioSetB
    | apply keeps_raise | apply keeps_tamper | apply keeps_modCore | (apply legal_mk; assumption) | split
    | dsimp only | apply keeps_mk | apply legal_mk

theorem keeps_execSensorSample {z s s2 : State} {i : Fin 14} {volt temp : BitVec 8} (e : execSensorSample i volt temp s = .next s2) (hK : Keeps z s) :
    Keeps z s2 := by
  unfold execSensorSample at e
  revert e
  with_reducible repeat' first
    | assumption | exact Keeps.refl _ | (intro e; cases e; done)
    | (intro e; injection e with e; injection e with _ e; subst e) | (intro e; injection e with e; subst e)
    | refine keeps_ite (fun _ => ?_) (fun _ => ?_) | apply keeps_ioSetF | apply keeps_sensCross | apply keeps_tamper
    | split | dsimp only | intro _

theorem keeps_execSensorHardLimit {z s s2 : State} {i : Fin 14} {k : HardCause} (e : execSensorHardLimit i k s = .next s2) (hK : Keeps z s) :
    Keeps z s2 := by
  unfold execSensorHardLimit at e
  revert e
  with_reducible repeat' first
    | assumption | exact Keeps.refl _ | (intro e; cases e; done)
    | (intro e; injection e with e; injection e with _ e; subst e) | (intro e; injection e with e; subst e)
    | refine keeps_ite (fun _ => ?_) (fun _ => ?_) | apply keeps_tamper | split | dsimp only | intro _

theorem keeps_execVeneerMismatch {z s s2 : State}  (e : execVeneerMismatch s = .next s2) (hK : Keeps z s) :
    Keeps z s2 := by
  unfold execVeneerMismatch at e
  revert e
  with_reducible repeat' first
    | assumption | exact Keeps.refl _ | (intro e; cases e; done)
    | (intro e; injection e with e; injection e with _ e; subst e) | (intro e; injection e with e; subst e)
    | refine keeps_ite (fun _ => ?_) (fun _ => ?_) | apply keeps_assertLevel | apply keeps_tamper | split
    | dsimp only | intro _

theorem keeps_execDualRailDisagree {z s s2 : State}  (e : execDualRailDisagree s = .next s2) (hK : Keeps z s) :
    Keeps z s2 := by
  unfold execDualRailDisagree at e
  revert e
  with_reducible repeat' first
    | assumption | exact Keeps.refl _ | (intro e; cases e; done)
    | (intro e; injection e with e; injection e with _ e; subst e) | (intro e; injection e with e; subst e)
    | refine keeps_ite (fun _ => ?_) (fun _ => ?_) | apply keeps_tamper | split | dsimp only | intro _

theorem keeps_dbgResult {z : State} {s : State} (r : Nat) (hK : Keeps z s) :
    Keeps z (dbgResult s r) := by
  unfold dbgResult
  with_reducible repeat' first
    | assumption | exact Keeps.refl _ | intro _ | apply keeps_ioSetF | split | dsimp only

theorem keeps_dbgAnswer {z : State} {s : State} (w : Word) (hK : Keeps z s) :
    Keeps z (dbgAnswer s w) := by
  unfold dbgAnswer
  with_reducible repeat' first
    | assumption | exact Keeps.refl _ | intro _ | apply keeps_dbgResult | apply keeps_barPut | split | dsimp only

theorem keeps_dbgLeave {z : State} {s : State}  (hK : Keeps z s) :
    Keeps z (dbgLeave s) := by
  unfold dbgLeave
  with_reducible repeat' first
    | assumption | exact Keeps.refl _ | intro _ | refine keeps_ite (fun _ => ?_) (fun _ => ?_)
    | apply keeps_dbgDetach | apply keeps_setCause | split | dsimp only

theorem keeps_dbgLock {z : State} {s : State}  (hK : Keeps z s) :
    Keeps z (dbgLock s) := by
  unfold dbgLock
  with_reducible repeat' first
    | assumption | exact Keeps.refl _ | intro _ | apply keeps_dbgLeave | apply keeps_ioSetB | split | dsimp only

theorem keeps_dbgDeny {z s : State} (level : Nat) (tap : Bool) (op reason : Nat) (p1 : Word) (hK : Keeps z s) :
    Keeps z (dbgDeny s level tap op reason p1) := by
  unfold dbgDeny
  extract_lets n s1
  have h1 : Keeps z s1 := keeps_raise _ (keeps_ioSetB _ _ _ (keeps_ioSetF _ _ _ _ (keeps_dbgResult _ hK)))
  clear_value s1 n
  split
  next ok t e =>
    have h2 : Keeps z t := keeps_ledgTake_eq e h1
    exact keeps_ite (fun _ => keeps_dbgLock h2) fun _ => h2

theorem keeps_dbgNo {z : State} {s : State} (tap : Bool) (op reason : Nat) (p1 : Word) (hK : Keeps z s) :
    Keeps z (dbgNo s tap op reason p1) := by
  unfold dbgNo
  with_reducible repeat' first
    | assumption | exact Keeps.refl _ | intro _ | apply keeps_dbgDeny | split | dsimp only

theorem keeps_dbgNoRead {z : State} {s : State} (tap : Bool) (op : Nat) (p1 : Word) (hK : Keeps z s) :
    Keeps z (dbgNoRead s tap op p1) := by
  unfold dbgNoRead
  with_reducible repeat' first
    | assumption | exact Keeps.refl _ | intro _ | apply keeps_dbgNo | apply keeps_barPut | split | dsimp only

theorem keeps_dbgFail {z : State} {s : State}  (hK : Keeps z s) :
    Keeps z (dbgFail s) := by
  unfold dbgFail
  with_reducible repeat' first
    | assumption | exact Keeps.refl _ | intro _ | apply keeps_dbgDeny | (apply legal_mk; assumption) | split
    | dsimp only | apply keeps_mk | apply legal_mk

theorem keeps_openDo {z : State} {s : State} (tap : Bool) (k : Nat) (hK : Keeps z s) :
    Keeps z (openDo s tap k) := by
  unfold openDo
  with_reducible repeat' first
    | assumption | exact Keeps.refl _ | intro _ | refine keeps_ite (fun _ => ?_) (fun _ => ?_)
    | apply keeps_dbgResult | apply keeps_bump | (apply legal_mk; assumption) | split | dsimp only | apply keeps_mk
    | apply legal_mk

theorem keeps_respondDo {z : State} {s : State} (tap : Bool) (hK : Keeps z s) :
    Keeps z (respondDo s tap) := by
  unfold respondDo
  with_reducible repeat' first
    | assumption | exact Keeps.refl _ | intro _ | refine keeps_ite (fun _ => ?_) (fun _ => ?_) | apply keeps_dbgFail
    | apply keeps_dbgResult | apply keeps_ioSetB | apply keeps_jobStart | (apply legal_mk; assumption) | split
    | dsimp only | apply keeps_mk | apply legal_mk

theorem keeps_verifyEnd {z : State} {s : State} (ok : Bool) (hK : Keeps z s) :
    Keeps z (verifyEnd s ok) := by
  unfold verifyEnd
  with_reducible repeat' first
    | assumption | exact Keeps.refl _ | intro _ | refine keeps_ite (fun _ => ?_) (fun _ => ?_) | apply keeps_dbgFail
    | apply keeps_dbgResult | apply keeps_ioSetB | apply keeps_ioSetF | apply keeps_setCause
    | (apply legal_mk; assumption) | split | dsimp only | apply keeps_mk | apply legal_mk

theorem keeps_closeDo {z : State} {s : State} (tap : Bool) (hK : Keeps z s) :
    Keeps z (closeDo s tap) := by
  unfold closeDo
  with_reducible repeat' first
    | assumption | exact Keeps.refl _ | intro _ | refine keeps_ite (fun _ => ?_) (fun _ => ?_) | apply keeps_dbgLeave
    | apply keeps_dbgResult | split | dsimp only

theorem keeps_readDataDo {z : State} {s : State} (tap : Bool) (a : Nat) (hK : Keeps z s) :
    Keeps z (readDataDo s tap a) := by
  unfold readDataDo
  with_reducible repeat' first
    | assumption | exact Keeps.refl _ | intro _ | refine keeps_ite (fun _ => ?_) (fun _ => ?_)
    | apply keeps_dbgAnswer | apply keeps_dbgNo | apply keeps_dbgNoRead | apply keeps_dbgResult | apply keeps_eccRead
    | apply keeps_bump | split | dsimp only

theorem keeps_writeDataDo {z : State} {s : State} (tap : Bool) (a : Nat) (w : Word) (hK : Keeps z s) :
    Keeps z (writeDataDo s tap a w) := by
  unfold writeDataDo
  with_reducible repeat' first
    | assumption | exact Keeps.refl _ | intro _ | refine keeps_ite (fun _ => ?_) (fun _ => ?_) | apply keeps_dbgNo
    | apply keeps_dbgResult | apply keeps_memPut | split | dsimp only

theorem keeps_readIoDo {z : State} {s : State} (tap : Bool) (a : Nat) (hK : Keeps z s) :
    Keeps z (readIoDo s tap a) := by
  unfold readIoDo
  with_reducible repeat' first
    | assumption | exact Keeps.refl _ | intro _ | refine keeps_ite (fun _ => ?_) (fun _ => ?_)
    | apply keeps_dbgAnswer | apply keeps_dbgNo | apply keeps_dbgNoRead | apply keeps_dbgResult | split | dsimp only

theorem keeps_brkDo {z : State} {s : State} (tap : Bool) (op a : Nat) (w : Nat) (p1 : Word) (hK : Keeps z s) :
    Keeps z (brkDo s tap op a w p1) := by
  unfold brkDo
  with_reducible repeat' first
    | assumption | exact Keeps.refl _ | intro _ | refine keeps_ite (fun _ => ?_) (fun _ => ?_) | apply keeps_dbgNo
    | apply keeps_dbgResult | apply keeps_ioPut | split | dsimp only

theorem keeps_dbgPerform {z : State} {s : State} (ring : Nat) (i : RegInfo) (a : Nat) (w : Word) (hK : Keeps z s) :
    Keeps z (dbgPerform s ring i a w) := by
  unfold dbgPerform
  with_reducible repeat' first
    | assumption | exact Keeps.refl _ | intro _ | refine keeps_ite (fun _ => ?_) (fun _ => ?_)
    | apply keeps_dbgResult | apply keeps_dhCfg | refine keeps_ioPerform (by assumption) ?_ | apply keeps_raise
    | split | dsimp only

theorem keeps_writeIoDo {z : State} {s : State} (tap : Bool) (a : Nat) (w : Word) (hK : Keeps z s) :
    Keeps z (writeIoDo s tap a w) := by
  unfold writeIoDo
  with_reducible repeat' first
    | assumption | exact Keeps.refl _ | intro _ | refine keeps_ite (fun _ => ?_) (fun _ => ?_) | apply keeps_brkDo
    | apply keeps_dbgNo | apply keeps_dbgPerform | apply keeps_dbgResult | split | dsimp only

theorem keeps_readCsDo {z : State} {s : State} (tap : Bool) (l : Nat) (hK : Keeps z s) :
    Keeps z (readCsDo s tap l) := by
  unfold readCsDo
  with_reducible repeat' first
    | assumption | exact Keeps.refl _ | intro _ | refine keeps_ite (fun _ => ?_) (fun _ => ?_) | apply keeps_csNote
    | apply keeps_dbgAnswer | apply keeps_dbgNo | apply keeps_dbgNoRead | apply keeps_dbgResult | split | dsimp only

theorem keeps_writeCsDo {z : State} {s : State} (tap : Bool) (l : Nat) (w : Word) (hK : Keeps z s) :
    Keeps z (writeCsDo s tap l w) := by
  unfold writeCsDo
  with_reducible repeat' first
    | assumption | exact Keeps.refl _ | intro _ | refine keeps_ite (fun _ => ?_) (fun _ => ?_) | apply keeps_dbgNo
    | apply keeps_dbgResult | apply keeps_csPut | split | dsimp only

theorem keeps_coreOp {z s : State} (tap : Bool) (op : Nat) (f : State) (ok : Bool) (hf : Keeps z f) (hK : Keeps z s) :
    Keeps z (coreOp s tap op f ok) := by
  unfold coreOp
  exact keeps_ite (fun _ => keeps_dbgNo _ _ _ _ hK) fun _ => keeps_ite (fun _ => keeps_dbgResult _ hf) fun _ => keeps_dbgResult _ hK

theorem keeps_haltDo {z : State} {s : State} (tap : Bool) (k : Nat) (hK : Keeps z s) :
    Keeps z (haltDo s tap k) := by
  unfold haltDo
  with_reducible repeat' first
    | assumption | exact Keeps.refl _ | intro _ | apply keeps_coreOp | apply keeps_modCore
    | (apply legal_mk; assumption) | split | dsimp only | apply keeps_mk | apply legal_mk

theorem keeps_resumeDo {z : State} {s : State} (tap : Bool) (k : Nat) (hK : Keeps z s) :
    Keeps z (resumeDo s tap k) := by
  unfold resumeDo
  with_reducible repeat' first
    | assumption | exact Keeps.refl _ | intro _ | apply keeps_coreOp | apply keeps_modCore
    | (apply legal_mk; assumption) | split | dsimp only | apply keeps_mk | apply legal_mk

theorem keeps_stepDo {z : State} {s : State} (tap : Bool) (k : Nat) (hK : Keeps z s) :
    Keeps z (stepDo s tap k) := by
  unfold stepDo
  with_reducible repeat' first
    | assumption | exact Keeps.refl _ | intro _ | apply keeps_coreOp | apply keeps_modCore
    | (apply legal_mk; assumption) | split | dsimp only | apply keeps_mk | apply legal_mk

theorem keeps_setBrkDo {z : State} {s : State} (tap : Bool) (k n l : Nat) (en : Bool) (hK : Keeps z s) :
    Keeps z (setBrkDo s tap k n l en) := by
  unfold setBrkDo
  with_reducible repeat' first
    | assumption | exact Keeps.refl _ | intro _ | refine keeps_ite (fun _ => ?_) (fun _ => ?_) | apply keeps_brkDo
    | apply keeps_dbgNo | split | dsimp only

theorem keeps_readRegDo {z : State} {s : State} (tap : Bool) (k sel : Nat) (hK : Keeps z s) :
    Keeps z (readRegDo s tap k sel) := by
  unfold readRegDo
  with_reducible repeat' first
    | assumption | exact Keeps.refl _ | intro _ | refine keeps_ite (fun _ => ?_) (fun _ => ?_)
    | apply keeps_dbgAnswer | apply keeps_dbgNo | apply keeps_dbgNoRead | apply keeps_dbgResult | split | dsimp only

theorem keeps_haltNow {z : State} {s : State} (c : Nat) (hK : Keeps z s) :
    Keeps z (haltNow s c) := by
  unfold haltNow
  with_reducible repeat' first
    | assumption | exact Keeps.refl _ | intro _ | apply keeps_modCore | (apply legal_mk; assumption) | split
    | dsimp only | apply keeps_mk | apply legal_mk

theorem keeps_dmCmd {z : State} {s : State} (tap : Bool) (w : Nat) (hK : Keeps z s) :
    Keeps z (dmCmd s tap w) := by
  unfold dmCmd
  with_reducible repeat' first
    | assumption | exact Keeps.refl _ | intro _ | refine keeps_ite (fun _ => ?_) (fun _ => ?_) | apply keeps_closeDo
    | apply keeps_dbgResult | apply keeps_haltDo | apply keeps_openDo | apply keeps_readCsDo | apply keeps_readDataDo
    | apply keeps_readIoDo | apply keeps_readRegDo | apply keeps_respondDo | apply keeps_resumeDo
    | apply keeps_setBrkDo | apply keeps_stepDo | apply keeps_writeCsDo | apply keeps_writeDataDo
    | apply keeps_writeIoDo | split | dsimp only

theorem keeps_dmRow {z : State} {s : State} (tap : Bool) (w : Nat) (a d : Option Nat) (hK : Keeps z s) :
    Keeps z (dmRow s tap w a d) := by
  unfold dmRow
  with_reducible repeat' first
    | assumption | exact Keeps.refl _ | intro _ | refine keeps_ite (fun _ => ?_) (fun _ => ?_) | apply keeps_dmCmd
    | apply keeps_hostActive | apply keeps_barPut | split | dsimp only

theorem keeps_execDbgOpen {z s s2 : State} {tap : Bool} {level : BitVec 2} (e : execDbgOpen tap level s = .next s2) (hK : Keeps z s) :
    Keeps z s2 := by
  unfold execDbgOpen at e
  revert e
  with_reducible repeat' first
    | assumption | exact Keeps.refl _ | (intro e; cases e; done)
    | (intro e; injection e with e; injection e with _ e; subst e) | (intro e; injection e with e; subst e)
    | apply keeps_dmRow | split | dsimp only | intro _

theorem keeps_execDbgRespond {z s s2 : State} {tap : Bool} {resp : BitVec 128} (e : execDbgRespond tap resp s = .next s2) (hK : Keeps z s) :
    Keeps z s2 := by
  unfold execDbgRespond at e
  revert e
  with_reducible repeat' first
    | assumption | exact Keeps.refl _ | (intro e; cases e; done)
    | (intro e; injection e with e; injection e with _ e; subst e) | (intro e; injection e with e; subst e)
    | refine keeps_ite (fun _ => ?_) (fun _ => ?_) | apply keeps_dmRow | (apply legal_mk; assumption) | split
    | dsimp only | apply keeps_mk | apply legal_mk | intro _

theorem keeps_execDebugVerifyDone {z s s2 : State} {st : BitVec 3} (e : execDebugVerifyDone st s = .next s2) (hK : Keeps z s) :
    Keeps z s2 := by
  unfold execDebugVerifyDone at e
  revert e
  with_reducible repeat' first
    | assumption | exact Keeps.refl _ | (intro e; cases e; done)
    | (intro e; injection e with e; injection e with _ e; subst e) | (intro e; injection e with e; subst e)
    | refine keeps_ite (fun _ => ?_) (fun _ => ?_) | apply keeps_jobDone | apply keeps_verifyEnd | split | dsimp only
    | intro _

theorem keeps_execChallengeExpiry {z s s2 : State}  (e : execChallengeExpiry s = .next s2) (hK : Keeps z s) :
    Keeps z s2 := by
  unfold execChallengeExpiry at e
  revert e
  with_reducible repeat' first
    | assumption | exact Keeps.refl _ | (intro e; cases e; done)
    | (intro e; injection e with e; injection e with _ e; subst e) | (intro e; injection e with e; subst e)
    | refine keeps_ite (fun _ => ?_) (fun _ => ?_) | apply keeps_dbgFail | split | dsimp only | intro _

theorem keeps_execCipherJobTimeout {z s s2 : State} {n : Fin 34} (e : execCipherJobTimeout n s = .next s2) (hK : Keeps z s) :
    Keeps z s2 := by
  unfold execCipherJobTimeout at e
  revert e
  with_reducible repeat' first
    | assumption | exact Keeps.refl _ | (intro e; cases e; done)
    | (intro e; injection e with e; injection e with _ e; subst e) | (intro e; injection e with e; subst e)
    | refine keeps_ite (fun _ => ?_) (fun _ => ?_) | apply keeps_ciphWake | apply keeps_jobTimeout
    | apply keeps_sealEnd | apply keeps_verifyEnd | split | dsimp only | intro _

theorem keeps_execDbgClose {z s s2 : State} {tap : Bool} (e : execDbgClose tap s = .next s2) (hK : Keeps z s) :
    Keeps z s2 := by
  unfold execDbgClose at e
  revert e
  with_reducible repeat' first
    | assumption | exact Keeps.refl _ | (intro e; cases e; done)
    | (intro e; injection e with e; injection e with _ e; subst e) | (intro e; injection e with e; subst e)
    | apply keeps_dmRow | split | dsimp only | intro _

theorem keeps_execDebugReadData {z s s2 : State} {tap : Bool} {addr : Payload} (e : execDebugReadData tap addr s = .next s2) (hK : Keeps z s) :
    Keeps z s2 := by
  unfold execDebugReadData at e
  revert e
  with_reducible repeat' first
    | assumption | exact Keeps.refl _ | (intro e; cases e; done)
    | (intro e; injection e with e; injection e with _ e; subst e) | (intro e; injection e with e; subst e)
    | apply keeps_dmRow | split | dsimp only | intro _

theorem keeps_execDebugWriteData {z s s2 : State} {tap : Bool} {addr : Payload} {w : Word} (e : execDebugWriteData tap addr w s = .next s2) (hK : Keeps z s) :
    Keeps z s2 := by
  unfold execDebugWriteData at e
  revert e
  with_reducible repeat' first
    | assumption | exact Keeps.refl _ | (intro e; cases e; done)
    | (intro e; injection e with e; injection e with _ e; subst e) | (intro e; injection e with e; subst e)
    | apply keeps_dmRow | split | dsimp only | intro _

theorem keeps_execDebugReadIo {z s s2 : State} {tap : Bool} {addr : BitVec 24} (e : execDebugReadIo tap addr s = .next s2) (hK : Keeps z s) :
    Keeps z s2 := by
  unfold execDebugReadIo at e
  revert e
  with_reducible repeat' first
    | assumption | exact Keeps.refl _ | (intro e; cases e; done)
    | (intro e; injection e with e; injection e with _ e; subst e) | (intro e; injection e with e; subst e)
    | apply keeps_dmRow | split | dsimp only | intro _

theorem keeps_execDebugWriteIo {z s s2 : State} {tap : Bool} {addr : BitVec 24} {w : Word} (e : execDebugWriteIo tap addr w s = .next s2) (hK : Keeps z s) :
    Keeps z s2 := by
  unfold execDebugWriteIo at e
  revert e
  with_reducible repeat' first
    | assumption | exact Keeps.refl _ | (intro e; cases e; done)
    | (intro e; injection e with e; injection e with _ e; subst e) | (intro e; injection e with e; subst e)
    | apply keeps_dmRow | split | dsimp only | intro _

theorem keeps_execDebugReadCs {z s s2 : State} {tap : Bool} {l : Link} (e : execDebugReadCs tap l s = .next s2) (hK : Keeps z s) :
    Keeps z s2 := by
  unfold execDebugReadCs at e
  revert e
  with_reducible repeat' first
    | assumption | exact Keeps.refl _ | (intro e; cases e; done)
    | (intro e; injection e with e; injection e with _ e; subst e) | (intro e; injection e with e; subst e)
    | apply keeps_dmRow | split | dsimp only | intro _

theorem keeps_execDebugWriteCs {z s s2 : State} {tap : Bool} {l : Link} {w : Word} (e : execDebugWriteCs tap l w s = .next s2) (hK : Keeps z s) :
    Keeps z s2 := by
  unfold execDebugWriteCs at e
  revert e
  with_reducible repeat' first
    | assumption | exact Keeps.refl _ | (intro e; cases e; done)
    | (intro e; injection e with e; injection e with _ e; subst e) | (intro e; injection e with e; subst e)
    | apply keeps_dmRow | split | dsimp only | intro _

theorem keeps_execDbgHalt {z s s2 : State} {tap : Bool} {k : CoreId} (e : execDbgHalt tap k s = .next s2) (hK : Keeps z s) :
    Keeps z s2 := by
  unfold execDbgHalt at e
  revert e
  with_reducible repeat' first
    | assumption | exact Keeps.refl _ | (intro e; cases e; done)
    | (intro e; injection e with e; injection e with _ e; subst e) | (intro e; injection e with e; subst e)
    | apply keeps_dmRow | split | dsimp only | intro _

theorem keeps_execDebugHaltReached {z s s2 : State} {c : CoreId} (e : execDebugHaltReached c s = .next s2) (hK : Keeps z s) :
    Keeps z s2 := by
  unfold execDebugHaltReached at e
  revert e
  with_reducible repeat' first
    | assumption | exact Keeps.refl _ | (intro e; cases e; done)
    | (intro e; injection e with e; injection e with _ e; subst e) | (intro e; injection e with e; subst e)
    | refine keeps_ite (fun _ => ?_) (fun _ => ?_) | apply keeps_haltNow | split | dsimp only | intro _

theorem keeps_execDbgResume {z s s2 : State} {tap : Bool} {k : CoreId} (e : execDbgResume tap k s = .next s2) (hK : Keeps z s) :
    Keeps z s2 := by
  unfold execDbgResume at e
  revert e
  with_reducible repeat' first
    | assumption | exact Keeps.refl _ | (intro e; cases e; done)
    | (intro e; injection e with e; injection e with _ e; subst e) | (intro e; injection e with e; subst e)
    | apply keeps_dmRow | split | dsimp only | intro _

theorem keeps_execDbgStep {z s s2 : State} {tap : Bool} {k : CoreId} (e : execDbgStep tap k s = .next s2) (hK : Keeps z s) :
    Keeps z s2 := by
  unfold execDbgStep at e
  revert e
  with_reducible repeat' first
    | assumption | exact Keeps.refl _ | (intro e; cases e; done)
    | (intro e; injection e with e; injection e with _ e; subst e) | (intro e; injection e with e; subst e)
    | apply keeps_dmRow | split | dsimp only | intro _

theorem keeps_execDbgSetBreakpoint {z s s2 : State} {tap : Bool} {k : CoreId} {n : Fin 4} {l : Link} {en : Bool} (e : execDbgSetBreakpoint tap k n l en s = .next s2) (hK : Keeps z s) :
    Keeps z s2 := by
  unfold execDbgSetBreakpoint at e
  revert e
  with_reducible repeat' first
    | assumption | exact Keeps.refl _ | (intro e; cases e; done)
    | (intro e; injection e with e; injection e with _ e; subst e) | (intro e; injection e with e; subst e)
    | apply keeps_dmRow | split | dsimp only | intro _

theorem keeps_execBreakpointHalt {z s s2 : State} {c : CoreId} {n : Fin 4} (e : execBreakpointHalt c n s = .next s2) (hK : Keeps z s) :
    Keeps z s2 := by
  unfold execBreakpointHalt at e
  revert e
  with_reducible repeat' first
    | assumption | exact Keeps.refl _ | (intro e; cases e; done)
    | (intro e; injection e with e; injection e with _ e; subst e) | (intro e; injection e with e; subst e)
    | refine keeps_ite (fun _ => ?_) (fun _ => ?_) | apply keeps_haltNow | split | dsimp only | intro _

theorem keeps_execDbgReadRegister {z s s2 : State} {tap : Bool} {k : CoreId} {sel : BitVec 6} (e : execDbgReadRegister tap k sel s = .next s2) (hK : Keeps z s) :
    Keeps z s2 := by
  unfold execDbgReadRegister at e
  revert e
  with_reducible repeat' first
    | assumption | exact Keeps.refl _ | (intro e; cases e; done)
    | (intro e; injection e with e; injection e with _ e; subst e) | (intro e; injection e with e; subst e)
    | apply keeps_dmRow | split | dsimp only | intro _

theorem keeps_tapSet {z : State} {s : State} (ir : Nat) (dr : BitVec 64) (hK : Keeps z s) :
    Keeps z (tapSet s ir dr) := by
  unfold tapSet
  with_reducible repeat' first
    | assumption | exact Keeps.refl _ | intro _ | apply keeps_emit | (apply legal_mk; assumption) | split
    | dsimp only | apply keeps_mk | apply legal_mk

theorem keeps_execTapBypass {z s s2 : State}  (e : execTapBypass s = .next s2) (hK : Keeps z s) :
    Keeps z s2 := by
  unfold execTapBypass at e
  revert e
  with_reducible repeat' first
    | assumption | exact Keeps.refl _ | (intro e; cases e; done)
    | (intro e; injection e with e; injection e with _ e; subst e) | (intro e; injection e with e; subst e)
    | apply keeps_tapSet | split | dsimp only | intro _

theorem keeps_execTapIdcode {z s s2 : State}  (e : execTapIdcode s = .next s2) (hK : Keeps z s) :
    Keeps z s2 := by
  unfold execTapIdcode at e
  revert e
  with_reducible repeat' first
    | assumption | exact Keeps.refl _ | (intro e; cases e; done)
    | (intro e; injection e with e; injection e with _ e; subst e) | (intro e; injection e with e; subst e)
    | apply keeps_tapSet | split | dsimp only | intro _

theorem keeps_tapScan {z : State} {s : State} (ir : Nat) (hK : Keeps z s) :
    Keeps z (tapScan s ir) := by
  unfold tapScan
  with_reducible repeat' first
    | assumption | exact Keeps.refl _ | intro _ | refine keeps_ite (fun _ => ?_) (fun _ => ?_) | apply keeps_tapSet
    | apply keeps_bump | split | dsimp only

theorem keeps_execTapSamplePreload {z s s2 : State}  (e : execTapSamplePreload s = .next s2) (hK : Keeps z s) :
    Keeps z s2 := by
  unfold execTapSamplePreload at e
  revert e
  with_reducible repeat' first
    | assumption | exact Keeps.refl _ | (intro e; cases e; done)
    | (intro e; injection e with e; injection e with _ e; subst e) | (intro e; injection e with e; subst e)
    | apply keeps_tapScan | split | dsimp only | intro _

theorem keeps_execTapExtest {z s s2 : State}  (e : execTapExtest s = .next s2) (hK : Keeps z s) :
    Keeps z s2 := by
  unfold execTapExtest at e
  revert e
  with_reducible repeat' first
    | assumption | exact Keeps.refl _ | (intro e; cases e; done)
    | (intro e; injection e with e; injection e with _ e; subst e) | (intro e; injection e with e; subst e)
    | apply keeps_tapScan | split | dsimp only | intro _

theorem keeps_dmWrite {z : State} {s : State} (tap : Bool) (o v : Nat) (hK : Keeps z s) :
    Keeps z (dmWrite s tap o v) := by
  unfold dmWrite
  with_reducible repeat' first
    | assumption | exact Keeps.refl _ | intro _ | refine keeps_ite (fun _ => ?_) (fun _ => ?_) | apply keeps_dmCmd
    | apply keeps_barPut | (apply legal_mk; assumption) | split | dsimp only | apply keeps_mk | apply legal_mk

theorem keeps_execTapDbgacc {z s s2 : State} {off : BitVec 8} {write : Bool} {w : BitVec 64} (e : execTapDbgacc off write w s = .next s2) (hK : Keeps z s) :
    Keeps z s2 := by
  unfold execTapDbgacc at e
  revert e
  with_reducible repeat' first
    | assumption | exact Keeps.refl _ | (intro e; cases e; done)
    | (intro e; injection e with e; injection e with _ e; subst e) | (intro e; injection e with e; subst e)
    | refine keeps_ite (fun _ => ?_) (fun _ => ?_) | apply keeps_dmWrite | apply keeps_tapSet | split | dsimp only
    | intro _

theorem keeps_modField {z : State} {s : State} (f : Field → Field) (hK : Keeps z s) :
    Keeps z (modField s f) := by
  unfold modField
  with_reducible repeat' first
    | assumption | exact Keeps.refl _ | intro _ | (apply legal_mk; assumption) | split | dsimp only | apply keeps_mk
    | apply legal_mk

theorem keeps_setJig {z : State} {s : State} (j : Nat) (v : Jig) (hK : Keeps z s) :
    Keeps z (setJig s j v) := by
  unfold setJig
  with_reducible repeat' first
    | assumption | exact Keeps.refl _ | intro _ | apply keeps_modField | (apply legal_mk; assumption) | split
    | dsimp only | apply keeps_mk | apply legal_mk

theorem keeps_setPort {z : State} {s : State} (p : Nat) (v : Port) (hK : Keeps z s) :
    Keeps z (setPort s p v) := by
  unfold setPort
  with_reducible repeat' first
    | assumption | exact Keeps.refl _ | intro _ | apply keeps_modField | (apply legal_mk; assumption) | split
    | dsimp only | apply keeps_mk | apply legal_mk

theorem keeps_dfStatus {z : State} {s : State} (f : Nat) (hK : Keeps z s) :
    Keeps z (dfStatus s f) := by
  unfold dfStatus
  with_reducible repeat' first
    | assumption | exact Keeps.refl _ | intro _ | apply keeps_dfSend | split | dsimp only

theorem keeps_dfAnswer {z : State} {s : State} (f : Nat) (refused : Bool) (hK : Keeps z s) :
    Keeps z (dfAnswer s f refused) := by
  unfold dfAnswer
  with_reducible repeat' first
    | assumption | exact Keeps.refl _ | intro _ | apply keeps_dfSend | split | dsimp only

theorem keeps_dfRefuse {z : State} {s : State}  (hK : Keeps z s) :
    Keeps z (dfRefuse s) := by
  unfold dfRefuse
  with_reducible repeat' first
    | assumption | exact Keeps.refl _ | intro _ | apply keeps_dfSend | apply keeps_bump | split | dsimp only

theorem keeps_dfEvent {z : State} {s : State} (src : Nat) (up pad only : Bool) (t : Nat) (hK : Keeps z s) :
    Keeps z (dfEvent s src up pad only t) := by
  unfold dfEvent
  with_reducible repeat' first
    | assumption | exact Keeps.refl _ | intro _ | apply keeps_dfSend | split | dsimp only

theorem keeps_dfPulse {z : State} {s : State} (src : Nat) (pad : Bool) (hK : Keeps z s) :
    Keeps z (dfPulse s src pad) := by
  unfold dfPulse
  with_reducible repeat' first
    | assumption | exact Keeps.refl _ | intro _ | apply keeps_dfEvent | split | dsimp only

theorem keeps_fldReport {z : State} {s : State} (f lo w v : Nat) (hK : Keeps z s) :
    Keeps z (fldReport s f lo w v) := by
  unfold fldReport
  with_reducible repeat' first
    | assumption | exact Keeps.refl _ | intro _ | refine keeps_ite (fun _ => ?_) (fun _ => ?_) | apply keeps_dfStatus
    | apply keeps_fldSetF | split | dsimp only

theorem keeps_chAfter {z : State} {s : State} (old : Nat) (u : Nat) (hK : Keeps z s) :
    Keeps z (chAfter old s u) := by
  unfold chAfter
  with_reducible repeat' first
    | assumption | exact Keeps.refl _ | intro _ | refine keeps_ite (fun _ => ?_) (fun _ => ?_) | apply keeps_dfEvent
    | apply keeps_dfStatus | split | dsimp only

theorem keeps_chSet {z : State} {s : State} (u lo w v : Nat) (hK : Keeps z s) :
    Keeps z (chSet s u lo w v) := by
  unfold chSet
  with_reducible repeat' first
    | assumption | exact Keeps.refl _ | intro _ | apply keeps_chAfter | apply keeps_fldSetF | split | dsimp only

theorem keeps_chFresh {z : State} {s : State} (u lo v : Nat) (hK : Keeps z s) :
    Keeps z (chFresh s u lo v) := by
  unfold chFresh
  with_reducible repeat' first
    | assumption | exact Keeps.refl _ | intro _ | refine keeps_ite (fun _ => ?_) (fun _ => ?_) | apply keeps_chAfter
    | apply keeps_fldSetF | split | dsimp only

theorem keeps_chUpdate {z : State} {s : State} (u : Nat) (hK : Keeps z s) :
    Keeps z (chUpdate s u) := by
  unfold chUpdate
  with_reducible repeat' first
    | assumption | exact Keeps.refl _ | intro _ | refine keeps_ite (fun _ => ?_) (fun _ => ?_) | apply keeps_chFresh
    | apply keeps_modField | (apply legal_mk; assumption) | split | dsimp only | apply keeps_mk | apply legal_mk

theorem keeps_safeEnter {z : State} {s : State} (u : Nat) (hK : Keeps z s) :
    Keeps z (safeEnter s u) := by
  unfold safeEnter
  with_reducible repeat' first
    | assumption | exact Keeps.refl _ | intro _ | refine keeps_ite (fun _ => ?_) (fun _ => ?_) | apply keeps_chSet
    | apply keeps_chUpdate | split | dsimp only

theorem keeps_safeAll {z : State} {s : State}  (hK : Keeps z s) :
    Keeps z (safeAll s) := by
  unfold safeAll
  with_reducible repeat' first
    | assumption | exact Keeps.refl _ | intro _ | apply keeps_modField | apply keeps_safeEnter | apply keeps_foldl
    | (apply legal_mk; assumption) | split | dsimp only | apply keeps_mk | apply legal_mk

theorem keeps_safeLeave {z : State} {s : State} (u : Nat) (hK : Keeps z s) :
    Keeps z (safeLeave s u) := by
  unfold safeLeave
  with_reducible repeat' first
    | assumption | exact Keeps.refl _ | intro _ | apply keeps_chSet | apply keeps_chUpdate | split | dsimp only

theorem keeps_bypassShut {z : State} {s : State} (cause : Nat) (hK : Keeps z s) :
    Keeps z (bypassShut s cause) := by
  unfold bypassShut
  with_reducible repeat' first
    | assumption | exact Keeps.refl _ | intro _ | refine keeps_ite (fun _ => ?_) (fun _ => ?_) | apply keeps_dfStatus
    | apply keeps_fldSetF | split | dsimp only

theorem keeps_bypassAsk {z : State} {s : State}  (hK : Keeps z s) :
    Keeps z (bypassAsk s) := by
  unfold bypassAsk
  with_reducible repeat' first
    | assumption | exact Keeps.refl _ | intro _ | refine keeps_ite (fun _ => ?_) (fun _ => ?_) | apply keeps_dfStatus
    | apply keeps_fldReport | apply keeps_fldSetF | split | dsimp only

theorem keeps_bypassTested {z : State} {s : State} (ok : Bool) (hK : Keeps z s) :
    Keeps z (bypassTested s ok) := by
  unfold bypassTested
  with_reducible repeat' first
    | assumption | exact Keeps.refl _ | intro _ | refine keeps_ite (fun _ => ?_) (fun _ => ?_)
    | apply keeps_bypassShut | apply keeps_dfStatus | apply keeps_fldSetF | split | dsimp only

theorem keeps_dfUnpair {z : State} {s : State}  (hK : Keeps z s) :
    Keeps z (dfUnpair s) := by
  unfold dfUnpair
  with_reducible repeat' first
    | assumption | exact Keeps.refl _ | intro _ | apply keeps_modField | (apply legal_mk; assumption) | split
    | dsimp only | apply keeps_mk | apply legal_mk

theorem keeps_fieldReset {z s : State} (powered : Bool) (hK : Keeps z s) : Keeps z (fieldReset s powered) :=
  ⟨hK.1, fun i => by
    have h := hK.2 i
    exact ⟨h.1, h.2.1, tabWf_filter _ h.2.2.1, h.2.2.2⟩⟩

theorem keeps_supReport {z : State} {s : State} (v : Nat) (hK : Keeps z s) :
    Keeps z (supReport s v) := by
  unfold supReport
  with_reducible repeat' first
    | assumption | exact Keeps.refl _ | intro _ | apply keeps_dfStatus | apply keeps_fldSetF | apply keeps_bump
    | split | dsimp only

theorem keeps_trigStart {z : State} {s : State} (t : Nat) (hK : Keeps z s) :
    Keeps z (trigStart s t) := by
  unfold trigStart
  with_reducible repeat' first
    | assumption | exact Keeps.refl _ | intro _ | apply keeps_modField | (apply legal_mk; assumption) | split
    | dsimp only | apply keeps_mk | apply legal_mk

theorem keeps_trigsWhere {z : State} {s : State} (p : Nat → Bool) (hK : Keeps z s) :
    Keeps z (trigsWhere s p) := by
  unfold trigsWhere
  with_reducible repeat' first
    | assumption | exact Keeps.refl _ | intro _ | apply keeps_trigStart | apply keeps_foldl | split | dsimp only

theorem keeps_flagTrigs {z : State} {s : State} (g k : Nat) (hK : Keeps z s) :
    Keeps z (flagTrigs s g k) := by
  unfold flagTrigs
  with_reducible repeat' first
    | assumption | exact Keeps.refl _ | intro _ | apply keeps_trigsWhere | split | dsimp only

theorem keeps_flagsPut {z : State} {s : State} (g v : Nat) (hK : Keeps z s) :
    Keeps z (flagsPut s g v) := by
  unfold flagsPut
  with_reducible repeat' first
    | assumption | exact Keeps.refl _ | intro _ | apply keeps_flagTrigs | apply keeps_fldSetF | apply keeps_foldl
    | split | dsimp only

theorem keeps_flagOp {z : State} {s : State} (g k op : Nat) (hK : Keeps z s) :
    Keeps z (flagOp s g k op) := by
  unfold flagOp
  with_reducible repeat' first
    | assumption | exact Keeps.refl _ | intro _ | refine keeps_ite (fun _ => ?_) (fun _ => ?_) | apply keeps_flagsPut
    | split | dsimp only

theorem keeps_edgeDo {z : State} {s : State} (u : Nat) (rising : Bool) (t : Nat) (hK : Keeps z s) :
    Keeps z (edgeDo s u rising t) := by
  unfold edgeDo
  with_reducible repeat' first
    | assumption | exact Keeps.refl _ | intro _ | refine keeps_ite (fun _ => ?_) (fun _ => ?_) | apply keeps_chFresh
    | apply keeps_dfEvent | apply keeps_dfSend | apply keeps_modField | apply keeps_trigsWhere
    | (apply legal_mk; assumption) | split | dsimp only | apply keeps_mk | apply legal_mk

theorem keeps_tcurPut {z : State} {s : State} (u v : Nat) (alert : Bool) (hK : Keeps z s) :
    Keeps z (tcurPut s u v alert) := by
  unfold tcurPut
  with_reducible repeat' first
    | assumption | exact Keeps.refl _ | intro _ | refine keeps_ite (fun _ => ?_) (fun _ => ?_) | apply keeps_chAfter
    | apply keeps_dfPulse | apply keeps_fldSetF | split | dsimp only

theorem keeps_trackDo {z : State} {s : State} (u mid : Nat) (hK : Keeps z s) :
    Keeps z (trackDo s u mid) := by
  unfold trackDo
  with_reducible repeat' first
    | assumption | exact Keeps.refl _ | intro _ | refine keeps_ite (fun _ => ?_) (fun _ => ?_) | apply keeps_tcurPut
    | split | dsimp only

theorem keeps_limitDo {z : State} {s : State} (u : Nat) (hit : Bool) (hK : Keeps z s) :
    Keeps z (limitDo s u hit) := by
  unfold limitDo
  with_reducible repeat' first
    | assumption | exact Keeps.refl _ | intro _ | refine keeps_ite (fun _ => ?_) (fun _ => ?_) | apply keeps_dfEvent
    | apply keeps_dfPulse | apply keeps_modField | (apply legal_mk; assumption) | split | dsimp only | apply keeps_mk
    | apply legal_mk

theorem keeps_sampleDo {z : State} {s : State} (x e : Nat) (code : Int) (t : Nat) (hK : Keeps z s) :
    Keeps z (sampleDo s x e code t) := by
  unfold sampleDo
  with_reducible repeat' first
    | assumption | exact Keeps.refl _ | intro _ | refine keeps_ite (fun _ => ?_) (fun _ => ?_) | apply keeps_chSet
    | apply keeps_dfSend | apply keeps_limitDo | apply keeps_bump | split | dsimp only

theorem keeps_scanNext {z : State} {s : State} (x e : Nat) (hK : Keeps z s) :
    Keeps z (scanNext s x e) := by
  unfold scanNext
  with_reducible repeat' first
    | assumption | exact Keeps.refl _ | intro _ | refine keeps_ite (fun _ => ?_) (fun _ => ?_)
    | apply keeps_fldReport | apply keeps_modField | (apply legal_mk; assumption) | split | dsimp only
    | apply keeps_mk | apply legal_mk

theorem keeps_convDo {z : State} {s : State} (x : Nat) (code : Int) (t : Nat) (hK : Keeps z s) :
    Keeps z (convDo s x code t) := by
  unfold convDo
  with_reducible repeat' first
    | assumption | exact Keeps.refl _ | intro _ | refine keeps_ite (fun _ => ?_) (fun _ => ?_) | apply keeps_modField
    | apply keeps_sampleDo | apply keeps_scanNext | apply keeps_bump | (apply legal_mk; assumption) | split
    | dsimp only | apply keeps_mk | apply legal_mk

theorem keeps_convStart {z : State} {s : State} (x t : Nat) (hK : Keeps z s) :
    Keeps z (convStart s x t) := by
  unfold convStart
  with_reducible repeat' first
    | assumption | exact Keeps.refl _ | intro _ | refine keeps_ite (fun _ => ?_) (fun _ => ?_)
    | apply keeps_fldReport | apply keeps_modField | (apply legal_mk; assumption) | split | dsimp only
    | apply keeps_mk | apply legal_mk

theorem keeps_driverFail {z : State} {s : State} (h b : Nat) (auto : Bool) (hK : Keeps z s) :
    Keeps z (driverFail s h b auto) := by
  unfold driverFail
  with_reducible repeat' first
    | assumption | exact Keeps.refl _ | intro _ | refine keeps_ite (fun _ => ?_) (fun _ => ?_) | apply keeps_dfStatus
    | apply keeps_fldSetF | split | dsimp only

theorem keeps_switchEnd {z : State} {s : State} (h : Nat) (hK : Keeps z s) :
    Keeps z (switchEnd s h) := by
  unfold switchEnd
  with_reducible repeat' first
    | assumption | exact Keeps.refl _ | intro _ | refine keeps_ite (fun _ => ?_) (fun _ => ?_) | apply keeps_chSet
    | apply keeps_fldReport | split | dsimp only

theorem keeps_dfDrop {z : State} {s : State}  (hK : Keeps z s) :
    Keeps z (dfDrop s) := by
  unfold dfDrop
  with_reducible repeat' first
    | assumption | exact Keeps.refl _ | intro _ | refine keeps_ite (fun _ => ?_) (fun _ => ?_) | apply keeps_dfFault
    | apply keeps_modField | apply keeps_bump | (apply legal_mk; assumption) | split | dsimp only | apply keeps_mk
    | apply legal_mk

theorem keeps_dfTake {z s : State} (cls : Nat) (w0 w1 : Word) (f : State → State) (hf : ∀ t, Keeps z t → Keeps z (f t))
    (hK : Keeps z s) : Keeps z (dfTake s cls w0 w1 f) := by
  unfold dfTake
  exact keeps_ite (fun _ => hK) fun _ => keeps_ite (fun _ => hf _ (keeps_mk hK)) fun _ => keeps_dfDrop (keeps_mk hK)

theorem keeps_chIgnore {z : State} {s : State} (u : Nat) (hK : Keeps z s) :
    Keeps z (chIgnore s u) := by
  unfold chIgnore
  with_reducible repeat' first
    | assumption | exact Keeps.refl _ | intro _ | apply keeps_chSet | split | dsimp only

theorem keeps_chCommand {z : State} {s : State} (u w v : Nat) (hK : Keeps z s) :
    Keeps z (chCommand s u w v) := by
  unfold chCommand
  with_reducible repeat' first
    | assumption | exact Keeps.refl _ | intro _ | refine keeps_ite (fun _ => ?_) (fun _ => ?_) | apply keeps_chIgnore
    | apply keeps_chUpdate | apply keeps_fldSetF | split | dsimp only

theorem keeps_cmdOut {z : State} {s : State} (w0 w1 : Word) (hK : Keeps z s) :
    Keeps z (cmdOut s w0 w1) := by
  unfold cmdOut
  with_reducible repeat' first
    | assumption | exact Keeps.refl _ | intro _ | refine keeps_ite (fun _ => ?_) (fun _ => ?_)
    | apply keeps_chCommand | apply keeps_chIgnore | apply keeps_chUpdate | apply keeps_dfRefuse | apply keeps_flagOp
    | apply keeps_fldSetF | apply keeps_trigStart | apply keeps_foldl | split | dsimp only

theorem keeps_execCmdOutLevels {z s s2 : State} {w0 w1 : Word} (e : execCmdOutLevels w0 w1 s = .next s2) (hK : Keeps z s) :
    Keeps z s2 := by
  unfold execCmdOutLevels at e
  revert e
  with_reducible repeat' first
    | assumption | exact Keeps.refl _ | (intro e; cases e; done)
    | (intro e; injection e with e; injection e with _ e; subst e) | (intro e; injection e with e; subst e)
    | apply keeps_cmdOut | apply keeps_dfTake | split | dsimp only | intro _

theorem keeps_execCmdOutDac {z s s2 : State} {w0 w1 : Word} (e : execCmdOutDac w0 w1 s = .next s2) (hK : Keeps z s) :
    Keeps z s2 := by
  unfold execCmdOutDac at e
  revert e
  with_reducible repeat' first
    | assumption | exact Keeps.refl _ | (intro e; cases e; done)
    | (intro e; injection e with e; injection e with _ e; subst e) | (intro e; injection e with e; subst e)
    | apply keeps_cmdOut | apply keeps_dfTake | split | dsimp only | intro _

theorem keeps_execCmdOutTrigger {z s s2 : State} {w0 w1 : Word} (e : execCmdOutTrigger w0 w1 s = .next s2) (hK : Keeps z s) :
    Keeps z s2 := by
  unfold execCmdOutTrigger at e
  revert e
  with_reducible repeat' first
    | assumption | exact Keeps.refl _ | (intro e; cases e; done)
    | (intro e; injection e with e; injection e with _ e; subst e) | (intro e; injection e with e; subst e)
    | apply keeps_cmdOut | apply keeps_dfTake | split | dsimp only | intro _

theorem keeps_execCmdOutFlag {z s s2 : State} {w0 w1 : Word} (e : execCmdOutFlag w0 w1 s = .next s2) (hK : Keeps z s) :
    Keeps z s2 := by
  unfold execCmdOutFlag at e
  revert e
  with_reducible repeat' first
    | assumption | exact Keeps.refl _ | (intro e; cases e; done)
    | (intro e; injection e with e; injection e with _ e; subst e) | (intro e; injection e with e; subst e)
    | apply keeps_cmdOut | apply keeps_dfTake | split | dsimp only | intro _

theorem keeps_fldWrite {z : State} {s : State} (f mask w1c v : Nat) (hK : Keeps z s) :
    Keeps z (fldWrite s f mask w1c v) := by
  unfold fldWrite
  with_reducible repeat' first
    | assumption | exact Keeps.refl _ | intro _ | apply keeps_fldPut | split | dsimp only

theorem keeps_cfgChannel {z : State} {s t : State} {u v : Nat} (e : cfgChannel s u v = some t) (hK : Keeps z s) :
    Keeps z t := by
  unfold cfgChannel at e
  revert e
  with_reducible repeat' first
    | assumption | exact Keeps.refl _ | (intro e; cases e; done)
    | (intro e; injection e with e; injection e with _ e; subst e) | (intro e; injection e with e; subst e)
    | refine keeps_ite (fun _ => ?_) (fun _ => ?_) | apply keeps_chUpdate | apply keeps_fldWrite | split | dsimp only
    | intro _

theorem keeps_cfgThreshold {z : State} {s t : State} {u v : Nat} (e : cfgThreshold s u v = some t) (hK : Keeps z s) :
    Keeps z t := by
  unfold cfgThreshold at e
  revert e
  with_reducible repeat' first
    | assumption | exact Keeps.refl _ | (intro e; cases e; done)
    | (intro e; injection e with e; injection e with _ e; subst e) | (intro e; injection e with e; subst e)
    | refine keeps_ite (fun _ => ?_) (fun _ => ?_) | apply keeps_fldWrite | apply keeps_tcurPut | split | dsimp only
    | intro _

theorem keeps_cfgStatus {z : State} {s : State} (u v : Nat) (hK : Keeps z s) :
    Keeps z (cfgStatus s u v) := by
  unfold cfgStatus
  with_reducible repeat' first
    | assumption | exact Keeps.refl _ | intro _ | apply keeps_chAfter | apply keeps_chUpdate | apply keeps_fldWrite
    | split | dsimp only

theorem keeps_cfgDriver {z : State} {s : State} (h v : Nat) (hK : Keeps z s) :
    Keeps z (cfgDriver s h v) := by
  unfold cfgDriver
  with_reducible repeat' first
    | assumption | exact Keeps.refl _ | intro _ | refine keeps_ite (fun _ => ?_) (fun _ => ?_) | apply keeps_fldSetF
    | apply keeps_fldWrite | split | dsimp only

theorem keeps_jigCredit {z : State} {s : State} (j n : Nat) (hK : Keeps z s) :
    Keeps z (jigCredit s j n) := by
  unfold jigCredit
  with_reducible repeat' first
    | assumption | exact Keeps.refl _ | intro _ | refine keeps_ite (fun _ => ?_) (fun _ => ?_)
    | (apply legal_mk; assumption) | split | dsimp only | apply keeps_mk | apply legal_mk

theorem keeps_jigFollow {z : State} {s : State} (j : Nat) (hK : Keeps z s) :
    Keeps z (jigFollow s j) := by
  unfold jigFollow
  with_reducible repeat' first
    | assumption | exact Keeps.refl _ | intro _ | apply keeps_chUpdate | apply keeps_foldl | split | dsimp only

theorem keeps_cfgPin {z : State} {s t : State} {slot v : Nat} (e : cfgPin s slot v = some t) (hK : Keeps z s) :
    Keeps z t := by
  unfold cfgPin at e
  revert e
  with_reducible repeat' first
    | assumption | exact Keeps.refl _ | (intro e; cases e; done)
    | (intro e; injection e with e; injection e with _ e; subst e) | (intro e; injection e with e; subst e)
    | refine keeps_ite (fun _ => ?_) (fun _ => ?_) | apply keeps_chUpdate | apply keeps_fldWrite
    | apply keeps_jigFollow | split | dsimp only | intro _

theorem keeps_cfgJig {z : State} {s : State} (f v : Nat) (hK : Keeps z s) :
    Keeps z (cfgJig s f v) := by
  unfold cfgJig
  with_reducible repeat' first
    | assumption | exact Keeps.refl _ | intro _ | refine keeps_ite (fun _ => ?_) (fun _ => ?_) | apply keeps_setJig
    | (apply legal_mk; assumption) | split | dsimp only | apply keeps_mk | apply legal_mk

theorem keeps_cfgPlain {z : State} {s t : State} {f v : Nat} (e : cfgPlain s f v = some t) (hK : Keeps z s) :
    Keeps z t := by
  unfold cfgPlain at e
  revert e
  with_reducible repeat' first
    | assumption | exact Keeps.refl _ | (intro e; cases e; done)
    | (intro e; injection e with e; injection e with _ e; subst e) | (intro e; injection e with e; subst e)
    | refine keeps_ite (fun _ => ?_) (fun _ => ?_) | apply keeps_fldSetF | apply keeps_fldWrite | split | dsimp only
    | intro _

theorem keeps_cfgUnits {z : State} {s t : State} {f v : Nat} (e : cfgUnits s f v = some t) (hK : Keeps z s) :
    Keeps z t := by
  unfold cfgUnits at e
  revert e
  with_reducible repeat' first
    | assumption | exact Keeps.refl _ | (intro e; cases e; done)
    | (intro e; injection e with e; injection e with _ e; subst e) | (intro e; injection e with e; subst e)
    | refine keeps_ite (fun _ => ?_) (fun _ => ?_) | apply keeps_fldWrite | split | dsimp only | intro _

theorem opt_ite {z : State} {p : Prop} [Decidable p] {a b : Option State} (ha : ∀ t, a = some t → Keeps z t)
    (hb : ∀ t, b = some t → Keeps z t) : ∀ t, (if p then a else b) = some t → Keeps z t := by
  split
  · exact ha
  · exact hb

theorem opt_some {z s : State} (h : Keeps z s) : ∀ t, some s = some t → Keeps z t := by
  intro t e
  injection e with e
  exact e ▸ h

theorem keeps_cfgDo {z s t : State} {f v : Nat} (e : cfgDo s f v = some t) (hK : Keeps z s) : Keeps z t := by
  suffices H : ∀ t, cfgDo s f v = some t → Keeps z t from H t e
  unfold cfgDo
  refine opt_ite (opt_ite (opt_some hK) fun _ e => keeps_cfgPlain e hK) <| opt_ite (fun _ e => keeps_cfgChannel e hK) <|
    opt_ite (fun _ e => keeps_cfgThreshold e hK) <| opt_ite (opt_some (keeps_chUpdate _ (keeps_fldWrite _ _ _ _ hK))) <|
    opt_ite (opt_some (keeps_cfgStatus _ _ hK)) <| opt_ite (opt_some (keeps_cfgDriver _ _ hK)) <|
    opt_ite (fun _ e => by cases e) <| opt_ite (fun _ e => keeps_cfgUnits e hK) <|
    opt_ite (opt_some (keeps_flagsPut _ _ hK)) <|
    opt_ite (opt_ite (fun _ e => by cases e) (opt_some (keeps_fldWrite _ _ _ _ hK))) <| opt_ite (opt_some hK) <|
    opt_ite (opt_some (keeps_cfgJig _ _ hK)) fun _ e => keeps_cfgPin e hK

theorem keeps_execCmdCfg {z s s2 : State} {w0 w1 : Word} (e : execCmdCfg w0 w1 s = .next s2) (hK : Keeps z s) :
    Keeps z s2 := by
  unfold execCmdCfg at e
  revert e
  with_reducible repeat' first
    | assumption | exact Keeps.refl _ | (intro e; cases e; done)
    | (intro e; injection e with e; injection e with _ e; subst e) | (intro e; injection e with e; subst e)
    | refine keeps_cfgDo (by assumption) ?_ | apply keeps_dfAnswer | apply keeps_dfTake | split | dsimp only
    | intro _

theorem keeps_safeSet {z : State} {s : State} (w0 : Word) (hK : Keeps z s) :
    Keeps z (safeSet s w0) := by
  unfold safeSet
  with_reducible repeat' first
    | assumption | exact Keeps.refl _ | intro _ | refine keeps_ite (fun _ => ?_) (fun _ => ?_) | apply keeps_dfRefuse
    | apply keeps_modField | apply keeps_safeEnter | apply keeps_safeLeave | apply keeps_foldl
    | (apply legal_mk; assumption) | split | dsimp only | apply keeps_mk | apply legal_mk

theorem keeps_execSafeSetEnter {z s s2 : State} {w0 w1 : Word} (e : execSafeSetEnter w0 w1 s = .next s2) (hK : Keeps z s) :
    Keeps z s2 := by
  unfold execSafeSetEnter at e
  revert e
  with_reducible repeat' first
    | assumption | exact Keeps.refl _ | (intro e; cases e; done)
    | (intro e; injection e with e; injection e with _ e; subst e) | (intro e; injection e with e; subst e)
    | apply keeps_dfTake | apply keeps_safeSet | split | dsimp only | intro _

theorem keeps_execSafeSetRelease {z s s2 : State} {w0 w1 : Word} (e : execSafeSetRelease w0 w1 s = .next s2) (hK : Keeps z s) :
    Keeps z s2 := by
  unfold execSafeSetRelease at e
  revert e
  with_reducible repeat' first
    | assumption | exact Keeps.refl _ | (intro e; cases e; done)
    | (intro e; injection e with e; injection e with _ e; subst e) | (intro e; injection e with e; subst e)
    | apply keeps_dfTake | apply keeps_safeSet | split | dsimp only | intro _

theorem keeps_execBypassOpen {z s s2 : State}  (e : execBypassOpen s = .next s2) (hK : Keeps z s) :
    Keeps z s2 := by
  unfold execBypassOpen at e
  revert e
  with_reducible repeat' first
    | assumption | exact Keeps.refl _ | (intro e; cases e; done)
    | (intro e; injection e with e; injection e with _ e; subst e) | (intro e; injection e with e; subst e)
    | apply keeps_bypassAsk | apply keeps_dfTake | split | dsimp only | intro _

theorem keeps_execBypassClose {z s s2 : State}  (e : execBypassClose s = .next s2) (hK : Keeps z s) :
    Keeps z s2 := by
  unfold execBypassClose at e
  revert e
  with_reducible repeat' first
    | assumption | exact Keeps.refl _ | (intro e; cases e; done)
    | (intro e; injection e with e; injection e with _ e; subst e) | (intro e; injection e with e; subst e)
    | apply keeps_bypassShut | apply keeps_dfTake | split | dsimp only | intro _

theorem keeps_execBypassTestDone {z s s2 : State} {ok : Bool} (e : execBypassTestDone ok s = .next s2) (hK : Keeps z s) :
    Keeps z s2 := by
  unfold execBypassTestDone at e
  revert e
  with_reducible repeat' first
    | assumption | exact Keeps.refl _ | (intro e; cases e; done)
    | (intro e; injection e with e; injection e with _ e; subst e) | (intro e; injection e with e; subst e)
    | refine keeps_ite (fun _ => ?_) (fun _ => ?_) | apply keeps_bypassTested | split | dsimp only | intro _

theorem keeps_txReport {z : State} {s : State} (p n result : Nat) (hK : Keeps z s) :
    Keeps z (txReport s p n result) := by
  unfold txReport
  with_reducible repeat' first
    | assumption | exact Keeps.refl _ | intro _ | apply keeps_dfSend | split | dsimp only

theorem keeps_portQueue {z : State} {s : State} (p : Nat) (img : List Byte) (hK : Keeps z s) :
    Keeps z (portQueue s p img) := by
  unfold portQueue
  with_reducible repeat' first
    | assumption | exact Keeps.refl _ | intro _ | refine keeps_ite (fun _ => ?_) (fun _ => ?_) | apply keeps_setPort
    | apply keeps_txReport | (apply legal_mk; assumption) | split | dsimp only | apply keeps_mk | apply legal_mk

theorem keeps_portGather {z : State} {s : State} (p : Nat) (b : List Byte) (hK : Keeps z s) :
    Keeps z (portGather s p b) := by
  unfold portGather
  with_reducible repeat' first
    | assumption | exact Keeps.refl _ | intro _ | refine keeps_ite (fun _ => ?_) (fun _ => ?_)
    | apply keeps_portQueue | apply keeps_setPort | (apply legal_mk; assumption) | split | dsimp only
    | apply keeps_mk | apply legal_mk

theorem keeps_execPortTxFirst {z s s2 : State} {p : Fin 12} {b : List Byte} (e : execPortTxFirst p b s = .next s2) (hK : Keeps z s) :
    Keeps z s2 := by
  unfold execPortTxFirst at e
  revert e
  with_reducible repeat' first
    | assumption | exact Keeps.refl _ | (intro e; cases e; done)
    | (intro e; injection e with e; injection e with _ e; subst e) | (intro e; injection e with e; subst e)
    | refine keeps_ite (fun _ => ?_) (fun _ => ?_) | apply keeps_dfDrop | apply keeps_dfTake | apply keeps_portGather
    | split | dsimp only | intro _

theorem keeps_execPortTxLater {z s s2 : State} {p : Fin 12} {b : List Byte} (e : execPortTxLater p b s = .next s2) (hK : Keeps z s) :
    Keeps z s2 := by
  unfold execPortTxLater at e
  revert e
  with_reducible repeat' first
    | assumption | exact Keeps.refl _ | (intro e; cases e; done)
    | (intro e; injection e with e; injection e with _ e; subst e) | (intro e; injection e with e; subst e)
    | refine keeps_ite (fun _ => ?_) (fun _ => ?_) | apply keeps_dfDrop | apply keeps_dfTake | apply keeps_portGather
    | split | dsimp only | intro _

theorem keeps_execPortFrameSent {z s s2 : State} {p : Fin 12} {result : BitVec 2} (e : execPortFrameSent p result s = .next s2) (hK : Keeps z s) :
    Keeps z s2 := by
  unfold execPortFrameSent at e
  revert e
  with_reducible repeat' first
    | assumption | exact Keeps.refl _ | (intro e; cases e; done)
    | (intro e; injection e with e; injection e with _ e; subst e) | (intro e; injection e with e; subst e)
    | refine keeps_ite (fun _ => ?_) (fun _ => ?_) | apply keeps_setPort | apply keeps_txReport | apply keeps_emit
    | (apply legal_mk; assumption) | split | dsimp only | apply keeps_mk | apply legal_mk | intro _

theorem keeps_rxFlush {z : State} {s : State} (p : Nat) (hK : Keeps z s) :
    Keeps z (rxFlush s p) := by
  unfold rxFlush
  with_reducible repeat' first
    | assumption | exact Keeps.refl _ | intro _ | refine keeps_ite (fun _ => ?_) (fun _ => ?_) | apply keeps_dfSend
    | apply keeps_setPort | apply keeps_foldl | (apply legal_mk; assumption) | split | dsimp only | apply keeps_mk
    | apply legal_mk

theorem keeps_execPortFrameReceived {z s s2 : State} {p : Fin 12} {image : List Byte} {start : Payload} (e : execPortFrameReceived p image start s = .next s2) (hK : Keeps z s) :
    Keeps z s2 := by
  unfold execPortFrameReceived at e
  revert e
  with_reducible repeat' first
    | assumption | exact Keeps.refl _ | (intro e; cases e; done)
    | (intro e; injection e with e; injection e with _ e; subst e) | (intro e; injection e with e; subst e)
    | refine keeps_ite (fun _ => ?_) (fun _ => ?_) | apply acc_start | apply keeps_rxFlush | apply keeps_setPort
    | (apply legal_mk; assumption) | split | dsimp only | apply keeps_mk | apply legal_mk | intro _

theorem keeps_execPortBusOff {z s s2 : State} {p : Fin 12} (e : execPortBusOff p s = .next s2) (hK : Keeps z s) :
    Keeps z s2 := by
  unfold execPortBusOff at e
  revert e
  with_reducible repeat' first
    | assumption | exact Keeps.refl _ | (intro e; cases e; done)
    | (intro e; injection e with e; injection e with _ e; subst e) | (intro e; injection e with e; subst e)
    | refine keeps_ite (fun _ => ?_) (fun _ => ?_) | apply keeps_dfFault | apply keeps_setPort
    | (apply legal_mk; assumption) | split | dsimp only | apply keeps_mk | apply legal_mk | intro _

theorem keeps_dhTake {z s : State} (cls : Nat) (w0 w1 : Word) (f : State → State) (hf : ∀ t, Keeps z t → Keeps z (f t))
    (hK : Keeps z s) : Keeps z (dhTake s cls w0 w1 f) := by
  unfold dhTake
  exact keeps_ite (fun _ => hK) fun _ => keeps_ite (fun _ => hf _ (keeps_mk hK)) fun _ => keeps_dvDrop (keeps_mk hK)

theorem keeps_laneFollow {z : State} {s : State}  (hK : Keeps z s) :
    Keeps z (laneFollow s) := by
  unfold laneFollow
  with_reducible repeat' first
    | assumption | exact Keeps.refl _ | intro _ | apply keeps_ioSetB | apply keeps_skerfFollow | split | dsimp only

theorem keeps_laneSet {z : State} {s : State} (lo m : Nat) (hK : Keeps z s) :
    Keeps z (laneSet s lo m) := by
  unfold laneSet
  with_reducible repeat' first
    | assumption | exact Keeps.refl _ | intro _ | refine keeps_ite (fun _ => ?_) (fun _ => ?_) | apply keeps_ioSetF
    | apply keeps_laneFollow | apply keeps_raise | split | dsimp only

theorem keeps_laneRetrain {z : State} {s : State}  (hK : Keeps z s) :
    Keeps z (laneRetrain s) := by
  unfold laneRetrain
  with_reducible repeat' first
    | assumption | exact Keeps.refl _ | intro _ | apply keeps_laneSet | apply keeps_modField
    | (apply legal_mk; assumption) | split | dsimp only | apply keeps_mk | apply legal_mk

theorem keeps_dhUnpair {z : State} {s : State}  (hK : Keeps z s) :
    Keeps z (dhUnpair s) := by
  unfold dhUnpair
  with_reducible repeat' first
    | assumption | exact Keeps.refl _ | intro _ | apply keeps_ioSetF | apply keeps_modCore | apply keeps_foldl
    | (apply legal_mk; assumption) | split | dsimp only | apply keeps_mk | apply legal_mk

theorem keeps_linkLostWaits {z : State} {s : State}  (hK : Keeps z s) :
    Keeps z (linkLostWaits s) := by
  unfold linkLostWaits
  with_reducible repeat' first
    | assumption | exact Keeps.refl _ | intro _ | apply keeps_sendWake | apply keeps_waitDone | apply keeps_foldl
    | split | dsimp only

theorem keeps_dhMacFail {z : State} {s : State}  (hK : Keeps z s) :
    Keeps z (dhMacFail s) := by
  unfold dhMacFail
  with_reducible repeat' first
    | assumption | exact Keeps.refl _ | intro _ | refine keeps_ite (fun _ => ?_) (fun _ => ?_) | apply keeps_dhUnpair
    | apply keeps_ioInc | apply keeps_linkLostWaits | apply keeps_raise | apply keeps_readyClear
    | (apply legal_mk; assumption) | split | dsimp only | apply keeps_mk | apply legal_mk

theorem keeps_retxCount {z : State} {s : State} (n : Nat) (hK : Keeps z s) :
    Keeps z (retxCount s n) := by
  unfold retxCount
  with_reducible repeat' first
    | assumption | exact Keeps.refl _ | intro _ | apply keeps_ioSetF | split | dsimp only

theorem keeps_sendAll {z : State} {s : State}  (hK : Keeps z s) :
    Keeps z (sendAll s) := by
  unfold sendAll
  with_reducible repeat' first
    | assumption | exact Keeps.refl _ | intro _ | apply keeps_dvDrain | apply keeps_sendWake | apply keeps_foldl
    | split | dsimp only

theorem keeps_heartbeatDh {z : State} {s : State} (w0 w1 : Nat) (hK : Keeps z s) :
    Keeps z (heartbeatDh s w0 w1) := by
  unfold heartbeatDh
  with_reducible repeat' first
    | assumption | exact Keeps.refl _ | intro _ | apply keeps_laneSet | apply keeps_retxCount | apply keeps_sendAll
    | apply keeps_waitAcked | (apply legal_mk; assumption) | split | dsimp only | apply keeps_mk | apply legal_mk

theorem keeps_heartbeatDf {z : State} {s : State} (w0 w1 : Nat) (hK : Keeps z s) :
    Keeps z (heartbeatDf s w0 w1) := by
  unfold heartbeatDf
  with_reducible repeat' first
    | assumption | exact Keeps.refl _ | intro _ | apply keeps_dfFault | apply keeps_modField | apply keeps_foldl
    | (apply legal_mk; assumption) | split | dsimp only | apply keeps_mk | apply legal_mk

theorem keeps_execHeartbeat {z s s2 : State} {atDH : Bool} {w0 w1 : Word} (e : execHeartbeat atDH w0 w1 s = .next s2) (hK : Keeps z s) :
    Keeps z s2 := by
  unfold execHeartbeat at e
  revert e
  with_reducible repeat' first
    | assumption | exact Keeps.refl _ | (intro e; cases e; done)
    | (intro e; injection e with e; injection e with _ e; subst e) | (intro e; injection e with e; subst e)
    | refine keeps_ite (fun _ => ?_) (fun _ => ?_) | apply keeps_dfTake | apply keeps_dhTake
    | apply keeps_heartbeatDf | apply keeps_heartbeatDh | split | dsimp only | intro _

theorem keeps_execHeartbeatSend {z s s2 : State} {fromDH : Bool} (e : execHeartbeatSend fromDH s = .next s2) (hK : Keeps z s) :
    Keeps z s2 := by
  unfold execHeartbeatSend at e
  revert e
  with_reducible repeat' first
    | assumption | exact Keeps.refl _ | (intro e; cases e; done)
    | (intro e; injection e with e; injection e with _ e; subst e) | (intro e; injection e with e; subst e)
    | refine keeps_ite (fun _ => ?_) (fun _ => ?_) | (apply legal_mk; assumption) | split | dsimp only
    | apply keeps_mk | apply legal_mk | intro _

theorem keeps_execDhHeartbeatTimeout {z s s2 : State}  (e : execDhHeartbeatTimeout s = .next s2) (hK : Keeps z s) :
    Keeps z s2 := by
  unfold execDhHeartbeatTimeout at e
  revert e
  with_reducible repeat' first
    | assumption | exact Keeps.refl _ | (intro e; cases e; done)
    | (intro e; injection e with e; injection e with _ e; subst e) | (intro e; injection e with e; subst e)
    | refine keeps_ite (fun _ => ?_) (fun _ => ?_) | apply keeps_dhUnpair | apply keeps_ioSetF
    | apply keeps_linkLostWaits | apply keeps_raise | apply keeps_readyClear | apply keeps_setCause
    | apply keeps_foldl | split | dsimp only | intro _

theorem keeps_execDfHeartbeatTimeout {z s s2 : State}  (e : execDfHeartbeatTimeout s = .next s2) (hK : Keeps z s) :
    Keeps z s2 := by
  unfold execDfHeartbeatTimeout at e
  revert e
  with_reducible repeat' first
    | assumption | exact Keeps.refl _ | (intro e; cases e; done)
    | (intro e; injection e with e; injection e with _ e; subst e) | (intro e; injection e with e; subst e)
    | refine keeps_ite (fun _ => ?_) (fun _ => ?_) | apply keeps_bypassShut | apply keeps_dfUnpair
    | apply keeps_safeAll | split | dsimp only | intro _

theorem keeps_execRetransmitTimeout {z s s2 : State} {fromDH : Bool} {cls : Fin 4} (e : execRetransmitTimeout fromDH cls s = .next s2) (hK : Keeps z s) :
    Keeps z s2 := by
  unfold execRetransmitTimeout at e
  revert e
  with_reducible repeat' first
    | assumption | exact Keeps.refl _ | (intro e; cases e; done)
    | (intro e; injection e with e; injection e with _ e; subst e) | (intro e; injection e with e; subst e)
    | refine keeps_ite (fun _ => ?_) (fun _ => ?_) | apply keeps_retxCount | split | dsimp only | intro _

theorem keeps_execLaneFailure {z s s2 : State} {intoDH : Bool} {lane : Fin 4} (e : execLaneFailure intoDH lane s = .next s2) (hK : Keeps z s) :
    Keeps z s2 := by
  unfold execLaneFailure at e
  revert e
  with_reducible repeat' first
    | assumption | exact Keeps.refl _ | (intro e; cases e; done)
    | (intro e; injection e with e; injection e with _ e; subst e) | (intro e; injection e with e; subst e)
    | refine keeps_ite (fun _ => ?_) (fun _ => ?_) | apply keeps_laneSet | (apply legal_mk; assumption) | split
    | dsimp only | apply keeps_mk | apply legal_mk | intro _

theorem keeps_pairFail {z : State} {s : State}  (hK : Keeps z s) :
    Keeps z (pairFail s) := by
  unfold pairFail
  with_reducible repeat' first
    | assumption | exact Keeps.refl _ | intro _ | apply keeps_ioSetB | apply keeps_ioSetF | apply keeps_modField
    | apply keeps_raise | (apply legal_mk; assumption) | split | dsimp only | apply keeps_mk | apply legal_mk

theorem keeps_execHello {z s s2 : State} {w0 w1 : Word} {macSt : BitVec 3} (e : execHello w0 w1 macSt s = .next s2) (hK : Keeps z s) :
    Keeps z s2 := by
  unfold execHello at e
  revert e
  with_reducible repeat' first
    | assumption | exact Keeps.refl _ | (intro e; cases e; done)
    | (intro e; injection e with e; injection e with _ e; subst e) | (intro e; injection e with e; subst e)
    | refine keeps_ite (fun _ => ?_) (fun _ => ?_) | apply keeps_cipherCount | apply keeps_dhMacFail
    | apply keeps_dhSend | apply keeps_ioSetB | apply keeps_laneRetrain | apply keeps_pairFail | apply keeps_bump
    | (apply legal_mk; assumption) | split | dsimp only | apply keeps_mk | apply legal_mk | intro _

theorem keeps_execHelloRepeat {z s s2 : State}  (e : execHelloRepeat s = .next s2) (hK : Keeps z s) :
    Keeps z s2 := by
  unfold execHelloRepeat at e
  revert e
  with_reducible repeat' first
    | assumption | exact Keeps.refl _ | (intro e; cases e; done)
    | (intro e; injection e with e; injection e with _ e; subst e) | (intro e; injection e with e; subst e)
    | refine keeps_ite (fun _ => ?_) (fun _ => ?_) | apply keeps_modField | apply keeps_bump
    | (apply legal_mk; assumption) | split | dsimp only | apply keeps_mk | apply legal_mk | intro _

theorem keeps_execReply {z s s2 : State} {w0 w1 : Word} {ok : Bool} (e : execReply w0 w1 ok s = .next s2) (hK : Keeps z s) :
    Keeps z s2 := by
  unfold execReply at e
  injection e with e
  subst e
  split
  · exact hK
  · refine keeps_ite (fun _ => hK) fun _ => keeps_ite (fun _ => ?_) fun _ => keeps_pairFail hK
    dsimp only
    with_reducible apply keeps_mk
    exact keeps_modField _ hK

theorem keeps_dfPaired {z : State} {s : State}  (hK : Keeps z s) :
    Keeps z (dfPaired s) := by
  unfold dfPaired
  with_reducible repeat' first
    | assumption | exact Keeps.refl _ | intro _ | refine keeps_ite (fun _ => ?_) (fun _ => ?_) | apply keeps_dfFault
    | apply keeps_dfStatus | apply keeps_modField | apply keeps_rxFlush | apply keeps_foldl
    | (apply legal_mk; assumption) | split | dsimp only | apply keeps_mk | apply legal_mk

theorem keeps_bothKeyed {z : State} {s : State}  (hK : Keeps z s) :
    Keeps z (bothKeyed s) := by
  unfold bothKeyed
  with_reducible repeat' first
    | assumption | exact Keeps.refl _ | intro _ | (apply legal_mk; assumption) | split | dsimp only | apply keeps_mk
    | apply legal_mk

theorem keeps_pairedBits {z : State} {s : State} (rtt : Nat) (hK : Keeps z s) :
    Keeps z (pairedBits s rtt) := by
  unfold pairedBits
  with_reducible repeat' first
    | assumption | exact Keeps.refl _ | intro _ | apply keeps_ioSetB | apply keeps_ioSetF | split | dsimp only

theorem keeps_execConfirm {z s s2 : State} {ok : Bool} {rtt : BitVec 8} (e : execConfirm ok rtt s = .next s2) (hK : Keeps z s) :
    Keeps z s2 := by
  unfold execConfirm at e
  revert e
  with_reducible repeat' first
    | assumption | exact Keeps.refl _ | (intro e; cases e; done)
    | (intro e; injection e with e; injection e with _ e; subst e) | (intro e; injection e with e; subst e)
    | refine keeps_ite (fun _ => ?_) (fun _ => ?_) | apply keeps_bothKeyed | apply keeps_cipherCount
    | apply keeps_dfPaired | apply keeps_pairFail | apply keeps_pairedBits | apply keeps_raise | apply keeps_readyUp
    | apply keeps_sendWake | apply keeps_setCause | split | dsimp only | intro _

theorem keeps_rollStart {z : State} {s : State}  (hK : Keeps z s) :
    Keeps z (rollStart s) := by
  unfold rollStart
  with_reducible repeat' first
    | assumption | exact Keeps.refl _ | intro _ | apply keeps_dhSend | (apply legal_mk; assumption) | split
    | dsimp only | apply keeps_mk | apply legal_mk

theorem keeps_execKeyRollStart {z s s2 : State}  (e : execKeyRollStart s = .next s2) (hK : Keeps z s) :
    Keeps z s2 := by
  unfold execKeyRollStart at e
  revert e
  with_reducible repeat' first
    | assumption | exact Keeps.refl _ | (intro e; cases e; done)
    | (intro e; injection e with e; injection e with _ e; subst e) | (intro e; injection e with e; subst e)
    | refine keeps_ite (fun _ => ?_) (fun _ => ?_) | apply keeps_rollStart | split | dsimp only | intro _

theorem keeps_rollDf {z : State} {s : State} (e : Nat) (hK : Keeps z s) :
    Keeps z (rollDf s e) := by
  unfold rollDf
  with_reducible repeat' first
    | assumption | exact Keeps.refl _ | intro _ | refine keeps_ite (fun _ => ?_) (fun _ => ?_) | apply keeps_dfSend
    | (apply legal_mk; assumption) | split | dsimp only | apply keeps_mk | apply legal_mk

theorem keeps_execRoll {z s s2 : State} {atDH : Bool} {w0 w1 : Word} (e : execRoll atDH w0 w1 s = .next s2) (hK : Keeps z s) :
    Keeps z s2 := by
  unfold execRoll at e
  revert e
  with_reducible repeat' first
    | assumption | exact Keeps.refl _ | (intro e; cases e; done)
    | (intro e; injection e with e; injection e with _ e; subst e) | (intro e; injection e with e; subst e)
    | refine keeps_ite (fun _ => ?_) (fun _ => ?_) | apply keeps_dfTake | apply keeps_dhTake | apply keeps_rollDf
    | apply keeps_rollStart | split | dsimp only | intro _

theorem keeps_execRollRetry {z s s2 : State}  (e : execRollRetry s = .next s2) (hK : Keeps z s) :
    Keeps z s2 := by
  unfold execRollRetry at e
  revert e
  with_reducible repeat' first
    | assumption | exact Keeps.refl _ | (intro e; cases e; done)
    | (intro e; injection e with e; injection e with _ e; subst e) | (intro e; injection e with e; subst e)
    | refine keeps_ite (fun _ => ?_) (fun _ => ?_) | apply keeps_dhSend | split | dsimp only | intro _

theorem keeps_execRollack {z s s2 : State} {w0 w1 : Word} (e : execRollack w0 w1 s = .next s2) (hK : Keeps z s) :
    Keeps z s2 := by
  unfold execRollack at e
  revert e
  with_reducible repeat' first
    | assumption | exact Keeps.refl _ | (intro e; cases e; done)
    | (intro e; injection e with e; injection e with _ e; subst e) | (intro e; injection e with e; subst e)
    | refine keeps_ite (fun _ => ?_) (fun _ => ?_) | apply keeps_dhTake | (apply legal_mk; assumption) | split
    | dsimp only | apply keeps_mk | apply legal_mk | intro _

theorem keeps_execEcho {z s s2 : State} {atDH : Bool} {w0 w1 : Word} (e : execEcho atDH w0 w1 s = .next s2) (hK : Keeps z s) :
    Keeps z s2 := by
  unfold execEcho at e
  revert e
  with_reducible repeat' first
    | assumption | exact Keeps.refl _ | (intro e; cases e; done)
    | (intro e; injection e with e; injection e with _ e; subst e) | (intro e; injection e with e; subst e)
    | refine keeps_ite (fun _ => ?_) (fun _ => ?_) | apply keeps_coreRecv | apply keeps_dfSend | apply keeps_dfTake
    | apply keeps_dhSend | apply keeps_dhTake | (apply legal_mk; assumption) | split | dsimp only | apply keeps_mk
    | apply legal_mk | intro _

theorem keeps_execTimeSync {z s s2 : State} {w0 w1 : Word} (e : execTimeSync w0 w1 s = .next s2) (hK : Keeps z s) :
    Keeps z s2 := by
  unfold execTimeSync at e
  revert e
  with_reducible repeat' first
    | assumption | exact Keeps.refl _ | (intro e; cases e; done)
    | (intro e; injection e with e; injection e with _ e; subst e) | (intro e; injection e with e; subst e)
    | apply keeps_dfTake | apply keeps_modField | (apply legal_mk; assumption) | split | dsimp only | apply keeps_mk
    | apply legal_mk | intro _

theorem keeps_execTimeSyncSend {z s s2 : State}  (e : execTimeSyncSend s = .next s2) (hK : Keeps z s) :
    Keeps z s2 := by
  unfold execTimeSyncSend at e
  revert e
  with_reducible repeat' first
    | assumption | exact Keeps.refl _ | (intro e; cases e; done)
    | (intro e; injection e with e; injection e with _ e; subst e) | (intro e; injection e with e; subst e)
    | refine keeps_ite (fun _ => ?_) (fun _ => ?_) | apply keeps_dhSend | split | dsimp only | intro _

theorem keeps_execFieldTimeUnsync {z s s2 : State}  (e : execFieldTimeUnsync s = .next s2) (hK : Keeps z s) :
    Keeps z s2 := by
  unfold execFieldTimeUnsync at e
  revert e
  with_reducible repeat' first
    | assumption | exact Keeps.refl _ | (intro e; cases e; done)
    | (intro e; injection e with e; injection e with _ e; subst e) | (intro e; injection e with e; subst e)
    | refine keeps_ite (fun _ => ?_) (fun _ => ?_) | apply keeps_modField | (apply legal_mk; assumption) | split
    | dsimp only | apply keeps_mk | apply legal_mk | intro _

theorem keeps_execUnknownFrame {z s s2 : State} {atDH : Bool} {cls : Fin 4} {thr : Bool} (e : execUnknownFrame atDH cls thr s = .next s2) (hK : Keeps z s) :
    Keeps z s2 := by
  unfold execUnknownFrame at e
  revert e
  with_reducible repeat' first
    | assumption | exact Keeps.refl _ | (intro e; cases e; done)
    | (intro e; injection e with e; injection e with _ e; subst e) | (intro e; injection e with e; subst e)
    | refine keeps_ite (fun _ => ?_) (fun _ => ?_) | apply keeps_dfDrop | apply keeps_dfFault | apply keeps_dvDrop
    | apply keeps_modField | apply keeps_raise | apply keeps_bump | (apply legal_mk; assumption) | split | dsimp only
    | apply keeps_mk | apply legal_mk | intro _

theorem keeps_jigReport {z : State} {t : State} (s : State) (j : Nat) (hK : Keeps z t) :
    Keeps z (jigReport s t j) := by
  unfold jigReport
  with_reducible repeat' first
    | assumption | exact Keeps.refl _ | intro _ | refine keeps_ite (fun _ => ?_) (fun _ => ?_) | apply keeps_dfStatus
    | apply keeps_foldl | split | dsimp only

theorem keeps_jigMod {z : State} {s : State} (j : Nat) (f : Jig → Jig) (hK : Keeps z s) :
    Keeps z (jigMod s j f) := by
  unfold jigMod
  with_reducible repeat' first
    | assumption | exact Keeps.refl _ | intro _ | apply keeps_jigReport | apply keeps_setJig | split | dsimp only

theorem keeps_pinsSeen {z : State} {s : State} (j now : Nat) (hK : Keeps z s) :
    Keeps z (pinsSeen s j now) := by
  unfold pinsSeen
  with_reducible repeat' first
    | assumption | exact Keeps.refl _ | intro _ | apply keeps_setJig | apply keeps_foldl
    | (apply legal_mk; assumption) | split | dsimp only | apply keeps_mk | apply legal_mk

theorem keeps_jigFault {z : State} {s : State} (j f : Nat) (hK : Keeps z s) :
    Keeps z (jigFault s j f) := by
  unfold jigFault
  with_reducible repeat' first
    | assumption | exact Keeps.refl _ | intro _ | apply keeps_dfFault | apply keeps_dfPulse | apply keeps_setJig
    | (apply legal_mk; assumption) | split | dsimp only | apply keeps_mk | apply legal_mk

theorem keeps_jigFaulted {z : State} {s : State} (j f : Nat) (inj : Bool) (hK : Keeps z s) :
    Keeps z (jigFaulted s j f inj) := by
  unfold jigFaulted
  with_reducible repeat' first
    | assumption | exact Keeps.refl _ | intro _ | refine keeps_ite (fun _ => ?_) (fun _ => ?_) | apply keeps_jigFault
    | apply keeps_setJig | (apply legal_mk; assumption) | split | dsimp only | apply keeps_mk | apply legal_mk

theorem keeps_jigDo {z s : State} (j : Nat) (rx : Option Nat) (p : Nat → Bool)
    (body : State → Nat → Nat → Except Nat State) (hb : ∀ t i now u, body t i now = .ok u → Keeps z t → Keeps z u)
    (hK : Keeps z s) : Keeps z (jigDo s j rx p body) := by
  unfold jigDo
  refine keeps_ite (fun _ => hK) fun _ => ?_
  split
  · exact hK
  · refine keeps_ite (fun _ => hK) fun _ => keeps_ite (fun _ => ?_) fun _ => hK
    split
    · exact keeps_jigReport _ _ (keeps_pinsSeen _ _ (hb _ _ _ _ ‹_› (keeps_setJig _ _ hK)))
    · exact keeps_jigReport _ _ (keeps_jigFaulted _ _ _ hK)

theorem keeps_jigAgain {z s : State} (j : Nat) (rx : Option Nat) (p : Nat → Bool) (body : State → Nat → Nat → State)
    (hb : ∀ t i now, Keeps z t → Keeps z (body t i now)) (hK : Keeps z s) : Keeps z (jigAgain s j rx p body) := by
  unfold jigAgain
  exact keeps_ite (fun _ => keeps_jigReport _ _ (keeps_pinsSeen _ _ (hb _ _ _ hK))) fun _ => hK

theorem keeps_jigSet {z : State} {s : State} (j : Nat) (f : Jig → Jig) (hK : Keeps z s) :
    Keeps z (jigSet s j f) := by
  unfold jigSet
  with_reducible repeat' first
    | assumption | exact Keeps.refl _ | intro _ | apply keeps_setJig | split | dsimp only

theorem keeps_jStorePut {z : State} {s : State} (g k v : Nat) (hK : Keeps z s) :
    Keeps z (jStorePut s g k v) := by
  unfold jStorePut
  with_reducible repeat' first
    | assumption | exact Keeps.refl _ | intro _ | apply keeps_dfStatus | apply keeps_fldPut | split | dsimp only

theorem keeps_execJigProg {z s s2 : State} {w0 w1 : Word} (e : execJigProg w0 w1 s = .next s2) (hK : Keeps z s) :
    Keeps z s2 := by
  unfold execJigProg at e
  revert e
  with_reducible repeat' first
    | assumption | exact Keeps.refl _ | (intro e; cases e; done)
    | (intro e; injection e with e; injection e with _ e; subst e) | (intro e; injection e with e; subst e)
    | refine keeps_ite (fun _ => ?_) (fun _ => ?_) | apply keeps_dfRefuse | apply keeps_dfTake
    | apply keeps_jStorePut | split | dsimp only | intro _

theorem keeps_execJigInject {z s s2 : State} {w0 w1 : Word} (e : execJigInject w0 w1 s = .next s2) (hK : Keeps z s) :
    Keeps z s2 := by
  unfold execJigInject at e
  revert e
  with_reducible repeat' first
    | assumption | exact Keeps.refl _ | (intro e; cases e; done)
    | (intro e; injection e with e; injection e with _ e; subst e) | (intro e; injection e with e; subst e)
    | refine keeps_ite (fun _ => ?_) (fun _ => ?_) | apply keeps_dfTake | apply keeps_jigMod
    | (apply legal_mk; assumption) | split | dsimp only | apply keeps_mk | apply legal_mk | intro _

theorem keeps_jigCtl {z : State} {s : State} (a : Nat) (hK : Keeps z s) :
    Keeps z (jigCtl s a) := by
  unfold jigCtl
  with_reducible repeat' first
    | assumption | exact Keeps.refl _ | intro _ | refine keeps_ite (fun _ => ?_) (fun _ => ?_) | apply keeps_dfRefuse
    | apply keeps_jigCredit | apply keeps_jigMod | apply keeps_foldl | (apply legal_mk; assumption) | split
    | dsimp only | apply keeps_mk | apply legal_mk

theorem keeps_execJigStart {z s s2 : State} {w0 w1 : Word} (e : execJigStart w0 w1 s = .next s2) (hK : Keeps z s) :
    Keeps z s2 := by
  unfold execJigStart at e
  revert e
  with_reducible repeat' first
    | assumption | exact Keeps.refl _ | (intro e; cases e; done)
    | (intro e; injection e with e; injection e with _ e; subst e) | (intro e; injection e with e; subst e)
    | apply keeps_dfTake | apply keeps_jigCtl | split | dsimp only | intro _

theorem keeps_execJigStop {z s s2 : State} {w0 w1 : Word} (e : execJigStop w0 w1 s = .next s2) (hK : Keeps z s) :
    Keeps z s2 := by
  unfold execJigStop at e
  revert e
  with_reducible repeat' first
    | assumption | exact Keeps.refl _ | (intro e; cases e; done)
    | (intro e; injection e with e; injection e with _ e; subst e) | (intro e; injection e with e; subst e)
    | apply keeps_dfTake | apply keeps_jigCtl | split | dsimp only | intro _

theorem keeps_execJigReset {z s s2 : State} {w0 w1 : Word} (e : execJigReset w0 w1 s = .next s2) (hK : Keeps z s) :
    Keeps z s2 := by
  unfold execJigReset at e
  revert e
  with_reducible repeat' first
    | assumption | exact Keeps.refl _ | (intro e; cases e; done)
    | (intro e; injection e with e; injection e with _ e; subst e) | (intro e; injection e with e; subst e)
    | apply keeps_dfTake | apply keeps_jigCtl | split | dsimp only | intro _

theorem keeps_jigBrDo {z : State} {s t : State} {j i now : Nat} (e : jigBrDo s j i now = .ok t) (hK : Keeps z s) :
    Keeps z t := by
  unfold jigBrDo at e
  revert e
  with_reducible repeat' first
    | assumption | exact Keeps.refl _ | (intro e; cases e; done)
    | (intro e; injection e with e; injection e with _ e; subst e) | (intro e; injection e with e; subst e)
    | refine keeps_ite (fun _ => ?_) (fun _ => ?_) | apply keeps_jigSet | (apply legal_mk; assumption) | split
    | dsimp only | apply keeps_mk | apply legal_mk | intro _

theorem keeps_execJigBr {z s s2 : State} {j : Fin 32} {rx : BitVec 4} (e : execJigBr j rx s = .next s2) (hK : Keeps z s) :
    Keeps z s2 := by
  unfold execJigBr at e
  revert e
  with_reducible repeat' first
    | assumption | exact Keeps.refl _ | (intro e; cases e; done)
    | (intro e; injection e with e; injection e with _ e; subst e) | (intro e; injection e with e; subst e)
    | refine keeps_ite (fun _ => ?_) (fun _ => ?_) | refine keeps_jigBrDo (by assumption) ?_ | apply keeps_jigDo
    | apply keeps_jigFault | apply keeps_jigReport | split | dsimp only | intro _

theorem keeps_holdEnd {z : State} {s : State} (j i : Nat) (hK : Keeps z s) :
    Keeps z (holdEnd s j i) := by
  unfold holdEnd
  with_reducible repeat' first
    | assumption | exact Keeps.refl _ | intro _ | refine keeps_ite (fun _ => ?_) (fun _ => ?_) | apply keeps_jigSet
    | (apply legal_mk; assumption) | split | dsimp only | apply keeps_mk | apply legal_mk

theorem keeps_execJigHold {z s s2 : State} {j : Fin 32} {rx : BitVec 4} (e : execJigHold j rx s = .next s2) (hK : Keeps z s) :
    Keeps z s2 := by
  unfold execJigHold at e
  revert e
  with_reducible repeat' first
    | assumption | exact Keeps.refl _ | (intro e; cases e; done)
    | (intro e; injection e with e; injection e with _ e; subst e) | (intro e; injection e with e; subst e)
    | refine keeps_ite (fun _ => ?_) (fun _ => ?_) | apply keeps_holdEnd | apply keeps_jigDo | apply keeps_jigSet
    | (apply legal_mk; assumption) | split | dsimp only | apply keeps_mk | apply legal_mk | intro _

theorem keeps_execJigHoldEnd {z s s2 : State} {j : Fin 32} {rx : BitVec 4} (e : execJigHoldEnd j rx s = .next s2) (hK : Keeps z s) :
    Keeps z s2 := by
  unfold execJigHoldEnd at e
  revert e
  with_reducible repeat' first
    | assumption | exact Keeps.refl _ | (intro e; cases e; done)
    | (intro e; injection e with e; injection e with _ e; subst e) | (intro e; injection e with e; subst e)
    | refine keeps_ite (fun _ => ?_) (fun _ => ?_) | apply keeps_holdEnd | apply keeps_jigAgain | split | dsimp only
    | intro _

theorem keeps_shiftDo {z : State} {s : State} (j i now : Nat) (hK : Keeps z s) :
    Keeps z (shiftDo s j i now) := by
  unfold shiftDo
  with_reducible repeat' first
    | assumption | exact Keeps.refl _ | intro _ | refine keeps_ite (fun _ => ?_) (fun _ => ?_)
    | apply keeps_jigFollow | apply keeps_jigSet | split | dsimp only

theorem keeps_execJigShift {z s s2 : State} {j : Fin 32} {rx : BitVec 4} (e : execJigShift j rx s = .next s2) (hK : Keeps z s) :
    Keeps z s2 := by
  unfold execJigShift at e
  revert e
  with_reducible repeat' first
    | assumption | exact Keeps.refl _ | (intro e; cases e; done)
    | (intro e; injection e with e; injection e with _ e; subst e) | (intro e; injection e with e; subst e)
    | refine keeps_ite (fun _ => ?_) (fun _ => ?_) | apply keeps_jigDo | apply keeps_jigSet | apply keeps_shiftDo
    | (apply legal_mk; assumption) | split | dsimp only | apply keeps_mk | apply legal_mk | intro _

theorem keeps_execJigShiftBit {z s s2 : State} {j : Fin 32} {rx : BitVec 4} (e : execJigShiftBit j rx s = .next s2) (hK : Keeps z s) :
    Keeps z s2 := by
  unfold execJigShiftBit at e
  revert e
  with_reducible repeat' first
    | assumption | exact Keeps.refl _ | (intro e; cases e; done)
    | (intro e; injection e with e; injection e with _ e; subst e) | (intro e; injection e with e; subst e)
    | apply keeps_jigAgain | apply keeps_shiftDo | split | dsimp only | intro _

theorem keeps_swapDo {z : State} {s : State} (j i : Nat) (hK : Keeps z s) :
    Keeps z (swapDo s j i) := by
  unfold swapDo
  with_reducible repeat' first
    | assumption | exact Keeps.refl _ | intro _ | refine keeps_ite (fun _ => ?_) (fun _ => ?_)
    | apply keeps_jigCredit | apply keeps_jigSet | (apply legal_mk; assumption) | split | dsimp only | apply keeps_mk
    | apply legal_mk

theorem keeps_swapRow {z s : State} (op j : Nat) (hK : Keeps z s) : Keeps z (swapRow op s j) := by
  unfold swapRow
  refine keeps_ite (fun _ => keeps_jigAgain _ _ _ _ (fun _ _ _ h => keeps_swapDo _ _ h) hK) fun _ => keeps_jigDo _ _ _ _ ?_ hK
  intro t i now u e h
  split at e
  · cases e
  · injection e with e
    subst e
    exact keeps_swapDo _ _ h

theorem keeps_execJigSwapOut {z s s2 : State} {j : Fin 32} (e : execJigSwapOut j s = .next s2) (hK : Keeps z s) :
    Keeps z s2 := by
  unfold execJigSwapOut at e
  revert e
  with_reducible repeat' first
    | assumption | exact Keeps.refl _ | (intro e; cases e; done)
    | (intro e; injection e with e; injection e with _ e; subst e) | (intro e; injection e with e; subst e)
    | apply keeps_swapRow | split | dsimp only | intro _

theorem keeps_execJigSwapIn {z s s2 : State} {j : Fin 32} (e : execJigSwapIn j s = .next s2) (hK : Keeps z s) :
    Keeps z s2 := by
  unfold execJigSwapIn at e
  revert e
  with_reducible repeat' first
    | assumption | exact Keeps.refl _ | (intro e; cases e; done)
    | (intro e; injection e with e; injection e with _ e; subst e) | (intro e; injection e with e; subst e)
    | apply keeps_swapRow | split | dsimp only | intro _

theorem keeps_execJigSwapExch {z s s2 : State} {j : Fin 32} (e : execJigSwapExch j s = .next s2) (hK : Keeps z s) :
    Keeps z s2 := by
  unfold execJigSwapExch at e
  revert e
  with_reducible repeat' first
    | assumption | exact Keeps.refl _ | (intro e; cases e; done)
    | (intro e; injection e with e; injection e with _ e; subst e) | (intro e; injection e with e; subst e)
    | apply keeps_swapRow | split | dsimp only | intro _

theorem keeps_execJigSwapClear {z s s2 : State} {j : Fin 32} (e : execJigSwapClear j s = .next s2) (hK : Keeps z s) :
    Keeps z s2 := by
  unfold execJigSwapClear at e
  revert e
  with_reducible repeat' first
    | assumption | exact Keeps.refl _ | (intro e; cases e; done)
    | (intro e; injection e with e; injection e with _ e; subst e) | (intro e; injection e with e; subst e)
    | apply keeps_swapRow | split | dsimp only | intro _

theorem keeps_execJigDriveLevels {z s s2 : State} {j : Fin 32} (e : execJigDriveLevels j s = .next s2) (hK : Keeps z s) :
    Keeps z s2 := by
  unfold execJigDriveLevels at e
  revert e
  with_reducible repeat' first
    | assumption | exact Keeps.refl _ | (intro e; cases e; done)
    | (intro e; injection e with e; injection e with _ e; subst e) | (intro e; injection e with e; subst e)
    | apply keeps_jigDo | apply keeps_jigFollow | apply keeps_jigSet | (apply legal_mk; assumption) | split
    | dsimp only | apply keeps_mk | apply legal_mk | intro _

theorem keeps_execJigDriveDirections {z s s2 : State} {j : Fin 32} (e : execJigDriveDirections j s = .next s2) (hK : Keeps z s) :
    Keeps z s2 := by
  unfold execJigDriveDirections at e
  revert e
  with_reducible repeat' first
    | assumption | exact Keeps.refl _ | (intro e; cases e; done)
    | (intro e; injection e with e; injection e with _ e; subst e) | (intro e; injection e with e; subst e)
    | refine keeps_ite (fun _ => ?_) (fun _ => ?_) | apply keeps_dfStatus | apply keeps_jigDo | apply keeps_jigFollow
    | apply keeps_jigSet | apply keeps_foldl | (apply legal_mk; assumption) | split | dsimp only | apply keeps_mk
    | apply legal_mk | intro _

theorem keeps_execJigCountLoad {z s s2 : State} {j : Fin 32} (e : execJigCountLoad j s = .next s2) (hK : Keeps z s) :
    Keeps z s2 := by
  unfold execJigCountLoad at e
  revert e
  with_reducible repeat' first
    | assumption | exact Keeps.refl _ | (intro e; cases e; done)
    | (intro e; injection e with e; injection e with _ e; subst e) | (intro e; injection e with e; subst e)
    | apply keeps_jigDo | apply keeps_jigSet | split | dsimp only | intro _

theorem keeps_execJigCountLoadSource {z s s2 : State} {j : Fin 32} (e : execJigCountLoadSource j s = .next s2) (hK : Keeps z s) :
    Keeps z s2 := by
  unfold execJigCountLoadSource at e
  revert e
  with_reducible repeat' first
    | assumption | exact Keeps.refl _ | (intro e; cases e; done)
    | (intro e; injection e with e; injection e with _ e; subst e) | (intro e; injection e with e; subst e)
    | refine keeps_ite (fun _ => ?_) (fun _ => ?_) | apply keeps_jigDo | apply keeps_jigSet | split | dsimp only
    | intro _

theorem keeps_execJigCountStep {z s s2 : State} {j : Fin 32} (e : execJigCountStep j s = .next s2) (hK : Keeps z s) :
    Keeps z s2 := by
  unfold execJigCountStep at e
  revert e
  with_reducible repeat' first
    | assumption | exact Keeps.refl _ | (intro e; cases e; done)
    | (intro e; injection e with e; injection e with _ e; subst e) | (intro e; injection e with e; subst e)
    | refine keeps_ite (fun _ => ?_) (fun _ => ?_) | apply keeps_jigDo | apply keeps_jigSet | split | dsimp only
    | intro _

theorem keeps_execJigCountCompare {z s s2 : State} {j : Fin 32} (e : execJigCountCompare j s = .next s2) (hK : Keeps z s) :
    Keeps z s2 := by
  unfold execJigCountCompare at e
  revert e
  with_reducible repeat' first
    | assumption | exact Keeps.refl _ | (intro e; cases e; done)
    | (intro e; injection e with e; injection e with _ e; subst e) | (intro e; injection e with e; subst e)
    | apply keeps_jigDo | apply keeps_jigSet | (apply legal_mk; assumption) | split | dsimp only | apply keeps_mk
    | apply legal_mk | intro _

theorem keeps_markDo {z : State} {s : State} (j i : Nat) (hK : Keeps z s) :
    Keeps z (markDo s j i) := by
  unfold markDo
  with_reducible repeat' first
    | assumption | exact Keeps.refl _ | intro _ | refine keeps_ite (fun _ => ?_) (fun _ => ?_) | apply keeps_jigSet
    | apply keeps_bump | (apply legal_mk; assumption) | split | dsimp only | apply keeps_mk | apply legal_mk

theorem keeps_execJigMark {z s s2 : State} {j : Fin 32} {stamp : Payload} (e : execJigMark j stamp s = .next s2) (hK : Keeps z s) :
    Keeps z s2 := by
  unfold execJigMark at e
  revert e
  with_reducible repeat' first
    | assumption | exact Keeps.refl _ | (intro e; cases e; done)
    | (intro e; injection e with e; injection e with _ e; subst e) | (intro e; injection e with e; subst e)
    | refine keeps_ite (fun _ => ?_) (fun _ => ?_) | apply keeps_jigAgain | apply keeps_jigDo | apply keeps_jigSet
    | apply keeps_markDo | (apply legal_mk; assumption) | split | dsimp only | apply keeps_mk | apply legal_mk
    | intro _

theorem keeps_execJigSignal {z s s2 : State} {j : Fin 32} (e : execJigSignal j s = .next s2) (hK : Keeps z s) :
    Keeps z s2 := by
  unfold execJigSignal at e
  revert e
  with_reducible repeat' first
    | assumption | exact Keeps.refl _ | (intro e; cases e; done)
    | (intro e; injection e with e; injection e with _ e; subst e) | (intro e; injection e with e; subst e)
    | refine keeps_ite (fun _ => ?_) (fun _ => ?_) | apply keeps_dfPulse | apply keeps_flagOp | apply keeps_jigDo
    | apply keeps_jigSet | (apply legal_mk; assumption) | split | dsimp only | apply keeps_mk | apply legal_mk
    | intro _

theorem keeps_execJigMatchCompare {z s s2 : State} {j : Fin 32} (e : execJigMatchCompare j s = .next s2) (hK : Keeps z s) :
    Keeps z s2 := by
  unfold execJigMatchCompare at e
  revert e
  with_reducible repeat' first
    | assumption | exact Keeps.refl _ | (intro e; cases e; done)
    | (intro e; injection e with e; injection e with _ e; subst e) | (intro e; injection e with e; subst e)
    | refine keeps_ite (fun _ => ?_) (fun _ => ?_) | apply keeps_jigDo | apply keeps_jigSet
    | (apply legal_mk; assumption) | split | dsimp only | apply keeps_mk | apply legal_mk | intro _

theorem keeps_execJigMatchLoadPat {z s s2 : State} {j : Fin 32} (e : execJigMatchLoadPat j s = .next s2) (hK : Keeps z s) :
    Keeps z s2 := by
  unfold execJigMatchLoadPat at e
  revert e
  with_reducible repeat' first
    | assumption | exact Keeps.refl _ | (intro e; cases e; done)
    | (intro e; injection e with e; injection e with _ e; subst e) | (intro e; injection e with e; subst e)
    | refine keeps_ite (fun _ => ?_) (fun _ => ?_) | apply keeps_jigDo | apply keeps_jigSet
    | (apply legal_mk; assumption) | split | dsimp only | apply keeps_mk | apply legal_mk | intro _

theorem keeps_execJigMatchLoadMask {z s s2 : State} {j : Fin 32} (e : execJigMatchLoadMask j s = .next s2) (hK : Keeps z s) :
    Keeps z s2 := by
  unfold execJigMatchLoadMask at e
  revert e
  with_reducible repeat' first
    | assumption | exact Keeps.refl _ | (intro e; cases e; done)
    | (intro e; injection e with e; injection e with _ e; subst e) | (intro e; injection e with e; subst e)
    | refine keeps_ite (fun _ => ?_) (fun _ => ?_) | apply keeps_jigDo | apply keeps_jigSet
    | (apply legal_mk; assumption) | split | dsimp only | apply keeps_mk | apply legal_mk | intro _

theorem keeps_execJigCrcInit {z s s2 : State} {j : Fin 32} (e : execJigCrcInit j s = .next s2) (hK : Keeps z s) :
    Keeps z s2 := by
  unfold execJigCrcInit at e
  revert e
  with_reducible repeat' first
    | assumption | exact Keeps.refl _ | (intro e; cases e; done)
    | (intro e; injection e with e; injection e with _ e; subst e) | (intro e; injection e with e; subst e)
    | refine keeps_ite (fun _ => ?_) (fun _ => ?_) | apply keeps_jigDo | apply keeps_jigSet
    | (apply legal_mk; assumption) | split | dsimp only | apply keeps_mk | apply legal_mk | intro _

theorem keeps_execJigCrcArm {z s s2 : State} {j : Fin 32} (e : execJigCrcArm j s = .next s2) (hK : Keeps z s) :
    Keeps z s2 := by
  unfold execJigCrcArm at e
  revert e
  with_reducible repeat' first
    | assumption | exact Keeps.refl _ | (intro e; cases e; done)
    | (intro e; injection e with e; injection e with _ e; subst e) | (intro e; injection e with e; subst e)
    | apply keeps_jigDo | apply keeps_jigSet | (apply legal_mk; assumption) | split | dsimp only | apply keeps_mk
    | apply legal_mk | intro _

theorem keeps_execJigCrcDisarm {z s s2 : State} {j : Fin 32} (e : execJigCrcDisarm j s = .next s2) (hK : Keeps z s) :
    Keeps z s2 := by
  unfold execJigCrcDisarm at e
  revert e
  with_reducible repeat' first
    | assumption | exact Keeps.refl _ | (intro e; cases e; done)
    | (intro e; injection e with e; injection e with _ e; subst e) | (intro e; injection e with e; subst e)
    | apply keeps_jigDo | apply keeps_jigSet | (apply legal_mk; assumption) | split | dsimp only | apply keeps_mk
    | apply legal_mk | intro _

theorem keeps_execJigCrcCopy {z s s2 : State} {j : Fin 32} (e : execJigCrcCopy j s = .next s2) (hK : Keeps z s) :
    Keeps z s2 := by
  unfold execJigCrcCopy at e
  revert e
  with_reducible repeat' first
    | assumption | exact Keeps.refl _ | (intro e; cases e; done)
    | (intro e; injection e with e; injection e with _ e; subst e) | (intro e; injection e with e; subst e)
    | refine keeps_ite (fun _ => ?_) (fun _ => ?_) | apply keeps_jigDo | apply keeps_jigSet
    | (apply legal_mk; assumption) | split | dsimp only | apply keeps_mk | apply legal_mk | intro _

theorem keeps_execQword {z s s2 : State} {atDH : Bool} {w0 w1 : Word} (e : execQword atDH w0 w1 s = .next s2) (hK : Keeps z s) :
    Keeps z s2 := by
  unfold execQword at e
  revert e
  with_reducible repeat' first
    | assumption | exact Keeps.refl _ | (intro e; cases e; done)
    | (intro e; injection e with e; injection e with _ e; subst e) | (intro e; injection e with e; subst e)
    | refine keeps_ite (fun _ => ?_) (fun _ => ?_) | apply keeps_coreRecv | apply keeps_dfTake | apply keeps_dhTake
    | apply keeps_jigMod | (apply legal_mk; assumption) | split | dsimp only | apply keeps_mk | apply legal_mk
    | intro _

theorem keeps_execUpQueueSend {z s s2 : State} {j : Fin 32} (e : execUpQueueSend j s = .next s2) (hK : Keeps z s) :
    Keeps z s2 := by
  unfold execUpQueueSend at e
  revert e
  with_reducible repeat' first
    | assumption | exact Keeps.refl _ | (intro e; cases e; done)
    | (intro e; injection e with e; injection e with _ e; subst e) | (intro e; injection e with e; subst e)
    | refine keeps_ite (fun _ => ?_) (fun _ => ?_) | apply keeps_dfSend | apply keeps_jigReport
    | apply keeps_modField | apply keeps_setJig | (apply legal_mk; assumption) | split | dsimp only | apply keeps_mk
    | apply legal_mk | intro _

theorem keeps_smpStore {z : State} {s : State} (ws : List Word) (hK : Keeps z s) :
    Keeps z (smpStore s ws) := by
  unfold smpStore
  with_reducible repeat' first
    | assumption | exact Keeps.refl _ | intro _ | apply keeps_ioSetF | apply keeps_memPutAll | apply keeps_raise
    | apply keeps_memPut | split | dsimp only

theorem keeps_smpPut {z : State} {s : State} (ws : List Word) (hK : Keeps z s) :
    Keeps z (smpPut s ws) := by
  unfold smpPut
  with_reducible repeat' first
    | assumption | exact Keeps.refl _ | intro _ | refine keeps_ite (fun _ => ?_) (fun _ => ?_) | apply keeps_dvDrop
    | apply keeps_raise | apply keeps_smpStore | split | dsimp only

theorem keeps_execSampleMsg {z s s2 : State} {w0 w1 : Word} (e : execSampleMsg w0 w1 s = .next s2) (hK : Keeps z s) :
    Keeps z s2 := by
  unfold execSampleMsg at e
  revert e
  with_reducible repeat' first
    | assumption | exact Keeps.refl _ | (intro e; cases e; done)
    | (intro e; injection e with e; injection e with _ e; subst e) | (intro e; injection e with e; subst e)
    | apply keeps_dhTake | apply keeps_smpPut | split | dsimp only | intro _

theorem keeps_execStampMsg {z s s2 : State} {w0 w1 : Word} (e : execStampMsg w0 w1 s = .next s2) (hK : Keeps z s) :
    Keeps z s2 := by
  unfold execStampMsg at e
  revert e
  with_reducible repeat' first
    | assumption | exact Keeps.refl _ | (intro e; cases e; done)
    | (intro e; injection e with e; injection e with _ e; subst e) | (intro e; injection e with e; subst e)
    | refine keeps_ite (fun _ => ?_) (fun _ => ?_) | apply keeps_dhTake | apply keeps_readyFollow
    | apply keeps_smpPut | apply keeps_tdStamp | split | dsimp only | intro _

theorem keeps_mirrorPut {z : State} {s : State} (u : Nat) (pad : Bool) (hK : Keeps z s) :
    Keeps z (mirrorPut s u pad) := by
  unfold mirrorPut
  with_reducible repeat' first
    | assumption | exact Keeps.refl _ | intro _ | apply keeps_ioSetB | apply keeps_foldl | split | dsimp only

theorem keeps_execEventMsg {z s s2 : State} {w0 w1 : Word} (e : execEventMsg w0 w1 s = .next s2) (hK : Keeps z s) :
    Keeps z s2 := by
  unfold execEventMsg at e
  revert e
  with_reducible repeat' first
    | assumption | exact Keeps.refl _ | (intro e; cases e; done)
    | (intro e; injection e with e; injection e with _ e; subst e) | (intro e; injection e with e; subst e)
    | refine keeps_ite (fun _ => ?_) (fun _ => ?_) | apply keeps_assertLevel | apply keeps_dhTake
    | apply keeps_mirrorPut | apply keeps_raise | apply keeps_withdrawLevel | (apply legal_mk; assumption) | split
    | dsimp only | apply keeps_mk | apply legal_mk | intro _

theorem keeps_frdyFollow {z : State} {s : State}  (hK : Keeps z s) :
    Keeps z (frdyFollow s) := by
  unfold frdyFollow
  with_reducible repeat' first
    | assumption | exact Keeps.refl _ | intro _ | apply keeps_readyFollow | apply keeps_foldl | split | dsimp only

theorem keeps_limlvlFollow {z : State} {s : State} (u : Nat) (lvl : Bool) (hK : Keeps z s) :
    Keeps z (limlvlFollow s u lvl) := by
  unfold limlvlFollow
  with_reducible repeat' first
    | assumption | exact Keeps.refl _ | intro _ | refine keeps_ite (fun _ => ?_) (fun _ => ?_) | apply keeps_hubEval
    | apply keeps_ioSetB | apply keeps_ioSetF | (apply legal_mk; assumption) | split | dsimp only | apply keeps_mk
    | apply legal_mk

theorem keeps_dumpEnd {z : State} {s : State}  (hK : Keeps z s) :
    Keeps z (dumpEnd s) := by
  unfold dumpEnd
  with_reducible repeat' first
    | assumption | exact Keeps.refl _ | intro _ | apply keeps_ioSetB | apply keeps_raise | apply keeps_readyUp
    | (apply legal_mk; assumption) | split | dsimp only | apply keeps_mk | apply legal_mk

theorem keeps_shadowEffects {z : State} {s : State} (f : Nat) (hK : Keeps z s) :
    Keeps z (shadowEffects s f) := by
  unfold shadowEffects
  with_reducible repeat' first
    | assumption | exact Keeps.refl _ | intro _ | refine keeps_ite (fun _ => ?_) (fun _ => ?_) | apply keeps_dumpEnd
    | apply keeps_frdyFollow | apply keeps_ioSetB | apply keeps_limlvlFollow | apply keeps_serviceTell
    | apply keeps_skerfFollow | split | dsimp only

theorem keeps_txReported {z : State} {s : State} (f result bytes : Nat) (hK : Keeps z s) :
    Keeps z (txReported s f result bytes) := by
  unfold txReported
  with_reducible repeat' first
    | assumption | exact Keeps.refl _ | intro _ | apply keeps_coreRecv | apply keeps_sendAll
    | (apply legal_mk; assumption) | split | dsimp only | apply keeps_mk | apply legal_mk

theorem keeps_execStatusMsg {z s s2 : State} {w0 w1 : Word} (e : execStatusMsg w0 w1 s = .next s2) (hK : Keeps z s) :
    Keeps z s2 := by
  unfold execStatusMsg at e
  revert e
  with_reducible repeat' first
    | assumption | exact Keeps.refl _ | (intro e; cases e; done)
    | (intro e; injection e with e; injection e with _ e; subst e) | (intro e; injection e with e; subst e)
    | refine keeps_ite (fun _ => ?_) (fun _ => ?_) | apply keeps_dhTake | apply keeps_raise | apply keeps_serviceTell
    | apply keeps_shadowEffects | apply keeps_txReported | apply keeps_ioPut | split | dsimp only | intro _

theorem keeps_execFaultMsg {z s s2 : State} {w0 w1 : Word} (e : execFaultMsg w0 w1 s = .next s2) (hK : Keeps z s) :
    Keeps z s2 := by
  unfold execFaultMsg at e
  revert e
  with_reducible repeat' first
    | assumption | exact Keeps.refl _ | (intro e; cases e; done)
    | (intro e; injection e with e; injection e with _ e; subst e) | (intro e; injection e with e; subst e)
    | refine keeps_ite (fun _ => ?_) (fun _ => ?_) | apply keeps_dhTake | apply keeps_elWrite | apply keeps_raise
    | apply keeps_tamper | split | dsimp only | intro _

theorem keeps_rxImage {z : State} {s : State} (p : Nat) (b : List Byte) (hK : Keeps z s) :
    Keeps z (rxImage s p b) := by
  unfold rxImage
  with_reducible repeat' first
    | assumption | exact Keeps.refl _ | intro _ | refine keeps_ite (fun _ => ?_) (fun _ => ?_) | apply keeps_coreRecv
    | apply keeps_dvDrop | apply keeps_ioSetF | apply keeps_memPutAll | apply keeps_raise | apply keeps_memPut
    | apply keeps_foldl | split | dsimp only

theorem keeps_rxGather {z : State} {s : State} (p : Nat) (b : List Byte) (hK : Keeps z s) :
    Keeps z (rxGather s p b) := by
  unfold rxGather
  with_reducible repeat' first
    | assumption | exact Keeps.refl _ | intro _ | refine keeps_ite (fun _ => ?_) (fun _ => ?_) | apply keeps_rxImage
    | (apply legal_mk; assumption) | split | dsimp only | apply keeps_mk | apply legal_mk

theorem keeps_execPortRxFirst {z s s2 : State} {p : Fin 12} {b : List Byte} (e : execPortRxFirst p b s = .next s2) (hK : Keeps z s) :
    Keeps z s2 := by
  unfold execPortRxFirst at e
  revert e
  with_reducible repeat' first
    | assumption | exact Keeps.refl _ | (intro e; cases e; done)
    | (intro e; injection e with e; injection e with _ e; subst e) | (intro e; injection e with e; subst e)
    | refine keeps_ite (fun _ => ?_) (fun _ => ?_) | apply keeps_dhTake | apply keeps_dvDrop | apply keeps_rxGather
    | split | dsimp only | intro _

theorem keeps_execPortRxLater {z s s2 : State} {p : Fin 12} {b : List Byte} (e : execPortRxLater p b s = .next s2) (hK : Keeps z s) :
    Keeps z s2 := by
  unfold execPortRxLater at e
  revert e
  with_reducible repeat' first
    | assumption | exact Keeps.refl _ | (intro e; cases e; done)
    | (intro e; injection e with e; injection e with _ e; subst e) | (intro e; injection e with e; subst e)
    | refine keeps_ite (fun _ => ?_) (fun _ => ?_) | apply keeps_dhTake | apply keeps_dvDrop | apply keeps_rxGather
    | split | dsimp only | intro _

theorem keeps_fieldWhen {z s t : State} {p : Bool} {f : State → State} (e : fieldWhen s p f = .next t)
    (hf : ∀ u, Keeps z u → Keeps z (f u)) (hK : Keeps z s) : Keeps z t := by
  injection e with e
  subst e
  exact keeps_ite (fun _ => hf _ hK) fun _ => hK

theorem keeps_execChannelEdge {z s s2 : State} {u : Fin 64} {rising : Bool} {t : Payload} (e : execChannelEdge u rising t s = .next s2) (hK : Keeps z s) :
    Keeps z s2 := by
  unfold execChannelEdge at e
  revert e
  with_reducible repeat' first
    | assumption | exact Keeps.refl _ | (intro e; cases e; done)
    | (intro e; injection e with e; injection e with _ e; subst e) | (intro e; injection e with e; subst e)
    | apply keeps_edgeDo | refine keeps_fieldWhen (by assumption) ?_ ?_ | split | dsimp only | intro _

theorem keeps_execThresholdTrack {z s s2 : State} {u : Fin 64} {mid : BitVec 14} (e : execThresholdTrack u mid s = .next s2) (hK : Keeps z s) :
    Keeps z s2 := by
  unfold execThresholdTrack at e
  revert e
  with_reducible repeat' first
    | assumption | exact Keeps.refl _ | (intro e; cases e; done)
    | (intro e; injection e with e; injection e with _ e; subst e) | (intro e; injection e with e; subst e)
    | refine keeps_fieldWhen (by assumption) ?_ ?_ | apply keeps_trackDo | split | dsimp only | intro _

theorem keeps_execCurrentLimit {z s s2 : State} {u : Fin 64} (e : execCurrentLimit u s = .next s2) (hK : Keeps z s) :
    Keeps z s2 := by
  unfold execCurrentLimit at e
  revert e
  with_reducible repeat' first
    | assumption | exact Keeps.refl _ | (intro e; cases e; done)
    | (intro e; injection e with e; injection e with _ e; subst e) | (intro e; injection e with e; subst e)
    | apply keeps_chSet | refine keeps_fieldWhen (by assumption) ?_ ?_ | split | dsimp only | intro _

theorem keeps_execCurrentLimitEnd {z s s2 : State} {u : Fin 64} (e : execCurrentLimitEnd u s = .next s2) (hK : Keeps z s) :
    Keeps z s2 := by
  unfold execCurrentLimitEnd at e
  revert e
  with_reducible repeat' first
    | assumption | exact Keeps.refl _ | (intro e; cases e; done)
    | (intro e; injection e with e; injection e with _ e; subst e) | (intro e; injection e with e; subst e)
    | apply keeps_chSet | refine keeps_fieldWhen (by assumption) ?_ ?_ | split | dsimp only | intro _

theorem keeps_execShortLatch {z s s2 : State} {u : Fin 64} (e : execShortLatch u s = .next s2) (hK : Keeps z s) :
    Keeps z s2 := by
  unfold execShortLatch at e
  revert e
  with_reducible repeat' first
    | assumption | exact Keeps.refl _ | (intro e; cases e; done)
    | (intro e; injection e with e; injection e with _ e; subst e) | (intro e; injection e with e; subst e)
    | apply keeps_chSet | refine keeps_fieldWhen (by assumption) ?_ ?_ | split | dsimp only | intro _

theorem keeps_execShortRetry {z s s2 : State} {u : Fin 64} {holds : Bool} (e : execShortRetry u holds s = .next s2) (hK : Keeps z s) :
    Keeps z s2 := by
  unfold execShortRetry at e
  revert e
  with_reducible repeat' first
    | assumption | exact Keeps.refl _ | (intro e; cases e; done)
    | (intro e; injection e with e; injection e with _ e; subst e) | (intro e; injection e with e; subst e)
    | apply keeps_chSet | refine keeps_fieldWhen (by assumption) ?_ ?_ | split | dsimp only | intro _

theorem keeps_execThermalShutdown {z s s2 : State} {u : Fin 64} (e : execThermalShutdown u s = .next s2) (hK : Keeps z s) :
    Keeps z s2 := by
  unfold execThermalShutdown at e
  revert e
  with_reducible repeat' first
    | assumption | exact Keeps.refl _ | (intro e; cases e; done)
    | (intro e; injection e with e; injection e with _ e; subst e) | (intro e; injection e with e; subst e)
    | apply keeps_chAfter | refine keeps_fieldWhen (by assumption) ?_ ?_ | apply keeps_fldSetF | split | dsimp only
    | intro _

theorem keeps_execThermalRecover {z s s2 : State} {u : Fin 64} (e : execThermalRecover u s = .next s2) (hK : Keeps z s) :
    Keeps z s2 := by
  unfold execThermalRecover at e
  revert e
  with_reducible repeat' first
    | assumption | exact Keeps.refl _ | (intro e; cases e; done)
    | (intro e; injection e with e; injection e with _ e; subst e) | (intro e; injection e with e; subst e)
    | apply keeps_chSet | refine keeps_fieldWhen (by assumption) ?_ ?_ | split | dsimp only | intro _

theorem keeps_execLoadShed {z s s2 : State}  (e : execLoadShed s = .next s2) (hK : Keeps z s) :
    Keeps z s2 := by
  unfold execLoadShed at e
  revert e
  with_reducible repeat' first
    | assumption | exact Keeps.refl _ | (intro e; cases e; done)
    | (intro e; injection e with e; injection e with _ e; subst e) | (intro e; injection e with e; subst e)
    | apply keeps_chSet | refine keeps_fieldWhen (by assumption) ?_ ?_ | split | dsimp only | intro _

theorem keeps_execMismatch {z s s2 : State} {u : Fin 64} (e : execMismatch u s = .next s2) (hK : Keeps z s) :
    Keeps z s2 := by
  unfold execMismatch at e
  revert e
  with_reducible repeat' first
    | assumption | exact Keeps.refl _ | (intro e; cases e; done)
    | (intro e; injection e with e; injection e with _ e; subst e) | (intro e; injection e with e; subst e)
    | apply keeps_chSet | refine keeps_fieldWhen (by assumption) ?_ ?_ | split | dsimp only | intro _

theorem keeps_execOpenLoad {z s s2 : State} {u : Fin 64} (e : execOpenLoad u s = .next s2) (hK : Keeps z s) :
    Keeps z s2 := by
  unfold execOpenLoad at e
  revert e
  with_reducible repeat' first
    | assumption | exact Keeps.refl _ | (intro e; cases e; done)
    | (intro e; injection e with e; injection e with _ e; subst e) | (intro e; injection e with e; subst e)
    | apply keeps_chSet | refine keeps_fieldWhen (by assumption) ?_ ?_ | split | dsimp only | intro _

theorem keeps_execOpenLoadClear {z s s2 : State} {u : Fin 64} (e : execOpenLoadClear u s = .next s2) (hK : Keeps z s) :
    Keeps z s2 := by
  unfold execOpenLoadClear at e
  revert e
  with_reducible repeat' first
    | assumption | exact Keeps.refl _ | (intro e; cases e; done)
    | (intro e; injection e with e; injection e with _ e; subst e) | (intro e; injection e with e; subst e)
    | apply keeps_chSet | refine keeps_fieldWhen (by assumption) ?_ ?_ | split | dsimp only | intro _

theorem keeps_execDriverFault {z s s2 : State} {h : Fin 8} {drvB : Bool} (e : execDriverFault h drvB s = .next s2) (hK : Keeps z s) :
    Keeps z s2 := by
  unfold execDriverFault at e
  revert e
  with_reducible repeat' first
    | assumption | exact Keeps.refl _ | (intro e; cases e; done)
    | (intro e; injection e with e; injection e with _ e; subst e) | (intro e; injection e with e; subst e)
    | apply keeps_driverFail | refine keeps_fieldWhen (by assumption) ?_ ?_ | split | dsimp only | intro _

theorem keeps_execHwchSwitchDone {z s s2 : State} {h : Fin 8} (e : execHwchSwitchDone h s = .next s2) (hK : Keeps z s) :
    Keeps z s2 := by
  unfold execHwchSwitchDone at e
  revert e
  with_reducible repeat' first
    | assumption | exact Keeps.refl _ | (intro e; cases e; done)
    | (intro e; injection e with e; injection e with _ e; subst e) | (intro e; injection e with e; subst e)
    | refine keeps_fieldWhen (by assumption) ?_ ?_ | apply keeps_switchEnd | split | dsimp only | intro _

theorem keeps_execStandbyTest {z s s2 : State} {h : Fin 8} {ok : Bool} (e : execStandbyTest h ok s = .next s2) (hK : Keeps z s) :
    Keeps z s2 := by
  unfold execStandbyTest at e
  revert e
  with_reducible repeat' first
    | assumption | exact Keeps.refl _ | (intro e; cases e; done)
    | (intro e; injection e with e; injection e with _ e; subst e) | (intro e; injection e with e; subst e)
    | apply keeps_driverFail | refine keeps_fieldWhen (by assumption) ?_ ?_ | split | dsimp only | intro _

theorem keeps_execTriggerPeriod {z s s2 : State} {t : Fin 16} (e : execTriggerPeriod t s = .next s2) (hK : Keeps z s) :
    Keeps z s2 := by
  unfold execTriggerPeriod at e
  revert e
  with_reducible repeat' first
    | assumption | exact Keeps.refl _ | (intro e; cases e; done)
    | (intro e; injection e with e; injection e with _ e; subst e) | (intro e; injection e with e; subst e)
    | refine keeps_fieldWhen (by assumption) ?_ ?_ | apply keeps_trigStart | split | dsimp only | intro _

theorem keeps_execConversionStart {z s s2 : State} {x t : Fin 16} (e : execConversionStart x t s = .next s2) (hK : Keeps z s) :
    Keeps z s2 := by
  unfold execConversionStart at e
  revert e
  with_reducible repeat' first
    | assumption | exact Keeps.refl _ | (intro e; cases e; done)
    | (intro e; injection e with e; injection e with _ e; subst e) | (intro e; injection e with e; subst e)
    | apply keeps_convStart | refine keeps_fieldWhen (by assumption) ?_ ?_ | split | dsimp only | intro _

theorem keeps_execConversionDone {z s s2 : State} {x : Fin 16} {code : BitVec 18} {mid : Payload} (e : execConversionDone x code mid s = .next s2) (hK : Keeps z s) :
    Keeps z s2 := by
  unfold execConversionDone at e
  revert e
  with_reducible repeat' first
    | assumption | exact Keeps.refl _ | (intro e; cases e; done)
    | (intro e; injection e with e; injection e with _ e; subst e) | (intro e; injection e with e; subst e)
    | apply keeps_convDo | refine keeps_fieldWhen (by assumption) ?_ ?_ | split | dsimp only | intro _

theorem keeps_execFsWatchdog {z s s2 : State}  (e : execFsWatchdog s = .next s2) (hK : Keeps z s) :
    Keeps z s2 := by
  unfold execFsWatchdog at e
  revert e
  with_reducible repeat' first
    | assumption | exact Keeps.refl _ | (intro e; cases e; done)
    | (intro e; injection e with e; injection e with _ e; subst e) | (intro e; injection e with e; subst e)
    | apply keeps_bypassShut | apply keeps_dfUnpair | refine keeps_fieldWhen (by assumption) ?_ ?_
    | apply keeps_modField | apply keeps_safeAll | (apply legal_mk; assumption) | split | dsimp only | apply keeps_mk
    | apply legal_mk | intro _

theorem keeps_execFieldSupplyUp {z s s2 : State}  (e : execFieldSupplyUp s = .next s2) (hK : Keeps z s) :
    Keeps z s2 := by
  unfold execFieldSupplyUp at e
  revert e
  with_reducible repeat' first
    | assumption | exact Keeps.refl _ | (intro e; cases e; done)
    | (intro e; injection e with e; injection e with _ e; subst e) | (intro e; injection e with e; subst e)
    | refine keeps_ite (fun _ => ?_) (fun _ => ?_) | apply keeps_fldSetF | apply keeps_modField
    | apply keeps_supReport | (apply legal_mk; assumption) | split | dsimp only | apply keeps_mk | apply legal_mk
    | intro _

theorem keeps_execFieldSupplyLoss {z s s2 : State}  (e : execFieldSupplyLoss s = .next s2) (hK : Keeps z s) :
    Keeps z s2 := by
  unfold execFieldSupplyLoss at e
  revert e
  with_reducible repeat' first
    | assumption | exact Keeps.refl _ | (intro e; cases e; done)
    | (intro e; injection e with e; injection e with _ e; subst e) | (intro e; injection e with e; subst e)
    | apply keeps_fieldReset | split | dsimp only | intro _

theorem keeps_execSupplyUvEnter {z s s2 : State} {v : BitVec 16} (e : execSupplyUvEnter v s = .next s2) (hK : Keeps z s) :
    Keeps z s2 := by
  unfold execSupplyUvEnter at e
  revert e
  with_reducible repeat' first
    | assumption | exact Keeps.refl _ | (intro e; cases e; done)
    | (intro e; injection e with e; injection e with _ e; subst e) | (intro e; injection e with e; subst e)
    | apply keeps_bypassShut | apply keeps_dfFault | refine keeps_fieldWhen (by assumption) ?_ ?_
    | apply keeps_fldSetF | apply keeps_safeAll | apply keeps_supReport | split | dsimp only | intro _

theorem keeps_execSupplyUvExit {z s s2 : State} {v : BitVec 16} (e : execSupplyUvExit v s = .next s2) (hK : Keeps z s) :
    Keeps z s2 := by
  unfold execSupplyUvExit at e
  revert e
  with_reducible repeat' first
    | assumption | exact Keeps.refl _ | (intro e; cases e; done)
    | (intro e; injection e with e; injection e with _ e; subst e) | (intro e; injection e with e; subst e)
    | refine keeps_fieldWhen (by assumption) ?_ ?_ | apply keeps_fldSetF | apply keeps_supReport | split | dsimp only
    | intro _

theorem keeps_execSupplyOv {z s s2 : State} {v : BitVec 16} (e : execSupplyOv v s = .next s2) (hK : Keeps z s) :
    Keeps z s2 := by
  unfold execSupplyOv at e
  revert e
  with_reducible repeat' first
    | assumption | exact Keeps.refl _ | (intro e; cases e; done)
    | (intro e; injection e with e; injection e with _ e; subst e) | (intro e; injection e with e; subst e)
    | refine keeps_fieldWhen (by assumption) ?_ ?_ | apply keeps_fldSetF | apply keeps_supReport | split | dsimp only
    | intro _

theorem keeps_execOvlongEnter {z s s2 : State}  (e : execOvlongEnter s = .next s2) (hK : Keeps z s) :
    Keeps z s2 := by
  unfold execOvlongEnter at e
  revert e
  with_reducible repeat' first
    | assumption | exact Keeps.refl _ | (intro e; cases e; done)
    | (intro e; injection e with e; injection e with _ e; subst e) | (intro e; injection e with e; subst e)
    | apply keeps_dfFault | refine keeps_fieldWhen (by assumption) ?_ ?_ | apply keeps_fldSetF | apply keeps_safeAll
    | apply keeps_supReport | split | dsimp only | intro _

theorem keeps_execOvlongExit {z s s2 : State} {v : BitVec 16} (e : execOvlongExit v s = .next s2) (hK : Keeps z s) :
    Keeps z s2 := by
  unfold execOvlongExit at e
  revert e
  with_reducible repeat' first
    | assumption | exact Keeps.refl _ | (intro e; cases e; done)
    | (intro e; injection e with e; injection e with _ e; subst e) | (intro e; injection e with e; subst e)
    | refine keeps_fieldWhen (by assumption) ?_ ?_ | apply keeps_fldSetF | apply keeps_supReport | split | dsimp only
    | intro _

theorem keeps_execSupplyUvw {z s s2 : State} {v : BitVec 16} (e : execSupplyUvw v s = .next s2) (hK : Keeps z s) :
    Keeps z s2 := by
  unfold execSupplyUvw at e
  revert e
  with_reducible repeat' first
    | assumption | exact Keeps.refl _ | (intro e; cases e; done)
    | (intro e; injection e with e; injection e with _ e; subst e) | (intro e; injection e with e; subst e)
    | refine keeps_fieldWhen (by assumption) ?_ ?_ | apply keeps_supReport | split | dsimp only | intro _

theorem keeps_execFrstN {z s s2 : State}  (e : execFrstN s = .next s2) (hK : Keeps z s) :
    Keeps z s2 := by
  unfold execFrstN at e
  revert e
  with_reducible repeat' first
    | assumption | exact Keeps.refl _ | (intro e; cases e; done)
    | (intro e; injection e with e; injection e with _ e; subst e) | (intro e; injection e with e; subst e)
    | apply keeps_fieldReset | split | dsimp only | intro _

theorem keeps_execFieldSelfTestDone {z s s2 : State} {u : FieldUnit} {pass : Bool} (e : execFieldSelfTestDone u pass s = .next s2) (hK : Keeps z s) :
    Keeps z s2 := by
  unfold execFieldSelfTestDone at e
  revert e
  with_reducible repeat' first
    | assumption | exact Keeps.refl _ | (intro e; cases e; done)
    | (intro e; injection e with e; injection e with _ e; subst e) | (intro e; injection e with e; subst e)
    | refine keeps_ite (fun _ => ?_) (fun _ => ?_) | apply keeps_dfFault | apply keeps_dfStatus
    | refine keeps_fieldWhen (by assumption) ?_ ?_ | apply keeps_fldSetF | apply keeps_modField | apply keeps_bump
    | (apply legal_mk; assumption) | split | dsimp only | apply keeps_mk | apply legal_mk | intro _

theorem keeps_execFieldTamper {z s s2 : State} {k : FieldCause} (e : execFieldTamper k s = .next s2) (hK : Keeps z s) :
    Keeps z s2 := by
  unfold execFieldTamper at e
  revert e
  with_reducible repeat' first
    | assumption | exact Keeps.refl _ | (intro e; cases e; done)
    | (intro e; injection e with e; injection e with _ e; subst e) | (intro e; injection e with e; subst e)
    | apply keeps_bypassShut | apply keeps_dfUnpair | refine keeps_fieldWhen (by assumption) ?_ ?_
    | apply keeps_fldSetF | apply keeps_safeAll | split | dsimp only | intro _

theorem keeps_execFieldTemperatureWarning {z s s2 : State}  (e : execFieldTemperatureWarning s = .next s2) (hK : Keeps z s) :
    Keeps z s2 := by
  unfold execFieldTemperatureWarning at e
  revert e
  with_reducible repeat' first
    | assumption | exact Keeps.refl _ | (intro e; cases e; done)
    | (intro e; injection e with e; injection e with _ e; subst e) | (intro e; injection e with e; subst e)
    | apply keeps_dfStatus | refine keeps_fieldWhen (by assumption) ?_ ?_ | apply keeps_fldSetF | split | dsimp only
    | intro _

theorem keeps_execOtpProvisioning {z s s2 : State} {a : Nat} {w : BitVec 64} (e : execOtpProvisioning a w s = .next s2) (hK : Keeps z s) :
    Keeps z s2 := by
  unfold execOtpProvisioning at e
  revert e
  with_reducible repeat' first
    | assumption | exact Keeps.refl _ | (intro e; cases e; done)
    | (intro e; injection e with e; injection e with _ e; subst e) | (intro e; injection e with e; subst e)
    | refine keeps_ite (fun _ => ?_) (fun _ => ?_) | apply keeps_modField | (apply legal_mk; assumption) | split
    | dsimp only | apply keeps_mk | apply legal_mk | intro _

theorem keeps_sqtWrite {z : State} {s : State} (q o v : Nat) (hK : Keeps z s) :
    Keeps z (sqtWrite s q o v) := by
  unfold sqtWrite
  with_reducible repeat' first
    | assumption | exact Keeps.refl _ | intro _ | refine keeps_ite (fun _ => ?_) (fun _ => ?_) | apply keeps_barDrop
    | apply keeps_barSetF | apply keeps_sqDisableDo | apply keeps_sqEnableDo | apply keeps_barPut | split
    | dsimp only

theorem keeps_cqtWrite {z : State} {s : State} (r o v : Nat) (hK : Keeps z s) :
    Keeps z (cqtWrite s r o v) := by
  unfold cqtWrite
  with_reducible repeat' first
    | assumption | exact Keeps.refl _ | intro _ | refine keeps_ite (fun _ => ?_) (fun _ => ?_) | apply keeps_barDrop
    | apply keeps_cqDisableDo | apply keeps_cqEnableDo | apply keeps_barPut | split | dsimp only

theorem keeps_hwinWrite {z : State} {s : State} (w o v : Nat) (hK : Keeps z s) :
    Keeps z (hwinWrite s w o v) := by
  unfold hwinWrite
  with_reducible repeat' first
    | assumption | exact Keeps.refl _ | intro _ | refine keeps_ite (fun _ => ?_) (fun _ => ?_) | apply keeps_barDrop
    | apply keeps_barPut | split | dsimp only

theorem keeps_lringBad {z : State} {s : State}  (hK : Keeps z s) :
    Keeps z (lringBad s) := by
  unfold lringBad
  with_reducible repeat' first
    | assumption | exact Keeps.refl _ | intro _ | apply keeps_barSetB | split | dsimp only

theorem keeps_lringWrite {z : State} {s : State} (o v : Nat) (hK : Keeps z s) :
    Keeps z (lringWrite s o v) := by
  unfold lringWrite
  with_reducible repeat' first
    | assumption | exact Keeps.refl _ | intro _ | refine keeps_ite (fun _ => ?_) (fun _ => ?_) | apply keeps_barDrop
    | apply keeps_lringBad | apply keeps_lringHeadDo | apply keeps_barPut | split | dsimp only

theorem keeps_msixWrite {z : State} {s : State} (n o v : Nat) (hK : Keeps z s) :
    Keeps z (msixWrite s n o v) := by
  unfold msixWrite
  with_reducible repeat' first
    | assumption | exact Keeps.refl _ | intro _ | refine keeps_ite (fun _ => ?_) (fun _ => ?_)
    | apply keeps_msixFlush | apply keeps_barPut | split | dsimp only

theorem keeps_bar0Write {z : State} {s : State} (o v : Nat) (hK : Keeps z s) :
    Keeps z (bar0Write s o v) := by
  unfold bar0Write
  with_reducible repeat' first
    | assumption | exact Keeps.refl _ | intro _ | refine keeps_ite (fun _ => ?_) (fun _ => ?_) | apply keeps_barDrop
    | apply keeps_cqtWrite | apply keeps_dmWrite | apply keeps_elcfgWrite | apply keeps_hwinWrite
    | apply keeps_lringWrite | apply keeps_modeRequestDo | apply keeps_msixWrite | apply keeps_sqtWrite | split
    | dsimp only

theorem keeps_execHostRegisterWrite {z s s2 : State} {off : BitVec 16} {v : BitVec 64} (e : execHostRegisterWrite off v s = .next s2) (hK : Keeps z s) :
    Keeps z s2 := by
  unfold execHostRegisterWrite at e
  revert e
  with_reducible repeat' first
    | assumption | exact Keeps.refl _ | (intro e; cases e; done)
    | (intro e; injection e with e; injection e with _ e; subst e) | (intro e; injection e with e; subst e)
    | apply keeps_bar0Write | apply keeps_hostActive | split | dsimp only | intro _

end Sys2Proof.Machine
end

