-- ==== Sys2Proof/Tests/Slice0.lean ====
section
/-! SUPPORT. The model's own tests: the commands that cannot be sent, a few commands against the manual's own numbers, and
for the statements of Certificates/Slice0 states and operands that meet their hypotheses. -/

namespace Sys2Proof.Tests

open Sys2Proof Sys2Proof.Machine

/-! Each proof waits for the kernel to have checked what stands before it, so one at a time. -/
set_option Elab.async false

/-! ## Small states -/

/-- The state after reset with core 0 being `k`. -/
def one (k : Core) : State := setCore State.reset 0 k
/-- A core at the first writable line with some registers written. -/
def regsK (ws : List (Nat × Word)) : Core := putAll { Core.reset with mpc := 0x20000#20 } ws
/-- That core in the state after reset. -/
def regs (ws : List (Nat × Word)) : State := one (regsK ws)
/-- A state with some I/O registers written. -/
def ios (s : State) (l : List (Nat × Word)) : State := l.foldl (fun s p => ioPut s p.1 p.2) s
/-- A state with some field registers written. -/
def flds (s : State) (l : List (Nat × Nat)) : State := l.foldl (fun s p => fldPut s p.1 (natW p.2)) s
/-- A syllable that ends its microword. -/
def syl (d a b m : Nat) : Syl := ⟨true, none, BitVec.ofNat 5 d, BitVec.ofNat 5 a, BitVec.ofNat 5 b, BitVec.ofNat 15 m⟩
/-- What holds of the next state. -/
def gives (o : Host.Outcome State Fault Refusal) (p : State → Bool) : Bool :=
  match o with
  | .next t => p t
  | _ => false

/-- The invariant, decided. -/
def invB (s : State) : Bool :=
  Memory.wf s.mem && tabWf ioReset none s.io && tabWf fldReset none s.fld && tabWf barReset none s.bar &&
  tabWf (fun _ => 0#40) none s.cs && tabWf (fun _ => 0#72) none s.tb && tabWf (fun _ => Core.reset) none s.cores &&
  s.cores.all fun p => decide (p.2.ring < 4) && decide (p.2.cur < 16)

theorem legal_get (t : Tab Core) (h : t.all (fun p => decide (p.2.ring < 4) && decide (p.2.cur < 16)) = true) (c : Nat) :
    coreLegal (tabGet Core.reset t c) := by
  induction t with
  | nil => exact (show Core.reset.ring < 4 ∧ Core.reset.cur < 16 by decide)
  | cons p t ih =>
    obtain ⟨j, v⟩ := p
    simp only [List.all_cons, Bool.and_eq_true, decide_eq_true_eq] at h
    unfold tabGet
    split
    · exact h.1
    · exact ih h.2

theorem inv_of {s : State} (h : invB s = true) : Inv s := by
  simp only [invB, Bool.and_eq_true] at h
  obtain ⟨⟨⟨⟨⟨⟨⟨h1, h2⟩, h3⟩, h4⟩, h5⟩, h6⟩, h7⟩, h8⟩ := h
  exact ⟨h1, h2, h3, h4, h5, h6, h7, fun c => legal_get s.cores h8 c⟩

/-- What the syllable's shape and the state must give for it to be sent alone, decided. -/
def soleB (s : State) (i : Instr) (h : Shape) (y : Syl) : Bool :=
  let k := coreOf s 0
  i.wellFormed && (h.cls != 0 || h.op != 0 || y.m != 0x7FFF#15) && coreRuns s 0 && decide (k.wait = .none) &&
  decide (k.mw = []) && k.slots == 0 && !k.haltReq && !mQT k.mstat && y.stop && decide (k.mpc.toNat % 8 + slotsOf y ≤ 8) &&
  !lineAbsent (lineOf k.mpc) && !s.csBad.contains (redirectOf s (lineOf k.mpc)) &&
  !s.csSoft.contains (redirectOf s (lineOf k.mpc)) && !innerLine s k.ring k.mpc && !unnamed h y && !extMisuse h y &&
  !extFar h y && !innerLine s k.ring (skipPad s (flowPlace (gather i y k))) &&
  (h.cls != 0 || h.op == 0 || !noSeq k)
/-- `Ready` on core 0, decided. -/
def readyB (s : State) (i : Instr) (y : Syl) : Bool :=
  invB s && match sylOf i with
  | none => false
  | some (h, y') => decide (y' = y) && soleB s i h y

theorem ready_of {s : State} {i : Instr} {y : Syl} (hb : readyB s i y = true) : Ready s 0 i y := by
  unfold readyB at hb
  rw [Bool.and_eq_true] at hb
  refine ⟨inv_of hb.1, ?_⟩
  have hb := hb.2
  split at hb
  · cases hb
  · next h y' e =>
    simp only [soleB, Bool.and_eq_true, decide_eq_true_eq, Bool.not_eq_true', beq_iff_eq, Bool.or_eq_true, bne_iff_ne] at hb
    obtain ⟨rfl, hb⟩ := hb
    obtain ⟨⟨⟨⟨⟨⟨⟨⟨⟨⟨⟨⟨⟨⟨⟨⟨⟨⟨h1, h2⟩, h3⟩, h4⟩, h5⟩, h6⟩, h7⟩, h8⟩, h9⟩, h10⟩, h11⟩, h12⟩, h13⟩, h14⟩, h15⟩, h16⟩, h17⟩, h18⟩, h19⟩ := hb
    refine ⟨h1, h, e, fun a b => ?_, ⟨h3, h4, h5, h6, h7, h8, h9, h10, h11, h12, h13, h14, h15, h16, h17, h18, ?_⟩⟩
    · rcases h2 with (h2 | h2) | h2
      · exact absurd a h2
      · exact absurd b h2
      · exact h2
    · rcases h19 with (h19 | h19) | h19
      · exact .inl h19
      · exact .inr (.inl h19)
      · exact .inr (.inr h19)

/-! ## Commands that cannot be sent -/

/-- Is the command refused by the check, and does it stop as ill formed? -/
def ill (i : Instr) : Bool :=
  !i.wellFormed && match exec i State.reset with
  | .fault .illFormed => true
  | _ => false

theorem test_ill_sev : ill (.sevCores 0 (syl 0 1 0 0x1000)) = true ∧ ill (.sevHubSource 0 (syl 0 0 0 0x0280)) = true ∧
    ill (.sevJigGroup 0 (syl 0 0 0 0x1000)) = true ∧ ill (.sevFieldTrigger 0 (syl 0 0 0 0x4000)) = true := by decide
theorem test_ill_pin : ill (.pin 0 (syl 1 2 0 0x101)) = true ∧ ill (.unpin 0 (syl 1 2 0 0x001)) = true ∧
    ill (.pbar 0 (syl 0 0 0 0x100)) = true ∧ ill (.pbarClear 0 (syl 0 0 0 0x001)) = true := by decide
theorem test_ill_ciph : ill (.ciphKeyWrap 0 (syl 1 2 3 1)) = true ∧ ill (.ciphKeyUnwrap 0 (syl 1 2 3 0)) = true ∧
    ill (.ciphCbcEncrypt 0 (syl 1 2 3 3)) = true ∧ ill (.ciphCbcDecrypt 0 (syl 1 2 3 2)) = true ∧
    ill (.ciphCtr 0 (syl 1 2 3 5)) = true ∧ ill (.ciphGcmEncrypt 0 (syl 1 2 3 6)) = true ∧
    ill (.ciphGcmDecrypt 0 (syl 1 2 3 5)) = true ∧ ill (.ciphCcmEncrypt 0 (syl 1 2 3 8)) = true ∧
    ill (.ciphCcmDecrypt 0 (syl 1 2 3 7)) = true ∧ ill (.ciphCmacGenerate 0 (syl 1 2 3 10)) = true ∧
    ill (.ciphCmacVerify 0 (syl 1 2 3 11)) = true := by decide
theorem test_ill_done : ill (.cipherDone 32 0) = true ∧ ill (.cipherDone 0 6) = true := by decide
theorem test_ill_entry : ill (.fetchComplete 0 [[0#64]]) = true := by decide
theorem test_ill_chunk : ill (.portTxFirst 0 []) = true ∧ ill (.portTxLater 0 []) = true ∧ ill (.portRxFirst 0 []) = true ∧
    ill (.portRxLater 0 (List.replicate 11 0#8)) = true := by decide

/-! ## The manual's own numbers -/

/-- R49 to R52, the worked example of chapter 2: sext of a MEAS of 24 V gives its value, of EMPTY a POISON under PSN. -/
theorem test_sext : gives (exec (.sext 0 (syl 16 8 0 31)) (regs [(8, BitVec.ofNat 40 0x71016E3600)]))
      (fun t => regRead (coreOf t 0) 16 == mkW .int 24000000) = true ∧
    gives (exec (.sext 0 (syl 18 18 0 31)) (one { regsK [] with mstat := 1#36 }))
      (fun t => regRead (coreOf t 0) 18 == mkW .poison (0x20000 * 0x10000 + 0x101)) = true := by decide +kernel
/-- The same example: tagof of a POISON gives NAT:14. -/
theorem test_tagof : gives (exec (.tagof 0 (syl 28 26 0 0)) (regs [(26, mkW .poison 0x101)]))
    (fun t => regRead (coreOf t 0) 28 == natW 14) = true := by decide +kernel
/-- R137, the worked example of chapter 4: the unit code goes to [35:32] of a BITS word, and retag makes MEAS of it. -/
theorem test_retag : gives (exec (.retag 0 (syl 24 20 0 7)) (regs [(20, bitsW 0x90036EE80)]))
    (fun t => regRead (coreOf t 0) 24 == BitVec.ofNat 40 0x790036EE80) = true := by decide +kernel
/-- R81, the worked example of chapter 3: bnz at 0x4102/3 with M = 0x7FF0 goes to 0x4100/0. -/
theorem test_bnz : gives (exec (.bnz 0 (syl 0 19 0 0x7FF0)) (one { regsK [(19, natW 1)] with mpc := BitVec.ofNat 20 (8 * 0x4102 + 3) }))
    (fun t => (coreOf t 0).mpc == BitVec.ofNat 20 (8 * 0x4100)) = true := by decide +kernel
/-- Bank `n` made accessible. -/
def opened (n : Nat) (s : State) : State := ioSetF s (aBANKOWN n) 32 3 0
/-- R148, R154, the worked example of chapter 5: `st [o1+l2+4], l0` stores to 0x120104. -/
theorem test_st : gives (exec (.st 0 (syl 16 25 18 4))
      (opened 18 (regs [(16, natW 7), (25, mkW .addrD 0x120104), (18, mkW .int (2 ^ 36 - 4))])))
    (fun t => (coreOf t 0).storeBuf == [{ marker := false, words := [(0x120104, natW 7)] }]) = true := by decide +kernel
/-- R148, the same example: with EXT 0xFFFB and M = 3 the ld4 begins at the last word but four of bank 18. -/
theorem test_ld4 : groupOf (soleCtx (regs [(8, mkW .addrD 0x120000)]) 0 (.ld4 0 { syl 20 8 0 3 with ext := some 0xFFFB#36 })
      { syl 20 8 0 3 with ext := some 0xFFFB#36 }) 4 = some [0x12FFFE, 0x12FFFF, 0x130000, 0x130001] := by decide +kernel
/-- R146: SHORT16 0 minus 1 is 0xFFFF; C16 has N and C set (borrow), Z and V clear, in mstat.C16. -/
theorem test_sub16 : gives (exec (.subS 0 (syl 3 1 2 0))
      (one { regsK [(1, mkW .short16 0), (2, mkW .short16 1)] with mstat := 4#36 }))
    (fun t => regRead (coreOf t 0) 3 == mkW .short16 0xFFFF) = true := by decide +kernel
/-- R539 to R541, the worked example of chapter 18: a hole of the SV block reads NAT:0. -/
theorem test_hole : gives (exec (.inIo 0 (syl 16 8 0 0)) (regs [(8, mkW .addrIO 0x000030)]))
    (fun t => regRead (coreOf t 0) 16 == natW 0) = true := by decide +kernel
/-- R308, the worked example of chapter 9: the half-range rule across the wrap, on unit 5 armed with a compare time of 0x00010 at
the time 0xFFFFFFFF0, which is before it, and at the time 0x20, which is after it. -/
def armed (time : Nat) : State :=
  tbPut (ios State.reset [(aCMPVAL 5, natW 0x10), (aCMPCTL 5, bitsW 4)]) 0 time
theorem test_half_range : cmpReached (armed 0xFFFFFFFF0) 5 = false ∧ cmpReached (armed 0x20) 5 = true := by decide +kernel

/-- The state after reset with the field die out of reset and jig 0 being `g`, with some field registers written. -/
def jig (g : Jig) (l : List (Nat × Nat)) : State :=
  flds (setJig (modField State.reset fun f => { f with up := true }) 0 g) l
/-- Jig 0 running at address `a`, where the instruction `i` stands. -/
def jigAt (g : Jig) (a i : Nat) : State := jig { g with run := true, pc := a } [(fJSTORE 0 a, i)]

/-- R350, the worked example of chapter 11: the BR at address 5 goes to 25 when P0 is low. -/
theorem test_jig_br : gives (exec (.jigBr 0 0) (jigAt Jig.reset 5 0x00C920))
    (fun t => (jigOf t 0).pc == 25 && (jigOf t 0).run) = true := by decide +kernel
/-- R353, R354, the same example: the SWAP OUT at 17 with ALIGN 2 pushes the byte that came LSB first. -/
theorem test_jig_swap : gives (exec (.jigSwapOut 0)
      (jigAt { Jig.reset with shifter := BitVec.ofNat 40 (0x41 * 2 ^ 32), fill := 8, lord := true } 17 0x304000))
    (fun t => (jigOf t 0).up == [BitVec.ofNat 40 0x3000000041] && (jigOf t 0).shifter == 0#40 && (jigOf t 0).fill == 0) = true := by
  decide +kernel
/-- R352, the same example: the SHIFT at 3 waits for its 8 ticks, and a bit in comes at bit 39. -/
theorem test_jig_shift : gives (exec (.jigShift 0 0) (jigAt Jig.reset 3 0x2003C8))
      (fun t => (jigOf t 0).stall && (jigOf t 0).left == 8 && (jigOf t 0).lord) = true ∧
    (shiftJig { Jig.reset with left := 8 } 0x2003C8 true).1.shifter = BitVec.ofNat 40 (2 ^ 39) := by decide +kernel

/-! ## Witnesses: syllables -/

/-- `Steady`, decided. -/
def steadyB (k : Core) : Bool :=
  decide (k.shadow = []) && decide (k.rearm = none) && decide (k.delay = none) && k.repc == 0 && k.lcnt == 0 && !k.stepReq &&
  decide (k.modeNew = none)
theorem steady_of {k : Core} (h : steadyB k = true) : Steady k := by
  simp only [steadyB, Bool.and_eq_true, decide_eq_true_eq, beq_iff_eq, Bool.not_eq_true'] at h
  obtain ⟨⟨⟨⟨⟨⟨h1, h2⟩, h3⟩, h4⟩, h5⟩, h6⟩, h7⟩ := h
  exact ⟨h1, h2, h3, h4, h5, h6, h7⟩

/-- Two NAT operands. -/
def nats : List (Nat × Word) := [(1, natW 7), (2, natW 5)]
/-- An INT operand. -/
def ints : List (Nat × Word) := [(1, mkW .int (2 ^ 36 - 7)), (2, mkW .int 5)]
/-- For each of `wordSyllables` in turn, registers and a syllable that its table accepts: D is 3, a is 1, b is 2. -/
def wordOperands : List (List (Nat × Word) × Syl) :=
  List.replicate 10 (nats, syl 3 1 2 0) ++
  [(nats, syl 3 1 0 0), (nats, syl 3 1 0 0), ([], syl 3 0 0 0x7FFF)] ++ List.replicate 10 (nats, syl 3 1 2 0) ++
  [(ints, syl 3 1 0 0), (ints, syl 3 1 0 0), ((4, boolW true) :: nats, syl 3 1 2 4), (nats, syl 3 1 0 0),
   (nats, syl 3 1 0 2), (nats, syl 3 1 2 0), (nats, syl 3 1 0 0x7F), (ints, syl 3 1 0 0x44),
   (nats, syl 3 1 0 0x40), ([(1, natW 7), (2, natW 63)], syl 3 1 2 0), (nats, syl 3 1 0 (64 * 35)), (nats, syl 3 1 2 (35 + 64 * 0)),
   (nats, syl 3 1 0 0), (nats, syl 3 1 0 0), (nats, syl 3 1 0 0), (nats, syl 3 1 0 0), (nats, syl 3 1 0 35),
   ([(1, mkW .short16 7), (2, mkW .short16 5)], syl 3 1 2 0), (nats, syl 3 1 0 1)]

theorem witness_WordSyllablesRetire : wordOperands.length = wordSyllables.length ∧
    ∀ p ∈ wordSyllables.zip wordOperands, Ready (regs p.2.1) 0 (p.1 0 p.2.2) p.2.2 ∧
      (wordRule (p.1 0 p.2.2) (soleCtx (regs p.2.1) 0 (p.1 0 p.2.2) p.2.2)).isSome = true ∧
      Steady (coreOf (regs p.2.1) 0) := by
  have h : ∀ p ∈ wordSyllables.zip wordOperands, readyB (regs p.2.1) (p.1 0 p.2.2) p.2.2 = true ∧
      (wordRule (p.1 0 p.2.2) (soleCtx (regs p.2.1) 0 (p.1 0 p.2.2) p.2.2)).isSome = true ∧
      steadyB (coreOf (regs p.2.1) 0) = true := by decide +kernel
  exact ⟨by decide, fun p m => ⟨ready_of (h p m).1, (h p m).2.1, steady_of (h p m).2.2⟩⟩

/-- For each of `lngSyllables` in turn, registers and a syllable that its table accepts. -/
def lngOperands : List (List (Nat × Word) × Syl) :=
  [(nats, syl 3 1 2 0), (nats, syl 3 1 2 0), (nats, syl 6 1 2 0), ([(3, natW 1), (4, mkW .wide 0)] ++ nats, syl 3 1 2 0),
   (ints, syl 3 1 2 0), (nats, syl 3 1 2 0), (ints, syl 3 1 2 0), (nats, syl 3 1 2 0), (nats, syl 3 1 2 0),
   (nats, syl 3 1 0 0), (nats, syl 3 1 0 0)]

theorem witness_LngSyllables : lngOperands.length = lngSyllables.length ∧
    ∀ p ∈ lngSyllables.zip lngOperands, Ready (regs p.2.1) 0 (p.1.1 0 p.2.2) p.2.2 ∧
      (lngRule (p.1.1 0 p.2.2) (soleCtx (regs p.2.1) 0 (p.1.1 0 p.2.2) p.2.2)).isSome = true ∧
      (coreOf (regs p.2.1) 0).lngDone = false ∧ Steady (coreOf (regs p.2.1) 0) ∧
      (sylOf (p.1.1 0 p.2.2)).isSome = true := by
  have h : ∀ p ∈ lngSyllables.zip lngOperands, readyB (regs p.2.1) (p.1.1 0 p.2.2) p.2.2 = true ∧
      (lngRule (p.1.1 0 p.2.2) (soleCtx (regs p.2.1) 0 (p.1.1 0 p.2.2) p.2.2)).isSome = true ∧
      (coreOf (regs p.2.1) 0).lngDone = false ∧ steadyB (coreOf (regs p.2.1) 0) = true ∧
      (sylOf (p.1.1 0 p.2.2)).isSome = true := by decide +kernel
  exact ⟨by decide, fun p m => ⟨ready_of (h p m).1, (h p m).2.1, (h p m).2.2.1, steady_of (h p m).2.2.2.1, (h p m).2.2.2.2⟩⟩

theorem witness_RetirementOfOneSyllable : ∃ (s u : State) (c : CoreId) (i : Instr) (y : Syl) (k : Core) (a : Acc),
    Inv s ∧ Inv u ∧ Steady k ∧ k.mw = [] ∧ k.slots = 0 ∧ k.wait = .none ∧ k.mpc = (coreOf s c.val).mpc ∧
    k.cur = (coreOf s c.val).cur ∧ a.st = setCore u c.val (gather i y k) ∧
    (a.xfer = none ∨ mCMP (coreOf s c.val).mstat = false) ∧
    a.trapN = none ∧ a.rep = none ∧ a.loop = none ∧ a.after = id ∧ a.writes ≠ [] :=
  ⟨regs nats, regs nats, 0, .addS 0 (syl 3 1 2 0), syl 3 1 2 0, regsK nats,
    (Acc.start (setCore (regs nats) 0 (gather (.addS 0 (syl 3 1 2 0)) (syl 3 1 2 0) (regsK nats)))).put 3 (natW 12),
    inv_of (by decide +kernel), inv_of (by decide +kernel), steady_of (by decide +kernel), by decide +kernel,
    by decide +kernel, by decide +kernel, by decide +kernel, by decide +kernel, rfl, .inl rfl, rfl, rfl, rfl, rfl,
    by decide +kernel⟩

/-- The pair with a POISON in a, and in b. -/
def poisons : List (List (Nat × Word) × Word) :=
  [([(1, mkW .poison 0x101), (2, natW 5)], mkW .poison 0x101), ([(1, natW 5), (2, mkW .poison 0x203)], mkW .poison 0x203)]
theorem witness_PoisonPropagates : ∀ I ∈ pairSyllables, ∀ p ∈ poisons,
    Ready (regs p.1) 0 (I 0 (syl 3 1 2 0)) (syl 3 1 2 0) ∧
      ([opA (soleCtx (regs p.1) 0 (I 0 (syl 3 1 2 0)) (syl 3 1 2 0)),
        opB (soleCtx (regs p.1) 0 (I 0 (syl 3 1 2 0)) (syl 3 1 2 0))].find? fun v => wtag v = .poison) = some p.2 := by
  have h : ∀ I ∈ pairSyllables, ∀ p ∈ poisons, readyB (regs p.1) (I 0 (syl 3 1 2 0)) (syl 3 1 2 0) = true ∧
      ([opA (soleCtx (regs p.1) 0 (I 0 (syl 3 1 2 0)) (syl 3 1 2 0)),
        opB (soleCtx (regs p.1) 0 (I 0 (syl 3 1 2 0)) (syl 3 1 2 0))].find? fun v => wtag v = .poison) = some p.2 := by
    decide +kernel
  exact fun I m p q => ⟨ready_of (h I m p q).1, (h I m p q).2⟩

theorem witness_EmptyOperandFaults : ∀ I ∈ pairSyllables,
    Ready (regs [(2, natW 5)]) 0 (I 0 (syl 3 1 2 0)) (syl 3 1 2 0) ∧
      wtag (opA (soleCtx (regs [(2, natW 5)]) 0 (I 0 (syl 3 1 2 0)) (syl 3 1 2 0))) = .empty ∧
      wtag (opB (soleCtx (regs [(2, natW 5)]) 0 (I 0 (syl 3 1 2 0)) (syl 3 1 2 0))) ≠ .poison := by
  have h : ∀ I ∈ pairSyllables, readyB (regs [(2, natW 5)]) (I 0 (syl 3 1 2 0)) (syl 3 1 2 0) = true ∧
      wtag (opA (soleCtx (regs [(2, natW 5)]) 0 (I 0 (syl 3 1 2 0)) (syl 3 1 2 0))) = .empty ∧
      wtag (opB (soleCtx (regs [(2, natW 5)]) 0 (I 0 (syl 3 1 2 0)) (syl 3 1 2 0))) ≠ .poison := by decide +kernel
  exact fun I m => ⟨ready_of (h I m).1, (h I m).2⟩

/-- A tagchk for NAT alone. -/
def chk : Syl := syl 0 1 0 1
/-- The words with which it passes, and with which it does not. -/
def chkWords : List (Word × Bool) := [(natW 7, true), (mkW .wide 0, false), (mkW .poison 0x101, false)]
theorem witness_TagchkChecks :
    (Ready (regs []) 0 (.tagchk 0 chk) chk ∧ wtag (opA (soleCtx (regs []) 0 (.tagchk 0 chk) chk)) = .empty) ∧
    (∀ p ∈ chkWords, Ready (regs [(1, p.1)]) 0 (.tagchk 0 chk) chk ∧
      wtag (opA (soleCtx (regs [(1, p.1)]) 0 (.tagchk 0 chk) chk)) ≠ .empty ∧
      bitAt chk.m.toNat ((wtag (opA (soleCtx (regs [(1, p.1)]) 0 (.tagchk 0 chk) chk))).code - 1) = p.2) ∧
    Ready (regs [(1, mkW .poison 0x101)]) 0 (.tagof 0 (syl 3 1 0 0)) (syl 3 1 0 0) := by
  have h := List.all_eq_true.mp (show chkWords.all (fun p => readyB (regs [(1, p.1)]) (.tagchk 0 chk) chk &&
      decide (wtag (opA (soleCtx (regs [(1, p.1)]) 0 (.tagchk 0 chk) chk)) ≠ .empty) &&
      bitAt chk.m.toNat ((wtag (opA (soleCtx (regs [(1, p.1)]) 0 (.tagchk 0 chk) chk))).code - 1) == p.2) = true by
    decide +kernel)
  refine ⟨⟨ready_of (by decide +kernel), by decide +kernel⟩, fun p m => ?_, ready_of (by decide +kernel)⟩
  have hp := h p m
  simp only [Bool.and_eq_true, decide_eq_true_eq, beq_iff_eq] at hp
  exact ⟨ready_of hp.1.1, hp.1.2, hp.2⟩


/-- Registers with a base of bank 18 and an index of 3, bank 18 accessible. -/
def bankS (ws : List (Nat × Word)) : State := opened 18 (regs ([(1, addrW 0x120000), (2, natW 3)] ++ ws))
/-- That state with a buffered store of four words, the ones at which the group begins. -/
def bufS : State := modCore (bankS []) 0 fun k => { k with
  storeBuf := [{ marker := false, words := (groupAt 0x120003 4).zip [natW 1, natW 2, natW 3, natW 4] }] }
/-- D = 8, a = 1, b = 2. -/
def y812 : Syl := syl 8 1 2 0

theorem witness_LoadsRetire : ∀ p ∈ loadSyllables, ∀ s ∈ [bufS, bankS []],
    Ready s 0 (p.1 0 y812) y812 ∧ groupOf (soleCtx s 0 (p.1 0 y812) y812) p.2 = some (groupAt 0x120003 p.2) ∧
    (∀ a ∈ groupAt 0x120003 p.2, isBank a = true ∧ bankMay s 0 (coreOf s 0).ring false (bankOf a) = true) ∧
    (forwarded (coreOf s 0) (groupAt 0x120003 p.2)).isSome = decide (s = bufS) ∧
    ∀ a ∈ groupAt 0x120003 p.2, (drainOver (taken s 0 (p.1 0 y812) y812) 0 0x120003 p.2).eccBad.contains a = false := by
  have h : ∀ p ∈ loadSyllables, ∀ s ∈ [bufS, bankS []], readyB s (p.1 0 y812) y812 = true ∧
      groupOf (soleCtx s 0 (p.1 0 y812) y812) p.2 = some (groupAt 0x120003 p.2) ∧
      (∀ a ∈ groupAt 0x120003 p.2, isBank a = true ∧ bankMay s 0 (coreOf s 0).ring false (bankOf a) = true) ∧
      (forwarded (coreOf s 0) (groupAt 0x120003 p.2)).isSome = decide (s = bufS) ∧
      ∀ a ∈ groupAt 0x120003 p.2, (drainOver (taken s 0 (p.1 0 y812) y812) 0 0x120003 p.2).eccBad.contains a = false := by
    decide +kernel
  exact fun p m s n => ⟨ready_of (h p m s n).1, (h p m s n).2⟩

/-- Data for four stored words. -/
def dataS : State := bankS [(8, natW 1), (9, natW 2), (10, natW 3), (11, natW 4)]
theorem witness_StoresRetire : ∀ p ∈ storeSyllables,
    Ready dataS 0 (p.1 0 y812) y812 ∧ groupOf (soleCtx dataS 0 (p.1 0 y812) y812) p.2.1 = some (groupAt 0x120003 p.2.1) ∧
    (∀ a ∈ groupAt 0x120003 p.2.1, isBank a = true ∧ bankMay dataS 0 (coreOf dataS 0).ring true (bankOf a) = true) ∧
    ∀ q ∈ (groupAt 0x120003 p.2.1).zip ((List.range p.2.1).map fun j => regRead (coreOf dataS 0) (8 + j)),
      wtag q.2 ≠ .empty ∧ (isSecret q.2 = true → bankKeeper dataS (bankOf q.1) = true) := by
  have h : ∀ p ∈ storeSyllables, readyB dataS (p.1 0 y812) y812 = true ∧
      groupOf (soleCtx dataS 0 (p.1 0 y812) y812) p.2.1 = some (groupAt 0x120003 p.2.1) ∧
      (∀ a ∈ groupAt 0x120003 p.2.1, isBank a = true ∧ bankMay dataS 0 (coreOf dataS 0).ring true (bankOf a) = true) ∧
      ∀ q ∈ (groupAt 0x120003 p.2.1).zip ((List.range p.2.1).map fun j => regRead (coreOf dataS 0) (8 + j)),
        wtag q.2 ≠ .empty ∧ (isSecret q.2 = true → bankKeeper dataS (bankOf q.1) = true) := by decide +kernel
  exact fun p m => ⟨ready_of (h p m).1, (h p m).2⟩

/-- The words of `dataS` with bank 18 as reset leaves it. -/
def shutS : State := regs [(1, addrW 0x120000), (2, natW 3), (8, natW 1)]
theorem witness_BankDenied : ∀ I ∈ [Instr.ld, Instr.ldAcq, Instr.st, Instr.stRel],
    Ready shutS 0 (I 0 y812) y812 ∧ groupOf (soleCtx shutS 0 (I 0 y812) y812) 1 = some [0x120003] ∧
    mPSN (coreOf shutS 0).mstat = false ∧ isHost 0x120003 = false ∧
    (isBank 0x120003 && bankMay shutS 0 (coreOf shutS 0).ring false (bankOf 0x120003)) = false ∧
    (isBank 0x120003 && bankMay shutS 0 (coreOf shutS 0).ring true (bankOf 0x120003)) = false ∧
    wtag (regRead (coreOf shutS 0) 8) ≠ .empty ∧ isSecret (regRead (coreOf shutS 0) 8) = false := by
  have h : ∀ I ∈ [Instr.ld, Instr.ldAcq, Instr.st, Instr.stRel], readyB shutS (I 0 y812) y812 = true ∧
      groupOf (soleCtx shutS 0 (I 0 y812) y812) 1 = some [0x120003] ∧
      mPSN (coreOf shutS 0).mstat = false ∧ isHost 0x120003 = false ∧
      (isBank 0x120003 && bankMay shutS 0 (coreOf shutS 0).ring false (bankOf 0x120003)) = false ∧
      (isBank 0x120003 && bankMay shutS 0 (coreOf shutS 0).ring true (bankOf 0x120003)) = false ∧
      wtag (regRead (coreOf shutS 0) 8) ≠ .empty ∧ isSecret (regRead (coreOf shutS 0) 8) = false := by decide +kernel
  exact fun I m => ⟨ready_of (h I m).1, (h I m).2⟩

theorem witness_StorePerformedWrites : Inv bufS ∧ (coreOf bufS 0).storeBuf[0]?.isSome = true ∧
    storeMay (coreOf bufS 0).storeBuf 0 = true := ⟨inv_of (by decide +kernel), by decide +kernel, by decide +kernel⟩

/-- NAT:5 in memory, NAT:`d` in D and NAT:7 in b. -/
def atomS (d : Nat) : State := memPut (opened 18 (regs [(8, natW d), (1, addrW 0x120003), (2, natW 7)])) 0x120003 (natW 5)
theorem witness_AtomicsRetire :
    ∀ p ∈ [(Instr.swap, 0, some (natW 7)), (.cas, 5, some (natW 7)), (.cas, 6, none), (.fadd, 0, some (natW 12))],
    Ready (atomS p.2.1) 0 (p.1 0 y812) y812 ∧ wtag (opA (soleCtx (atomS p.2.1) 0 (p.1 0 y812) y812)) = .addrD ∧
    isBank 0x120003 = true ∧ effAddr 36 (opA (soleCtx (atomS p.2.1) 0 (p.1 0 y812) y812)) (natW 0) 0 = 0x120003 ∧
    bankMay (atomS p.2.1) 0 (coreOf (atomS p.2.1) 0).ring false 18 = true ∧
    bankMay (atomS p.2.1) 0 (coreOf (atomS p.2.1) 0).ring true 18 = true ∧
    wtag (opB (soleCtx (atomS p.2.1) 0 (p.1 0 y812) y812)) ≠ .empty ∧
    (isSecret (opB (soleCtx (atomS p.2.1) 0 (p.1 0 y812) y812)) = true → bankKeeper (atomS p.2.1) 18 = true) ∧
    (storeDrainAll (taken (atomS p.2.1) 0 (p.1 0 y812) y812) 0).eccBad.contains 0x120003 = false ∧
    atomRule (p.1 0 y812) (soleCtx (atomS p.2.1) 0 (p.1 0 y812) y812)
      (memGet (storeDrainAll (taken (atomS p.2.1) 0 (p.1 0 y812) y812) 0) 0x120003) = some p.2.2 := by
  have h : ∀ p ∈ [(Instr.swap, 0, some (natW 7)), (.cas, 5, some (natW 7)), (.cas, 6, none), (.fadd, 0, some (natW 12))],
      readyB (atomS p.2.1) (p.1 0 y812) y812 = true ∧ wtag (opA (soleCtx (atomS p.2.1) 0 (p.1 0 y812) y812)) = .addrD ∧
      isBank 0x120003 = true ∧ effAddr 36 (opA (soleCtx (atomS p.2.1) 0 (p.1 0 y812) y812)) (natW 0) 0 = 0x120003 ∧
      bankMay (atomS p.2.1) 0 (coreOf (atomS p.2.1) 0).ring false 18 = true ∧
      bankMay (atomS p.2.1) 0 (coreOf (atomS p.2.1) 0).ring true 18 = true ∧
      wtag (opB (soleCtx (atomS p.2.1) 0 (p.1 0 y812) y812)) ≠ .empty ∧
      (isSecret (opB (soleCtx (atomS p.2.1) 0 (p.1 0 y812) y812)) = true → bankKeeper (atomS p.2.1) 18 = true) ∧
      (storeDrainAll (taken (atomS p.2.1) 0 (p.1 0 y812) y812) 0).eccBad.contains 0x120003 = false ∧
      atomRule (p.1 0 y812) (soleCtx (atomS p.2.1) 0 (p.1 0 y812) y812)
        (memGet (storeDrainAll (taken (atomS p.2.1) 0 (p.1 0 y812) y812) 0) 0x120003) = some p.2.2 := by decide +kernel
  exact fun p m => ⟨ready_of (h p m).1, (h p m).2⟩

theorem witness_FencesRetire : ∀ I ∈ [Instr.fenceLl, Instr.fenceSs, Instr.fenceFull, Instr.fenceIo], ∀ s ∈ [bufS, bankS []],
    Ready s 0 (I 0 (syl 0 0 0 0)) (syl 0 0 0 0) := by
  have h : ∀ I ∈ [Instr.fenceLl, Instr.fenceSs, Instr.fenceFull, Instr.fenceIo], ∀ s ∈ [bufS, bankS []],
      readyB s (I 0 (syl 0 0 0 0)) (syl 0 0 0 0) = true := by decide +kernel
  exact fun I m s n => ready_of (h I m s n)

/-- Two words of bank 18 to move one place up. -/
def movS : State := memPut (opened 18 (regs [(8, addrW 0x120001), (1, addrW 0x120000), (2, natW 2)])) 0x120000 (natW 5)
/-- A LINK of the last line but one. -/
def pinS : State := regs [(1, linkW (BitVec.ofNat 20 (8 * 0x13FFE)))]
/-- Bank 18 to renew. -/
def leaseS : State := opened 18 (regs [(1, natW 18)])
theorem witness_MovbPinUnpinLease :
    (Ready movS 0 (.movb 0 y812) y812 ∧ (coreOf movS 0).movb = none ∧ (coreOf movS 0).hostAcc = none ∧
      wtag (opA (soleCtx movS 0 (.movb 0 y812) y812)) = .addrD ∧ wtag (opD (soleCtx movS 0 (.movb 0 y812) y812) 0) = .addrD ∧
      opB (soleCtx movS 0 (.movb 0 y812) y812) = natW 2 ∧
      (∀ i, i < 2 → bankMay movS 0 (coreOf movS 0).ring false (bankOf (0x120000 + i)) = true ∧
        bankMay movS 0 (coreOf movS 0).ring true (bankOf (0x120001 + i)) = true ∧
        isSecret (memGet (storeDrainAll (taken movS 0 (.movb 0 y812) y812) 0) (0x120000 + i)) = false ∧
        (storeDrainAll (taken movS 0 (.movb 0 y812) y812) 0).eccBad.contains (0x120000 + i) = false ∧
        (storeDrainAll (taken movS 0 (.movb 0 y812) y812) 0).eccSoft.contains (0x120000 + i) = false)) ∧
    (Ready pinS 0 (.pin 0 (syl 3 1 0 2)) (syl 3 1 0 2) ∧
      pinnedOf (soleCtx pinS 0 (.pin 0 (syl 3 1 0 2)) (syl 3 1 0 2)) = some [0x13FFE, 0x13FFF]) ∧
    (Ready pinS 0 (.unpin 0 (syl 3 1 0 0x102)) (syl 3 1 0 0x102) ∧
      pinnedOf (soleCtx pinS 0 (.unpin 0 (syl 3 1 0 0x102)) (syl 3 1 0 0x102)) = some [0x13FFE, 0x13FFF]) ∧
    (Ready leaseS 0 (.lease 0 (syl 3 1 0 0)) (syl 3 1 0 0) ∧ opA (soleCtx leaseS 0 (.lease 0 (syl 3 1 0 0)) (syl 3 1 0 0)) =
      natW 18) :=
  ⟨⟨ready_of (by decide +kernel), by decide +kernel⟩, ⟨ready_of (by decide +kernel), by decide +kernel⟩,
    ⟨ready_of (by decide +kernel), by decide +kernel⟩, ready_of (by decide +kernel), by decide +kernel⟩

/-! ## Witnesses: transfers, waits, ring changes -/

/-- An answer that passes, of which `p` holds. -/
def okP {ε α : Type} (e : Except ε α) (p : α → Bool) : Bool :=
  match e with
  | .ok v => p v
  | .error _ => false
theorem okP_ex {ε α : Type} {e : Except ε α} {p : α → Bool} (h : okP e p = true) : ∃ v, e = .ok v ∧ p v = true := by
  cases e with
  | ok v => exact ⟨v, rfl, h⟩
  | error t => cases h

/-- The branches with an operand on which each goes, and on which it does not. -/
def branches : List ((CoreId → Syl → Instr) × (Tag → Bool) × (Nat → Bool) × Word × Bool) :=
  [(.bt, isBool, fun (n : Nat) => n == 1, boolW true, true), (.bt, isBool, fun n => n == 1, boolW false, false),
   (.bf, isBool, fun n => n == 0, boolW false, true), (.bf, isBool, fun n => n == 0, boolW true, false),
   (.bz, isBz, fun n => n == 0, natW 0, true), (.bz, isBz, fun n => n == 0, natW 1, false),
   (.bnz, isBz, fun n => n != 0, natW 1, true), (.bnz, isBz, fun n => n != 0, natW 0, false)]
/-- One line on. -/
def yBr : Syl := syl 0 1 0 8
theorem witness_BranchesRetire :
    (∀ p ∈ branches, Ready (regs [(1, p.2.2.2.1)]) 0 (p.1 0 yBr) yBr ∧
      p.2.1 (wtag (opA (soleCtx (regs [(1, p.2.2.2.1)]) 0 (p.1 0 yBr) yBr))) = true ∧
      p.2.2.1 (pay (opA (soleCtx (regs [(1, p.2.2.2.1)]) 0 (p.1 0 yBr) yBr))) = p.2.2.2.2 ∧
      (coreOf (regs [(1, p.2.2.2.1)]) 0).delay = none ∧
      ∃ l, directTarget (soleCtx (regs [(1, p.2.2.2.1)]) 0 (p.1 0 yBr) yBr) false = .ok l ∧
        (innerLine (regs [(1, p.2.2.2.1)]) (coreOf (regs [(1, p.2.2.2.1)]) 0).ring l == false) = true) ∧
    (∀ m ∈ [0, 0x40], Ready (regs []) 0 (.brc 0 (syl 0 1 0 m)) (syl 0 1 0 m) ∧
      (condVal (taken (regs []) 0 (.brc 0 (syl 0 1 0 m)) (syl 0 1 0 m)) 0 0 != (m == 0x40)) = (m == 0) ∧
      ∃ l, directTarget (soleCtx (regs []) 0 (.brc 0 (syl 0 1 0 m)) (syl 0 1 0 m)) true = .ok l ∧
        (innerLine (regs []) (coreOf (regs []) 0).ring l == false) = true) := by
  have h : ∀ p ∈ branches, readyB (regs [(1, p.2.2.2.1)]) (p.1 0 yBr) yBr = true ∧
      p.2.1 (wtag (opA (soleCtx (regs [(1, p.2.2.2.1)]) 0 (p.1 0 yBr) yBr))) = true ∧
      p.2.2.1 (pay (opA (soleCtx (regs [(1, p.2.2.2.1)]) 0 (p.1 0 yBr) yBr))) = p.2.2.2.2 ∧
      (coreOf (regs [(1, p.2.2.2.1)]) 0).delay = none ∧
      okP (directTarget (soleCtx (regs [(1, p.2.2.2.1)]) 0 (p.1 0 yBr) yBr) false) (fun l =>
        innerLine (regs [(1, p.2.2.2.1)]) (coreOf (regs [(1, p.2.2.2.1)]) 0).ring l == false) = true := by decide +kernel
  have g : ∀ m ∈ [0, 0x40], readyB (regs []) (.brc 0 (syl 0 1 0 m)) (syl 0 1 0 m) = true ∧
      (condVal (taken (regs []) 0 (.brc 0 (syl 0 1 0 m)) (syl 0 1 0 m)) 0 0 != (m == 0x40)) = (m == 0) ∧
      okP (directTarget (soleCtx (regs []) 0 (.brc 0 (syl 0 1 0 m)) (syl 0 1 0 m)) true) (fun l =>
        innerLine (regs []) (coreOf (regs []) 0).ring l == false) = true := by decide +kernel
  exact ⟨fun p m => ⟨ready_of (h p m).1, (h p m).2.1, (h p m).2.2.1, (h p m).2.2.2.1, okP_ex (h p m).2.2.2.2⟩,
    fun n m => ⟨ready_of (g n m).1, (g n m).2.1, okP_ex (g n m).2.2⟩⟩

/-- A LINK of the line after that of `regs`. -/
def linkS : State := regs [(1, linkW 0x20008#20)]
/-- A core whose mpc is the last place of the store. -/
def farX (e : Option Payload) : Ctx := ⟨State.reset, 0, { Core.reset with mpc := 0x9FFFF#20 }, 0, { yBr with ext := e }, false⟩
theorem witness_TransfersAndPads :
    (Ready linkS 0 (.br 0 (syl 0 0 0 8)) (syl 0 0 0 8) ∧ (coreOf linkS 0).delay = none ∧
      ∃ l, directTarget (soleCtx linkS 0 (.br 0 (syl 0 0 0 8)) (syl 0 0 0 8)) false = .ok l ∧
        (innerLine linkS (coreOf linkS 0).ring l == false) = true) ∧
    (Ready linkS 0 (.jr 0 (syl 0 1 0 0)) (syl 0 1 0 0) ∧
      wtag (opA (soleCtx linkS 0 (.jr 0 (syl 0 1 0 0)) (syl 0 1 0 0))) = .link ∧
      innerLine linkS (coreOf linkS 0).ring 0x20008#20 = false) ∧
    Ready linkS 0 (.nop 0 (syl 0 0 0 0)) (syl 0 0 0 0) ∧ Ready linkS 0 (.tfence 0 (syl 0 0 0 0)) (syl 0 0 0 0) ∧
    ((farX none).k.mpc.toNat < 0xA0000 ∧ (farX (some 5#36)).k.mpc.toNat < 0xA0000) ∧
    (coreRuns linkS 0 = true ∧ (coreOf linkS 0).wait = .none ∧ (coreOf linkS 0).haltReq = false ∧
      (coreOf linkS 0).mw = [] ∧ lineAbsent (lineOf (coreOf linkS 0).mpc) = false) :=
  ⟨⟨ready_of (by decide +kernel), by decide +kernel, okP_ex (by decide +kernel)⟩,
    ⟨ready_of (by decide +kernel), by decide +kernel⟩, ready_of (by decide +kernel), ready_of (by decide +kernel),
    by decide +kernel, by decide +kernel⟩

/-- `linkS` with `d` entries on the return stack, the window `live` deep and mstat `m`. -/
def stackS (d live : Nat) (m : Payload) : State :=
  ios (modCore linkS 0 fun k => { k with
    live := live
    mstat := m }) [(priv 0 oRSDEPTH, natW d)]
/-- The calls with their syllables. -/
def calls : List ((CoreId → Syl → Instr) × Syl) := [(.callS, syl 0 0 0 8), (.callw, syl 0 0 0 8), (.callr, syl 0 1 0 0)]
theorem witness_CallsRetire : ∀ s ∈ [stackS 15 14 2#36, stackS 16 14 0#36], ∀ p ∈ calls,
    (coreOf s 0).delay = none ∧ (ioF s (priv 0 oRSDEPTH) 0 5 < 16 ∨ mRSOV (coreOf s 0).mstat = false) ∧
    ioF s (priv 0 oRSDEPTH) 0 5 ≤ 16 ∧ (coreOf s 0).live < 15 ∧ Ready s 0 (p.1 0 p.2) p.2 ∧
    innerLine s (coreOf s 0).ring 0x20008#20 = false ∧
    (opA (soleCtx s 0 (p.1 0 p.2) p.2) = linkW 0x20008#20 ∨
      ∃ l, directTarget (soleCtx s 0 (p.1 0 p.2) p.2) false = .ok l ∧ (l == 0x20008#20) = true) := by
  have h : ∀ s ∈ [stackS 15 14 2#36, stackS 16 14 0#36], ∀ p ∈ calls,
      (coreOf s 0).delay = none ∧ (ioF s (priv 0 oRSDEPTH) 0 5 < 16 ∨ mRSOV (coreOf s 0).mstat = false) ∧
      ioF s (priv 0 oRSDEPTH) 0 5 ≤ 16 ∧ (coreOf s 0).live < 15 ∧ readyB s (p.1 0 p.2) p.2 = true ∧
      innerLine s (coreOf s 0).ring 0x20008#20 = false ∧
      (opA (soleCtx s 0 (p.1 0 p.2) p.2) = linkW 0x20008#20 ∨
        okP (directTarget (soleCtx s 0 (p.1 0 p.2) p.2) false) (fun l => l == 0x20008#20) = true) := by decide +kernel
  refine fun s n p m => ?_
  obtain ⟨h1, h2, h3, h4, h5, h6, h7⟩ := h s n p m
  exact ⟨h1, h2, h3, h4, ready_of h5, h6, h7.imp id okP_ex⟩

theorem witness_ReturnsRetire : ∀ s ∈ [stackS 1 1 0#36, stackS 16 2 0#36],
    (coreOf s 0).delay = none ∧ 0 < ioF s (priv 0 oRSDEPTH) 0 5 ∧ innerLine s (coreOf s 0).ring (rsTop s 0) = false ∧
    Ready s 0 (.ret 0 (syl 0 0 0 0)) (syl 0 0 0 0) ∧ Ready s 0 (.retw 0 (syl 0 0 0 0)) (syl 0 0 0 0) ∧
    ((coreOf s 0).live = 1 ↔ s = stackS 1 1 0#36) := by
  have h : ∀ s ∈ [stackS 1 1 0#36, stackS 16 2 0#36],
      (coreOf s 0).delay = none ∧ 0 < ioF s (priv 0 oRSDEPTH) 0 5 ∧ innerLine s (coreOf s 0).ring (rsTop s 0) = false ∧
      readyB s (.ret 0 (syl 0 0 0 0)) (syl 0 0 0 0) = true ∧ readyB s (.retw 0 (syl 0 0 0 0)) (syl 0 0 0 0) = true ∧
      ((coreOf s 0).live = 1 ↔ s = stackS 1 1 0#36) := by decide +kernel
  exact fun s m => ⟨(h s m).1, (h s m).2.1, (h s m).2.2.1, ready_of (h s m).2.2.2.1, ready_of (h s m).2.2.2.2.1, (h s m).2.2.2.2.2⟩

theorem witness_ReturnStackPushPop :
    (∀ d ∈ [0, 15, 16], Inv (stackS d 1 0#36) ∧ ioF (stackS d 1 0#36) (priv 0 oRSDEPTH) 0 5 = d) ∧
    (Ready (stackS 16 1 2#36) 0 (.callS 0 (syl 0 0 0 8)) (syl 0 0 0 8) ∧ (coreOf (stackS 16 1 2#36) 0).delay = none ∧
      mRSOV (coreOf (stackS 16 1 2#36) 0).mstat = true ∧
      ∃ l, directTarget (soleCtx (stackS 16 1 2#36) 0 (.callS 0 (syl 0 0 0 8)) (syl 0 0 0 8)) false = .ok l ∧
        (innerLine (stackS 16 1 2#36) (coreOf (stackS 16 1 2#36) 0).ring l == false) = true) ∧
    Ready (stackS 0 1 0#36) 0 (.ret 0 (syl 0 0 0 0)) (syl 0 0 0 0) := by
  have h : ∀ d ∈ [0, 15, 16], invB (stackS d 1 0#36) = true ∧ ioF (stackS d 1 0#36) (priv 0 oRSDEPTH) 0 5 = d := by decide +kernel
  exact ⟨fun d m => ⟨inv_of (h d m).1, (h d m).2⟩,
    ⟨ready_of (by decide +kernel), by decide +kernel, by decide +kernel, okP_ex (by decide +kernel)⟩, ready_of (by decide +kernel)⟩

/-- A count of 3. -/
def cntS : State := regs [(1, natW 3)]
theorem witness_RepeatsRetire :
    Ready cntS 0 (.repS 0 (syl 0 0 0 255)) (syl 0 0 0 255) ∧
    (Ready cntS 0 (.repi 0 (syl 0 1 0 0)) (syl 0 1 0 0) ∧
      wtag (opA (soleCtx cntS 0 (.repi 0 (syl 0 1 0 0)) (syl 0 1 0 0))) = .nat) ∧
    (Ready cntS 0 (.loopS 0 yBr) yBr ∧ opA (soleCtx cntS 0 (.loopS 0 yBr) yBr) = natW 3 ∧
      ∃ l, directTarget (soleCtx cntS 0 (.loopS 0 yBr) yBr) false = .ok l ∧
        decide ((nextOf (soleCtx cntS 0 (.loopS 0 yBr) yBr)).toNat ≤ l.toNat) = true) :=
  ⟨ready_of (by decide +kernel), ⟨ready_of (by decide +kernel), by decide +kernel⟩, ready_of (by decide +kernel),
    by decide +kernel, okP_ex (by decide +kernel)⟩

/-- `Held` on core 0, decided. -/
def heldB (s : State) (i : Instr) (y : Syl) (w : Wait) : Bool :=
  let k := coreOf s 0
  match sylOf i with
  | none => false
  | some (h, y') =>
    decide (y' = y) && coreRuns s 0 && decide (k.wait = w) && decide (w ≠ .none) && decide (k.mw = [i]) &&
    k.slots == slotsOf y && !mQT k.mstat && y.stop && decide (k.mpc.toNat % 8 + slotsOf y ≤ 8) &&
    !lineAbsent (lineOf k.mpc) && !s.csBad.contains (redirectOf s (lineOf k.mpc)) && !innerLine s k.ring k.mpc &&
    !unnamed h y && !extMisuse h y && !extFar h y && !innerLine s k.ring (skipPad s (flowPlace k)) &&
    (h.cls != 0 || h.op == 0 || !noSeq k)
theorem held_of {s : State} {i : Instr} {y : Syl} {w : Wait} (hb : heldB s i y w = true) : ∃ h, Held s 0 i h y w := by
  unfold heldB at hb
  split at hb
  · cases hb
  · next h y' e =>
    simp only [Bool.and_eq_true, decide_eq_true_eq, Bool.not_eq_true', beq_iff_eq, Bool.or_eq_true, bne_iff_ne] at hb
    obtain ⟨⟨⟨⟨⟨⟨⟨⟨⟨⟨⟨⟨⟨⟨⟨⟨rfl, h1⟩, h2⟩, h3⟩, h4⟩, h5⟩, h6⟩, h7⟩, h8⟩, h9⟩, h10⟩, h11⟩, h12⟩, h13⟩, h14⟩, h15⟩, h16⟩ := hb
    refine ⟨h, e, h1, h2, h3, h4, h5, h6, h7, h8, h9, h10, h11, h12, h13, h14, h15, ?_⟩
    rcases h16 with (h16 | h16) | h16
    · exact .inl h16
    · exact .inr (.inl h16)
    · exact .inr (.inr h16)

/-- Core 0 waiting for `w` in the microword `i`, with flag `e` of its latch, a TIME in a and unit 32 fired. -/
def waitS (i : Instr) (w : Wait) (e : Nat) : State :=
  ios (one { regsK [(1, mkW .time 9)] with
    wait := w
    mw := if w = .none then [] else [i]
    slots := if w = .none then 0 else 1
    evlat := e }) [(aCMPCTL 32, bitsW 8)]
/-- No operand; a; D. -/
def y0 : Syl := syl 0 0 0 0
def ya : Syl := syl 0 1 0 0
def yd : Syl := syl 3 0 0 0
theorem witness_WaitsAndEvents :
    (∀ e ∈ [0, 1], Ready (waitS (.wfe 0 y0) .none e) 0 (.wfe 0 y0) y0 ∧
      bitAt (coreOf (waitS (.wfe 0 y0) .none e) 0).evlat 0 = (e == 1)) ∧
    (bitAt (coreOf (waitS (.wfe 0 y0) .wfe 1) 0).evlat 0 = true ∧ ∃ h, Held (waitS (.wfe 0 y0) .wfe 1) 0 (.wfe 0 y0) h y0 .wfe) ∧
    (Ready (waitS (.waitt 0 ya) .none 0) 0 (.waitt 0 ya) ya ∧ bitAt (cmpSlot (waitS (.waitt 0 ya) .none 0) 0 7) 7 = true ∧
      wtag (opA (soleCtx (waitS (.waitt 0 ya) .none 0) 0 (.waitt 0 ya) ya)) = .time) ∧
    (bitAt (cmpSlot (waitS (.waitt 0 ya) .waitt 0) 0 7) 7 = true ∧
      wtag (regRead (coreOf (waitS (.waitt 0 ya) .waitt 0) 0) 1) = .time ∧
      ioB (waitS (.waitt 0 ya) .waitt 0) (aCMPCTL (cmpSlot (waitS (.waitt 0 ya) .waitt 0) 0 7 % 64)) 3 = true ∧
      ∃ h, Held (waitS (.waitt 0 ya) .waitt 0) 0 (.waitt 0 ya) h ya .waitt) ∧
    Ready (waitS (.cwait 0 yd) .none 0) 0 (.cwait 0 yd) yd ∧
    ((coreOf (waitS (.cwait 0 yd) .cwait 0) 0).ciphBusy = false ∧
      ∃ h, Held (waitS (.cwait 0 yd) .cwait 0) 0 (.cwait 0 yd) h yd .cwait) :=
  ⟨have h : ∀ e ∈ [0, 1], readyB (waitS (.wfe 0 y0) .none e) (.wfe 0 y0) y0 = true ∧
      bitAt (coreOf (waitS (.wfe 0 y0) .none e) 0).evlat 0 = (e == 1) := by decide +kernel
    fun e m => ⟨ready_of (h e m).1, (h e m).2⟩, ⟨by decide +kernel, held_of (by decide +kernel)⟩,
    ⟨ready_of (by decide +kernel), by decide +kernel⟩,
    ⟨by decide +kernel, by decide +kernel, by decide +kernel, held_of (by decide +kernel)⟩, ready_of (by decide +kernel),
    by decide +kernel, held_of (by decide +kernel)⟩
/-- The four kinds of sev. -/
def sevs : List ((CoreId → Syl → Instr) × Syl) :=
  [(.sevCores, syl 0 1 0 0x00F), (.sevHubSource, syl 0 0 0 0x1280), (.sevHubSource, syl 0 0 0 0x13FE),
   (.sevJigGroup, syl 0 0 0 0x2000), (.sevFieldTrigger, syl 0 0 0 0x3000)]
/-- A mask of all cores. -/
def maskS : State := regs [(1, bitsW 0xFFFFFFFF)]
theorem witness_WaitsAndEvents_sev : ∀ p ∈ sevs, Ready maskS 0 (p.1 0 p.2) p.2 := by
  have h : ∀ p ∈ sevs, readyB maskS (p.1 0 p.2) p.2 = true := by decide +kernel
  exact fun p m => ready_of (h p m)

/-- A core of ring 0 with a gate table, a trap stack and words in bank 4. -/
def gateS (tsp : Nat) (l : List (Nat × Word)) : State :=
  l.foldl (fun s p => memPut s p.1 p.2) (opened 4 (one { regsK [] with
    gtb := addrW 0x40000
    tsp := [(0, addrW tsp)] }))
/-- A gate to ring 0, callable from ring 0. -/
def gateIn : State := gateS 0x40100 [(0x40000, linkW 0x20008#20), (0x40001, natW 0x104)]
/-- A frame of that gate. -/
def gateOut : State := gateS 0x40100
  [(0x40100, linkW 0x20008#20), (0x40101, natW (6 * 2 ^ 32)), (0x40102, natW 0), (0x40103, addrW 0)]
/-- A frame of a trap. -/
def trapOut : State := gateS 0x40100 (((List.range 16).map (0x40100 + ·)).zip
  [linkW 0x20008#20, linkW 0x20009#20, natW 0, natW 16, natW 0, natW 0, linkW 0#20, linkW 0#20, emptyW, natW 0, natW 0, natW 0,
   natW 0, natW 0, natW (9 * 2 ^ 32), natW 0])
theorem witness_RingChangesRetire :
    ((coreOf gateIn 0).delay = none ∧ Ready gateIn 0 (.gate 0 y0) y0 ∧
      ∃ g, gateCheck (taken gateIn 0 (.gate 0 y0) y0) 0 0 = .ok g ∧ true = true) ∧
    ((coreOf gateOut 0).delay = none ∧ Ready gateOut 0 (.gret 0 y0) y0 ∧
      ∃ g, gretCheck (taken gateOut 0 (.gret 0 y0) y0) 0 = .ok g ∧ true = true) ∧
    ((coreOf trapOut 0).delay = none ∧ Ready trapOut 0 (.tret 0 y0) y0 ∧
      ∃ g, tretCheck (taken trapOut 0 (.tret 0 y0) y0) 0 = .ok g ∧ true = true) ∧
    Ready gateIn 0 (.trap 0 (syl 0 0 0 15)) (syl 0 0 0 15) ∧
    (Ready gateIn 0 (.park 0 (syl 0 0 0 1)) (syl 0 0 0 1) ∧ (coreOf gateIn 0).ring = 0 ∧ bitAt (effQuiet gateIn) 0 = false) :=
  ⟨⟨by decide +kernel, ready_of (by decide +kernel), okP_ex (p := fun _ => true) (by decide +kernel)⟩,
    ⟨by decide +kernel, ready_of (by decide +kernel), okP_ex (p := fun _ => true) (by decide +kernel)⟩,
    ⟨by decide +kernel, ready_of (by decide +kernel), okP_ex (p := fun _ => true) (by decide +kernel)⟩,
    ready_of (by decide +kernel), ready_of (by decide +kernel), by decide +kernel⟩

/-! ## Witnesses: PORT and SYS -/

/-- D = 16, a = 8, b = 0. -/
def yIo : Syl := syl 16 8 0 0
/-- An I/O address in a and a word in D, in a ring-`r` core whose lines are all of its ring. -/
def ioS (r a : Nat) (w : Word) : State :=
  ios (one { regsK [(8, mkW .addrIO a), (16, w)] with ring := r })
    [(aRINGLIM 1, natW (if 1 ≤ r then 0 else 0x14000)), (aRINGLIM 2, natW (if 2 ≤ r then 0 else 0x14000)),
     (aRINGLIM 3, natW (if 3 ≤ r then 0 else 0x14000))]
/-- Does the access go on? -/
def doneB (o : IoOut) : Bool :=
  match o with
  | .done _ => true
  | _ => false
theorem done_ex {o : IoOut} (h : doneB o = true) : ∃ t, o = .done t := by
  cases o with
  | done t => exact ⟨t, rfl⟩
  | fault t => cases h
  | stall => cases h

theorem witness_IoSyllables :
    (∀ a ∈ [0x10, 0x30], Ready (ioS 0 a (natW 0)) 0 (.inIo 0 yIo) yIo ∧
      ioPlace (soleCtx (ioS 0 a (natW 0)) 0 (.inIo 0 yIo) yIo) = some a ∧
      ioReadable (taken (ioS 0 a (natW 0)) 0 (.inIo 0 yIo) yIo) 0 0 a = true ∧
      (regInfo 0 (ioAbs 0 a)).isSome = (a == 0x10)) ∧
    (Ready (ioS 0 0x020100 (natW 5)) 0 (.outIo 0 yIo) yIo ∧
      ioPlace (soleCtx (ioS 0 0x020100 (natW 5)) 0 (.outIo 0 yIo) yIo) = some 0x020100 ∧
      wtag (regRead (coreOf (ioS 0 0x020100 (natW 5)) 0) 16) ≠ .poison ∧
      ∃ t, ioWrite (taken (ioS 0 0x020100 (natW 5)) 0 (.outIo 0 yIo) yIo) 0 0 0 0x020100 (natW 5) = .done t) ∧
    (∀ a ∈ [0x0B0000, 0xFFFFFF], Ready (ioS 0 a (natW 0)) 0 (.inIo 0 yIo) yIo ∧ Ready (ioS 0 a (natW 0)) 0 (.outIo 0 yIo) yIo ∧
      ioPlace (soleCtx (ioS 0 a (natW 0)) 0 (.inIo 0 yIo) yIo) = some a ∧
      ioPlace (soleCtx (ioS 0 a (natW 0)) 0 (.outIo 0 yIo) yIo) = some a ∧ ioMapped a = false) ∧
    (Ready (ioS 3 0x11 (natW 0)) 0 (.inIo 0 yIo) yIo ∧
      ioPlace (soleCtx (ioS 3 0x11 (natW 0)) 0 (.inIo 0 yIo) yIo) = some 0x11 ∧ ioMapped 0x11 = true ∧
      ((regInfo 0 (ioAbs 0 0x11)).map fun r => bitAt r.rd (coreOf (ioS 3 0x11 (natW 0)) 0).ring) = some false) := by
  have h : ∀ a ∈ [0x10, 0x30], readyB (ioS 0 a (natW 0)) (.inIo 0 yIo) yIo = true ∧
      ioPlace (soleCtx (ioS 0 a (natW 0)) 0 (.inIo 0 yIo) yIo) = some a ∧
      ioReadable (taken (ioS 0 a (natW 0)) 0 (.inIo 0 yIo) yIo) 0 0 a = true ∧
      (regInfo 0 (ioAbs 0 a)).isSome = (a == 0x10) := by decide +kernel
  have g : ∀ a ∈ [0x0B0000, 0xFFFFFF], readyB (ioS 0 a (natW 0)) (.inIo 0 yIo) yIo = true ∧
      readyB (ioS 0 a (natW 0)) (.outIo 0 yIo) yIo = true ∧
      ioPlace (soleCtx (ioS 0 a (natW 0)) 0 (.inIo 0 yIo) yIo) = some a ∧
      ioPlace (soleCtx (ioS 0 a (natW 0)) 0 (.outIo 0 yIo) yIo) = some a ∧ ioMapped a = false := by decide +kernel
  exact ⟨fun a m => ⟨ready_of (h a m).1, (h a m).2⟩,
    ⟨ready_of (by decide +kernel), by decide +kernel, by decide +kernel, done_ex (by decide +kernel)⟩,
    fun a m => ⟨ready_of (g a m).1, ready_of (g a m).2.1, (g a m).2.2⟩, ready_of (by decide +kernel), by decide +kernel⟩

/-- Two words to send, the dovetail paired or not, the receive queue of core 0 being `q`. -/
def portS (paired : Bool) (q : List Msg) : State :=
  ioSetB (one { regsK nats with recvQ := q }) aDVSTAT 0 paired
/-- fsend of type 0x40; frecv to registers 13 to 15. -/
def ySend : Syl := syl 3 1 2 0x40
def yRecv : Syl := syl 13 0 0 0
/-- An empty queue and one with a message. -/
def queues : List (List Msg) := [[], [⟨0x40, natW 1, natW 2⟩]]
theorem witness_DovetailPort :
    (∀ p ∈ [true, false], (coreOf (portS p []) 0).ring ≤ 1 ∧ Ready (portS p []) 0 (.fsend 0 ySend) ySend ∧
      fsendType 0x40 = true ∧ dvPaired (portS p []) = p ∧ sendFull (portS p []) 0 = false ∧
      (portS p []).islReset.contains 13 = false ∧
      opA (soleCtx (portS p []) 0 (.fsend 0 ySend) ySend) = natW 7 ∧ opB (soleCtx (portS p []) 0 (.fsend 0 ySend) ySend) = natW 5 ∧
      ∀ n ∈ [7, 5], wtag (natW n) ≠ .poison ∧ wtag (natW n) ≠ .empty ∧ dvTag (wtag (natW n)) = true) ∧
    (∀ q ∈ queues, Ready (portS true q) 0 (.frecv 0 yRecv) yRecv ∧ (coreOf (portS true q) 0).recvQ = q) := by
  have h : ∀ p ∈ [true, false], readyB (portS p []) (.fsend 0 ySend) ySend = true := by decide +kernel
  have h2 : ∀ p ∈ [true, false], dvPaired (portS p []) = p ∧ sendFull (portS p []) 0 = false := by decide +kernel
  have h3 : ∀ p ∈ [true, false],
      opA (soleCtx (portS p []) 0 (.fsend 0 ySend) ySend) = natW 7 ∧ opB (soleCtx (portS p []) 0 (.fsend 0 ySend) ySend) = natW 5 := by decide +kernel
  have h4 : ∀ p ∈ [true, false], (coreOf (portS p []) 0).ring ≤ 1 ∧ (portS p []).islReset.contains 13 = false := by
    decide +kernel
  have g : ∀ q ∈ queues, readyB (portS true q) (.frecv 0 yRecv) yRecv = true ∧ (coreOf (portS true q) 0).recvQ = q := by
    decide +kernel
  exact ⟨fun p m => ⟨(h4 p m).1, ready_of (h p m), by decide +kernel, (h2 p m).1, (h2 p m).2, (h4 p m).2, (h3 p m).1, (h3 p m).2, by decide +kernel⟩,
    fun q m => ⟨ready_of (g q m).1, (g q m).2⟩⟩

/-- A KEYREF, a job block in bank 18, a length of 65,536 and the cipher engine present. -/
def ciphS : State := ioSetB (opened 18 (regs [(1, mkW .keyref 0x21), (2, addrW 0x120000), (3, natW 65536)])) aCIPHCAP 0 true
theorem witness_CipherStarts : ∀ p ∈ cipherSyllables, Ready ciphS 0 (p.1 0 (syl 3 1 2 p.2)) (syl 3 1 2 p.2) ∧
    (syl 3 1 2 p.2).m.toNat % 16 = p.2 ∧ (coreOf ciphS 0).ring ≤ 2 ∧
    wtag (opA (soleCtx ciphS 0 (p.1 0 (syl 3 1 2 p.2)) (syl 3 1 2 p.2))) = .keyref ∧
    opB (soleCtx ciphS 0 (p.1 0 (syl 3 1 2 p.2)) (syl 3 1 2 p.2)) = addrW 0x120000 ∧
    opD (soleCtx ciphS 0 (p.1 0 (syl 3 1 2 p.2)) (syl 3 1 2 p.2)) 0 = natW 65536 ∧
    ciphRuns (soleCtx ciphS 0 (p.1 0 (syl 3 1 2 p.2)) (syl 3 1 2 p.2)) = false ∧
    cipherValid (taken ciphS 0 (p.1 0 (syl 3 1 2 p.2)) (syl 3 1 2 p.2)) = true ∧
    ∀ a ∈ groupAt 0x120000 16, isBank a = true ∧ bankMay ciphS 0 0 false (bankOf a) = true ∧
      bankMay ciphS 0 0 true (bankOf a) = true := by
  have h : ∀ p ∈ cipherSyllables, readyB ciphS (p.1 0 (syl 3 1 2 p.2)) (syl 3 1 2 p.2) = true ∧
      (syl 3 1 2 p.2).m.toNat % 16 = p.2 ∧ (coreOf ciphS 0).ring ≤ 2 ∧
      wtag (opA (soleCtx ciphS 0 (p.1 0 (syl 3 1 2 p.2)) (syl 3 1 2 p.2))) = .keyref ∧
      opB (soleCtx ciphS 0 (p.1 0 (syl 3 1 2 p.2)) (syl 3 1 2 p.2)) = addrW 0x120000 ∧
      opD (soleCtx ciphS 0 (p.1 0 (syl 3 1 2 p.2)) (syl 3 1 2 p.2)) 0 = natW 65536 ∧
      ciphRuns (soleCtx ciphS 0 (p.1 0 (syl 3 1 2 p.2)) (syl 3 1 2 p.2)) = false ∧
      cipherValid (taken ciphS 0 (p.1 0 (syl 3 1 2 p.2)) (syl 3 1 2 p.2)) = true := by decide +kernel
  have g : ∀ a ∈ groupAt 0x120000 16, isBank a = true ∧ bankMay ciphS 0 0 false (bankOf a) = true ∧
      bankMay ciphS 0 0 true (bankOf a) = true := by decide +kernel
  refine fun p m => ?_
  obtain ⟨h1, h2, h3, h4, h5, h6, h7, h8⟩ := h p m
  exact ⟨ready_of h1, h2, h3, h4, h5, h6, h7, h8, g⟩

/-- Sixteen readable words in bank 18. -/
def ledgS (a b : Word) : State :=
  memPutAll (opened 18 (regs [(1, a), (2, b)])) (((List.range 16).map (0x120000 + ·)).zip (List.replicate 16 (natW 7)))
/-- ledg of 16 words of type 0x100, of no word of type 0; post. -/
def yLedg : Syl := syl 3 1 0 (0x100 * 32 + 16)
def yPost : Syl := syl 3 1 2 255
theorem witness_LedgerHubPort :
    (∀ p ∈ [(yLedg, 16), (syl 3 1 0 0, 0)], Ready (ledgS (addrW 0x120000) emptyW) 0 (.ledg 0 p.1) p.1 ∧ p.1.m.toNat % 32 = p.2 ∧
      wtag (opA (soleCtx (ledgS (addrW 0x120000) emptyW) 0 (.ledg 0 p.1) p.1)) = .addrD ∧
      ∃ ws, portWords (soleCtx (ledgS (addrW 0x120000) emptyW) 0 (.ledg 0 p.1) p.1) (groupAt 0x120000 p.2) = .ok ws ∧
        okP (payloadCheck (soleCtx (ledgS (addrW 0x120000) emptyW) 0 (.ledg 0 p.1) p.1) ((groupAt 0x120000 p.2).zip ws))
          (fun _ => true) = true) ∧
    Ready (regs nats) 0 (.claim 0 yd) yd ∧
    (Ready (regs nats) 0 (.cmpl 0 ya) ya ∧ wtag (opA (soleCtx (regs nats) 0 (.cmpl 0 ya) ya)) = .nat) ∧
    (Ready (ledgS (mkW .session 5) (addrW 0x120000)) 0 (.postS 0 yPost) yPost ∧
      wtag (opA (soleCtx (ledgS (mkW .session 5) (addrW 0x120000)) 0 (.postS 0 yPost) yPost)) = .session ∧
      wtag (opB (soleCtx (ledgS (mkW .session 5) (addrW 0x120000)) 0 (.postS 0 yPost) yPost)) = .addrD ∧
      ∃ ws, portWords (soleCtx (ledgS (mkW .session 5) (addrW 0x120000)) 0 (.postS 0 yPost) yPost) (groupAt 0x120000 3) = .ok ws ∧
        (decide (wtag (ws.getD 0 emptyW) = .nat) &&
          okP (payloadCheck (soleCtx (ledgS (mkW .session 5) (addrW 0x120000)) 0 (.postS 0 yPost) yPost)
            ((groupAt 0x120000 3).zip ws)) (fun _ => true)) = true) := by
  have h : ∀ p ∈ [(yLedg, 16), (syl 3 1 0 0, 0)], readyB (ledgS (addrW 0x120000) emptyW) (.ledg 0 p.1) p.1 = true ∧
      p.1.m.toNat % 32 = p.2 ∧ wtag (opA (soleCtx (ledgS (addrW 0x120000) emptyW) 0 (.ledg 0 p.1) p.1)) = .addrD ∧
      okP (portWords (soleCtx (ledgS (addrW 0x120000) emptyW) 0 (.ledg 0 p.1) p.1) (groupAt 0x120000 p.2)) (fun ws =>
        okP (payloadCheck (soleCtx (ledgS (addrW 0x120000) emptyW) 0 (.ledg 0 p.1) p.1) ((groupAt 0x120000 p.2).zip ws))
          (fun _ => true)) = true := by decide +kernel
  exact ⟨fun p m => ⟨ready_of (h p m).1, (h p m).2.1, (h p m).2.2.1, okP_ex (h p m).2.2.2⟩, ready_of (by decide +kernel),
    ⟨ready_of (by decide +kernel), by decide +kernel⟩, ready_of (by decide +kernel), by decide +kernel, by decide +kernel,
    okP_ex (by decide +kernel)⟩

/-- Words that the control registers accept. -/
def crWords : List (Nat × Word) :=
  [(1, natW 0x1F3), (2, natW 3), (3, natW 0x10), (4, addrW 0), (5, addrW 0), (6, addrW 0), (7, addrW 0), (8, addrW 0),
   (9, addrW 0), (10, addrW 0), (11, natW 0), (12, natW 0), (13, linkW 0#20), (14, linkW 0#20), (15, bitsW 511), (16, bitsW 0),
   (17, natW 0), (19, mkW .session 0), (20, natW 0), (21, natW 0)]
/-- The ring in which control register `n` may be read and written: that of tsp`n`, else 0. -/
def crRing (n : Nat) : Nat := if 5 ≤ n ∧ n ≤ 8 then n - 5 else 0
/-- `ioS` of ring `r` with a word in a. -/
def crS (r : Nat) (w : Word) : State := modCore (ioS r 0 (natW 0)) 0 fun k => { k with regs := regsAll k.cur [(1, w)] k.regs }
theorem witness_ControlRegisters :
    (∀ n ∈ List.range 22, Ready (crS (crRing n) emptyW) 0 (.mfc 0 (syl 3 0 0 n)) (syl 3 0 0 n) ∧ crRing n ≤ (crRings n).1) ∧
    (∀ p ∈ crWords, Ready (crS (crRing p.1) p.2) 0 (.mtc 0 (syl 0 1 0 p.1)) (syl 0 1 0 p.1) ∧ crRing p.1 ≤ (crRings p.1).2 ∧
      opA (soleCtx (crS (crRing p.1) p.2) 0 (.mtc 0 (syl 0 1 0 p.1)) (syl 0 1 0 p.1)) = p.2 ∧ crTag p.1 (wtag p.2) = true ∧
      crValueBad p.1 (pay p.2) = false ∧ (p.1 = 1 → mstatPriv (crRing p.1) 0#36 (pay p.2) = false)) ∧
    (Ready (crS 3 emptyW) 0 (.mfc 0 (syl 3 0 0 19)) (syl 3 0 0 19) ∧ (crRings 19).1 < 3) ∧
    (Ready (crS 3 (natW 0)) 0 (.mtc 0 (syl 0 1 0 21)) (syl 0 1 0 21) ∧ (crRings 21).2 < 3) ∧
    (Inv (crS 3 emptyW) ∧ tabWf (fun _ => emptyW) none (coreOf (crS 3 emptyW) 0).tsp = true) := by
  have h : ∀ n ∈ List.range 22, readyB (crS (crRing n) emptyW) (.mfc 0 (syl 3 0 0 n)) (syl 3 0 0 n) = true ∧
      crRing n ≤ (crRings n).1 := by decide +kernel
  have g : ∀ p ∈ crWords, readyB (crS (crRing p.1) p.2) (.mtc 0 (syl 0 1 0 p.1)) (syl 0 1 0 p.1) = true ∧
      crRing p.1 ≤ (crRings p.1).2 ∧
      opA (soleCtx (crS (crRing p.1) p.2) 0 (.mtc 0 (syl 0 1 0 p.1)) (syl 0 1 0 p.1)) = p.2 ∧ crTag p.1 (wtag p.2) = true ∧
      crValueBad p.1 (pay p.2) = false ∧ (p.1 = 1 → mstatPriv (crRing p.1) 0#36 (pay p.2) = false) := by decide +kernel
  exact ⟨fun n m => ⟨ready_of (h n m).1, (h n m).2⟩, fun p m => ⟨ready_of (g p m).1, (g p m).2⟩,
    ⟨ready_of (by decide +kernel), by decide⟩, ⟨ready_of (by decide +kernel), by decide⟩, inv_of (by decide +kernel),
    by decide +kernel⟩

/-- The last syllable of the writable store, with the words of one. -/
def csS : State := regs [(1, linkW 0x9FFFF#20), (2, bitsW 5), (3, natW 15)]
theorem witness_ControlStoreAndPredictor :
    (Ready csS 0 (.csld 0 (syl 14 1 0 0)) (syl 14 1 0 0) ∧ (coreOf csS 0).ring = 0 ∧
      opA (soleCtx csS 0 (.csld 0 (syl 14 1 0 0)) (syl 14 1 0 0)) = linkW 0x9FFFF#20) ∧
    (Ready csS 0 (.csst 0 (syl 3 1 2 0)) (syl 3 1 2 0) ∧
      opA (soleCtx csS 0 (.csst 0 (syl 3 1 2 0)) (syl 3 1 2 0)) = linkW 0x9FFFF#20 ∧
      opB (soleCtx csS 0 (.csst 0 (syl 3 1 2 0)) (syl 3 1 2 0)) = bitsW 5 ∧
      opD (soleCtx csS 0 (.csst 0 (syl 3 1 2 0)) (syl 3 1 2 0)) 0 = natW 15) ∧
    Ready csS 0 (.cssync 0 y0) y0 ∧ Ready csS 0 (.pflush 0 y0) y0 ∧ Ready csS 0 (.pbar 0 y0) y0 ∧
    Ready csS 0 (.pbar 0 (syl 0 0 0 255)) (syl 0 0 0 255) ∧ Ready csS 0 (.pbarClear 0 (syl 0 0 0 0x100)) (syl 0 0 0 0x100) :=
  ⟨⟨ready_of (by decide +kernel), by decide +kernel⟩, ⟨ready_of (by decide +kernel), by decide +kernel⟩,
    ready_of (by decide +kernel), ready_of (by decide +kernel), ready_of (by decide +kernel), ready_of (by decide +kernel),
    ready_of (by decide +kernel)⟩

/-- Handle 0. -/
def sessS : State := regs [(1, mkW .session 0)]
/-- Two core numbers. -/
def twoS : State := regs [(1, natW 31), (2, natW 0)]
theorem witness_SystemSyllables :
    (Ready sessS 0 (.ctxsw 0 (syl 15 1 0 0)) (syl 15 1 0 0) ∧ (coreOf sessS 0).ring ≤ 1 ∧
      wtag (opA (soleCtx sessS 0 (.ctxsw 0 (syl 15 1 0 0)) (syl 15 1 0 0))) = .session) ∧
    (Ready twoS 0 (.tagset 0 (syl 3 1 0 13)) (syl 3 1 0 13) ∧ tagLimit (tagOfCode 13) 31 = true ∧
      opA (soleCtx twoS 0 (.tagset 0 (syl 3 1 0 13)) (syl 3 1 0 13)) = natW 31) ∧
    (Ready twoS 0 (.splice 0 (syl 3 1 2 0)) (syl 3 1 2 0) ∧ bitAt (effQuiet twoS) 0 = false ∧
      opA (soleCtx twoS 0 (.splice 0 (syl 3 1 2 0)) (syl 3 1 2 0)) = natW 31 ∧
      opB (soleCtx twoS 0 (.splice 0 (syl 3 1 2 0)) (syl 3 1 2 0)) = natW 0) ∧
    (Ready twoS 0 (.modeS 0 (syl 3 1 0 255)) (syl 3 1 0 255) ∧
      wtag (opA (soleCtx twoS 0 (.modeS 0 (syl 3 1 0 255)) (syl 3 1 0 255))) = .nat) :=
  ⟨⟨ready_of (by decide +kernel), by decide +kernel⟩, ⟨ready_of (by decide +kernel), by decide +kernel⟩,
    ⟨ready_of (by decide +kernel), by decide +kernel⟩, ready_of (by decide +kernel), by decide +kernel⟩

/-! ## Witnesses: the block, asynchronous causes, traps -/

theorem witness_IdleStepIsOneCycle : Inv State.reset ∧ State.reset.pending = [] := ⟨inv_of (by decide), rfl⟩
theorem witness_StepKeepsInvariant : Inv (regs nats) ∧ ∃ t, step (regs nats) = .next t := ⟨inv_of (by decide +kernel), _, rfl⟩
theorem witness_QueueUntouched : ∃ t, exec .ppsHold State.reset = .next t := ⟨_, rfl⟩

/-- Core 0 with pending causes `p` and mstat `m`. -/
def pendS (p : List Async) (m : Nat) : State := one { regsK [] with
  pend := p
  mstat := BitVec.ofNat 36 m }
/-- The first place, as a breakpoint with ACT 1 of DBGBRK3. -/
def brkS : State := ios (pendS [] 0) [(priv 0 (oDBGBRK 3), natW (0x20000 + 2 ^ 20 + 2 ^ 21))]
/-- Core 0 with source 5 of priority 15 on offer, waiting or not. -/
def intS (w : Wait) : State := ios (one { regsK [] with
  wait := w
  mw := if w = .none then [] else [.wfe 0 y0]
  slots := if w = .none then 0 else 1
  mstat := 0xE100#36
  offer := some 5 }) [(aSRCCFG 5, natW 15)]
/-- Core 0 waiting for `w`, its watchdog at half its time or not. -/
def dogS (w : Wait) (half : Bool) : State := ioSetB (one { regsK [] with wait := w }) (priv 0 oWDOGSTAT) 14 half
theorem witness_AsynchronousCauses :
    (asyncOk (pendS [.step, .nmi 3] 0) 0 = true ∧ innerVector (pendS [.step, .nmi 3] 0) 0 0x1A = true ∧
      ((coreOf (pendS [.step, .nmi 3] 0) 0).pend.findSome? fun p => match p with | .nmi n => some n | _ => none) = some 3) ∧
    (asyncOk (pendS [.step, .wdog] 0) 0 = true ∧ Async.wdog ∈ (coreOf (pendS [.step, .wdog] 0) 0).pend ∧
      innerVector (pendS [.step, .wdog] 0) 0 0x15 = true ∧ asyncBefore (pendS [.step, .wdog] 0) 0 2 = false) ∧
    (asyncOk (pendS [.leaselost 0, .step] 0) 0 = true ∧ Async.step ∈ (coreOf (pendS [.leaselost 0, .step] 0) 0).pend ∧
      asyncBefore (pendS [.leaselost 0, .step] 0) 0 3 = false) ∧
    (asyncOk brkS 0 = true ∧ bitAt (pay (ioGet brkS (priv 0 (oDBGBRK 3)))) 20 = true ∧
      bitAt (pay (ioGet brkS (priv 0 (oDBGBRK 3)))) 21 = true ∧
      pay (ioGet brkS (priv 0 (oDBGBRK 3))) % 2 ^ 20 = (coreOf brkS 0).mpc.toNat ∧ asyncBefore brkS 0 4 = false) ∧
    (asyncOk (pendS [.leaselost 31] 256) 0 = true ∧ mIE (coreOf (pendS [.leaselost 31] 256) 0).mstat = true ∧
      asyncTargetOk (pendS [.leaselost 31] 256) 0 0x17 = true ∧ asyncBefore (pendS [.leaselost 31] 256) 0 6 = false ∧
      ((coreOf (pendS [.leaselost 31] 256) 0).pend.findSome? fun p => match p with | .leaselost n => some n | _ => none) = some 31) ∧
    (∀ w ∈ [Wait.none, Wait.wfe], asyncOk (intS w) 0 = true ∧ mIE (coreOf (intS w) 0).mstat = true ∧ presented (intS w) 0 = 15 ∧
      mLVL (coreOf (intS w) 0).mstat = 14 ∧ asyncTargetOk (intS w) 0 0x3F = true ∧ asyncBefore (intS w) 0 7 = false) ∧
    (Inv (intS .wfe) ∧ ∃ h, Held (intS .wfe) 0 (.wfe 0 y0) h y0 .wfe) ∧
    (coreRuns (dogS .none true) 0 = true ∧ ioB (dogS .none true) (priv 0 oWDOGCFG) 14 = true ∧
      (coreOf (dogS .none true) 0).wait ∉ [Wait.wfe, .waitt, .quiet] ∧ Async.wdog ∉ (coreOf (dogS .none true) 0).pend ∧
      ioB (dogS .none true) (priv 0 oWDOGSTAT) 14 = true) ∧
    (∀ w ∈ [Wait.quiet, .sendq], coreRuns (dogS w false) 0 = true ∧ (coreOf (dogS w false) 0).wait = w) :=
  ⟨by decide +kernel, by decide +kernel, by decide +kernel, by decide +kernel, by decide +kernel, by decide +kernel,
    ⟨inv_of (by decide +kernel), held_of (by decide +kernel)⟩, by decide +kernel, by decide +kernel⟩

/-- A trap stack whose frame is at the first words of bank 4, and a vector table. -/
def vecS : State := modCore (gateS 0x40010 [(0x41020, linkW 0x20008#20)]) 0 fun k => { k with vtb := addrW 0x41000 }
theorem witness_TrapEntrySaves : Inv vecS ∧ tabWf (fun _ => emptyW) none (coreOf vecS 0).tsp = true ∧
    ((coreOf vecS 0).modeNew = none ∧ (coreOf vecS 0).shadow = [] ∧ (coreOf vecS 0).rearm = none ∧ (coreOf vecS 0).storeBuf = [] ∧
      trapTarget vecS 0 0x20 = some (0x20008#20, 0) ∧ rsvUse vecS 0 = 0 ∧ tspOf (coreOf vecS 0) 0 = addrW 0x40010 ∧
      bankMay vecS 0 0 true (bankOf 0x40000) = true) := ⟨inv_of (by decide +kernel), by decide +kernel, by decide +kernel⟩

/-! ## Witnesses: host windows -/

/-- One word of window 0 to load or store, with its part asked. -/
def hacc (write granted : Bool) : HostAcc :=
  { write := write, slot := 0, rest := [0x100000000], off := 0, part := some ⟨0, 0x100000000, 0x5000, 8⟩, granted := granted, done := 0,
    words := [(0x100000000, natW 7)], data := [], bytes := [] }
/-- Core 0 waiting for it. -/
def hostS (write granted : Bool) : State := one { regsK [] with
  wait := .host
  hostAcc := some (hacc write granted) }
theorem witness_HostPartsAnswered :
    (∀ w ∈ [true, false], ∀ g ∈ [true, false], coreRuns (hostS w g) 0 = true ∧ (coreOf (hostS w g) 0).wait = .host ∧
      (coreOf (hostS w g) 0).hostAcc = some (hacc w g) ∧ (hacc w g).part = some ⟨0, 0x100000000, 0x5000, 8⟩ ∧
      (hacc w g).granted = g ∧ (hacc w g).write = w) ∧
    (hostDataOk (hostS false true) ⟨0, 0x100000000, 0x5000, 8⟩ [0x1000000007] = true ∧
      ∃ h, hostLoadPart (hostS false true) (coreOf (hostS false true) 0) (hacc false true) ⟨0, 0x100000000, 0x5000, 8⟩ [0x1000000007] =
        .ok h ∧ true = true) ∧
    (hostDataOk (hostS false true) ⟨0, 0x100000000, 0x5000, 8⟩ [0x10000000000] = true ∧
      ∃ t, hostLoadPart (hostS false true) (coreOf (hostS false true) 0) (hacc false true) ⟨0, 0x100000000, 0x5000, 8⟩
        [0x10000000000] = .error t) :=
  ⟨by decide +kernel, ⟨by decide +kernel, okP_ex (p := fun _ => true) (by decide +kernel)⟩, by decide +kernel, _, rfl⟩

/-- One question of each kind. -/
def askS : State := { State.reset with acQ := [.fetch 255 4, .drain 7, .msix 511, .comp 255 true false (natW 0) (natW 0) (natW 0)
  (natW 0)] }
theorem witness_HostLinkAnswered :
    askS.acQ.find? (fun i => match i with | .fetch p _ => p == 255 | _ => false) = some (.fetch 255 4) ∧
    askS.acQ.find? (fun i => match i with | .drain _ => true | _ => false) = some (.drain 7) ∧ AcItem.msix 511 ∈ askS.acQ ∧
    askS.acQ.find? (fun i => match i with | .comp q _ _ _ _ _ _ => q == 255 | _ => false) =
      some (.comp 255 true false (natW 0) (natW 0) (natW 0) (natW 0)) := by decide +kernel

/-! ## Witnesses: register writes, hub, time -/

/-- `WriteTaken` by core 0, decided. -/
def writeB (s : State) (a : Nat) (w : Word) : Bool :=
  coreFree s 0 && decide (wtag w ≠ .poison) && ioMapped a && (!otherPriv 0 (ioAbs 0 a) || (coreOf s 0).ring == 0) &&
  match regInfo 0 (ioAbs 0 a) with
  | none => false
  | some i => match i.wr with
    | none => false
    | some r => bitAt r (coreOf s 0).ring && !ioExtraPriv (coreOf s 0).ring (ioAbs 0 a) w && ioTag (ioAbs 0 a) (wtag w) &&
      !ioIslandOff s (ioAbs 0 a)
theorem written_of {s : State} {a : Nat} {w : Word} (h : writeB s a w = true) : WriteTaken s 0 a w := by
  unfold writeB at h
  rw [Bool.and_eq_true] at h
  obtain ⟨h, g⟩ := h
  simp only [Bool.and_eq_true, decide_eq_true_eq, Bool.or_eq_true, Bool.not_eq_true', beq_iff_eq] at h
  split at g
  · cases g
  · next i e =>
    split at g
    · cases g
    · next r f =>
      simp only [Bool.and_eq_true, Bool.not_eq_true'] at g
      refine ⟨h.1.1.1, h.1.1.2, h.1.2, fun o => ?_, i, r, e, f, g.1.1.1, g.1.1.2, g.1.2, g.2⟩
      rcases h.2 with k | k
      · exact absurd o (by rw [show otherPriv (0 : CoreId).val = otherPriv 0 from rfl, show ioAbs (0 : CoreId).val = ioAbs 0 from rfl, k]; decide)
      · exact k

/-- The dovetail paired or not, the depth of the send queue 0. -/
def dvS (p : Bool) : State := ioSetB (regs []) aDVSTAT 0 p
theorem witness_RegisterWrites :
    (WriteTaken (regs []) 0 (aCMPVAL 63) (natW 5) ∧ ∃ i, regInfo 0 (ioAbs 0 (aCMPVAL 63)) = some i ∧
      ∃ t, ioPerform (regs []) 0 (coreOf (regs []) 0).ring i (ioAbs 0 (aCMPVAL 63)) (natW 5) = .done t) ∧
    (coreFree (regs []) 0 = true ∧ ioMapped 0xFFFFFF = false) ∧
    (coreFree (ioS 3 0 (natW 0)) 0 = true ∧ ioMapped (aBANKOWN 0) = true ∧
      ((regInfo 0 (ioAbs 0 (aBANKOWN 0))).bind fun i => i.wr.map fun m => bitAt m (coreOf (ioS 3 0 (natW 0)) 0).ring) = some false) ∧
    (otherPriv 0 (ioAbs 0 (aCMPVAL 63)) = false ∧
      ((regInfo 0 (ioAbs 0 (aCMPVAL 63))).bind fun i => i.wr.map fun m => bitAt m 0) = some true ∧
      ioExtraPriv 0 (ioAbs 0 (aCMPVAL 63)) emptyW = false ∧ ioTag (ioAbs 0 (aCMPVAL 63)) .empty = false ∧
      ioTag (ioAbs 0 (aCMPVAL 63)) .bool = false) ∧
    (ioMapped 0x30 = true ∧ otherPriv 0 (ioAbs 0 0x30) = false ∧ ((regInfo 0 (ioAbs 0 0x30)).bind fun i => i.wr) = none ∧
      ioIslandOff (regs []) (ioAbs 0 0x30) = false) ∧
    WriteTaken (regs []) 0 (priv 0 oRSDEPTH) (natW 31) ∧ WriteTaken (regs []) 0 (priv 0 (oRSENT 15)) (linkW 0xFFFFF#20) ∧
    (WriteTaken (dvS false) 0 (aSHADOW 0) (bitsW 0) ∧ fieldReg 0 ≠ 2) ∧
    (∀ p ∈ [true, false], WriteTaken (dvS p) 0 (aSHADOW 0x100) (natW 1) ∧ fieldReg 0x100 = 2 ∧ dvPaired (dvS p) = p ∧
      sendFull (dvS p) 0 = false) := by
  have h : ∀ p ∈ [true, false], writeB (dvS p) (aSHADOW 0x100) (natW 1) = true ∧ fieldReg 0x100 = 2 ∧ dvPaired (dvS p) = p ∧
      sendFull (dvS p) 0 = false := by decide +kernel
  exact ⟨⟨written_of (by decide +kernel), _, rfl, done_ex (by decide +kernel)⟩, by decide +kernel, by decide +kernel,
    by decide +kernel, by decide +kernel, written_of (by decide +kernel), written_of (by decide +kernel),
    ⟨written_of (by decide +kernel), by decide +kernel⟩, fun p m => ⟨written_of (h p m).1, (h p m).2⟩⟩

/-- Source 5 a level source, up or not, in service or not, without a core; core 0 offered source 5; DH up; vector 511 open. -/
def hubS (up svc : Bool) : State :=
  ios { one { regsK [] with offer := some 5 } with asserted := if up then [5] else [] }
    [(aSRCCFG 5, natW 16), (aSRCSTAT 5, natW (if svc then 1024 else 0)), (aREADYMAP, bitsW 4)]
theorem witness_HubEvents :
    (srcLevel (hubS false true) 5 = true ∧ srcUp (hubS false true) 5 = false ∧ srcInsvc (hubS false true) 5 = true) ∧
    (srcLevel (hubS false false) 5 = true ∧ srcUp (hubS false false) 5 = false ∧ srcInsvc (hubS false false) 5 = false ∧
      noCore { hubS false false with asserted := (hubS false false).asserted ++ [5] } 5 = false) ∧
    (srcLevel (hubS true false) 5 = true ∧ srcUp (hubS true false) 5 = true) ∧ srcLevel State.reset 5 = false ∧
    ((coreOf (hubS true false) 0).offer = some 5 ∧ ioF (hubS true false) aHUBCFG 0 12 ≠ 0) ∧
    ((coreOf State.reset 0).offer = none ∧ ioF (ios State.reset [(aHUBCFG, natW 0)]) aHUBCFG 0 12 = 0) ∧
    WriteTaken (regs []) 0 (aSRCSTAT 1023) (natW 0x100) ∧ WriteTaken (regs []) 0 (aSRCSTAT 1023) (natW 0x20000) ∧
    (let t := hostActive (barSetB (hubS false false) (bMSIX 511 12) 0 false)
     msixOpen t 511 = true ∧ vecSources t 511 = []) ∧
    (∀ n ∈ [0, 254, 255], ∀ i ∈ [0, 1023], Inv (ios State.reset [(aSRCSTAT i, natW n)]) ∧
      ioF (ios State.reset [(aSRCSTAT i, natW n)]) (aSRCSTAT i) 0 8 = n) := by
  have h : ∀ n ∈ [0, 254, 255], ∀ i ∈ [0, 1023], invB (ios State.reset [(aSRCSTAT i, natW n)]) = true ∧
      ioF (ios State.reset [(aSRCSTAT i, natW n)]) (aSRCSTAT i) 0 8 = n := by decide +kernel
  exact ⟨by decide +kernel, by decide +kernel, by decide +kernel, by decide +kernel, by decide +kernel, by decide +kernel,
    written_of (by decide +kernel), written_of (by decide +kernel), by decide +kernel,
    fun n m i k => ⟨inv_of (h n m i k).1, (h n m i k).2⟩⟩

/-- Timebase 0 at `v`, core 0 at `regs`. -/
def timeS (v : Nat) : State := tbPut (regs []) 0 v
/-- Unit 63 armed on TB0, its time one back, or the half range less one tick back. -/
def fireS (d : Nat) : State := tbPut (ios State.reset [(aCMPVAL 63, natW 0), (aCMPCTL 63, bitsW 20)]) 0 d
theorem witness_TimeEvents :
    coreFree (regs []) 0 = true ∧ WriteTaken (regs []) 0 0x020020 (natW 15) ∧
    (∀ n ∈ [0, 2, 3], WriteTaken (timeS 5) 0 (aTB n + 6) (natW 0)) ∧
    (tbGet (timeS 0) 0 ≤ 0 * 2 ^ 36 + pay (ioGet (timeS 0) (aTB 0 + 5)) ∧ (coreOf (timeS 0) 0).ring = 0) ∧
    0 * 2 ^ 36 + pay (ioGet (timeS 5) (aTB 0 + 5)) < tbGet (timeS 5) 0 ∧
    (WriteTaken (regs []) 0 (aCMPCTL 63) (withBits (natW 16) 4 0) ∧ bitAt (pay (natW 16)) 3 = false) ∧
    (∀ d ∈ [0, 2 ^ 35 - 1], ioB (fireS d) (aCMPCTL 63) 2 = true ∧ Inv (fireS d) ∧
      (tbLo (fireS d) (ioF (fireS d) (aCMPCTL 63) 0 2) + 2 ^ 36 - pay (ioGet (fireS d) (aCMPVAL 63))) % 2 ^ 36 < 2 ^ 35) ∧
    ioB (ios State.reset [(aTDCFG, natW (2 ^ 29))]) aTDCFG 29 = true := by
  have h : ∀ d ∈ [0, 2 ^ 35 - 1], ioB (fireS d) (aCMPCTL 63) 2 = true ∧ invB (fireS d) = true ∧
      (tbLo (fireS d) (ioF (fireS d) (aCMPCTL 63) 0 2) + 2 ^ 36 - pay (ioGet (fireS d) (aCMPVAL 63))) % 2 ^ 36 < 2 ^ 35 := by
    decide +kernel
  have g : ∀ n ∈ [0, 2, 3], writeB (timeS 5) (aTB n + 6) (natW 0) = true := by decide +kernel
  exact ⟨by decide +kernel, written_of (by decide +kernel), fun n m => written_of (g n m), by decide +kernel, by decide +kernel,
    ⟨written_of (by decide +kernel), by decide +kernel⟩, fun d m => ⟨(h d m).1, inv_of (h d m).2.1, (h d m).2.2⟩, by decide +kernel⟩

/-- Bank 18 accessible, with its owner of reset. -/
def b18 : State := opened 18 (regs [])
/-- Bank 18 in STATE `st` under the change `b`. -/
def chgS (st : Nat) (b : BankChange) : State := { ioSetF (regs []) (aBANKOWN 18) 32 3 st with bankChg := [(18, b)] }
/-- Bank 4 with its power off. -/
def offS : State := ioSetB (opened 4 (regs [])) aBANKPWR 4 false
theorem witness_Banks_writes :
    (Inv b18 ∧ WriteTaken b18 0 (aBANKOWN 18) (natW 0xFFFF01) ∧ bankownOk b18 0 0 18 0xFFFF01 = true ∧ bankState b18 18 = 0 ∧
      bankOwner b18 18 = 1) ∧
    (WriteTaken b18 0 (aBANKOWN 18) (natW 1) ∧ bankownOk b18 0 0 18 1 = false) ∧
    (WriteTaken b18 0 (aBANKOWN 18) (natW 0xFFFF1F) ∧ bankownOk b18 0 0 18 0xFFFF1F = true ∧ bits 0xFFFF1F 0 4 ≠ bankOwner b18 18) ∧
    WriteTaken b18 0 (aPART 3) (bitsW 0xFFFFFFFF) ∧
    (ioB (opened 4 (regs [])) aBANKPWR 4 = true ∧ pwrBusy (opened 4 (regs [])) 4 = false ∧
      WriteTaken (opened 4 (regs [])) 0 aBANKPWR (bitsW (setBits (pay (ioGet (opened 4 (regs [])) aBANKPWR)) 4 1 0))) ∧
    (ioB offS aBANKPWR 4 = false ∧ pwrBusy offS 4 = false ∧
      WriteTaken offS 0 aBANKPWR (bitsW (setBits (pay (ioGet offS aBANKPWR)) 4 1 1))) ∧
    (WriteTaken b18 0 aMARCHCTL (withBits (natW 0x72) 0x80 0x100) ∧
      marchRefused b18 18 false = false ∧ bitAt (pay (withBits (natW 0x72) 0x80 0x100)) 5 = true) ∧
    (WriteTaken b18 0 aMARCHCTL (withBits (natW 0x52) 0x80 0x100) ∧ marchRefused b18 18 true = true) ∧
    (WriteTaken (opened 4 (regs [])) 0 aMARCHCTL (withBits (natW 0x44) 0x80 0x100) ∧
      marchRefused (opened 4 (regs [])) 4 true = false ∧ bitAt (pay (withBits (natW 0x44) 0x80 0x100)) 5 = false) ∧
    WriteTaken { b18 with marching := some (18, false) } 0 aMARCHCTL (natW (ioF { b18 with marching := some (18, false) } aMARCHCTL 0 7 + 0x100)) ∧
    (WriteTaken b18 0 aRPCTL (withBits (natW 0x123) 0x1000 0) ∧ ioB b18 aRPCTL 13 = false) ∧
    (WriteTaken (ioSetB b18 aRPCTL 13 true) 0 aRPCTL (withBits (natW 0x123) 0x1000 0) ∧
      ioB (ioSetB b18 aRPCTL 13 true) aRPCTL 13 = true) :=
  ⟨⟨inv_of (by decide +kernel), written_of (by decide +kernel), by decide +kernel⟩, ⟨written_of (by decide +kernel), by decide +kernel⟩,
    ⟨written_of (by decide +kernel), by decide +kernel⟩, written_of (by decide +kernel),
    ⟨by decide +kernel, by decide +kernel, written_of (by decide +kernel)⟩,
    ⟨by decide +kernel, by decide +kernel, written_of (by decide +kernel)⟩, ⟨written_of (by decide +kernel), by decide +kernel⟩,
    ⟨written_of (by decide +kernel), by decide +kernel⟩, ⟨written_of (by decide +kernel), by decide +kernel⟩,
    written_of (by decide +kernel), ⟨written_of (by decide +kernel), by decide +kernel⟩,
    ⟨written_of (by decide +kernel), by decide +kernel⟩⟩

theorem witness_Banks_events :
    (bankState (chgS 4 ⟨0, false, false⟩) 18 = 4 ∧ bankChgOf (chgS 4 ⟨0, false, false⟩) 18 = some ⟨0, false, false⟩) ∧
    (bankState (chgS 2 ⟨1, false, false⟩) 18 = 2 ∧ bankChgOf (chgS 2 ⟨1, false, false⟩) 18 = some ⟨1, false, false⟩) ∧
    (bankOwner b18 18 ≠ 0 ∧ bankState b18 18 = 0 ∧ 18 ∉ b18.nearLease) ∧
    (bankOwner State.reset 0 = 0 ∧ 1 < bankState State.reset 18) ∧
    (bankOwner State.reset 16 = 9 ∧ ¬ 11 ∈ State.reset.islReset ∧ clamping State.reset 16 = false ∧ bankOwner State.reset 15 = 11) ∧
    (bankState State.reset 4 = 2 ∧ bankChgOf State.reset 4 = none ∧ wakeKeeps { State.reset with straps := 0 } = false ∧
      bankOwner State.reset 4 = 0) ∧
    wakeKeeps (ios { State.reset with straps := 1 } [(aRSTCAUSE, natW 1)]) = true ∧
    (marchEnd { b18 with marching := some (18, false) } 18 [(3, 255)]).marching = none ∧
    ({ b18 with repairing := some (0, 0, 5, 0) }).repairing = some (0, 0, 5, 0) := by decide +kernel

/-! ## Witnesses: rings, sessions, opcodes -/

/-- A state with some BAR0 registers written. -/
def bars (s : State) (l : List (Nat × Nat)) : State := l.foldl (fun s p => barPut s p.1 p.2) s
/-- Rings 255 enabled, of 16 places, the submission ring an admin ring with 3 entries to fetch and an entry timeout, window 0 on;
HL up, its link awake; an entry of ring 255 in the dispatcher's hands. -/
def ringS : State :=
  bars { ios (regs []) [(aREADYMAP, bitsW 4), (aDEVMODE, natW 0)] with
      entries := [⟨255, 9, List.replicate 8 (natW 0), .taken, some 0, none⟩, ⟨63, 2, [natW 0], .fetched, none, none⟩] }
    [(bSQ 255 8, 0xFF89), (bSQ 255 12, 100), (bSQ 255 0x18, 3), (bCQ 255 8, 9), (bHWIN 0 0, 0x100000000), (bHWIN 0 8, 0x100000FFF),
     (bHWIN 0 0x10, 0x5000), (bHWIN 0 0x18, 1)]
theorem witness_HostEvents :
    (barB (hostActive State.reset) (bSQ 255 8) 0 = false ∧ barB (hostActive State.reset) (bCQ 255 8) 0 = false) ∧
    (barB (hostActive ringS) (bSQ 255 8) 0 = true ∧ barB (hostActive ringS) (bCQ 255 8) 0 = true ∧
      2 ^ barF (hostActive ringS) (bSQ 255 8) 1 5 = 16) ∧
    (barF ringS (bSQ 255 12) 0 16 ≠ 0 ∧ (entryOf ringS 255 9).map (·.st) = some .taken ∧ barF State.reset (bSQ 255 12) 0 16 ≠ 0 ∧
      barF (bars State.reset [(bSQ 255 12, 0)]) (bSQ 255 12) 0 16 = 0) ∧
    (ringS.spool = [] ∧ ringS.hlOff = false ∧ ioB (ios ringS [(aMODECAUSE, natW 0)]) aMODECAUSE 1 = false) ∧
    (ringS.refLost = false ∧ 11 ∉ ringS.islReset ∧ { ringS with alive := true }.alive = true ∧
      { ringS with hlOff := true }.hlOff = true) := by decide +kernel

theorem witness_RingEntries :
    (min (min 0 4) (fetchRoom ringS 255) = 0 ∧ min (min 9 4) (fetchRoom ringS 255) = 3) ∧
    (let s := { ringS with entries := [readingEntry 255, readingEntry 255] }
     (s.entries.filter fun e => e.q == 255 && decide (e.st = EntrySt.reading)).length =
      [List.replicate 8 0#64, List.replicate 8 0#64].length ∧ s.acQ = []) ∧
    (WriteTaken ringS 0 0x050040 (natW 63) ∧
      (takeFind (setCore ringS 0 (workFree (coreOf ringS 0))) 63).isSome = true ∧
      WriteTaken State.reset 0 0x050040 (natW 63) ∧
      takeFind (setCore State.reset 0 (workFree (coreOf State.reset 0))) 63 = none) ∧
    WriteTaken ringS 0 0x050040 (natW 64) ∧
    (let s := modCore (opened 16 ringS) 0 fun k => { k with workRun := some ⟨255, 9, List.replicate 8 (natW 0), false⟩ }
     (coreOf s 0).workRun.isSome = true ∧ (coreOf s 0).workFull = false ∧ bankOwner s 16 = 9 ∧ bankState s 16 = 0) ∧
    (let s := opened 12 { bars (ios ringS [(aDEVMODE, natW 0)]) [(bLRING 8, 9), (bLRING 0x10, 0)] with
      ledger := { Ledger.reset with recs := [⟨0, [natW 1], some 0, false, false⟩] } }
     drainOk (lringLeave s) = true ∧ (drainNext (lringLeave s)).isSome = true) ∧
    drainOk (lringLeave State.reset) = false ∧ barRo 0x4810 = false ∧ (List.range 0x5000).any barRo = true := by
  have h : takeFind (setCore State.reset 0 (workFree (coreOf State.reset 0))) 63 = none := by decide +kernel
  exact ⟨by decide +kernel, by decide +kernel, ⟨written_of (by decide +kernel), by decide +kernel, written_of (by decide +kernel),
    h⟩, written_of (by decide +kernel), by decide +kernel, by decide +kernel, by decide +kernel, by decide +kernel,
    by decide +kernel⟩

/-- An entry of ring 255 that core 0 works on: OPCODE, BUFFER word, cookie 0 and the parameters, for session 5. -/
def work (op p3 p5 p6 p7 : Nat) : Work :=
  ⟨255, 9, [natW op, mkW .session (5 + 2 ^ 20), natW 0, natW p3, natW 0, natW p5, natW p6, natW p7], false⟩
/-- `ringS` with that entry in core 0's work slot and session 5 open in way `way`; MODE clear, HL alive. -/
def workS (op p3 p5 p6 p7 : Nat) (way : Option Nat) : State :=
  { modCore (ios ringS [(aDEVMODE, natW 0)]) 0 fun k => { k with
      workRun := some (work op p3 p5 p6 p7)
      workFull := true } with
    alive := true
    sess := [(5, { Session.reset with
      opened := true
      way := way })] }
/-- `InWork` on core 0, decided. -/
def inWorkB (s : State) (w : Work) (op : Nat) : Bool :=
  decide ((coreOf s 0).workRun = some w) && coreState s 0 == 0 && !(coreOf s 0).halted && (coreOf s 0).ring == 0 &&
  decide ((coreOf s 0).home = none) && ((coreOf s 0).workFull || w.held) && w.op == op
theorem inWork_of {s : State} {w : Work} {op : Nat} (h : inWorkB s w op = true) : InWork s 0 w op := by
  simp only [inWorkB, Bool.and_eq_true, decide_eq_true_eq, beq_iff_eq, Bool.not_eq_true', Bool.or_eq_true] at h
  obtain ⟨⟨⟨⟨⟨⟨h1, h2⟩, h3⟩, h4⟩, h5⟩, h6⟩, h7⟩ := h
  exact ⟨h1, h2, h3, h4, h5, h6, h7⟩

/-- A buffer of 24 bytes or words in window 0. -/
def p24 : Nat := 24 * 256
/-- A core in ring 0 behind gate `n`, with words in i0 to i3. -/
def gateN (n : Nat) (a b : Word) : State := modCore (opened 4 { workS 0 0 0 0 0 (some 0) with
    mem := [(0x40100, linkW 0x20008#20), (0x40101, natW (6 * 2 ^ 32 + 4 * n)), (0x40102, natW 0), (0x40103, addrW 0)] }) 0
  fun k => { k with
    tsp := [(0, addrW 0x40100)]
    workRun := none
    regs := regsAll k.cur [(8, a), (9, b), (10, natW 0), (11, natW 0)] k.regs }
theorem witness_SessionOpcodes_open :
    (InWork (workS 1 p24 0 0 0 none) 0 (work 1 p24 0 0 0) 1 ∧ modeBit (workS 1 p24 0 0 0 none) 7 = false ∧
      sessRefused (workS 1 p24 0 0 0 none) = false ∧ (work 1 p24 0 0 0).len = 24 ∧
      (work 1 p24 0 0 0).bufOk (workS 1 p24 0 0 0 none) (byteWords 24) = true ∧ bufFault (workS 1 p24 0 0 0 none) 0 false = none ∧
      (findHome (workS 1 p24 0 0 0 none)).isSome = true ∧
      (workRec (dispCipher (bufRead (workS 1 p24 0 0 0 none) 0 0 6) 0 1 0) 0 (work 1 p24 0 0 0) 0x020 (natW 0) 0).isSome = true) ∧
    (modeBit (ios (workS 1 p24 0 0 0 none) [(aDEVMODE, natW 0x80)]) 7 = true ∧
      InWork (ios (workS 1 p24 0 0 0 none) [(aDEVMODE, natW 0x80)]) 0 (work 1 p24 0 0 0) 1) ∧
    (InWork (workS 2 0 0 0 0 (some 0)) 0 (work 2 0 0 0 0) 2 ∧ handleNamed (workS 2 0 0 0 0 (some 0)) (work 2 0 0 0 0).handle = true ∧
      sessBusy (workS 2 0 0 0 0 (some 0)) (work 2 0 0 0 0).handle = false ∧
      (workRec (workS 2 0 0 0 0 (some 0)) 0 (work 2 0 0 0 0) 0x021 (work 2 0 0 0 0).handle 0).isSome = true ∧
      handleNamed ringS (work 2 0 0 0 0).handle = false) ∧
    (let s := { ios (workS 0 0 0 0 0 none) [(aCTXKEY, mkW .keyref 1), (aCIPHCAP, natW 1)] with
      sess := [(5, { Session.reset with
        opened := true
        cold := some 0 })] }
     coreState s 0 = 0 ∧ (sessOf s 5).opened = true ∧ (sessOf s 5).failed = false ∧ (sessOf s 5).way = none ∧
      (sessOf s 5).cold = some 0 ∧ coldOk s = true ∧ setTakes s true 5 = true ∧ (freeWay (makeWay s 5) 5).isSome = true ∧
      reloadOk s 5 [natW (5 + 2 ^ 20), natW 0, natW 0] 0 0 = true ∧ reloadOk s 5 [] 0 0 = false) :=
  ⟨⟨inWork_of (by decide +kernel), by decide +kernel⟩, ⟨by decide +kernel, inWork_of (by decide +kernel)⟩,
    ⟨inWork_of (by decide +kernel), by decide +kernel⟩, by decide +kernel⟩
theorem witness_SessionOpcodes_use :
    (InWork (workS 3 p24 0 0 0 (some 0)) 0 (work 3 p24 0 0 0) 3 ∧ sessBad (workS 3 p24 0 0 0 (some 0)) (work 3 p24 0 0 0).handle = none ∧
      sessBusy (workS 3 p24 0 0 0 (some 0)) (work 3 p24 0 0 0).handle = false ∧ (sessOf (workS 3 p24 0 0 0 (some 0)) 5).way ≠ none ∧
      handleIdx (work 3 p24 0 0 0).handle = 5 ∧ sendFull (workS 3 p24 0 0 0 (some 0)) 0 = false ∧
      (work 3 p24 0 0 0).len = (List.replicate 24 0#8).length ∧ (sessBad ringS (work 3 p24 0 0 0).handle).isSome = true) ∧
    (InWork (workS 4 p24 0 0 0 (some 0)) 0 (work 4 p24 0 0 0) 4 ∧
      (work 4 p24 0 0 0).bufOk (workS 4 p24 0 0 0 (some 0)) (byteWords (work 4 p24 0 0 0).len) = true) ∧
    (let s := { modCore (workS 4 0 0 0 0 (some 0)) 0 workClear with
      waits := [⟨0, 255, 9, (work 4 256 0 0 0).words, none, none, 0⟩] }
     (coreOf s 0).workRun = none ∧ (waitFind s 0 4).map (·.work.len) = some 1) ∧
    (let s := ios (workS 7 0 16 0 0 (some 0)) [(aRINGLIM 1, natW 0x4000), (aENTRY 16, linkW 0x20008#20)]
     InWork s 0 (work 7 0 16 0 0) 7 ∧ handlerReady s 0 = true ∧ (entryTarget s 16).isSome = true ∧ entryTarget s 255 = none ∧
      (workRec s 0 (work 7 0 16 0 0) 0x025 (work 7 0 16 0 0).handle 16).isSome = true) ∧
    (let s := ios (workS 255 0 0 0 0 (some 0)) [(aRINGLIM 1, natW 0x4000), (aENTRY 255, linkW 0x20008#20)]
     InWork s 0 (work 255 0 0 0 0) 255 ∧ handlerReady s 0 = true ∧ (entryTarget s 255).isSome = true ∧
      (workRec s 0 (work 255 0 0 0 0) 0x025 (work 255 0 0 0 0).handle 255).isSome = true) ∧
    ((gateFrame (gateN 253 (natW 0) (natW 0)) 0 253).isSome = true ∧ wtag (inReg (gateN 253 (natW 0) (natW 0)) 0 0) ≠ .keyref ∧
      wtag (inReg (gateN 253 (mkW .keyref 0) (natW 0)) 0 0) = .keyref ∧ wtag (inReg (gateN 253 (mkW .keyref 0) (natW 0)) 0 3) = .nat) ∧
    (let s := gateN 254 (mkW .session (5 + 2 ^ 20)) (natW 1)
     (gateFrame s 0 254).isSome = true ∧ wtag (inReg s 0 0) = .session ∧ inReg s 0 1 = natW 1 ∧ sessBad s (inReg s 0 0) = none ∧
      (sessOf s (handleIdx (inReg s 0 0))).way ≠ none ∧ (sessOf s (handleIdx (inReg s 0 0))).busy = none) ∧
    (gateFrame (gateN 255 (natW 0) (natW 0)) 0 255).isSome = true :=
  ⟨⟨inWork_of (by decide +kernel), by decide +kernel⟩, ⟨inWork_of (by decide +kernel), by decide +kernel⟩, by decide +kernel,
    ⟨inWork_of (by decide +kernel), by decide +kernel⟩, ⟨inWork_of (by decide +kernel), by decide +kernel⟩, by decide +kernel,
    by decide +kernel, by decide +kernel⟩

/-- `workS` with a paired dovetail. -/
def pairW (op p3 p5 p6 p7 : Nat) : State := ioSetB (workS op p3 p5 p6 p7 (some 0)) aDVSTAT 0 true
/-- `workS` for a session that is hot. -/
def hotW (op p3 p5 p6 p7 : Nat) : State := workS op p3 p5 p6 p7 (some 0)
theorem witness_DeviceOpcodes :
    InWork (hotW 0 0 0 0 0) 0 (work 0 0 0 0 0) 0 ∧
    (InWork (hotW 5 p24 (12 * 256) 0 0) 0 (work 5 p24 (12 * 256) 0 0) 5 ∧ (work 5 p24 (12 * 256) 0 0).samples = 12 ∧
      (work 5 p24 (12 * 256) 0 0).len = 24 ∧ (work 5 p24 (12 * 256) 0 0).bufOk (hotW 5 p24 (12 * 256) 0 0) 24 = true) ∧
    (let s := { modCore (hotW 0 0 0 0 0) 0 workClear with
      waits := [⟨0, 255, 9, (work 5 p24 (3 * 256) 0 0).words, none, none, 1⟩] }
     (coreOf s 0).workRun = none ∧ (waitFind s 0 5).map (fun x => (x.count, x.work.samples)) = some (1, 3) ∧
      bufFault s 0 true = none) ∧
    (InWork (pairW 6 0 1 1 0) 0 (work 6 0 1 1 0) 6 ∧ dvPaired (pairW 6 0 1 1 0) = true ∧ sendFull (pairW 6 0 1 1 0) 0 = false ∧
      (workRec (pairW 6 0 1 1 0) 0 (work 6 0 1 1 0) 0x024 (work 6 0 1 1 0).handle 1).isSome = true ∧
      dvPaired (hotW 6 0 1 1 0) = false) ∧
    (InWork (hotW 8 (32 * 256) 0 1 0) 0 (work 8 (32 * 256) 0 1 0) 8 ∧ (work 8 (32 * 256) 0 1 0).len = 32 ∧
      (work 8 (32 * 256) 0 1 0).bufOk (hotW 8 (32 * 256) 0 1 0) 32 = true) ∧
    (InWork (hotW 9 p24 0 0 0) 0 (work 9 p24 0 0 0) 9 ∧ (work 9 p24 0 0 0).admin (hotW 9 p24 0 0 0) = true ∧
      modeBit (hotW 9 p24 0 0 0) 7 = false ∧ (work 9 p24 0 0 0).bufOk (hotW 9 p24 0 0 0) 24 = true ∧
      (hotW 9 p24 0 0 0).shimBusy = none ∧ waitFind (hotW 9 p24 0 0 0) 0 9 = none ∧ (work 9 p24 0 0 0).admin State.reset = false ∧
      modeBit (ios (hotW 9 p24 0 0 0) [(aDEVMODE, natW 128)]) 7 = true) ∧
    ({ State.reset with shimBusy := some ([], 0) }.shimBusy = some ([], 0)) ∧
    (InWork (hotW 0xB 0 0 0 0) 0 (work 0xB 0 0 0 0) 0xB ∧ (work 0xB 0 0 0 0).len < 4 ∧ InWork (hotW 0xB 0 1 0 0) 0 (work 0xB 0 1 0 0) 0xB ∧
      bitAt ((work 0xB 0 1 0 0).p 5) 0 = true ∧ tbGet (hotW 0xB 0 1 0 0) 0 ≤ 0) ∧
    (InWork (hotW 0xC 0 4 0 0) 0 (work 0xC 0 4 0 0) 0xC ∧ InWork (hotW 0xC 0 0x104 60000 0) 0 (work 0xC 0 0x104 60000 0) 0xC ∧
      configOk 4 60000 = true ∧ poolMoves (hotW 0xC 0 0x104 60000 0) 4 60000 0 = false) ∧
    (InWork (hotW 0xD 0 0x5000 0 0) 0 (work 0xD 0 0x5000 0 0) 0xD ∧ (work 0xD 0 0x5000 0 0).p 5 / 256 % 256 &&& 0x50 = 0x50) ∧
    (InWork (hotW 0xE 0 (63 + 512) 0 0) 0 (work 0xE 0 (63 + 512) 0 0) 0xE ∧
      (entryOf (hotW 0xE 0 (63 + 512) 0 0) 63 2).map (·.st) = some .fetched ∧ entryOf (hotW 0xE 0 0 0 0) 0 0 = none ∧
      InWork (hotW 0xE 0 0 0 0) 0 (work 0xE 0 0 0 0) 0xE) :=
  ⟨inWork_of (by decide +kernel), ⟨inWork_of (by decide +kernel), by decide +kernel⟩, by decide +kernel,
    ⟨inWork_of (by decide +kernel), by decide +kernel⟩, ⟨inWork_of (by decide +kernel), by decide +kernel⟩,
    ⟨inWork_of (by decide +kernel), by decide +kernel⟩, by decide +kernel,
    ⟨inWork_of (by decide +kernel), by decide +kernel, inWork_of (by decide +kernel), by decide +kernel⟩,
    ⟨inWork_of (by decide +kernel), inWork_of (by decide +kernel), by decide +kernel⟩,
    ⟨inWork_of (by decide +kernel), by decide +kernel⟩,
    ⟨inWork_of (by decide +kernel), by decide +kernel, by decide +kernel, inWork_of (by decide +kernel)⟩⟩

/-- The SERVICE entries: action, BUFFER word, p6 and p7. -/
def services : List (Nat × Nat × Nat × Nat) :=
  [(1, 0, 31, 0), (2, 0, 31, 0), (3, 0, 0, 31), (4, 0, 31, 1), (5, 0, 0, 0), (6, 1024 * 256, 0, 0), (7, p24, 0, 0), (8, 0, 7, 1),
   (9, 32 * 256, 0, 0), (10, 0, 0, 0), (11, 0, 7, 0), (11, 0, 8, 0)]
theorem witness_ServiceActions :
    (∀ p ∈ services, InService (pairW 0xA p.2.1 p.1 p.2.2.1 p.2.2.2) 0 (work 0xA p.2.1 p.1 p.2.2.1 p.2.2.2) p.1 ∧
      (work 0xA p.2.1 p.1 p.2.2.1 p.2.2.2).p 6 = p.2.2.1 ∧ (work 0xA p.2.1 p.1 p.2.2.1 p.2.2.2).p 7 = p.2.2.2 ∧
      (work 0xA p.2.1 p.1 p.2.2.1 p.2.2.2).bufOk (pairW 0xA p.2.1 p.1 p.2.2.1 p.2.2.2) (p.2.1 / 256) = true) ∧
    (let s := pairW 0xA 0 11 7 0
     7 ≠ s.carrier / 4 ∧ clusterOnNow s 7 = true ∧ 7 ∉ s.islReset ∧ s.repairing = none ∧ anch s = 0 ∧ sendFull s 0 = false ∧
      dvPaired (hotW 0xA 0 11 7 0) = false ∧ dvPaired s = true ∧ bufFault s 0 true = none ∧ bufFault s 0 false = none ∧
      spliceAnswer s 0 31 ≠ 0 ∧ spliceAnswer (ios s [(priv 31 oCORESTAT, natW 5)]) 0 31 = 0) ∧
    (work 0xA 0 1 0 0).admin (bars (hotW 0xA 0 1 0 0) [(bSQ 255 8, 0xFF09)]) = false ∧
    modeBit (ios (hotW 0xA 0 1 0 0) [(aDEVMODE, natW 128)]) 7 = true := by
  have h : ∀ p ∈ services, inWorkB (pairW 0xA p.2.1 p.1 p.2.2.1 p.2.2.2) (work 0xA p.2.1 p.1 p.2.2.1 p.2.2.2) 0xA = true ∧
      ((work 0xA p.2.1 p.1 p.2.2.1 p.2.2.2).p 5 = p.1 ∧
        (work 0xA p.2.1 p.1 p.2.2.1 p.2.2.2).admin (pairW 0xA p.2.1 p.1 p.2.2.1 p.2.2.2) = true ∧
        modeBit (pairW 0xA p.2.1 p.1 p.2.2.1 p.2.2.2) 7 = false) ∧
      (work 0xA p.2.1 p.1 p.2.2.1 p.2.2.2).p 6 = p.2.2.1 ∧ (work 0xA p.2.1 p.1 p.2.2.1 p.2.2.2).p 7 = p.2.2.2 ∧
      (work 0xA p.2.1 p.1 p.2.2.1 p.2.2.2).bufOk (pairW 0xA p.2.1 p.1 p.2.2.1 p.2.2.2) (p.2.1 / 256) = true := by
    decide +kernel
  exact ⟨fun p m => ⟨⟨inWork_of (h p m).1, (h p m).2.1⟩, (h p m).2.2⟩, by decide +kernel, by decide +kernel, by decide +kernel⟩

/-- A job of function 2 of core 0 on 4 bytes in bank 18, in work at the engine. -/
def jobJ (f : Nat) : Job :=
  { ring := 0, func := f, len := 4, key := 0, block := 0x120000, words := [], inA := 0x120010, outA := 0x120020, aadA := 0x120030,
    aadLen := 0, tagLen := 0, ivLen := 0, outN := 0, detail := 0, fault := false, atEng := true, core := 0 }
/-- That job under the numbers of core 31, of the ledger engine and of debug, bank 18 accessible or not. -/
def jobS (ok : Bool) : State :=
  { (if ok then memPut (opened 18 (regs [])) 0x120010 (natW 7) else regs []) with
    jobs := [(31, jobJ 2), (32, jobJ 9), (33, jobJ 10)]
    alive := true }
/-- Anchoring at hand: paired, keyed, a valid mirror of epoch `e`, the OTP epoch `o`. -/
def anchS (e o : Nat) : State :=
  ios (ioSetF { opened 12 (opened 13 (opened 14 (opened 15 (regs [])))) with alive := true } aDVSTAT 0 4 1) [(aLEDGKEY, mkW .keyref 1), (aSHADOW (fLANCH 1), natW 4096),
    (aSHADOW (fLANCH 10), natW e), (aSHADOW fEPOCH, natW o)]
theorem witness_EngineEvents :
    ((jobOf (jobS true) 31).map (·.atEng) = some true ∧ jobOf (jobS true) 30 = none ∧ (jobOf (jobS true) 32).map (·.atEng) = some true ∧
      jobOf State.reset 32 = none) ∧
    (readArea (jobJ 2) .input = some (0x120010, 4) ∧ areaOk (jobS true) (jobJ 2) false 0x120010 4 = true ∧
      areaTags (jobS true) 0x120010 4 = true ∧ areaOk (jobS false) (jobJ 2) false 0x120010 4 = false ∧ readArea (jobJ 2) .iv = none ∧
      outLimit (jobS true) (jobJ 2) = 4 ∧ areaOk (jobS true) (jobJ 2) true 0x120020 4 = true) ∧
    (let s := { jobS true with locked := [aCIPHCAP] }
     s.alive = true ∧ aCIPHCAP ∈ s.locked ∧ cipherValid s = false ∧ aCIPHCAP ∉ (jobS true).locked) ∧
    (∀ p ∈ [(4095, 4095), (0, 0), (0, 4094)], let s := anchS p.1 p.2
     dvPaired s = true ∧ ioB s aDVSTAT 3 = false ∧ ledgKeyed s = true ∧ anch s = 0 ∧ spoolFree (spoolRoom s) ≠ none ∧
      otpEpoch s = p.2 ∧ mirrorValid s = true ∧ mirrorEpoch s = p.1 ∧ s.ledger.anchorFrom = none) ∧
    (WriteTaken (regs []) 0 aLEDGKEY (mkW .keyref 2) ∧ ledgKeyed (regs []) = false ∧
      WriteTaken (anchS 0 0) 0 aLEDGKEY (mkW .keyref 2) ∧ anch (ioSetF (anchS 0 0) aLEDGSTAT 0 2 1) = 1) ∧
    (let s := { ios (opened 18 (regs [])) [(aLEDGAREA, addrW 0x120000), (aCIPHCAP, natW 1), (aLEDGKEY, mkW .keyref 1)] with
      ledger := { Ledger.reset with seals := [⟨5, []⟩] } }
     WriteTaken s 0 0x030008 (mkW .seal 5) ∧ proveOk s 0 0 0x120000 = true ∧ pay (ioGet s aLEDGAREA) = 0x120000 ∧
      cipherValid s = true ∧ ledgKeyed s = true ∧ s.ledger.seals.map (·.id) = [5]) :=
  ⟨by decide +kernel, by decide +kernel, by decide +kernel, by decide +kernel,
    ⟨written_of (by decide +kernel), by decide +kernel, written_of (by decide +kernel), by decide +kernel⟩,
    written_of (by decide +kernel), by decide +kernel⟩

/-! ## Witnesses: debug, modes, surroundings -/

/-- A TAP session of level `l` on lines of ring 2, core 0 halted or not, bank 18 accessible and not the keeper's. -/
def dbgS (l : Nat) (halted : Bool) : State :=
  { modCore (ios (opened 18 (opened 4 (ioS 2 0 (natW 0)))) [(aDBGSTAT, natW (2 + 4 * l + 16)), (aDEVMODE, natW (2 ^ 14)),
      (aDBGKEY 3, mkW .keyref 1)]) 0 fun k => { k with halted := halted } with alive := true }
theorem witness_DebugPort_ops :
    Inv (dbgS 3 false) ∧
    (dbgReady { dbgS 3 false with alive := false } true = false ∧ dbgReady (dbgS 3 false) true = true ∧
      (∀ l ∈ [0, 1, 2, 3], dbgLevel (dbgS l false) true = l) ∧ openRefused (dbgS 3 false) true 3 = true ∧
      openRefused (ios (dbgS 3 false) [(aDBGSTAT, natW 0)]) true 3 = false ∧ dbgAttached (dbgS 3 false) = true ∧
      ioB (dbgS 3 false) aDBGSTAT 4 = true ∧ dbgAttached (ios (dbgS 3 false) [(aDBGSTAT, natW 0)]) = false) ∧
    (isBank 0x40000 = true ∧ bankKeeper (dbgS 3 false) 4 = true ∧ isBank 0x120000 = true ∧ bankKeeper (dbgS 3 false) 18 = false ∧
      bankState (dbgS 3 false) 18 = 0 ∧ isSecret (memGet (dbgS 3 false) 0x120000) = false ∧ dbgTag .poison = false ∧ dbgTag .nat = true) ∧
    (let a := priv 0 oRSDEPTH
     dbgNoReg a = false ∧ isPatch a = false ∧ (regInfo 32 a).isSome = true ∧ isBrk a = false ∧
      ((regInfo 32 a).map fun i => bitAt i.rd 1 && bitAt i.rd 2) = some true ∧
      ((regInfo 32 a).bind fun i => i.wr.map fun r => bitAt r 2) = some true ∧ ioIslandOff (dbgS 3 false) a = false ∧
      isSecret (ioValue (dbgS 3 false) 32 a) = false ∧ ioExtraPriv 2 a (natW 0) = false ∧ ioTag a .nat = true) ∧
    (lineAbsent (lineOf 0x20000#20) = false ∧ lineRing (dbgS 3 false) (lineOf 0x20000#20) = 2 ∧
      lineRing State.reset (lineOf 0x20000#20) = 0 ∧ lineWritable (lineOf 0x20000#20) = true) ∧
    ((coreOf (dbgS 3 true) 0).halted = true ∧ (coreOf (dbgS 3 false) 0).halted = false ∧
      isSecret (regRead (coreOf (dbgS 3 true) 0) 31) = false ∧ isSecret (crRead (dbgS 3 true) 0 21) = false) :=
  ⟨inv_of (by decide +kernel), by decide +kernel, by decide +kernel, by decide +kernel, by decide +kernel, by decide +kernel⟩

/-- A challenge out at the TAP, with an engine. -/
def askedS (verify : Bool) : State :=
  { ios (regs []) [(aCIPHCAP, natW 1)] with
    alive := true
    dbg := { State.reset.dbg with
      asked := some (3, true)
      verify := verify } }
/-- Core 0 asked to halt in lines of ring 1, with DBGBRK3 at its place. -/
def haltS (req : Bool) : State :=
  ios (modCore (ioS 1 0 (natW 0)) 0 fun k => { k with haltReq := req }) [(priv 0 (oDBGBRK 3), natW (0x20000 + 2 ^ 20))]
theorem witness_DebugPort_own :
    ((askedS false).alive = true ∧ (askedS false).dbg.asked = some (3, true) ∧ (askedS false).dbg.verify = false ∧
      cipherValid (askedS false) = true ∧ jobOf (askedS false) 33 = none ∧ (askedS true).dbg.verify = true ∧
      (jobOf (jobS true) 33).map (·.atEng) = some true) ∧
    (haltAt (haltS true) 0 = true ∧ (coreOf (haltS true) 0).haltReq = true ∧ haltAt (haltS false) 0 = true ∧
      (coreOf (haltS false) 0).haltReq = false ∧
      pay (ioGet (haltS false) (priv 0 (oDBGBRK 3))) % 2 ^ 20 = (coreOf (haltS false) 0).mpc.toNat ∧
      bitAt (pay (ioGet (haltS false) (priv 0 (oDBGBRK 3)))) 20 = true ∧
      bitAt (pay (ioGet (haltS false) (priv 0 (oDBGBRK 3)))) 21 = false) ∧
    (dbgLevel (dbgS 3 false) true = 3 ∧ dbgLevel (dbgS 2 false) true ≠ 3) := by decide +kernel

/-- Mode bits `m`, core 1 parked as a spare, the carrier core 0, `thrifty` cores of cluster 7 parked. -/
def modeS (m idle : Nat) : State :=
  ios { regs [] with alive := true } [(aDEVMODE, natW m), (priv 1 oCORESTAT, natW 5), (aMODECFG, natW 0),
    (priv 28 oCORESTAT, natW idle), (priv 29 oCORESTAT, natW idle), (priv 30 oCORESTAT, natW idle), (priv 31 oCORESTAT, natW idle)]
theorem witness_ModeEvents :
    (clusterOnNow (modeS 8 1) 7 = true ∧ clusterKept (modeS 8 1) 7 = false ∧ 7 ∉ (modeS 8 1).islReset ∧
      clusterIdle (modeS 8 1) 7 = true ∧ clusterIdle (modeS 8 0) 7 = false) ∧
    (modeBit (modeS 4 1) 2 = true ∧ coreState (modeS 4 1) 0 = 0 ∧ ioF (modeS 4 1) (priv 1 oCORESTAT) 0 3 = 5 ∧
      clusterOnNow (modeS 4 1) 0 = true ∧ modeBit (modeS 8 1) 2 = false) ∧
    (ioB (ios (modeS 4 1) [(aMODESTAT, natW 1024)]) aMODESTAT 10 = true ∧ ioB (modeS 4 1) aMODESTAT 9 = false) ∧
    ((∀ i ∈ [0, 8, 9, 12, 13], i ∉ (modeS 4 1).islReset) ∧ ∃ i ∈ [0, 8, 9, 12, 13], i ∈ { modeS 4 1 with islReset := [13] }.islReset) ∧
    (WriteTaken (regs []) 0 0x24 (natW 63) ∧ WriteTaken (regs []) 0 0x24 (natW 95)) ∧
    (let s := ios (modeS 4 1) [(priv 31 oCORESTAT, natW 2)]
     coreState s 31 = 2 ∧ (coreOf s 31).test = 0 ∧ thirdKerf s 31 = false) ∧
    (let s := modCore (ios (modeS 4 1) [(priv 31 oCORESTAT, natW 2)]) 31 fun k => { k with
      kerfTimes := [0, 5, 10]
      test := 2 }
     coreState s 31 = 2 ∧ thirdKerf s 31 = true ∧ testOf s 31 = 2 ∧ testOf s 0 = 0) ∧
    (let s := { modeS 4 1 with splice := some (0, 1, 0, none) }
     stopPoint s 0 = true ∧ stopPoint { setCore s 0 { coreOf s 0 with wait := .lng } with splice := s.splice } 0 = false) ∧
    (let s := { modeS 4 1 with splice := some (0, 1, 1, none) }
     s.splice = some (0, 1, 1, none) ∧ ioF s (priv 1 oCORESTAT) 0 3 = 5 ∧ coreState s 0 = 0) :=
  ⟨by decide +kernel, by decide +kernel, by decide +kernel, by decide +kernel,
    ⟨written_of (by decide +kernel), written_of (by decide +kernel)⟩, by decide +kernel, by decide +kernel, by decide +kernel,
    by decide +kernel⟩

theorem witness_SurroundingEvents :
    (hlUp (ios State.reset [(aREADYMAP, bitsW 4)]) = true ∧ hlUp State.reset = false) ∧
    ((modeS 0 1).alive = true ∧ (modeS 0 1).refLost = false ∧ { modeS 0 1 with refLost := true }.refLost = true ∧
      11 ∉ (modeS 0 1).islReset ∧ 13 ∈ { modeS 0 1 with islReset := [13] }.islReset) ∧
    (ioF (modeS 0 1) (aISLENV 0) 16 8 ≤ vmaxOf (modeS 0 1) 0 ∧ vmaxOf (modeS 0 1) 0 < 255) ∧
    (7 ∉ (modeS 0 1).clOff ∧ 7 ∉ (modeS 0 1).islReset) ∧
    (let s := modeS 0 1
     let v := ioF s (aISLSTAT 13) 8 8
     voltSoft (ioSetF s (aSENSSTAT 13) 0 16 (v + 256 * 9)) 13 v = false ∧ tempSoft (ioSetF s (aSENSSTAT 13) 0 16 (v + 256 * 9)) 13 9 = false ∧
      voltHard (ioSetF s (aSENSSTAT 13) 0 16 (v + 256 * 9)) 13 v = false) ∧
    (let s := modeS 0 1
     let v := ioF s (aISLSTAT 13) 8 8 + 7
     let t := ioSetF s (aSENSSTAT 13) 0 16 (v + 256 * 9)
     ioF s (aSENSSTAT 13) 0 16 = 0 ∧ voltSoft t 13 v = true ∧ voltHard (sensCross t 13 16) 13 v = false ∧
      tempSoft (sensCross t 13 16) 13 9 = false) := by decide +kernel

/-! ## Witnesses: the dovetail and the field die -/

/-- Both ends paired, FS ready, MX ready, every group and port ready. -/
def pairS : State :=
  flds { modField (ioSetF (regs []) aDVSTAT 0 4 1) fun f => { f with
      up := true
      paired := true } with alive := true } [(2, 2 ^ 22 - 1)]
/-- The field die up and not paired. -/
def aloneS : State := modField { pairS with dov := { pairS.dov with replied := true } } fun f => { f with
  paired := false
  nf := some 5#36 }
theorem witness_DovetailLink :
    (dhHears pairS = true ∧ dfHears pairS = true ∧ dvTag (wtag (natW 2)) = true ∧ dvTag (wtag (natW (2 ^ 35))) = true ∧
      dvTag (wtag (addrW 0)) = false ∧ dhHears State.reset = false) ∧
    (dvPaired pairS = true ∧ pairS.field.paired = true ∧ pairS.field.up = true ∧ dvPaired State.reset = false ∧ pairS.alive = true ∧
      3 ∉ pairS.dh.lanes ∧ 3 ∉ pairS.df.lanes ∧ State.reset.field.up = false) ∧
    (let s := ios { State.reset with alive := true } [(aPAIRKEY, mkW .keyref 1), (aCIPHCAP, natW 1), (aREADYMAP, bitsW 8)]
     dvPaired s = false ∧ pairReady s = true) ∧
    (aloneS.field.nf = some 5#36 ∧ aloneS.field.up = true ∧ fsReady aloneS = true ∧ aloneS.field.paired = false ∧
      aloneS.field.keyed = false) ∧
    (let s := modField (ioSetB aloneS aDVSTAT 0 false) fun f => { f with keyed := true }
     s.alive = true ∧ s.dov.replied = true ∧ s.field.keyed = true ∧ dvPaired s = false ∧ 2 ≤ lanesUp s.dh ∧ 2 ≤ lanesUp s.df) ∧
    (let s := { pairS with
      dh := { pairS.dh with sent := 2 ^ 24 }
      dov := { pairS.dov with echoes := [(7, 31)] } }
     s.dov.rolling = false ∧ 2 ^ 24 ≤ s.dh.sent + s.df.sent ∧ { s.dov with rolling := true }.rolling = true ∧
      bits (pay (natW 0)) 8 28 = s.dh.epoch % 2 ^ 28 ∧ bits (pay (natW 256)) 8 28 ≠ s.dh.epoch % 2 ^ 28 ∧
      bitAt (pay (natW (2 ^ 35 + 7))) 35 = true ∧ bitAt (pay (natW 7)) 35 = false ∧
      s.dov.echoes.find? (fun e => e.1 == pay (natW (2 ^ 35 + 7)) % 2 ^ 35) = some (7, 31)) := by decide +kernel

/-- The ports of the field die on; port 4 with an image waiting and one in part. -/
def txS : State :=
  setPort (flds pairS [(fPORTCFG 4, 1), (fBYPSTAT, 1), (fSUPSTAT, 0)]) 4 { Port.reset with
    txQ := [[1#8]]
    txPart := [2#8] }
theorem witness_FieldTraffic_down :
    (dfHears txS = true ∧ dvTag (wtag (natW 0)) = true ∧ (∀ k ∈ [0, 1, 2, 3, 4], bits (pay (natW (k * 2 ^ 33))) 33 3 = k)) ∧
    ((cfgDo (dfGot txS 1) (pay (natW 0x180) % 2 ^ 16) (pay (natW 1))).isSome = true ∧
      (cfgDo (dfGot txS 1) (pay (natW 0x100) % 2 ^ 16) (pay (natW 0xFFFFFFFFF))).isSome = false) ∧
    (bitAt (pay (natW 0)) 33 = false ∧ bitAt (pay (natW (2 ^ 33))) 33 = true ∧ supplyBad (dfGot txS 1) = false ∧
      supplyBad (flds txS [(fSUPSTAT, 2 ^ 17)]) = true) ∧
    (fldB txS fBYPSTAT 2 = false ∧ fldB txS fBYPSTAT 0 = true ∧ fsReady txS = true ∧ fldB txS fSUPSTAT 17 = false ∧
      fldB (flds txS [(fBYPSTAT, 4)]) fBYPSTAT 2 = true ∧ fldB (flds txS [(fBYPSTAT, 0)]) fBYPSTAT 0 = false) ∧
    (imagePort 4 = true ∧ (portOf txS 4).txPart ≠ [] ∧ (portOf pairS 4).txPart = [] ∧ (portOf txS 4).txQ = [[1#8]] ∧
      txS.field.safe = false ∧ (portOf pairS 4).txQ = [] ∧ portOn txS 4 = true ∧ portOn State.reset 4 = false) ∧
    (rxHeld txS 4 + [3#8].length ≤ 8192 ∧
      8192 < rxHeld (setPort txS 4 { Port.reset with rxWait := List.replicate 2 (List.replicate 4096 0#8) }) 4 + [3#8].length) := by
  decide +kernel
/-- The shadow says that U63 feeds the PPS by its rising edges; source 5 a level source. -/
def ppsS : State := ios pairS [(aSHADOW fPPSSEL, natW (64 + 63)), (aSHADOW (fCHCFG 63), natW 1), (aSRCCFG 5, natW 16)]
theorem witness_FieldTraffic_up :
    (dhHears ppsS = true ∧ dvTag (wtag (natW 0)) = true) ∧
    (ppsFed (smpPut (dhGot ppsS 2) [natW 1, natW 0, natW 0, mkW .wide 0]) 63 true = true ∧
      ppsFed (smpPut (dhGot pairS 2) [natW 1, natW 0, natW 0, mkW .wide 0]) 63 true = false) ∧
    (bitAt (pay (natW 5)) 12 = false ∧ bitAt (pay (natW 4096)) 12 = true ∧ srcLevel (dhGot ppsS 1) 5 = true ∧
      srcLevel (dhGot ppsS 1) 319 = false) ∧
    (bitAt (pay (natW 0xFFF)) 18 = false ∧ bitAt (pay (natW 0xFFF)) 17 = false ∧ pay (natW 0xFFF) % 2 ^ 16 < 0x1000 ∧
      bitAt (pay (natW (2 ^ 17 + 0x1FF))) 17 = true ∧ bitAt (pay (natW (2 ^ 18))) 18 = true) ∧
    (tabGet [] ppsS.dov.rxImg 4 = [] ∧ tabGet [] { ppsS.dov with rxImg := [(4, [1#8])] }.rxImg 4 ≠ []) := by decide +kernel

/-- The field die up; U63 of mode `m`, its status `st`, its thresholds `th`, its flags RETRY. -/
def chS (m st th : Nat) : State := flds pairS [(fCHCFG 63, m + 2 ^ 26), (fCHSTAT 63, st), (fCHTHR 63, th)]
/-- Driver status of channel 7. -/
def drvS (v : Nat) : State := flds pairS [(fHWCH 7, v)]
theorem witness_ChannelEvents :
    (pairS.field.up = true ∧ (∀ m ∈ [1, 4], 1 ≤ chMode (chS m 0 0) 63 ∧ chMode (chS m 0 0) 63 ≤ 4) ∧
      fldB (chS 1 0 0) (fCHSTAT 63) 0 ≠ true ∧ fldB (chS 1 1 0) (fCHSTAT 63) 0 = true ∧ chMode (chS 0 0 0) 63 = 0 ∧
      4 < chMode (chS 5 0 0) 63) ∧
    (fldB (chS 1 0 (2 ^ 32)) (fCHTHR 63) 32 = true ∧ fldB (chS 1 0 0) (fCHTHR 63) 32 = false ∧
      fldF (chS 1 (5 * 2 ^ 10) (5 + 9 * 2 ^ 14)) (fCHTHR 63) 0 14 = 5 ∧ fldF (chS 1 (5 * 2 ^ 10) (5 + 9 * 2 ^ 14)) (fCHTHR 63) 14 14 = 9 ∧
      tcur (chS 1 (5 * 2 ^ 10) (5 + 9 * 2 ^ 14)) 63 = 5) ∧
    (chOutput (chS 2 0 0) 63 = true ∧ fldB (chS 2 0 0) (fCHSTAT 63) 4 = false ∧ fldB (chS 2 0 0) (fCHSTAT 63) 6 = false ∧
      chOutput (chS 1 0 0) 63 = false ∧ fldB (chS 2 8 0) (fCHSTAT 63) 3 = true ∧ fldB (chS 2 0 0) (fCHSTAT 63) 3 = false ∧
      fldB (chS 2 0 0) (fCHCFG 63) 26 = true ∧ fldB pairS (fCHCFG 63) 26 = false ∧ chAnalogOut (chS 8 0 0) 63 = true) ∧
    (chOn (chS 2 2 0) 63 = true ∧ (∀ v < 64, 63 < v → chOn (chS 2 2 0) v = false) ∧ (∀ v < 64, 8 ≤ v → chOn pairS v = false)) ∧
    (fldB (chS 2 2 0) (fCHSTAT 63) 0 ≠ fldB (chS 2 2 0) (fCHSTAT 63) 1 ∧ chMode (chS 2 2 0) 63 ≠ 3 ∧ chMode (chS 3 3 0) 63 = 3 ∧
      fldB (chS 3 3 0) (fCHSTAT 63) 0 = fldB (chS 3 3 0) (fCHSTAT 63) 1 ∧ fldB (chS 3 3 0) (fCHSTAT 63) 3 = false ∧
      fldB (chS 2 0 0) (fCHSTAT 63) 1 = false) ∧
    (fldB (fldSetF (drvS 2) (fHWCH 7) 3 1 1) (fHWCH 7) 1 = true ∧ fldF (fldSetF (drvS 2) (fHWCH 7) 3 1 1) (fHWCH 7) 0 1 = 0 ∧
      fldB (fldSetF (drvS 2) (fHWCH 7) 3 1 1) (fHWCH 7) 4 = false ∧ fldB (drvS 0) (fHWCH 7) 1 = false ∧
      fldB (drvS 32) (fHWCH 7) 5 = true ∧ fldB (drvS 0) (fHWCH 7) 5 = false ∧ fldB (drvS 4) (fHWCH 7) 2 = true ∧
      fldB (drvS 0) (fHWCH 7) 2 = false) := by decide +kernel

/-- The field die up, nothing under way; a conversion of sequence 15 for trigger 15 due. -/
def fldS (l : List (Nat × Nat)) : State := modField (flds pairS l) fun f => { f with
  convDue := [(15, 15)]
  convSum := [(15, (1, 3))] }
theorem witness_FieldEvents :
    (fldF (fldS [(fTRIG 15, 1)]) (fTRIG 15) 0 2 = 1 ∧ fldF (fldS [(fTRIG 15, 0)]) (fTRIG 15) 0 2 ≠ 1 ∧
      (15, 15) ∈ (fldS []).field.convDue ∧ (0, 0) ∉ (fldS []).field.convDue ∧
      fldB (fldS [(fXCFG 15, 2 ^ 24)]) (fXCFG 15) 24 = true ∧ fldB (fldS [(fXCFG 15, 0)]) (fXCFG 15) 24 = false ∧
      mxReady (fldS []) = true ∧ mxReady (fldS [(2, 0)]) = false) ∧
    (tabGet (0, 0) (fldS []).field.convSum 15 = (1, 3) ∧ 1 + 1 < 2 ^ fldF (fldS [(fXCFG 15, 2 ^ 24 + 2 ^ 21)]) (fXCFG 15) 20 3 ∧
      2 ^ fldF (fldS [(fXCFG 15, 2 ^ 24 + 2 ^ 20)]) (fXCFG 15) 20 3 = 1 + 1 ∧
      ((3 : Int) + (BitVec.ofNat 18 5).toInt) % (2 ^ fldF (fldS [(fXCFG 15, 2 ^ 24 + 2 ^ 20)]) (fXCFG 15) 20 3 : Nat) = 0) ∧
    (fldB (fldS [(fSUPSTAT, 0)]) fSUPSTAT 17 = false ∧ fldB (fldS [(fSUPSTAT, 2 ^ 17)]) fSUPSTAT 17 = true ∧
      fldB (fldS [(fSUPSTAT, 2 ^ 18)]) fSUPSTAT 18 = true ∧ fldB (fldS [(fSUPSTAT, 2 ^ 18)]) fSUPSTAT 19 = false ∧
      fldB (fldS [(fSUPSTAT, 0)]) fSUPSTAT 18 = false) ∧
    (∀ n ∈ [0, 63], ∃ u : Fin 64, u.val = n ∧ fsReady (fldS []) = true ∧
      fldB (fldS []) (unitPlace (.channel u)).1 (unitPlace (.channel u)).2.1 = false ∧
      (unitPlace (.channel u)).2.2 ∉ (fldS []).field.failed ∧ fldB (fldS []) (unitPlace .mx).1 (unitPlace .mx).2.1 = true) ∧
    (State.reset.field.up = false ∧ (fldS []).field.up = true) ∧
    (tabGet none (fldS []).field.otp Config.otpLockRow = none ∧ tabGet none (fldS []).field.otp 0 = none) ∧
    ∃ v, tabGet none (modField State.reset fun f => { f with otp := [(5, some 0#64)] }).field.otp 5 = some v :=
  ⟨by decide +kernel, by decide +kernel, by decide +kernel, by decide +kernel, by decide +kernel, ⟨rfl, rfl⟩, 0#64, rfl⟩

/-! ## Witnesses: jigs -/

/-- Jig 0 about to fetch `i` at the last place of its store, with words in both queues and a stalled sister. -/
def jigF (i : Nat) : State := jigAt { Jig.reset with
  up := [1#40]
  down := [2#40] } 47 i
/-- Jig 0 with `i` injected. -/
def jigI (i : Nat) : State := jig { Jig.reset with
  inj := some (BitVec.ofNat 24 i)
  down := [2#40] } []
theorem fetched_of {s : State} {i : Nat} (h : (s.field.up && !(jigOf s 0).stall && decide ((jigOf s 0).inj = none) && (jigOf s 0).run &&
    decide ((jigOf s 0).pc < 48) && jStore s 0 (jigOf s 0).pc % 2 ^ 24 == i) = true) : JigRuns s 0 i false := by
  simp only [Bool.and_eq_true, decide_eq_true_eq, beq_iff_eq, Bool.not_eq_true'] at h
  obtain ⟨⟨⟨⟨⟨h1, h2⟩, h3⟩, h4⟩, h5⟩, h6⟩ := h
  exact ⟨h1, h2, h3, h4, h5, h6⟩
theorem injected_of {s : State} {i : Nat} (h : (s.field.up && !(jigOf s 0).stall &&
    decide ((jigOf s 0).inj.map (·.toNat) = some i)) = true) : JigRuns s 0 i true := by
  simp only [Bool.and_eq_true, decide_eq_true_eq, Bool.not_eq_true', Option.map_eq_some_iff] at h
  exact ⟨h.1.1, h.1.2, h.2⟩

/-- BR taken, not taken and with COND 22; TYPE 10; HOLD of KIND 0 and 1, and with LVL 3; SHIFT waiting, at once, of 41 bits and with
MODE 3. -/
def controlI : List Nat := [0x00C800, 0x00C820, 0x000580, 0xA00000, 0x100000, 0x104000, 0x100600, 0x2003C8, 0x201388, 0x201400, 0x200030]
/-- Every instruction of jigs that `JigInstructions` and `JigCountSignalMatch` name, and their faults. -/
def otherI : List Nat :=
  [0x300000, 0x301000, 0x306000, 0x308000, 0x304000 + 0x8000, 0x308A40, 0x310000, 0x318000, 0x40FFFF, 0x410100, 0x600000, 0x610000,
   0x900000, 0x912000, 0x900800, 0x901000, 0x901800, 0x503FFF, 0x508000 + 47, 0x508000 + 48, 0x50A000, 0x510000, 0x512000, 0x51BFFF,
   0x700000, 0x710800, 0x800000, 0x818000, 0x808000 + 47, 0x808000 + 48, 0x810000 + 47, 0x810000 + 48]
theorem jigs_run : ∀ i ∈ controlI ++ otherI, JigRuns (jigF i) 0 i false ∧ JigRuns (jigI i) 0 i true := by
  have h : ∀ i ∈ controlI ++ otherI, ((jigF i).field.up && !(jigOf (jigF i) 0).stall && decide ((jigOf (jigF i) 0).inj = none) &&
      (jigOf (jigF i) 0).run && decide ((jigOf (jigF i) 0).pc < 48) && jStore (jigF i) 0 (jigOf (jigF i) 0).pc % 2 ^ 24 == i) = true := by
    decide +kernel
  have g : ∀ i ∈ controlI ++ otherI, ((jigI i).field.up && !(jigOf (jigI i) 0).stall &&
      decide ((jigOf (jigI i) 0).inj.map (·.toNat) = some i)) = true := by decide +kernel
  exact fun i m => ⟨fetched_of (h i m), injected_of (g i m)⟩

theorem witness_JigControl :
    (∀ i ∈ controlI, JigRuns (jigF i) 0 i false ∧ JigRuns (jigI i) 0 i true) ∧
    (jType 0x00C800 = 0 ∧ jigCond (jigFetched (jigF 0x00C800) 0 0x00C800 false) 0 (bits 0x00C800 6 5) (pinsNow (jigF 0x00C800) 0 (some 0)) =
      some true ∧ bitAt 0x00C800 5 = false ∧ bitAt 0x00C820 5 = true ∧ bits 0x000580 6 5 = 22 ∧ jType 0xA00000 = 10) ∧
    (holdMet (jigFetched (jigF 0x100000) 0 0x100000 false) 0 0x100000 (pinsNow (jigF 0x100000) 0 (some 0)) = false ∧
      holdMet (jigFetched (jigF 0x104000) 0 0x104000 false) 0 0x104000 (pinsNow (jigF 0x104000) 0 (some 0)) = true ∧
      bits 0x100600 9 2 = 3 ∧ jType 0x100600 = 1) ∧
    (bitAt 0x2003C8 6 = true ∧ bits 0x201388 7 6 = 39 ∧ bitAt 0x201388 6 = false ∧ bits 0x201400 7 6 = 40 ∧ bits 0x200030 4 2 = 3 ∧
      jType 0x200030 = 2) ∧
    (∀ i ∈ [0x104000, 0x110000, 0x100000, 0x2003C8], JigStalls (jig { Jig.reset with
      stall := true
      latch := BitVec.ofNat 24 i } []) 0 i) ∧
    ((jig { Jig.reset with run := true } []).field.up = true ∧ (jigOf (jigAt Jig.reset 48 0) 0).pc = 48) := by
  have h : ∀ i ∈ [0x104000, 0x110000, 0x100000, 0x2003C8],
      (jig { Jig.reset with
        stall := true
        latch := BitVec.ofNat 24 i } []).field.up = true ∧
      (jigOf (jig { Jig.reset with
        stall := true
        latch := BitVec.ofNat 24 i } []) 0).stall = true ∧
      (jigOf (jig { Jig.reset with
        stall := true
        latch := BitVec.ofNat 24 i } []) 0).latch.toNat = i := by decide +kernel
  exact ⟨fun i m => jigs_run i (List.mem_append_left _ m), by decide +kernel, by decide +kernel, by decide +kernel, h, by decide +kernel⟩

theorem witness_JigInstructions :
    (∀ i ∈ otherI, JigRuns (jigF i) 0 i false ∧ JigRuns (jigI i) 0 i true) ∧
    (jIs 3 0 0x300000 = true ∧ bitAt 0x301000 12 = true ∧ bits 0x306000 13 2 = 3 ∧ jIs 3 1 0x308000 = true ∧ bits 0x30C000 13 2 = 2 ∧
      bits 0x308A40 6 6 = 41 ∧ jIs 3 2 0x310000 = true ∧ jIs 3 3 0x318000 = true) ∧
    (jType 0x40FFFF = 4 ∧ bitAt 0x40FFFF 16 = false ∧ bitAt 0x410100 16 = true ∧ jType 0x600000 = 6 ∧ bitAt 0x610000 16 = true) ∧
    (jCrc 0 0x900000 = true ∧ (crcPoly (bits 0x900000 13 4)).isSome = true ∧ bits 0x912000 13 4 = 9 ∧ jCrc 1 0x900800 = true ∧
      jCrc 2 0x901000 = true ∧ jCrc 3 0x901800 = true ∧ (crcPoly Jig.reset.poly).isSome = true) ∧
    ((jigOf (jigFetched (jigF 0x300000) 0 0x300000 false) 0).up.length < 8 ∧
      (jigOf (jigFetched (jigI 0x310000) 0 0x310000 true) 0).down = [2#40]) := by
  exact ⟨fun i m => jigs_run i (List.mem_append_right _ m), by decide +kernel, by decide +kernel, by decide +kernel, by decide +kernel⟩

theorem witness_JigCountSignalMatch :
    (∀ i ∈ otherI, JigRuns (jigF i) 0 i false ∧ JigRuns (jigI i) 0 i true) ∧
    (jIs 5 0 0x503FFF = true ∧ jIs 5 1 (0x508000 + 47) = true ∧ bits (0x508000 + 47) 0 6 = 47 ∧ bits (0x508000 + 48) 0 6 = 48 ∧
      bitAt 0x50A000 13 = true ∧ jIs 5 2 0x510000 = true ∧ bitAt 0x512000 13 = true ∧ jIs 5 3 0x51BFFF = true) ∧
    (jType 0x700000 = 7 ∧ bitAt 0x710800 16 = true ∧ bitAt 0x710800 11 = true) ∧
    (jIs 8 0 0x800000 = true ∧ jIs 8 3 0x818000 = true ∧ jIs 8 1 (0x808000 + 47) = true ∧ jIs 8 2 (0x810000 + 48) = true) :=
  ⟨fun i m => jigs_run i (List.mem_append_right _ m), by decide +kernel, by decide +kernel, by decide +kernel⟩

/-- Jig 31 with an injection or a stalled instruction; jig 0 with a word to send. -/
def msgS (inj : Option (BitVec 24)) (latch : Nat) : State := setJig (setJig pairS 31 { Jig.reset with
  inj := inj
  stall := latch ≠ 0
  latch := BitVec.ofNat 24 latch }) 0 { Jig.reset with up := [1#40] }
theorem witness_JigMessages :
    (DfReached pairS (natW 31) (natW 0) ∧ DhReached pairS (natW 31) (natW 0)) ∧
    (bits (48 * 8) 3 6 = 48 ∧ bits (47 * 8) 3 6 = 47 ∧ bitAt (47 * 8 + 512) 9 = true ∧ bits (46 * 8) 3 6 = 46) ∧
    ((jigOf (dfGot (msgS (some 5#24) 0) 1) 31).inj = some 5#24 ∧ (jigOf (dfGot (msgS none 0x2003C8) 1) 31).inj = none ∧
      (jigOf (dfGot (msgS none 0x2003C8) 1) 31).stall = true ∧ jType (jigOf (dfGot (msgS none 0x2003C8) 1) 31).latch.toNat = 2 ∧
      jType (jigOf (dfGot (msgS none 0x100000) 1) 31).latch.toNat = 1) ∧
    (grpReady pairS 7 = true ∧ grpReady State.reset 7 = false) ∧
    ((jigOf (msgS none 0) 31).up = [] ∧ (jigOf (msgS none 0) 0).up = [1#40] ∧ (msgS none 0).field.paired = true ∧
      0 < tabGet 16 (msgS none 0).field.coreCred (fldF (msgS none 0) (fJCFG 0) 22 5)) :=
  ⟨⟨⟨by decide +kernel, by decide +kernel, by decide +kernel⟩, by decide +kernel, by decide +kernel, by decide +kernel⟩,
    by decide +kernel, by decide +kernel, by decide +kernel, by decide +kernel⟩

end Sys2Proof.Tests
end

section
/-! The state after reset (00_scope, R13), and the write that `out` of a core makes (R165, R539, R540). -/

namespace Sys2Proof.Machine

/-! ## The state after reset -/

/-- After reset no register is listed, so each reads its reset value. -/
@[simp] theorem ioGet_reset (a : Nat) : ioGet State.reset a = ioReset a := (rfl)
/-- After reset no core is listed, so each is the core of the Reset columns. -/
@[simp] theorem coreOf_reset (c : Nat) : coreOf State.reset c = Core.reset := (rfl)
theorem ioF_reset (a lo w : Nat) : ioF State.reset a lo w = bits (pay (ioReset a)) lo w := (rfl)
theorem ioB_reset (a i : Nat) : ioB State.reset a i = (bits (pay (ioReset a)) i 1 == 1) := (rfl)

/-- CMPMAP maps slot 7 of core `c` to unit 32 + `c`, and EVMASK enables the levels 1 to 15. -/
theorem privRegisters_reset (c : CoreId) :
    ioF State.reset (priv c.val (oCMPMAP + 1)) 24 6 = 32 + c.val ∧ ioB State.reset (priv c.val (oCMPMAP + 1)) 31 = true ∧
      ioF State.reset (priv c.val oEVMASK) 1 15 = 0x7FFF := by
  simp only [ioF_reset, ioB_reset]
  decide +revert +kernel

/-- The ownership record of every bank: STATE 2, the longest lease, banks 18 to 25 readable up to ring 1, and the owner of R34. -/
theorem bankRecord_reset (n : Fin 32) :
    bankState State.reset n.val = 2 ∧ ioF State.reset (aBANKOWN n.val) 6 2 = 3 ∧
      ioF State.reset (aBANKOWN n.val) 8 16 = 0xFFFF ∧
      ioF State.reset (aBANKOWN n.val) 24 2 = (if 18 ≤ n.val ∧ n.val ≤ 25 then 1 else 0) ∧
      bankOwner State.reset n.val = (if 12 ≤ n.val ∧ n.val ≤ 15 then 11 else if n.val = 16 ∨ n.val = 17 then 9
        else if 18 ≤ n.val ∧ n.val ≤ 25 then n.val - 17 else 0) := by
  simp only [bankState, bankOwner, ioF_reset]
  decide +revert +kernel

/-- Settles O31: the records of the cores and of the banks by the lemmas above, the single registers from `ioReset`. -/
theorem resetValues : Obligations.ResetValues := by
  have single : (∀ k ∈ [1, 2, 3], ioF State.reset (aRINGLIM k) 0 17 = 0x14000) ∧
      ioB State.reset aMARCHCTL 5 = true ∧ ioB State.reset aMARCHCTL 6 = true ∧ ioF State.reset aECCTHR 0 8 = 4 ∧
      ioF State.reset aHUBCFG 0 12 = 100 ∧ ioF State.reset aDEVMODE 0 8 = 0x10 := by
    simp only [ioF_reset, ioB_reset]
    decide +kernel
  obtain ⟨ringlim, rest⟩ := single
  exact ⟨rfl, fun c => ⟨rfl, rfl, rfl, privRegisters_reset c⟩, ringlim, bankRecord_reset, rest⟩

/-- Settles O32: every table of the state after reset is empty, so canonical, and an unlisted core is legal. -/
theorem resetMeetsInvariant : Obligations.ResetMeetsInvariant :=
  ⟨rfl, rfl, rfl, rfl, rfl, rfl, rfl, fun c => by rw [coreOf_reset]; exact coreLegal_reset⟩

/-! ## Register writes: the commands -/

theorem exec_registerWrite (c : CoreId) (a : BitVec 24) (w : Word) (s : State) :
    exec (.registerWrite c a w) s = .next (busWrite s c.val a.toNat w) := (rfl)
theorem exec_rsdepthWrite (c : CoreId) (w : Word) (s : State) :
    exec (.rsdepthWrite c w) s = .next (busWrite s c.val (priv c.val oRSDEPTH) w) := (rfl)
theorem exec_rsentWrite (c : CoreId) (k : Fin 16) (w : Word) (s : State) :
    exec (.rsentWrite c k w) s = .next (busWrite s c.val (priv c.val (oRSENT k.val)) w) := (rfl)
theorem exec_shadowWrite (c : CoreId) (f : BitVec 12) (w : Word) (s : State) :
    exec (.shadowWrite c f w) s = .next (busWrite s c.val (aSHADOW f.toNat) w) := (rfl)

/-! ## Register writes: the checks, one lemma for each outcome -/

section
variable {s : State} {c ring pos a : Nat} {w : Word}

/-- R538: no block answers. -/
theorem ioWriteCheck_unmapped (hm : ioMapped a = false) : ioWriteCheck s c ring pos a w = .error (iotoT a) := by
  simp [ioWriteCheck, hm]

/-- The own range of another core is shut to a ring other than 0. -/
theorem otherPriv_open (ho : otherPriv c (ioAbs c a) = true → ring = 0) :
    (otherPriv c (ioAbs c a) && ring != 0) = false := by
  cases h : otherPriv c (ioAbs c a) with
  | false => rfl
  | true => simp [ho h]

/-- R540: a ring that the register's column does not name. The own range of another core gives the same trap. -/
theorem ioWriteCheck_ring {i : RegInfo} {m : Nat} (hm : ioMapped a = true) (hi : regInfo c (ioAbs c a) = some i)
    (hw : i.wr = some m) (hb : bitAt m ring = false) : ioWriteCheck s c ring pos a w = .error (ioPriv a) := by
  simp [ioWriteCheck, hm, hi, hw, hb]

/-- R14: a tag that the register does not take, outside the field shadow. -/
theorem ioWriteCheck_tag {i : RegInfo} {m : Nat} (hm : ioMapped a = true)
    (ho : otherPriv c (ioAbs c a) = true → ring = 0) (hi : regInfo c (ioAbs c a) = some i) (hw : i.wr = some m)
    (hb : bitAt m ring = true) (hx : ioExtraPriv ring (ioAbs c a) w = false)
    (ht : ioTag (ioAbs c a) (wtag w) = false) (hs : ioAbs c a < 0x068000 ∨ 0x069000 ≤ ioAbs c a) :
    ioWriteCheck s c ring pos a w =
      .error (tagvT pos (if wtag w = .empty then 0x01 else 0x02) (wtag w).code 2 (addrIOW a)) := by
  have hn : ¬(0x068000 ≤ ioAbs c a ∧ ioAbs c a < 0x069000) := by omega
  simp [ioWriteCheck, hm, otherPriv_open ho, hi, hw, hb, hx, ht, hn]

/-- R11: a hole, or a register that nothing writes. -/
theorem ioWriteCheck_none (hm : ioMapped a = true) (ho : otherPriv c (ioAbs c a) = true → ring = 0)
    (hn : ((regInfo c (ioAbs c a)).bind fun i => i.wr) = none) (hl : ioIslandOff s (ioAbs c a) = false) :
    ioWriteCheck s c ring pos a w = .ok none := by
  cases hi : regInfo c (ioAbs c a) with
  | none => simp [ioWriteCheck, hm, otherPriv_open ho, hi, hl]
  | some i =>
    have hw : i.wr = none := by simpa [hi] using hn
    simp [ioWriteCheck, hm, otherPriv_open ho, hi, hw, hl]

/-- A register that takes the write. -/
theorem ioWriteCheck_some {i : RegInfo} {m : Nat} (hm : ioMapped a = true)
    (ho : otherPriv c (ioAbs c a) = true → ring = 0) (hi : regInfo c (ioAbs c a) = some i) (hw : i.wr = some m)
    (hb : bitAt m ring = true) (hx : ioExtraPriv ring (ioAbs c a) w = false)
    (ht : ioTag (ioAbs c a) (wtag w) = true) (hl : ioIslandOff s (ioAbs c a) = false) :
    ioWriteCheck s c ring pos a w = .ok (some i) := by
  simp [ioWriteCheck, hm, otherPriv_open ho, hi, hw, hb, hx, ht, hl]

end

/-! ## Register writes: what a free core's write does with the outcome of the checks -/

section
variable {s : State} {c a : Nat} {w : Word}

/-- A refused write traps; of the refusals of a POISON word only PRIV stands. -/
theorem busWrite_error {t : Trp} (hf : coreFree s c = true) (hp : wtag w ≠ .poison ∨ t.cause = 0x08)
    (hc : ioWriteCheck s c (coreOf s c).ring 0 a w = .error t) : busWrite s c a w = portTrap s c t := by
  have h : ¬(wtag w = .poison ∧ t.cause ≠ 0x08) := fun h => hp.elim (· h.1) h.2
  simp [busWrite, busWriteWith, hf, hc, if_neg h]

/-- A write that no register takes changes nothing. -/
theorem busWrite_none (hf : coreFree s c = true) (hp : wtag w ≠ .poison)
    (hc : ioWriteCheck s c (coreOf s c).ring 0 a w = .ok none) : busWrite s c a w = s := by
  simp [busWrite, busWriteWith, hf, hp, hc]

/-- A write that a register takes has the register's effect. -/
theorem busWrite_some {i : RegInfo} {t : State} (hf : coreFree s c = true) (hp : wtag w ≠ .poison)
    (hc : ioWriteCheck s c (coreOf s c).ring 0 a w = .ok (some i))
    (ht : ioPerform s c (coreOf s c).ring i (ioAbs c a) w = .done t) : busWrite s c a w = t := by
  simp [busWrite, busWriteWith, hf, hp, hc, ht]

end

/-- The register behind a write that is taken, and that its checks pass it. -/
theorem WriteTaken.check {s : State} {c : CoreId} {a : Nat} {w : Word} (h : WriteTaken s c a w) :
    ∃ i, regInfo c.val (ioAbs c.val a) = some i ∧
      ioWriteCheck s c.val (coreOf s c.val).ring 0 a w = .ok (some i) := by
  obtain ⟨-, -, hm, ho, i, m, hi, hw, hb, hx, ht, hl⟩ := h
  exact ⟨i, hi, ioWriteCheck_some hm ho hi hw hb hx ht hl⟩

/-- A write that is taken, by the effect that its register has. -/
theorem busWrite_of_taken {s t : State} {c : CoreId} {a : Nat} {w : Word} (h : WriteTaken s c a w)
    (ht : ∀ i, regInfo c.val (ioAbs c.val a) = some i →
      ioPerform s c.val (coreOf s c.val).ring i (ioAbs c.val a) w = .done t) : busWrite s c.val a w = t := by
  obtain ⟨i, hi, hc⟩ := h.check
  obtain ⟨hf, hp, -⟩ := h
  exact busWrite_some hf hp hc (ht i hi)

/-! ## Register writes: the return stack and the field shadow -/

/-- Outside 0x0F_F000 to 0x0F_FFFF an address is absolute (R541). -/
theorem ioAbs_of_not_alias {c a : Nat} (h : a < 0x0FF000 ∨ 0x100000 ≤ a) : ioAbs c a = a := by
  unfold ioAbs
  exact if_neg (by omega)

theorem ioAbs_priv (c d o : Nat) : ioAbs c (priv d o) = priv d o :=
  ioAbs_of_not_alias (.inr (by unfold priv; omega))

/-- The own range of core `c` is one of the 32 pages from 0x10_0000 (R548). -/
theorem privCore_priv (c : CoreId) {o : Nat} (ho : o < 0x1000) : privCore (priv c.val o) = some c.val := by
  have hc := c.isLt
  unfold privCore priv
  rw [if_pos (by omega), Option.some.injEq]
  omega

theorem priv_mod (c : Nat) {o : Nat} (ho : o < 0x1000) : priv c o % 0x1000 = o := by
  unfold priv
  omega

/-- A write in a core's own range goes to the register of that core. -/
theorem ioPerform_priv (s : State) (c ring : Nat) (i : RegInfo) (k : CoreId) {o : Nat} (ho : o < 0x1000) (w : Word) :
    ioPerform s c ring i (priv k.val o) w = .done (privWrite s c ring i k.val o w) := by
  simp only [ioPerform, privCore_priv k ho, priv_mod k.val ho]

/-- R93: RSDEPTH holds at most the 16 entries of the stack. -/
theorem privWrite_rsdepth (s : State) (c ring : Nat) (i : RegInfo) (k : Nat) (w : Word) :
    privWrite s c ring i k oRSDEPTH w = ioSetF s (priv k oRSDEPTH) 0 5 (min 16 (pay w % 32)) := (rfl)

/-- R93: RSENT keeps the LINK of its word. -/
theorem privWrite_rsent (s : State) (c ring : Nat) (i : RegInfo) (k : Nat) (e : Fin 16) (w : Word) :
    privWrite s c ring i k (oRSENT e.val) w = ioPut s (priv k (oRSENT e.val)) (mkW .link (pay w % 2 ^ 20)) := by
  have he := e.isLt
  have hr : 0x050 ≤ oRSENT e.val ∧ oRSENT e.val < 0x060 := by unfold oRSENT; omega
  have h1 : oRSENT e.val ≠ 0x001 := by omega
  have h2 : ¬(oRSENT e.val = oTHRESH ∨ oRSENT e.val = oEVMASK) := by unfold oTHRESH oEVMASK; omega
  have h3 : oRSENT e.val ≠ oWDOGCFG := by unfold oWDOGCFG; omega
  have h4 : oRSENT e.val ≠ oRSDEPTH := by unfold oRSDEPTH; omega
  simp only [privWrite, if_neg h1, if_neg h2, if_neg h3, if_neg h4, if_pos hr]

/-- R550: a write of the field shadow is `shadowDo`. -/
theorem ioPerform_shadow (s : State) (c ring : Nat) (i : RegInfo) (f : BitVec 12) (w : Word) :
    ioPerform s c ring i (aSHADOW f.toNat) w = shadowDo s c f.toNat w := by
  have hf := f.isLt
  have hp : privCore (aSHADOW f.toNat) = none := by
    unfold privCore aSHADOW
    exact if_neg (by omega)
  have hr : 0x068000 ≤ aSHADOW f.toNat ∧ aSHADOW f.toNat < 0x069000 := by unfold aSHADOW; omega
  have ha : aSHADOW f.toNat - 0x068000 = f.toNat := by unfold aSHADOW; omega
  simp only [ioPerform, hp, if_pos hr, ha]

/-- R388, R550: what the shadow of field address `f` does with a word, where the send queue has room for its CMD-CFG. -/
theorem shadowDo_done {s : State} {c f : Nat} {w : Word} (hq : fieldReg f = 2 → dvPaired s = true → sendFull s c = false) :
    shadowDo s c f w = .done (if fieldReg f ≠ 2 then s else if dvPaired s = false then raise s 392
      else coreSend s c ⟨0x11, natW f, if wtag w = .bits then w else natW (pay w)⟩) := by
  unfold shadowDo
  by_cases hf : fieldReg f = 2
  · cases hd : dvPaired s with
    | false => simp [hf]
    | true => simp [hf, hq hf hd]
  · simp [hf]

/-- A taken write of the field shadow. -/
theorem busWrite_shadow_of_taken {s : State} {c : CoreId} {f : BitVec 12} {w : Word}
    (h : WriteTaken s c (aSHADOW f.toNat) w)
    (hq : fieldReg f.toNat = 2 → dvPaired s = true → sendFull s c.val = false) :
    busWrite s c.val (aSHADOW f.toNat) w =
      if fieldReg f.toNat ≠ 2 then s else if dvPaired s = false then raise s 392
      else coreSend s c.val ⟨0x11, natW f.toNat, if wtag w = .bits then w else natW (pay w)⟩ := by
  have ha : ioAbs c.val (aSHADOW f.toNat) = aSHADOW f.toNat :=
    ioAbs_of_not_alias (.inl (by have := f.isLt; unfold aSHADOW; omega))
  exact busWrite_of_taken h fun i _ => by rw [ha, ioPerform_shadow, shadowDo_done hq]

/-- A taken write in the own range of the writing core. -/
theorem busWrite_priv_of_taken {s t : State} {c : CoreId} {o : Nat} {w : Word} (h : WriteTaken s c (priv c.val o) w)
    (ho : o < 0x1000) (ht : ∀ i, privWrite s c.val (coreOf s c.val).ring i c.val o w = t) :
    busWrite s c.val (priv c.val o) w = t :=
  busWrite_of_taken h fun i _ => by rw [ioAbs_priv, ioPerform_priv _ _ _ _ _ ho, ht i]

/-- Settles O39: the outcomes of the checks for any register, then the effects of RSDEPTH, RSENT and the field shadow. -/
theorem registerWrites : Obligations.RegisterWrites := by
  unfold Obligations.RegisterWrites
  refine ⟨fun s c addr w => ?_, fun s c k f w => ?_⟩
  · simp only [exec_registerWrite, Host.Outcome.next.injEq]
    refine ⟨fun i t hW hi ht => ?_, fun hf hp hm => ?_, fun i m hf hm hi hw hb => ?_,
      fun i m hf hp hm ho hi hw hb hx ht hs => ?_, fun hf hp hm ho hn hl => ?_⟩
    · exact busWrite_of_taken hW fun j hj => by rw [← Option.some.inj (hi.symm.trans hj)]; exact ht
    · exact busWrite_error hf (.inl hp) (ioWriteCheck_unmapped hm)
    · exact busWrite_error hf (.inr rfl) (ioWriteCheck_ring hm hi hw hb)
    · exact busWrite_error hf (.inl hp) (ioWriteCheck_tag hm ho hi hw hb hx ht hs)
    · exact busWrite_none hf hp (ioWriteCheck_none hm ho hn hl)
  · simp only [exec_rsdepthWrite, exec_rsentWrite, exec_shadowWrite, Host.Outcome.next.injEq]
    have hk : oRSENT k.val < 0x1000 := by have := k.isLt; unfold oRSENT; omega
    refine ⟨fun h => busWrite_priv_of_taken h (by decide) fun i => privWrite_rsdepth ..,
      fun h => busWrite_priv_of_taken h hk fun i => privWrite_rsent ..,
      fun h => ⟨fun hf => ?_, fun hf hd => ?_, fun hf hd hq => ?_⟩⟩
    · rw [busWrite_shadow_of_taken h fun e => absurd e hf, if_pos hf]
    · rw [busWrite_shadow_of_taken h fun _ e => absurd (hd.symm.trans e) (by decide)]
      simp [hf, hd]
    · rw [busWrite_shadow_of_taken h fun _ _ => hq]
      simp [hf, hd]

end Sys2Proof.Machine
end

section
/-! Every step keeps the invariant. `keeps_exec` puts the lemmas of Laws/Keeps1 to Keeps7 together over the commands. -/

namespace Sys2Proof.Machine

/-- Every command leaves the queue as it is and keeps the invariant. A syllable does so because every syllable is issued
in the same way; any other command has a lemma of its own. -/
theorem keeps_exec {z s t : State} {i : Instr} (e : exec i s = .next t) (hK : Keeps z s) : Keeps z t := by
  cases i with
  -- syllables
  | nop | br | bt | bf | bz | bnz | brc | callS | callw | ret | retw | jr | callr | repS | repi | loopS | wfe |
    sevCores | sevHubSource | sevJigGroup | sevFieldTrigger | waitt | gate | gret | tret | trap | tfence |
    park | addS | subS | addcy | subby | andS | orS | xorS | andn | notS | movS | movi | cmpeq | cmpne | cmplt |
    cmple | cmpltu | cmpleu | minS | maxS | minu | maxu | absS | negS | sel | addsat | subsat | tagof | retag |
    tagchk | shlS | shr | sar | rol | ror | extF | insF | popc | clz | ctz | brev | sext | pack16 | unpk16 |
    mulS | mulh | mulw | mac | divS | divu | rem | remu | crc | crcfin | sqrtu | ld | st | ld2 | st2 | ld4 |
    st4 | ldAcq | stRel | swap | cas | fadd | fenceLl | fenceSs | fenceFull | fenceIo | movb | pin | unpin |
    lease | inIo | outIo | fsend | frecv | ciphKeyWrap | ciphKeyUnwrap | ciphCbcEncrypt | ciphCbcDecrypt |
    ciphCtr | ciphGcmEncrypt | ciphGcmDecrypt | ciphCcmEncrypt | ciphCcmDecrypt | ciphCmacGenerate |
    ciphCmacVerify | cwait | ledg | claim | cmpl | postS | mfc | mtc | csld | csst | cssync | pflush | pbar |
    pbarClear | ctxsw | tagset | splice | modeS =>
    unfold exec at e
    exact keeps_issue e hK
  -- the ends of waits, buffered stores, the answers of HL and the cipher engine
  | wfeResume => exact keeps_execWfeResume e hK
  | waittResume => exact keeps_execWaittResume e hK
  | lngResult => exact keeps_execLngResult e hK
  | lngto => exact keeps_execLngto e hK
  | storePerformed => exact keeps_execStorePerformed e hK
  | accessControlAnswer => exact keeps_execAccessControlAnswer e hK
  | hwto => exact keeps_execHwto e hK
  | ioto => exact keeps_execIoto e hK
  | cwaitResume => exact keeps_execCwaitResume e hK
  | cipherDone => exact keeps_execCipherDone e hK
  | cipherJobTimeout => exact keeps_execCipherJobTimeout e hK
  | engineRead => exact keeps_execEngineRead e hK
  | engineWrite => exact keeps_execEngineWrite e hK
  | engineCap => exact keeps_execEngineCap e hK
  -- asynchronous traps, paced issue
  | interrupt => exact keeps_execInterrupt e hK
  | nmi => exact keeps_execNmi e hK
  | wdog => exact keeps_execWdog e hK
  | wdogStage2 => exact keeps_execWdogStage2 e hK
  | stepTrap => exact keeps_execStepTrap e hK
  | breakTrap => exact keeps_execBreakTrap e hK
  | leaselost => exact keeps_execLeaselost e hK
  | pacedIssue => exact keeps_execPacedIssue e hK
  -- the hub and the timebases
  | levelAssert => exact keeps_execLevelAssert e hK
  | levelWithdraw => exact keeps_execLevelWithdraw e hK
  | offerTimeout => exact keeps_execOfferTimeout e hK
  | srcstatPendClear => exact keeps_execSrcstatPendClear e hK
  | srcstatSet => exact keeps_execSrcstatSet e hK
  | msixUnmask => exact keeps_execMsixUnmask e hK
  | tbhiRead => exact keeps_execTbhiRead e hK
  | capture => exact keeps_execCapture e hK
  | tbsethiWrite => exact keeps_execTbsethiWrite e hK
  | compareArm => exact keeps_execCompareArm e hK
  | compareFire => exact keeps_execCompareFire e hK
  | ppsHold => exact keeps_execPpsHold e hK
  -- banks
  | bankownWrite => exact keeps_execBankownWrite e hK
  | ownershipDrainDone => exact keeps_execOwnershipDrainDone e hK
  | scrubDone => exact keeps_execScrubDone e hK
  | leaseExpiry => exact keeps_execLeaseExpiry e hK
  | leaseNearExpiry => exact keeps_execLeaseNearExpiry e hK
  | leaseAutoRenew => exact keeps_execLeaseAutoRenew e hK
  | partWrite => exact keeps_execPartWrite e hK
  | bankPowerOff => exact keeps_execBankPowerOff e hK
  | bankPowerOn => exact keeps_execBankPowerOn e hK
  | bankWakeDone => exact keeps_execBankWakeDone e hK
  | marchGo => exact keeps_execMarchGo e hK
  | marchAbort => exact keeps_execMarchAbort e hK
  | marchDone => exact keeps_execMarchDone e hK
  | rowRepair => exact keeps_execRowRepair e hK
  | rowRepairDone => exact keeps_execRowRepairDone e hK
  -- the return stack, rings, the host
  | rsdepthWrite => exact keeps_execRsdepthWrite e hK
  | rsentWrite => exact keeps_execRsentWrite e hK
  | sqTailDoorbell => exact keeps_execSqTailDoorbell e hK
  | cqHeadDoorbell => exact keeps_execCqHeadDoorbell e hK
  | sqEnable => exact keeps_execSqEnable e hK
  | sqDisable => exact keeps_execSqDisable e hK
  | cqEnable => exact keeps_execCqEnable e hK
  | cqDisable => exact keeps_execCqDisable e hK
  | ringFetch => exact keeps_execRingFetch e hK
  | fetchComplete => exact keeps_execFetchComplete e hK
  | disptake => exact keeps_execDisptake e hK
  | disptakeFree => exact keeps_execDisptakeFree e hK
  | workSlotFill => exact keeps_execWorkSlotFill e hK
  | ringTimeout => exact keeps_execRingTimeout e hK
  | functionLevelReset => exact keeps_execFunctionLevelReset e hK
  | spoolReplay => exact keeps_execSpoolReplay e hK
  | barAccessDropped => exact keeps_execBarAccessDropped e hK
  | elcfgAck => exact keeps_execElcfgAck e hK
  | hostSilence => exact keeps_execHostSilence e hK
  | linkLoss => exact keeps_execLinkLoss e hK
  | linkTrained => exact keeps_execLinkTrained e hK
  -- device opcodes, gates and SERVICE
  | nopEntry => exact keeps_execNopEntry e hK
  | sessionOpen => exact keeps_execSessionOpen e hK
  | contextReload => exact keeps_execContextReload e hK
  | sessionClose => exact keeps_execSessionClose e hK
  | send => exact keeps_execSend e hK
  | postRecv => exact keeps_execPostRecv e hK
  | measure => exact keeps_execMeasure e hK
  | actuate => exact keeps_execActuate e hK
  | invoke => exact keeps_execInvoke e hK
  | ledgerRead => exact keeps_execLedgerRead e hK
  | shimLoad => exact keeps_execShimLoad e hK
  | shimCutOver => exact keeps_execShimCutOver e hK
  | timeEntry => exact keeps_execTimeEntry e hK
  | timeSet => exact keeps_execTimeSet e hK
  | configRead => exact keeps_execConfigRead e hK
  | configWrite => exact keeps_execConfigWrite e hK
  | modeRequest => exact keeps_execModeRequest e hK
  | abortEntry => exact keeps_execAbortEntry e hK
  | microcodeEntry => exact keeps_execMicrocodeEntry e hK
  | gateSessOpen => exact keeps_execGateSessOpen e hK
  | gateSessHot => exact keeps_execGateSessHot e hK
  | gateDone => exact keeps_execGateDone e hK
  | serviceKerf => exact keeps_execServiceKerf e hK
  | serviceRelease => exact keeps_execServiceRelease e hK
  | serviceSplice => exact keeps_execServiceSplice e hK
  | serviceMarch => exact keeps_execServiceMarch e hK
  | rowrepair => exact keeps_execRowrepair e hK
  | rowmapSave => exact keeps_execRowmapSave e hK
  | rowmapRestore => exact keeps_execRowmapRestore e hK
  | chswitch => exact keeps_execChswitch e hK
  | ledgerResume => exact keeps_execLedgerResume e hK
  | ledgerFresh => exact keeps_execLedgerFresh e hK
  | clusterReset => exact keeps_execClusterReset e hK
  -- the ledger
  | sealDone => exact keeps_execSealDone e hK
  | anchoring => exact keeps_execAnchoring e hK
  | ledgkeyWrite => exact keeps_execLedgkeyWrite e hK
  | ledgprove => exact keeps_execLedgprove e hK
  | ledgerDrain => exact keeps_execLedgerDrain e hK
  | lringHeadWrite => exact keeps_execLringHeadWrite e hK
  -- modes, bring-up, kerf, splices
  | modereqWrite => exact keeps_execModereqWrite e hK
  | clusterPowerDown => exact keeps_execClusterPowerDown e hK
  | thriftPowerDownTimeout => exact keeps_execThriftPowerDownTimeout e hK
  | lockstepEntry => exact keeps_execLockstepEntry e hK
  | lockstepFailure => exact keeps_execLockstepFailure e hK
  | coldReset => exact keeps_execColdReset e hK
  | deadmanWarning => exact keeps_execDeadmanWarning e hK
  | deadmanRestart => exact keeps_execDeadmanRestart e hK
  | kerfctlKerf => exact keeps_execKerfctlKerf e hK
  | kerfctlRelease => exact keeps_execKerfctlRelease e hK
  | kerfReset => exact keeps_execKerfReset e hK
  | selfTestDone => exact keeps_execSelfTestDone e hK
  | spliceStop => exact keeps_execSpliceStop e hK
  | spliceComplete => exact keeps_execSpliceComplete e hK
  | spliceAbandon => exact keeps_execSpliceAbandon e hK
  -- power, sensors, tamper
  | ucieLaneFailure => exact keeps_execUcieLaneFailure e hK
  | ucieLaneRepairTimeout => exact keeps_execUcieLaneRepairTimeout e hK
  | refclkLoss => exact keeps_execRefclkLoss e hK
  | pgNFall => exact keeps_execPgNFall e hK
  | pgNRise => exact keeps_execPgNRise e hK
  | vidalert => exact keeps_execVidalert e hK
  | regulatorAck => exact keeps_execRegulatorAck e hK
  | adaptiveStep => exact keeps_execAdaptiveStep e hK
  | sensorSample => exact keeps_execSensorSample e hK
  | sensorHardLimit => exact keeps_execSensorHardLimit e hK
  | veneerMismatch => exact keeps_execVeneerMismatch e hK
  | dualRailDisagree => exact keeps_execDualRailDisagree e hK
  | fieldTamper => exact keeps_execFieldTamper e hK
  -- debug
  | dbgOpen => exact keeps_execDbgOpen e hK
  | dbgRespond => exact keeps_execDbgRespond e hK
  | debugVerifyDone => exact keeps_execDebugVerifyDone e hK
  | challengeExpiry => exact keeps_execChallengeExpiry e hK
  | dbgClose => exact keeps_execDbgClose e hK
  | debugReadData => exact keeps_execDebugReadData e hK
  | debugWriteData => exact keeps_execDebugWriteData e hK
  | debugReadIo => exact keeps_execDebugReadIo e hK
  | debugWriteIo => exact keeps_execDebugWriteIo e hK
  | debugReadCs => exact keeps_execDebugReadCs e hK
  | debugWriteCs => exact keeps_execDebugWriteCs e hK
  | dbgHalt => exact keeps_execDbgHalt e hK
  | debugHaltReached => exact keeps_execDebugHaltReached e hK
  | dbgResume => exact keeps_execDbgResume e hK
  | dbgStep => exact keeps_execDbgStep e hK
  | dbgSetBreakpoint => exact keeps_execDbgSetBreakpoint e hK
  | breakpointHalt => exact keeps_execBreakpointHalt e hK
  | dbgReadRegister => exact keeps_execDbgReadRegister e hK
  | tapBypass => exact keeps_execTapBypass e hK
  | tapIdcode => exact keeps_execTapIdcode e hK
  | tapSamplePreload => exact keeps_execTapSamplePreload e hK
  | tapExtest => exact keeps_execTapExtest e hK
  | tapDbgacc => exact keeps_execTapDbgacc e hK
  -- the dovetail
  | heartbeat => exact keeps_execHeartbeat e hK
  | heartbeatSend => exact keeps_execHeartbeatSend e hK
  | dhHeartbeatTimeout => exact keeps_execDhHeartbeatTimeout e hK
  | dfHeartbeatTimeout => exact keeps_execDfHeartbeatTimeout e hK
  | retransmitTimeout => exact keeps_execRetransmitTimeout e hK
  | laneFailure => exact keeps_execLaneFailure e hK
  | hello => exact keeps_execHello e hK
  | helloRepeat => exact keeps_execHelloRepeat e hK
  | reply w0 => exact keeps_execReply (w0 := w0) e hK
  | confirm => exact keeps_execConfirm e hK
  | keyRollStart => exact keeps_execKeyRollStart e hK
  | roll => exact keeps_execRoll e hK
  | rollRetry => exact keeps_execRollRetry e hK
  | rollack => exact keeps_execRollack e hK
  | echo => exact keeps_execEcho e hK
  | timeSync => exact keeps_execTimeSync e hK
  | timeSyncSend => exact keeps_execTimeSyncSend e hK
  | fieldTimeUnsync => exact keeps_execFieldTimeUnsync e hK
  -- traffic of the field die
  | cmdOutLevels => exact keeps_execCmdOutLevels e hK
  | cmdOutDac => exact keeps_execCmdOutDac e hK
  | cmdOutTrigger => exact keeps_execCmdOutTrigger e hK
  | cmdOutFlag => exact keeps_execCmdOutFlag e hK
  | cmdCfg => exact keeps_execCmdCfg e hK
  | shadowWrite => exact keeps_execShadowWrite e hK
  | safeSetEnter => exact keeps_execSafeSetEnter e hK
  | safeSetRelease => exact keeps_execSafeSetRelease e hK
  | bypassOpen => exact keeps_execBypassOpen e hK
  | bypassClose => exact keeps_execBypassClose e hK
  | bypassTestDone => exact keeps_execBypassTestDone e hK
  | jigProg => exact keeps_execJigProg e hK
  | jigInject => exact keeps_execJigInject e hK
  | jigStart => exact keeps_execJigStart e hK
  | jigStop => exact keeps_execJigStop e hK
  | jigReset => exact keeps_execJigReset e hK
  | qword => exact keeps_execQword e hK
  | upQueueSend => exact keeps_execUpQueueSend e hK
  | sampleMsg => exact keeps_execSampleMsg e hK
  | stampMsg => exact keeps_execStampMsg e hK
  | eventMsg => exact keeps_execEventMsg e hK
  | statusMsg => exact keeps_execStatusMsg e hK
  | faultMsg => exact keeps_execFaultMsg e hK
  | portTxFirst => exact keeps_execPortTxFirst e hK
  | portTxLater => exact keeps_execPortTxLater e hK
  | portRxFirst => exact keeps_execPortRxFirst e hK
  | portRxLater => exact keeps_execPortRxLater e hK
  | portFrameReceived => exact keeps_execPortFrameReceived e hK
  | portFrameSent => exact keeps_execPortFrameSent e hK
  | portBusOff => exact keeps_execPortBusOff e hK
  -- channels, converters, supply
  | channelEdge => exact keeps_execChannelEdge e hK
  | thresholdTrack => exact keeps_execThresholdTrack e hK
  | currentLimit => exact keeps_execCurrentLimit e hK
  | shortLatch => exact keeps_execShortLatch e hK
  | shortRetry => exact keeps_execShortRetry e hK
  | thermalShutdown => exact keeps_execThermalShutdown e hK
  | thermalRecover => exact keeps_execThermalRecover e hK
  | loadShed => exact keeps_execLoadShed e hK
  | mismatch => exact keeps_execMismatch e hK
  | openLoad => exact keeps_execOpenLoad e hK
  | driverFault => exact keeps_execDriverFault e hK
  | hwchSwitchDone => exact keeps_execHwchSwitchDone e hK
  | standbyTest => exact keeps_execStandbyTest e hK
  | triggerPeriod => exact keeps_execTriggerPeriod e hK
  | conversionStart => exact keeps_execConversionStart e hK
  | conversionDone => exact keeps_execConversionDone e hK
  | fsWatchdog => exact keeps_execFsWatchdog e hK
  | fieldSupplyUp => exact keeps_execFieldSupplyUp e hK
  | fieldSupplyLoss => exact keeps_execFieldSupplyLoss e hK
  | supplyUvEnter => exact keeps_execSupplyUvEnter e hK
  | supplyUvExit => exact keeps_execSupplyUvExit e hK
  | supplyOv => exact keeps_execSupplyOv e hK
  | ovlongEnter => exact keeps_execOvlongEnter e hK
  | ovlongExit => exact keeps_execOvlongExit e hK
  | supplyUvw => exact keeps_execSupplyUvw e hK
  | frstN => exact keeps_execFrstN e hK
  -- jigs
  | jigBr => exact keeps_execJigBr e hK
  | jigHold => exact keeps_execJigHold e hK
  | jigHoldEnd => exact keeps_execJigHoldEnd e hK
  | jigShift => exact keeps_execJigShift e hK
  | jigShiftBit => exact keeps_execJigShiftBit e hK
  | jigSwapOut => exact keeps_execJigSwapOut e hK
  | jigSwapIn => exact keeps_execJigSwapIn e hK
  | jigSwapExch => exact keeps_execJigSwapExch e hK
  | jigSwapClear => exact keeps_execJigSwapClear e hK
  | jigDriveLevels => exact keeps_execJigDriveLevels e hK
  | jigDriveDirections => exact keeps_execJigDriveDirections e hK
  | jigCountLoad => exact keeps_execJigCountLoad e hK
  | jigCountLoadSource => exact keeps_execJigCountLoadSource e hK
  | jigCountStep => exact keeps_execJigCountStep e hK
  | jigCountCompare => exact keeps_execJigCountCompare e hK
  | jigMark => exact keeps_execJigMark e hK
  | jigSignal => exact keeps_execJigSignal e hK
  | jigMatchCompare => exact keeps_execJigMatchCompare e hK
  | jigMatchLoadPat => exact keeps_execJigMatchLoadPat e hK
  | jigMatchLoadMask => exact keeps_execJigMatchLoadMask e hK
  | jigCrcInit => exact keeps_execJigCrcInit e hK
  | jigCrcArm => exact keeps_execJigCrcArm e hK
  | jigCrcDisarm => exact keeps_execJigCrcDisarm e hK
  | jigCrcCopy => exact keeps_execJigCrcCopy e hK
  -- rows outside these groups
  | registerWrite => exact keeps_execRegisterWrite e hK
  | unknownFrame => exact keeps_execUnknownFrame e hK
  | watchdogHalf => exact keeps_execWatchdogHalf e hK
  | hostPartCompletion => exact keeps_execHostPartCompletion e hK
  | hostRegisterWrite => exact keeps_execHostRegisterWrite e hK
  | fieldSelfTestDone => exact keeps_execFieldSelfTestDone e hK
  | refclkReturn => exact keeps_execRefclkReturn e hK
  | vidalertRelease => exact keeps_execVidalertRelease e hK
  | fieldTemperatureWarning => exact keeps_execFieldTemperatureWarning e hK
  | openLoadClear => exact keeps_execOpenLoadClear e hK
  | currentLimitEnd => exact keeps_execCurrentLimitEnd e hK
  | otpProvisioning => exact keeps_execOtpProvisioning e hK

/-- The invariant does not speak of the queue. -/
theorem inv_pending {s : State} (l : List Instr) (hI : Inv s) : Inv { s with pending := l } := hI

/-- A step on an empty queue is an SV cycle. -/
theorem step_nil {s : State} (hp : s.pending = []) : step s = .next (svTick s) := by
  simp only [step, hp]

/-- A step on a queue takes its first command off and runs it. -/
theorem step_cons {s : State} {i : Instr} {l : List Instr} (hp : s.pending = i :: l) :
    step s = exec i { s with pending := l } := by
  simp only [step, hp]

/-- Settles O33, by cases on the queue: an SV cycle and every command keep the invariant, and so does taking a command
off the queue. -/
theorem stepKeepsInvariant : Obligations.StepKeepsInvariant := by
  intro s t hI hs
  cases hp : s.pending with
  | nil =>
    rw [step_nil hp, Host.Outcome.next.injEq] at hs
    exact hs ▸ (keeps_svTick (Keeps.refl s)).2 hI
  | cons i l =>
    rw [step_cons hp] at hs
    exact (keeps_exec hs (Keeps.refl _)).2 (inv_pending l hI)

end Sys2Proof.Machine
end

section
/-! A syllable that is alone in its microword: what it is executed with, and how its microword ends when it gathers a
fault. Then the checks of its operands, and how an ALU or SHF syllable ends by what its table gives (R39, R49 to R51, R115). -/

namespace Sys2Proof.Machine

/-! ## The core and the slot that a sole syllable sees -/

/-- The table of cores is in canonical form. -/
theorem inv_cores {s : State} (hI : Inv s) : tabWf (fun _ => Core.reset) none s.cores = true := by
  obtain ⟨-, -, -, -, -, -, hcores, -⟩ := hI
  exact hcores

section
variable {s : State} (hI : Inv s) (c : CoreId) (i : Instr) (y : Syl)
include hI

theorem soleCtx_k : (soleCtx s c i y).k = gather i y (coreOf s c.val) := coreOf_taken hI c i y

theorem soleCtx_ring : (soleCtx s c i y).k.ring = (coreOf s c.val).ring := by rw [soleCtx_k hI]; rfl

theorem soleCtx_mstat : (soleCtx s c i y).k.mstat = (coreOf s c.val).mstat := by rw [soleCtx_k hI]; rfl

theorem soleCtx_recvQ : (soleCtx s c i y).k.recvQ = (coreOf s c.val).recvQ := by rw [soleCtx_k hI]; rfl

theorem soleCtx_pos : (soleCtx s c i y).pos = slotsOf y - 1 := by
  have hm : (soleCtx s c i y).k.mpc = (coreOf s c.val).mpc := by rw [soleCtx_k hI]; rfl
  have hp : (soleCtx s c i y).slot = (coreOf s c.val).mpc.toNat % 8 + slotsOf y - 1 := rfl
  rw [Ctx.pos, hm, hp]
  omega

/-- A change of the core that has gathered the syllable is a change of the core before it. -/
theorem modCore_taken (f : Core → Core) :
    modCore (taken s c i y) c.val f = setCore s c.val (f (gather i y (coreOf s c.val))) := by
  rw [modCore, coreOf_taken hI, taken, modCore, setCore_setCore (inv_cores hI)]

/-- A result without flags changes the registers only. -/
theorem flag_none_taken {a : Acc} (ha : a.st = taken s c i y) : a.flag c.val none = a := by
  have h : modCore (taken s c i y) c.val (fun k => { k with mstat := setFlags k.mstat none }) = taken s c i y :=
    modCore_taken hI c i y _
  rw [Acc.flag, Acc.eff, ha, h, ← ha]

end

/-- A syllable that is ready, and that gathers a fault which leaves nothing behind, traps. -/
theorem issue_ready_faults {s : State} {c : CoreId} {i : Instr} {y : Syl} (hR : Ready s c i y) {a : Acc} {t : Trp}
    (ha : semOf i (soleCtx s c i y) (Acc.start (taken s c i y)) = a) (hf : a.fault = some t) (hs : a.faultSt = id) :
    issue i c y s = .next (wordTrap (taken s c i y) c.val t) := by
  obtain ⟨hI, hw, h, hi, hn, hS⟩ := hR
  rw [issue, if_pos hw, issueState_sole hI hS hi hn, ha]
  simp only [wordEnd, hf, hs, id]

/-! ## Checks in sequence -/

section
variable {α β : Type} {m : Res α}

theorem res_bind_of_ok {v : α} (h : m = .ok v) (k : α → Res β) : (m >>= k) = k v := by rw [h]; rfl

theorem res_bind_of_error {e : Flaw} (h : m = .error e) (k : α → Res β) : (m >>= k) = .error e := by rw [h]; rfl

end

/-! ## The checks of the operands -/

theorem noPoison_ok {l : List Word} (h : ∀ w ∈ l, wtag w ≠ .poison) : noPoison l = .ok () := by
  induction l with
  | nil => rfl
  | cons w l ih =>
    obtain ⟨hw, hl⟩ := List.forall_mem_cons.1 h
    rw [noPoison, if_neg hw, ih hl]

/-- R51: the first POISON of the operands is the flaw. -/
theorem noPoison_error {l : List Word} {w : Word} (h : l.find? (fun v => wtag v = .poison) = some w) :
    noPoison l = .error (.poison w) := by
  induction l with
  | nil => cases h
  | cons v l ih =>
    rw [noPoison]
    by_cases hv : wtag v = .poison
    · rw [List.find?_cons_of_pos (by simpa using hv)] at h
      rw [if_pos hv, Option.some.inj h]
    · rw [List.find?_cons_of_neg (by simpa using hv)] at h
      rw [if_neg hv, ih h]

theorem consume_ok {l : List Word} (h : ∀ w ∈ l, wtag w ≠ .poison) : consume l = .ok () := by
  induction l with
  | nil => rfl
  | cons w l ih =>
    obtain ⟨hw, hl⟩ := List.forall_mem_cons.1 h
    rw [consume, if_neg hw, ih hl]

theorem need_empty {x : Ctx} {role : Nat} {ok : Tag → Bool} {w : Word} (h : wtag w = .empty) :
    need x role ok w = .error (tagvF x.pos 0x01 w role) := if_pos h

theorem need_ok {x : Ctx} {role : Nat} {ok : Tag → Bool} {w : Word} (he : wtag w ≠ .empty) (h : ok (wtag w) = true) :
    need x role ok w = .ok () := by
  rw [need, if_neg he, if_pos h]

theorem plainWord_iff {w : Word} : plainWord w = true ↔ wtag w ≠ .empty ∧ wtag w ≠ .poison := by simp [plainWord]

/-- A tag that a check accepts, which accepts neither EMPTY nor POISON, is the tag of a plain word. -/
theorem plainWord_of_accepted {ok : Tag → Bool} (hn : ok .empty = false ∧ ok .poison = false) {w : Word}
    (h : ok (wtag w) = true) : plainWord w = true := by
  obtain ⟨he, hp⟩ := hn
  refine plainWord_iff.2 ⟨fun e => ?_, fun e => ?_⟩
  · rw [e, he] at h
    cases h
  · rw [e, hp] at h
    cases h

/-! ## How an ALU or SHF syllable ends -/

theorem semWord_ok {f : Ctx → WordRes} {x : Ctx} {w : Word} {u : Option FlagUpd} (h : f x = .ok (w, u)) (a : Acc) :
    semWord f x a = (a.put x.y.d.toNat w).flag x.c u := by rw [semWord, h]

theorem semWord_error {f : Ctx → WordRes} {x : Ctx} {e : Flaw} (h : f x = .error e) (a : Acc) :
    semWord f x a = flawed x [x.y.d.toNat] a e := by rw [semWord, h]

section
variable {s : State} {c : CoreId} {i : Instr} {y : Syl} (hR : Ready s c i y) {f : Ctx → WordRes} (hsem : semOf i = semWord f)
include hR hsem

theorem issue_word_ok {w : Word} {u : Option FlagUpd} (h : f (soleCtx s c i y) = .ok (w, u)) :
    issue i c y s = .next (retireWord (taken s c i y) c.val
      (((Acc.start (taken s c i y)).put y.d.toNat w).flag c.val u)) :=
  issue_ready hR (by rw [hsem, semWord_ok h]; rfl) rfl rfl rfl rfl

/-- R51: a POISON operand is the result, without flags. -/
theorem issue_word_poison {w : Word} (h : f (soleCtx s c i y) = .error (.poison w)) :
    issue i c y s = .next (retireWord (taken s c i y) c.val ((Acc.start (taken s c i y)).putAll [y.d.toNat] w)) :=
  issue_ready hR (by rw [hsem, semWord_error h]; rfl) rfl rfl rfl rfl

/-- R49: a fault of the operands traps, or writes POISON under PSN. -/
theorem issue_word_soft {sub : Nat} {t : Trp} (h : f (soleCtx s c i y) = .error (.soft sub t)) :
    issue i c y s = .next (if mPSN (coreOf s c.val).mstat then
        retireWord (taken s c i y) c.val
          ((Acc.start (taken s c i y)).putAll [y.d.toNat] (poisonW (soleCtx s c i y) sub t.cause))
      else wordTrap (taken s c i y) c.val t) := by
  have ha : semOf i (soleCtx s c i y) (Acc.start (taken s c i y)) =
      if mPSN (coreOf s c.val).mstat then
        (Acc.start (taken s c i y)).putAll [y.d.toNat] (poisonW (soleCtx s c i y) sub t.cause)
      else (Acc.start (taken s c i y)).addFault t := by
    rw [hsem, semWord_error h, flawed, soleCtx_mstat hR.1]
    simp [soleCtx]
  split
  · next hp => exact issue_ready hR (ha.trans (if_pos hp)) rfl rfl rfl rfl
  · next hp => exact issue_ready_faults hR (ha.trans (if_neg hp)) rfl rfl

end

end Sys2Proof.Machine
end

section
/-! ALU and SHF syllables (O1, O4, O5, O6): the function that gives the result of each, its first checks, and what it
gives on the operands that the tables of the manual accept. -/

namespace Sys2Proof.Machine

/-! ## The result of each syllable -/

/-- The result of an ALU or SHF syllable that gives a word; any other command has none. -/
def wordRes (i : Instr) : Ctx → WordRes :=
  match i with
  | .addS .. => resAdd
  | .subS .. => resSub
  | .addcy .. => resAddcy
  | .subby .. => resSubby
  | .addsat .. => resAddsat
  | .subsat .. => resSubsat
  | .andS .. => resAnd
  | .orS .. => resOr
  | .xorS .. => resXor
  | .andn .. => resAndn
  | .notS .. => resNot
  | .movS .. => resMov
  | .movi .. => resMovi
  | .cmpeq .. => resCmpeq
  | .cmpne .. => resCmpne
  | .cmplt .. => resCmplt
  | .cmple .. => resCmple
  | .cmpltu .. => resCmpltu
  | .cmpleu .. => resCmpleu
  | .minS .. => resMin
  | .maxS .. => resMax
  | .minu .. => resMinu
  | .maxu .. => resMaxu
  | .absS .. => resAbs
  | .negS .. => resNeg
  | .sel .. => resSel
  | .tagof .. => resTagof
  | .retag .. => resRetag
  | .shlS .. => resShl
  | .shr .. => resShr
  | .sar .. => resSar
  | .rol .. => resRol
  | .ror .. => resRor
  | .extF .. => resExt
  | .insF .. => resIns
  | .popc .. => resPopc
  | .clz .. => resClz
  | .ctz .. => resCtz
  | .brev .. => resBrev
  | .sext .. => resSext
  | .pack16 .. => resPack16
  | .unpk16 .. => resUnpk16
  | _ => fun _ => .error (.poison emptyW)

/-- Each of these syllables is issued as every syllable is, and means its result. -/
theorem wordSyllables_meaning : ∀ I ∈ wordSyllables, ∀ (c : CoreId) (y : Syl),
    (∀ s, exec (I c y) s = issue (I c y) c y s) ∧ semOf (I c y) = semWord (wordRes (I c y)) := by
  intro I hI c y
  simp only [wordSyllables, List.mem_cons, List.not_mem_nil, or_false] at hI
  rcases hI with rfl | rfl | rfl | rfl | rfl | rfl | rfl | rfl | rfl | rfl | rfl | rfl | rfl | rfl | rfl | rfl | rfl | rfl |
    rfl | rfl | rfl | rfl | rfl | rfl | rfl | rfl | rfl | rfl | rfl | rfl | rfl | rfl | rfl | rfl | rfl | rfl | rfl | rfl |
    rfl | rfl | rfl | rfl <;> exact ⟨fun _ => rfl, rfl⟩

theorem pairSyllables_subset : pairSyllables ⊆ wordSyllables := by
  intro I hI
  simp only [pairSyllables, List.mem_cons, List.not_mem_nil, or_false] at hI
  rcases hI with rfl | rfl | rfl | rfl | rfl | rfl | rfl | rfl | rfl | rfl | rfl | rfl | rfl | rfl | rfl | rfl | rfl | rfl |
    rfl | rfl | rfl <;> simp only [wordSyllables, List.mem_cons, true_or, or_true]

/-! ## Syllables that check a and b first -/

theorem rowOf_empty {x : Ctx} {r : Rows} {a b : Word} (h : wtag a = .empty) :
    rowOf x r a b = .error (tagvF x.pos 0x01 a 0) := if_pos h

theorem cmpCheck_empty {x : Ctx} {sgn : Bool} {a b : Word} (h : wtag a = .empty) :
    cmpCheck x sgn a b = .error (tagvF x.pos 0x01 a 0) := if_pos h

/-- `r` is the result of a syllable that checks operands a and b for POISON, and then operand a for EMPTY. -/
def ChecksPair (x : Ctx) (r : WordRes) : Prop :=
  ∃ k, r = (noPoison [opA x, opB x] >>= k) ∧ (wtag (opA x) = .empty → k () = .error (tagvF x.pos 0x01 (opA x) 0))

section
variable {x : Ctx}

theorem checksPair_rowOf (r : Rows) (k : Tag → WordRes) :
    ChecksPair x (noPoison [opA x, opB x] >>= fun _ => rowOf x r (opA x) (opB x) >>= k) :=
  ⟨_, rfl, fun h => res_bind_of_error (rowOf_empty h) _⟩

theorem checksPair_need (ok : Tag → Bool) (k : Unit → WordRes) :
    ChecksPair x (noPoison [opA x, opB x] >>= fun _ => need x 0 ok (opA x) >>= k) :=
  ⟨_, rfl, fun h => res_bind_of_error (need_empty h) _⟩

theorem checksPair_cmpCheck (sgn : Bool) (k : Unit → WordRes) :
    ChecksPair x (noPoison [opA x, opB x] >>= fun _ => cmpCheck x sgn (opA x) (opB x) >>= k) :=
  ⟨_, rfl, fun h => res_bind_of_error (cmpCheck_empty h) _⟩

end

/-- In the order of `pairSyllables`: six of the rows, four logic, two of equality, four of order, four of minimum and
maximum, and pack16. -/
theorem checksPair_pairSyllables : ∀ I ∈ pairSyllables, ∀ (c : CoreId) (y : Syl) (x : Ctx),
    ChecksPair x (wordRes (I c y) x) := by
  simp only [pairSyllables, List.forall_mem_cons]
  exact ⟨fun _ _ _ => checksPair_rowOf .., fun _ _ _ => checksPair_rowOf .., fun _ _ _ => checksPair_rowOf ..,
    fun _ _ _ => checksPair_rowOf .., fun _ _ _ => checksPair_rowOf .., fun _ _ _ => checksPair_rowOf ..,
    fun _ _ _ => checksPair_need .., fun _ _ _ => checksPair_need .., fun _ _ _ => checksPair_need ..,
    fun _ _ _ => checksPair_need .., fun _ _ _ => checksPair_need .., fun _ _ _ => checksPair_need ..,
    fun _ _ _ => checksPair_cmpCheck .., fun _ _ _ => checksPair_cmpCheck .., fun _ _ _ => checksPair_cmpCheck ..,
    fun _ _ _ => checksPair_cmpCheck .., fun _ _ _ => checksPair_rowOf .., fun _ _ _ => checksPair_rowOf ..,
    fun _ _ _ => checksPair_rowOf .., fun _ _ _ => checksPair_rowOf ..,
    fun _ _ _ => checksPair_need .., List.forall_mem_nil _⟩

/-- Settles O4: POISON is the first thing that each of these syllables checks. -/
theorem poisonPropagates : Obligations.PoisonPropagates := by
  intro I hI s c y w hR hw
  obtain ⟨hexec, hsem⟩ := wordSyllables_meaning I (pairSyllables_subset hI) c y
  obtain ⟨k, hk, -⟩ := checksPair_pairSyllables I hI c y (soleCtx s c (I c y) y)
  rw [hexec]
  exact issue_word_poison hR hsem (hk.trans (res_bind_of_error (noPoison_error hw) _))

/-- Settles O5: EMPTY in operand a is what they check next, and the flaw is one that PSN turns into POISON. -/
theorem emptyOperandFaults : Obligations.EmptyOperandFaults := by
  intro I hI s c y hR ha hb
  obtain ⟨hexec, hsem⟩ := wordSyllables_meaning I (pairSyllables_subset hI) c y
  obtain ⟨k, hk, he⟩ := checksPair_pairSyllables I hI c y (soleCtx s c (I c y) y)
  have hp : noPoison [opA (soleCtx s c (I c y) y), opB (soleCtx s c (I c y) y)] = .ok () :=
    noPoison_ok (by simp [ha, hb])
  have hflaw := hk.trans ((res_bind_of_ok hp k).trans (he ha))
  rw [hexec, issue_word_soft hR hsem hflaw, soleCtx_pos hR.1, ha]
  rfl

/-! ## tagchk and tagof -/

theorem exec_tagchk (c : CoreId) (y : Syl) (s : State) : exec (.tagchk c y) s = issue (.tagchk c y) c y s := (rfl)

section
variable {x : Ctx} {a : Acc}

theorem semTagchk_empty (h : wtag (opA x) = .empty) :
    semTagchk x a = a.addFault (tagvT x.pos 0x01 (wtag (opA x)).code 0 (natW 0)) := by
  rw [semTagchk, if_pos h]
  simp [flawed, tagvF]

theorem semTagchk_pass (h : wtag (opA x) ≠ .empty) (hm : bitAt x.y.m.toNat ((wtag (opA x)).code - 1) = true) :
    semTagchk x a = a := by
  rw [semTagchk, if_neg h]
  exact if_pos hm

theorem semTagchk_refuse (h : wtag (opA x) ≠ .empty) (hm : bitAt x.y.m.toNat ((wtag (opA x)).code - 1) = false) :
    semTagchk x a = a.addFault (if wtag (opA x) = .poison then consumeT (opA x)
      else tagvT x.pos 0x0A (wtag (opA x)).code 0 (natW 0)) := by
  have hm' : ¬bitAt (mNat x) ((wtag (opA x)).code - 1) = true := by
    rw [mNat, hm]
    exact Bool.false_ne_true
  rw [semTagchk, if_neg h, if_neg hm']
  split
  · rfl
  · simp [flawed, tagvF]

end

/-- Settles O6: the three outcomes of tagchk, and tagof as a syllable without a check. -/
theorem tagchkChecks : Obligations.TagchkChecks := by
  intro s c y
  refine ⟨fun hR => ?_, fun hR => ?_⟩
  · have hpos := soleCtx_pos hR.1 c (.tagchk c y) y
    refine ⟨fun h => ?_, fun h hm => ?_, fun h hm => ?_⟩ <;> rw [exec_tagchk]
    · refine issue_ready_faults hR (semTagchk_empty h) ?_ rfl
      rw [hpos, h]
      rfl
    · exact issue_ready hR (semTagchk_pass h hm) rfl rfl rfl rfl
    · refine issue_ready_faults hR (semTagchk_refuse h hm) ?_ rfl
      rw [hpos]
      rfl
  · obtain ⟨hexec, hsem⟩ := wordSyllables_meaning .tagof (by simp [wordSyllables]) c y
    rw [hexec, issue_word_ok hR hsem rfl, flag_none_taken hR.1 c _ y rfl]

end Sys2Proof.Machine
end

section
/-! ALU and SHF syllables on operands that the tables of the manual accept (O1): what `wordRule` says is what the syllable
gives. -/

namespace Sys2Proof.Machine

/-- A guarded word. -/
theorem ite_some_iff {α : Type} {p : Prop} [Decidable p] {v q : α} : (if p then some v else none) = some q ↔ p ∧ v = q := by
  rw [Option.ite_none_right_eq_some, Option.some.injEq]

/-! ## Plain operands -/

section
variable {a b : Word} (ha : plainWord a = true) (hb : plainWord b = true)
include ha

theorem noPoison_plain : noPoison [a] = .ok () :=
  noPoison_ok (List.forall_mem_singleton.2 (plainWord_iff.1 ha).2)

theorem need_plain {x : Ctx} {role : Nat} {ok : Tag → Bool} (h : ok (wtag a) = true) : need x role ok a = .ok () :=
  need_ok (plainWord_iff.1 ha).1 h

include hb

theorem noPoison_plain_pair : noPoison [a, b] = .ok () :=
  noPoison_ok (List.forall_mem_cons.2 ⟨(plainWord_iff.1 ha).2, List.forall_mem_singleton.2 (plainWord_iff.1 hb).2⟩)

end

/-- A syllable on operand a alone, in a role that accepts no EMPTY and no POISON. -/
theorem unary_ok {x : Ctx} {ok : Tag → Bool} (hn : ok .empty = false ∧ ok .poison = false) (ha : ok (wtag (opA x)) = true)
    (k : WordRes) : (noPoison [opA x] >>= fun _ => need x 0 ok (opA x) >>= fun _ => k) = k := by
  have hp := plainWord_of_accepted hn ha
  rw [res_bind_of_ok (noPoison_plain hp), res_bind_of_ok (need_plain hp ha)]

/-- A syllable on operands a and b in such roles. -/
theorem binary_ok {x : Ctx} {oka okb : Tag → Bool} (ha : plainWord (opA x) = true) (hb : plainWord (opB x) = true)
    (hoka : oka (wtag (opA x)) = true) (hokb : okb (wtag (opB x)) = true) (k : WordRes) :
    (noPoison [opA x, opB x] >>= fun _ => need x 0 oka (opA x) >>= fun _ => need x 1 okb (opB x) >>= fun _ => k) = k := by
  rw [res_bind_of_ok (noPoison_plain_pair ha hb), res_bind_of_ok (need_plain ha hoka), res_bind_of_ok (need_plain hb hokb)]

/-! ## The rows of R40 and R41 -/

theorem rowTag_unaccepted (r : Rows) (t : Tag) :
    rowTag r .empty t = none ∧ rowTag r .poison t = none ∧ rowTag r t .empty = none ∧ rowTag r t .poison = none := by
  cases t <;> simp [rowTag, isNum]

/-- The tags of an accepted pair are neither EMPTY nor POISON. -/
theorem plainWord_of_rowTag {r : Rows} {a b : Word} {t : Tag} (h : rowTag r (wtag a) (wtag b) = some t) :
    plainWord a = true ∧ plainWord b = true := by
  simp only [plainWord_iff]
  refine ⟨⟨fun e => ?_, fun e => ?_⟩, ⟨fun e => ?_, fun e => ?_⟩⟩ <;>
    simp [e, rowTag_unaccepted] at h

theorem unitsAgree_meas {a b : Word} (h : unitsAgree a b = true) (ha : wtag a = .meas) (hb : wtag b = .meas) :
    unitOf a = unitOf b ∧ unitOk (unitOf a) = true := by
  simpa [unitsAgree, ha, hb] using h

theorem rowOf_ok {x : Ctx} {r : Rows} {a b : Word} {t : Tag} (hu : unitsAgree a b = true)
    (h : rowTag r (wtag a) (wtag b) = some t) : rowOf x r a b = .ok t := by
  obtain ⟨ha, hb⟩ := plainWord_of_rowTag h
  rw [rowOf, if_neg (plainWord_iff.1 ha).1, if_neg (plainWord_iff.1 hb).1, h]
  by_cases hm : wtag a = .meas ∧ wtag b = .meas
  · obtain ⟨he, hk⟩ := unitsAgree_meas hu hm.1 hm.2
    simp [hm, he ▸ hk, he]
  · simp [hm]

/-- A syllable whose pair the rows accept gives what it makes of their result tag. -/
theorem row_ok {x : Ctx} {r : Rows} {f : Tag → Word × Option FlagUpd} {q : Word × Option FlagUpd}
    (h : numRule r (opA x) (opB x) f = some q) :
    (noPoison [opA x, opB x] >>= fun _ => rowOf x r (opA x) (opB x) >>= fun t => pure (f t)) = .ok q := by
  obtain ⟨hu, h⟩ := Option.ite_none_right_eq_some.1 h
  obtain ⟨t, ht, rfl⟩ := Option.map_eq_some_iff.1 h
  obtain ⟨ha, hb⟩ := plainWord_of_rowTag ht
  rw [res_bind_of_ok (noPoison_plain_pair ha hb), res_bind_of_ok (rowOf_ok hu ht)]
  rfl

/-! ## Logic and equality -/

section
variable {x : Ctx} {q : Word × Option FlagUpd}

theorem logic_ok {f : Tag → Nat → Nat → Nat}
    (h : (if isLogic (wtag (opA x)) && isLogic (wtag (opB x)) then
      some (mkW (logicTag [wtag (opA x), wtag (opB x)])
        (f (logicTag [wtag (opA x), wtag (opB x)]) (pay (opA x)) (pay (opB x))), none) else none) = some q) :
    resLogic f x = .ok q := by
  obtain ⟨hg, rfl⟩ := ite_some_iff.1 h
  obtain ⟨ha, hb⟩ := Bool.and_eq_true_iff.1 hg
  exact binary_ok (plainWord_of_accepted ⟨rfl, rfl⟩ ha) (plainWord_of_accepted ⟨rfl, rfl⟩ hb) ha hb _

theorem cmpEq_ok {ne v : Bool} (hv : ((opA x == opB x) != ne) = v)
    (h : (if plainWord (opA x) && plainWord (opB x) then some (boolW v, cmpFlags (opA x) (opB x)) else none) = some q) :
    resCmpEq ne x = .ok q := by
  obtain ⟨hg, rfl⟩ := ite_some_iff.1 h
  obtain ⟨ha, hb⟩ := Bool.and_eq_true_iff.1 hg
  rw [← hv]
  exact binary_ok (oka := isAny) (okb := isAny) ha hb rfl rfl _

end

/-! ## Ordered comparisons -/

theorem cmpPair_unaccepted (sgn : Bool) (t : Tag) : cmpPair sgn .empty t = false ∧ cmpPair sgn .poison t = false ∧
    cmpPair sgn t .empty = false ∧ cmpPair sgn t .poison = false := by
  cases sgn <;> cases t <;> decide

theorem cmpPair_meas {sgn : Bool} {t : Tag} (h : cmpPair sgn .meas t = true) : t = .meas := by
  revert h
  cases sgn <;> cases t <;> decide

theorem plainWord_of_cmpPair {sgn : Bool} {a b : Word} (h : cmpPair sgn (wtag a) (wtag b) = true) :
    plainWord a = true ∧ plainWord b = true := by
  simp only [plainWord_iff]
  refine ⟨⟨fun e => ?_, fun e => ?_⟩, ⟨fun e => ?_, fun e => ?_⟩⟩ <;>
    simp [e, cmpPair_unaccepted] at h

theorem cmpCheck_ok {x : Ctx} {sgn : Bool} {a b : Word} (h : cmpPair sgn (wtag a) (wtag b) = true)
    (hu : unitsAgree a b = true) : cmpCheck x sgn a b = .ok () := by
  obtain ⟨ha, hb⟩ := plainWord_of_cmpPair h
  rw [cmpCheck, if_neg (plainWord_iff.1 ha).1, if_neg (plainWord_iff.1 hb).1, h]
  by_cases hm : wtag a = .meas
  · obtain ⟨he, hk⟩ := unitsAgree_meas hu hm (cmpPair_meas (hm ▸ h))
    simp [hm, he ▸ hk, he]
  · simp [hm]

/-- An ordered comparison whose pair R39 accepts. -/
theorem order_ok {x : Ctx} {sgn v v' : Bool} {q : Word × Option FlagUpd} (hv : v' = v)
    (h : orderRule sgn (opA x) (opB x) v = some q) :
    (noPoison [opA x, opB x] >>= fun _ => cmpCheck x sgn (opA x) (opB x) >>= fun _ =>
      pure (boolW v', cmpFlags (opA x) (opB x))) = .ok q := by
  obtain ⟨hg, rfl⟩ := ite_some_iff.1 h
  obtain ⟨hp, hu⟩ := Bool.and_eq_true_iff.1 hg
  obtain ⟨ha, hb⟩ := plainWord_of_cmpPair hp
  rw [hv, res_bind_of_ok (noPoison_plain_pair ha hb), res_bind_of_ok (cmpCheck_ok hp hu)]
  rfl

/-! ## Minimum and maximum -/

/-- min, max, minu and maxu, which take b where `takeB` says so. -/
theorem choice_ok {x : Ctx} {takeB : Word → Word → Bool} {p : Prop} [Decidable p] {q : Word × Option FlagUpd}
    (hp : takeB (opA x) (opB x) = true ↔ p)
    (h : numRule rowsOrder (opA x) (opB x) (fun t => resultFlags (chosen t (if p then opB x else opA x))) = some q) :
    resOrder takeB x = .ok q := by
  have ht : (if takeB (opA x) (opB x) then opB x else opA x) = if p then opB x else opA x :=
    ite_congr (propext hp) (fun _ => rfl) fun _ => rfl
  rw [resOrder, ht]
  exact row_ok h

/-! ## abs and neg -/

theorem signed_ok {x : Ctx} {isNeg : Bool} {v : Nat} {q : Word × Option FlagUpd}
    (hv : (if isNeg || bitAt (pay (opA x) % 2 ^ tagWidth (wtag (opA x))) (tagWidth (wtag (opA x)) - 1) then
      2 ^ tagWidth (wtag (opA x)) - pay (opA x) % 2 ^ tagWidth (wtag (opA x))
      else pay (opA x) % 2 ^ tagWidth (wtag (opA x))) = v)
    (h : (if isSigned (wtag (opA x)) && unitsAgree (opA x) (opA x) then
      some (rowW (wtag (opA x)) (opA x) v,
        flagsOf (rowW (wtag (opA x)) (opA x) v) (flagNeg (pay (rowW (wtag (opA x)) (opA x) v)))) else none) = some q) :
    resSigned isNeg x = .ok q := by
  obtain ⟨hg, rfl⟩ := ite_some_iff.1 h
  obtain ⟨ha, hu⟩ := Bool.and_eq_true_iff.1 hg
  have hunit : ¬(decide (wtag (opA x) = .meas) && !unitOk (unitOf (opA x))) = true := by
    intro hm
    simp only [Bool.and_eq_true, decide_eq_true_eq, Bool.not_eq_true'] at hm
    rw [(unitsAgree_meas hu hm.1 hm.1).2] at hm
    cases hm.2
  rw [resSigned, unary_ok ⟨rfl, rfl⟩ ha, if_neg hunit, ← hv]
  rfl

/-! ## mov, sel and retag -/

section
variable {x : Ctx} {c : CoreId} {y : Syl} {q : Word × Option FlagUpd}

theorem resMov_of_rule (h : wordRule (.movS c y) x = some q) : resMov x = .ok q := by
  obtain ⟨ha, rfl⟩ := ite_some_iff.1 h
  exact res_bind_of_ok (need_ok ha rfl) _

theorem resSel_of_rule (h : wordRule (.sel c y) x = some q) : resSel x = .ok q := by
  obtain ⟨hg, rfl⟩ := ite_some_iff.1 h
  simp only [Bool.and_eq_true] at hg
  obtain ⟨⟨hc, ha⟩, hb⟩ := hg
  have hcp := plainWord_of_accepted (ok := isBool) ⟨rfl, rfl⟩ hc
  have hp : noPoison [regRead x.k (mF x 0 5), opA x, opB x] = .ok () := noPoison_ok <| by
    simp only [plainWord_iff] at hcp ha hb
    simp [hcp, ha, hb]
  rw [resSel, res_bind_of_ok hp, res_bind_of_ok (need_plain hcp hc), res_bind_of_ok (need_plain ha rfl),
    res_bind_of_ok (need_plain hb rfl)]
  rfl

theorem resRetag_of_rule (h : wordRule (.retag c y) x = some q) : resRetag x = .ok q := by
  obtain ⟨hg, rfl⟩ := ite_some_iff.1 h
  obtain ⟨ha, hr⟩ := Bool.and_eq_true_iff.1 hg
  rw [resRetag, res_bind_of_ok (noPoison_plain ha), res_bind_of_ok (need_plain ha rfl), Option.isNone_iff_eq_none.1 hr]
  rfl

end

/-! ## Shifts and rotates -/

/-- The count of a shift (R135), where it is one. -/
def countRule (x : Ctx) : Option Nat :=
  if mF x 6 1 = 1 then (if x.y.b = 0 then some (mF x 0 6) else none)
  else if isNI (wtag (opB x)) ∧ 0 ≤ trueVal (opB x) ∧ trueVal (opB x) ≤ 63 then some (pay (opB x)) else none

/-- What the checks of a shift find when its count is one: B is unused where M gives the count, no operand is POISON, and
the count is the one read. -/
theorem shift_checks_ok {x : Ctx} {n : Nat} (ha : plainWord (opA x) = true) (h : countRule x = some n) :
    ¬(mF x 6 1 = 1 ∧ x.y.b ≠ 0) ∧ noPoison (shiftOps x) = .ok () ∧ shiftCount x = .ok n := by
  unfold countRule at h
  unfold shiftOps shiftCount
  by_cases hm : mF x 6 1 = 1
  · rw [if_pos hm] at h
    obtain ⟨hb, rfl⟩ := ite_some_iff.1 h
    exact ⟨fun g => g.2 hb, by rw [if_pos hm, noPoison_plain ha], if_pos hm⟩
  · rw [if_neg hm] at h
    obtain ⟨⟨hb, hr⟩, rfl⟩ := ite_some_iff.1 h
    have hp := plainWord_of_accepted (ok := isNI) ⟨rfl, rfl⟩ hb
    refine ⟨fun g => hm g.1, by rw [if_neg hm, noPoison_plain_pair ha hp], ?_⟩
    rw [if_neg hm, res_bind_of_ok (need_plain hp hb), if_pos hr]
    rfl

theorem shift_ok {x : Ctx} {ok : Tag → Bool} {f : Nat → Nat → Nat → Nat × Bool} {q : Word × Option FlagUpd}
    (hn : ok .empty = false ∧ ok .poison = false) (h : shiftRule ok f x = some q) : resShift ok f x = .ok q := by
  obtain ⟨ha, h⟩ := Option.ite_none_right_eq_some.1 h
  obtain ⟨n, hc, rfl⟩ := Option.map_eq_some_iff.1 h
  have hp := plainWord_of_accepted hn ha
  obtain ⟨hb, hops, hcount⟩ := shift_checks_ok hp hc
  rw [resShift, if_neg hb, res_bind_of_ok hops, res_bind_of_ok (need_plain hp ha), res_bind_of_ok hcount]
  rfl

/-! ## Fields, counts and halves -/

/-- A syllable on operand a alone, whose word R39 accepts. -/
theorem unary_of_rule {x : Ctx} {ok : Tag → Bool} {v q : Word × Option FlagUpd}
    (hn : ok .empty = false ∧ ok .poison = false) (h : (if ok (wtag (opA x)) then some v else none) = some q) :
    (noPoison [opA x] >>= fun _ => need x 0 ok (opA x) >>= fun _ => pure v) = .ok q := by
  obtain ⟨ha, rfl⟩ := ite_some_iff.1 h
  exact unary_ok hn ha _

section
variable {x : Ctx} {c : CoreId} {y : Syl} {q : Word × Option FlagUpd}

theorem resExt_of_rule (h : wordRule (.extF c y) x = some q) : resExt x = .ok q := by
  obtain ⟨hg, rfl⟩ := ite_some_iff.1 h
  simp only [Bool.and_eq_true, decide_eq_true_eq] at hg
  rw [resExt, if_neg (by omega)]
  exact unary_ok ⟨rfl, rfl⟩ hg.1 _

theorem resIns_of_rule (h : wordRule (.insF c y) x = some q) : resIns x = .ok q := by
  obtain ⟨hg, rfl⟩ := ite_some_iff.1 h
  simp only [Bool.and_eq_true, decide_eq_true_eq] at hg
  obtain ⟨⟨ha, hb⟩, hw⟩ := hg
  rw [resIns, if_neg (by omega)]
  exact binary_ok (plainWord_of_accepted ⟨rfl, rfl⟩ ha) (plainWord_of_accepted ⟨rfl, rfl⟩ hb) ha hb _

theorem resSext_of_rule (h : wordRule (.sext c y) x = some q) : resSext x = .ok q := by
  obtain ⟨hg, rfl⟩ := ite_some_iff.1 h
  simp only [Bool.and_eq_true, decide_eq_true_eq] at hg
  obtain ⟨ha, hw⟩ := hg
  rw [resSext, if_neg (by omega)]
  exact unary_ok ⟨rfl, rfl⟩ ha _

theorem resPack16_of_rule (h : wordRule (.pack16 c y) x = some q) : resPack16 x = .ok q := by
  obtain ⟨hg, rfl⟩ := ite_some_iff.1 h
  obtain ⟨ha, hb⟩ := Bool.and_eq_true_iff.1 hg
  exact binary_ok (plainWord_of_accepted ⟨rfl, rfl⟩ ha) (plainWord_of_accepted ⟨rfl, rfl⟩ hb) ha hb _

end

/-! ## All of them -/

/-- What the tables say of an ALU or SHF syllable is its result. -/
theorem wordRes_of_rule : ∀ I ∈ wordSyllables, ∀ (c : CoreId) (y : Syl) (x : Ctx) (q : Word × Option FlagUpd),
    wordRule (I c y) x = some q → wordRes (I c y) x = .ok q := by
  simp only [wordSyllables, List.forall_mem_cons]
  exact ⟨
    -- add, sub, addcy, subby, addsat, subsat
    fun _ _ _ _ h => row_ok h, fun _ _ _ _ h => row_ok h, fun _ _ _ _ h => row_ok h,
    fun _ _ _ _ h => row_ok h, fun _ _ _ _ h => row_ok h, fun _ _ _ _ h => row_ok h,
    -- and, or, xor, andn, not
    fun _ _ _ _ h => logic_ok (f := fun _ a b => a &&& b) h, fun _ _ _ _ h => logic_ok (f := fun _ a b => a ||| b) h,
    fun _ _ _ _ h => logic_ok (f := fun _ a b => a ^^^ b) h,
    fun _ _ _ _ h => logic_ok (f := fun t a b => a &&& invert t b) h, fun _ _ _ _ h => unary_of_rule ⟨rfl, rfl⟩ h,
    -- mov, movi
    fun _ _ _ _ h => resMov_of_rule h, fun _ _ _ _ h => congrArg Except.ok (Option.some.inj h),
    -- cmpeq, cmpne
    fun _ _ _ _ h => cmpEq_ok (by simp) h, fun _ _ _ _ h => cmpEq_ok (by simp) h,
    -- cmplt, cmple, cmpltu, cmpleu
    fun _ _ _ _ h => order_ok (by simp) h, fun _ _ _ _ h => order_ok (by simp) h,
    fun _ _ _ _ h => order_ok (by simp) h, fun _ _ _ _ h => order_ok (by simp) h,
    -- min, max, minu, maxu
    fun _ _ _ _ h => choice_ok (takeB := fun a b => ltS b a) Iff.rfl h,
    fun _ _ _ _ h => choice_ok (takeB := fun a b => ltS a b) Iff.rfl h,
    fun _ _ _ _ h => choice_ok (takeB := fun a b => decide (unsVal b < unsVal a)) decide_eq_true_iff h,
    fun _ _ _ _ h => choice_ok (takeB := fun a b => decide (unsVal a < unsVal b)) decide_eq_true_iff h,
    -- abs, neg
    fun _ _ _ _ h => signed_ok rfl h, fun _ _ _ _ h => signed_ok rfl h,
    -- sel, tagof, retag
    fun _ _ _ _ h => resSel_of_rule h, fun _ _ _ _ h => congrArg Except.ok (Option.some.inj h),
    fun _ _ _ _ h => resRetag_of_rule h,
    -- shl, shr, sar, rol, ror
    fun _ _ _ _ h => shift_ok ⟨rfl, rfl⟩ h, fun _ _ _ _ h => shift_ok ⟨rfl, rfl⟩ h,
    fun _ _ _ _ h => shift_ok ⟨rfl, rfl⟩ h, fun _ _ _ _ h => shift_ok ⟨rfl, rfl⟩ h,
    fun _ _ _ _ h => shift_ok ⟨rfl, rfl⟩ h,
    -- ext, ins
    fun _ _ _ _ h => resExt_of_rule h, fun _ _ _ _ h => resIns_of_rule h,
    -- popc, clz, ctz, brev
    fun _ _ _ _ h => unary_of_rule ⟨rfl, rfl⟩ h, fun _ _ _ _ h => unary_of_rule ⟨rfl, rfl⟩ h,
    fun _ _ _ _ h => unary_of_rule ⟨rfl, rfl⟩ h, fun _ _ _ _ h => unary_of_rule ⟨rfl, rfl⟩ h,
    -- sext, pack16, unpk16
    fun _ _ _ _ h => resSext_of_rule h, fun _ _ _ _ h => resPack16_of_rule h,
    fun _ _ _ _ h => unary_of_rule ⟨rfl, rfl⟩ h,
    List.forall_mem_nil _⟩

/-! ## The retirement of a word with its flags -/

/-- R71, R146: a word and its flags are all that a steady core's retirement changes. -/
theorem onlyCore_retireWord_word {s : State} {c : CoreId} {i : Instr} {y : Syl} (hR : Ready s c i y)
    (hK : Steady (coreOf s c.val)) (w : Word) (u : Option FlagUpd) :
    OnlyCore s c { putAll (passed (coreOf s c.val) y) [(y.d.toNat, w)] with mstat := setFlags (coreOf s c.val).mstat u }
      (retireWord (taken s c i y) c.val (((Acc.start (taken s c i y)).put y.d.toNat w).flag c.val u)) := by
  obtain ⟨hI, -, h, -, -, hS⟩ := hR
  have hK' : Steady { coreOf s c.val with mstat := setFlags (coreOf s c.val).mstat u } :=
    ⟨hK.shadow, hK.rearm, hK.delay, hK.rep, hK.loop, hK.step, hK.mode⟩
  have hret := retire_taken hI (i := i) (y := y) (a := ((Acc.start (taken s c i y)).put y.d.toNat w).flag c.val u)
    (inv_cores hI) hK' hS.first hS.zero hS.idle rfl rfl
    (modCore_taken hI c i y fun k => { k with mstat := setFlags k.mstat u }) (.inl rfl) rfl rfl rfl rfl
  rwa [settled_plain hK'.shadow rfl rfl rfl] at hret

/-- Settles O1: the syllable gives what the tables say, and its retirement is that of one word with its flags. -/
theorem wordSyllablesRetire : Obligations.WordSyllablesRetire := by
  intro I hI s c y w u hR hrule
  obtain ⟨hexec, hsem⟩ := wordSyllables_meaning I hI c y
  refine ⟨_, ?_, rfl, fun hK => onlyCore_retireWord_word hR hK w u⟩
  rw [hexec]
  exact issue_word_ok hR hsem (wordRes_of_rule I hI c y _ _ hrule)

end Sys2Proof.Machine
end

section
/-! The dovetail port (O23), and ctxsw, tagset, splice and mode (O28): what each gathers when its checks pass. -/

namespace Sys2Proof.Machine

theorem exec_fsend (c : CoreId) (y : Syl) (s : State) : exec (.fsend c y) s = issue (.fsend c y) c y s := (rfl)
theorem exec_frecv (c : CoreId) (y : Syl) (s : State) : exec (.frecv c y) s = issue (.frecv c y) c y s := (rfl)
theorem exec_ctxsw (c : CoreId) (y : Syl) (s : State) : exec (.ctxsw c y) s = issue (.ctxsw c y) c y s := (rfl)
theorem exec_tagset (c : CoreId) (y : Syl) (s : State) : exec (.tagset c y) s = issue (.tagset c y) c y s := (rfl)
theorem exec_splice (c : CoreId) (y : Syl) (s : State) : exec (.splice c y) s = issue (.splice c y) c y s := (rfl)
theorem exec_modeS (c : CoreId) (y : Syl) (s : State) : exec (.modeS c y) s = issue (.modeS c y) c y s := (rfl)

/-! ## The checks that these syllables share -/

/-- A field of M from bit 0. -/
theorem mF_zero (x : Ctx) (w : Nat) : mF x 0 w = x.y.m.toNat % 2 ^ w := by
  rw [mF, bits, Nat.pow_zero, Nat.div_one]

theorem ringMax_ok {x : Ctx} {r : Nat} (h : x.k.ring ≤ r) : ringMax x r = .ok () := if_neg (Nat.not_lt.2 h)

theorem sendFull_taken {s : State} (hI : Inv s) (c : CoreId) (i : Instr) (y : Syl) :
    sendFull (taken s c i y) c.val = sendFull s c.val := by
  rw [sendFull, coreOf_taken hI]
  rfl

/-! ## fsend -/

/-- The body words that the dovetail carries (R53). -/
def Carried (w : Word) : Prop := wtag w ≠ .poison ∧ wtag w ≠ .empty ∧ dvTag (wtag w) = true

theorem bodyCheck_ok {x : Ctx} {w : Word} (h : Carried w) : bodyCheck x w = .ok () := by
  obtain ⟨-, he, hd⟩ := h
  rw [bodyCheck, if_neg he, if_pos hd]

/-- What fsend does when its checks pass. -/
def fsendEnd (x : Ctx) (a : Acc) : Res Acc := do
  if !dvPaired x.s || x.s.islReset.contains 13 then return a.put x.y.d.toNat (boolW false)
  if sendFull x.s x.c then return portWait x a .sendq
  return (a.put x.y.d.toNat (boolW true)).eff fun s => coreSend s x.c ⟨mF x 0 8, opA x, opB x⟩

theorem semFsend_checked {x : Ctx} (hr : x.k.ring ≤ 1) (ht : fsendType (mF x 0 8) = true) (ha : Carried (opA x))
    (hb : Carried (opB x)) (a : Acc) : semFsend x a = outcome x [x.y.d.toNat] a (fsendEnd x a) := by
  have hc : consume [opA x, opB x] = .ok () :=
    consume_ok (List.forall_mem_cons.2 ⟨ha.1, List.forall_mem_singleton.2 hb.1⟩)
  rw [semFsend, res_bind_of_ok (ringMax_ok hr), ht]
  simp only [res_bind_of_ok hc, res_bind_of_ok (bodyCheck_ok ha), res_bind_of_ok (bodyCheck_ok hb)]
  rfl

theorem fsendEnd_unpaired {x : Ctx} (h : dvPaired x.s = false ∨ x.s.islReset.contains 13 = true) (a : Acc) :
    fsendEnd x a = .ok (a.put x.y.d.toNat (boolW false)) := by
  have h' : (!dvPaired x.s || x.s.islReset.contains 13) = true := by
    rcases h with h | h
    · rw [h]
      rfl
    · rw [h, Bool.or_true]
  rw [fsendEnd, if_pos h']
  rfl

theorem fsendEnd_queued {x : Ctx} (hp : dvPaired x.s = true) (hi : x.s.islReset.contains 13 = false)
    (hf : sendFull x.s x.c = false) (a : Acc) :
    fsendEnd x a = .ok ((a.put x.y.d.toNat (boolW true)).eff fun s => coreSend s x.c ⟨mF x 0 8, opA x, opB x⟩) := by
  rw [fsendEnd, hp, hi, hf]
  rfl

/-! ## frecv -/

section
variable {x : Ctx} (hd : x.y.d ≠ 0) (hg : x.y.d.toNat % 8 ≤ 5) (hr : x.k.ring ≤ 1) (a : Acc)
include hd hg hr

/-- frecv with its three registers in one group. -/
theorem semFrecv_checked :
    semFrecv x a =
      let a' : Acc := { a with
        writes := a.writes ++ [x.y.d.toNat, x.y.d.toNat + 1, x.y.d.toNat + 2].zip (frecvWords x.k) }
      if x.k.recvQ.isEmpty then a' else a'.eff fun s => coreTake s x.c := by
  have hn : ¬(x.y.d = 0 ∨ 5 < x.y.d.toNat % 8) := not_or.2 ⟨hd, Nat.not_lt.2 hg⟩
  simp only [semFrecv, if_neg hn, res_bind_of_ok (ringMax_ok hr)]
  rfl

theorem semFrecv_empty (hq : x.k.recvQ = []) :
    semFrecv x a = { a with
      writes := a.writes ++ [x.y.d.toNat, x.y.d.toNat + 1, x.y.d.toNat + 2].zip [natW 0, emptyW, emptyW] } := by
  rw [semFrecv_checked hd hg hr, frecvWords, hq]
  rfl

theorem semFrecv_message {m : Msg} {l : List Msg} (hq : x.k.recvQ = m :: l) :
    semFrecv x a = { a with
      writes := a.writes ++ [x.y.d.toNat, x.y.d.toNat + 1, x.y.d.toNat + 2].zip [natW m.typ, m.w0, m.w1]
      st := coreTake a.st x.c } := by
  rw [semFrecv_checked hd hg hr, frecvWords, hq]
  rfl

end

/-- Settles O23: the checks of fsend and of frecv, and then their ends. -/
theorem dovetailPort : Obligations.DovetailPort := by
  intro s c y hring
  refine ⟨fun hR ht hcar => ?_, fun hR hd hg => ?_⟩
  · have hr : (soleCtx s c (.fsend c y) y).k.ring ≤ 1 := (soleCtx_ring hR.1 c _ y).symm ▸ hring
    obtain ⟨ha, hb⟩ := List.forall_mem_cons.1 hcar
    have hchecked := semFsend_checked hr (by rw [mF_zero]; exact ht) ha (List.forall_mem_singleton.1 hb)
    refine ⟨fun hu => ?_, fun hp hi hf => ?_⟩ <;> rw [exec_fsend]
    · exact issue_ready hR ((hchecked _).trans (congrArg _ (fsendEnd_unpaired hu _))) rfl rfl rfl rfl
    · have hend := fsendEnd_queued (x := soleCtx s c (.fsend c y) y) hp hi ((sendFull_taken hR.1 c _ y).trans hf)
      rw [mF_zero] at hend
      exact issue_ready hR ((hchecked _).trans (congrArg _ (hend _))) rfl rfl rfl rfl
  · have hr : (soleCtx s c (.frecv c y) y).k.ring ≤ 1 := (soleCtx_ring hR.1 c _ y).symm ▸ hring
    have hq := soleCtx_recvQ hR.1 c (.frecv c y) y
    refine ⟨fun h => ?_, fun m l h => ?_⟩ <;> rw [exec_frecv]
    · exact issue_ready hR (semFrecv_empty hd hg hr _ (hq.trans h)) rfl rfl rfl rfl
    · exact issue_ready hR (semFrecv_message hd hg hr _ (hq.trans h)) rfl rfl rfl rfl

/-! ## ctxsw, tagset, splice and mode -/

section
variable {x : Ctx} (a : Acc)

/-- R178: ctxsw answers, and acts at retirement when the answer is 0. -/
theorem semCtxsw_checked (hd : x.y.d.toNat < 16 ∨ 24 ≤ x.y.d.toNat) (hr : x.k.ring ≤ 1) (ha : wtag (opA x) = .session) :
    semCtxsw x a =
      let a' := a.put x.y.d.toNat (natW (ctxswAnswer x.s (opA x)))
      if ctxswAnswer x.s (opA x) = 0 then a'.later fun s => ctxswDo s x.c (opA x) else a' := by
  have hn : ¬(16 ≤ x.y.d.toNat ∧ x.y.d.toNat < 24) := by omega
  have hc : consume [opA x] = .ok () := consume_ok (by simp [ha])
  have ht : need x 0 isSession (opA x) = .ok () := need_ok (by simp [ha]) (by rw [ha]; rfl)
  simp only [semCtxsw, if_neg hn, res_bind_of_ok (ringMax_ok hr), res_bind_of_ok hc, res_bind_of_ok ht]
  rfl

/-- R47, R179: tagset gives the payload another tag. -/
theorem semTagset_checked (hr : x.k.ring = 0) (ha : wtag (opA x) ≠ .empty)
    (hl : tagLimit (tagOfCode (mF x 0 4)) (pay (opA x)) = true) :
    semTagset x a = a.put x.y.d.toNat (mkW (tagOfCode (mF x 0 4)) (pay (opA x))) := by
  have hn : ¬(!tagLimit (tagOfCode (mF x 0 4)) (pay (opA x))) = true := by simp [hl]
  simp only [semTagset, res_bind_of_ok (ringMax_ok (Nat.le_of_eq hr)), if_neg ha, if_neg hn]
  rfl

theorem coreOperand_ok {role : Nat} {w : Word} (ht : wtag w = .nat) (hw : pay w ≤ 31) :
    coreOperand x role w = .ok (pay w) := by
  have hn : need x role isNat w = .ok () := need_ok (by rw [ht]; decide) (by rw [ht]; rfl)
  exact (res_bind_of_ok hn _).trans (if_neg (Nat.not_lt.2 hw))

/-- R180: splice answers, and starts the splice at retirement when the answer is 0. -/
theorem semSplice_checked (hr : x.k.ring = 0) (ha : wtag (opA x) = .nat) (hb : wtag (opB x) = .nat)
    (hpa : pay (opA x) ≤ 31) (hpb : pay (opB x) ≤ 31) (hq : bitAt (effQuiet x.s) x.c = false) :
    semSplice x a =
      let a' := a.put x.y.d.toNat (natW (spliceAnswer x.s (pay (opA x)) (pay (opB x))))
      if spliceAnswer x.s (pay (opA x)) (pay (opB x)) = 0 then
        a'.later fun s => spliceStart s (pay (opA x)) (pay (opB x)) (some x.c) else a' := by
  have hc : consume [opA x, opB x] = .ok () := consume_ok (by simp [ha, hb])
  have hn : ¬bitAt (effQuiet x.s) x.c = true := by simp [hq]
  simp only [semSplice, res_bind_of_ok (ringMax_ok (Nat.le_of_eq hr)), res_bind_of_ok hc,
    res_bind_of_ok (coreOperand_ok ha hpa), res_bind_of_ok (coreOperand_ok hb hpb), if_neg hn]
  rfl

/-- R181: mode answers with the mode that its request makes, and makes it at retirement. -/
theorem semMode_checked (hr : x.k.ring = 0) (ha : wtag (opA x) = .nat) :
    semMode x a = (a.put x.y.d.toNat (natW (modeNow
        (modeRequestDo x.s (pay (opA x) % 256) (modeMask (pay (opA x) % 256) (mF x 0 8)))))).later
      fun s => modeRequestDo s (pay (opA x) % 256) (modeMask (pay (opA x) % 256) (mF x 0 8)) := by
  have hc : consume [opA x] = .ok () := consume_ok (by simp [ha])
  have ht : need x 0 isNat (opA x) = .ok () := need_ok (by simp [ha]) (by rw [ha]; rfl)
  simp only [semMode, res_bind_of_ok (ringMax_ok (Nat.le_of_eq hr)), res_bind_of_ok hc, res_bind_of_ok ht]
  rfl

end

/-- An effect at retirement that is made on a condition. -/
theorem later_ite (a : Acc) (ha : a.after = id) (p : Prop) [Decidable p] (f : State → State) :
    (if p then a.later f else a) = { a with after := if p then f else id } := by
  split
  · rw [Acc.later, ha]
    rfl
  · rw [← ha]

/-- Settles O28: the checks of the four syllables, and then what they gather. -/
theorem systemSyllables : Obligations.SystemSyllables := by
  intro s c y
  refine ⟨fun hR hd hring ha => ?_, fun hR hring ha hl => ?_, fun hR hring ha hb hpa hpb hq => ?_, fun hR hring ha => ?_⟩
  · have hr : (soleCtx s c (.ctxsw c y) y).k.ring ≤ 1 := (soleCtx_ring hR.1 c _ y).symm ▸ hring
    rw [exec_ctxsw]
    exact issue_ready hR ((semCtxsw_checked _ hd hr ha).trans (later_ite _ rfl _ _)) rfl rfl rfl rfl
  · have hr := (soleCtx_ring hR.1 c (.tagset c y) y).trans hring
    have hsem := semTagset_checked (Acc.start (taken s c (.tagset c y) y)) hr ha (by rw [mF_zero]; exact hl)
    rw [mF_zero] at hsem
    rw [exec_tagset]
    exact issue_ready hR hsem rfl rfl rfl rfl
  · have hr := (soleCtx_ring hR.1 c (.splice c y) y).trans hring
    rw [exec_splice]
    exact issue_ready hR ((semSplice_checked _ hr ha hb hpa hpb hq).trans (later_ite _ rfl _ _)) rfl rfl rfl rfl
  · have hr := (soleCtx_ring hR.1 c (.modeS c y) y).trans hring
    have hsem := semMode_checked (Acc.start (taken s c (.modeS c y) y)) hr ha
    rw [mF_zero] at hsem
    rw [exec_modeS]
    exact issue_ready hR hsem rfl rfl rfl rfl

end Sys2Proof.Machine
end

section
/-! Retirement (O3), and the transfers of class SEQ: br, jr, nop, tfence and the line pad (O15), and the calls and the
returns (O16, O17). Each is issued as every syllable is, so a goal about its `exec` is, by unfolding, one about `issue`. -/

namespace Sys2Proof.Machine

/-- Settles O3: by `retire_taken`, which asks of `u` only that its table of cores is in canonical form. -/
theorem retirementOfOneSyllable : Obligations.RetirementOfOneSyllable := by
  intro s u c i y k a hs hu hk hmw hslots hwait hmpc hcur hst hxfer htrap hrep hloop hafter
  exact retire_taken hs (inv_cores hu) hk hmw hslots hwait hmpc hcur hst hxfer htrap hrep hloop hafter

/-! ## What a sole syllable sees of its core -/

section
variable {s : State} (hI : Inv s) {c : CoreId} {i : Instr} {y : Syl}
include hI

theorem soleCtx_inSlot (h : (coreOf s c.val).delay = none) : inSlot (soleCtx s c i y) = false := by
  rw [inSlot, soleCtx_k hI]
  exact Option.isSome_eq_false_iff.2 (Option.isNone_iff_eq_none.2 h)

theorem soleCtx_checkLine {l : Link} (h : innerLine s (coreOf s c.val).ring l = false) :
    checkLine (soleCtx s c i y) l = .ok () := by
  have hl : innerLine (taken s c i y) (soleCtx s c i y).k.ring l = false := (soleCtx_ring hI c i y).symm ▸ h
  exact if_neg (Bool.eq_false_iff.1 hl)

theorem soleCtx_live : (soleCtx s c i y).k.live = (coreOf s c.val).live := by rw [soleCtx_k hI]; rfl

theorem soleCtx_cwpOf : cwpOf (soleCtx s c i y).k = cwpOf (coreOf s c.val) := by rw [soleCtx_k hI]; rfl

end

/-! ## Direct targets and LINK operands -/

/-- A LINK word names its place. -/
@[simp] theorem ofNat_pay_linkW (l : Link) : BitVec.ofNat 20 (pay (linkW l)) = l := by
  have hl := l.isLt
  rw [linkW, pay_mkW, Nat.mod_eq_of_lt (by omega), BitVec.ofNat_toNat, BitVec.setWidth_eq]

theorem linkA_ok {x : Ctx} (h : wtag (opA x) = .link) : linkA x = .ok (BitVec.ofNat 20 (pay (opA x))) := by
  have hc : consume [opA x] = .ok () := consume_ok (by simp [h])
  have hn : need x 0 isLink (opA x) = .ok () := need_ok (by simp [h]) (by rw [h]; rfl)
  rw [linkA, res_bind_of_ok hc, res_bind_of_ok hn]
  rfl

theorem linkA_linkW {x : Ctx} {l : Link} (h : opA x = linkW l) : linkA x = .ok l := by
  rw [linkA_ok (by rw [h, linkW, wtag_mkW]), h, ofNat_pay_linkW]

theorem directTarget_ext {x : Ctx} {p : BitVec 36} (h : x.y.ext = some p) (brc : Bool) :
    directTarget x brc = .ok (BitVec.ofNat 20 p.toNat) := by
  rw [directTarget, h]

theorem directTarget_disp {x : Ctx} (h : x.y.ext = none) : directTarget x false = .ok (dispLink x (mNat x)) := by
  rw [directTarget, h]
  rfl

/-- R81: the slot and the line of a displaced target. -/
theorem dispLink_place (x : Ctx) (f : Nat) :
    (dispLink x f).toNat % 8 = f % 8 ∧
      ((dispLink x f).toNat / 8 : Int) = ((x.k.mpc.toNat / 8 : Nat) + signed 12 (f / 8)) % 131072 := by
  rw [dispLink, BitVec.toNat_ofNat]
  generalize hn : (((lineOf x.k.mpc : Nat) : Int) + signed 12 (f / 8)) % ((2 ^ 17 : Nat) : Int) = n
  rw [lineOf] at hn
  have hpow : ((2 ^ 17 : Nat) : Int) = 131072 := rfl
  rw [hpow] at hn
  omega

/-! ## What each syllable gathers -/

section
variable {x : Ctx} {l : Link} (a : Acc)

theorem semBr_go (ht : directTarget x false = .ok l) (hs : inSlot x = false) (hl : checkLine x l = .ok ()) :
    semBr x a = a.go l := by
  simp only [semBr, res_bind_of_ok ht, hs, res_bind_of_ok hl]
  rfl

theorem semJr_go (ht : linkA x = .ok l) (hs : inSlot x = false) (hl : checkLine x l = .ok ()) :
    semJr x a = a.go l := by
  simp only [semJr, res_bind_of_ok ht, hs, res_bind_of_ok hl]
  rfl

theorem semNop_zero (h : x.y.m = 0) : semNop x a = a := if_pos (.inl (by rw [mNat, h]; rfl))

end

/-! ## The line pad -/

/-- Before it gathers, a core that runs, waits for nothing and is not to halt takes the syllable at its mpc. -/
theorem issueState_takes {s : State} {c : Nat} {i : Instr} {y : Syl} (hr : coreRuns s c = true)
    (hw : (coreOf s c).wait = .none) (hh : (coreOf s c).haltReq = false) :
    issueState s c i y = issueTake s c i y := by
  simp [issueState, hr, hw, hh]

/-- The fields of a line pad (R72). -/
def padSyl : Syl := { stop := true, ext := none, d := 0, a := 0, b := 0, m := 0x7FFF }

/-- R72: at the start of a microword it takes the core to the next line. -/
theorem issueTake_pad {s : State} (c : CoreId) (hf : (coreOf s c.val).mw = [])
    (hl : lineAbsent (lineOf (coreOf s c.val).mpc) = false) :
    issueTake s c.val (.nop c padSyl) padSyl =
      modCore s c.val fun k => { k with mpc := BitVec.ofNat 20 (8 * (lineOf k.mpc + 1)) } := by
  have hp : isPad (coreOf s c.val) (.nop c padSyl) = true := by simp [isPad, hf, hl]; rfl
  rw [issueTake, if_pos hp]

/-- Settles O15: the checks of br and jr pass, nop and tfence have none, and the pad is not gathered at all. -/
theorem transfersAndPads : Obligations.TransfersAndPads := by
  refine ⟨fun s c y l => ⟨fun hR ht hd hl => ?_, fun hR ha hd hl => ?_, fun hR hm => ?_, fun hR => ?_⟩,
    fun x _ => ⟨fun p hp => directTarget_ext hp false, fun hp => ⟨_, directTarget_disp hp, dispLink_place x _⟩⟩,
    fun s c hr hw hh hf hl => ?_⟩
  · exact issue_ready hR (semBr_go _ ht (soleCtx_inSlot hR.1 hd) (soleCtx_checkLine hR.1 hl)) rfl rfl rfl rfl
  · exact issue_ready hR (semJr_go _ (linkA_ok ha) (soleCtx_inSlot hR.1 hd) (soleCtx_checkLine hR.1 hl)) rfl rfl rfl rfl
  · exact issue_ready hR (semNop_zero _ hm) rfl rfl rfl rfl
  · exact issue_ready hR rfl rfl rfl rfl rfl
  · exact congrArg Host.Outcome.next ((issueState_takes hr hw hh).trans (issueTake_pad c hf hl))

/-! ## The checks of the return stack and of the windows -/

section
variable {x : Ctx}

theorem checkPush_ok (h : ioF x.s (priv x.c oRSDEPTH) 0 5 < 16 ∨ mRSOV x.k.mstat = false) : checkPush x = .ok () := by
  refine if_neg fun ⟨hd, hm⟩ => ?_
  rcases h with h | h
  · omega
  · exact Bool.eq_false_iff.1 h hm

theorem checkPush_full (hd : ioF x.s (priv x.c oRSDEPTH) 0 5 = 16) (hm : mRSOV x.k.mstat = true) :
    checkPush x = .error (.trap (trp 0x0C (natW 0) (natW 16))) := if_pos ⟨hd, hm⟩

theorem checkPop_ok (h : 0 < ioF x.s (priv x.c oRSDEPTH) 0 5) : checkPop x = .ok () := if_neg (Nat.ne_of_gt h)

theorem checkPop_empty (h : ioF x.s (priv x.c oRSDEPTH) 0 5 = 0) :
    checkPop x = .error (.trap (trp 0x0D (natW 0) (natW 0))) := if_pos h

end

/-! ## What the calls and the returns gather -/

section
variable {x : Ctx} {l : Link} (a : Acc) (hs : inSlot x = false)
include hs

section
variable (ht : directTarget x false = .ok l) (hl : checkLine x l = .ok ())
include ht hl

theorem semCall_go (hp : checkPush x = .ok ()) :
    semCall x a = (a.go l).later fun s => rsPush s x.c (returnLink x) := by
  simp only [semCall, res_bind_of_ok ht, hs, res_bind_of_ok hl, res_bind_of_ok hp]
  rfl

theorem semCall_traps {t : Trp} (hp : checkPush x = .error (.trap t)) : semCall x a = a.addFault t := by
  simp only [semCall, res_bind_of_ok ht, hs, res_bind_of_ok hl, res_bind_of_error hp]
  rfl

theorem semCallw_go (hv : x.k.live < 15) (hp : checkPush x = .ok ()) :
    semCallw x a = (a.go l).later fun s => modCore (rsPush s x.c (returnLink x)) x.c windowUp := by
  simp only [semCallw, res_bind_of_ok ht, hs, res_bind_of_ok hl, if_neg (Nat.not_le.2 hv), res_bind_of_ok hp]
  rfl

end

theorem semCallr_go (ha : linkA x = .ok l) (hl : checkLine x l = .ok ()) (hp : checkPush x = .ok ()) :
    semCallr x a = (a.go l).later fun s => rsPush s x.c (returnLink x) := by
  simp only [semCallr, res_bind_of_ok ha, hs, res_bind_of_ok hl, res_bind_of_ok hp]
  rfl

theorem semRet_traps {t : Trp} (hp : checkPop x = .error (.trap t)) : semRet x a = a.addFault t := by
  simp only [semRet, hs, res_bind_of_error hp]
  rfl

/-- R88: WUNF comes before every other check of retw. -/
theorem semRetw_underflows (hv : x.k.live = 1) :
    semRetw x a = a.addFault (trp 0x0B (natW 0) (natW (cwpOf x.k))) := by
  simp only [semRetw, hs, if_pos hv]
  rfl

section
variable (hp : checkPop x = .ok ()) (hl : checkLine x (rsTop x.s x.c) = .ok ())
include hp hl

theorem semRet_go : semRet x a = (a.go (rsTop x.s x.c)).later fun s => rsPop s x.c := by
  simp only [semRet, hs, res_bind_of_ok hp, res_bind_of_ok hl]
  rfl

theorem semRetw_go (hv : x.k.live ≠ 1) :
    semRetw x a = (a.go (rsTop x.s x.c)).later fun s => modCore (rsPop s x.c) x.c windowDown := by
  simp only [semRetw, hs, if_neg hv, res_bind_of_ok hp, res_bind_of_ok hl]
  rfl

end

end

/-- The push of a sole call finds room, or may lose the oldest entry. -/
theorem soleCtx_checkPush {s : State} (hI : Inv s) {c : CoreId} {i : Instr} {y : Syl}
    (h : ioF s (priv c.val oRSDEPTH) 0 5 < 16 ∨ mRSOV (coreOf s c.val).mstat = false) :
    checkPush (soleCtx s c i y) = .ok () := checkPush_ok ((soleCtx_mstat hI c i y).symm ▸ h)

/-- Settles O16: the line of the target, the window and the return stack are checked, and all three pass. -/
theorem callsRetire : Obligations.CallsRetire := by
  intro s c y l d hd hl hp
  refine ⟨fun hR ht _ => ?_, fun hR ht _ hv => ?_, fun hR ha _ => ?_⟩
  · exact issue_ready hR (semCall_go _ (soleCtx_inSlot hR.1 hd) ht (soleCtx_checkLine hR.1 hl)
      (soleCtx_checkPush hR.1 hp)) rfl rfl rfl rfl
  · exact issue_ready hR (semCallw_go _ (soleCtx_inSlot hR.1 hd) ht (soleCtx_checkLine hR.1 hl)
      ((soleCtx_live hR.1).symm ▸ hv) (soleCtx_checkPush hR.1 hp)) rfl rfl rfl rfl
  · exact issue_ready hR (semCallr_go _ (soleCtx_inSlot hR.1 hd) (linkA_linkW ha) (soleCtx_checkLine hR.1 hl)
      (soleCtx_checkPush hR.1 hp)) rfl rfl rfl rfl

/-- Settles O17: the stack is not empty, and the window below is there or WUNF comes first. -/
theorem returnsRetire : Obligations.ReturnsRetire := by
  intro s c y hd hp hl
  refine ⟨fun hR => ?_, fun hR hv => ?_, fun hR hv => ?_⟩
  · exact issue_ready hR (semRet_go _ (soleCtx_inSlot hR.1 hd) (checkPop_ok hp) (soleCtx_checkLine hR.1 hl)) rfl rfl rfl rfl
  · exact issue_ready hR (semRetw_go _ (soleCtx_inSlot hR.1 hd) (checkPop_ok hp) (soleCtx_checkLine hR.1 hl)
      ((soleCtx_live hR.1).symm ▸ hv)) rfl rfl rfl rfl
  · rw [← soleCtx_cwpOf hR.1 (i := .retw c y) (y := y)]
    exact issue_ready_faults hR (semRetw_underflows _ (soleCtx_inSlot hR.1 hd) ((soleCtx_live hR.1).trans hv)) rfl rfl

end Sys2Proof.Machine
end

section
/-! The return stack (O18): a push and a pop by the registers that they write, and the traps at its edges. -/

namespace Sys2Proof.Machine

/-! ## The return stack as registers -/

theorem priv_ne (c : Nat) {o p : Nat} (h : o ≠ p) : priv c o ≠ priv c p := by
  unfold priv
  omega

theorem oRSDEPTH_ne_oRSENT (n : Nat) : oRSDEPTH ≠ oRSENT n := by
  unfold oRSDEPTH oRSENT
  omega

theorem priv_oRSENT_eq_iff (c m n : Nat) : priv c (oRSENT m) = priv c (oRSENT n) ↔ m = n := by
  unfold priv oRSENT
  omega

/-- The table of I/O registers is in canonical form. -/
theorem inv_io {s : State} (hI : Inv s) : tabWf ioReset none s.io = true := by
  obtain ⟨-, hio, -⟩ := hI
  exact hio

/-- A write of an entry leaves the depth. -/
theorem rsDepth_putEntry (s : State) (c n : Nat) (w : Word) :
    ioF (ioPut s (priv c (oRSENT n)) w) (priv c oRSDEPTH) 0 5 = ioF s (priv c oRSDEPTH) 0 5 := by
  rw [ioF, ioGet_ioPut_ne _ (priv_ne c (oRSDEPTH_ne_oRSENT n)), ioF]

/-- The return stack with its first `n` entries overwritten, each by the next newer one. -/
def rsShift (c n : Nat) (s : State) : State :=
  (List.range n).foldl (fun s i => ioPut s (priv c (oRSENT i)) (ioGet s (priv c (oRSENT (i + 1))))) s

theorem rsShift_succ (c n : Nat) (s : State) :
    rsShift c (n + 1) s =
      ioPut (rsShift c n s) (priv c (oRSENT n)) (ioGet (rsShift c n s) (priv c (oRSENT (n + 1)))) := by
  simp [rsShift, List.range_succ]

theorem rsDepth_rsShift (c n : Nat) (s : State) :
    ioF (rsShift c n s) (priv c oRSDEPTH) 0 5 = ioF s (priv c oRSDEPTH) 0 5 := by
  induction n with
  | zero => rfl
  | succ n ih => rw [rsShift_succ, rsDepth_putEntry, ih]

section
variable {s : State} (hI : Inv s) (c : Nat)
include hI

theorem inv_rsShift (n : Nat) : Inv (rsShift c n s) :=
  (keeps_foldl _ _ (Keeps.refl s) fun t _ => keeps_ioPut _ _ (Keeps.refl t)).2 hI

theorem ioGet_rsShift (n i : Nat) :
    ioGet (rsShift c n s) (priv c (oRSENT i)) = ioGet s (priv c (oRSENT (if i < n then i + 1 else i))) := by
  induction n generalizing i with
  | zero => rfl
  | succ n ih =>
    rw [rsShift_succ, ioGet_ioPut (inv_io (inv_rsShift hI c n)), ih, ih, if_neg (by omega : ¬n + 1 < n)]
    simp only [priv_oRSENT_eq_iff]
    by_cases hn : i = n
    · rw [if_pos hn, if_pos (by omega), hn]
    · rw [if_neg hn]
      by_cases hi : i < n
      · rw [if_pos hi, if_pos (by omega)]
      · rw [if_neg hi, if_neg (by omega)]

end

/-- The newest entry, by the depth and by the register that it names. -/
theorem rsTop_of_entry {s : State} {c n : Nat} {l : Link} (hd : ioF s (priv c oRSDEPTH) 0 5 = n + 1)
    (he : ioGet s (priv c (oRSENT n)) = linkW l) : rsTop s c = l := by
  rw [rsTop, hd, Nat.add_sub_cancel, he, ofNat_pay_linkW]

/-- A pop of a stack that is not empty. -/
theorem rsDepth_rsPop {s : State} (hI : Inv s) {c n : Nat} (hd : ioF s (priv c oRSDEPTH) 0 5 = n + 1) (hn : n < 2 ^ 5) :
    ioF (rsPop s c) (priv c oRSDEPTH) 0 5 = n := by
  rw [rsPop, ioF_ioSetF (inv_io hI) _ _ _ _ (by decide), hd, Nat.add_sub_cancel, Nat.mod_eq_of_lt hn]

/-! ## A push on a stack with room -/

section
variable {s : State} (hI : Inv s) (c : Nat) (l : Link)

theorem rsPush_room (h : ioF s (priv c oRSDEPTH) 0 5 < 16) :
    rsPush s c l = ioPut (ioSetF s (priv c oRSDEPTH) 0 5 (ioF s (priv c oRSDEPTH) 0 5 + 1))
      (priv c (oRSENT (ioF s (priv c oRSDEPTH) 0 5))) (linkW l) := if_pos h

include hI

theorem inv_rsPush : Inv (rsPush s c l) := (keeps_rsPush c l (Keeps.refl s)).2 hI

theorem rsDepth_rsPush_room (h : ioF s (priv c oRSDEPTH) 0 5 < 16) :
    ioF (rsPush s c l) (priv c oRSDEPTH) 0 5 = ioF s (priv c oRSDEPTH) 0 5 + 1 := by
  rw [rsPush_room c l h, rsDepth_putEntry, ioF_ioSetF (inv_io hI) _ _ _ _ (by decide), Nat.mod_eq_of_lt (by omega)]

theorem rsTop_rsPush_room (h : ioF s (priv c oRSDEPTH) 0 5 < 16) : rsTop (rsPush s c l) c = l := by
  refine rsTop_of_entry (rsDepth_rsPush_room hI c l h) ?_
  have hset : Inv (ioSetF s (priv c oRSDEPTH) 0 5 (ioF s (priv c oRSDEPTH) 0 5 + 1)) :=
    (keeps_ioSetF _ _ _ _ (Keeps.refl s)).2 hI
  rw [rsPush_room c l h, ioGet_ioPut (inv_io hset), if_pos rfl]

end

/-! ## A push on a full stack -/

section
variable {s : State} (hI : Inv s) (c : Nat) (l : Link) (h : ioF s (priv c oRSDEPTH) 0 5 = 16)
include h

/-- R91: every entry moves down, over the oldest, and the new one is the last. -/
theorem rsPush_full : rsPush s c l = ioPut (rsShift c 15 s) (priv c (oRSENT 15)) (linkW l) :=
  if_neg (by omega)

theorem rsDepth_rsPush_full : ioF (rsPush s c l) (priv c oRSDEPTH) 0 5 = 16 := by
  rw [rsPush_full c l h, rsDepth_putEntry, rsDepth_rsShift, h]

include hI

theorem ioGet_rsPush_full (i : Nat) : ioGet (rsPush s c l) (priv c (oRSENT i)) =
    if i = 15 then linkW l else ioGet s (priv c (oRSENT (if i < 15 then i + 1 else i))) := by
  rw [rsPush_full c l h, ioGet_ioPut (inv_io (inv_rsShift hI c 15)), ioGet_rsShift hI]
  simp only [priv_oRSENT_eq_iff]

theorem rsTop_rsPush_full : rsTop (rsPush s c l) c = l :=
  rsTop_of_entry (rsDepth_rsPush_full c l h) (by rw [ioGet_rsPush_full hI c l h, if_pos rfl])

end

/-- Settles O18: the two kinds of push by the registers that they write, and the two edges by the checks of call and ret. -/
theorem returnStackPushPop : Obligations.ReturnStackPushPop := by
  refine ⟨fun s c l hI hle => ⟨?_, fun hd => ?_, fun hd => ?_⟩,
    fun s c y l hdelay => ⟨fun hR ht hl hd hm => ?_, fun hR hd => ?_⟩⟩
  · rcases Nat.lt_or_eq_of_le hle with hd | hd
    · exact rsTop_rsPush_room hI c.val l hd
    · exact rsTop_rsPush_full hI c.val l hd
  · have hpush := rsDepth_rsPush_room hI c.val l hd
    exact ⟨hpush, rsDepth_rsPop (inv_rsPush hI c.val l) hpush (by omega)⟩
  · refine ⟨rsDepth_rsPush_full c.val l hd, fun i hi => ?_⟩
    rw [ioGet_rsPush_full hI c.val l hd, if_neg (by omega), if_pos hi]
  · have hp := checkPush_full (x := soleCtx s c (.callS c y) y) hd ((soleCtx_mstat hR.1 c _ y).symm ▸ hm)
    exact issue_ready_faults hR (semCall_traps _ (soleCtx_inSlot hR.1 hdelay) ht (soleCtx_checkLine hR.1 hl) hp) rfl rfl
  · exact issue_ready_faults hR (semRet_traps _ (soleCtx_inSlot hR.1 hdelay) (checkPop_empty hd)) rfl rfl

end Sys2Proof.Machine
end

section
/-! Repeats and loops (O19), and the waits and events of class SEQ with cwait (O20). -/

namespace Sys2Proof.Machine

/-! ## Repeats and loops -/

/-- The checks of an operand a in a role that accepts no EMPTY and no POISON, one of which a POISON would fail first. -/
theorem consume_opA_ok {x : Ctx} {ok : Tag → Bool} (hn : ok .empty = false ∧ ok .poison = false)
    (ha : ok (wtag (opA x)) = true) : consume [opA x] = .ok () ∧ need x 0 ok (opA x) = .ok () := by
  have hp := plainWord_of_accepted hn ha
  exact ⟨consume_ok (List.forall_mem_singleton.2 (plainWord_iff.1 hp).2), need_plain hp ha⟩

section
variable {x : Ctx} (a : Acc)

theorem semRep_eq : semRep x a = { a with rep := some (x.y.m.toNat % 256, false) } :=
  congrArg (fun n => { a with rep := some (n, false) }) (mF_zero x 8)

theorem semRepi_nat (ha : wtag (opA x) = .nat) : semRepi x a = { a with rep := some (pay (opA x), true) } := by
  obtain ⟨hc, hn⟩ := consume_opA_ok (x := x) (ok := isNat) ⟨rfl, rfl⟩ (by rw [ha]; rfl)
  simp only [semRepi, res_bind_of_ok hc, res_bind_of_ok hn]
  rfl

/-- R96: a loop whose end does not lie before its begin and whose count is not 0. -/
theorem semLoop_counts {l : Link} (ht : directTarget x false = .ok l) (hl : (nextOf x).toNat ≤ l.toNat)
    (ha : wtag (opA x) = .nat) (hp : pay (opA x) ≠ 0) :
    semLoop x a = { a with loop := some (nextOf x, l, pay (opA x)) } := by
  obtain ⟨hc, hn⟩ := consume_opA_ok (x := x) (ok := isNat) ⟨rfl, rfl⟩ (by rw [ha]; rfl)
  simp only [semLoop, res_bind_of_ok ht, if_neg (Nat.not_lt.2 hl), res_bind_of_ok hc, res_bind_of_ok hn, if_neg hp]
  rfl

end

/-- Settles O19: the count of repi and loop is a NAT, and the place of the loop's end is not before its begin. -/
theorem repeatsRetire : Obligations.RepeatsRetire := by
  intro s c y l
  refine ⟨fun hR => ?_, fun hR ha => ?_, fun hR ha hp ht hl => ?_⟩
  · exact issue_ready hR (semRep_eq _) rfl rfl rfl rfl
  · exact issue_ready hR (semRepi_nat _ ha) rfl rfl rfl rfl
  · exact issue_ready hR (semLoop_counts _ ht hl ha hp) rfl rfl rfl rfl

/-! ## A syllable that waits -/

section
variable {s : State} {c : CoreId} {i : Instr} {y : Syl}

/-- What a sole syllable that is ready sees of its core: it waits for nothing, and QUIET is off. -/
theorem Ready.idle (hR : Ready s c i y) : (soleCtx s c i y).k.wait = .none := by
  obtain ⟨hI, -, h, -, -, hS⟩ := hR
  rw [soleCtx_k hI]
  exact hS.idle

theorem Ready.calm (hR : Ready s c i y) : mQT (soleCtx s c i y).k.mstat = false := by
  obtain ⟨hI, -, h, -, -, hS⟩ := hR
  rw [soleCtx_mstat hI]
  exact hS.calm

/-- A syllable that is ready, and that gathers a wait and no fault, waits in the state that it gives. -/
theorem issue_ready_waits (hR : Ready s c i y) {a : Acc} {w : Wait} {t : State}
    (ha : semOf i (soleCtx s c i y) (Acc.start (taken s c i y)) = a) (hf : a.fault = none) (hh : a.hold = some (w, t)) :
    issue i c y s = .next (wordWait t c.val w) := by
  obtain ⟨hI, hw, h, hi, hn, hS⟩ := hR
  rw [issue, if_pos hw, issueState_sole hI hS hi hn, ha]
  simp only [wordEnd, hf, hh]

/-- The same for the wait of a PORT access, which comes after all the other checks (R164). -/
theorem issue_ready_waits_late (hR : Ready s c i y) {a : Acc} {w : Wait} {t : State}
    (ha : semOf i (soleCtx s c i y) (Acc.start (taken s c i y)) = a) (hf : a.fault = none) (hh : a.hold = none)
    (hl : a.late = none) (hq : a.lateHold = some (w, t)) : issue i c y s = .next (wordWait t c.val w) := by
  obtain ⟨hI, hw, h, hi, hn, hS⟩ := hR
  rw [issue, if_pos hw, issueState_sole hI hS hi hn, ha]
  simp only [wordEnd, hf, hh, succPriv_sole hI hS, hl, hq]

/-- A core that waits for what has come runs its microword again. -/
theorem resumeWait_held {h : Shape} {w : Wait} (hH : Held s c i h y w) :
    resumeWait s c.val w false = runWord s c.val false :=
  if_pos ⟨hH.runs, hH.waits⟩

/-- What a held syllable gathers when it goes on, and no fault and no wait with it, retires. -/
theorem resumeWait_held_retires {h : Shape} {w : Wait} (hH : Held s c i h y w) {a : Acc}
    (ha : semOf i (heldCtx s c y false) (Acc.start s) = a) (hf : a.fault = none) (hh : a.hold = none) (hl : a.late = none)
    (hq : a.lateHold = none) : resumeWait s c.val w false = retireWord s c.val a :=
  (resumeWait_held hH).trans (run_held_retires hH ha hf hh hl hq)

end

/-! ## What wfe, waitt and cwait gather -/

/-- Core `k` after its wfe: evlat[0] is clear (R100). -/
def wfeCore (k : Core) : Core := { k with evlat := k.evlat / 2 * 2 }

section
variable {x : Ctx} (a : Acc)

theorem semWfe_goes (h : bitAt x.k.evlat 0 = true) : semWfe x a = a.eff fun s => modCore s x.c wfeCore := if_pos h

theorem semWfe_waits (h : ¬bitAt x.k.evlat 0 = true) : semWfe x a = a.addHold .wfe x.s := if_neg h

section
variable (hu : bitAt (cmpSlot x.s x.c 7) 7 = true) (ha : wtag (opA x) = .time)
include hu ha

/-- R102: a waitt that is new arms its unit. -/
theorem semWaitt_arms (hw : x.k.wait ≠ .waitt) (hq : mQT x.k.mstat = false) :
    semWaitt x a = a.addHold .waitt (waittArm x.s (cmpSlot x.s x.c 7 % 64) (x.y.m.toNat % 4) (pay (opA x))) := by
  obtain ⟨hc, hn⟩ := consume_opA_ok (x := x) (ok := isTime) ⟨rfl, rfl⟩ (by rw [ha]; rfl)
  simp only [semWaitt, hu, res_bind_of_ok hc, res_bind_of_ok hn, if_neg hw, hq, mF_zero]
  rfl

/-- R102: one that waits goes on when its unit has fired. -/
theorem semWaitt_goes (hw : x.k.wait = .waitt) (hf : ioB x.s (aCMPCTL (cmpSlot x.s x.c 7 % 64)) 3 = true) :
    semWaitt x a = a := by
  obtain ⟨hc, hn⟩ := consume_opA_ok (x := x) (ok := isTime) ⟨rfl, rfl⟩ (by rw [ha]; rfl)
  simp only [semWaitt, hu, res_bind_of_ok hc, res_bind_of_ok hn, if_pos hw, unitOf7, hf]
  rfl

end

section
variable (hr : x.k.ring ≤ 2) (hq : mQT x.k.mstat = false)
include hr hq

/-- R169: the status of a job that has ended. -/
theorem semCwait_goes (hb : x.k.ciphBusy = false) : semCwait x a = a.put x.y.d.toNat (natW x.k.ciphSt) := by
  have hend : (!x.k.ciphBusy && (x.k.ciphSt == 7 || !mQT x.k.mstat || x.k.wait == .cwait)) = true := by simp [hb, hq]
  simp only [semCwait, res_bind_of_ok (ringMax_ok hr), if_pos hend]
  rfl

theorem semCwait_waits (hb : x.k.ciphBusy = true) :
    semCwait x a = { a with lateHold := a.lateHold <|> some (.cwait, x.s) } := by
  have hrun : ¬(!x.k.ciphBusy && (x.k.ciphSt == 7 || !mQT x.k.mstat || x.k.wait == .cwait)) = true := by simp [hb]
  have hquiet : ¬(x.k.wait = .cwait ∧ mQT x.k.mstat = true) := by simp [hq]
  simp only [semCwait, res_bind_of_ok (ringMax_ok hr), if_neg hrun, if_neg hquiet]
  rfl

end

end

/-! ## The four kinds of sev -/

section
variable {x : Ctx} (a : Acc)

/-- R101: the cores that the mask in A names, and first their flag when M[3] is 1. -/
theorem semSevCores_sends (hm : x.y.m.toNat < 4096) (ha : isNB (wtag (opA x)) = true) :
    semSevCores x a = a.later fun s => (bitList 32 (pay (opA x))).foldl sevCore
      (if bitAt x.y.m.toNat 3 then (bitList 32 (pay (opA x))).foldl (sevFlag (x.y.m.toNat % 8)) s else s) := by
  obtain ⟨hc, hn⟩ := consume_opA_ok (x := x) ⟨rfl, rfl⟩ ha
  have hk : ¬mF x 12 3 ≠ 0 := by
    rw [mF, bits, Nat.div_eq_of_lt (by omega)]
    decide
  have hf : (mF x 3 1 = 1) = (bitAt x.y.m.toNat 3 = true) := by simp [mF, bits, bitAt]
  simp only [semSevCores, if_neg hk, res_bind_of_ok hc, res_bind_of_ok hn, mF_zero, hf]
  rfl

theorem semSevHub_raises (hlo : 640 ≤ x.y.m.toNat % 1024) (hhi : x.y.m.toNat % 1024 ≤ 1022) :
    semSevHub x a = a.later fun s => raise s (x.y.m.toNat % 1024) := by
  have hn : mF x 0 10 = x.y.m.toNat % 1024 := mF_zero x 10
  have hk : ¬(x.y.m.toNat % 1024 < 640 ∨ 1022 < x.y.m.toNat % 1024) := by omega
  simp only [semSevHub, hn, if_neg hk]
  rfl

theorem semSevJig_eq : semSevJig x a = a.later fun s => dhOut s 4 (x.y.m.toNat % 32 + 32) :=
  congrArg (fun n => a.later fun s => dhOut s 4 (n + 32)) (mF_zero x 5)

theorem semSevTrig_eq : semSevTrig x a = a.later fun s => dhOut s 3 (x.y.m.toNat % 16) :=
  congrArg (fun n => a.later fun s => dhOut s 3 n) (mF_zero x 4)

end

/-- Settles O20: each wait either gathers what ends it or waits, at once and when it goes on, and each sev gathers its
effect. -/
theorem waitsAndEvents : Obligations.WaitsAndEvents := by
  refine ⟨fun s c y h => ⟨fun hR => ?_, fun hH he => ?_, fun hR hu ha => ?_, fun hH hu ha hf => ?_, fun hR hring => ?_,
    fun hH hring hb => ?_⟩, fun s c y => ⟨fun hR hm ha => ?_, fun hR hlo hhi => ?_, fun hR => ?_, fun hR => ?_⟩⟩
  · have hev : (soleCtx s c (.wfe c y) y).k.evlat = (coreOf s c.val).evlat := by rw [soleCtx_k hR.1]; rfl
    split
    · next he =>
      have hst : modCore (taken s c (.wfe c y) y) c.val wfeCore = _ := modCore_taken hR.1 c (.wfe c y) y wfeCore
      exact issue_ready hR ((semWfe_goes _ (hev.symm ▸ he)).trans (congrArg (fun t => { Acc.start _ with st := t }) hst))
        rfl rfl rfl rfl
    · next he => exact issue_ready_waits hR (semWfe_waits _ (hev.symm ▸ he)) rfl rfl
  · exact congrArg _ (resumeWait_held_retires hH (semWfe_goes _ he) rfl rfl rfl rfl)
  · exact issue_ready_waits hR (semWaitt_arms _ hu ha (by rw [hR.idle]; decide) hR.calm) rfl rfl
  · exact congrArg _ (resumeWait_held_retires hH (semWaitt_goes _ hu ha hH.waits hf) rfl rfl rfl rfl)
  · have hr : (soleCtx s c (.cwait c y) y).k.ring ≤ 2 := (soleCtx_ring hR.1 c _ y).symm ▸ hring
    have hb : (soleCtx s c (.cwait c y) y).k.ciphBusy = (coreOf s c.val).ciphBusy := by rw [soleCtx_k hR.1]; rfl
    have hst : (soleCtx s c (.cwait c y) y).k.ciphSt = (coreOf s c.val).ciphSt := by rw [soleCtx_k hR.1]; rfl
    split
    · next he => exact issue_ready_waits_late hR (semCwait_waits _ hr hR.calm (hb.trans he)) rfl rfl rfl rfl
    · next he =>
      have hgo := semCwait_goes (Acc.start (taken s c (.cwait c y) y)) hr hR.calm (hb.trans (Bool.eq_false_iff.2 he))
      rw [hst] at hgo
      exact issue_ready hR hgo rfl rfl rfl rfl
  · exact congrArg _ (resumeWait_held_retires hH (semCwait_goes _ hring hH.calm hb) rfl rfl rfl rfl)
  · exact issue_ready hR (semSevCores_sends _ hm ha) rfl rfl rfl rfl
  · exact issue_ready hR (semSevHub_raises _ hlo hhi) rfl rfl rfl rfl
  · exact issue_ready hR (semSevJig_eq _) rfl rfl rfl rfl
  · exact issue_ready hR (semSevTrig_eq _) rfl rfl rfl rfl

end Sys2Proof.Machine
end

section
/-! Asynchronous causes, the watchdog, paced issue and IOTO (O35). -/

namespace Sys2Proof.Machine

/-- A field from bit 0. -/
theorem bits_zero (n w : Nat) : bits n 0 w = n % 2 ^ w := by
  rw [bits, Nat.pow_zero, Nat.div_one]

/-! ## The causes that are pending -/

/-- No cause stands before NMI in the order of R229. -/
theorem asyncRank_pos (s : State) (c : Nat) (p : Async) : 1 ≤ asyncRank s c p := by
  unfold asyncRank
  repeat' split
  all_goals decide

theorem asyncBefore_one (s : State) (c : Nat) : asyncBefore s c 1 = false := by
  rw [asyncBefore, List.any_eq_false]
  intro p _
  have := asyncRank_pos s c p
  simpa using Nat.ne_of_gt this

theorem asyncRank_nmi {s : State} {c : Nat} (h : innerVector s c 0x1A = true) (n : Nat) : asyncRank s c (.nmi n) = 1 :=
  if_pos h

theorem asyncRank_wdog {s : State} {c : Nat} (h : innerVector s c 0x15 = true) : asyncRank s c .wdog = 2 := if_pos h

theorem asyncRank_step (s : State) (c : Nat) : asyncRank s c .step = 3 := (rfl)

theorem asyncRank_leaselost {s : State} {c : Nat} (hi : mIE (coreOf s c).mstat = true)
    (ht : asyncTargetOk s c 0x17 = true) (n : Nat) : asyncRank s c (.leaselost n) = 6 :=
  if_pos (Bool.and_eq_true_iff.2 ⟨hi, ht⟩)

/-- The code of the oldest NMI that is pending. -/
def pendingNmi (k : Core) : Option Nat := k.pend.findSome? fun p => match p with | .nmi n => some n | _ => none

/-- The bank of the oldest LEASELOST that is pending. -/
def pendingLease (k : Core) : Option Nat := k.pend.findSome? fun p => match p with | .leaselost n => some n | _ => none

section
variable {s : State} {c : CoreId} {n : Nat}

theorem exec_nmi (h : pendingNmi (coreOf s c.val) = some n) :
    exec (.nmi c) s = .next (pendTrap s c.val (.nmi n) 1 (trp 0x1A (natW 0) (natW n))) := by
  show Host.Outcome.next (match pendingNmi (coreOf s c.val) with
    | none => s
    | some n => pendTrap s c.val (.nmi n) 1 (trp 0x1A (natW 0) (natW n))) = _
  rw [h]

theorem exec_leaselost (h : pendingLease (coreOf s c.val) = some n) :
    exec (.leaselost c) s =
      .next (pendTrap s c.val (.leaselost n) 6 (trp 0x17 (addrW (n * 0x10000)) (natW n))) := by
  show Host.Outcome.next (match pendingLease (coreOf s c.val) with
    | none => s
    | some n => pendTrap s c.val (.leaselost n) 6 (trp 0x17 (addrW (n * 0x10000)) (natW n))) = _
  rw [h]

theorem exec_stepTrap (h : .step ∈ (coreOf s c.val).pend) : exec (.stepTrap c) s =
    .next (pendTrap s c.val .step 3 (trp 0x03 (linkW (coreOf s c.val).last) (natW 0))) :=
  congrArg Host.Outcome.next (if_pos (List.contains_iff_mem.2 h))

theorem exec_wdog_pending (h : .wdog ∈ (coreOf s c.val).pend) : exec (.wdog c) s = .next (wdogTake s c.val) :=
  congrArg Host.Outcome.next (if_pos (List.contains_iff_mem.2 h))

end

section
variable {s : State} {c : CoreId} (hok : asyncOk s c.val = true)
include hok

/-- A cause of rank `n` is taken when none of a lower rank is pending. -/
theorem pendTrap_taken {p : Async} {n : Nat} {t : Trp} (hr : asyncRank s c.val p = n)
    (hb : asyncBefore s c.val n = false) :
    pendTrap s c.val p n t = asyncTrap (modCore s c.val fun k => { k with pend := k.pend.erase p }) c.val t none := by
  simp [pendTrap, hok, hr, hb]

/-- A WDOG that is pending is taken at a boundary, as at any other place that lets an asynchronous cause in. -/
theorem wdogTake_taken (hv : innerVector s c.val 0x15 = true) (hb : asyncBefore s c.val 2 = false) :
    wdogTake s c.val = asyncTrap (modCore s c.val fun k => { k with pend := k.pend.erase .wdog }) c.val
      (trp 0x15 (natW 0) (natW 0)) none := by
  simp only [asyncOk, Bool.and_eq_true] at hok
  obtain ⟨⟨hruns, -⟩, hplace⟩ := hok
  simp [wdogTake, hruns, hplace, asyncRank_wdog hv, hb]

/-- R529: an enabled breakpoint with ACT 1 at mpc. -/
theorem exec_breakTrap (b : Fin 4) (he : bitAt (pay (ioGet s (priv c.val (oDBGBRK b.val)))) 20 = true)
    (ha : bitAt (pay (ioGet s (priv c.val (oDBGBRK b.val)))) 21 = true)
    (hp : pay (ioGet s (priv c.val (oDBGBRK b.val))) % 2 ^ 20 = (coreOf s c.val).mpc.toNat)
    (hb : asyncBefore s c.val 4 = false) :
    exec (.breakTrap c b) s =
      .next (asyncTrap s c.val (trp 0x14 (linkW (coreOf s c.val).mpc) (natW b.val)) none) := by
  have hplace : bits (pay (ioGet s (priv c.val (oDBGBRK b.val)))) 0 20 = (coreOf s c.val).mpc.toNat :=
    (bits_zero _ _).trans hp
  exact congrArg Host.Outcome.next (if_pos (by simp [he, ha, hplace, hok, hb]))

/-- R230, R302: the interrupt that SV presents can be taken. -/
theorem intOk_of (hi : mIE (coreOf s c.val).mstat = true) (hl : mLVL (coreOf s c.val).mstat < presented s c.val)
    (ht : asyncTargetOk s c.val (0x30 + presented s c.val) = true) (hb : asyncBefore s c.val 7 = false) :
    intOk s c.val = true := by
  simp [intOk, hok, hi, hl, ht, hb]

end

/-! ## The interrupt of a core that waits in wfe -/

/-- INTERRUPT of a core that does not wait in wfe. -/
theorem exec_interrupt {s : State} {c : CoreId} (hi : intOk s c.val = true) (hw : (coreOf s c.val).wait ≠ .wfe) :
    exec (.interrupt c) s = .next (intTake s c.val) := by
  have hn : ¬(!intOk s c.val) = true := by simp [hi]
  exact congrArg Host.Outcome.next ((if_neg hn).trans (if_neg hw))

/-- INTERRUPT of a core that waits in wfe: the wfe goes on first (R100). -/
theorem exec_interrupt_wfe {s t : State} {c : CoreId} (hi : intOk s c.val = true) (hw : (coreOf s c.val).wait = .wfe)
    (ht : runWord (setEvlat s c.val) c.val false = t) :
    exec (.interrupt c) s = .next (if intOk t c.val && decide ((coreOf t c.val).wait = .none) &&
      (coreOf t c.val).mw.isEmpty then intTake t c.val else t) := by
  have hn : ¬(!intOk s c.val) = true := by simp [hi]
  rw [← ht]
  exact congrArg Host.Outcome.next ((if_neg hn).trans (if_pos hw))

section
variable {s : State} (hI : Inv s) (c : CoreId)
include hI

theorem coreOf_setEvlat :
    coreOf (setEvlat s c.val) c.val = { coreOf s c.val with evlat := (coreOf s c.val).evlat ||| 1 } := by
  rw [setEvlat, modCore, coreOf_setCore (inv_cores hI), if_pos rfl]

/-- Setting evlat[0] of the waiting core leaves it waiting. -/
theorem held_setEvlat {i : Instr} {h : Shape} {y : Syl} {w : Wait} (hH : Held s c i h y w) :
    Held (setEvlat s c.val) c i h y w := by
  have hk := coreOf_setEvlat hI c
  have hruns : coreRuns (setEvlat s c.val) c.val = coreRuns s c.val := by
    simp only [coreRuns, hk]
    rfl
  constructor
  case shape => exact hH.shape
  case runs => exact hruns.trans hH.runs
  case waits => rw [hk]; exact hH.waits
  case real => exact hH.real
  case word => rw [hk]; exact hH.word
  case size => rw [hk]; exact hH.size
  case calm => rw [hk]; exact hH.calm
  case stop => exact hH.stop
  case fits => rw [hk]; exact hH.fits
  case present => rw [hk]; exact hH.present
  case whole => rw [hk]; exact hH.whole
  case ring => rw [hk]; exact hH.ring
  case named => exact hH.named
  case ext => exact hH.ext
  case far => exact hH.far
  case next => rw [hk]; exact hH.next
  case plain => rw [hk]; exact hH.plain

end

theorem bitAt_or_one (n : Nat) : bitAt (n ||| 1) 0 = true := by
  simp [bitAt]

/-- R100: a held wfe retires when evlat[0] is set, and clears it. -/
theorem runWord_wfe {s : State} (hI : Inv s) {c : CoreId} {h : Shape} {y : Syl} (hH : Held s c (.wfe c y) h y .wfe) :
    runWord (setEvlat s c.val) c.val false =
      retireWord (setEvlat s c.val) c.val { Acc.start (setEvlat s c.val) with
        st := setCore (setEvlat s c.val) c.val { coreOf (setEvlat s c.val) c.val with
          evlat := ((coreOf s c.val).evlat ||| 1) / 2 * 2 } } := by
  have hev : (coreOf (setEvlat s c.val) c.val).evlat = (coreOf s c.val).evlat ||| 1 := by rw [coreOf_setEvlat hI]
  rw [← hev]
  exact run_held_retires (held_setEvlat hI c hH) (semWfe_goes _ ((congrArg (bitAt · 0) hev).trans (bitAt_or_one _)))
    rfl rfl rfl rfl

/-! ## The watchdog, paced issue and IOTO -/

section
variable {s : State} {c : CoreId} (hr : coreRuns s c.val = true)
include hr

section
variable (hen : ioB s (priv c.val oWDOGCFG) 14 = true) (hw : (coreOf s c.val).wait ∉ [.wfe, .waitt, .quiet])
include hen hw

/-- R494: the watchdog of a core that runs and waits for nothing that stops it counts. -/
theorem wdogCounts_of : wdogCounts s c.val = true := by
  simp only [List.mem_cons, List.not_mem_nil, or_false, not_or] at hw
  obtain ⟨hwfe, hwaitt, hquiet⟩ := hw
  simp [wdogCounts, hr, hen, hwfe, hwaitt, hquiet]

theorem exec_watchdogHalf : exec (.watchdogHalf c) s =
    .next (wdogPut s c.val (wdogTo s c.val / 2) (ioB s (priv c.val oWDOGSTAT) 14)) :=
  congrArg Host.Outcome.next (if_pos (wdogCounts_of hr hen hw))

theorem exec_wdog_counted (hp : .wdog ∉ (coreOf s c.val).pend) : exec (.wdog c) s =
    .next (wdogTake (modCore (wdogPut s c.val (wdogTo s c.val) true) c.val fun k =>
      { k with pend := k.pend ++ [.wdog] }) c.val) :=
  congrArg Host.Outcome.next ((if_neg (mt List.contains_iff_mem.1 hp)).trans (if_pos (wdogCounts_of hr hen hw)))

theorem exec_wdogStage2 (h2 : ioB s (priv c.val oWDOGSTAT) 14 = true) :
    exec (.wdogStage2 c) s = .next (kerf s c.val 1) :=
  congrArg Host.Outcome.next (if_pos (Bool.and_eq_true_iff.2 ⟨wdogCounts_of hr hen hw, h2⟩))

end

theorem exec_pacedIssue (hw : (coreOf s c.val).wait = .quiet) : exec (.pacedIssue c) s =
    .next (runWord (modCore s c.val fun k => { k with wait := .none, paced := true }) c.val false) :=
  congrArg Host.Outcome.next (if_pos ⟨hr, hw⟩)

theorem exec_ioto (hw : (coreOf s c.val).wait = .sendq) : exec (.ioto c) s =
    .next (wordTrap s c.val (trp 0x06 (stallAddr s c.val) (natW 0))) :=
  congrArg Host.Outcome.next (if_pos ⟨hr, hw⟩)

end

/-- Settles O35: the pending causes by their ranks, the interrupt with the wfe before it, and the watchdog's rows. -/
theorem asynchronousCauses : Obligations.AsynchronousCauses := by
  refine ⟨fun s c n b hok => ⟨fun hn hv => ?_, fun hp hv hb => ?_, fun hp hb => ?_, exec_breakTrap hok b,
      fun hn hi ht hb => ?_⟩,
    fun s c y h hok hi hl ht hb => ⟨fun hw => ?_, fun hH hI => ?_⟩,
    fun s c => ⟨fun hr hen hw => ?_, exec_pacedIssue, exec_ioto⟩⟩
  · rw [exec_nmi hn, pendTrap_taken hok (asyncRank_nmi hv n) (asyncBefore_one s c.val)]
  · rw [exec_wdog_pending hp, wdogTake_taken hok hv hb]
  · rw [exec_stepTrap hp, pendTrap_taken hok (asyncRank_step s c.val) hb]
  · rw [exec_leaselost hn, pendTrap_taken hok (asyncRank_leaselost hi ht n) hb]
  · exact exec_interrupt (intOk_of hok hi hl ht hb) hw
  · exact exec_interrupt_wfe (intOk_of hok hi hl ht hb) hH.waits (runWord_wfe hI hH)
  · exact ⟨exec_watchdogHalf hr hen hw, exec_wdog_counted hr hen hw, exec_wdogStage2 hr hen hw⟩

end Sys2Proof.Machine
end

section
/-! The device opcodes that need no session (O46): NOP, MEASURE, ACTUATE, LEDGER_READ, SHIM_LOAD with its cut-over, TIME,
CONFIG, MODE_REQUEST and ABORT. -/

namespace Sys2Proof.Machine

/-! ## The entry in work -/

/-- A core in whose work an entry of opcode `op` is works on it for every row that admits `op`. -/
theorem workOf_admitted {s : State} {c : CoreId} {w : Work} {op : Nat} (h : InWork s c w op) {p : Nat → Bool}
    (hp : p op = true) : workOf s c.val p = some w := by
  obtain ⟨hrun, hstate, hhalted, hring, hhome, hslot, hop⟩ := h
  have hon : dispOn s c.val = true := by simp [dispOn, hstate, hhalted, hring, hhome]
  have hfull : ((coreOf s c.val).workFull || w.held) = true := by simpa using hslot
  simp [workOf, hrun, hon, hfull, hop, hp]

theorem workOf_inWork {s : State} {c : CoreId} {w : Work} {op : Nat} (h : InWork s c w op) :
    workOf s c.val (· == op) = some w := workOf_admitted h (beq_self_eq_true op)

theorem workOf_idle {s : State} {c : Nat} (h : (coreOf s c).workRun = none) (p : Nat → Bool) : workOf s c p = none := by
  simp [workOf, h]

section
variable {s : State} {c : CoreId} {w : Work}

theorem execNopEntry_inWork (h : InWork s c w 0) : execNopEntry c s = .next (workEnd s c.val w 0 0) := by
  simp only [execNopEntry, workOf_inWork h]

/-! ## MEASURE -/

theorem measureStart_waits (hn : w.samples ≠ 0) (hl : 2 * w.samples ≤ w.len) (hb : w.bufOk s (2 * w.samples) = true) :
    measureStart s c.val w = heldStart (modCore (workWait s c.val w none 0) c.val workClear) c.val := by
  simp [measureStart, hn, hl, hb]

/-- Without samples MEASURE only takes the entry in work. -/
theorem execMeasure_start (h : InWork s c w 5) : execMeasure c [] s = .next (measureStart s c.val w) := by
  simp only [execMeasure, workOf_inWork h]
  split <;> rfl

theorem execMeasure_more {x : Waiter} {l : List (Word × Word)} (hr : (coreOf s c.val).workRun = none)
    (hx : waitFind s c.val 5 = some x) (hl : l ≠ []) : execMeasure c l s = .next (measureMore s x l) := by
  have he : ¬l.isEmpty = true := by simpa using hl
  simp only [execMeasure, workOf_idle hr, hx, if_neg he]

/-- Samples that do not end the MEASURE are written, and counted in its waiter. -/
theorem measureMore_waits {x : Waiter} {l : List (Word × Word)} (hf : bufFault s x.work.win true = none)
    (hc : x.count + l.length < x.work.samples) :
    measureMore s x l = { bufWrite s x.work.win (x.work.idx + 2 * x.count) (l.flatMap fun p => [p.1, p.2]) with
      waits := (bufWrite s x.work.win (x.work.idx + 2 * x.count) (l.flatMap fun p => [p.1, p.2])).waits.map fun y =>
        if y = x then { x with count := x.count + l.length } else y } := by
  have htake : l.take (x.work.samples - x.count) = l := List.take_of_length_le (by omega)
  simp only [measureMore, hf, htake, if_neg (Nat.ne_of_lt hc)]

/-! ## ACTUATE and LEDGER_READ -/

theorem execActuate_unpaired (h : InWork s c w 6) (hp : dvPaired s = false) :
    execActuate c s = .next (workEnd s c.val w 0x11 0) := by
  simp [execActuate, workOf_inWork h, hp]

theorem execActuate_sends {t : State} (h : InWork s c w 6) (hp : dvPaired s = true) (hq : sendFull s c.val = false)
    (ht : workRec s c.val w 0x024 w.handle (w.p 5 % 2 ^ 32) = some t) :
    execActuate c s = .next (coreSend (workWait t c.val w (some (actuateMsg w)) 0) c.val (actuateMsg w)) := by
  simp only [execActuate, workOf_inWork h, hp, hq, ht]
  rfl

theorem execLedgerRead_reads (h : InWork s c w 8) (hl : 32 * w.p 6 ≤ w.len) (hb : w.bufOk s (32 * w.p 6) = true)
    (hf : bufFault s w.win true = none) :
    execLedgerRead c s = .next (workEnd (bufWrite s w.win w.idx ((recsFrom s (w.p 5) (w.p 6)).flatMap slotWords))
      c.val w 0 (recsFrom s (w.p 5) (w.p 6)).length) := by
  simp [execLedgerRead, workOf_inWork h, hl, hb, hf]

/-! ## SHIM_LOAD and its cut-over -/

section
variable (h : InWork s c w 9) (im : List (BitVec 64)) (st : BitVec 3)
include h

theorem execShimLoad_notAdmin (ha : w.admin s = false) : execShimLoad c im st s = .next (workEnd s c.val w 6 0) := by
  simp [execShimLoad, workOf_inWork h, ha]

theorem execShimLoad_alarm (ha : w.admin s = true) (hm : modeBit s 7 = true) :
    execShimLoad c im st s = .next (workEnd s c.val w 0x0F (ioF s aSHIMSTAT 0 4)) := by
  simp [execShimLoad, workOf_inWork h, ha, hm]

theorem execShimLoad_loads (ha : w.admin s = true) (hm : modeBit s 7 = false) (hb : w.bufOk s w.len = true)
    (hf : bufFault s w.win false = none) (hs : s.shimBusy = none) (hl : im.length = w.len)
    (hw : waitFind s c.val 9 = none) : execShimLoad c im st s = .next (shimLoadDo s c.val w im st.toNat) := by
  simp [execShimLoad, workOf_inWork h, ha, hm, hb, hf, hs, hl, hw]

end

/-- R105, R109, R487: the pair after the cut-over of a shim with patch records `recs` and number `seq`, but for the
completion of its entry. -/
def shimCut (s : State) (recs : List (Nat × Nat)) (seq : Nat) : State :=
  let t := patchPut { s with shimBusy := none } (patchApply (patchTable s) recs)
  setupHook (raise (shimEnd (ioPut t aSHIMVER (natW (seq + satAt 255 (ioF t aSHIMVER 24 8 + 1) * 2 ^ 24))) seq 1) 600)

section
variable {recs : List (Nat × Nat)} {seq : Nat} (hs : s.shimBusy = some (recs, seq))
include hs

theorem execShimCutOver_alone (hw : (shimCut s recs seq).waits.find? (fun x => x.work.op == 9) = none) :
    execShimCutOver s = .next (shimCut s recs seq) := by
  simp only [shimCut] at hw
  simp only [execShimCutOver, hs, hw]
  rfl

theorem execShimCutOver_completes {x : Waiter}
    (hw : (shimCut s recs seq).waits.find? (fun x => x.work.op == 9) = some x) :
    execShimCutOver s = .next (waitDone (shimCut s recs seq) x 0 (natW 1)) := by
  simp only [shimCut] at hw
  simp only [execShimCutOver, hs, hw]
  rfl

end

/-! ## TIME -/

section
variable (h : InWork s c w 0xB)
include h

theorem execTimeEntry_short (hb : bitAt (w.p 5) 0 = false) (hl : w.len < 4) :
    execTimeEntry c s = .next (workDone s c.val w 0 w.handle (mkW .time (tbLo s 0))) := by
  simp [execTimeEntry, workOf_inWork h, hb, timeEnd, hl]

theorem execTimeSet_notAdmin (hb : bitAt (w.p 5) 0 = true) (ha : w.admin s = false) :
    execTimeSet c s = .next (workEnd s c.val w 6 0) := by
  simp [execTimeSet, workOf_inWork h, hb, ha]

theorem execTimeSet_sets (hb : bitAt (w.p 5) 0 = true) (ha : w.admin s = true) :
    execTimeSet c s = .next (if tbGet s 0 ≤ w.p 6 * 2 ^ 36 + w.p 7 then
        timeEnd (tbSet (ioPut s (aTB 0 + 5) (mkW .time (w.p 7))) 0 0 (w.p 6)) c.val w
      else workEnd (tbSet (ioPut s (aTB 0 + 5) (mkW .time (w.p 7))) 0 0 (w.p 6)) c.val w 0x0F 0) := by
  simp [execTimeSet, workOf_inWork h, hb, ha]

end

/-! ## CONFIG, MODE_REQUEST and ABORT -/

theorem execConfigRead_reads (h : InWork s c w 0xC) (hb : bitAt (w.p 5) 8 = false) (ha : w.admin s = true)
    (hlo : 1 ≤ w.p 5 % 256) (hhi : w.p 5 % 256 ≤ 4) :
    execConfigRead c s = .next (workEnd s c.val w 0 (configOf s (w.p 5 % 256))) := by
  have hi : ¬(w.p 5 % 256 < 1 ∨ 4 < w.p 5 % 256) := by omega
  simp only [execConfigRead, workOf_inWork h, hb, ha, if_neg hi]
  rfl

theorem execConfigWrite_writes (h : InWork s c w 0xC) (hb : bitAt (w.p 5) 8 = true) (ha : w.admin s = true)
    (hc : configOk (w.p 5 % 256) (w.p 6) = true) (hm : poolMoves s (w.p 5 % 256) (w.p 6) (w.p 7) = false) :
    execConfigWrite c s = .next (workEnd (configPut s (w.p 5 % 256) (w.p 6) (w.p 7)) c.val w 0 (w.p 6)) := by
  simp [execConfigWrite, workOf_inWork h, hb, ha, hc, hm]

section
variable (h : InWork s c w 0xD)
include h

/-- R464: a ring that is no admin ring may ask for MODE [4] and [6] only. -/
theorem execModeRequest_notAdmin (ha : w.admin s = false)
    (hm : w.p 5 / 256 % 256 &&& 0x50 ≠ w.p 5 / 256 % 256) :
    execModeRequest c s = .next (workEnd s c.val w 6 0) := by
  simp [execModeRequest, workOf_inWork h, bits, ha, hm]

theorem execModeRequest_asks (ha : w.admin s = true ∨ w.p 5 / 256 % 256 &&& 0x50 = w.p 5 / 256 % 256)
    (hm : w.p 5 / 256 % 256 &&& 0x5F = w.p 5 / 256 % 256) :
    execModeRequest c s = .next (workEnd (modeRequestDo s (w.p 5 % 256) (w.p 5 / 256 % 256)) c.val w 0
      (modeNow (modeRequestDo s (w.p 5 % 256) (w.p 5 / 256 % 256)))) := by
  rcases ha with ha | ha <;> simp [execModeRequest, workOf_inWork h, bits, ha, hm]

end

section
variable (h : InWork s c w 0xE)
include h

theorem execAbortEntry_unknown (he : entryOf s (w.p 5 % 256) (bits (w.p 5) 8 16) = none) :
    execAbortEntry c s = .next (workEnd s c.val w 0xA 0) := by
  simp only [execAbortEntry, workOf_inWork h, he]

theorem execAbortEntry_ends {e : Entry} (he : entryOf s (w.p 5 % 256) (bits (w.p 5) 8 16) = some e)
    (hst : e.st = .fetched ∨ e.st = .held) :
    execAbortEntry c s = .next (workEnd (entryDone s e 8 e.handle (natW 0)) c.val w 0 0) := by
  simp only [execAbortEntry, workOf_inWork h, he, if_pos hst]

end

end

/-- Settles O46: each opcode by the checks of its row, in their order. -/
theorem deviceOpcodes : Obligations.DeviceOpcodes := by
  intro s c w samples im st n
  refine ⟨execNopEntry_inWork, fun h hn hl hb hs => ?_, fun x hr hx hf hs hc => ?_,
    fun h => ⟨execActuate_unpaired h, fun t hp hq ht => execActuate_sends h hp hq ht⟩, execLedgerRead_reads,
    fun h => ⟨execShimLoad_notAdmin h im st, execShimLoad_alarm h im st, execShimLoad_loads h im st⟩,
    fun recs seq hs => ⟨execShimCutOver_alone hs, fun x hx => execShimCutOver_completes hs hx⟩, execTimeEntry_short,
    fun h hb => ⟨execTimeSet_notAdmin h hb, execTimeSet_sets h hb⟩,
    fun h => ⟨execConfigRead_reads h, execConfigWrite_writes h⟩,
    fun h => ⟨execModeRequest_notAdmin h, execModeRequest_asks h⟩,
    fun h => ⟨execAbortEntry_unknown h, fun e he hst => execAbortEntry_ends h he hst⟩⟩
  · subst hs
    exact (execMeasure_start h).trans (congrArg _ (measureStart_waits hn hl hb))
  · exact (execMeasure_more hr hx hs).trans (congrArg _ (measureMore_waits hf hc))

end Sys2Proof.Machine
end

section
/-! The conditional branches (O14): the four on a register and brc gather their direction, and their target when they go. -/

namespace Sys2Proof.Machine

/-! ## What a branch gathers -/

/-- What a branch to `l` gathers, `go` when it is taken: what the predictor learns of it, and its transfer. -/
def Acc.branched (a : Acc) (x : Ctx) (l : Link) (go : Bool) : Acc :=
  { a with
    branch := some ((sylMpc x).toNat, go)
    xfer := if go then some l else a.xfer }

section
variable {x : Ctx} {l : Link} (a : Acc) {go : Bool}

/-- The line of the target is checked only when the branch goes there (R119). -/
theorem branchAcc_ok {brc test : Bool} (ht : directTarget x brc = .ok l) (hgo : (test && !inSlot x) = go)
    (hl : go = true → checkLine x l = .ok ()) : branchAcc x a brc test = .ok (a.branched x l go) := by
  subst hgo
  rw [branchAcc, res_bind_of_ok ht]
  cases hg : test && !inSlot x with
  | false => rfl
  | true => exact res_bind_of_ok (hl hg) _

/-- R117: a branch on a register whose tag its entry accepts. -/
theorem semBcond_branches {ok : Tag → Bool} (hn : ok .empty = false ∧ ok .poison = false) {test : Nat → Bool}
    (ha : ok (wtag (opA x)) = true) (ht : directTarget x false = .ok l) (hgo : (test (pay (opA x)) && !inSlot x) = go)
    (hl : go = true → checkLine x l = .ok ()) : semBcond ok test x a = a.branched x l go := by
  obtain ⟨hc, hne⟩ := consume_opA_ok hn ha
  rw [semBcond, res_bind_of_ok ht, res_bind_of_ok hc, res_bind_of_ok hne, branchAcc_ok a ht hgo hl]
  rfl

theorem semBrc_branches (ht : directTarget x true = .ok l)
    (hgo : ((condVal x.s x.c (mF x 0 6) != (mF x 6 1 == 1)) && !inSlot x) = go)
    (hl : go = true → checkLine x l = .ok ()) : semBrc x a = a.branched x l go := by
  rw [semBrc, branchAcc_ok a ht hgo hl]
  rfl

end

/-! ## The retirement of a branch -/

/-- The branches on a register, each with the tags that it accepts and its test of the payload. -/
def regBranches : List ((CoreId → Syl → Instr) × (Tag → Bool) × (Nat → Bool)) :=
  [(.bt, isBool, fun n => n == 1), (.bf, isBool, fun n => n == 0), (.bz, isBz, fun n => n == 0),
    (.bnz, isBz, fun n => n != 0)]

/-- Each of them is issued as every syllable is, means its test, and accepts neither EMPTY nor POISON. -/
theorem regBranches_meaning : ∀ p ∈ regBranches, ∀ (c : CoreId) (y : Syl),
    (∀ s, exec (p.1 c y) s = issue (p.1 c y) c y s) ∧ semOf (p.1 c y) = semBcond p.2.1 p.2.2 ∧
      p.2.1 .empty = false ∧ p.2.1 .poison = false := by
  simp only [regBranches, List.forall_mem_cons]
  exact ⟨fun _ _ => ⟨fun _ => rfl, rfl, rfl, rfl⟩, fun _ _ => ⟨fun _ => rfl, rfl, rfl, rfl⟩,
    fun _ _ => ⟨fun _ => rfl, rfl, rfl, rfl⟩, fun _ _ => ⟨fun _ => rfl, rfl, rfl, rfl⟩, List.forall_mem_nil _⟩

theorem exec_brc (c : CoreId) (y : Syl) (s : State) : exec (.brc c y) s = issue (.brc c y) c y s := (rfl)

/-- A sole syllable stands in a delay slot when its core has one under way (R83). -/
theorem not_inSlot_soleCtx {s : State} (hI : Inv s) (c : CoreId) (i : Instr) (y : Syl) :
    (!inSlot (soleCtx s c i y)) = (coreOf s c.val).delay.isNone := by
  rw [inSlot, soleCtx_k hI, Option.not_isSome]
  rfl

/-- Settles O14: the checks of a branch pass, and what it gathers is its direction and, when it goes, its target. -/
theorem branchesRetire : Obligations.BranchesRetire := by
  refine ⟨fun p hp s c y l hR ha ht hl => ?_, fun s c y l hR ht hl => ?_⟩
  · obtain ⟨hexec, hsem, hn⟩ := regBranches_meaning p hp c y
    rw [hexec]
    refine issue_ready hR ?_ rfl rfl rfl rfl
    rw [hsem]
    exact semBcond_branches _ hn ha ht (by rw [not_inSlot_soleCtx hR.1]) fun hg => soleCtx_checkLine hR.1 (hl hg)
  · rw [exec_brc]
    refine issue_ready hR (semBrc_branches _ ht ?_ fun hg => soleCtx_checkLine hR.1 (hl hg)) rfl rfl rfl rfl
    rw [not_inSlot_soleCtx hR.1]
    rfl

end Sys2Proof.Machine
end

section
/-! LNG syllables (O2): what `lngRule` says is what the syllable's function gives; its microword then waits for the LNG
unit, and goes on when the unit has delivered or has passed its timeout. -/

namespace Sys2Proof.Machine

/-! ## The result of each syllable -/

/-- The result of an LNG syllable; any other command has none. -/
def lngRes (i : Instr) : Ctx → LngRes :=
  match i with
  | .mulS .. => resMul
  | .mulh .. => resMulh
  | .mulw .. => resMulw
  | .mac .. => resMac
  | .divS .. => resDiv
  | .divu .. => resDivu
  | .rem .. => resRem
  | .remu .. => resRemu
  | .crc .. => resCrc
  | .crcfin .. => resCrcfin
  | .sqrtu .. => resSqrtu
  | _ => fun _ => .error (.poison emptyW)

/-- The command `i` with fields `y`, which writes `n` registers, is issued as every syllable is and means its result, under
the OP of its entry. -/
structure LngMeaning (i : Instr) (c : CoreId) (y : Syl) (n : Nat) (h : Shape) : Prop where
  issued : ∀ s, exec i s = issue i c y s
  shape : sylOf i = some (h, y)
  sem : semOf i = semLng h.op n (lngRes i)
  writes : n ≠ 0

theorem lngSyllables_meaning : ∀ p ∈ lngSyllables, ∀ (c : CoreId) (y : Syl),
    ∃ h, LngMeaning (p.1 c y) c y p.2 h := by
  intro p hp c y
  simp only [lngSyllables, List.mem_cons, List.not_mem_nil, or_false] at hp
  rcases hp with rfl | rfl | rfl | rfl | rfl | rfl | rfl | rfl | rfl | rfl | rfl <;>
    exact ⟨_, fun _ => rfl, rfl, rfl, by decide⟩

/-- Where such a command is ready, it is the sole syllable of its microword under that entry. -/
theorem LngMeaning.sole {s : State} {i : Instr} {c : CoreId} {y : Syl} {n : Nat} {h : Shape} (hM : LngMeaning i c y n h)
    (hR : Ready s c i y) : Sole s c i h y := by
  obtain ⟨-, -, h', hi, -, hS⟩ := hR
  obtain ⟨rfl, -⟩ := Prod.mk.inj (Option.some.inj (hi.symm.trans hM.shape))
  exact hS

/-! ## Operands that the tables accept -/

section
variable {x : Ctx} {oka okb : Tag → Bool}

/-- The checks of operand a alone, in a role that accepts no EMPTY and no POISON. -/
theorem lngUnary_ok (hn : oka .empty = false ∧ oka .poison = false) (ha : oka (wtag (opA x)) = true) (k : LngRes) :
    (noPoison [opA x] >>= fun _ => need x 0 oka (opA x) >>= fun _ => k) = k := by
  have hp := plainWord_of_accepted hn ha
  rw [res_bind_of_ok (noPoison_plain hp), res_bind_of_ok (need_plain hp ha)]

/-- The checks of operands a and b in such roles. -/
theorem lngBinary_ok (hna : oka .empty = false ∧ oka .poison = false) (hnb : okb .empty = false ∧ okb .poison = false)
    (ha : oka (wtag (opA x)) = true) (hb : okb (wtag (opB x)) = true) (k : LngRes) :
    (noPoison [opA x, opB x] >>= fun _ => need x 0 oka (opA x) >>= fun _ => need x 1 okb (opB x) >>= fun _ => k) = k := by
  have hpa := plainWord_of_accepted hna ha
  have hpb := plainWord_of_accepted hnb hb
  rw [res_bind_of_ok (noPoison_plain_pair hpa hpb), res_bind_of_ok (need_plain hpa ha), res_bind_of_ok (need_plain hpb hb)]

end

theorem lngTag_unaccepted (t : Tag) :
    lngTag .empty t = none ∧ lngTag .poison t = none ∧ lngTag t .empty = none ∧ lngTag t .poison = none := by
  cases t <;> decide

/-- The tags of a pair that mul, mulh, div and rem accept are neither EMPTY nor POISON. -/
theorem plainWord_of_lngTag {a b : Word} {t : Tag} (h : lngTag (wtag a) (wtag b) = some t) :
    plainWord a = true ∧ plainWord b = true := by
  simp only [plainWord_iff]
  refine ⟨⟨fun e => ?_, fun e => ?_⟩, ⟨fun e => ?_, fun e => ?_⟩⟩ <;>
    simp [e, lngTag_unaccepted] at h

/-- The checks of mul, mulh, div and rem on a pair that they accept. -/
theorem lngRow_ok {x : Ctx} {t : Tag} (h : lngTag (wtag (opA x)) (wtag (opB x)) = some t) (k : Tag → LngRes) :
    (noPoison [opA x, opB x] >>= fun _ => lngRow x >>= k) = k t := by
  obtain ⟨ha, hb⟩ := plainWord_of_lngTag h
  have hrow : lngRow x = .ok t := by
    rw [lngRow, if_neg (plainWord_iff.1 ha).1, if_neg (plainWord_iff.1 hb).1, h]
  rw [res_bind_of_ok (noPoison_plain_pair ha hb), res_bind_of_ok hrow]

/-! ## What the tables say is the result -/

section
variable {x : Ctx} {c : CoreId} {y : Syl} {q : List Word × Option FlagUpd}

theorem resMulPart_of_rule {hi : Bool} (h : ((lngTag (wtag (opA x)) (wtag (opB x))).map fun t =>
    lngWord (mkW t (productPart t hi (trueVal (opA x) * trueVal (opB x))))) = some q) : resMulPart hi x = .ok q := by
  obtain ⟨t, ht, rfl⟩ := Option.map_eq_some_iff.1 h
  exact lngRow_ok ht _

/-- R140: D names a register pair. -/
theorem pairBad_false (h : x.y.d.toNat % 8 ≠ 7 ∧ x.y.d ≠ 0) : pairBad x = false := by
  simpa [pairBad] using h

theorem resMulw_of_rule (h : lngRule (.mulw c y) x = some q) : resMulw x = .ok q := by
  obtain ⟨⟨hd, ha, hb⟩, rfl⟩ := ite_some_iff.1 h
  rw [resMulw, if_neg (by simp [pairBad_false hd]), lngBinary_ok ⟨rfl, rfl⟩ ⟨rfl, rfl⟩ ha hb]
  simp only [isNat, Bool.and_eq_true, decide_eq_true_eq]
  rfl

theorem resMac_of_rule (h : lngRule (.mac c y) x = some q) : resMac x = .ok q := by
  obtain ⟨⟨hd, ha, hb, h0, h1⟩, rfl⟩ := ite_some_iff.1 h
  have hpa := plainWord_of_accepted (ok := isNI) ⟨rfl, rfl⟩ ha
  have hpb := plainWord_of_accepted (ok := isNI) ⟨rfl, rfl⟩ hb
  have hp0 := plainWord_of_accepted (ok := isNI) ⟨rfl, rfl⟩ h0
  have hp1 : plainWord (opD x 1) = true := by simp [plainWord, h1]
  have hp : noPoison [opA x, opB x, opD x 0, opD x 1] = .ok () := noPoison_ok <| by
    simp only [plainWord_iff] at hpa hpb hp0 hp1
    simp [hpa, hpb, hp0, hp1]
  rw [resMac, if_neg (by simp [pairBad_false hd]), res_bind_of_ok hp, res_bind_of_ok (need_plain hpa ha),
    res_bind_of_ok (need_plain hpb hb), res_bind_of_ok (need_plain hp0 h0),
    res_bind_of_ok (need_plain hp1 (decide_eq_true h1))]
  simp only [isNat, Bool.and_eq_true, decide_eq_true_eq, and_assoc]
  rfl

theorem resDiv_of_rule (h : lngRule (.divS c y) x = some q) : resDiv x = .ok q := by
  obtain ⟨hb, h⟩ := Option.ite_none_right_eq_some.1 h
  obtain ⟨t, ht, rfl⟩ := Option.map_eq_some_iff.1 h
  rw [resDiv, lngRow_ok ht, if_neg hb]
  rfl

theorem resRem_of_rule (h : lngRule (.rem c y) x = some q) : resRem x = .ok q := by
  obtain ⟨hb, h⟩ := Option.ite_none_right_eq_some.1 h
  obtain ⟨t, ht, rfl⟩ := Option.map_eq_some_iff.1 h
  rw [resRem, lngRow_ok ht, if_neg hb]
  rfl

theorem resDivNat_of_rule {op : Nat} {f : Nat → Nat → Nat}
    (h : (if wtag (opA x) = .nat ∧ wtag (opB x) = .nat ∧ pay (opB x) ≠ 0 then
      some (lngWord (natW (f (pay (opA x)) (pay (opB x))))) else none) = some q) : resDivNat op f x = .ok q := by
  obtain ⟨⟨ha, hb, hz⟩, rfl⟩ := ite_some_iff.1 h
  rw [resDivNat, lngBinary_ok ⟨rfl, rfl⟩ ⟨rfl, rfl⟩ (decide_eq_true ha) (decide_eq_true hb), if_neg hz]
  rfl

theorem resCrc_of_rule (h : lngRule (.crc c y) x = some q) : resCrc x = .ok q := by
  obtain ⟨⟨ha, hb, hm⟩, h⟩ := Option.ite_none_right_eq_some.1 h
  obtain ⟨p, hp, rfl⟩ := Option.map_eq_some_iff.1 h
  simp only [resCrc, hp, if_neg hm]
  exact lngBinary_ok ⟨rfl, rfl⟩ ⟨rfl, rfl⟩ ha hb _

theorem resCrcfin_of_rule (h : lngRule (.crcfin c y) x = some q) : resCrcfin x = .ok q := by
  obtain ⟨ha, h⟩ := Option.ite_none_right_eq_some.1 h
  obtain ⟨p, hp, rfl⟩ := Option.map_eq_some_iff.1 h
  simp only [resCrcfin, hp]
  exact lngUnary_ok ⟨rfl, rfl⟩ ha _

theorem resSqrtu_of_rule (h : lngRule (.sqrtu c y) x = some q) : resSqrtu x = .ok q := by
  obtain ⟨ha, rfl⟩ := ite_some_iff.1 h
  exact lngUnary_ok (oka := isNat) ⟨rfl, rfl⟩ (decide_eq_true ha) _

end

/-- What the tables say of an LNG syllable is its result. -/
theorem lngRes_of_rule : ∀ p ∈ lngSyllables, ∀ (c : CoreId) (y : Syl) (x : Ctx) (q : List Word × Option FlagUpd),
    lngRule (p.1 c y) x = some q → lngRes (p.1 c y) x = .ok q := by
  simp only [lngSyllables, List.forall_mem_cons]
  exact ⟨
    -- mul, mulh, mulw, mac
    fun _ _ _ _ h => resMulPart_of_rule h, fun _ _ _ _ h => resMulPart_of_rule h, fun _ _ _ _ h => resMulw_of_rule h,
    fun _ _ _ _ h => resMac_of_rule h,
    -- div, divu, rem, remu
    fun _ _ _ _ h => resDiv_of_rule h, fun _ _ _ _ h => resDivNat_of_rule (f := fun a b => a / b) h,
    fun _ _ _ _ h => resRem_of_rule h, fun _ _ _ _ h => resDivNat_of_rule (f := fun a b => a % b) h,
    -- crc, crcfin, sqrtu
    fun _ _ _ _ h => resCrc_of_rule h, fun _ _ _ _ h => resCrcfin_of_rule h, fun _ _ _ _ h => resSqrtu_of_rule h,
    List.forall_mem_nil _⟩

/-! ## How an LNG syllable ends -/

section
variable {op n : Nat} {f : Ctx → LngRes} {x : Ctx} {ws : List Word} {u : Option FlagUpd} (h : f x = .ok (ws, u)) (a : Acc)
include h

theorem semLng_delivered (hd : x.k.lngDone = true) : semLng op n f x a =
    Acc.flag { a with writes := a.writes ++ ((List.range n).map (x.y.d.toNat + ·)).zip ws } x.c u := by
  simp only [semLng, h, if_pos hd]

section
variable (hd : x.k.lngDone = false)
include hd

theorem semLng_waits (ht : x.lngTo = false) : semLng op n f x a = a.addHold .lng x.s := by simp [semLng, h, hd, ht]

/-- R145: past the timeout, LNGTO or its POISON under PSN. -/
theorem semLng_times_out (ht : x.lngTo = true) (hn : n ≠ 0) : semLng op n f x a =
    if mPSN x.k.mstat then a.putAll ((List.range n).map (x.y.d.toNat + ·)) (poisonW x 0 0x07)
    else a.addFault (trp 0x07 (natW 0) (natW op)) := by
  simp [semLng, h, hd, ht, hn, flawed, trp]

end

end

/-! ## A microword that waits for the LNG unit -/

theorem innerLine_setCore (s : State) (c : Nat) (k : Core) : innerLine (setCore s c k) = innerLine s := (rfl)

theorem skipPad_setCore (s : State) (c : Nat) (k : Core) : skipPad (setCore s c k) = skipPad s := (rfl)

/-- Core `c` with the sole syllable `i` gathered and waiting for the LNG unit, which has delivered when `done` is true. -/
def lngHeld (s : State) (c : CoreId) (i : Instr) (y : Syl) (done : Bool) : State :=
  setCore s c.val { gather i y (coreOf s c.val) with wait := .lng, lngDone := done }

section
variable {s : State} (hI : Inv s) (c : CoreId) (i : Instr) (y : Syl) (done : Bool)
include hI

theorem wordWait_taken_lng (hd : (coreOf s c.val).lngDone = false) :
    wordWait (taken s c i y) c.val .lng = lngHeld s c i y false := by
  rw [wordWait, modCore_taken hI, lngHeld, ← hd]
  rfl

theorem coreOf_lngHeld : coreOf (lngHeld s c i y done) c.val =
    { gather i y (coreOf s c.val) with wait := .lng, lngDone := done } := by
  rw [lngHeld, coreOf_setCore (inv_cores hI), if_pos rfl]

theorem modCore_lngHeld (f : Core → Core) : modCore (lngHeld s c i y done) c.val f =
    setCore s c.val (f { gather i y (coreOf s c.val) with wait := .lng, lngDone := done }) := by
  rw [modCore, coreOf_lngHeld hI, lngHeld, setCore_setCore (inv_cores hI)]

/-- The wait changes nothing that the tables ask of the syllable. -/
theorem lngRule_lngHeld (late : Bool) :
    lngRule i (heldCtx (lngHeld s c i y done) c y late) = lngRule i (soleCtx s c i y) := by
  rw [heldCtx, coreOf_lngHeld hI, soleCtx, coreOf_taken hI]
  rfl

theorem poisonW_lngHeld (late : Bool) (sub cause : Nat) :
    poisonW (heldCtx (lngHeld s c i y done) c y late) sub cause = poisonW (soleCtx s c i y) sub cause := by
  rw [heldCtx, coreOf_lngHeld hI, soleCtx, coreOf_taken hI]
  rfl

/-- Nothing stands against its going on that did not stand against its being gathered. -/
theorem held_lngHeld {h : Shape} (hS : Sole s c i h y) (hi : sylOf i = some (h, y)) :
    Held (lngHeld s c i y done) c i h y .lng := by
  have hk := coreOf_lngHeld hI c i y done
  constructor
  case shape => exact hi
  case runs => rw [coreRuns, hk]; exact hS.runs
  case waits => rw [hk]
  case real => exact nofun
  case word => rw [hk]; simp [gather, hS.first]
  case size => rw [hk]; simp [gather, hS.zero]
  case calm => rw [hk]; exact hS.calm
  case stop => exact hS.stop
  case fits => rw [hk]; exact hS.fits
  case present => rw [hk]; exact hS.present
  case whole => rw [hk]; exact hS.whole
  case ring => rw [hk, lngHeld, innerLine_setCore]; exact hS.ring
  case named => exact hS.named
  case ext => exact hS.ext
  case far => exact hS.far
  case next => rw [hk, lngHeld, innerLine_setCore, skipPad_setCore]; exact hS.next
  case plain => rw [hk]; exact hS.plain

end

/-- A waiting syllable that goes on, and gathers a fault which leaves nothing behind, traps. -/
theorem run_held_faults {s : State} {c : CoreId} {i : Instr} {h : Shape} {y : Syl} {w : Wait} (hH : Held s c i h y w)
    {late : Bool} {a : Acc} {t : Trp} (ha : semOf i (heldCtx s c y late) (Acc.start s) = a) (hf : a.fault = some t)
    (hs : a.faultSt = id) : runWord s c.val late = wordTrap s c.val t := by
  rw [run_held hH, ha]
  simp only [wordEnd, hf, hs, id]

section
variable {s : State} {c : CoreId} {i : Instr} {h : Shape} {y : Syl} {w : Wait} (hH : Held s c i h y .lng)
include hH

theorem exec_lngResult : exec (.lngResult c) s = .next (lngDeliver s c.val) :=
  congrArg Host.Outcome.next (if_pos ⟨hH.runs, hH.waits⟩)

theorem exec_lngto : exec (.lngto c) s = .next (runWord s c.val true) :=
  congrArg Host.Outcome.next (if_pos ⟨hH.runs, hH.waits⟩)

end

/-! ## The unit delivers, or passes its timeout -/

/-- Core `k` after its flags are set and its LNG unit has delivered. -/
def lngFlagged (k : Core) (u : Option FlagUpd) : Core := { k with mstat := setFlags k.mstat u, lngDone := true }

/-- What a microword of one LNG syllable gathers from state `t` with words for the registers `ds`. -/
def lngAcc (t : State) (c : CoreId) (ds : List Nat) (ws : List Word) (u : Option FlagUpd) : Acc :=
  Acc.flag { Acc.start t with writes := ds.zip ws } c.val u

/-- R71, R146: the words and the flags are all that a steady core's retirement changes. -/
theorem onlyCore_retireWord_lng {s : State} {c : CoreId} {i : Instr} {h : Shape} {y : Syl} (hI : Inv s) (hS : Sole s c i h y)
    (hK : Steady (coreOf s c.val)) (ds : List Nat) (ws : List Word) (u : Option FlagUpd) :
    OnlyCore s c { putAll (passed (coreOf s c.val) y) (ds.zip ws) with mstat := setFlags (coreOf s c.val).mstat u }
      (retireWord (lngHeld s c i y true) c.val (lngAcc (lngHeld s c i y true) c ds ws u)) := by
  have hk := coreOf_lngHeld hI c i y true
  have hK' : Steady (lngFlagged (coreOf s c.val) u) :=
    ⟨hK.shadow, hK.rearm, hK.delay, hK.rep, hK.loop, hK.step, hK.mode⟩
  have hret := retire_settled (s0 := lngHeld s c i y true) (i := i) (y := y) (w := .lng)
    (a := lngAcc (lngHeld s c i y true) c ds ws u)
    (inv_cores hI) hK' hS.first hS.zero hS.idle (by rw [hk]; rfl) (by rw [hk]; rfl)
    (modCore_lngHeld hI c i y true fun k => { k with mstat := setFlags k.mstat u }) (.inl rfl) rfl rfl rfl rfl
  rwa [settled_plain hK'.shadow rfl rfl rfl] at hret

section
variable {s : State} {c : CoreId} {i : Instr} {y : Syl} {n : Nat} {h : Shape} {ws : List Word} {u : Option FlagUpd}
  (hI : Inv s) (hM : LngMeaning i c y n h)
include hI hM

section
variable (hS : Sole s c i h y)
include hS

/-- R139: with the words of its unit a waiting LNG syllable retires. -/
theorem exec_lngResult_retires
    (hres : lngRes i (heldCtx (lngHeld s c i y true) c y false) = .ok (ws, u)) :
    exec (.lngResult c) (lngHeld s c i y false) = .next (retireWord (lngHeld s c i y true) c.val
      (lngAcc (lngHeld s c i y true) c ((List.range n).map (y.d.toNat + ·)) ws u)) := by
  have hdone : (heldCtx (lngHeld s c i y true) c y false).k.lngDone = true := by rw [heldCtx, coreOf_lngHeld hI]
  have hsem := semLng_delivered (op := h.op) (n := n) hres (Acc.start (lngHeld s c i y true)) hdone
  rw [← hM.sem] at hsem
  rw [exec_lngResult (held_lngHeld hI c i y false hS hM.shape), lngDeliver, modCore_lngHeld hI]
  exact congrArg _ (run_held_retires (held_lngHeld hI c i y true hS hM.shape) hsem rfl rfl rfl rfl)

/-- R145: past the timeout it traps, or writes POISON under PSN. -/
theorem exec_lngto_ends (hres : lngRes i (heldCtx (lngHeld s c i y false) c y true) = .ok (ws, u)) :
    exec (.lngto c) (lngHeld s c i y false) = .next (if mPSN (coreOf s c.val).mstat then
        retireWord (lngHeld s c i y false) c.val ((Acc.start (lngHeld s c i y false)).putAll
          ((List.range n).map (y.d.toNat + ·)) (poisonW (soleCtx s c i y) 0 0x07))
      else wordTrap (lngHeld s c i y false) c.val (trp 0x07 (natW 0) (natW h.op))) := by
  have hH := held_lngHeld hI c i y false hS hM.shape
  have hk := coreOf_lngHeld hI c i y false
  have hdone : (heldCtx (lngHeld s c i y false) c y true).k.lngDone = false := by rw [heldCtx, hk]
  have hmstat : (heldCtx (lngHeld s c i y false) c y true).k.mstat = (coreOf s c.val).mstat := by rw [heldCtx, hk]; rfl
  have hsem := semLng_times_out (op := h.op) hres (Acc.start (lngHeld s c i y false)) hdone rfl hM.writes
  rw [← hM.sem, hmstat, poisonW_lngHeld hI] at hsem
  rw [exec_lngto hH]
  split
  · next hp => exact congrArg _ (run_held_retires hH (hsem.trans (if_pos hp)) rfl rfl rfl rfl)
  · next hp => exact congrArg _ (run_held_faults hH (hsem.trans (if_neg hp)) rfl rfl)

end

/-- R139: an LNG syllable that is ready waits for its unit. -/
theorem exec_lng_waits (hR : Ready s c i y) (hd : (coreOf s c.val).lngDone = false)
    (hres : lngRes i (soleCtx s c i y) = .ok (ws, u)) :
    exec i s = .next (wordWait (taken s c i y) c.val .lng) := by
  have hdone : (soleCtx s c i y).k.lngDone = false := by rw [soleCtx_k hI]; exact hd
  rw [hM.issued]
  exact issue_ready_waits hR (hM.sem ▸ semLng_waits hres (Acc.start (taken s c i y)) hdone rfl) rfl rfl

end

/-- Settles O2: by the results of the tables, which are the same while the syllable waits as when it is gathered. (The
name without its last word is that of the list.) -/
theorem lngSyllablesRetire : Obligations.LngSyllables := by
  refine ⟨fun p hp s c y ws u hR hd hrule => ?_, fun p hp s c y ws u h hR hd hi hrule => ?_⟩
  all_goals
    obtain ⟨h', hM⟩ := lngSyllables_meaning p hp c y
    have hI := hR.1
    have hheld := fun done late => lngRes_of_rule p hp c y _ _ ((lngRule_lngHeld hI c _ y done late).trans hrule)
  · refine ⟨exec_lng_waits hI hM hR hd (lngRes_of_rule p hp c y _ _ hrule), _, ?_,
      fun hK => onlyCore_retireWord_lng hI (hM.sole hR) hK _ ws u⟩
    rw [wordWait_taken_lng hI c _ y hd]
    exact exec_lngResult_retires hI hM (hM.sole hR) (hheld true false)
  · obtain ⟨rfl, -⟩ := Prod.mk.inj (Option.some.inj (hi.symm.trans hM.shape))
    rw [wordWait_taken_lng hI c _ y hd]
    exact exec_lngto_ends hI hM (hM.sole hR) (hheld false true)

end Sys2Proof.Machine
end

section
/-! Accesses to banks: the checks that MEM and PORT syllables share, and then the loads, stores, atomics and fences (O7, O8,
O9, O11, O12). -/

namespace Sys2Proof.Machine

/-! ## The checks that these syllables share -/

theorem eq_or_eq_of_mem_two {α : Type} {a b c : α} (h : a ∈ [b, c]) : a = b ∨ a = c :=
  (List.mem_cons.1 h).imp_right List.mem_singleton.1

theorem memQuiet_calm {x : Ctx} (h : mQT x.k.mstat = false) (l : List Nat) : memQuiet x l = .ok () := by
  simp [memQuiet, h]

/-- A host-window address is above every bank. -/
theorem not_isHost_of_isBank {a : Nat} (h : isBank a = true) : isHost a = false := by
  simp only [isBank, decide_eq_true_eq] at h
  simp only [isHost, decide_eq_false_iff_not]
  omega

/-- The address of a bank word that core `c` in `ring` may access now, in the given direction (R262, R263). -/
def MayBank (s : State) (c ring : Nat) (write : Bool) (a : Nat) : Prop :=
  isBank a = true ∧ bankMay s c ring write (bankOf a) = true

theorem firstDenied_none {s : State} {c ring : Nat} {write : Bool} {l : List Nat}
    (h : ∀ a ∈ l, MayBank s c ring write a) : firstDenied s c ring write l = none := by
  refine List.find?_eq_none.2 fun a ha => ?_
  obtain ⟨hb, hm⟩ := h a ha
  simp [hb, hm]

theorem memDenied_none {x : Ctx} {write : Bool} {l : List Nat} (h : ∀ a ∈ l, MayBank x.s x.c x.k.ring write a) :
    memDenied x write l = none := by rw [memDenied, firstDenied_none h]; rfl

theorem memDenied_single {x : Ctx} {write : Bool} {a : Nat}
    (h : (isBank a && bankMay x.s x.c x.k.ring write (bankOf a)) = false) :
    memDenied x write [a] = some (denyT x.s a write) := by
  rw [memDenied, firstDenied, List.find?_cons_of_pos (by simp only [h, Bool.not_false])]
  rfl

/-- An operand in a role that accepts neither EMPTY nor POISON. -/
theorem need_accepted {x : Ctx} {role : Nat} {ok : Tag → Bool} (hn : ok .empty = false ∧ ok .poison = false) {w : Word}
    (h : ok (wtag w) = true) : need x role ok w = .ok () := need_plain (plainWord_of_accepted hn h) h

/-- Such an operand is no POISON. -/
theorem not_poison_of_accepted {ok : Tag → Bool} (hn : ok .poison = false) {w : Word} (h : ok (wtag w) = true) :
    wtag w ≠ .poison := by
  intro e
  rw [e, hn] at h
  cases h

/-- R148: base + index + M, where base and index have their tags. -/
theorem memAddr_ok {x : Ctx} (ha : wtag (opA x) = .addrD) (hb : isNI (wtag (opB x)) = true) :
    memAddr x = .ok (effAddr 36 (opA x) (opB x) (mInt x)) := by
  have hc : consume [opA x, opB x] = .ok () := consume_ok
    (List.forall_mem_cons.2 ⟨by simp [ha], List.forall_mem_singleton.2 (not_poison_of_accepted rfl hb)⟩)
  have hna : need x 3 isAddrD (opA x) = .ok () := need_accepted ⟨rfl, rfl⟩ (by rw [ha]; rfl)
  simp only [memAddr, res_bind_of_ok hc, res_bind_of_ok hna, res_bind_of_ok (need_accepted ⟨rfl, rfl⟩ hb)]
  rfl

/-- The group that a MEM syllable names, as its checks find it. -/
theorem groupOf_eq_some {x : Ctx} {n : Nat} {l : List Nat} (h : groupOf x n = some l) :
    groupOk x n = true ∧ ∃ b, memAddr x = .ok b ∧ l = groupAt b n := by
  unfold groupOf at h
  split at h
  · next hg =>
    obtain ⟨hok, ha, hb⟩ := hg
    exact ⟨hok, _, memAddr_ok ha hb, (Option.some.inj h).symm⟩
  · cases h

theorem length_groupAt (b n : Nat) : (groupAt b n).length = n := by simp [groupAt]

/-- A group of bank words does not lie in a host window. -/
theorem all_isHost_groupAt {b n : Nat} (hn : 0 < n) (h : ∀ a ∈ groupAt b n, isBank a = true) :
    (groupAt b n).all isHost = false := by
  obtain ⟨m, rfl⟩ := Nat.exists_eq_succ_of_ne_zero (Nat.ne_of_gt hn)
  have h0 : b % 2 ^ 36 ∈ groupAt b (m + 1) := List.mem_map.2 ⟨0, by simp, by simp⟩
  exact List.all_eq_false.2 ⟨_, h0, by rw [not_isHost_of_isBank (h _ h0)]; decide⟩

/-! ## Loads -/

/-- Each load is issued as every syllable is, and loads its number of words. -/
theorem loadSyllables_meaning : ∀ p ∈ loadSyllables, ∀ (c : CoreId) (y : Syl),
    (∀ s, exec (p.1 c y) s = issue (p.1 c y) c y s) ∧ semOf (p.1 c y) = semLoad p.2 ∧ 0 < p.2 := by
  simp only [loadSyllables, List.forall_mem_cons]
  refine ⟨?_, ?_, ?_, ?_, List.forall_mem_nil _⟩ <;> exact fun _ _ => ⟨fun _ => rfl, rfl, by decide⟩

section
variable {x : Ctx} {n : Nat} {l : List Nat} (a : Acc) (hg : groupOf x n = some l) (hq : mQT x.k.mstat = false)
include hg hq

/-- A load that its ring may make reads its group. -/
theorem semLoad_bank (hn : 0 < n) (hm : ∀ b ∈ l, MayBank x.s x.c x.k.ring false b) :
    semLoad n x a = bankLoad x a (loadDests x n) l := by
  obtain ⟨hok, b, hb, rfl⟩ := groupOf_eq_some hg
  simp [semLoad, hok, hb, memQuiet_calm hq, all_isHost_groupAt hn fun e he => (hm e he).1, memDenied_none hm]

/-- A load of a denied word, without PSN. -/
theorem semLoad_denied {b : Nat} (hl : l = [b]) (hp : mPSN x.k.mstat = false) (hh : isHost b = false)
    (hd : (isBank b && bankMay x.s x.c x.k.ring false (bankOf b)) = false) :
    semLoad n x a = a.addFault (denyT x.s b false) := by
  obtain ⟨hok, e, he, hle⟩ := groupOf_eq_some hg
  rw [hl] at hle
  simp [semLoad, hok, he, ← hle, memQuiet_calm hq, hh, memDenied_single hd, loadFlaw, hp]

end

section
variable {x : Ctx} (a : Acc) (ds : List Nat) {l : List Nat}

/-- R197: the youngest buffered store that holds the group gives its words. -/
theorem bankLoad_forwarded {ws : List Word} (h : forwarded x.k l = some ws) :
    bankLoad x a ds l = a.load (ds.zip ws) := by simp only [bankLoad, h]

/-- R197, R258: else memory gives them, behind every overlapping buffered store. -/
theorem bankLoad_memory (h : forwarded x.k l = none)
    (he : ∀ b ∈ l, (drainOver x.s x.c (l.headD 0) l.length).eccBad.contains b = false) :
    bankLoad x a ds l = (a.load (ds.zip (l.map (memGet (drainOver x.s x.c (l.headD 0) l.length))))).eff
      fun s => l.foldl eccRead (drainOver s x.c (l.headD 0) l.length) := by
  have hf : l.find? (drainOver x.s x.c (l.headD 0) l.length).eccBad.contains = none :=
    List.find?_eq_none.2 fun b hb => by rw [he b hb]; decide
  simp only [bankLoad, h, hf]

end

/-- Settles O7: a permitted load reads its group, from the store buffer or from memory. -/
theorem loadsRetire : Obligations.LoadsRetire := by
  intro p hp s c y l k v u hR hg hm
  obtain ⟨hexec, hsem, hn⟩ := loadSyllables_meaning p hp c y
  have hload := semLoad_bank (Acc.start v) hg hR.calm hn fun b hb => by
    rw [MayBank, soleCtx_ring hR.1]
    exact hm b hb
  have hk := soleCtx_k hR.1 c (p.1 c y) y
  rw [hexec]
  refine ⟨fun ws hf => ?_, fun hf he => ?_⟩ <;> refine issue_ready hR ?_ rfl rfl rfl rfl <;> rw [hsem, hload]
  · exact bankLoad_forwarded _ _ (by rw [hk]; exact hf)
  · exact bankLoad_memory _ _ (by rw [hk]; exact hf) he

/-! ## Stores -/

/-- Each store is issued as every syllable is, and stores its number of words. -/
theorem storeSyllables_meaning : ∀ p ∈ storeSyllables, ∀ (c : CoreId) (y : Syl),
    (∀ s, exec (p.1 c y) s = issue (p.1 c y) c y s) ∧ semOf (p.1 c y) = semStore p.2.1 p.2.2 ∧ 0 < p.2.1 := by
  simp only [storeSyllables, List.forall_mem_cons]
  refine ⟨?_, ?_, ?_, ?_, List.forall_mem_nil _⟩ <;> exact fun _ _ => ⟨fun _ => rfl, rfl, by decide⟩

theorem dataCheck_ok {x : Ctx} {ws : List (Nat × Word)} (h : ∀ q ∈ ws, wtag q.2 ≠ .empty) : dataCheck x ws = .ok () := by
  have hf : ws.find? (fun p => wtag p.2 = .empty) = none := List.find?_eq_none.2 fun q hq => by simp [h q hq]
  simp only [dataCheck, hf]

/-- R54: KEYREF and SEAL go to banks of the keeper only. -/
theorem keepCheck_ok {x : Ctx} {ws : List (Nat × Word)}
    (h : ∀ q ∈ ws, isSecret q.2 = true → bankKeeper x.s (bankOf q.1) = true) : keepCheck x ws = .ok () := by
  have hf : ws.find? (fun p => isBank p.1 && isSecret p.2 && !bankKeeper x.s (bankOf p.1)) = none := by
    refine List.find?_eq_none.2 fun q hq => ?_
    cases hs : isSecret q.2 with
    | false => simp
    | true => simp [h q hq hs]
  simp only [keepCheck, hf]

section
variable {x : Ctx} {n : Nat} {rel : Bool} {l : List Nat} {ws : List (Nat × Word)} (a : Acc)
  (hg : groupOf x n = some l) (hws : ws = l.zip ((List.range n).map (opD x))) (hq : mQT x.k.mstat = false)
  (he : ∀ q ∈ ws, wtag q.2 ≠ .empty)
  (hs : ∀ q ∈ ws, isSecret q.2 = true → bankKeeper x.s (bankOf q.1) = true)
include hg hws hq he hs

/-- A store outside the host windows, up to the check of its banks. -/
theorem semStore_checked (hh : l.all isHost = false) :
    semStore n rel x a = outcome x [] a (match memDenied x true l with
      | some t => .error (.trap t)
      | none => .ok (a.eff fun s => storePush (if rel then storeDrainAll s x.c else s) x.c ws)) := by
  obtain ⟨hok, b, hb, rfl⟩ := groupOf_eq_some hg
  have hdata : storeData x b n = ws := hws.symm
  have hmap : ws.map (·.1) = groupAt b n := by
    rw [hws]
    exact List.map_fst_zip (by simp [length_groupAt])
  simp only [semStore, hok, res_bind_of_ok hb, hdata, hmap, hh, res_bind_of_ok (dataCheck_ok he),
    res_bind_of_ok (keepCheck_ok hs), res_bind_of_ok (memQuiet_calm hq _)]
  cases memDenied x true (groupAt b n) <;> rfl

theorem semStore_bank (hn : 0 < n) (hm : ∀ b ∈ l, MayBank x.s x.c x.k.ring true b) :
    semStore n rel x a = a.eff fun s => storePush (if rel then storeDrainAll s x.c else s) x.c ws := by
  have hh : l.all isHost = false := by
    obtain ⟨-, b, -, rfl⟩ := groupOf_eq_some hg
    exact all_isHost_groupAt hn fun e hb => (hm e hb).1
  rw [semStore_checked a hg hws hq he hs hh, memDenied_none hm]
  rfl

theorem semStore_denied {b : Nat} (hl : l = [b]) (hh : isHost b = false)
    (hd : (isBank b && bankMay x.s x.c x.k.ring true (bankOf b)) = false) :
    semStore n rel x a = a.addFault (denyT x.s b true) := by
  rw [semStore_checked a hg hws hq he hs (by simp [hl, hh]), hl, memDenied_single hd]
  rfl

end

/-- A register operand D + j of a sole syllable is the core's register. -/
theorem opD_soleCtx {s : State} (hI : Inv s) (c : CoreId) (i : Instr) (y : Syl) (j : Nat) :
    opD (soleCtx s c i y) j = regRead (coreOf s c.val) (y.d.toNat + j) := by
  rw [opD, soleCtx_k hI]
  rfl

/-- Settles O8: a permitted store enters the store buffer. -/
theorem storesRetire : Obligations.StoresRetire := by
  intro p hp s c y l k v ws hR hg hm hw
  obtain ⟨hexec, hsem, hn⟩ := storeSyllables_meaning p hp c y
  rw [hexec]
  refine issue_ready hR ?_ rfl rfl rfl rfl
  rw [hsem]
  refine semStore_bank (ws := ws) _ hg ?_ hR.calm (fun q hq => (hw q hq).1) (fun q hq => (hw q hq).2) hn fun b hb => ?_
  · exact congrArg (List.zip l) (List.map_congr_left fun j _ => (opD_soleCtx hR.1 c _ y j).symm)
  · rw [MayBank, soleCtx_ring hR.1]
    exact hm b hb

/-- Settles O9: the one word of the group is the denied one. -/
theorem bankDenied : Obligations.BankDenied := by
  intro s c y a
  refine ⟨fun I hI hR hg hp hh hd => ?_, fun I hI hR hg hh he hs hd => ?_⟩
  · have hmem : (I, 1) ∈ loadSyllables := by
      rcases eq_or_eq_of_mem_two hI with rfl | rfl <;> simp [loadSyllables]
    obtain ⟨hexec, hsem, -⟩ := loadSyllables_meaning _ hmem c y
    rw [hexec]
    refine issue_ready_faults hR ((congrFun (congrFun hsem _) _).trans (semLoad_denied _ hg hR.calm rfl ?_ hh ?_)) rfl rfl
    · rw [soleCtx_mstat hR.1]
      exact hp
    · rw [soleCtx_ring hR.1]
      exact hd
  · obtain ⟨rel, hmem⟩ : ∃ rel, (I, 1, rel) ∈ storeSyllables := by
      rcases eq_or_eq_of_mem_two hI with rfl | rfl
      · exact ⟨false, by simp [storeSyllables]⟩
      · exact ⟨true, by simp [storeSyllables]⟩
    obtain ⟨hexec, hsem, -⟩ := storeSyllables_meaning _ hmem c y
    have hD := opD_soleCtx hR.1 c (I c y) y 0
    rw [hexec]
    refine issue_ready_faults hR ((congrFun (congrFun hsem _) _).trans
      (semStore_denied _ hg rfl hR.calm ?_ ?_ rfl hh ?_)) rfl rfl
    · simpa [hD] using he
    · simp [hD, hs]
    · rw [soleCtx_ring hR.1]
      exact hd

/-! ## Atomics -/

/-- The stored data that an atomic checks before it reads: operand b, which fadd does not check. -/
def atomData (i : Instr) (x : Ctx) : List Word :=
  match i with
  | .fadd .. => []
  | _ => [opB x]

/-- The new word of an atomic; any other command leaves the old one. -/
def atomNew (i : Instr) : Ctx → Nat → Word → Res (Option Word) :=
  match i with
  | .swap .. => swapNew
  | .cas .. => casNew
  | .fadd .. => faddNew
  | _ => fun _ _ _ => .ok none

/-- Each atomic is issued as every syllable is, and means its data and its new word. -/
theorem atomics_meaning : ∀ I ∈ [Instr.swap, Instr.cas, Instr.fadd], ∀ (c : CoreId) (y : Syl),
    (∀ s, exec (I c y) s = issue (I c y) c y s) ∧
      semOf (I c y) = semAtomic (fun _ => []) (atomData (I c y)) (atomNew (I c y)) := by
  simp only [List.forall_mem_cons]
  refine ⟨?_, ?_, ?_, List.forall_mem_nil _⟩ <;> exact fun _ _ => ⟨fun _ => rfl, rfl⟩

theorem atomData_eq (i : Instr) (x : Ctx) : ∀ w ∈ atomData i x, w = opB x := by
  unfold atomData
  split <;> simp

section
variable {x : Ctx} {b : Nat} {old : Word}

/-- The sum under the rows of R40, where the two words agree. -/
theorem faddNew_row {t : Tag} (ho : wtag old ≠ .poison) (hb : wtag (opB x) ≠ .poison)
    (hu : unitsAgree old (opB x) = true) (ht : rowTag rowsAdd (wtag old) (wtag (opB x)) = some t) :
    faddNew x b old = .ok (some (mkW (wtag old) (pay (rowAdd t old (opB x))))) := by
  simp only [faddNew, if_neg ho, if_neg hb, rowOf_ok hu ht]

/-- What the tables say an atomic writes is the new word that it gives. -/
theorem atomNew_of_rule {I : CoreId → Syl → Instr} (hI : I ∈ [Instr.swap, Instr.cas, Instr.fadd]) {c : CoreId} {y : Syl}
    {n : Option Word} (hk : isSecret (opB x) = true → bankKeeper x.s (bankOf b) = true)
    (h : atomRule (I c y) x old = some n) : atomNew (I c y) x b old = .ok n := by
  have hswap : swapNew x b old = .ok (some (opB x)) := res_bind_of_ok (keepCheck_ok (by simpa using hk)) _
  simp only [List.mem_cons, List.not_mem_nil, or_false] at hI
  rcases hI with rfl | rfl | rfl <;> simp only [atomRule] at h
  case inl =>
    rw [← Option.some.inj h]
    exact hswap
  case inr.inl =>
    rw [← Option.some.inj h]
    simp only [atomNew, casNew]
    split
    · exact hswap
    · rfl
  case inr.inr =>
    simp only [atomNew]
    split at h
    · next ho => rw [faddNew, if_pos ho, Option.some.inj h]
    · next ho =>
      split at h
      · next hb => rw [faddNew, if_neg ho, if_pos hb, Option.some.inj h]
      · next hb =>
        split at h
        · next hu =>
          obtain ⟨t, ht, hn⟩ := Option.map_eq_some_iff.1 h
          rw [faddNew_row ho hb hu ht, hn]
        · cases h

end

/-- R157: base + M, where the base is an ADDR-D. -/
theorem atomAddr_ok {x : Ctx} (ha : wtag (opA x) = .addrD) : atomAddr x = .ok (effAddr 36 (opA x) (natW 0) (mInt x)) := by
  have hc : consume [opA x] = .ok () := consume_ok (by simp [ha])
  have hn : need x 3 isAddrD (opA x) = .ok () := need_accepted ⟨rfl, rfl⟩ (by rw [ha]; rfl)
  simp only [atomAddr, res_bind_of_ok hc, res_bind_of_ok hn]
  rfl

section
variable {x : Ctx} {b : Nat}

/-- The place of an atomic on a bank word that its ring may read and write. -/
theorem atomPlace_ok {data : List Word} (hb : atomAddr x = .ok b) (hd : ∀ w ∈ data, wtag w ≠ .empty)
    (hq : mQT x.k.mstat = false) (hr : MayBank x.s x.c x.k.ring false b) (hw : MayBank x.s x.c x.k.ring true b) :
    atomPlace x [] data = .ok b := by
  have hdata : dataCheck x (data.map (b, ·)) = .ok () := dataCheck_ok (by simpa using hd)
  have hread : memDenied x false [b] = none := memDenied_none (by simpa using hr)
  have hwrite : memDenied x true [b] = none := memDenied_none (by simpa using hw)
  have hnil : consume [] = .ok () := rfl
  simp only [atomPlace, res_bind_of_ok hnil, res_bind_of_ok hb, res_bind_of_ok hdata, res_bind_of_ok (memQuiet_calm hq _),
    hread, hwrite, hr.1]
  rfl

/-- What an atomic at `b` leaves of the state that it has read: a new word is written, none leaves the old one. -/
def atomWrite (b : Nat) (s : State) : Option Word → State
  | none => s
  | some w => memPut s b w

/-- An atomic that reads its word and gives a new one. -/
theorem atomDo_ok (a : Acc) {f : Word → Res (Option Word)} {n : Option Word}
    (he : (storeDrainAll x.s x.c).eccBad.contains b = false)
    (hf : f (memGet (storeDrainAll x.s x.c) b) = .ok n) :
    atomDo x a b f = (a.load [(x.y.d.toNat, memGet (storeDrainAll x.s x.c) b)]).eff fun s =>
      atomWrite b (eccRead (storeDrainAll s x.c) b) n := by
  simp only [atomDo, he, hf]
  cases n <;> rfl

end

/-- Settles O11: the place of the atomic, and then what it reads and writes there. -/
theorem atomicsRetire : Obligations.AtomicsRetire := by
  intro I hI s c y n k x v u b hR ha hbank hr hw he hk hecc hrule
  obtain ⟨hexec, hsem⟩ := atomics_meaning I hI c y
  have hplace : atomPlace x [] (atomData (I c y) x) = .ok b := by
    refine atomPlace_ok (atomAddr_ok ha) (fun w hw => atomData_eq _ _ w hw ▸ he) hR.calm ?_ ?_ <;>
      rw [MayBank, soleCtx_ring hR.1]
    · exact ⟨hbank, hr⟩
    · exact ⟨hbank, hw⟩
  have hnew : atomNew (I c y) x b (memGet u b) = .ok n := atomNew_of_rule hI hk hrule
  have hsole : semOf (I c y) x (Acc.start v) = { Acc.start v with
      loads := [(y.d.toNat, memGet u b)]
      st := atomWrite b (eccRead u b) n } := by
    rw [hsem, semAtomic, hplace]
    exact atomDo_ok (x := x) (Acc.start v) hecc hnew
  rw [hexec, issue_ready hR hsole rfl rfl rfl rfl]
  cases n <;> rfl

/-! ## Fences -/

/-- R158: fence.ss leaves a marker in a buffer that holds a store. -/
def storeMark (s : State) (c : Nat) : State :=
  if (coreOf s c).storeBuf.isEmpty then s
  else modCore s c fun k => { k with storeBuf := k.storeBuf ++ [{ marker := true, words := [] }] }

theorem semFenceSs_eq (x : Ctx) (a : Acc) : semFenceSs x a = a.eff (storeMark · x.c) := (rfl)

/-- The marker behind a gathered syllable, by the store buffer before it. -/
theorem storeMark_taken {s : State} (hI : Inv s) (c : CoreId) (i : Instr) (y : Syl) :
    storeMark (taken s c i y) c.val = if (coreOf s c.val).storeBuf = [] then taken s c i y
      else setCore s c.val { gather i y (coreOf s c.val) with
        storeBuf := (coreOf s c.val).storeBuf ++ [{ marker := true, words := [] }] } := by
  have hbuf : (gather i y (coreOf s c.val)).storeBuf = (coreOf s c.val).storeBuf := rfl
  simp only [storeMark, modCore_taken hI, coreOf_taken hI, hbuf, List.isEmpty_iff]

/-- Settles O12: what fence.full and fence.ss do to the store buffer; the other two gather nothing. -/
theorem fencesRetire : Obligations.FencesRetire := by
  intro s c y
  refine ⟨fun hR => issue_ready hR rfl rfl rfl rfl rfl, fun hR => issue_ready hR rfl rfl rfl rfl rfl,
    fun hR => issue_ready hR rfl rfl rfl rfl rfl, fun hR => ?_⟩
  exact issue_ready hR ((semFenceSs_eq _ _).trans
    (congrArg (fun t => { Acc.start (taken s c (.fenceSs c y) y) with st := t }) (storeMark_taken hR.1 c _ y))) rfl rfl rfl rfl

end Sys2Proof.Machine
end

section
/-! movb, pin, unpin and lease (O13). A movb is followed word by word: behind `m` of its words, the words that it has moved
hold what its source held when it began, and every other word is as it was. -/

namespace Sys2Proof.Machine

/-! ## What the drain of a store buffer leaves -/

theorem storeHead_io (s : State) (c : Nat) : (storeHead s c).io = s.io := by
  unfold storeHead
  split
  · rfl
  · rw [memPutAll_eq]
    rfl

theorem storeTrim_io (s : State) (c : Nat) : (storeTrim s c).io = s.io := by
  unfold storeTrim
  split
  · rfl
  · split <;> rfl

theorem storeDrain_io (n : Nat) (s : State) (c : Nat) : (storeDrain s c n).io = s.io := by
  induction n generalizing s with
  | zero => exact storeTrim_io s c
  | succ n ih => exact (ih _).trans (storeHead_io s c)

/-- A change of the store buffer of core `c` is no change of its movb. -/
theorem movb_modCore_storeBuf {s : State} (hI : Inv s) (c : Nat) (l : List StoreEnt) :
    (coreOf (modCore s c fun k => { k with storeBuf := l }) c).movb = (coreOf s c).movb := by
  rw [modCore, coreOf_setCore (inv_cores hI), if_pos rfl]

theorem storeHead_movb {s : State} (hI : Inv s) (c : Nat) : (coreOf (storeHead s c) c).movb = (coreOf s c).movb := by
  unfold storeHead
  split
  · rfl
  · rw [memPutAll_eq]
    exact movb_modCore_storeBuf hI c _

theorem storeTrim_movb {s : State} (hI : Inv s) (c : Nat) : (coreOf (storeTrim s c) c).movb = (coreOf s c).movb := by
  unfold storeTrim
  split
  · rfl
  · split
    · exact movb_modCore_storeBuf hI c _
    · rfl

theorem storeDrain_movb (n : Nat) {s : State} (hI : Inv s) (c : Nat) :
    (coreOf (storeDrain s c n) c).movb = (coreOf s c).movb := by
  induction n generalizing s with
  | zero => exact storeTrim_movb hI c
  | succ n ih => exact (ih ((keeps_storeHead c (Keeps.refl s)).2 hI)).trans (storeHead_movb hI c)

/-- The memory of the banks is in canonical form. -/
theorem inv_mem {s : State} (hI : Inv s) : Memory.wf s.mem = true := by
  obtain ⟨hmem, -⟩ := hI
  exact hmem

theorem inv_storeDrainAll {s : State} (hI : Inv s) (c : Nat) : Inv (storeDrainAll s c) :=
  (keeps_storeDrainAll c (Keeps.refl s)).2 hI

/-- Who may access a bank is said by the registers. -/
theorem bankMay_of_io {s t : State} (h : t.io = s.io) : bankMay t = bankMay s := by
  have hio : bankMay t = bankMay { s with io := t.io } := rfl
  rw [hio, h]

/-! ## The words that a movb has moved -/

/-- The operands of a movb that moves every word without a fault or a wait: source and destination lie in banks that its ring
may read and write, no word of the source is a KEYREF or SEAL or has an error, and its direction is that of R159. -/
structure MovbPlain (o : MovbOp) (u : State) : Prop where
  src : o.src + o.n ≤ 0x200000
  dst : o.dst + o.n ≤ 0x200000
  dir : o.desc = (decide (o.src < o.dst) && decide (o.dst < o.src + o.n))
  read : ∀ i, i < o.n → bankMay u o.c o.ring false (bankOf (o.src + i)) = true
  write : ∀ i, i < o.n → bankMay u o.c o.ring true (bankOf (o.dst + i)) = true
  noSecret : ∀ i, i < o.n → isSecret (memGet u (o.src + i)) = false
  whole : ∀ i, i < o.n → o.src + i ∉ u.eccBad
  sound : ∀ i, i < o.n → o.src + i ∉ u.eccSoft

/-- The destination words of the first `m` words of a movb, which begins at its last word when it goes down. -/
def MovbOp.Moved (o : MovbOp) (m a : Nat) : Prop :=
  if o.desc then o.dst + (o.n - m) ≤ a ∧ a < o.dst + o.n else o.dst ≤ a ∧ a < o.dst + m

theorem MovbOp.moved_zero (o : MovbOp) (a : Nat) : ¬o.Moved 0 a := by
  unfold MovbOp.Moved
  split <;> omega

theorem MovbOp.moved_all (o : MovbOp) (a : Nat) : o.Moved o.n a ↔ o.dst ≤ a ∧ a < o.dst + o.n := by
  unfold MovbOp.Moved
  split
  · rw [Nat.sub_self, Nat.add_zero]
  · rfl

theorem movbIdx_lt {o : MovbOp} {m : Nat} (h : m < o.n) : movbIdx o m < o.n := by
  unfold movbIdx
  split <;> omega

/-- One word more. -/
theorem MovbOp.moved_succ (o : MovbOp) {m : Nat} (h : m < o.n) (a : Nat) :
    o.Moved (m + 1) a ↔ a = o.dst + movbIdx o m ∨ o.Moved m a := by
  unfold MovbOp.Moved movbIdx
  split <;> omega

/-- R159: the direction keeps a movb from reading a word that it has written. -/
theorem MovbPlain.not_moved_src {o : MovbOp} {u : State} (h : MovbPlain o u) {m : Nat} (hm : m < o.n) :
    ¬o.Moved m (o.src + movbIdx o m) := by
  have hdir := h.dir
  cases hd : o.desc with
  | false =>
    have hnot : ¬(o.src < o.dst ∧ o.dst < o.src + o.n) := by simpa [hd] using hdir.symm
    simp only [MovbOp.Moved, movbIdx, hd, Bool.false_eq_true, if_false]
    omega
  | true =>
    have hboth : o.src < o.dst ∧ o.dst < o.src + o.n := by simpa [hd] using hdir.symm
    simp only [MovbOp.Moved, movbIdx, hd, if_true]
    omega

/-- Behind `m` words of a movb that began in `u`. -/
structure MovbAt (o : MovbOp) (u t : State) (m : Nat) : Prop where
  inv : Inv t
  io : t.io = u.io
  free : (coreOf t o.c).hostAcc = none
  whole : ∀ a ∈ t.eccBad, a ∈ u.eccBad
  sound : ∀ a ∈ t.eccSoft, a ∈ u.eccSoft
  new : ∀ a, o.Moved m a → memGet t a = memGet u (o.src + (a - o.dst))
  old : ∀ a, ¬o.Moved m a → memGet t a = memGet u a

section
variable {o : MovbOp} {u t : State} {m : Nat}

/-- The next word is read from a bank, as it was at the beginning. -/
theorem MovbAt.read (h : MovbAt o u t m) (hp : MovbPlain o u) (hm : m < o.n) :
    movbRead o t (o.src + movbIdx o m) = .ok (memGet u (o.src + movbIdx o m), t) := by
  have hi := movbIdx_lt hm
  have hmay : ∀ a ∈ [o.src + movbIdx o m], MayBank t o.c o.ring false a := by
    have := hp.src
    refine List.forall_mem_singleton.2 ⟨decide_eq_true (by omega), ?_⟩
    rw [bankMay_of_io h.io]
    exact hp.read _ hi
  have hbad : o.src + movbIdx o m ∉ t.eccBad := fun e => hp.whole _ hi (h.whole _ e)
  have hsoft : o.src + movbIdx o m ∉ t.eccSoft := fun e => hp.sound _ hi (h.sound _ e)
  simp [movbRead, firstDenied_none hmay, hbad, hsoft, eccRead, h.old _ (hp.not_moved_src hm)]

/-- The next word is written to a bank. -/
theorem MovbAt.put (h : MovbAt o u t m) (hp : MovbPlain o u) (hm : m < o.n) :
    movbPut o t (o.dst + movbIdx o m) (memGet u (o.src + movbIdx o m)) =
      .ok (true, memPut t (o.dst + movbIdx o m) (memGet u (o.src + movbIdx o m))) := by
  have hi := movbIdx_lt hm
  have hbank : isBank (o.dst + movbIdx o m) = true := by
    have := hp.dst
    exact decide_eq_true (by omega)
  have hmay : ∀ a ∈ [o.dst + movbIdx o m], MayBank t o.c o.ring true a := by
    refine List.forall_mem_singleton.2 ⟨hbank, ?_⟩
    rw [bankMay_of_io h.io]
    exact hp.write _ hi
  simp [movbPut, not_isHost_of_isBank hbank, movbWriteBad, hp.noSecret _ hi, firstDenied_none hmay]

theorem MovbAt.step (h : MovbAt o u t m) (hp : MovbPlain o u) (hm : m < o.n) :
    movbStep o t m = .ok (true, memPut t (o.dst + movbIdx o m) (memGet u (o.src + movbIdx o m))) := by
  have hi := movbIdx_lt hm
  have hs := hp.src
  have hd := hp.dst
  have hsrc : (o.src + movbIdx o m) % 2 ^ 36 = o.src + movbIdx o m := Nat.mod_eq_of_lt (by omega)
  have hdst : (o.dst + movbIdx o m) % 2 ^ 36 = o.dst + movbIdx o m := Nat.mod_eq_of_lt (by omega)
  have hhost : isHost (o.src + movbIdx o m) = false := not_isHost_of_isBank (decide_eq_true (by omega))
  simp only [movbStep, h.free, hsrc, hdst, hhost, h.read hp hm, h.put hp hm]
  rfl

/-- The word that has been moved is one more. -/
theorem MovbAt.next (h : MovbAt o u t m) (hm : m < o.n) :
    MovbAt o u (movbMark o (m + 1) (memPut t (o.dst + movbIdx o m) (memGet u (o.src + movbIdx o m)))) (m + 1) := by
  have hmem : ∀ a, memGet (memPut t (o.dst + movbIdx o m) (memGet u (o.src + movbIdx o m))) a =
      if a = o.dst + movbIdx o m then memGet u (o.src + movbIdx o m) else memGet t a :=
    fun a => memGet_memPut (inv_mem h.inv) _ _ _
  have hput := (keeps_memPut (o.dst + movbIdx o m) (memGet u (o.src + movbIdx o m)) (Keeps.refl t)).2 h.inv
  constructor
  case inv => exact (keeps_movbMark o (m + 1) (Keeps.refl _)).2 hput
  case io => exact h.io
  case free => rw [movbMark, modCore, coreOf_setCore (inv_cores hput), if_pos rfl]
  case whole => exact fun a ha => h.whole a (List.mem_filter.1 ha |>.1)
  case sound => exact fun a ha => h.sound a (List.mem_filter.1 ha |>.1)
  case new =>
    intro a ha
    refine (hmem a).trans ?_
    split
    · next he => rw [he, Nat.add_sub_cancel_left]
    · next he => exact h.new a (((o.moved_succ hm a).1 ha).resolve_left he)
  case old =>
    intro a ha
    obtain ⟨hne, hno⟩ := not_or.1 (mt (o.moved_succ hm a).2 ha)
    exact (hmem a).trans ((if_neg hne).trans (h.old a hno))

end

/-- R159: the run of a movb from its word `m` on, to its end. -/
theorem movbRun_done {o : MovbOp} {u : State} (hp : MovbPlain o u) (f : Nat) {m : Nat} {t : State} (hf : f + m = o.n)
    (h : MovbAt o u t m) : ∃ t', movbRun o f m t = (t', .done) ∧ MovbAt o u t' o.n := by
  induction f generalizing m t with
  | zero => exact ⟨t, rfl, (Nat.zero_add m).symm.trans hf ▸ h⟩
  | succ f ih =>
    have hm : m < o.n := by omega
    obtain ⟨t', hrun, hend⟩ := ih (by omega) (h.next hm)
    refine ⟨t', ?_, hend⟩
    rw [movbRun, h.step hp hm]
    exact hrun

/-- A movb that none is under way before, from its beginning. -/
theorem movbGo_done {o : MovbOp} {s : State} (hI : Inv s) (hn : (coreOf s o.c).movb = none)
    (hp : MovbPlain o (storeDrainAll s o.c)) :
    ∃ t, movbGo o s = (t, .done) ∧ MovbAt o (storeDrainAll s o.c) t o.n := by
  have hU := inv_storeDrainAll hI o.c
  have hfree : (coreOf (movbMark o 0 (storeDrainAll s o.c)) o.c).hostAcc = none := by
    rw [movbMark, modCore, coreOf_setCore (inv_cores hU), if_pos rfl]
  have hstart : MovbAt o (storeDrainAll s o.c) (movbMark o 0 (storeDrainAll s o.c)) 0 :=
    ⟨(keeps_movbMark o 0 (Keeps.refl _)).2 hU, rfl, hfree, fun _ => id, fun _ => id,
      fun a ha => absurd ha (o.moved_zero a), fun _ _ => rfl⟩
  have hmovb : (coreOf (storeDrainAll s o.c) o.c).movb = none := (storeDrain_movb _ hI o.c).trans hn
  obtain ⟨t, hrun, hend⟩ := movbRun_done hp o.n (Nat.add_zero _) hstart
  refine ⟨t, ?_, hend⟩
  simp only [movbGo, hmovb]
  exact hrun

/-! ## The operands of movb -/

/-- The movb that a syllable names. -/
def movbOf (x : Ctx) : MovbOp where
  src := pay (opA x)
  dst := pay (opD x 0)
  n := pay (opB x)
  desc := decide (pay (opA x) < pay (opD x 0)) && decide (pay (opD x 0) < pay (opA x) + pay (opB x))
  c := x.c
  ring := x.k.ring
  slot := x.slot
  pos := x.pos

theorem movbOp_ok {x : Ctx} (ha : wtag (opA x) = .addrD) (hd : wtag (opD x 0) = .addrD) (hb : wtag (opB x) = .nat)
    (hn : pay (opB x) ≤ 4096) : movbOp x = .ok (movbOf x) := by
  have hc : consume [opA x, opB x, opD x 0] = .ok () := consume_ok (by simp [ha, hb, hd])
  have hna : need x 3 isAddrD (opA x) = .ok () := need_accepted ⟨rfl, rfl⟩ (by rw [ha]; rfl)
  have hnd : need x 3 isAddrD (opD x 0) = .ok () := need_accepted ⟨rfl, rfl⟩ (by rw [hd]; rfl)
  have hnb : need x 1 isNat (opB x) = .ok () := need_accepted ⟨rfl, rfl⟩ (by rw [hb]; rfl)
  simp only [movbOp, res_bind_of_ok hc, res_bind_of_ok hna, res_bind_of_ok hnd, res_bind_of_ok hnb,
    if_neg (Nat.not_lt.2 hn)]
  rfl

/-- A movb that ends where it began leaves what it has moved. -/
theorem semMovb_done {x : Ctx} {o : MovbOp} {t : State} (ho : movbOp x = .ok o) (hq : mQT x.k.mstat = false)
    (hgo : movbGo o x.s = (t, .done)) (a : Acc) : semMovb x a = a.eff fun s => (movbGo o s).1 := by
  simp only [semMovb, res_bind_of_ok ho, res_bind_of_ok (memQuiet_calm hq _), hgo]
  rfl

/-! ## pin, unpin and lease -/

/-- The lines of a pin, where all of them are present. -/
theorem pinLines_ok {x : Ctx} {ls : List Nat} (h : pinnedOf x = some ls) : pinLines x = .ok ls := by
  unfold pinnedOf at h
  dsimp only at h
  split at h
  · next hp =>
    obtain ⟨ha, hn, hl⟩ := hp
    have hc : consume [opA x] = .ok () := consume_ok (by simp [ha])
    have hk : need x 0 isLink (opA x) = .ok () := need_accepted ⟨rfl, rfl⟩ (by rw [ha]; rfl)
    have habsent : ¬0x13FFF < bits (pay (opA x)) 3 17 + mF x 0 8 - 1 := by omega
    simp only [pinLines, if_neg hn, res_bind_of_ok hc, res_bind_of_ok hk, if_neg habsent, ← Option.some.inj h]
    rfl
  · cases h

/-- A core whose pinned lines are `l`. -/
def pinTo (l : List Nat) (k : Core) : Core := { k with pinned := l }

/-- The pinned lines of core `k` with the lines `ls`. -/
def pinAll (k : Core) (ls : List Nat) : List Nat := k.pinned ++ ls.filter fun l => !k.pinned.contains l

section
variable {x : Ctx} {ls : List Nat} (hp : pinnedOf x = some ls) (a : Acc)
include hp

/-- R78, R161: pin answers whether its lines fit beside those already pinned, and pins them when they do. -/
theorem semPin_lines : semPin x a = if pinOk (pinAll x.k ls) then
      (a.put x.y.d.toNat (boolW true)).eff fun s => modCore s x.c (pinTo (pinAll x.k ls))
    else a.put x.y.d.toNat (boolW false) := by
  have hall : x.k.pinned ++ ls.filter (fun l => !x.k.pinned.contains l) = pinAll x.k ls := rfl
  simp only [semPin, res_bind_of_ok (pinLines_ok hp), hall]
  split <;> rfl

theorem semUnpin_lines : semUnpin x a = (a.put x.y.d.toNat (boolW true)).eff fun s =>
    modCore s x.c fun k => pinTo (k.pinned.filter fun l => !ls.contains l) k := by
  simp only [semUnpin, res_bind_of_ok (pinLines_ok hp)]
  rfl

end

/-- R162: lease answers whether the core may renew the lease, and renews it when it may. -/
theorem semLease_bank {x : Ctx} (ha : wtag (opA x) = .nat) (hn : pay (opA x) ≤ 31) (a : Acc) : semLease x a =
    if renewOk x.s x.c x.k.ring (pay (opA x)) then (a.put x.y.d.toNat (boolW true)).eff fun s => renewDo s (pay (opA x))
    else a.put x.y.d.toNat (boolW false) := by
  obtain ⟨hc, hk⟩ := consume_opA_ok (x := x) (ok := isNat) ⟨rfl, rfl⟩ (by rw [ha]; rfl)
  simp only [semLease, res_bind_of_ok hc, res_bind_of_ok hk, if_neg (Nat.not_lt.2 hn)]
  split <;> rfl

theorem inv_taken {s : State} (hI : Inv s) (c : CoreId) (i : Instr) (y : Syl) : Inv (taken s c i y) :=
  (keeps_modCore c.val (gather i y) (Keeps.refl s) fun h => h).2 hI

/-- An answer with its effect, made on a condition. -/
theorem answer_ite {v t : State} {f : State → State} (hf : f v = t) (d : Nat) (b : Bool) :
    (if b then ((Acc.start v).put d (boolW true)).eff f else (Acc.start v).put d (boolW false)) =
      { Acc.start v with
        writes := [(d, boolW b)]
        st := if b then t else v } := by
  subst hf
  cases b <;> rfl

/-- Settles O13: the run of a movb word by word, and the checks of pin, unpin and lease. -/
theorem movbPinUnpinLease : Obligations.MovbPinUnpinLease := by
  refine ⟨?_, fun s c y => ⟨fun ls hR hp => ?_, fun ls hR hp => ?_, ?_⟩⟩
  · intro s c y k x v u src dst n hR hmovb _ ha hd hb hn hsrc hdst hw
    have hmay : bankMay u = bankMay s := bankMay_of_io (storeDrain_io _ _ _)
    have hring : (movbOf x).ring = k.ring := soleCtx_ring hR.1 c _ y
    have hplain : MovbPlain (movbOf x) u := by
      constructor
      case src => exact hsrc
      case dst => exact hdst
      case dir => rfl
      case read =>
        intro i hi
        obtain ⟨hread, -⟩ := hw i hi
        rw [hmay, hring]
        exact hread
      case write =>
        intro i hi
        obtain ⟨-, hwrite, -⟩ := hw i hi
        rw [hmay, hring]
        exact hwrite
      case noSecret =>
        intro i hi
        obtain ⟨-, -, hsecret, -⟩ := hw i hi
        exact hsecret
      case whole =>
        intro i hi
        obtain ⟨-, -, -, hbad, -⟩ := hw i hi
        exact mt List.contains_iff_mem.2 (Bool.eq_false_iff.1 hbad)
      case sound =>
        intro i hi
        obtain ⟨-, -, -, -, hsoft⟩ := hw i hi
        exact mt List.contains_iff_mem.2 (Bool.eq_false_iff.1 hsoft)
    have hnone : (coreOf v c.val).movb = none := by
      rw [coreOf_taken hR.1]
      exact hmovb
    obtain ⟨t, hgo, hend⟩ := movbGo_done (o := movbOf x) (inv_taken hR.1 c _ y) hnone hplain
    refine ⟨t, issue_ready hR ?_ rfl rfl rfl rfl, fun a => ?_⟩
    · exact (semMovb_done (movbOp_ok ha hd hb hn) hR.calm hgo _).trans
        (congrArg (fun t => { Acc.start v with st := t }) (congrArg Prod.fst hgo))
    · split
      · next hin => exact hend.new a (((movbOf x).moved_all a).2 hin)
      · next hout => exact hend.old a (mt ((movbOf x).moved_all a).1 hout)
  · have hk : pinAll (soleCtx s c (.pin c y) y).k ls = pinAll (coreOf s c.val) ls := by
      rw [soleCtx_k hR.1]
      rfl
    have hcore := modCore_taken hR.1 c (.pin c y) y (pinTo (pinAll (coreOf s c.val) ls))
    refine issue_ready hR ((semPin_lines hp _).trans ?_) rfl rfl rfl rfl
    rw [hk]
    exact answer_ite hcore _ _
  · have hcore := modCore_taken hR.1 c (.unpin c y) y fun k => pinTo (k.pinned.filter fun l => !ls.contains l) k
    exact issue_ready hR ((semUnpin_lines hp _).trans (congrArg (fun t => { Acc.start (taken s c (.unpin c y) y) with
      writes := [(y.d.toNat, boolW true)]
      st := t }) hcore)) rfl rfl rfl rfl
  · intro a ok hR ha hn
    refine issue_ready hR ((semLease_bank ha hn _).trans ?_) rfl rfl rfl rfl
    rw [soleCtx_ring hR.1]
    exact answer_ite rfl _ _

end Sys2Proof.Machine
end

section
/-! in and out (O22), and ciph (O24): the checks of their operands, and what their accesses answer. -/

namespace Sys2Proof.Machine

/-! ## in and out -/

/-- A syllable that is ready, and whose PORT access faults, traps when nothing else of it stands against that (R164). -/
theorem issue_ready_late {s : State} {c : CoreId} {i : Instr} {y : Syl} (hR : Ready s c i y) {a : Acc} {t : Trp}
    (ha : semOf i (soleCtx s c i y) (Acc.start (taken s c i y)) = a) (hf : a.fault = none) (hh : a.hold = none)
    (hl : a.late = some t) (ht : t.cause ≠ 0x10) :
    issue i c y s = .next (wordTrap (taken s c i y) c.val t) := by
  obtain ⟨hI, hw, h, hi, hn, hS⟩ := hR
  rw [issue, if_pos hw, issueState_sole hI hS hi hn, ha]
  simp only [wordEnd, hf, hh, succPriv_sole hI hS a, hl, lateRead, if_neg ht]

/-- R148: base + index + M in I/O space, where the operands have their tags. -/
theorem portAddr_ok {x : Ctx} {i : Nat} (h : ioPlace x = some i) : portAddr x = .ok i := by
  unfold ioPlace at h
  split at h
  · next ht =>
    obtain ⟨ha, hb⟩ := ht
    have hc : consume [opA x, opB x] = .ok () := consume_ok
      (List.forall_mem_cons.2 ⟨by simp [ha], List.forall_mem_singleton.2 (not_poison_of_accepted rfl hb)⟩)
    have hna : need x 3 isAddrIO (opA x) = .ok () := need_accepted ⟨rfl, rfl⟩ (by rw [ha]; rfl)
    simp only [portAddr, res_bind_of_ok hc, res_bind_of_ok hna, res_bind_of_ok (need_accepted ⟨rfl, rfl⟩ hb),
      ← Option.some.inj h]
    rfl
  · cases h

section
variable {s : State} {c ring a : Nat}

theorem ioRead_readable (h : ioReadable s c ring a = true) : ∃ t, ioRead s c ring a = .ok (ioValue s c (ioAbs c a), t) := by
  simp only [ioReadable, Bool.and_eq_true, Bool.not_eq_true', Bool.or_eq_true, beq_iff_eq] at h
  obtain ⟨⟨⟨hm, ho⟩, hl⟩, hr⟩ := h
  have ho' : (otherPriv c (ioAbs c a) && ring != 0) = false := by
    rcases ho with ho | ho <;> simp [ho]
  cases hi : regInfo c (ioAbs c a) with
  | none => exact ⟨s, by simp [ioRead, hm, ho', hi, hl, ioValue]⟩
  | some i =>
    rw [hi] at hr
    exact ⟨ioReadEff s c (ioAbs c a), by simp [ioRead, hm, ho', hi, hl, hr]⟩

theorem ioRead_unmapped (h : ioMapped a = false) : ioRead s c ring a = .error (iotoT a) := by
  simp [ioRead, h]

/-- R540: a ring that the register's column does not name. The own range of another core gives the same trap. -/
theorem ioRead_ring {i : RegInfo} (hm : ioMapped a = true) (hi : regInfo c (ioAbs c a) = some i)
    (hb : bitAt i.rd ring = false) : ioRead s c ring a = .error (ioPriv a) := by
  simp [ioRead, hm, hi, hb]

/-- A hole reads NAT:0. -/
theorem ioValue_hole (h : regInfo c a = none) : ioValue s c a = natW 0 := by simp only [ioValue, h]

end

/-- The word of an out that is no POISON. -/
theorem consume_data {x : Ctx} (hw : wtag (opD x 0) ≠ .poison) : consume [opD x 0] = .ok () :=
  consume_ok (List.forall_mem_singleton.2 hw)

/-- The effect of an out is that of the write that it makes. -/
theorem outDone_eq {x : Ctx} {i : Nat} {w : Word} {s t : State} (h : ioWrite s x.c x.k.ring x.pos i w = .done t) :
    outDone x i w s = t := by simp only [outDone, h]

theorem iotoT_cause (a : Nat) : (iotoT a).cause ≠ 0x10 := show 0x06 ≠ 0x10 by decide

section
variable {x : Ctx} {i : Nat} (hp : ioPlace x = some i) (a : Acc)
include hp

theorem semIn_reads (hr : ioReadable x.s x.c x.k.ring i = true) : semIn x a =
    (a.put x.y.d.toNat (ioValue x.s x.c (ioAbs x.c i))).eff fun s => ioReadEff s x.c (ioAbs x.c i) := by
  obtain ⟨t, ht⟩ := ioRead_readable hr
  simp only [semIn, res_bind_of_ok (portAddr_ok hp), ht]
  rfl

theorem semIn_refused {t : Trp} (hr : ioRead x.s x.c x.k.ring i = .error t) :
    semIn x a = flawed x [x.y.d.toNat] a (ioFlaw t) := by
  simp only [semIn, res_bind_of_ok (portAddr_ok hp), hr]
  rfl

theorem semOut_done {t : State} (hw : wtag (opD x 0) ≠ .poison)
    (ht : ioWrite x.s x.c x.k.ring x.pos i (opD x 0) = .done t) : semOut x a = a.eff (outDone x i (opD x 0)) := by
  simp only [semOut, res_bind_of_ok (portAddr_ok hp), ht, res_bind_of_ok (consume_data hw)]
  rfl

theorem semOut_refused {t : Trp} (hw : wtag (opD x 0) ≠ .poison)
    (ht : ioWrite x.s x.c x.k.ring x.pos i (opD x 0) = .fault t) : semOut x a = flawed x [] a (ioFlaw t) := by
  simp only [semOut, res_bind_of_ok (portAddr_ok hp), ht, res_bind_of_ok (consume_data hw)]
  split <;> rfl

end

/-- Settles O22: what the read or the write at the address answers. -/
theorem ioSyllables : Obligations.IoSyllables := by
  refine ⟨?_, ?_, ?_⟩
  · intro s c y i v hR hp hr
    have hread : semIn (soleCtx s c (.inIo c y) y) (Acc.start v) = { Acc.start v with
        writes := [(y.d.toNat, ioValue v c.val (ioAbs c.val i))]
        st := ioReadEff v c.val (ioAbs c.val i) } :=
      semIn_reads hp (Acc.start v) (by rw [soleCtx_ring hR.1]; exact hr)
    cases hi : regInfo c.val (ioAbs c.val i) with
    | none =>
      rw [ioValue_hole hi] at hread
      exact issue_ready hR hread rfl rfl rfl rfl
    | some _ => exact issue_ready hR hread rfl rfl rfl rfl
  · intro s c y i t v w hR hp hw ht
    have hD : opD (soleCtx s c (.outIo c y) y) 0 = w := opD_soleCtx hR.1 c _ y 0
    have ht' : ioWrite v c.val (soleCtx s c (.outIo c y) y).k.ring (soleCtx s c (.outIo c y) y).pos i
        (opD (soleCtx s c (.outIo c y) y) 0) = .done t := by
      rw [hD, soleCtx_ring hR.1, soleCtx_pos hR.1]
      exact ht
    exact issue_ready hR ((semOut_done hp _ (hD ▸ hw) ht').trans
      (congrArg (fun u => { Acc.start v with st := u }) (outDone_eq (x := soleCtx s c (.outIo c y) y) ht'))) rfl rfl rfl rfl
  · intro s c y i
    refine ⟨fun hR hp hm => ?_, fun hR hp hm hw => ?_, fun r hR hp hm hi hb => ?_⟩
    · exact issue_ready_late hR (semIn_refused hp _ (ioRead_unmapped hm)) rfl rfl rfl (iotoT_cause i)
    · have hD := opD_soleCtx hR.1 c (.outIo c y) y 0
      have hf : ioWrite (soleCtx s c (.outIo c y) y).s c.val (soleCtx s c (.outIo c y) y).k.ring
          (soleCtx s c (.outIo c y) y).pos i (opD (soleCtx s c (.outIo c y) y) 0) = .fault (iotoT i) := by
        simp only [ioWrite, ioWriteCheck_unmapped hm]
      exact issue_ready_late hR (semOut_refused hp _ (hD ▸ hw) hf) rfl rfl rfl (iotoT_cause i)
    · have hr := ioRead_ring (s := taken s c (.inIo c y) y) (ring := (soleCtx s c (.inIo c y) y).k.ring) hm hi
        (by rw [soleCtx_ring hR.1]; exact hb)
      exact issue_ready_faults hR (semIn_refused hp _ hr) rfl rfl

/-! ## ciph -/

/-- Each function of ciph is issued as every syllable is, and is one of the eleven. -/
theorem cipherSyllables_meaning : ∀ p ∈ cipherSyllables, ∀ (c : CoreId) (y : Syl),
    (∀ s, exec (p.1 c y) s = issue (p.1 c y) c y s) ∧ semOf (p.1 c y) = semCiph ∧ p.2 ≤ 10 := by
  simp only [cipherSyllables, List.forall_mem_cons]
  refine ⟨?_, ?_, ?_, ?_, ?_, ?_, ?_, ?_, ?_, ?_, ?_, List.forall_mem_nil _⟩ <;>
    exact fun _ _ => ⟨fun _ => rfl, rfl, by decide⟩

section
variable {x : Ctx}

/-- R168: the key, the block and the length. -/
theorem ciphOps_ok (ha : wtag (opA x) = .keyref) (hb : wtag (opB x) = .addrD) (hd : wtag (opD x 0) = .nat)
    (hl : pay (opD x 0) ≤ 65536) :
    ciphOps x = .ok (BitVec.ofNat 36 (pay (opA x)), pay (opB x), pay (opD x 0)) := by
  have hc : consume [opA x, opB x, opD x 0] = .ok () := consume_ok (by simp [ha, hb, hd])
  have hna : need x 0 isKeyref (opA x) = .ok () := need_accepted ⟨rfl, rfl⟩ (by rw [ha]; rfl)
  have hnb : need x 3 isAddrD (opB x) = .ok () := need_accepted ⟨rfl, rfl⟩ (by rw [hb]; rfl)
  have hnd : need x 7 isNat (opD x 0) = .ok () := need_accepted ⟨rfl, rfl⟩ (by rw [hd]; rfl)
  simp only [ciphOps, res_bind_of_ok hc, res_bind_of_ok hna, res_bind_of_ok hnb, res_bind_of_ok hnd,
    if_neg (Nat.not_lt.2 hl)]
  rfl

theorem blockDenied_none {b : Nat} (hr : ∀ a ∈ groupAt b 16, MayBank x.s x.c x.k.ring false a)
    (hw : ∀ a ∈ groupAt b 16, MayBank x.s x.c x.k.ring true a) : blockDenied x b = none := by
  simp only [blockDenied, firstDenied_none hr, firstDenied_none hw]

theorem semCiph_starts {key : Payload} {b len : Nat} (hf : mF x 0 4 ≤ 10) (hr : x.k.ring ≤ 2)
    (ho : ciphOps x = .ok (key, b, len)) (hq : mQT x.k.mstat = false) (hj : ciphRuns x = false)
    (hd : blockDenied x b = none) (hv : cipherValid x.s = true) (a : Acc) :
    semCiph x a = a.eff fun s => ciphStart (drainOver s x.c b 16) x.c x.k.ring (mF x 0 4) len key b := by
  simp only [semCiph, if_neg (Nat.not_lt.2 hf), res_bind_of_ok (ringMax_ok hr), res_bind_of_ok ho, hq, hj, hd, hv]
  rfl

end

/-- Settles O24: the checks of a ciph, in their order, and then its start. -/
theorem cipherStarts : Obligations.CipherStarts := by
  intro p hp s c y x v b hR hf hring ha hb hd hl hj hv hm
  obtain ⟨hexec, hsem, hfun⟩ := cipherSyllables_meaning p hp c y
  have hmf : mF x 0 4 = p.2 := (mF_zero x 4).trans hf
  have hr : x.k.ring = (coreOf s c.val).ring := soleCtx_ring hR.1 c _ y
  have hblock : blockDenied x b = none := by
    refine blockDenied_none (fun a ha => ?_) fun a ha => ?_ <;> obtain ⟨hbank, hread, hwrite⟩ := hm a ha <;>
      rw [MayBank, hr]
    · exact ⟨hbank, hread⟩
    · exact ⟨hbank, hwrite⟩
  have hstart := semCiph_starts (Nat.le_trans (Nat.le_of_eq hmf) hfun) (Nat.le_trans (Nat.le_of_eq hr) hring) (ciphOps_ok ha hb hd hl) hR.calm hj hblock hv
    (Acc.start v)
  rw [hmf, hr] at hstart
  rw [hexec]
  exact issue_ready hR ((congrFun (congrFun hsem _) _).trans hstart) rfl rfl rfl rfl

end Sys2Proof.Machine
end

section
/-! The control registers (O26), and the control store and the predictor (O27). -/

namespace Sys2Proof.Machine

/-! ## mfc and mtc -/

/-- The control registers that mtc writes. -/
theorem mtc_named {n : Nat} (hn : n ≤ 21) (h0 : n ≠ 0) (h18 : n ≠ 18) : ¬(n = 0 ∨ n = 18 ∨ 21 < n) := by omega

section
variable {x : Ctx} {n : Nat} (hf : mF x 0 5 = n) (hn : n ≤ 21) (a : Acc)
include hf hn

theorem semMfc_reads (hr : x.k.ring ≤ (crRings n).1) : semMfc x a = a.put x.y.d.toNat (crRead x.s x.c n) := by
  simp only [semMfc, hf, if_neg (Nat.not_lt.2 hn), if_neg (Nat.not_lt.2 hr)]
  rfl

theorem semMfc_denied (hr : (crRings n).1 < x.k.ring) : semMfc x a = a.addFault (privT 0x03 (natW n)) := by
  simp only [semMfc, hf, if_neg (Nat.not_lt.2 hn), if_pos hr]
  rfl

theorem semMtc_denied (h0 : n ≠ 0) (h18 : n ≠ 18) (hr : (crRings n).2 < x.k.ring) :
    semMtc x a = a.addFault (privT 0x03 (natW n)) := by
  simp only [semMtc, hf, if_neg (mtc_named hn h0 h18), if_pos hr]
  rfl

theorem semMtc_writes (h0 : n ≠ 0) (h18 : n ≠ 18) (hr : x.k.ring ≤ (crRings n).2) (hw : plainWord (opA x) = true)
    (ht : crTag n (wtag (opA x)) = true) (hv : crValueBad n (pay (opA x)) = false)
    (hm : n = 1 → mstatPriv x.k.ring x.k.mstat (pay (opA x)) = false) :
    semMtc x a = a.later fun s => crWrite s x.c n (opA x) := by
  have hc : consume [opA x] = .ok () := consume_ok (List.forall_mem_singleton.2 (plainWord_iff.1 hw).2)
  have hp : ¬(n = 1 ∧ mstatPriv x.k.ring x.k.mstat (pay (opA x)) = true) := fun h =>
    Bool.eq_false_iff.1 (hm h.1) h.2
  simp only [semMtc, hf, if_neg (mtc_named hn h0 h18), if_neg (Nat.not_lt.2 hr), res_bind_of_ok hc,
    res_bind_of_ok (need_plain hw ht), hv, if_neg hp]
  rfl

end

/-! ## What a control register reads back -/

section
variable {s : State} (hI : Inv s) (c : CoreId) (n : Nat) (w : Word)
include hI

/-- Every control register but 16 stands in its core. -/
theorem coreOf_crWrite (hn : n ≠ 16) : coreOf (crWrite s c.val n w) c.val = crCore n w (coreOf s c.val) := by
  rw [crWrite, if_neg hn, modCore, coreOf_setCore (inv_cores hI), if_pos rfl]

/-- mtc of a register that takes any word of its tag. -/
theorem crRead_crWrite_word (hn : n ∈ [4, 9, 10, 19, 20]) : crRead (crWrite s c.val n w) c.val n = w := by
  have hk := coreOf_crWrite hI c n w (by rintro rfl; revert hn; decide)
  simp only [List.mem_cons, List.not_mem_nil, or_false] at hn
  rcases hn with rfl | rfl | rfl | rfl | rfl <;> simp only [crRead, hk] <;> rfl

/-- mtc of repc and lcnt. -/
theorem crRead_crWrite_count (hn : n ∈ [11, 12]) : crRead (crWrite s c.val n w) c.val n = natW (pay w) := by
  have hk := coreOf_crWrite hI c n w (by rintro rfl; revert hn; decide)
  rcases eq_or_eq_of_mem_two hn with rfl | rfl <;> simp only [crRead, hk] <;> rfl

/-- mtc of lbeg and lend. -/
theorem crRead_crWrite_link (hn : n ∈ [13, 14]) :
    crRead (crWrite s c.val n w) c.val n = linkW (BitVec.ofNat 20 (pay w)) := by
  have hk := coreOf_crWrite hI c n w (by rintro rfl; revert hn; decide)
  rcases eq_or_eq_of_mem_two hn with rfl | rfl <;> simp only [crRead, hk] <;> rfl

theorem crRead_crWrite_evlat : crRead (crWrite s c.val 15 w) c.val 15 = bitsW (pay w % 512) := by
  simp only [crRead, coreOf_crWrite hI c 15 w (by decide)]
  rfl

theorem crRead_crWrite_pbar :
    crRead (crWrite s c.val 17 w) c.val 17 = natW (pay w % 256 + 256 * (bitAt (pay w) 8).toNat) := by
  simp only [crRead, coreOf_crWrite hI c 17 w (by decide)]
  rfl

/-- A payload has 36 bits, as shdw1 has. -/
theorem crRead_crWrite_shdw1 : crRead (crWrite s c.val 21 w) c.val 21 = natW (pay w) := by
  have hp : (BitVec.ofNat 36 (pay w)).toNat = pay w := by
    rw [BitVec.toNat_ofNat, Nat.mod_eq_of_lt (pay_lt w)]
  simp only [crRead, coreOf_crWrite hI c 21 w (by decide)]
  exact congrArg natW hp

end

/-- Control registers 5 to 8 are the tsp of the four rings. -/
theorem crRead_tsp (t : State) (c : Nat) {m : Nat} (hm : m ∈ [5, 6, 7, 8]) :
    crRead t c m = tspOf (coreOf t c) (m - 5) := by
  simp only [List.mem_cons, List.not_mem_nil, or_false] at hm
  rcases hm with rfl | rfl | rfl | rfl <;> rfl

theorem crCore_tsp {n : Nat} (hn : n ∈ [5, 6, 7, 8]) (w : Word) (k : Core) : crCore n w k = tspPut k (n - 5) w := by
  simp only [List.mem_cons, List.not_mem_nil, or_false] at hn
  rcases hn with rfl | rfl | rfl | rfl <;> rfl

theorem tspOf_tspPut {k : Core} (hk : tabWf (fun _ => emptyW) none k.tsp = true) (r q : Nat) (w : Word) :
    tspOf (tspPut k r w) q = if q = r then w else tspOf k q := tabGet_tabSet r q w hk

/-- mtc of a tsp writes that of one ring. -/
theorem crRead_crWrite_tsp {s : State} (hI : Inv s) {c : CoreId}
    (ht : tabWf (fun _ => emptyW) none (coreOf s c.val).tsp = true) {n m : Nat} (hn : n ∈ [5, 6, 7, 8])
    (hm : m ∈ [5, 6, 7, 8]) (w : Word) :
    crRead (crWrite s c.val n w) c.val m = if m = n then w else crRead s c.val m := by
  have hk := coreOf_crWrite hI c n w (by rintro rfl; revert hn; decide)
  have hlo : 5 ≤ n ∧ 5 ≤ m := by
    simp only [List.mem_cons, List.not_mem_nil, or_false] at hn hm
    omega
  have hiff : m - 5 = n - 5 ↔ m = n := by omega
  rw [crRead_tsp _ _ hm, hk, crCore_tsp hn, tspOf_tspPut ht, crRead_tsp _ _ hm]
  simp only [hiff]

/-- Settles O26: the checks of mfc and mtc, and then what each control register keeps of a word. -/
theorem controlRegisters : Obligations.ControlRegisters := by
  refine ⟨?_, fun s c w hI ht => ?_⟩
  · intro s c y n r hn
    have hfield : ∀ i, mF (soleCtx s c i y) 0 5 = n := fun i => mF_zero _ 5
    refine ⟨fun hR hr => ?_, fun hR hr => ?_, ?_, fun hR h0 h18 hr => ?_⟩
    · exact issue_ready hR (semMfc_reads (hfield _) hn _ (by rw [soleCtx_ring hR.1]; exact hr)) rfl rfl rfl rfl
    · exact issue_ready_faults hR (semMfc_denied (hfield _) hn _ (by rw [soleCtx_ring hR.1]; exact hr)) rfl rfl
    · intro a hR h0 h18 hr hp he htag hv hm
      refine issue_ready hR (semMtc_writes (hfield _) hn _ h0 h18 ?_ (plainWord_iff.2 ⟨he, hp⟩) htag hv ?_) rfl rfl rfl rfl
      · rw [soleCtx_ring hR.1]
        exact hr
      · rw [soleCtx_ring hR.1, soleCtx_mstat hR.1]
        exact hm
    · exact issue_ready_faults hR (semMtc_denied (hfield _) hn _ h0 h18 (by rw [soleCtx_ring hR.1]; exact hr)) rfl rfl
  · refine ⟨fun n => crRead_crWrite_word hI c n w, fun n => crRead_crWrite_count hI c n w,
      fun n => crRead_crWrite_link hI c n w, crRead_crWrite_evlat hI c w, crRead_crWrite_pbar hI c w,
      crRead_crWrite_shdw1 hI c w, fun n hn => ⟨?_, fun m hm hne => ?_⟩⟩
    · rw [crRead_crWrite_tsp hI ht hn hn, if_pos rfl]
    · rw [crRead_crWrite_tsp hI ht hn hm, if_neg hne]

/-! ## The control store -/

/-- The LINK that a word carries, and its line. -/
theorem toNat_link (w : Word) : (BitVec.ofNat 20 (pay w)).toNat = pay w % 2 ^ 20 := BitVec.toNat_ofNat ..

theorem line_of_pay (p : Nat) : bits p 3 17 = p % 2 ^ 20 / 8 := by
  unfold bits
  omega

section
variable {x : Ctx} (a : Acc)

/-- R176: csld gives the two words of a syllable. -/
theorem semCsld_reads (hd : x.y.d ≠ 0) (hg : x.y.d.toNat % 8 ≤ 6) (ha : wtag (opA x) = .link)
    (hl : pay (opA x) % 2 ^ 20 / 8 < 0x14000)
    (hr : x.k.ring = 0 ∨ x.k.ring = 1 ∧ 0x4000 ≤ pay (opA x) % 2 ^ 20 / 8) :
    semCsld x a = (a.put x.y.d.toNat (bitsW (csRaw x.s (pay (opA x) % 2 ^ 20)).toNat)).put (x.y.d.toNat + 1)
      (natW ((csRaw x.s (pay (opA x) % 2 ^ 20)).toNat / 2 ^ 36)) := by
  have hgroup : groupOk x 2 = true := by
    simp only [groupOk, Bool.or_eq_true, Bool.and_eq_true, decide_eq_true_eq, bne_iff_ne]
    exact .inr ⟨hd, by omega⟩
  have hline : lineAbsent (bits (pay (opA x)) 3 17) = false := by
    rw [line_of_pay]
    exact decide_eq_false (Nat.not_le.2 hl)
  have hmax : ringMax x 1 = .ok () := ringMax_ok (by omega)
  have hring : ¬(x.k.ring = 1 ∧ (!lineWritable (lineOf (BitVec.ofNat 20 (pay (opA x))))) = true) := by
    rintro ⟨h1, h⟩
    simp only [lineWritable, lineOf, toNat_link, Bool.not_eq_true', Bool.and_eq_false_iff, decide_eq_false_iff_not] at h
    omega
  simp only [semCsld, hgroup, hline, Bool.and_false, res_bind_of_ok hmax, res_bind_of_ok (linkA_ok ha), if_neg hring,
    toNat_link]
  rfl

/-- R176: csst writes a syllable of a writable line. -/
theorem semCsst_writes (hq : mQT x.k.mstat = false) (hr : x.k.ring = 0) (ha : wtag (opA x) = .link)
    (hlo : 0x4000 ≤ pay (opA x) % 2 ^ 20 / 8) (hhi : pay (opA x) % 2 ^ 20 / 8 < 0x14000) (hb : wtag (opB x) = .bits)
    (hd : wtag (opD x 0) = .nat) (hn : pay (opD x 0) ≤ 15) :
    semCsst x a = a.later fun s => csPut s (pay (opA x) % 2 ^ 20)
      (BitVec.ofNat 40 (pay (opD x 0) * 2 ^ 36 + pay (opB x))) := by
  have hline : lineWritable (bits (pay (opA x)) 3 17) = true := by
    simp only [line_of_pay, lineWritable, Bool.and_eq_true, decide_eq_true_eq]
    exact ⟨hlo, hhi⟩
  have hc : consume [opA x, opB x, opD x 0] = .ok () := consume_ok (by simp [ha, hb, hd])
  have hnb : need x 1 isBits (opB x) = .ok () := need_accepted ⟨rfl, rfl⟩ (by rw [hb]; rfl)
  have hnd : need x 2 isNat (opD x 0) = .ok () := need_accepted ⟨rfl, rfl⟩ (by rw [hd]; rfl)
  simp only [semCsst, hline, Bool.not_true, Bool.and_false, res_bind_of_ok (ringMax_ok (Nat.le_of_eq hr)), res_bind_of_ok hc,
    res_bind_of_ok (linkA_ok ha), res_bind_of_ok hnb, res_bind_of_ok hnd, if_neg (Nat.not_lt.2 hn), hq, toNat_link]
  rfl

theorem quietListed_calm (hq : mQT x.k.mstat = false) : quietListed x = .ok () := by
  rw [quietListed, hq]
  rfl

end

/-- R177: pbar `n` bars prediction for `n` microwords, or with 0 until it is cleared. -/
def pbarBy (n : Nat) (k : Core) : Core := if n = 0 then { k with pbarHold := true } else { k with pbarN := n }

theorem semPbar_eq (x : Ctx) (a : Acc) :
    semPbar x a = a.later fun s => modCore s x.c (pbarBy (x.y.m.toNat % 256)) :=
  congrArg (fun n => a.later fun s => modCore s x.c (pbarBy n)) (mF_zero x 8)

/-- Settles O27: the checks of csld and csst, and the effects at retirement of the others. -/
theorem controlStoreAndPredictor : Obligations.ControlStoreAndPredictor := by
  refine ⟨fun s c y => ⟨?_, ?_, fun hR => ?_⟩, fun s c y => ⟨fun hR => ?_, fun hR => ?_, fun hR => ?_⟩⟩
  · intro a v l hR hd hg ha hl hr
    exact issue_ready hR (semCsld_reads _ hd hg ha hl (by rw [soleCtx_ring hR.1]; exact hr)) rfl rfl rfl rfl
  · intro x v l hR hr ha hlo hhi hb hd hn
    exact issue_ready hR (semCsst_writes _ hR.calm ((soleCtx_ring hR.1 c _ y).trans hr) ha hlo hhi hb hd hn) rfl rfl rfl rfl
  · exact issue_ready hR (congrArg (outcome _ _ _) (res_bind_of_ok (quietListed_calm hR.calm) _)) rfl rfl rfl rfl
  · exact issue_ready hR (congrArg (outcome _ _ _) (res_bind_of_ok (quietListed_calm hR.calm) _)) rfl rfl rfl rfl
  · exact issue_ready hR (semPbar_eq _ _) rfl rfl rfl rfl
  · exact issue_ready hR rfl rfl rfl rfl rfl

end Sys2Proof.Machine
end

section
/-! The actions of SERVICE (O47): from an admin ring and without ALARM each is handed to its own effect. -/

namespace Sys2Proof.Machine

/-! ## What the actions share -/

section
variable {s : State} {c : CoreId} {w : Work} {a : Nat} (f : Work → State)

/-- R511: a SERVICE entry from a ring that is no admin ring is refused. -/
theorem serviceDo_notAdmin (h : InWork s c w 0xA) (ha : w.p 5 = a) (hw : w.admin s = false) :
    serviceDo s c.val a f = workEnd s c.val w 6 0 := by
  simp [serviceDo, workOf_inWork h, ha, hw]

/-- R511: under ALARM it is refused too. -/
theorem serviceDo_alarm (h : InWork s c w 0xA) (ha : w.p 5 = a) (hw : w.admin s = true) (hm : modeBit s 7 = true) :
    serviceDo s c.val a f = workEnd s c.val w 0x0F 0 := by
  simp [serviceDo, workOf_inWork h, ha, hw, hm]

theorem serviceDo_inService (h : InService s c w a) : serviceDo s c.val a f = f w := by
  obtain ⟨hwork, ha, hw, hm⟩ := h
  simp [serviceDo, workOf_inWork hwork, ha, hw, hm]

end

section
variable {s : State} {c : CoreId} {w : Work}

/-! ## Kerf, release and splice -/

theorem execServiceKerf_kerfs (h : InService s c w 1) (hu : w.p 6 < 32) : execServiceKerf c s =
    .next (if c.val = w.p 6 then kerf s (w.p 6) 6 else workEnd (kerf s (w.p 6) 6) c.val w 0 0) := by
  simp only [execServiceKerf, serviceDo_inService _ h, if_neg (Nat.not_le.2 hu), endOther]

/-- A result that is 0 for success. -/
theorem toNat_not (b : Bool) : (!b).toNat = if b then 0 else 1 := by cases b <;> rfl

theorem execServiceRelease_releases (h : InService s c w 2) (hu : w.p 6 < 32) (hc : c.val ≠ w.p 6) (pass : Bool) :
    execServiceRelease c pass s = .next (workEnd (selfTestEnd (releaseDo s (w.p 6)) (w.p 6) pass) c.val w 0
      (if clusterOnNow s (w.p 6 / 4) ∧ w.p 6 / 4 ∉ s.islReset ∧ pass = true then 0 else 1)) := by
  have hup : (!(clusterOnNow s (w.p 6 / 4) && !s.islReset.contains (w.p 6 / 4) && pass)).toNat =
      if clusterOnNow s (w.p 6 / 4) ∧ w.p 6 / 4 ∉ s.islReset ∧ pass = true then 0 else 1 := by
    simp only [toNat_not, Bool.and_eq_true, Bool.not_eq_true', List.contains_eq_mem, decide_eq_false_iff_not, and_assoc]
  simp only [execServiceRelease, serviceDo_inService _ h, if_neg (Nat.not_le.2 hu), endOther, if_neg hc, hup]

section
variable (h : InService s c w 3) (hu : w.p 6 < 32) (hv : w.p 7 < 32)
include h hu hv

theorem execServiceSplice_refused (hd : spliceAnswer s (w.p 6) (w.p 7) ≠ 0) :
    execServiceSplice c s = .next (workEnd s c.val w 0 (spliceAnswer s (w.p 6) (w.p 7))) := by
  have hr : ¬(32 ≤ w.p 6 ∨ 32 ≤ w.p 7) := by omega
  simp only [execServiceSplice, serviceDo_inService _ h, if_neg hr, if_pos hd]

theorem execServiceSplice_starts (hd : spliceAnswer s (w.p 6) (w.p 7) = 0) :
    execServiceSplice c s = .next (workWait (spliceStart s (w.p 6) (w.p 7) (some c.val)) c.val w none 0) := by
  have hr : ¬(32 ≤ w.p 6 ∨ 32 ≤ w.p 7) := by omega
  simp only [execServiceSplice, serviceDo_inService _ h, if_neg hr, hd, ne_eq, not_true_eq_false, if_false]

end

/-! ## March, row repair and row maps -/

/-- R278: the word that SERVICE_MARCH writes to MARCHCTL for bank `u`, its content kept when `keep`. -/
def marchWord (s : State) (u : Nat) (keep : Bool) : Nat :=
  packNat [(0, 5, u), (5, 1, keep.toNat), (6, 1, ioF s aMARCHCTL 6 1), (7, 1, 1)]

theorem execServiceMarch_marches (h : InService s c w 4) (hu : w.p 6 < 32) : execServiceMarch c s =
    .next (if marchRefused s (w.p 6) (!bitAt (w.p 7) 0) then
        workEnd (marchctlDo s (marchWord s (w.p 6) (bitAt (w.p 7) 0))) c.val w 0
          (pay (ioGet (marchctlDo s (marchWord s (w.p 6) (bitAt (w.p 7) 0))) aMARCHSTAT))
      else workWait (marchctlDo s (marchWord s (w.p 6) (bitAt (w.p 7) 0))) c.val w none (w.p 6)) := by
  simp only [execServiceMarch, serviceDo_inService _ h, if_neg (Nat.not_le.2 hu), Bool.not_not, marchWord]

theorem execRowrepair_repairs (h : InService s c w 5) (hn : s.repairing = none) : execRowrepair c s =
    .next (if (rpctlDo s (w.p 6 % 2 ^ 12 + 2 ^ 12)).repairing.isSome then
        workWait (rpctlDo s (w.p 6 % 2 ^ 12 + 2 ^ 12)) c.val w none 0
      else workEnd (rpctlDo s (w.p 6 % 2 ^ 12 + 2 ^ 12)) c.val w 0 1) := by
  have hb : ¬s.repairing.isSome = true := by simp [hn]
  simp only [execRowrepair, serviceDo_inService _ h, if_neg hb]

theorem execRowmapSave_saves (h : InService s c w 6) (hl : 1024 ≤ w.len) (hb : w.bufOk s 1024 = true)
    (hf : bufFault s w.win true = none) : execRowmapSave c s =
    .next (workEnd (bufWrite s w.win w.idx (rowmapAll s)) c.val w 0 (rowmapAll s).length) := by
  simp only [execRowmapSave, serviceDo_inService _ h, decide_eq_true hl, hb, hf]
  rfl

/-- The entries that ROWMAP_RESTORE takes: NAT words that name a bank which is ready or off (R509). -/
def rowmapTaken (s : State) (words : List Word) : List Word :=
  words.filter fun x => wtag x = .nat && decide (bankState s (bits (pay x) 0 5) < 2)

theorem execRowmapRestore_restores (h : InService s c w 7) {words : List Word} (hw : words.length = w.len)
    (hb : w.bufOk s w.len = true) (hf : bufFault s w.win false = none) : execRowmapRestore c words s =
    .next (workEnd ((rowmapBanks (rowmapTaken (bufRead s w.win w.idx w.len) words)).foldl rowmapCycle
        ((rowmapTaken (bufRead s w.win w.idx w.len) words).foldl rowmapApply (bufRead s w.win w.idx w.len)))
      c.val w 0 (rowmapTaken (bufRead s w.win w.idx w.len) words).length) := by
  simp only [execRowmapRestore, serviceDo_inService _ h, hw, hb, hf, ne_eq, not_true_eq_false, if_false, Bool.not_true]
  rfl

/-! ## CHSWITCH -/

section
variable (h : InService s c w 8) (hu : w.p 6 < 8) (hv : w.p 7 < 2)
include h hu hv

theorem execChswitch_unpaired (hp : dvPaired s = false) : execChswitch c s = .next (workEnd s c.val w 0x11 0) := by
  have hr : ¬(8 ≤ w.p 6 ∨ 2 ≤ w.p 7) := by omega
  simp only [execChswitch, serviceDo_inService _ h, if_neg hr, hp]
  rfl

/-- R331: SEL of HWCHh goes to the field die as a CMD-CFG. -/
theorem execChswitch_sends (hp : dvPaired s = true) (hq : sendFull s c.val = false) : execChswitch c s =
    .next (coreSend (workWait s c.val w none (fHWCH (w.p 6))) c.val ⟨0x11, natW (fHWCH (w.p 6)),
      natW (setBits (pay (ioGet s (aSHADOW (fHWCH (w.p 6))))) 0 1 (w.p 7) &&& 7)⟩) := by
  have hr : ¬(8 ≤ w.p 6 ∨ 2 ≤ w.p 7) := by omega
  simp only [execChswitch, serviceDo_inService _ h, if_neg hr, hp, hq]
  rfl

end

/-! ## LEDGER_RESUME and LEDGER_FRESH -/

section
variable (h : InService s c w 9) {slot : List Word} (hl : slot.length = 32) (hw : 32 ≤ w.len) (hb : w.bufOk s 32 = true)
  (macSt : BitVec 3)
include h hl hw hb

theorem execLedgerResume_anchored (ha : anch s ≠ 0) :
    execLedgerResume c slot macSt s = .next (workEnd s c.val w 0x0F 0) := by
  have hlen : ¬slot.length ≠ 32 := not_not_intro hl
  simp only [execLedgerResume, serviceDo_inService _ h, if_neg hlen, decide_eq_true hw, hb, if_pos ha]
  rfl

/-- R453: the resume of a ledger that is not anchored, which is refused with a reason or waits for its anchoring. -/
theorem execLedgerResume_resumes (ha : anch s = 0) (hf : bufFault s w.win false = none) :
    let t := cipherCount (bufRead s w.win w.idx 32) 32 (cipherSt s macSt.toNat)
    execLedgerResume c slot macSt s = .next (
      if resumeReason t slot macSt.toNat ≠ 0 then
        workEnd (anchorRefuse t (resumeReason t slot macSt.toNat)) c.val w 0 (resumeReason t slot macSt.toNat)
      else workWait { t with ledger := { t.ledger with anchorFrom := some (slotSeq slot, slotHead slot, 2) } } c.val w none
        0) := by
  have hlen : ¬slot.length ≠ 32 := not_not_intro hl
  have hanch : ¬anch s ≠ 0 := not_not_intro ha
  simp only [execLedgerResume, serviceDo_inService _ h, if_neg hlen, decide_eq_true hw, hb, if_neg hanch, hf, modLedger]
  rfl

end

section
variable (h : InService s c w 10)
include h

theorem execLedgerFresh_anchored (ha : anch s ≠ 0) : execLedgerFresh c s = .next (workEnd s c.val w 0x0F 0) := by
  simp only [execLedgerFresh, serviceDo_inService _ h, if_pos ha]

theorem execLedgerFresh_waits (ha : anch s = 0) : execLedgerFresh c s =
    .next (workWait { s with ledger := { s.ledger with anchorFrom := some (0, 0, 3) } } c.val w none 0) := by
  simp only [execLedgerFresh, serviceDo_inService _ h, ha, ne_eq, not_true_eq_false, if_false]
  rfl

end

/-! ## CLUSTER_RESET -/

section
variable (h : InService s c w 11)
include h

theorem execClusterReset_range (hu : 8 ≤ w.p 6) : execClusterReset c s = .next (workEnd s c.val w 1 0) := by
  simp only [execClusterReset, serviceDo_inService _ h, if_pos hu]

theorem execClusterReset_carrier (hu : w.p 6 < 8) (hc : w.p 6 = s.carrier / 4) :
    execClusterReset c s = .next (workEnd s c.val w 0x0F 0) := by
  simp only [execClusterReset, serviceDo_inService _ h, if_neg (Nat.not_le.2 hu), if_pos hc]

theorem execClusterReset_resets (hu : w.p 6 < 8) (hc : w.p 6 ≠ s.carrier / 4) (hn : w.p 6 ≠ c.val / 4)
    (hon : clusterOnNow s (w.p 6) = true) (hr : w.p 6 ∉ s.islReset) :
    execClusterReset c s = .next (workEnd (clusterResetDo s (w.p 6)) c.val w 0 0) := by
  simp [execClusterReset, serviceDo_inService _ h, Nat.not_le.2 hu, hc, Ne.symm hn, hon, hr]

end

end

/-- Settles O47: the refusals that the actions share, and then each action by its checks. -/
theorem serviceActions : Obligations.ServiceActions := by
  intro s c w pass st words n u
  have refused : InWork s c w 0xA → w.p 5 = 1 →
      (w.admin s = false → exec (.serviceKerf c) s = .next (workEnd s n w 6 0)) ∧
      (w.admin s = true → modeBit s 7 = true → exec (.serviceKerf c) s = .next (workEnd s n w 0x0F 0)) := fun h ha =>
    ⟨fun hw => congrArg _ (serviceDo_notAdmin _ h ha hw), fun hw hm => congrArg _ (serviceDo_alarm _ h ha hw hm)⟩
  exact ⟨refused, execServiceKerf_kerfs, fun h hu hc => execServiceRelease_releases h hu hc pass,
    fun h hu hv => ⟨execServiceSplice_refused h hu hv, execServiceSplice_starts h hu hv⟩,
    execServiceMarch_marches, execRowrepair_repairs, execRowmapSave_saves,
    fun h hw hb hf => execRowmapRestore_restores h hw hb hf,
    fun h hu hv => ⟨execChswitch_unpaired h hu hv, execChswitch_sends h hu hv⟩,
    fun h hl hw hb => ⟨execLedgerResume_anchored h hl hw hb st, execLedgerResume_resumes h hl hw hb st⟩,
    fun h => ⟨execLedgerFresh_anchored h, execLedgerFresh_waits h⟩,
    fun h => ⟨execClusterReset_range h, execClusterReset_carrier h, execClusterReset_resets h⟩⟩

end Sys2Proof.Machine
end

section
/-! STORE_PERFORMED (O10): the entry leaves the buffer, its words go to memory, and the markers that nothing stands before
any more are dropped. -/

namespace Sys2Proof.Machine

/-! ## The trim of a store buffer -/

/-- A trim changes nothing but cores. -/
theorem storeTrim_eq (s : State) (c : Nat) : storeTrim s c = { s with cores := (storeTrim s c).cores } := by
  unfold storeTrim
  split
  · rfl
  · split <;> rfl

/-- Another core is as before. -/
theorem coreOf_storeTrim_ne (s : State) {b c : Nat} (h : b ≠ c) : coreOf (storeTrim s c) b = coreOf s b := by
  unfold storeTrim
  split
  · rfl
  · split
    · exact coreOf_setCore_ne s h _
    · rfl

/-- A trim drops the markers at the head of the buffer: no store is left that they hold back (R158). -/
theorem coreOf_storeTrim {s : State} (h : tabWf (fun _ => Core.reset) none s.cores = true) (c : Nat) :
    coreOf (storeTrim s c) c =
      { coreOf s c with storeBuf := (coreOf s c).storeBuf.dropWhile (·.marker) } := by
  unfold storeTrim
  split
  next hb => rw [hb, List.dropWhile_nil, ← hb]
  next e t hb =>
    split
    next hm => rw [modCore, coreOf_setCore h, if_pos rfl, hb, List.dropWhile_cons_of_pos hm]
    next hm => rw [hb, List.dropWhile_cons_of_neg hm, ← hb]

/-- The stores that stand in a buffer are those that stand behind the markers at its head. -/
theorem filter_dropWhile_marker (l : List StoreEnt) :
    (l.dropWhile (·.marker)).filter (fun f => !f.marker) = l.filter fun f => !f.marker := by
  induction l with
  | nil => rfl
  | cons e l ih =>
    cases he : e.marker with
    | false => rw [List.dropWhile_cons_of_neg (by simp [he])]
    | true => rw [List.dropWhile_cons_of_pos he, ih, List.filter_cons_of_neg (by simp [he])]

/-! ## The performed store -/

/-- Several stores leave the cores as they are. -/
theorem coreOf_memPutAll (s : State) (ws : List (Nat × Word)) (c : Nat) : coreOf (memPutAll s ws) c = coreOf s c := by
  rw [memPutAll_eq]
  rfl

/-- The state in which entry `i` has left the buffer of core `c` and its words are in memory. -/
def storeDone (s : State) (c i : Nat) (ws : List (Nat × Word)) : State :=
  memPutAll (modCore s c fun k => { k with storeBuf := (coreOf s c).storeBuf.eraseIdx i }) ws

theorem execStorePerformed_may {s : State} {c : CoreId} {i : Nat} {e : StoreEnt}
    (he : (coreOf s c.val).storeBuf[i]? = some e) (hm : storeMay (coreOf s c.val).storeBuf i = true) :
    execStorePerformed c i s = .next (storeTrim (storeDone s c.val i e.words) c.val) := by
  simp only [execStorePerformed, he, hm, if_true, storeDone]

section
variable (s : State) (c i : Nat) (ws : List (Nat × Word))

/-- The words of a store change nothing but cores and the memory of the banks with its errors. -/
theorem storeDone_eq : storeDone s c i ws = { s with
    cores := (storeDone s c i ws).cores
    mem := (storeDone s c i ws).mem
    eccBad := (storeDone s c i ws).eccBad
    eccSoft := (storeDone s c i ws).eccSoft } := by
  unfold storeDone
  rw [memPutAll_eq]
  rfl

theorem coreOf_storeDone_ne {b : Nat} (h : b ≠ c) : coreOf (storeDone s c i ws) b = coreOf s b :=
  (coreOf_memPutAll _ _ _).trans (coreOf_setCore_ne s h _)

variable {s} (hI : Inv s)
include hI

theorem coreOf_storeDone : coreOf (storeDone s c i ws) c =
    { coreOf s c with storeBuf := (coreOf s c).storeBuf.eraseIdx i } := by
  rw [storeDone, coreOf_memPutAll, modCore, coreOf_setCore (inv_cores hI), if_pos rfl]

/-- The cores are in canonical form. -/
theorem storeDone_cores_wf : tabWf (fun _ => Core.reset) none (storeDone s c i ws).cores = true := by
  rw [storeDone, memPutAll_eq]
  exact tabWf_tabSet c _ (inv_cores hI)

end

/-- Settles O10: memory by the words of the entry, the buffer by the trim, and the rest by what neither changes. -/
theorem storePerformedWrites : Obligations.StorePerformedWrites := by
  intro s c i e hI he hm
  have hcore := (coreOf_storeTrim (storeDone_cores_wf c.val i e.words hI) c.val).trans
    (congrArg (fun k : Core => { k with storeBuf := k.storeBuf.dropWhile (·.marker) }) (coreOf_storeDone c.val i e.words hI))
  refine ⟨_, execStorePerformed_may he hm, fun a => ?_, ?_⟩
  · rw [storeTrim_eq]
    exact memGet_memPutAll (s := modCore s c.val _) (inv_mem hI :) e.words a
  · rw [hcore]
    refine ⟨rfl, rfl, rfl, filter_dropWhile_marker _, fun b hb =>
      (coreOf_storeTrim_ne _ hb).trans (coreOf_storeDone_ne s _ i e.words hb), ?_⟩
    rw [storeTrim_eq, storeDone_eq]
    exact ⟨rfl, rfl, rfl, rfl⟩

end Sys2Proof.Machine
end

section
/-! What a trap saves and where it goes (O36). A trap whose frame can be written leaves one state, `trapEntered`: its words are
those of the row that the frame is, its core is that of `coreEnter` with the lower tsp, and the rest is as before but for the
registers that count traps. -/

namespace Sys2Proof.Machine

/-! ## Writing back what is there -/

/-- A canonical table in which a key is given what it holds. -/
theorem tabSet_tabGet {α : Type} [DecidableEq α] {d : α} {lo : Option Nat} {t : Tab α} (k : Nat)
    (h : tabWf (fun _ => d) lo t = true) : tabSet d t k (tabGet d t k) = t := by
  induction t generalizing lo with
  | nil => exact if_pos rfl
  | cons p t ih =>
    obtain ⟨j, v⟩ := p
    simp only [tabWf, Bool.and_eq_true, decide_eq_true_eq] at h
    obtain ⟨⟨-, hv⟩, ht⟩ := h
    by_cases hj : j = k
    · subst hj
      rw [tabGet, if_pos rfl, tabSet, if_neg hv, tabIns, if_neg (Nat.lt_irrefl j), if_pos rfl]
    · rw [tabGet, if_neg hj]
      by_cases hk : k < j
      · rw [tabGet_of_lo d ht (Nat.le_of_lt hk), tabSet, if_pos rfl, tabDel, if_neg hj, tabDel_of_lo ht (Nat.le_of_lt hk)]
      · have htail := ih ht
        unfold tabSet at htail ⊢
        split at htail
        next hd => rw [if_pos hd, tabDel, if_neg hj, htail]
        next hd => rw [if_neg hd, tabIns, if_neg hk, if_neg hj, htail]

/-- A core that is put back as it is changes nothing. -/
theorem modCore_fixed {s : State} (hI : Inv s) {c : Nat} {f : Core → Core} (hf : f (coreOf s c) = coreOf s c) :
    modCore s c f = s := by
  have hcores : tabSet Core.reset s.cores c (tabGet Core.reset s.cores c) = s.cores := tabSet_tabGet c (inv_cores hI)
  rw [modCore, hf, setCore, coreOf, hcores]

theorem modeApply_none {k : Core} (h : k.modeNew = none) : modeApply k = k := by
  rw [modeApply, h]

/-! ## Rows of words -/

/-- A row changes nothing but the memory of the banks and its errors. -/
theorem memRow_eq (s : State) (a : Nat) (ws : List Word) : memRow s a ws = { s with
    mem := (memRow s a ws).mem
    eccBad := (memRow s a ws).eccBad
    eccSoft := (memRow s a ws).eccSoft } := memPutAll_eq _ _

/-- A word of a row. -/
theorem memGet_memRow {s : State} (h : Memory.wf s.mem = true) (a : Nat) {ws : List Word} {i : Nat} (hi : i < ws.length) :
    memGet (memRow s a ws) (a + i) = ws.getD i emptyW := by
  rw [memRow, memGet_memPutAll h]
  split
  next p hp =>
    obtain ⟨j, -, rfl⟩ := List.mem_map.1 (List.mem_reverse.1 (List.mem_of_find?_eq_some hp))
    have hj : a + j = a + i := by simpa using List.find?_some hp
    rw [Nat.add_left_cancel hj]
  next hp =>
    have hmem : (a + i, ws.getD i emptyW) ∈ ((List.range ws.length).map fun i => (a + i, ws.getD i emptyW)).reverse :=
      List.mem_reverse.2 (List.mem_map.2 ⟨i, List.mem_range.2 hi, rfl⟩)
    exact absurd (beq_self_eq_true (a + i)) (List.find?_eq_none.1 hp _ hmem)

/-- A word outside a row reads as before. -/
theorem memGet_memRow_outside {s : State} (h : Memory.wf s.mem = true) {a b : Nat} {ws : List Word}
    (hb : b < a ∨ a + ws.length ≤ b) : memGet (memRow s a ws) b = memGet s b := by
  rw [memRow, memGet_memPutAll h]
  split
  next p hp =>
    obtain ⟨j, hj, rfl⟩ := List.mem_map.1 (List.mem_reverse.1 (List.mem_of_find?_eq_some hp))
    have hjb : a + j = b := by simpa using List.find?_some hp
    have hlt := List.mem_range.1 hj
    omega
  next => rfl

/-! ## The parts of a trap entry -/

/-- Without a buffered store a frame waits for none. -/
theorem drainOver_nil {s : State} {c : Nat} (h : (coreOf s c).storeBuf = []) (lo n : Nat) : drainOver s c lo n = s := by
  have htrim : storeTrim s c = s := by rw [storeTrim, h]
  rw [drainOver, h]
  exact htrim

/-- A trap at which no register is read records no shadow. -/
theorem shadowRec_nil (k : Core) : shadowRec k [] = none := by simp [shadowRec]

/-- The word of a frame that records no shadow is no KEYREF and no SEAL (R54). -/
theorem isSecret_shdw0Of_none (s : State) : isSecret (shdw0Of s none) = false := by
  rw [shdw0Of]
  split
  next => decide
  next h => exact eq_false_of_ne_true h

/-- Who stands in a vector is said by the registers, the memory and the core: no draw of a free value changes it. -/
theorem trapTarget_bump (s : State) (c cause : Nat) : trapTarget (bump s) c cause = trapTarget s c cause := (rfl)

/-- R240: a frame that lies in one bank, which its ring may write, and holds no secret can be written. -/
theorem frameBad_zero {s : State} {c ring n : Nat} (ht : wtag (tspOf (coreOf s c) ring) = .addrD)
    (hlo : n ≤ pay (tspOf (coreOf s c) ring)) (hhi : pay (tspOf (coreOf s c) ring) ≤ 0x200000)
    (hone : bankOf (pay (tspOf (coreOf s c) ring) - n) = bankOf (pay (tspOf (coreOf s c) ring) - 1))
    (hmay : bankMay s c ring true (bankOf (pay (tspOf (coreOf s c) ring) - n)) = true) :
    frameBad s c ring n false = 0 := by
  have hbank : isBank (pay (tspOf (coreOf s c) ring) - 1) = true := decide_eq_true (by omega)
  have hfits : ¬(pay (tspOf (coreOf s c) ring) < n ∨ ¬isBank (pay (tspOf (coreOf s c) ring) - 1) ∨
      bankOf (pay (tspOf (coreOf s c) ring) - n) ≠ bankOf (pay (tspOf (coreOf s c) ring) - 1)) := by
    rintro (h | h | h)
    · omega
    · exact h hbank
    · exact h hone
  dsimp only [frameBad]
  rw [if_neg (not_not_intro ht), if_neg hfits, hmay]
  rfl

section
variable (s : State) (c cause t : Nat) (stub : Bool)

theorem trapCount_mem : (trapCount s c cause t stub).mem = s.mem := by simp only [trapCount, ioInc, ioSetF_mem, ioSetB_mem]

theorem trapCount_cores : (trapCount s c cause t stub).cores = s.cores := by
  simp only [trapCount, ioInc, ioSetF_cores, ioSetB_cores]

theorem trapCount_fld : (trapCount s c cause t stub).fld = s.fld := by simp only [trapCount, ioInc, ioSetF_fld, ioSetB_fld]

theorem trapCount_cs : (trapCount s c cause t stub).cs = s.cs := by simp only [trapCount, ioInc, ioSetF_cs, ioSetB_cs]

end

/-- One field of a packed word. -/
theorem foldl_setBits_cons (n lo w v : Nat) (l : List (Nat × Nat × Nat)) :
    ((lo, w, v) :: l).foldl (fun n f => setBits n f.1 f.2.1 f.2.2) n =
      l.foldl (fun n f => setBits n f.1 f.2.1 f.2.2) (setBits n lo w v) := List.foldl_cons ..

section
variable (oldring cause orig dreason : Nat) (ds rsv stub : Bool)

/-- The fields of TSTAT (R238). -/
theorem tstatOf_eq : tstatOf oldring cause orig dreason ds rsv stub =
    setBits (setBits (setBits (setBits (setBits (setBits (setBits (setBits 0 0 2 oldring) 2 1 ds.toNat) 3 1 rsv.toNat)
      4 1 stub.toNat) 8 8 cause) 16 8 orig) 24 4 dreason) 32 4 9 := by
  rw [tstatOf, packNat]
  iterate 8 rw [foldl_setBits_cons]
  rw [List.foldl_nil]

/-- TSTAT has 36 bits. -/
theorem tstatOf_lt : tstatOf oldring cause orig dreason ds rsv stub < 2 ^ 36 := by
  rw [tstatOf_eq]
  iterate 8 refine setBits_lt ?_ (by decide)
  exact Nat.two_pow_pos 36

theorem pay_natW_tstatOf :
    pay (natW (tstatOf oldring cause orig dreason ds rsv stub)) = tstatOf oldring cause orig dreason ds rsv stub :=
  (pay_mkW _ _).trans (Nat.mod_eq_of_lt (tstatOf_lt ..))

/-- TSTAT.OLDRING. -/
theorem tstatOf_oldring : tstatOf oldring cause orig dreason ds rsv stub % 4 = oldring % 4 := by
  have h : bits (tstatOf oldring cause orig dreason ds rsv stub) 0 2 = oldring % 2 ^ 2 := by
    rw [tstatOf_eq]
    iterate 7 rw [bits_setBits_below _ _ _ _ _ _ (by decide)]
    exact bits_setBits ..
  rwa [bits_zero] at h

/-- TSTAT.CAUSE. -/
theorem tstatOf_cause : bits (tstatOf oldring cause orig dreason ds rsv stub) 8 8 = cause % 256 := by
  rw [tstatOf_eq]
  iterate 3 rw [bits_setBits_below _ _ _ _ _ _ (by decide)]
  exact bits_setBits ..

/-- TSTAT's mark of a frame. -/
theorem tstatOf_mark : bits (tstatOf oldring cause orig dreason ds rsv stub) 32 4 = 9 := by
  rw [tstatOf_eq]
  exact bits_setBits ..

end

section
variable {k : Core} (h : k.shadow = []) (t : Nat) (v : Link) (lvl : Option Nat) (r : Option Shadow) (sw : Word)
include h

theorem shadowFlush_nil : shadowFlush k = k := by
  rw [shadowFlush, h, List.foldl_nil, ← h]

/-- Without a load in its shadow, a core enters a trap with the registers that it has. -/
theorem coreEnter_regs : (coreEnter t v lvl r sw k).regs = k.regs := by
  rw [coreEnter, shadowFlush_nil h]

theorem coreEnter_tsp : (coreEnter t v lvl r sw k).tsp = k.tsp := by
  rw [coreEnter, shadowFlush_nil h]

end

/-! ## The state behind a trap entry -/

/-- Where the frame of a trap into `ring` begins (R234). -/
def trapBase (s : State) (c ring : Nat) : Nat := pay (tspOf (coreOf s c) ring) - 16

/-- The frame of a trap of core `c` that records no shadow (R237). -/
def trapRow (s : State) (c : Nat) (t : Trp) (rpc npc : Link) (ds : Bool) : List Word :=
  frameWords (coreOf s c) t rpc npc (tstatOf (coreOf s c).ring t.cause t.cause 0 ds false false) none (shdw0Of s none)

/-- The core of a trap entry in `ring` at `v`. -/
def trapCore (s : State) (c ring : Nat) (v : Link) (lvl : Option Nat) (k : Core) : Core :=
  tspPut (coreEnter ring v lvl none (shdw0Of s none) k) ring (addrW (trapBase s c ring))

/-- The state behind a trap of core `c` that goes to the vector `v` in `ring` and whose frame can be written. -/
def trapEntered (s : State) (c : Nat) (t : Trp) (rpc npc : Link) (ds : Bool) (lvl : Option Nat) (v : Link) (ring : Nat) : State :=
  modCore (trapCount (memRow (bump s) (trapBase s c ring) (trapRow s c t rpc npc ds)) c t.cause ring false) c
    (trapCore s c ring v lvl)

/-- A trap with a vector, whose frame can be written and finds no buffered store, outside the reserve. -/
theorem takeTrap_entered {s : State} (hI : Inv s) {c : Nat} {t : Trp} {v : Link} {ring : Nat}
    (hmode : (coreOf s c).modeNew = none) (hbuf : (coreOf s c).storeBuf = [])
    (htgt : trapTarget s c t.cause = some (v, ring)) (hrsv : rsvUse s c = 0) (hbad : frameBad s c ring 16 false = 0)
    (rpc npc : Link) (ds : Bool) (lvl : Option Nat) :
    takeTrap s c t rpc npc ds [] lvl = trapEntered s c t rpc npc ds lvl v ring := by
  have hd : (if 0 < rsvUse (bump s) c then 6 else frameBad (bump s) c ring 16 false) = 0 :=
    (if_neg (Nat.not_lt.2 (Nat.le_of_eq hrsv) :)).trans hbad
  have hdrain : drainOver (bump s) c (trapBase s c ring) 16 = bump s := drainOver_nil (s := bump s) hbuf _ _
  unfold takeTrap trapFrame
  simp only [modCore_fixed hI (modeApply_none hmode), shadowRec_nil, trapTarget_bump, htgt, isSecret_shdw0Of_none, hd]
  rw [if_neg (not_not_intro rfl)]
  exact congrArg (fun u => modCore (trapCount (memRow u _ (trapRow s c t rpc npc ds)) c t.cause ring false) c
    (trapCore s c ring v lvl)) hdrain

section
variable {s : State} (hI : Inv s) (c : Nat) (t : Trp) (rpc npc : Link) (ds : Bool) (lvl : Option Nat) (v : Link) (ring : Nat)

theorem trapEntered_fld (s : State) : (trapEntered s c t rpc npc ds lvl v ring).fld = s.fld := by
  rw [trapEntered, modCore, setCore_fld, trapCount_fld, memRow_eq]
  rfl

theorem trapEntered_cs (s : State) : (trapEntered s c t rpc npc ds lvl v ring).cs = s.cs := by
  rw [trapEntered, modCore, setCore_cs, trapCount_cs, memRow_eq]
  rfl

/-- The words that a trap entry leaves are those of the row. -/
theorem memGet_trapEntered (s : State) (a : Nat) : memGet (trapEntered s c t rpc npc ds lvl v ring) a =
    memGet (memRow (bump s) (trapBase s c ring) (trapRow s c t rpc npc ds)) a := by
  rw [trapEntered, modCore, memGet_setCore, memGet, trapCount_mem, memGet]

/-- Before the core goes to its vector, every core is as it was. -/
theorem cores_trapCount_memRow (s : State) (a : Nat) (ws : List Word) (stub : Bool) :
    (trapCount (memRow (bump s) a ws) c t.cause ring stub).cores = s.cores :=
  (trapCount_cores ..).trans (by rw [memRow_eq]; rfl)

/-- A trap entry leaves another core as it is. -/
theorem coreOf_trapEntered_ne (s : State) {d : Nat} (h : d ≠ c) :
    coreOf (trapEntered s c t rpc npc ds lvl v ring) d = coreOf s d :=
  (coreOf_setCore_ne _ h _).trans (congrArg (tabGet Core.reset · d) (cores_trapCount_memRow ..))

include hI

/-- The core at the vector. -/
theorem coreOf_trapEntered :
    coreOf (trapEntered s c t rpc npc ds lvl v ring) c = trapCore s c ring v lvl (coreOf s c) := by
  have hcores := cores_trapCount_memRow c t ring s (trapBase s c ring) (trapRow s c t rpc npc ds) false
  rw [trapEntered, modCore, coreOf_setCore (by rw [hcores]; exact inv_cores hI), if_pos rfl]
  exact congrArg (fun l => trapCore s c ring v lvl (tabGet Core.reset l c)) hcores

/-- Word `i` of the frame. -/
theorem memGet_trapEntered_frame {i : Nat} (hi : i < 16) :
    memGet (trapEntered s c t rpc npc ds lvl v ring) (trapBase s c ring + i) = (trapRow s c t rpc npc ds).getD i emptyW :=
  (memGet_trapEntered c t rpc npc ds lvl v ring s _).trans (memGet_memRow (s := bump s) (inv_mem hI) _ hi)

/-- A word outside the frame. -/
theorem memGet_trapEntered_outside {b : Nat} (hb : b < trapBase s c ring ∨ trapBase s c ring + 16 ≤ b) :
    memGet (trapEntered s c t rpc npc ds lvl v ring) b = memGet s b :=
  (memGet_trapEntered c t rpc npc ds lvl v ring s _).trans (memGet_memRow_outside (s := bump s) (inv_mem hI) hb)

end

/-- Settles O36: the state of a trap entry, read word by word of the frame and field by field of the core. -/
theorem trapEntrySaves : Obligations.TrapEntrySaves := by
  intro s c t rpc npc v ring k a hI htsp hmode hshadow _ hbuf htgt hrsv htag hlo hhi hone hmay u
  have hlast : pay (tspOf k ring) - 16 + 15 = pay (tspOf k ring) - 1 := by omega
  have hbad : frameBad s c.val ring 16 false = 0 :=
    frameBad_zero htag hlo hhi (hone.trans (congrArg bankOf hlast)) hmay
  have hu : u = trapEntered s c.val t rpc npc false none v ring :=
    takeTrap_entered hI hmode hbuf htgt hrsv hbad rpc npc false none
  have hword : ∀ i < 16, memGet u (a + i) = (trapRow s c.val t rpc npc false).getD i emptyW := fun i hi =>
    hu ▸ memGet_trapEntered_frame hI c.val t rpc npc false none v ring hi
  have hstat : memGet u (a + 14) = natW (tstatOf k.ring t.cause t.cause 0 false false false) := hword 14 (by decide)
  have hcore : coreOf u c.val = trapCore s c.val ring v none k :=
    hu ▸ coreOf_trapEntered hI c.val t rpc npc false none v ring
  refine ⟨?_, ?_, ?_, ?_, ?_, ?_, fun b hb => hu ▸ memGet_trapEntered_outside hI c.val t rpc npc false none v ring hb, ?_⟩
  · have hfirst : memGet u a = linkW rpc := hword 0 (by decide)
    rw [hfirst, hword 1 (by decide), hword 2 (by decide), hword 3 (by decide),
      hword 4 (by decide), hword 5 (by decide), hword 6 (by decide), hword 7 (by decide)]
    rfl
  · rw [hword 9 (by decide), hword 10 (by decide), hword 11 (by decide), hword 12 (by decide), hword 13 (by decide)]
    rfl
  · rw [hstat]
    exact wtag_mkW _ _
  · rw [hstat, pay_natW_tstatOf]
    exact tstatOf_oldring ..
  · rw [hstat, pay_natW_tstatOf]
    exact tstatOf_cause ..
  · rw [hstat, pay_natW_tstatOf]
    exact tstatOf_mark ..
  · rw [hcore]
    refine ⟨rfl, rfl, ?_, rfl, rfl, rfl, coreEnter_regs hshadow ring v none none (shdw0Of s none), ?_, ?_, ?_⟩
    · rw [trapCore, tspOf_tspPut (by rw [coreEnter_tsp hshadow]; exact htsp), if_pos rfl]
      rfl
    · exact fun d hd => hu ▸ coreOf_trapEntered_ne c.val t rpc npc false none v ring s hd
    · exact hu ▸ trapEntered_fld c.val t rpc npc false none v ring s
    · exact hu ▸ trapEntered_cs c.val t rpc npc false none v ring s

end Sys2Proof.Machine
end

section
/-! The parts of a core's access to a host window: the access-control unit's answer, the data, and HWTO (R284 to R286, R443
to R445). -/

namespace Sys2Proof.Machine

theorem exec_accessControlAnswer_core (c : CoreId) (ans : BitVec 8) (s : State) :
    exec (.accessControlAnswer (.core c) ans) s = .next (coreAnswer s c.val ans.toNat) := (rfl)

theorem exec_hostPartCompletion (c : CoreId) (data : List (BitVec 64)) (late : Bool) (s : State) :
    exec (.hostPartCompletion c data late) s = execHostPartCompletion c data late s := (rfl)

theorem exec_hwto (c : CoreId) (s : State) : exec (.hwto c) s = execHwto c s := (rfl)

section
variable {s : State} {c : Nat} {h : HostAcc} {p : HostPart}

/-- A core that runs and waits for the host has asked for the part that its access names. -/
theorem hostAsked_of_part (hr : coreRuns s c = true) (hw : (coreOf s c).wait = .host) (hh : (coreOf s c).hostAcc = some h)
    (hp : h.part = some p) : hostAsked s c = some (h, p) := by
  simp only [hostAsked, hr, hw, and_self, if_true, hh, hp]

variable (ha : hostAsked s c = some (h, p))
include ha

/-- R444: a permitted read part is asked of the host. -/
theorem coreAnswer_read (hg : h.granted = false) (hw : h.write = false) :
    coreAnswer s c 0 = emit (setCore s c { coreOf s c with hostAcc := some { h with granted := true } })
      (.hostRead p.haddr p.len) := by
  simp only [coreAnswer, ha, hg, hw, ne_eq, not_true_eq_false, Bool.false_eq_true, if_false]
  rfl

/-- R444: a permitted store part leaves, and the access goes on. -/
theorem coreAnswer_write (hg : h.granted = false) (hw : h.write = true) :
    coreAnswer s c 0 = hostGoOn (hostStorePart s h p) c (hostAdvance s h p) := by
  simp only [coreAnswer, ha, hg, hw, ne_eq, not_true_eq_false, Bool.false_eq_true, if_false, if_true]

/-- R444, R445: a refused part raises HWDENY, and ACOVL where the unit overflowed. -/
theorem coreAnswer_denied {ans : Nat} (hg : h.granted = false) (hn : ans ≠ 0) :
    coreAnswer s c ans =
      hostFault (acDenied s 0 c ans) c (hostTrp h (if ans = 0xFE then 0x19 else 0x04) p.first ans) := by
  simp only [coreAnswer, ha, hg, ne_eq, hn, not_false_eq_true, Bool.false_eq_true, if_false, if_true]

end

section
variable {s : State} {c : CoreId} {h : HostAcc} {p : HostPart} {data : List (BitVec 64)}

/-- R285: the access goes on with the data of a permitted part. -/
theorem execHostPartCompletion_ok {h' : HostAcc} (ha : hostAsked s c.val = some (h, p)) (hg : h.granted = true)
    (hd : hostDataOk s p data = true) (hl : hostLoadPart s (coreOf s c.val) h p data = .ok h') :
    execHostPartCompletion c data false s = .next (hostGoOn s c.val h') := by
  simp only [execHostPartCompletion, ha, hg, hd, hl, Bool.not_true, Bool.or_false, Bool.false_eq_true, if_false]

/-- R285: a word that the data completes is refused. -/
theorem execHostPartCompletion_error {t : Trp} (ha : hostAsked s c.val = some (h, p)) (hg : h.granted = true)
    (hd : hostDataOk s p data = true) (hl : hostLoadPart s (coreOf s c.val) h p data = .error t) :
    execHostPartCompletion c data false s = .next (hostFault s c.val t) := by
  simp only [execHostPartCompletion, ha, hg, hd, hl, Bool.not_true, Bool.or_false, Bool.false_eq_true, if_false]

/-- R286: late data changes nothing. -/
theorem execHostPartCompletion_late (ha : hostAsked s c.val = some (h, p)) :
    execHostPartCompletion c data true s = .next s := by
  simp only [execHostPartCompletion, ha, Bool.true_or, if_true]

end

/-- Settles O37: the core has asked for its part, and what it gets is the answer, the data or HWTO. -/
theorem hostPartsAnswered : Obligations.HostPartsAnswered := by
  unfold Obligations.HostPartsAnswered
  intro s c h p hr hw hh hp
  have ha := hostAsked_of_part hr hw hh hp
  refine ⟨fun hg hwr => ?_, fun hg hwr => ?_, fun ans hg hn => ?_, fun data h' hg hd hl => ?_, fun data t hg hd hl => ?_,
    fun data => ?_, ?_⟩
  · exact congrArg Host.Outcome.next (coreAnswer_read ha hg hwr)
  · exact congrArg Host.Outcome.next (coreAnswer_write ha hg hwr)
  · have hn' : ans.toNat ≠ 0 := fun h0 => hn (BitVec.eq_of_toNat_eq h0)
    have hFE : ans = 0xFE ↔ ans.toNat = 0xFE := (BitVec.toNat_inj (y := 0xFE)).symm
    simp only [exec_accessControlAnswer_core, coreAnswer_denied ha hg hn', hFE]
  · rw [exec_hostPartCompletion, execHostPartCompletion_ok ha hg hd hl]
  · rw [exec_hostPartCompletion, execHostPartCompletion_error ha hg hd hl]
  · rw [exec_hostPartCompletion, execHostPartCompletion_late ha]
  · simp only [exec_hwto, execHwto, ha]

end Sys2Proof.Machine
end

section
/-! Banks: the writes of their registers, and the events that end what the writes begin (R267 to R269, R271, R274 to R278, R280,
R281). -/

namespace Sys2Proof.Machine

/-! ## The register behind a write -/

section
variable {s t : State} {c : CoreId} {a : Nat} {w : Word}

/-- A write to an SV block or the host-link block is `sysWrite`. -/
theorem busWrite_sys_of_taken (h : WriteTaken s c a w) (ha : a < 0x060000)
    (ht : ∀ i, sysWrite s c.val (coreOf s c.val).ring i a w = t) : busWrite s c.val a w = t := by
  refine busWrite_of_taken h fun i _ => ?_
  have hp : privCore a = none := if_neg (by omega)
  have hs : ¬(0x068000 ≤ a ∧ a < 0x069000) := by omega
  rw [ioAbs_of_not_alias (.inl (by omega))]
  simp only [ioPerform, hp, if_neg hs, if_pos ha, ht i]

/-- A write to one of the blocks behind the field shadow is `islandWrite`. -/
theorem busWrite_island_of_taken (h : WriteTaken s c a w) (ha : 0x069000 ≤ a) (hb : a < 0x0FF000)
    (ht : ∀ i, islandWrite s i a w = t) : busWrite s c.val a w = t := by
  refine busWrite_of_taken h fun i _ => ?_
  have hp : privCore a = none := if_neg (by omega)
  have hs : ¬(0x068000 ≤ a ∧ a < 0x069000) := by omega
  rw [ioAbs_of_not_alias (.inl hb)]
  simp only [ioPerform, hp, if_neg hs, if_neg (show ¬a < 0x060000 by omega), ht i]

end

section
variable (s : State) (c ring : Nat) (i : RegInfo) (w : Word)

theorem sysWrite_bankown {n : Nat} (hn : n < 32) :
    sysWrite s c ring i (aBANKOWN n) w = bankownDo s c ring n (pay w) := by
  have hm : ¬(aBANKOWN n = aCMASK ∨ aBANKOWN n = aQMASK ∨ aBANKOWN n = aMODECFG) := by
    unfold aBANKOWN aCMASK aQMASK aMODECFG; omega
  have hk : aBANKOWN n ≠ 0x24 := by unfold aBANKOWN; omega
  have hb : 0x100 ≤ aBANKOWN n ∧ aBANKOWN n < 0x120 := by unfold aBANKOWN; omega
  have he : aBANKOWN n - 0x100 = n := by unfold aBANKOWN; omega
  simp only [sysWrite, if_neg hm, if_neg hk, if_pos hb, he]

theorem sysWrite_part {p : Nat} (hp : p < 4) : sysWrite s c ring i (aPART p) w = partDo s p (pay w) := by
  have hm : ¬(aPART p = aCMASK ∨ aPART p = aQMASK ∨ aPART p = aMODECFG) := by
    unfold aPART aCMASK aQMASK aMODECFG; omega
  have hk : aPART p ≠ 0x24 := by unfold aPART; omega
  have hb : ¬(0x100 ≤ aPART p ∧ aPART p < 0x120) := by unfold aPART; omega
  have ht : 0x140 ≤ aPART p ∧ aPART p < 0x144 := by unfold aPART; omega
  have he : aPART p - 0x140 = p := by unfold aPART; omega
  simp only [sysWrite, if_neg hm, if_neg hk, if_neg hb, if_pos ht, he]

end

section
variable {s : State} {c : CoreId} {w : Word}

theorem busWrite_bankown {n : Fin 32} (h : WriteTaken s c (aBANKOWN n.val) w) :
    busWrite s c.val (aBANKOWN n.val) w = bankownDo s c.val (coreOf s c.val).ring n.val (pay w) :=
  busWrite_sys_of_taken h (by unfold aBANKOWN; omega) fun i => sysWrite_bankown s _ _ i w n.isLt

theorem busWrite_part {p : Fin 4} (h : WriteTaken s c (aPART p.val) w) :
    busWrite s c.val (aPART p.val) w = partDo s p.val (pay w) :=
  busWrite_sys_of_taken h (by unfold aPART; omega) fun i => sysWrite_part s _ _ i w p.isLt

theorem busWrite_bankpwr (h : WriteTaken s c aBANKPWR w) : busWrite s c.val aBANKPWR w = bankpwrDo s (pay w) :=
  busWrite_sys_of_taken h (by decide) fun _ => rfl

theorem busWrite_marchctl (h : WriteTaken s c aMARCHCTL w) : busWrite s c.val aMARCHCTL w = marchctlDo s (pay w) :=
  busWrite_island_of_taken h (by decide) (by decide) fun _ => rfl

theorem busWrite_rpctl (h : WriteTaken s c aRPCTL w) : busWrite s c.val aRPCTL w = rpctlDo s (pay w) :=
  busWrite_island_of_taken h (by decide) (by decide) fun _ => rfl

end

/-! ## The commands that write a register of the banks -/

theorem exec_bankownWrite (c : CoreId) (n : Fin 32) (w : Word) (s : State) :
    exec (.bankownWrite c n w) s = .next (busWrite s c.val (aBANKOWN n.val) w) := (rfl)
theorem exec_partWrite (c : CoreId) (p : Fin 4) (w : Word) (s : State) :
    exec (.partWrite c p w) s = .next (busWrite s c.val (aPART p.val) w) := (rfl)
theorem exec_bankPowerOff (c : CoreId) (n : Fin 32) (s : State) : exec (.bankPowerOff c n) s =
    .next (busWrite s c.val aBANKPWR (bitsW (setBits (pay (ioGet s aBANKPWR)) n.val 1 0))) := (rfl)
theorem exec_bankPowerOn (c : CoreId) (n : Fin 32) (s : State) : exec (.bankPowerOn c n) s =
    .next (busWrite s c.val aBANKPWR (bitsW (setBits (pay (ioGet s aBANKPWR)) n.val 1 1))) := (rfl)
theorem exec_marchGo (c : CoreId) (w : Word) (s : State) :
    exec (.marchGo c w) s = .next (busWrite s c.val aMARCHCTL (withBits w 0x80 0x100)) := (rfl)
theorem exec_marchAbort (c : CoreId) (s : State) :
    exec (.marchAbort c) s = .next (busWrite s c.val aMARCHCTL (natW (ioF s aMARCHCTL 0 7 + 0x100))) := (rfl)
theorem exec_rowRepair (c : CoreId) (w : Word) (s : State) :
    exec (.rowRepair c w) s = .next (busWrite s c.val aRPCTL (withBits w 0x1000 0)) := (rfl)

/-! ## A write of an ownership record (R268, R269, R271) -/

/-- The fields that an ownership write gives at once leave STATE. -/
theorem bankState_bankownFields {s : State} (hI : Inv s) (n w : Nat) :
    bankState (bankownFields s n w) n = bankState s n :=
  ioF_ioSetF_other (inv_io hI) _ _ _ _ _ _ (by decide) (.inl (by decide))

section
variable {s : State} {c ring n v : Nat}

theorem bankownDo_refused (hok : bankownOk s c ring n v = false) : bankownDo s c ring n v = bankEvent s n 2 := by
  simp only [bankownDo, hok, Bool.not_false, if_true]

/-- R268: the owner itself renews its lease. -/
theorem bankownDo_renews (hI : Inv s) (hok : bankownOk s c ring n v = true) (hs : bankState s n = 0)
    (ho : bits v 0 4 = bankOwner s n) (hb : bitAt v 4 = false) (h0 : bits v 0 4 ≠ 0) :
    bankownDo s c ring n v = leaseStart (bankownFields s n v) n := by
  have hs' : bankState (bankownFields s n v) n ≠ 1 := by rw [bankState_bankownFields hI, hs]; decide
  simp only [bankownDo, hok, Bool.not_true, Bool.false_eq_true, if_false, if_neg hs', if_pos (And.intro ho hb), if_neg h0]

/-- R271: another owner, or a scrub of the same one, begins a change. -/
theorem bankownDo_changes (hI : Inv s) (hok : bankownOk s c ring n v = true) (hs : bankState s n = 0)
    (ho : bits v 0 4 ≠ bankOwner s n ∨ bitAt v 4 = true) :
    bankownDo s c ring n v = bankChgStart (ioSetB (bankownFields s n v) (aBANKOWN n) 35 false) n (bits v 0 4)
      ⟨if bitAt v 4 then 2 else if bankOwner s n = 0 then 1 else 0, false, false⟩ := by
  have hs' : bankState (bankownFields s n v) n ≠ 1 := by rw [bankState_bankownFields hI, hs]; decide
  have ho' : ¬(bits v 0 4 = bankOwner s n ∧ bitAt v 4 = false) := fun ⟨h1, h2⟩ =>
    ho.elim (· h1) fun h => absurd (h2.symm.trans h) (by decide)
  simp only [bankownDo, hok, Bool.not_true, Bool.false_eq_true, if_false, if_neg hs', if_neg ho']

end

/-! ## A write of a partition (R274) -/

/-- A write of a partition leaves the ownership records, so the banks that change are those that it owned before. -/
theorem partDo_eq (s : State) (p v : Nat) :
    partDo s p v = ((List.range 32).filter fun n => bankOwner s n == 12 + p && bankState s n == 0).foldl
      (fun s n => bankChgStart s n (12 + p) ⟨0, false, true⟩) (ioPut s (aPART p) (bitsW (v % 2 ^ 32))) := by
  have hr : ∀ n ∈ List.range 32, ioGet (ioPut s (aPART p) (bitsW (v % 2 ^ 32))) (aBANKOWN n) = ioGet s (aBANKOWN n) :=
    fun n hn => ioGet_ioPut_ne s (by have := List.mem_range.mp hn; unfold aBANKOWN aPART; omega) _
  unfold partDo
  exact congrArg (List.foldl _ _) (List.filter_congr fun n hn => by simp only [bankOwner, bankState, ioF, hr n hn])

/-! ## A write of BANKPWR with one bit changed (R276) -/

/-- A bit of the written word that the register already has. -/
theorem pwrBit_same {s : State} {w n : Nat} (h : bitAt w n = ioB s aBANKPWR n) : pwrBit w s n = s := by
  simp only [pwrBit, h, beq_self_eq_true, if_true]

/-- Bits that the register already has change nothing. -/
theorem foldl_pwrBit_same {s : State} {w : Nat} {l : List Nat} (h : ∀ m ∈ l, bitAt w m = ioB s aBANKPWR m) :
    l.foldl (pwrBit w) s = s := by
  induction l with
  | nil => rfl
  | cons m l ih =>
    rw [List.foldl_cons, pwrBit_same (h m List.mem_cons_self)]
    exact ih fun k hk => h k (List.mem_cons_of_mem _ hk)

/-- The bit of bank `n` is the only one that a write changes, and what it does leaves the bits of the other banks. -/
theorem bankpwrDo_one {s t : State} {w n : Nat} (h4 : 4 ≤ n) (h32 : n < 32)
    (hw : ∀ m, m ≠ n → bitAt w m = ioB s aBANKPWR m) (ht : pwrBit w s n = t)
    (hs : ∀ m, m ≠ n → ioB t aBANKPWR m = ioB s aBANKPWR m) : bankpwrDo s w = t := by
  have hn : n ∈ (List.range 28).map (· + 4) := List.mem_map.mpr ⟨n - 4, List.mem_range.mpr (by omega), by omega⟩
  have hd : ((List.range 28).map (· + 4)).Nodup := by decide
  obtain ⟨l, r, hl⟩ := List.append_of_mem hn
  rw [hl] at hd
  have hnl : ∀ m ∈ l, m ≠ n := fun m hm e => (List.nodup_append.mp hd).2.2 m hm n List.mem_cons_self e
  have hnr : ∀ m ∈ r, m ≠ n := fun m hm e => (List.nodup_cons.mp (List.nodup_append.mp hd).2.1).1 (e ▸ hm)
  rw [bankpwrDo, hl, List.foldl_append, List.foldl_cons, foldl_pwrBit_same fun m hm => hw m (hnl m hm), ht]
  exact foldl_pwrBit_same fun m hm => (hw m (hnr m hm)).trans (hs m (hnr m hm)).symm

/-- A bit of a register, by its payload. -/
theorem ioB_eq_bitAt (s : State) (a i : Nat) : ioB s a i = bitAt (pay (ioGet s a)) i := (rfl)

theorem bitAt_setBits_self (x n v : Nat) : bitAt (setBits x n 1 v) n = (v % 2 == 1) := by
  show (bits (setBits x n 1 v) n 1 == 1) = _
  rw [bits_setBits, Nat.pow_one]

theorem bitAt_setBits_ne (x v : Nat) {m n : Nat} (h : m ≠ n) : bitAt (setBits x n 1 v) m = bitAt x m := by
  show (bits (setBits x n 1 v) m 1 == 1) = (bits x m 1 == 1)
  rcases Nat.lt_or_gt_of_ne h with h | h
  · rw [bits_setBits_below _ _ _ _ _ _ (by omega)]
  · rw [bits_setBits_above _ _ _ _ _ _ (by omega)]

/-- The word that a power command writes has its payload. -/
theorem pay_setBits_word (x : Word) {n : Nat} (hn : n < 36) (v : Nat) :
    pay (bitsW (setBits (pay x) n 1 v)) = setBits (pay x) n 1 v := by
  rw [bitsW, pay_mkW]
  exact Nat.mod_eq_of_lt (setBits_lt (pay_lt x) (by omega))

/-- Another bit of a register in which one was set. -/
theorem ioB_ioSetB_other {s : State} (hI : Inv s) (a : Nat) {n m : Nat} (hn : n < 36) (h : m ≠ n) (b : Bool) :
    ioB (ioSetB s a n b) a m = ioB s a m := by
  rw [ioB_eq_bitAt, ioSetB, pay_ioSetF (inv_io hI) _ _ _ _ (by omega), bitAt_setBits_ne _ _ h]
  rfl

theorem ioB_bankStatePut {n m : Nat} (hn : n < 32) (s : State) (v : Nat) :
    ioB (bankStatePut s n v) aBANKPWR m = ioB s aBANKPWR m :=
  congrArg (· == 1) (ioF_ioSetF_ne s (by unfold aBANKPWR aBANKOWN; omega) _ _ _ _ _)

theorem ioB_bankChgStart {n m : Nat} (hn : n < 32) (s : State) (next : Nat) (b : BankChange) :
    ioB (bankChgStart s n next b) aBANKPWR m = ioB s aBANKPWR m :=
  (ioB_bankStatePut hn _ _).trans (congrArg (· == 1) (ioF_ioSetF_ne _ (by unfold aBANKPWR aBANKOWN; omega) _ _ _ _ _))

section
variable {s : State} {n : Nat} (hI : Inv s) (h4 : 4 ≤ n) (h32 : n < 32) (hb : pwrBusy s n = false)
include hI h4 h32 hb

theorem bankpwrDo_off (hp : ioB s aBANKPWR n = true) :
    bankpwrDo s (setBits (pay (ioGet s aBANKPWR)) n 1 0) =
      bankChgStart (ioSetB s aBANKPWR n false) n (bankOwner s n) ⟨0, true, false⟩ := by
  refine bankpwrDo_one h4 h32 (fun m hm => bitAt_setBits_ne _ _ hm) ?_ fun m hm => ?_
  · simp only [pwrBit, bitAt_setBits_self, hp, hb, Nat.zero_mod, Nat.reduceBEq, beq_iff_eq, Bool.false_eq_true, if_false]
  · rw [ioB_bankChgStart h32, ioB_ioSetB_other hI _ (by omega) hm]

theorem bankpwrDo_on (hp : ioB s aBANKPWR n = false) :
    bankpwrDo s (setBits (pay (ioGet s aBANKPWR)) n 1 1) = bankStatePut (ioSetB s aBANKPWR n true) n 2 := by
  refine bankpwrDo_one h4 h32 (fun m hm => bitAt_setBits_ne _ _ hm) ?_ fun m hm => ?_
  · simp only [pwrBit, bitAt_setBits_self, hp, hb, Nat.reduceMod, Nat.reduceBEq, beq_iff_eq, Bool.true_eq_false,
      Bool.false_eq_true, if_false, if_true]
  · rw [ioB_bankStatePut h32, ioB_ioSetB_other hI _ (by omega) hm]

end

/-! ## Marches and live repair (R278, R281) -/

theorem bitAt_eq_testBit (x i : Nat) : bitAt x i = x.testBit i := by
  rw [Nat.testBit_eq_decide_div_mod_eq]
  rfl

/-- A bit of a word with some bits set and others cleared. -/
theorem bitAt_withBits (w : Word) (on off : Nat) {i : Nat} (hi : i < 36) :
    bitAt (pay (withBits w on off)) i = ((bitAt (pay w) i || on.testBit i) && (full - off).testBit i) := by
  simp only [withBits, pay_mkW, bitAt_eq_testBit, Nat.testBit_mod_two_pow, hi, decide_true, Bool.true_and, Nat.testBit_and,
    Nat.testBit_or]

/-- MARCHCTL takes no part in whether a march is refused. -/
theorem marchRefused_marchctl (s : State) {n : Nat} (hn : n < 32) (x : Nat) (d : Bool) :
    marchRefused (ioSetF s aMARCHCTL 0 7 x) n d = marchRefused s n d := by
  have hs : bankState (ioSetF s aMARCHCTL 0 7 x) n = bankState s n :=
    ioF_ioSetF_ne _ (by unfold aMARCHCTL aBANKOWN; omega) _ _ _ _ _
  have ho : bankOwner (ioSetF s aMARCHCTL 0 7 x) n = bankOwner s n :=
    ioF_ioSetF_ne _ (by unfold aMARCHCTL aBANKOWN; omega) _ _ _ _ _
  simp only [marchRefused, bankKeeper, hs, ho, ioSetF_marching]

section
variable {s : State} {x : Nat}

/-- R278: a march that is refused. -/
theorem marchctlDo_refused (hg : bitAt x 7 = true) (ha : bitAt x 8 = false)
    (hr : marchRefused s (bits x 0 5) (!bitAt x 5) = true) :
    marchctlDo s x = bankEvent (ioSetF s aMARCHCTL 0 7 x) (bits x 0 5) 2 := by
  simp only [marchctlDo, hg, ha, Bool.false_eq_true, if_false, if_true, marchRefused_marchctl s (bits_lt x 0 5), hr]

/-- R278: a march that is not destructive starts. -/
theorem marchctlDo_keeping (hg : bitAt x 7 = true) (ha : bitAt x 8 = false)
    (hr : marchRefused s (bits x 0 5) (!bitAt x 5) = false) (hd : bitAt x 5 = true) :
    marchctlDo s x = ioPut { ioSetF s aMARCHCTL 0 7 x with marching := some (bits x 0 5, false) } aMARCHSTAT
      (natW (1 + 2 * bits x 0 5)) := by
  rw [hd, Bool.not_true] at hr
  simp only [marchctlDo, hg, ha, hd, Bool.not_true, Bool.false_eq_true, if_false, if_true,
    marchRefused_marchctl s (bits_lt x 0 5), hr]

/-- R278: a destructive march starts, and its bank is in STATE 3. -/
theorem marchctlDo_destructive (hg : bitAt x 7 = true) (ha : bitAt x 8 = false)
    (hr : marchRefused s (bits x 0 5) (!bitAt x 5) = false) (hd : bitAt x 5 = false) :
    marchctlDo s x = readyClear (bankStatePut (ioPut { ioSetF s aMARCHCTL 0 7 x with
      marching := some (bits x 0 5, true) } aMARCHSTAT (natW (1 + 2 * bits x 0 5))) (bits x 0 5) 3) (12 + bits x 0 5) := by
  rw [hd, Bool.not_false] at hr
  simp only [marchctlDo, hg, ha, hd, Bool.not_false, Bool.false_eq_true, if_false, if_true,
    marchRefused_marchctl s (bits_lt x 0 5), hr]

/-- R278: a march that is not destructive is abandoned at once. -/
theorem marchctlDo_abort {m : Nat} (hg : bitAt x 7 = false) (ha : bitAt x 8 = true) (hm : s.marching = some (m, false)) :
    marchctlDo s x = ioSetB { ioSetF s aMARCHCTL 0 7 x with marching := none } aMARCHSTAT 0 false := by
  simp only [marchctlDo, hg, ha, ioSetF_marching, hm, Bool.false_eq_true, if_false, if_true]

theorem rpctlDo_busy (h : ioB s aRPCTL 13 = true) : rpctlDo s x = bankEvent s (bits x 0 2) 2 := by
  simp only [rpctlDo, h, if_true]

theorem rpctlDo_go (h : ioB s aRPCTL 13 = false) (hg : bitAt x 12 = true) :
    rpctlDo s x = repairStart (ioSetF s aRPCTL 0 12 x) (bits x 0 2) (bits x 2 2) (bits x 4 8) := by
  simp only [rpctlDo, h, hg, Bool.false_eq_true, if_false, if_true]

end

/-- The word that MARCH_GO writes has GO, and no ABORT. -/
theorem bitAt_marchGoWord (w : Word) :
    bitAt (pay (withBits w 0x80 0x100)) 7 = true ∧ bitAt (pay (withBits w 0x80 0x100)) 8 = false := by
  rw [bitAt_withBits _ _ _ (by decide), bitAt_withBits _ _ _ (by decide),
    show Nat.testBit 0x80 7 = true by decide, show (full - 0x100).testBit 7 = true by decide,
    show (full - 0x100).testBit 8 = false by decide, Bool.or_true, Bool.and_false]
  exact ⟨rfl, rfl⟩

/-- The word that ROW_REPAIR writes has GO. -/
theorem bitAt_rowRepairWord (w : Word) : bitAt (pay (withBits w 0x1000 0)) 12 = true := by
  rw [bitAt_withBits _ _ _ (by decide), show Nat.testBit 0x1000 12 = true by decide,
    show (full - 0).testBit 12 = true by decide, Bool.or_true, Bool.and_true]

/-- The word that MARCH_ABORT writes has no GO, and ABORT. -/
theorem bitAt_marchAbortWord (s : State) :
    let x := ioF s aMARCHCTL 0 7 + 0x100
    pay (natW x) = x ∧ bitAt x 7 = false ∧ bitAt x 8 = true := by
  have h : ioF s aMARCHCTL 0 7 < 128 := bits_lt _ _ _
  refine ⟨?_, ?_, ?_⟩
  · rw [natW, pay_mkW]; omega
  · simp only [bitAt, beq_eq_false_iff_ne]; omega
  · simp only [bitAt, beq_iff_eq]; omega

/-! ## Events of banks -/

theorem exec_ownershipDrainDone (n : Fin 32) (s : State) :
    exec (.ownershipDrainDone n) s = .next (drainDone s n.val) := (rfl)
theorem exec_scrubDone (n : Fin 32) (s : State) : exec (.scrubDone n) s = .next (scrubEnd s n.val) := (rfl)
theorem exec_leaseExpiry (n : Fin 32) (s : State) : exec (.leaseExpiry n) s = .next (clampDo s n.val) := (rfl)
theorem exec_leaseNearExpiry (n : Fin 32) (s : State) :
    exec (.leaseNearExpiry n) s = execLeaseNearExpiry n s := (rfl)
theorem exec_leaseAutoRenew (n : Fin 32) (s : State) : exec (.leaseAutoRenew n) s = execLeaseAutoRenew n s := (rfl)
theorem exec_bankWakeDone (n : Fin 32) (s : State) : exec (.bankWakeDone n) s = .next (wakeDone s n.val) := (rfl)
theorem exec_marchDone (n : Fin 32) (fails : List (Fin 4 × Fin 256)) (s : State) :
    exec (.marchDone n fails) s = execMarchDone n fails s := (rfl)
theorem exec_rowRepairDone (s : State) : exec .rowRepairDone s = execRowRepairDone s := (rfl)

section
variable {s : State} {n : Nat}

/-- R271: every cluster has acknowledged a change of bank `n`. -/
theorem drainDone_change {b : BankChange} (hs : bankState s n = 4) (hb : bankChgOf s n = some b) :
    drainDone s n =
      let t := drainBank s n
      if b.off then readyClear (bankStatePut (bankChgDrop t n) n 1) (12 + n)
      else if b.part then bankStatePut (bankChgDrop t n) n 0
      else if b.scrub = 0 then bankChgEnd t n
      else bankStatePut t n 2 := by
  simp only [drainDone, hs, hb, ne_eq, not_true_eq_false, if_false]

/-- R271: the scrub of a change ends, and with it the change. -/
theorem scrubEnd_change {b : BankChange} (hs : bankState s n = 2) (hb : bankChgOf s n = some b) :
    scrubEnd s n =
      readyUp (bankChgEnd (if b.scrub = 1 then memScrubSecrets s n else memScrub s n) n) (12 + n) := by
  simp only [scrubEnd, hs, hb, ne_eq, not_true_eq_false, if_false]

/-- R275: a clamp begins the change of an owned bank that is ready. -/
theorem clampDo_ready (ho : bankOwner s n ≠ 0) (hs : bankState s n = 0) :
    clampDo s n =
      elWrite (leaselostPend (bankEvent (bankChgStart (ioSetB (ioSetB { s with
        nearLease := s.nearLease.filter (· ≠ n) } (aBANKOWN n) 35 true) (aBANKOWN n) 4 true) n 0 ⟨2, false, false⟩) n 1)
        (if bankOwner s n ≤ 8 ∨ 12 ≤ bankOwner s n then ownerCores s (bankOwner s n) else 0) n)
        0x09 n 0 0 (bankOwner s n) 0 := by
  have h : ¬(bankOwner s n = 0 ∨ 1 < 0) := by omega
  simp only [clampDo, hs, if_neg h, Nat.zero_ne_one, decide_false, Bool.not_false, Bool.true_or, if_false]

/-- A bank of the keeper, or one that already changes, has no lease to expire. -/
theorem clampDo_none (h : bankOwner s n = 0 ∨ 1 < bankState s n) : clampDo s n = s := if_pos h

/-- R276, R277: a bank of the keeper wakes, empty unless a deadman restart keeps its words. -/
theorem wakeDone_keeper (hs : bankState s n = 2) (hb : bankChgOf s n = none) (ho : bankOwner s n = 0) :
    wakeDone s n =
      readyUp (bankEvent (bankStatePut (if wakeKeeps s then s else memScrub s n) n 0) n 3) (12 + n) := by
  have ho' : bankOwner (if wakeKeeps s then s else memScrub s n) n = 0 := by split <;> exact ho
  simp only [wakeDone, hs, hb, ho', ne_eq, not_true_eq_false, Option.isSome_none, Bool.false_eq_true, or_self, false_and,
    if_false]

end

/-- R268: the owners whose lease SV renews. -/
theorem autoOwner_iff (s : State) (o : Nat) :
    autoOwner s o = true ↔ o = 9 ∧ ¬ 11 ∈ s.islReset ∨ o = 10 ∧ ¬ 13 ∈ s.islReset ∨ o = 11 := by
  simp [autoOwner, or_assoc]

/-- R281: what the end of a live repair leaves. -/
theorem repairEnd_running {s : State} {b y r k : Nat} (h : s.repairing = some (b, y, r, k)) :
    repairEnd s =
      let t := (rowAddrs b y r).foldl (fun s a => if s.eccBad.contains a then memPut s a (mkW .poison 0x10)
        else { s with eccSoft := s.eccSoft.filter (· ≠ a) }) s
      elWrite (bankEvent (ioSetB (ioPut { t with repairing := none }
        (aROWMAP b y k) (natW (r + 256 + 1024))) aRPCTL 13 false) b 5) 0x10 b 0 0 (r + 256 * y + 1024) 0 := by
  simp only [repairEnd, h]

/-- Settles O42: each write by its register and then what the register does, each event by the state of its bank. -/
theorem banks : Obligations.Banks := by
  unfold Obligations.Banks
  constructor
  · intro s c n p w r v st a hI
    refine ⟨fun hW => ?_, fun hW => ?_, fun h4 hp hb hW => ?_, fun h4 hp hb hW => ?_, ?_, fun m hW hm => ?_, ?_⟩
    · rw [exec_bankownWrite, busWrite_bankown hW]
      exact ⟨fun hok => congrArg Host.Outcome.next (bankownDo_refused hok),
        fun hok hs ho hb h0 => congrArg Host.Outcome.next (bankownDo_renews hI hok hs ho hb h0),
        fun hok hs ho => congrArg Host.Outcome.next (bankownDo_changes hI hok hs ho)⟩
    · rw [exec_partWrite, busWrite_part hW, partDo_eq]
    · rw [exec_bankPowerOff, busWrite_bankpwr hW, pay_setBits_word _ (by omega), bankpwrDo_off hI h4 n.isLt hb hp]
    · rw [exec_bankPowerOn, busWrite_bankpwr hW, pay_setBits_word _ (by omega), bankpwrDo_on hI h4 n.isLt hb hp]
    · intro x m t hW
      obtain ⟨hg, ha⟩ := bitAt_marchGoWord w
      rw [exec_marchGo, busWrite_marchctl hW]
      exact ⟨fun hr => congrArg Host.Outcome.next (marchctlDo_refused hg ha hr),
        fun hr hd => congrArg Host.Outcome.next (marchctlDo_keeping hg ha hr hd),
        fun hr hd => congrArg Host.Outcome.next (marchctlDo_destructive hg ha hr hd)⟩
    · obtain ⟨hx, hg, ha⟩ := bitAt_marchAbortWord s
      rw [exec_marchAbort, busWrite_marchctl hW, hx, marchctlDo_abort hg ha hm]
    · intro x hW
      rw [exec_rowRepair, busWrite_rpctl hW]
      exact ⟨fun hb => congrArg Host.Outcome.next (rpctlDo_busy hb),
        fun hb => congrArg Host.Outcome.next (rpctlDo_go hb (bitAt_rowRepairWord w))⟩
  · intro s n fails own st a
    refine ⟨fun b hs hb => ?_, fun b hs hb => ?_, fun ho hs => ?_, fun h => ?_, fun ho hn => ?_, fun ho hc => ?_,
      fun hs hb hk ho => ?_, fun hs hb hk ho => ?_, ?_, ?_⟩
    · rw [exec_ownershipDrainDone, drainDone_change hs hb]
    · rw [exec_scrubDone, scrubEnd_change hs hb]
    · rw [exec_leaseExpiry, clampDo_ready ho hs]
    · rw [exec_leaseExpiry, clampDo_none h]
    · have h : ¬(own = 0 ∨ s.nearLease.contains n.val = true) := not_or.mpr ⟨ho, by rwa [List.contains_iff_mem]⟩
      rw [exec_leaseNearExpiry, execLeaseNearExpiry, if_neg h]
    · have h : (autoOwner s own && !clamping s n.val) = true := by rw [(autoOwner_iff s own).mpr ho, hc]; rfl
      rw [exec_leaseAutoRenew, execLeaseAutoRenew, if_pos h]
      rfl
    · rw [exec_bankWakeDone, wakeDone_keeper hs hb ho, hk, if_neg Bool.false_ne_true]
    · rw [exec_bankWakeDone, wakeDone_keeper hs hb ho, hk, if_pos rfl]
    · intro d hm t ht
      rw [exec_marchDone, execMarchDone, hm]
      exact congrArg Host.Outcome.next (if_pos (Option.isNone_iff_eq_none.mpr ht))
    · intro b y r k hr
      simp only [exec_rowRepairDone, execRowRepairDone, hr, repairEnd_running hr, Option.isSome_some, if_true]

end Sys2Proof.Machine
end

section
/-! Ring entries from the fetch to a core's work slot, the ledger ring, and the host's writes of BAR0 (R283, R397, R401, R403,
R405, R458, R459). -/

namespace Sys2Proof.Machine

/-! ## The fetch (R401, R403) -/

theorem exec_ringFetch (q : Fin 256) (n : Nat) (s : State) : exec (.ringFetch q n) s = .next (ringFetchDo s q.val n) := (rfl)
theorem exec_fetchComplete (q : Fin 256) (es : List (List (BitVec 64))) (s : State) :
    exec (.fetchComplete q es) s = execFetchComplete q es s := (rfl)

section
variable {s : State} {q : Fin 256} {n : Nat} {es : List (List (BitVec 64))}

/-- R401: no entry may be fetched now. -/
theorem ringFetchDo_none (h : min (min n 4) (fetchRoom s q.val) = 0) : ringFetchDo s q.val n = s := by
  simp only [ringFetchDo, h, if_true]

/-- R401: the access-control unit is asked for the entries that may be fetched. -/
theorem ringFetchDo_some (h : min (min n 4) (fetchRoom s q.val) ≠ 0) :
    ringFetchDo s q.val n =
      let m := min (min n 4) (fetchRoom s q.val)
      acAsk { s with entries := s.entries ++ List.replicate m (readingEntry q.val) } (.ringFetch q) (.fetch q.val m)
        false (barGet s (bSQ q.val 0) + 64 * barF s (bSQ q.val 0x10) 0 16) (64 * m) := by
  have hq : Fin.ofNat 256 q.val = q := Fin.ext (Nat.mod_eq_of_lt q.isLt)
  simp only [ringFetchDo, h, if_false, hq]

/-- R403: the data of a permitted fetch arrives for as many entries as HL reads. -/
theorem fetchDone_arrives
    (hl : (s.entries.filter fun e => e.q == q.val && decide (e.st = EntrySt.reading)).length = es.length)
    (ha : ∀ p m, AcItem.fetch p m ∈ s.acQ → p ≠ q.val) :
    fetchDone s q.val es = es.foldl (entryArrive q.val) s := by
  refine if_pos ⟨hl, ?_⟩
  rw [Bool.not_eq_true', List.any_eq_false]
  intro i hi
  cases i with
  | fetch p m => simpa using ha p m hi
  | _ => simp

theorem execFetchComplete_sized (h : ∀ e ∈ es, e.length = 8) :
    execFetchComplete q es s = .next (fetchDone s q.val es) :=
  if_pos (List.all_eq_true.mpr fun e he => beq_iff_eq.mpr (h e he))

theorem execFetchComplete_illFormed (h : ∃ e ∈ es, e.length ≠ 8) : execFetchComplete q es s = .fault .illFormed := by
  obtain ⟨e, he, hn⟩ := h
  exact if_neg fun ha => hn (beq_iff_eq.mp (List.all_eq_true.mp ha e he))

end

/-! ## The work slot (R405) -/

theorem exec_disptake (c : CoreId) (g : Fin 64) (s : State) :
    exec (.disptake c g) s = .next (busWrite s c.val 0x050040 (natW g.val)) := (rfl)
theorem exec_disptakeFree (c : CoreId) (s : State) :
    exec (.disptakeFree c) s = .next (busWrite s c.val 0x050040 (natW 64)) := (rfl)
theorem exec_workSlotFill (c : CoreId) (s : State) : exec (.workSlotFill c) s = .next (workFill s c.val) := (rfl)

section
variable {s : State} {c : CoreId}

theorem busWrite_disptake {w : Word} (h : WriteTaken s c 0x050040 w) :
    busWrite s c.val 0x050040 w = disptakeDo s c.val (pay w) :=
  busWrite_sys_of_taken h (by decide) fun _ => rfl

theorem disptakeDo_take {g : Fin 64} : disptakeDo s c.val (pay (natW g.val)) = takeDo s c.val g.val := by
  have hp : pay (natW g.val) = g.val := by rw [natW, pay_mkW]; omega
  have h6 : bitAt g.val 6 = false := by simp only [bitAt, beq_eq_false_iff_ne]; omega
  have hg : bits g.val 0 6 = g.val := by rw [bits_zero]; omega
  simp only [disptakeDo, hp, h6, hg, Bool.false_eq_true, if_false]

/-- R405: a take that finds no entry leaves the work slot free. -/
theorem takeDo_none {g : Nat} (h : takeFind (modCore s c.val workFree) g = none) :
    takeDo s c.val g = modCore s c.val workFree := by
  simp only [takeDo, h]

/-- R405: a take hands the entry that it finds to the core, and the group's rotation goes on. -/
theorem takeDo_some {g : Nat} {e : Entry} (h : takeFind (modCore s c.val workFree) g = some e) :
    takeDo s c.val g =
      let t := modCore s c.val workFree
      let u := entryPut t e { e with
        st := .taken
        core := some c.val }
      modCore { u with rotor := tabSet 0 t.rotor g ((e.q / 64 + 1) % 4) } c.val fun k =>
        { k with
          workRun := some ⟨e.q, e.seq, e.words, false⟩
          compRing := some (sqCq u e.q) } := by
  simp only [takeDo, h]
  rfl

/-- R405: the words of the entry that the core has taken are stored in its slot, in a bank that HL owns. -/
theorem workFill_stores {e : Work} (he : (coreOf s c.val).workRun = some e) (hf : (coreOf s c.val).workFull = false)
    (ho : bankOwner s 16 = 9) (hs : bankState s 16 = 0) :
    workFill s c.val = modCore (memPutAll s ((List.range 8).map fun i =>
      (0x100000 + 8 * c.val + i, e.words.getD i emptyW))) c.val fun k => { k with workFull := true } := by
  simp only [workFill, he, hf, ho, hs, BEq.rfl, Bool.and_self, Bool.false_eq_true, if_false, if_true, workAddr]

end

/-! ## The ledger ring (R458, R459) -/

theorem exec_lringHeadWrite (v : BitVec 16) (s : State) :
    exec (.lringHeadWrite v) s = .next (lringHeadDo (hostActive s) v.toNat) := (rfl)
theorem exec_ledgerDrain (s : State) : exec .ledgerDrain s = execLedgerDrain s := (rfl)

section
variable {s : State}

/-- R458: what a write of the ring's head passes, in the state `t` that holds the new head. -/
theorem lringHeadDo_eq (s : State) (v : Nat) :
    lringHeadDo s v =
      let z := lringSize s
      let t := barPut s (bLRING 0xC) v
      lringLeave { t with
        ledger := { t.ledger with
          recs := markPassed ((v + z - barF s (bLRING 0xC) 0 16 % z) % z) t.ledger.recs
          drainOff := false }
        lringSent := false } := (rfl)

/-- R459: the ring has no room, or the drain is stopped. -/
theorem execLedgerDrain_stopped (h : drainOk (lringLeave s) = false) : execLedgerDrain s = .next (lringLeave s) := by
  simp only [execLedgerDrain, h, Bool.not_false, if_true]

/-- R459: the access-control unit is asked for the next record. -/
theorem execLedgerDrain_asks {r : LRec} (h : drainOk (lringLeave s) = true) (hr : drainNext (lringLeave s) = some r) :
    execLedgerDrain s =
      .next (acAsk (lringLeave s) .drain (.drain r.slot) true (lringAddr (lringLeave s)) 256) := by
  simp only [execLedgerDrain, h, hr, Bool.not_true, Bool.false_eq_true, if_false]

end

/-! ## The host's writes of BAR0 (R283, R397) -/

theorem exec_hostRegisterWrite (v : BitVec 16) (d : BitVec 64) (s : State) :
    exec (.hostRegisterWrite v d) s = .next (bar0Write (hostActive s) v.toNat d.toNat) := (rfl)

/-- From the windows to the end of the ledger ring's page no register is read-only. -/
theorem barRo_windows {o : Nat} (h : 0x4000 ≤ o) (h' : o < 0x5000) : barRo o = false := by
  simp only [barRo, Bool.or_eq_false_iff, Bool.and_eq_false_iff, beq_eq_false_iff_ne, decide_eq_false_iff_not]
  omega

section
variable (s : State) (v : Nat)

theorem bar0Write_ro {o : Nat} (h : barRo o = true) : bar0Write s o v = s := if_pos h

/-- R283: HWINk.BASE and HWINk.LIMIT hold 36 bits. -/
theorem bar0Write_hwin {k j : Nat} (hk : k < 16) (hj : j = 0 ∨ j = 8) :
    bar0Write s (bHWIN k j) v = barPut s (bHWIN k j) (v % 2 ^ 36) := by
  have hr : barRo (bHWIN k j) = false := barRo_windows (by unfold bHWIN; omega) (by unfold bHWIN; omega)
  have hw : 0x4000 ≤ bHWIN k j ∧ bHWIN k j < 0x4200 := by unfold bHWIN; omega
  have hk' : (bHWIN k j - 0x4000) / 32 = k := by unfold bHWIN; omega
  have hj' : bHWIN k j % 32 = j := by unfold bHWIN; omega
  rw [bar0Write, hr, if_neg Bool.false_ne_true, if_neg (by omega), if_neg (by omega), if_neg (by omega), if_pos hw, hk', hj',
    hwinWrite, if_pos hj]

/-- R397: a write behind the ledger ring's registers meets none. -/
theorem bar0Write_hole {o : Nat} (h : 0x4814 ≤ o) (h' : o < 0x5000) :
    bar0Write s o v = elWrite (setCause s 1 false) 0x04 0 0 0 o 0 := by
  rw [bar0Write, barRo_windows (by omega) h', if_neg Bool.false_ne_true]
  iterate 8 rw [if_neg (by omega)]
  rw [barDrop, if_pos rfl, hostActive]

end

/-- Settles O44: the fetch, the take, the drain and the writes of BAR0, each by its outcomes above. -/
theorem ringEntries : Obligations.RingEntries := by
  unfold Obligations.RingEntries
  intro s c q g n es v d h
  refine ⟨fun hm => ?_, fun m hm h0 => ?_, fun he hl ha => ?_, fun he => ?_, fun hW => ?_, fun hW => ?_,
    fun e he hf ho hs => ?_, ?_, fun hd => ?_, fun r hd hr => ?_, fun hr => ?_, fun k j hk hj hv => ?_, fun hl hu => ?_⟩
  · rw [exec_ringFetch, ringFetchDo_none hm]
  · subst hm
    rw [exec_ringFetch, ringFetchDo_some h0]
  · rw [exec_fetchComplete, execFetchComplete_sized he, fetchDone_arrives hl ha]
  · rw [exec_fetchComplete, execFetchComplete_illFormed he]
  · rw [exec_disptake, busWrite_disptake hW, disptakeDo_take]
    exact ⟨fun hf => congrArg Host.Outcome.next (takeDo_none hf), fun e hf => congrArg Host.Outcome.next (takeDo_some hf)⟩
  · rw [exec_disptakeFree, busWrite_disptake hW]
    rfl
  · rw [exec_workSlotFill, workFill_stores he hf ho hs]
  · rw [exec_lringHeadWrite, lringHeadDo_eq]
  · rw [exec_ledgerDrain, execLedgerDrain_stopped hd]
  · rw [exec_ledgerDrain, execLedgerDrain_asks hd hr]
  · rw [exec_hostRegisterWrite, bar0Write_ro _ _ hr]
  · rw [exec_hostRegisterWrite, hv, bar0Write_hwin _ _ hk hj]
  · rw [exec_hostRegisterWrite, bar0Write_hole _ _ hl hu]

end Sys2Proof.Machine
end

section
/-! The SV cycle (O30), the event hub (O40), and timebases with the compare units (O41). -/

namespace Sys2Proof.Machine

/-! ## Timebases (R304) -/

/-- A timebase after a write of a timebase. -/
theorem tbGet_tbPut {s : State} (hI : Inv s) (n v m : Nat) :
    tbGet (tbPut s n v) m = if m = n then v % 2 ^ 72 else tbGet s m := by
  obtain ⟨-, -, -, -, -, htb, -⟩ := hI
  unfold tbGet tbPut
  rw [tabGet_tabSet (e := fun _ => 0#72) n m _ htb]
  split
  · exact BitVec.toNat_ofNat ..
  · rfl

/-- R304: a cycle adds 1 to 3 ns. -/
theorem tbStep_range (r : Int) (v : Nat) : 1 ≤ tbStep r v ∧ tbStep r v ≤ 3 := by
  unfold tbStep
  split
  · decide
  · split <;> decide

/-- R304: without a rate offset a cycle adds 2 ns. -/
theorem tbStep_zero (v : Nat) : tbStep 0 v = 2 := if_pos (.inl rfl)

/-- TB1 has no rate offset. -/
theorem tbRate_one (s : State) : tbRate s 1 = 0 := if_pos rfl

theorem tbGet_tbAdvance {s : State} (hI : Inv s) (n m : Nat) : tbGet (tbAdvance s n) m =
    if m = n then (tbGet s n + tbStep (tbRate s n) (freeVal s)) % 2 ^ 72 else tbGet s m :=
  tbGet_tbPut hI ..

theorem inv_tbAdvance {s : State} (hI : Inv s) (n : Nat) : Inv (tbAdvance s n) := (keeps_tbAdvance n (Keeps.refl s)).2 hI

/-- The advance of other timebases leaves a timebase. -/
theorem tbGet_foldl_tbAdvance_of_not_mem {s : State} (hI : Inv s) {l : List Nat} {n : Nat} (hn : n ∉ l) :
    tbGet (l.foldl tbAdvance s) n = tbGet s n := by
  induction l generalizing s with
  | nil => rfl
  | cons m l ih =>
    obtain ⟨hm, hl⟩ := not_or.mp (mt List.mem_cons.mpr hn)
    rw [List.foldl_cons, ih (inv_tbAdvance hI m) hl, tbGet_tbAdvance hI, if_neg hm]

/-- Of several timebases each advances once, by its own rate at that moment. -/
theorem tbGet_foldl_tbAdvance {s : State} (hI : Inv s) {l : List Nat} (hd : l.Nodup) {n : Nat} (hn : n ∈ l) :
    ∃ u, tbGet (l.foldl tbAdvance s) n = (tbGet s n + tbStep (tbRate u n) (freeVal u)) % 2 ^ 72 := by
  induction l generalizing s with
  | nil => exact absurd hn List.not_mem_nil
  | cons m l ih =>
    obtain ⟨hm, hl⟩ := List.nodup_cons.mp hd
    rw [List.foldl_cons]
    by_cases h : n = m
    · subst h
      exact ⟨s, by rw [tbGet_foldl_tbAdvance_of_not_mem (inv_tbAdvance hI n) hm, tbGet_tbAdvance hI, if_pos rfl]⟩
    · obtain ⟨u, hu⟩ := ih (inv_tbAdvance hI m) hl ((List.mem_cons.mp hn).resolve_left h)
      exact ⟨u, by rw [hu, tbGet_tbAdvance hI, if_neg h]⟩

/-! ## One SV cycle (R304, R329) -/

/-- DF's clock takes no part in the timebases. -/
theorem tbGet_fieldAdvance (s : State) (n : Nat) : tbGet (fieldAdvance s) n = tbGet s n := by
  unfold fieldAdvance
  split <;> rfl

/-- What an SV cycle makes of a timebase. -/
theorem tbGet_svTick {s : State} (hI : Inv s) {n : Nat} (hn : n < 4) :
    ∃ u, tbGet (svTick s) n = (tbGet s n + tbStep (tbRate u n) (freeVal u)) % 2 ^ 72 := by
  have hl : n ∈ [0, 1, 2, 3] := by simp only [List.mem_cons, List.not_mem_nil, or_false]; omega
  have hc : Inv { s with svCycle := s.svCycle + 1 } := hI
  rw [svTick, tbGet_fieldAdvance]
  exact tbGet_foldl_tbAdvance hc (by decide) hl

/-- From `s` to `t` nothing has changed but the timebases, the free values drawn and the field die's clock. -/
def Ticked (s t : State) : Prop := t = { s with
  tb := t.tb
  fresh := t.fresh
  field := { s.field with time := t.field.time } }

theorem Ticked.trans {s t u : State} (h : Ticked s t) (g : Ticked t u) : Ticked s u := by
  unfold Ticked at h g ⊢
  rw [g, h]

theorem ticked_tbAdvance (s : State) (n : Nat) : Ticked s (tbAdvance s n) := rfl

theorem ticked_foldl_tbAdvance (s : State) (l : List Nat) : Ticked s (l.foldl tbAdvance s) := by
  induction l generalizing s with
  | nil => rfl
  | cons n l ih => exact (ticked_tbAdvance s n).trans (ih _)

theorem ticked_fieldAdvance (s : State) : Ticked s (fieldAdvance s) := by
  unfold fieldAdvance
  split <;> rfl

/-- Beside the count of cycles an SV cycle changes the timebases, the free values drawn and the field die's clock. -/
theorem ticked_svTick (s : State) : Ticked { s with svCycle := s.svCycle + 1 } (svTick s) :=
  (ticked_foldl_tbAdvance _ _).trans (ticked_fieldAdvance _)

/-- Settles O30: the step is an SV cycle, in which each timebase advances once. -/
theorem idleStepIsOneCycle : Obligations.IdleStepIsOneCycle := by
  unfold Obligations.IdleStepIsOneCycle
  intro s hI hp
  refine ⟨svTick s, step_nil hp, ?_, fun n hn => ?_, ticked_svTick s⟩
  · obtain ⟨u, hu⟩ := tbGet_svTick hI (show 1 < 4 by decide)
    rw [hu, tbRate_one, tbStep_zero]
  · obtain ⟨u, hu⟩ := tbGet_svTick hI hn
    obtain ⟨h1, h3⟩ := tbStep_range (tbRate u n) (freeVal u)
    exact ⟨_, h1, h3, hu⟩

/-! ## Levels and offers (R292, R297, R298) -/

theorem exec_levelAssert (n : Fin 1024) (s : State) :
    exec (.levelAssert n) s = .next (if srcLevel s n.val then assertLevel s n.val else s) := (rfl)
theorem exec_levelWithdraw (n : Fin 1024) (s : State) :
    exec (.levelWithdraw n) s = .next (if srcLevel s n.val then withdrawLevel s n.val else s) := (rfl)
theorem exec_offerTimeout (c : CoreId) (s : State) : exec (.offerTimeout c) s = execOfferTimeout c s := (rfl)
theorem exec_msixUnmask (v : Fin 512) (s : State) :
    exec (.msixUnmask v) s = .next (msixFlush (hostActive (barSetB s (bMSIX v.val 12) 0 false)) v.val) := (rfl)

section
variable {s : State} {n : Nat}

theorem assertLevel_up (hu : srcUp s n = true) : assertLevel s n = s := if_pos hu

/-- R292: a source in service is pending again only when it leaves service. -/
theorem assertLevel_inService (hu : srcUp s n = false) (hv : srcInsvc s n = true) :
    assertLevel s n = { s with asserted := s.asserted ++ [n] } := by
  have hv' : srcInsvc { s with asserted := s.asserted ++ [n] } n = true := hv
  simp only [assertLevel, hu, hv', Bool.false_eq_true, if_false, if_true]

/-- R292: a source that is not in service and has a core, or needs none, is pending. -/
theorem assertLevel_pending (hu : srcUp s n = false) (hv : srcInsvc s n = false)
    (hc : noCore { s with asserted := s.asserted ++ [n] } n = false) :
    assertLevel s n = hubEval (hostRoute (wakeMask { s with asserted := s.asserted ++ [n] } n) n) := by
  have hv' : srcInsvc { s with asserted := s.asserted ++ [n] } n = false := hv
  simp only [assertLevel, hu, hv', hc, Bool.false_eq_true, if_false]

/-- R298: an offer that its core let time out is placed again. -/
theorem execOfferTimeout_some {c : CoreId} {o : Nat} (ho : (coreOf s c.val).offer = some o) (ht : ioF s aHUBCFG 0 12 ≠ 0) :
    execOfferTimeout c s = .next (hubEval (setCore s c.val { coreOf s c.val with offer := none }) (some (o, c.val))) := by
  simp only [execOfferTimeout, ho, if_neg ht]
  rfl

/-- R298: no offer, or no timeout. -/
theorem execOfferTimeout_none {c : CoreId} (h : (coreOf s c.val).offer = none ∨ ioF s aHUBCFG 0 12 = 0) :
    execOfferTimeout c s = .next s := by
  unfold execOfferTimeout
  cases ho : (coreOf s c.val).offer with
  | none => rfl
  | some o =>
    have ht : ioF s aHUBCFG 0 12 = 0 := h.resolve_left (by simp [ho])
    simp only [ht, if_true]

/-- R297: where no source waits for the vector, its pending bit stands for one message. -/
theorem msixFlush_noSource {v : Nat} (ho : msixOpen s v = true) (hs : vecSources s v = []) :
    msixFlush s v = if bitAt (barGet s (bPBA (v / 64))) (v % 64) then msixSend (pbaPut s v false) v else s := by
  simp only [msixFlush, ho, hs, Bool.not_true, Bool.false_eq_true, if_false, List.isEmpty_nil, if_true]

end

/-! ## Writes of SRCSTAT (R292, R303) -/

theorem exec_srcstatPendClear (c : CoreId) (n : Fin 1024) (s : State) :
    exec (.srcstatPendClear c n) s = .next (busWrite s c.val (aSRCSTAT n.val) (natW 0x100)) := (rfl)
theorem exec_srcstatSet (c : CoreId) (n : Fin 1024) (s : State) :
    exec (.srcstatSet c n) s = .next (busWrite s c.val (aSRCSTAT n.val) (natW 0x20000)) := (rfl)

theorem sysWrite_srcstat (s : State) (c ring : Nat) (i : RegInfo) (w : Word) {n : Nat} (hn : n < 1024) :
    sysWrite s c ring i (aSRCSTAT n) w = srcstatDo s ring n (pay w) := by
  have hm : ¬(aSRCSTAT n = aCMASK ∨ aSRCSTAT n = aQMASK ∨ aSRCSTAT n = aMODECFG) := by
    unfold aSRCSTAT aCMASK aQMASK aMODECFG; omega
  have hk : aSRCSTAT n ≠ 0x24 ∧ aSRCSTAT n ≠ aBANKPWR := by unfold aSRCSTAT aBANKPWR; omega
  have hb : ¬(0x100 ≤ aSRCSTAT n ∧ aSRCSTAT n < 0x120) ∧ ¬(0x140 ≤ aSRCSTAT n ∧ aSRCSTAT n < 0x144) := by
    unfold aSRCSTAT; omega
  have hc : ¬(0x010000 ≤ aSRCSTAT n ∧ aSRCSTAT n < 0x010400) ∧ ¬(0x010400 ≤ aSRCSTAT n ∧ aSRCSTAT n < 0x010800) := by
    unfold aSRCSTAT; omega
  have hs : 0x010800 ≤ aSRCSTAT n ∧ aSRCSTAT n < 0x010C00 := by unfold aSRCSTAT; omega
  have he : aSRCSTAT n - 0x010800 = n := by unfold aSRCSTAT; omega
  simp only [sysWrite, if_neg hm, if_neg hk.1, if_neg hk.2, if_neg hb.1, if_neg hb.2, if_neg hc.1, if_neg hc.2, if_pos hs, he]

theorem busWrite_srcstat {s : State} {c : CoreId} {n : Fin 1024} {w : Word} (h : WriteTaken s c (aSRCSTAT n.val) w) :
    busWrite s c.val (aSRCSTAT n.val) w = srcstatDo s (coreOf s c.val).ring n.val (pay w) :=
  busWrite_sys_of_taken h (by unfold aSRCSTAT; omega) fun i => sysWrite_srcstat s _ _ i w n.isLt

/-- R292: a 1 in PEND alone discards the occurrences of a pulse source. -/
theorem srcstatDo_pend (s : State) (ring n : Nat) :
    srcstatDo s ring n (pay (natW 0x100)) = if srcLevel s n then s else hubEval (ioSetF s (aSRCSTAT n) 0 8 0) := by
  have h9 : bitAt (pay (natW 0x100)) 9 = false := by decide
  have h8 : bitAt (pay (natW 0x100)) 8 = true := by decide
  have h17 : bitAt (pay (natW 0x100)) 17 = false := by decide
  cases hl : srcLevel s n <;>
    simp only [srcstatDo, h9, h8, h17, hl, Bool.not_true, Bool.not_false, Bool.and_self, Bool.and_false, Bool.false_and,
      Bool.false_eq_true, if_false, if_true]

/-- R303: a 1 in SET alone adds an occurrence to a pulse source, from ring 0. -/
theorem srcstatDo_set (s : State) (ring n : Nat) :
    srcstatDo s ring n (pay (natW 0x20000)) = if ring = 0 ∧ srcLevel s n = false then raise s n else s := by
  have h9 : bitAt (pay (natW 0x20000)) 9 = false := by decide
  have h8 : bitAt (pay (natW 0x20000)) 8 = false := by decide
  have h17 : bitAt (pay (natW 0x20000)) 17 = true := by decide
  by_cases hr : ring = 0 <;> cases hl : srcLevel s n <;>
    simp [srcstatDo, h9, h8, h17, hl, hr]

/-! ## An occurrence of a pulse source (R292) -/

section
variable {s : State} (hI : Inv s) {n : Nat}
include hI

theorem addPulse_counts (h : ioF s (aSRCSTAT n) 0 8 < 255) :
    ioF (addPulse s n) (aSRCSTAT n) 0 8 = ioF s (aSRCSTAT n) 0 8 + 1 ∧
      ioB (addPulse s n) (aSRCSTAT n) 9 = ioB s (aSRCSTAT n) 9 := by
  rw [addPulse, if_neg (by omega)]
  constructor
  · rw [ioF_ioSetF (inv_io hI) _ _ _ _ (by decide)]; omega
  · exact congrArg (· == 1) (ioF_ioSetF_other (inv_io hI) _ _ _ _ _ _ (by decide) (.inl (by decide)))

theorem addPulse_overflows (hn : n < 1024) (h : ioF s (aSRCSTAT n) 0 8 = 255) :
    ioF (addPulse s n) (aSRCSTAT n) 0 8 = 255 ∧ ioB (addPulse s n) (aSRCSTAT n) 9 = true ∧
      ioF (addPulse s n) aHUBSTAT 16 10 = n := by
  have hne : aSRCSTAT n ≠ aHUBSTAT := by unfold aSRCSTAT aHUBSTAT; omega
  have hI' : Inv (ioSetB s (aSRCSTAT n) 9 true) := (keeps_ioSetB _ _ _ (Keeps.refl s)).2 hI
  rw [addPulse, if_pos h]
  refine ⟨?_, ?_, ?_⟩
  · rw [ioF_ioSetF_ne _ hne, ioSetB, ioF_ioSetF_other (inv_io hI) _ _ _ _ _ _ (by decide) (.inr (by decide)), h]
  · rw [ioB, ioF_ioSetF_ne _ hne, ioSetB, ioF_ioSetF (inv_io hI) _ _ _ _ (by decide)]; rfl
  · rw [ioF_ioSetF (inv_io hI') _ _ _ _ (by decide)]; omega

omit hI in
/-- An occurrence touches no register but SRCSTAT of its source and HUBSTAT. -/
theorem ioGet_addPulse {a : Nat} (ha : a ≠ aSRCSTAT n) (hh : a ≠ aHUBSTAT) : ioGet (addPulse s n) a = ioGet s a := by
  unfold addPulse
  split
  · rw [ioSetF, ioGet_ioPut_ne _ hh, ioSetB, ioSetF, ioGet_ioPut_ne _ ha]
  · rw [ioSetF, ioGet_ioPut_ne _ ha]

end

/-- Settles O40: the events by the state of their source, the writes of SRCSTAT by their bits, and the count of a pulse
below and at its limit. -/
theorem hubEvents : Obligations.HubEvents := by
  unfold Obligations.HubEvents
  refine ⟨fun s c n v => ⟨fun hl hu hv => ?_, fun hl hu hv hc => ?_, fun h => ?_, fun hl => ?_, fun o ho ht => ?_,
    fun h => ?_, fun hW => ?_, fun hW => ?_, fun ho hs => ?_⟩, fun s n hI hn => ⟨addPulse_counts hI,
    addPulse_overflows hI hn, fun a ha hh => ioGet_addPulse ha hh⟩⟩
  · rw [exec_levelAssert, if_pos hl, assertLevel_inService hu hv]
  · rw [exec_levelAssert, if_pos hl, assertLevel_pending hu hv hc]
  · rw [exec_levelAssert]
    cases hl : srcLevel s n.val with
    | false => rfl
    | true => rw [if_pos rfl, assertLevel_up (h.resolve_left (by simp [hl]))]
  · rw [exec_levelWithdraw, if_pos hl, withdrawLevel]
  · rw [exec_offerTimeout, execOfferTimeout_some ho ht]
  · rw [exec_offerTimeout, execOfferTimeout_none h]
  · rw [exec_srcstatPendClear, busWrite_srcstat hW, srcstatDo_pend]
  · rw [exec_srcstatSet, busWrite_srcstat hW, srcstatDo_set]
  · rw [exec_msixUnmask, msixFlush_noSource ho hs]

/-! ## Timebases: latch, capture and set (R305 to R307) -/

theorem exec_tbhiRead (c : CoreId) (n : Fin 4) (s : State) :
    exec (.tbhiRead c n) s = .next (if coreFree s c.val then tbhiLatch s c.val n.val else s) := (rfl)
theorem exec_capture (c : CoreId) (m : BitVec 4) (s : State) :
    exec (.capture c m) s = .next (busWrite s c.val 0x020020 (natW m.toNat)) := (rfl)
theorem exec_tbsethiWrite (c : CoreId) (n : Fin 4) (w : Word) (s : State) :
    exec (.tbsethiWrite c n w) s = .next (busWrite s c.val (aTB n.val + 6) w) := (rfl)

/-- R305: the latched half is the low half. -/
theorem tbhiLatch_eq (s : State) (c n : Nat) : tbhiLatch s c n = setCore s c { coreOf s c with
    tbCopy := tabSet 0 (coreOf s c).tbCopy (4 * n) (BitVec.ofNat 36 (tbGet s n)) } := by
  have h : BitVec.ofNat 36 (tbLo s n) = BitVec.ofNat 36 (tbGet s n) :=
    BitVec.eq_of_toNat_eq (by simp only [tbLo, BitVec.toNat_ofNat, Nat.mod_mod])
  rw [tbhiLatch, tbCopyPut, h]
  rfl

theorem busWrite_capture {s : State} {c : CoreId} {w : Word} (h : WriteTaken s c 0x020020 w) :
    busWrite s c.val 0x020020 w = captureDo s c.val (pay w % 16) :=
  busWrite_sys_of_taken h (by decide) fun _ => rfl

theorem sysWrite_tbsethi (s : State) (c ring : Nat) (i : RegInfo) (w : Word) {n : Nat} (hn : n < 4) :
    sysWrite s c ring i (aTB n + 6) w = tbSet s ring n (pay w) := by
  have hm : ¬(aTB n + 6 = aCMASK ∨ aTB n + 6 = aQMASK ∨ aTB n + 6 = aMODECFG) := by
    unfold aTB aCMASK aQMASK aMODECFG; omega
  have hk : aTB n + 6 ≠ 0x24 ∧ aTB n + 6 ≠ aBANKPWR := by unfold aTB aBANKPWR; omega
  have hb : ¬(0x100 ≤ aTB n + 6 ∧ aTB n + 6 < 0x120) ∧ ¬(0x140 ≤ aTB n + 6 ∧ aTB n + 6 < 0x144) := by
    unfold aTB; omega
  have hc : ¬(0x010000 ≤ aTB n + 6 ∧ aTB n + 6 < 0x010400) ∧ ¬(0x010400 ≤ aTB n + 6 ∧ aTB n + 6 < 0x010800) ∧
      ¬(0x010800 ≤ aTB n + 6 ∧ aTB n + 6 < 0x010C00) := by
    unfold aTB; omega
  have ht : 0x020000 ≤ aTB n + 6 ∧ aTB n + 6 < 0x020020 := by unfold aTB; omega
  have h6 : (aTB n + 6) % 8 = 6 := by unfold aTB; omega
  have he : (aTB n + 6 - 0x020000) / 8 = n := by unfold aTB; omega
  simp only [sysWrite, if_neg hm, if_neg hk.1, if_neg hk.2, if_neg hb.1, if_neg hb.2, if_neg hc.1, if_neg hc.2.1,
    if_neg hc.2.2, if_pos ht, if_pos h6, he]

theorem busWrite_tbsethi {s : State} {c : CoreId} {n : Fin 4} {w : Word} (h : WriteTaken s c (aTB n.val + 6) w) :
    busWrite s c.val (aTB n.val + 6) w = tbSet s (coreOf s c.val).ring n.val (pay w) :=
  busWrite_sys_of_taken h (by unfold aTB; omega) fun i => sysWrite_tbsethi s _ _ i w n.isLt

/-- R307: what TBnSETHI sets is its payload with the low half of TBnSETLO. -/
theorem tbSet_word (s : State) (ring n : Nat) (w : Word) : tbSet s ring n (pay w) =
    let v := pay w * 2 ^ 36 + pay (ioGet s (aTB n + 5))
    if n = 1 then s
    else if n = 0 then (if ring = 0 ∧ tbGet s 0 ≤ v then tbPut s 0 v else tdReport s 4)
    else tbPut s n v := by
  rw [tbSet, Nat.mod_eq_of_lt (pay_lt w)]

/-! ## Compare units (R308 to R310) and PPS (R312) -/

theorem exec_compareArm (c : CoreId) (u : Fin 64) (w : Word) (s : State) :
    exec (.compareArm c u w) s = .next (busWrite s c.val (aCMPCTL u.val) (withBits w 4 0)) := (rfl)
theorem exec_compareFire (u : Fin 64) (s : State) : exec (.compareFire u) s = .next (cmpEval s u.val) := (rfl)
theorem exec_ppsHold (s : State) : exec .ppsHold s = .next (tdHold s) := (rfl)

theorem sysWrite_cmpctl (s : State) (c ring : Nat) (i : RegInfo) (w : Word) {u : Nat} (hu : u < 64) :
    sysWrite s c ring i (aCMPCTL u) w = cmpctlDo s u (pay w) := by
  have hm : ¬(aCMPCTL u = aCMASK ∨ aCMPCTL u = aQMASK ∨ aCMPCTL u = aMODECFG) := by
    unfold aCMPCTL aCMASK aQMASK aMODECFG; omega
  have hk : aCMPCTL u ≠ 0x24 ∧ aCMPCTL u ≠ aBANKPWR := by unfold aCMPCTL aBANKPWR; omega
  have hb : ¬(0x100 ≤ aCMPCTL u ∧ aCMPCTL u < 0x120) ∧ ¬(0x140 ≤ aCMPCTL u ∧ aCMPCTL u < 0x144) := by
    unfold aCMPCTL; omega
  have hc : ¬(0x010000 ≤ aCMPCTL u ∧ aCMPCTL u < 0x010400) ∧ ¬(0x010400 ≤ aCMPCTL u ∧ aCMPCTL u < 0x010800) ∧
      ¬(0x010800 ≤ aCMPCTL u ∧ aCMPCTL u < 0x010C00) := by
    unfold aCMPCTL; omega
  have ht : ¬(0x020000 ≤ aCMPCTL u ∧ aCMPCTL u < 0x020020) ∧ aCMPCTL u ≠ 0x020020 ∧ aCMPCTL u ≠ aTDCFG := by
    unfold aCMPCTL aTDCFG; omega
  have hu' : 0x020100 ≤ aCMPCTL u ∧ aCMPCTL u < 0x020180 ∧ aCMPCTL u % 2 = 1 := by unfold aCMPCTL; omega
  have he : (aCMPCTL u - 0x020101) / 2 = u := by unfold aCMPCTL; omega
  simp only [sysWrite, if_neg hm, if_neg hk.1, if_neg hk.2, if_neg hb.1, if_neg hb.2, if_neg hc.1, if_neg hc.2.1,
    if_neg hc.2.2, if_neg ht.1, if_neg ht.2.1, if_neg ht.2.2, if_pos hu', he]

theorem busWrite_cmpctl {s : State} {c : CoreId} {u : Fin 64} {w : Word} (h : WriteTaken s c (aCMPCTL u.val) w) :
    busWrite s c.val (aCMPCTL u.val) w = cmpctlDo s u.val (pay w) :=
  busWrite_sys_of_taken h (by unfold aCMPCTL; omega) fun i => sysWrite_cmpctl s _ _ i w u.isLt

/-- The word that COMPARE_ARM writes has ARM, and FIRED where the given word has it. -/
theorem bitAt_compareArmWord (w : Word) :
    bitAt (pay (withBits w 4 0)) 2 = true ∧ bitAt (pay (withBits w 4 0)) 3 = bitAt (pay w) 3 := by
  rw [bitAt_withBits _ _ _ (by decide), bitAt_withBits _ _ _ (by decide), show Nat.testBit 4 2 = true by decide,
    show Nat.testBit 4 3 = false by decide, show (full - 0).testBit 2 = true by decide,
    show (full - 0).testBit 3 = true by decide, Bool.or_true, Bool.or_false, Bool.and_true, Bool.and_true]
  exact ⟨rfl, rfl⟩

/-- R309: a write with ARM, and without FIRED, arms the unit. -/
theorem cmpctlDo_arm {s : State} {u w : Nat} (ha : bitAt w 2 = true) (hf : bitAt w 3 = false) :
    cmpctlDo s u w = cmpArm (ioSetF (ioSetF s (aCMPCTL u) 0 2 w) (aCMPCTL u) 4 1 (w / 16)) u := by
  simp only [cmpctlDo, ha, hf, Bool.false_eq_true, if_false, if_true]

/-- R308: unit `u` with ARM cleared, FIRED set, and LATE where it was reached already when it was armed. -/
def cmpFired (s : State) (u : Nat) : State :=
  let t := ioSetF s (aCMPCTL u) 2 2 2
  let t := ioSetB t (aCMPCTL u) 5 (t.cmpDue.contains u)
  { t with cmpDue := t.cmpDue.filter (· ≠ u) }

/-- R308, R309: an armed unit whose time has been reached fires. -/
theorem cmpEval_fires {s : State} {u : Nat} (ha : ioB s (aCMPCTL u) 2 = true) (hr : cmpReached s u = true) :
    cmpEval s u = if ioB (cmpFired s u) (aCMPCTL u) 4 then raise (cmpFired s u) (320 + u) else cmpFired s u :=
  if_pos (Bool.and_eq_true_iff.mpr ⟨ha, hr⟩)

/-- The list of the units that are late is no register. -/
theorem ioF_cmpDue (s : State) (l : List Nat) (a lo w : Nat) : ioF { s with cmpDue := l } a lo w = ioF s a lo w := (rfl)

theorem ioF_cmpFired (s : State) (u lo w : Nat) : ioF (cmpFired s u) (aCMPCTL u) lo w =
    ioF (ioSetB (ioSetF s (aCMPCTL u) 2 2 2) (aCMPCTL u) 5 (s.cmpDue.contains u)) (aCMPCTL u) lo w := by
  rw [cmpFired, ioSetF_cmpDue]
  exact ioF_cmpDue ..

/-- What a unit that has fired shows: ARM clear and FIRED set, EVT as it was, and LATE. -/
theorem cmpFired_fields {s : State} (hI : Inv s) (u : Nat) :
    ioF (cmpFired s u) (aCMPCTL u) 2 2 = 2 ∧ ioB (cmpFired s u) (aCMPCTL u) 4 = ioB s (aCMPCTL u) 4 ∧
      ioB (cmpFired s u) (aCMPCTL u) 5 = s.cmpDue.contains u := by
  have hJ : Inv (ioSetF s (aCMPCTL u) 2 2 2) := (keeps_ioSetF _ _ _ _ (Keeps.refl s)).2 hI
  have hf : ioF (cmpFired s u) (aCMPCTL u) 2 2 = 2 % 2 ^ 2 := by
    rw [ioF_cmpFired, ioSetB, ioF_ioSetF_other (inv_io hJ) _ _ _ _ _ _ (by decide) (.inr (by decide)),
      ioF_ioSetF (inv_io hI) _ _ _ _ (by decide)]
  refine ⟨hf, congrArg (· == 1) ?_, ?_⟩
  · rw [ioF_cmpFired, ioSetB, ioF_ioSetF_other (inv_io hJ) _ _ _ _ _ _ (by decide) (.inr (by decide)),
      ioF_ioSetF_other (inv_io hI) _ _ _ _ _ _ (by decide) (.inl (by decide))]
  · rw [ioB, ioF_cmpFired, ioSetB, ioF_ioSetF (inv_io hJ) _ _ _ _ (by decide)]
    cases s.cmpDue.contains u <;> decide

/-- R312: PPS_HOLD reports HOLD once. -/
theorem tdHold_enabled {s : State} (h : ioB s aTDCFG 29 = true) :
    tdHold s = if ioB s aTDSTAT 1 then s else raise (ioSetB s aTDSTAT 1 true) 576 := by
  cases hh : ioB s aTDSTAT 1 <;> simp only [tdHold, h, hh, Bool.not_true, Bool.not_false, Bool.and_self, Bool.and_false,
    Bool.false_eq_true, if_false, if_true, tdReport]

/-- Settles O41: the writes of the timebases by their register, and the compare unit by what it shows once it has fired. -/
theorem timeEvents : Obligations.TimeEvents := by
  unfold Obligations.TimeEvents
  intro s c n u w
  refine ⟨fun hf => ?_, fun m hW => ?_, fun hW => ?_, fun hW hb => ?_, fun ha hr hI => ?_, fun h => ?_⟩
  · rw [exec_tbhiRead, if_pos hf, tbhiLatch_eq]
  · have hm : pay (natW m.toNat) % 16 = m.toNat := by have := m.isLt; rw [natW, pay_mkW]; omega
    rw [exec_capture, busWrite_capture hW, hm, captureDo]
  · rw [exec_tbsethiWrite, busWrite_tbsethi hW, tbSet_word]
    intro v
    refine ⟨fun h2 => ?_, fun h0 hr hv => ?_, fun h0 hv => ?_⟩
    · rw [if_neg (show n.val ≠ 1 by omega), if_neg (show n.val ≠ 0 by omega)]
    · rw [if_neg (show n.val ≠ 1 by omega), if_pos h0, if_pos ⟨hr, hv⟩]
    · rw [if_neg (show n.val ≠ 1 by omega), if_pos h0, if_neg fun h => Nat.not_lt.mpr h.2 hv, tdReport]
  · obtain ⟨h2, h3⟩ := bitAt_compareArmWord w
    rw [exec_compareArm, busWrite_cmpctl hW, cmpctlDo_arm h2 (h3.trans hb)]
  · obtain ⟨hfired, hevt, hlate⟩ := cmpFired_fields hI u.val
    refine ⟨cmpFired s u.val, ?_, hfired, hlate⟩
    rw [exec_compareFire, cmpEval_fires ha (decide_eq_true hr), hevt]
  · rw [exec_ppsHold, tdHold_enabled h]

end Sys2Proof.Machine
end

section
/-! The answers of the access-control unit to HL's own questions (O38). -/

namespace Sys2Proof.Machine

theorem exec_accessControlAnswer_ringFetch (q : Fin 256) (ans : BitVec 8) (s : State) :
    exec (.accessControlAnswer (.ringFetch q) ans) s = .next (fetchAnswer s q.val ans.toNat) := (rfl)
theorem exec_accessControlAnswer_completion (r : Fin 256) (ans : BitVec 8) (s : State) :
    exec (.accessControlAnswer (.completion r) ans) s = .next (compAnswer s r.val ans.toNat) := (rfl)
theorem exec_accessControlAnswer_drain (ans : BitVec 8) (s : State) :
    exec (.accessControlAnswer .drain ans) s = .next (drainAnswer s ans.toNat) := (rfl)
theorem exec_accessControlAnswer_msix (v : Fin 512) (ans : BitVec 8) (s : State) :
    exec (.accessControlAnswer (.msix v) ans) s = .next (msixAnswer s v.val ans.toNat) := (rfl)

/-- Is the question a fetch of ring `q`? -/
def AcItem.isFetch (q : Nat) : AcItem → Bool
  | .fetch p _ => p == q
  | _ => false
/-- Is the question a completion on ring `r`? -/
def AcItem.isComp (r : Nat) : AcItem → Bool
  | .comp q _ _ _ _ _ _ => q == r
  | _ => false
/-- Is the question the ledger's drain? -/
def AcItem.isDrain : AcItem → Bool
  | .drain _ => true
  | _ => false

section
variable {s : State} {ans : Nat}

/-- R401: the oldest fetch of a ring is asked of the host, or it stops the ring. -/
theorem fetchAnswer_oldest {q n : Nat} (h : s.acQ.find? (AcItem.isFetch q) = some (.fetch q n)) :
    fetchAnswer s q ans =
      let t := { s with acQ := s.acQ.erase (.fetch q n) }
      if ans = 0 then emit t (.hostRead (barGet s (bSQ q 0) + 64 * barF s (bSQ q 0x10) 0 16) (64 * n))
      else fetchFail (acRefuse t 1 ans) q := by
  unfold fetchAnswer
  split
  next p m hf =>
    obtain ⟨rfl, rfl⟩ : p = q ∧ m = n := by simpa using hf.symm.trans h
    rfl
  next hf => exact absurd h (hf q n)

/-- R445: the oldest completion of a ring is written. -/
theorem compAnswer_oldest {r : Nat} {resv noirq : Bool} {w0 w1 w2 w3 : Word}
    (h : s.acQ.find? (AcItem.isComp r) = some (.comp r resv noirq w0 w1 w2 w3)) :
    compAnswer s r 0 =
      compWrite { s with acQ := s.acQ.erase (.comp r resv noirq w0 w1 w2 w3) } r noirq w0 w1 w2 w3 := by
  unfold compAnswer
  split
  next q resv' noirq' v0 v1 v2 v3 hf =>
    obtain ⟨rfl, rfl, rfl, rfl, rfl, rfl, rfl⟩ : q = r ∧ resv' = resv ∧ noirq' = noirq ∧ v0 = w0 ∧ v1 = w1 ∧ v2 = w2 ∧
      v3 = w3 := by simpa using hf.symm.trans h
    rfl
  next hf => exact absurd h (hf r resv noirq w0 w1 w2 w3)

/-- R459: the oldest record that drains is written, or the drain stops. -/
theorem drainAnswer_oldest {j : Nat} (h : s.acQ.find? AcItem.isDrain = some (.drain j)) :
    drainAnswer s ans =
      let t := { s with acQ := s.acQ.erase (.drain j) }
      if ans = 0 then drainWrite t j
      else ioSetB (modLedger (acRefuse t 3 ans) fun l => { l with drainOff := true }) aLEDGSTAT 3 true := by
  unfold drainAnswer
  split
  next i hf =>
    obtain rfl : i = j := by simpa using hf.symm.trans h
    rfl
  next hf => exact absurd h (hf j)

/-- R297: a message that was asked for leaves, or its pending bit is set. -/
theorem msixAnswer_asked {v : Nat} (h : .msix v ∈ s.acQ) :
    msixAnswer s v ans =
      let t := { s with acQ := s.acQ.erase (.msix v) }
      if ans = 0 then emit t (.msix v) else pbaPut (acRefuse t 4 ans) v true :=
  if_pos (List.contains_iff_mem.mpr h)

end

/-- Settles O38: the oldest question of each kind is the one answered. -/
theorem hostLinkAnswered : Obligations.HostLinkAnswered := by
  unfold Obligations.HostLinkAnswered
  intro s ans
  have h0 : ans = 0 ↔ ans.toNat = 0 := (BitVec.toNat_inj (y := 0)).symm
  refine ⟨fun q n hf => ?_, fun j hf => ?_, fun v hv => ?_, fun r resv noirq w0 w1 w2 w3 hf ha => ?_⟩
  · rw [exec_accessControlAnswer_ringFetch, fetchAnswer_oldest hf]
    simp only [h0]
  · rw [exec_accessControlAnswer_drain, drainAnswer_oldest hf]
    simp only [h0]
  · rw [exec_accessControlAnswer_msix, msixAnswer_asked hv]
    simp only [h0]
  · rw [exec_accessControlAnswer_completion, h0.mp ha, compAnswer_oldest hf]

end Sys2Proof.Machine
end

section
/-! The commands that DF takes, its port controllers, and its messages at DH (O53). -/

namespace Sys2Proof.Machine

/-! ## Frames that arrive (R53, R371, R375) -/

/-- A frame that DF acts on has been counted before it acts. -/
theorem dfTake_reached {s : State} {w0 w1 : Word} (h : DfReached s w0 w1) (cls : Nat) (f : State → State) :
    dfTake s cls w0 w1 f = f (dfGot s cls) := by
  obtain ⟨hh, h0, h1⟩ := h
  simp only [dfTake, hh, h0, h1, Bool.not_true, Bool.and_self, Bool.false_eq_true, if_false, if_true, dfGot]

/-- A frame that DH acts on has been counted before it acts. -/
theorem dhTake_reached {s : State} {w0 w1 : Word} (h : DhReached s w0 w1) (cls : Nat) (f : State → State) :
    dhTake s cls w0 w1 f = f (dhGot s cls) := by
  obtain ⟨hh, h0, h1⟩ := h
  simp only [dhTake, hh, h0, h1, Bool.not_true, Bool.and_self, Bool.false_eq_true, if_false, if_true, dhGot]

theorem dvTag_natW (n : Nat) : dvTag (wtag (natW n)) = true := by rw [natW, wtag_mkW]; rfl

/-- The bodies of a frame without words of its own pass R53. -/
theorem dfReached_natW {s : State} (h : dfHears s = true) (a b : Nat) : DfReached s (natW a) (natW b) :=
  ⟨h, dvTag_natW a, dvTag_natW b⟩
theorem dhReached_natW {s : State} (h : dhHears s = true) (a b : Nat) : DhReached s (natW a) (natW b) :=
  ⟨h, dvTag_natW a, dvTag_natW b⟩

/-! The count of a frame leaves the field registers, the ports, the timebases and the images. -/

@[simp] theorem fldB_dfGot (s : State) (cls f i : Nat) : fldB (dfGot s cls) f i = fldB s f i := (rfl)
@[simp] theorem fsReady_dfGot (s : State) (cls : Nat) : fsReady (dfGot s cls) = fsReady s := (rfl)
@[simp] theorem portOf_dfGot (s : State) (cls p : Nat) : portOf (dfGot s cls) p = portOf s p := (rfl)
@[simp] theorem tbGet_dhGot (s : State) (cls n : Nat) : tbGet (dhGot s cls) n = tbGet s n := (rfl)
@[simp] theorem tbHi_dhGot (s : State) (cls n : Nat) : tbHi (dhGot s cls) n = tbHi s n := (rfl)
@[simp] theorem dhGot_dov (s : State) (cls : Nat) : (dhGot s cls).dov = s.dov := (rfl)

/-! ## CMD-OUT (R384) -/

theorem exec_cmdOutLevels (w0 w1 : Word) (s : State) :
    exec (.cmdOutLevels w0 w1) s = .next (dfTake s 1 w0 w1 fun s => cmdOut s w0 w1) := (rfl)
theorem exec_cmdOutDac (w0 w1 : Word) (s : State) :
    exec (.cmdOutDac w0 w1) s = .next (dfTake s 1 w0 w1 fun s => cmdOut s w0 w1) := (rfl)
theorem exec_cmdOutTrigger (w0 w1 : Word) (s : State) :
    exec (.cmdOutTrigger w0 w1) s = .next (dfTake s 1 w0 w1 fun s => cmdOut s w0 w1) := (rfl)
theorem exec_cmdOutFlag (w0 w1 : Word) (s : State) :
    exec (.cmdOutFlag w0 w1) s = .next (dfTake s 1 w0 w1 fun s => cmdOut s w0 w1) := (rfl)

section
variable {s : State} {w0 w1 : Word}

theorem cmdOut_levels (h : bits (pay w1) 33 3 < 2) : cmdOut s w0 w1 = (bitList 32 (pay w1)).foldl
    (fun s i => chCommand s (32 * bits (pay w1) 33 3 + i) 1 (bits (pay w0) i 1)) s := if_pos h

theorem cmdOut_dac (h : bits (pay w1) 33 3 = 2) : cmdOut s w0 w1 =
    let u := pay w1 % 64
    if chSafe s u || fldB s fSUPSTAT 17 || (jigLevel s u).isSome then chIgnore s u
    else chUpdate (fldSetF s (fCHOUT u) 0 16 (pay w0)) u := by
  simp only [cmdOut, h, Nat.lt_irrefl, if_false, if_true, bits_zero, Nat.reducePow]

theorem cmdOut_trigger (h : bits (pay w1) 33 3 = 3) : cmdOut s w0 w1 = trigStart s (pay w0 % 16) := by
  simp only [cmdOut, h, Nat.reduceLT, Nat.reduceEqDiff, if_false, if_true, bits_zero, Nat.reducePow]

theorem cmdOut_flag (h : bits (pay w1) 33 3 = 4) :
    cmdOut s w0 w1 = flagOp s (pay w0 % 8) (bits (pay w0) 3 2) (bits (pay w0) 5 2) := by
  simp only [cmdOut, h, Nat.reduceLT, Nat.reduceEqDiff, if_false, if_true, bits_zero, Nat.reducePow]

/-! ## CMD-CFG, SAFE-SET and BYPASS-CTL (R314, R315, R333, R334, R337 to R340) -/

theorem exec_cmdCfg (w0 w1 : Word) (s : State) : exec (.cmdCfg w0 w1) s = execCmdCfg w0 w1 s := (rfl)
theorem exec_safeSetEnter (w0 w1 : Word) (s : State) :
    exec (.safeSetEnter w0 w1) s = .next (dfTake s 1 w0 w1 fun s => safeSet s w0) := (rfl)
theorem exec_safeSetRelease (w0 w1 : Word) (s : State) :
    exec (.safeSetRelease w0 w1) s = .next (dfTake s 1 w0 w1 fun s => safeSet s w0) := (rfl)
theorem exec_bypassOpen (s : State) :
    exec .bypassOpen s = .next (dfTake s 1 (natW 1) (natW 0) bypassAsk) := (rfl)
theorem exec_bypassClose (s : State) :
    exec .bypassClose s = .next (dfTake s 1 (natW 0) (natW 0) fun s => bypassShut s 2) := (rfl)
theorem exec_bypassTestDone (ok : Bool) (s : State) :
    exec (.bypassTestDone ok) s = .next (if s.field.up then bypassTested s ok else s) := (rfl)

/-- R314: the answer of a register that DF writes. -/
theorem execCmdCfg_written {u : State} (hR : DfReached s w0 w1)
    (h : cfgDo (dfGot s 1) (pay w0 % 2 ^ 16) (pay w1) = some u) :
    execCmdCfg w0 w1 s = .next (dfAnswer u (pay w0 % 2 ^ 16) false) := by
  simp only [execCmdCfg, dfTake_reached hR, h]

/-- R315: the answer of a write that DF refuses. -/
theorem execCmdCfg_refused (hR : DfReached s w0 w1) (h : cfgDo (dfGot s 1) (pay w0 % 2 ^ 16) (pay w1) = none) :
    execCmdCfg w0 w1 s = .next (dfAnswer (dfGot s 1) (pay w0 % 2 ^ 16) true) := by
  simp only [execCmdCfg, dfTake_reached hR, h]

theorem safeSet_enter (h : bitAt (pay w0) 33 = false) : safeSet s w0 =
    (safeChannels (pay w0)).foldl (fun s u => if chSafe s u then s else chUpdate (chSet s u 8 1 1) u) s := by
  simp only [safeSet, h, Bool.not_false, if_true]
  rfl

/-- R334: no release in UV or OVLONG. -/
theorem safeSet_refused (h : bitAt (pay w0) 33 = true) (hb : supplyBad s = true) : safeSet s w0 = dfRefuse s := by
  simp only [safeSet, h, hb, Bool.not_true, Bool.false_eq_true, if_false, if_true]

theorem safeSet_release (h : bitAt (pay w0) 33 = true) (hb : supplyBad s = false) : safeSet s w0 =
    (safeChannels (pay w0)).foldl (fun s u => if chSafe s u then safeLeave s u else s)
      { s with field := { s.field with safe := false } } := by
  simp only [safeSet, h, hb, Bool.not_true, Bool.false_eq_true, if_false, modField]

end

section
variable {s : State}

/-- R340: an open request during a test, or while the bypass is open. -/
theorem bypassAsk_ignored (h : fldB s fBYPSTAT 2 = true ∨ fldB s fBYPSTAT 0 = false) : bypassAsk s = s :=
  if_pos (by rcases h with h | h <;> simp [h])

/-- R338: an open request starts the loopback test. -/
theorem bypassAsk_tests (h2 : fldB s fBYPSTAT 2 = false) (h0 : fldB s fBYPSTAT 0 = true) (hf : fsReady s = true)
    (hu : fldB s fSUPSTAT 17 = false) : bypassAsk s = dfStatus (fldSetF s fBYPSTAT 1 2 2) fBYPSTAT := by
  simp only [bypassAsk, h2, h0, hf, hu, Bool.not_true, Bool.not_false, Bool.or_self, Bool.and_self, Bool.false_eq_true,
    if_false, if_true]

/-- R337: an open bypass closes, and a test ends. -/
theorem bypassShut_closes (h : fldB s fBYPSTAT 2 = true ∨ fldB s fBYPSTAT 0 = false) (cause : Nat) :
    bypassShut s cause = dfStatus (fldSetF (fldSetF s fBYPSTAT 0 3 1) fBYPSTAT 4 4 cause) fBYPSTAT :=
  if_neg (by rcases h with h | h <;> simp [h])

/-- R339: a test that passes opens the bypass. -/
theorem bypassTested_passed (h : fldB s fBYPSTAT 2 = true) :
    bypassTested s true = dfStatus (fldSetF s fBYPSTAT 0 3 2) fBYPSTAT := by
  simp only [bypassTested, h, Bool.not_true, Bool.false_eq_true, if_false, if_true]

/-- R339: no test runs. -/
theorem bypassTested_none (h : fldB s fBYPSTAT 2 = false) (ok : Bool) : bypassTested s ok = s :=
  if_pos (by rw [h, Bool.not_false])

end

/-! ## Images through the ports (R336, R385) -/

theorem exec_portTxFirst (p : Fin 12) (b : List Byte) (s : State) :
    exec (.portTxFirst p b) s = execPortTxFirst p b s := (rfl)
theorem exec_portTxLater (p : Fin 12) (b : List Byte) (s : State) :
    exec (.portTxLater p b) s = execPortTxLater p b s := (rfl)
theorem exec_portRxFirst (p : Fin 12) (b : List Byte) (s : State) :
    exec (.portRxFirst p b) s = execPortRxFirst p b s := (rfl)
theorem exec_portRxLater (p : Fin 12) (b : List Byte) (s : State) :
    exec (.portRxLater p b) s = execPortRxLater p b s := (rfl)
theorem exec_portFrameSent (p : Fin 12) (r : BitVec 2) (s : State) :
    exec (.portFrameSent p r) s = execPortFrameSent p r s := (rfl)
theorem exec_portFrameReceived (p : Fin 12) (b : List Byte) (start : Payload) (s : State) :
    exec (.portFrameReceived p b start) s = execPortFrameReceived p b start s := (rfl)
theorem exec_portBusOff (p : Fin 12) (s : State) : exec (.portBusOff p) s = execPortBusOff p s := (rfl)

theorem chunkOk_iff (b : List Byte) : chunkOk b = true ↔ 0 < b.length ∧ b.length ≤ 10 := by
  rw [chunkOk, Bool.and_eq_true, decide_eq_true_eq, decide_eq_true_eq]

section
variable {s : State} {p : Fin 12} {b : List Byte}

/-- A chunk of no or of more than ten bytes is no frame. -/
theorem ports_illFormed (h : b.length = 0 ∨ 10 < b.length) :
    execPortTxFirst p b s = .fault .illFormed ∧ execPortTxLater p b s = .fault .illFormed ∧
      execPortRxFirst p b s = .fault .illFormed ∧ execPortRxLater p b s = .fault .illFormed := by
  have hc : ¬chunkOk b = true := by rw [chunkOk_iff]; omega
  exact ⟨if_neg hc, if_neg hc, if_neg hc, if_neg hc⟩

section
variable (hc : chunkOk b = true) (hp : imagePort p.val = true)
include hc hp

theorem execPortTxFirst_image (hh : dfHears s = true) :
    execPortTxFirst p b s = .next (portGather (dfGot s 3) p.val b) := by
  simp only [execPortTxFirst, hc, hp, dfTake_reached (dfReached_natW hh 0 0), if_true]

theorem execPortTxLater_image (hh : dfHears s = true) : execPortTxLater p b s = .next (
    if (portOf s p.val).txPart = [] then dfGot s 3
    else portGather (dfGot s 3) p.val ((portOf s p.val).txPart ++ b)) := by
  simp only [execPortTxLater, hc, hp, dfTake_reached (dfReached_natW hh 0 0), portOf_dfGot, List.isEmpty_iff, Bool.not_true,
    Bool.false_eq_true, if_false, if_true]

theorem execPortRxFirst_image (hh : dhHears s = true) :
    execPortRxFirst p b s = .next (rxGather (dhGot s 3) p.val b) := by
  simp only [execPortRxFirst, hc, hp, dhTake_reached (dhReached_natW hh 0 0), if_true]

theorem execPortRxLater_image (hh : dhHears s = true) : execPortRxLater p b s = .next (
    if tabGet [] s.dov.rxImg p.val = [] then dhGot s 3
    else rxGather (dhGot s 3) p.val (tabGet [] s.dov.rxImg p.val ++ b)) := by
  simp only [execPortRxLater, hc, hp, dhTake_reached (dhReached_natW hh 0 0), dhGot_dov, List.isEmpty_iff, Bool.not_true,
    Bool.false_eq_true, if_false, if_true]

end

/-- R385: the report of the oldest image, outside safe state. -/
theorem execPortFrameSent_oldest {r : BitVec 2} {img : List Byte} {l : List (List Byte)}
    (hq : (portOf s p.val).txQ = img :: l) (hs : s.field.safe = false) :
    execPortFrameSent p r s =
      let u := setPort s p.val { portOf s p.val with
        txQ := l
        busOff := (portOf s p.val).busOff && r != 0 }
      .next (txReport (if r = 0 then emit u (.canTx p.val img) else u) p.val img.length r.toNat) := by
  have h0 : r.toNat = 0 ↔ r = 0 := BitVec.toNat_inj (y := 0)
  have hb : (r.toNat != 0) = (r != 0) := by simp only [bne, Bool.beq_eq_decide_eq, h0]
  simp only [execPortFrameSent, hq, hs, Bool.false_eq_true, false_and, if_false, h0, hb]

theorem execPortFrameSent_none {r : BitVec 2} (hq : (portOf s p.val).txQ = []) : execPortFrameSent p r s = .next s := by
  simp only [execPortFrameSent, hq]

/-- R336: a received frame is kept where its bytes have room, and counted as lost where not. -/
theorem execPortFrameReceived_on {start : Payload} (ho : portOn s p.val = true) (hp : imagePort p.val = true)
    (hb : b.length < 2 ^ 12) :
    execPortFrameReceived p b start s = .next (
      let q := portOf s p.val
      if 8192 < rxHeld s p.val + b.length then setPort s p.val { q with rxDrop := q.rxDrop + 1 }
      else rxFlush (setPort s p.val { q with
        rxWait := q.rxWait ++ [rxBytes b start.toNat]
        busOff := false }) p.val) := by
  simp only [execPortFrameReceived, ho, hp, decide_eq_true hb, Bool.and_self, Bool.not_true, Bool.false_eq_true, if_false]

end

/-! ## DF's messages at DH (R382, R386, R388 to R390) -/

theorem exec_sampleMsg (w0 w1 : Word) (s : State) : exec (.sampleMsg w0 w1) s = execSampleMsg w0 w1 s := (rfl)
theorem exec_stampMsg (w0 w1 : Word) (s : State) : exec (.stampMsg w0 w1) s = execStampMsg w0 w1 s := (rfl)
theorem exec_eventMsg (w0 w1 : Word) (s : State) : exec (.eventMsg w0 w1) s = execEventMsg w0 w1 s := (rfl)
theorem exec_statusMsg (w0 w1 : Word) (s : State) : exec (.statusMsg w0 w1) s = execStatusMsg w0 w1 s := (rfl)
theorem exec_faultMsg (w0 w1 : Word) (s : State) : exec (.faultMsg w0 w1) s = execFaultMsg w0 w1 s := (rfl)

section
variable {s : State} {w0 w1 : Word} (hR : DhReached s w0 w1)
include hR

/-- R386: a sample is an entry of the sample ring. -/
theorem execSampleMsg_reached : execSampleMsg w0 w1 s = .next (smpPut (dhGot s 2)
    [natW (4 * (pay w1 % 16) + 64 * bits (pay w1) 4 4), w0,
      mkW .time (nearest28 (tbGet s 0) (bits (pay w1) 8 28) % 2 ^ 36), mkW .wide (tbHi s 0)]) := by
  simp only [execSampleMsg, dhTake_reached hR, bits_zero, tbGet_dhGot, tbHi_dhGot, Nat.reducePow]

/-- R386, R312: a stamp is an entry of the sample ring, and one of the PPS channel feeds the time discipline. -/
theorem execStampMsg_reached : execStampMsg w0 w1 s = .next (
    let u := smpPut (dhGot s 2) [natW (1 + 2 ^ 10 * (pay w1 % 64) + 2 ^ 16 * bits (pay w1) 6 1 + 2 ^ 17 * bits (pay w1) 7 1),
      natW 0, w0, mkW .wide (tbHi s 0)]
    if ppsFed u (pay w1 % 64) (bitAt (pay w1) 6) then
      let v := tdStamp u (nearest36 (tbGet u 0) (pay w0))
      readyFollow v 61 (ioB v aTDSTAT 0)
    else u) := by
  simp only [execStampMsg, dhTake_reached hR, bits_zero, tbHi_dhGot, Nat.reducePow]

/-- R390: an event changes the mirror, and is then an occurrence or a level of its source. -/
theorem execEventMsg_reached : execEventMsg w0 w1 s = .next (
    let n := pay w0 % 2 ^ 10
    let u := if n < 256 ∧ n % 4 = 0 then mirrorPut (dhGot s 1) (n / 4) (bitAt (pay w0) 11) else dhGot s 1
    if bitAt (pay w0) 12 = true ∨ 320 ≤ n then u
    else if srcLevel u n then (if bitAt (pay w0) 10 then assertLevel u n else withdrawLevel u n)
    else raise u n) := by
  simp only [execEventMsg, dhTake_reached hR, bits_zero, Nat.reducePow]

/-- R388: a word of a field register goes to its shadow. -/
theorem execStatusMsg_shadow (h18 : bitAt (pay w0) 18 = false) (h17 : bitAt (pay w0) 17 = false)
    (hf : pay w0 % 2 ^ 16 < 0x1000) : execStatusMsg w0 w1 s =
      .next (shadowEffects (ioPut (dhGot s 1) (aSHADOW (pay w0 % 2 ^ 16)) w1) (pay w0 % 2 ^ 16)) := by
  simp only [execStatusMsg, dhTake_reached hR, bits_zero, h18, h17, hf, Bool.false_eq_true, if_false, if_true]

/-- R388: a refusal, where the register is not that of a heartwood driver, which a handler may wait for. -/
theorem execStatusMsg_refused (h18 : bitAt (pay w0) 18 = false) (h17 : bitAt (pay w0) 17 = true)
    (hf : pay w0 % 2 ^ 16 < 0x200 ∨ 0x208 ≤ pay w0 % 2 ^ 16) :
    execStatusMsg w0 w1 s = .next (raise (dhGot s 1) 392) := by
  have hf' : ¬(0x200 ≤ pay w0 % 2 ^ 16 ∧ pay w0 % 2 ^ 16 < 0x208) := by omega
  simp only [execStatusMsg, dhTake_reached hR, bits_zero, h18, h17, if_neg hf', Bool.false_eq_true, if_false, if_true]

/-- R385: a transmit report. -/
theorem execStatusMsg_report (h18 : bitAt (pay w0) 18 = true) : execStatusMsg w0 w1 s =
    .next (txReported (dhGot s 1) (pay w0 % 2 ^ 16) (bits (pay w0) 19 2) (pay w1)) := by
  simp only [execStatusMsg, dhTake_reached hR, bits_zero, h18, if_true]

/-- R382, R520: a fault is logged, and code 4 is a tamper event. -/
theorem execFaultMsg_reached : execFaultMsg w0 w1 s = .next (
    let u := elWrite (raise (dhGot s 1) 393) 0x0C (bits (pay w0) 8 8) 0 0 (pay w0 % 256) 0
    if pay w0 % 256 = 4 then tamper u 1 (some 15) else u) := by
  simp only [execFaultMsg, dhTake_reached hR, bits_zero, Nat.reducePow]

end

/-- Settles O53: each command and message by what it does once it has been counted. -/
theorem fieldTraffic : Obligations.FieldTraffic := by
  unfold Obligations.FieldTraffic
  constructor
  · intro s w0 w1 p b r start ok t x q
    refine ⟨fun hR h => ?_, fun hR h => ?_, fun hR h => ?_, fun hR h => ?_, fun u hR h => ?_, fun hR h => ?_,
      fun hR h => ?_, fun hR h => ⟨fun hb => ?_, fun hb => ?_⟩, fun hh => ⟨fun h => ?_, fun h2 h0 hf hu => ?_, fun h => ?_⟩,
      fun hu h => ?_, fun hu h => ?_, fun h1 h10 => ?_, ports_illFormed, fun img l hq hs => ?_, fun hq => ?_,
      fun ho hp hb => ?_, fun ho => ?_, fun ho => ?_⟩
    · rw [exec_cmdOutLevels, dfTake_reached hR, cmdOut_levels h]
    · rw [exec_cmdOutDac, dfTake_reached hR, cmdOut_dac h]
    · rw [exec_cmdOutTrigger, dfTake_reached hR, cmdOut_trigger h]
    · rw [exec_cmdOutFlag, dfTake_reached hR, cmdOut_flag h]
    · rw [exec_cmdCfg, execCmdCfg_written hR h]
    · rw [exec_cmdCfg, execCmdCfg_refused hR h]
    · rw [exec_safeSetEnter, dfTake_reached hR, safeSet_enter h]
    · rw [exec_safeSetRelease, dfTake_reached hR, safeSet_refused h hb]
    · rw [exec_safeSetRelease, dfTake_reached hR, safeSet_release h hb]
    · rw [exec_bypassOpen, dfTake_reached (dfReached_natW hh 1 0), bypassAsk_ignored (by rwa [fldB_dfGot, fldB_dfGot])]
    · rw [exec_bypassOpen, dfTake_reached (dfReached_natW hh 1 0), bypassAsk_tests (s := dfGot s 1) h2 h0 hf hu]
    · rw [exec_bypassClose, dfTake_reached (dfReached_natW hh 0 0), bypassShut_closes (by rwa [fldB_dfGot, fldB_dfGot])]
    · rw [exec_bypassTestDone, if_pos hu, bypassTested_passed h]
    · rw [exec_bypassTestDone, if_pos hu, bypassTested_none h]
    · have hc : chunkOk b = true := (chunkOk_iff b).mpr ⟨h1, h10⟩
      refine ⟨fun hh hp => ?_, fun hh hp hq => ?_, fun hh hp hq => ?_⟩
      · rw [exec_portTxFirst, execPortTxFirst_image hc hp hh]
      · rw [exec_portTxLater, execPortTxLater_image hc hp hh, if_pos hq]
      · rw [exec_portTxLater, execPortTxLater_image hc hp hh, if_neg hq]
    · rw [exec_portFrameSent, execPortFrameSent_oldest hq hs]
    · rw [exec_portFrameSent, execPortFrameSent_none hq]
    · rw [exec_portFrameReceived, execPortFrameReceived_on ho hp hb]
      exact ⟨fun h => congrArg Host.Outcome.next (if_pos h),
        fun h => congrArg Host.Outcome.next (if_neg (Nat.not_lt.mpr h))⟩
    · rw [exec_portBusOff, execPortBusOff, if_pos ho]
    · rw [exec_portBusOff, execPortBusOff, if_neg (by rw [ho]; exact Bool.false_ne_true)]
  · intro s w0 w1 p b x y
    refine ⟨fun hR => ⟨?_, ?_⟩, fun hR => ⟨?_, ?_, ?_⟩, fun h1 h10 hh hp => ?_⟩
    · rw [exec_sampleMsg, execSampleMsg_reached hR]
    · rw [exec_stampMsg, execStampMsg_reached hR]
      exact ⟨fun hf => congrArg Host.Outcome.next (if_neg (Bool.eq_false_iff.mp hf)),
        fun hf => congrArg Host.Outcome.next (if_pos hf)⟩
    · rw [exec_eventMsg, execEventMsg_reached hR]
      have hs (h12 : bitAt x 12 = false) (hn : x % 2 ^ 10 < 320) : ¬(bitAt x 12 = true ∨ 320 ≤ x % 2 ^ 10) :=
        fun h => h.elim (Bool.eq_false_iff.mp h12) (Nat.not_le.mpr hn)
      exact ⟨fun h => congrArg Host.Outcome.next (if_pos h),
        fun h12 hn hl => congrArg Host.Outcome.next ((if_neg (hs h12 hn)).trans (if_neg (Bool.eq_false_iff.mp hl))),
        fun h12 hn hl => congrArg Host.Outcome.next ((if_neg (hs h12 hn)).trans (if_pos hl))⟩
    · rw [exec_statusMsg]
      exact ⟨execStatusMsg_shadow hR, execStatusMsg_refused hR, execStatusMsg_report hR⟩
    · rw [exec_faultMsg, execFaultMsg_reached hR]
    · have hc : chunkOk b = true := (chunkOk_iff b).mpr ⟨h1, h10⟩
      refine ⟨?_, fun hq => ?_, fun hq => ?_⟩
      · rw [exec_portRxFirst, execPortRxFirst_image hc hp hh]
      · rw [exec_portRxLater, execPortRxLater_image hc hp hh, if_pos hq]
      · rw [exec_portRxLater, execPortRxLater_image hc hp hh, if_neg hq]

end Sys2Proof.Machine
end

section
/-! The dovetail's own traffic: heartbeats, lanes, pairing, key rolls, ECHO and field time (O52). -/

namespace Sys2Proof.Machine

/-! ## Frames that are not acted on (R53, R371) -/

section
variable {s : State} {w0 w1 : Word}

/-- R371: without a pairing or with fewer than two lanes nothing reaches DH. -/
theorem dhTake_deaf (h : dhHears s = false) (cls : Nat) (w0 w1 : Word) (f : State → State) : dhTake s cls w0 w1 f = s :=
  if_pos (by rw [h, Bool.not_false])

/-- R53: a frame whose first word has a refused tag is counted, and then dropped. -/
theorem dhTake_refused (hh : dhHears s = true) (h0 : dvTag (wtag w0) = false) (cls : Nat) (f : State → State) :
    dhTake s cls w0 w1 f = dvDrop (dhGot s cls) := by
  simp only [dhTake, hh, h0, Bool.not_true, Bool.false_and, Bool.false_eq_true, if_false, dhGot]

end

/-! The count of a frame leaves the epoch and the registers. -/

@[simp] theorem dh_epoch_dhGot (s : State) : (dhGot s 0).dh.epoch = s.dh.epoch := (rfl)
@[simp] theorem ioF_dfGot (s : State) (cls a lo w : Nat) : ioF (dfGot s cls) a lo w = ioF s a lo w := (rfl)

/-! ## Heartbeats, retransmission and lanes (R371, R379, R381, R383) -/

theorem exec_heartbeat_dh (w0 w1 : Word) (s : State) : exec (.heartbeat true w0 w1) s =
    .next (dhTake s 0 w0 w1 fun s => heartbeatDh s (pay w0) (pay w1)) := (rfl)
theorem exec_heartbeat_df (w0 w1 : Word) (s : State) : exec (.heartbeat false w0 w1) s =
    .next (dfTake s 0 w0 w1 fun s => heartbeatDf s (pay w0) (pay w1)) := (rfl)
theorem exec_heartbeatSend_dh (s : State) : exec (.heartbeatSend true) s =
    .next (if dvPaired s then { s with dh := heartbeatOut s.dh } else s) := (rfl)
theorem exec_heartbeatSend_df (s : State) : exec (.heartbeatSend false) s =
    .next (if s.field.paired then { s with df := heartbeatOut s.df } else s) := (rfl)
theorem exec_dhHeartbeatTimeout (s : State) : exec .dhHeartbeatTimeout s = .next (if dvPaired s then
    linkLostWaits (setCause (raise (lostBits.foldl readyClear (ioSetF (dhUnpair s) aDVSTAT 2 2 3)) 386) 2 true)
    else s) := (rfl)
theorem exec_dfHeartbeatTimeout (s : State) : exec .dfHeartbeatTimeout s =
    .next (if s.field.up && s.field.paired then dfUnpair (bypassShut (safeAll s) 3) else s) := (rfl)
theorem exec_retransmitTimeout_dh (cls : Fin 4) (s : State) : exec (.retransmitTimeout true cls) s =
    .next (if dvPaired s then retxCount s (outstanding s.dh cls.val) else s) := (rfl)
theorem exec_laneFailure_dh (lane : Fin 4) (s : State) : exec (.laneFailure true lane) s =
    .next (if s.alive && !s.dh.lanes.contains lane.val then
      laneSet { s with dh := { s.dh with lanes := lane.val :: s.dh.lanes } } 6 (setBits (ioF s aDVSTAT 6 4) lane.val 1 1)
    else s) := (rfl)
theorem exec_laneFailure_df (lane : Fin 4) (s : State) : exec (.laneFailure false lane) s =
    .next (if s.field.up && !s.df.lanes.contains lane.val then
      { s with df := { s.df with lanes := lane.val :: s.df.lanes } }
    else s) := (rfl)

/-- A lane fails that the list of failed lanes does not name yet. -/
theorem laneFails {up : Bool} {l : List Nat} {n : Nat} (hu : up = true) (h : n ∉ l) : (up && !l.contains n) = true := by
  rw [hu, Bool.true_and, List.contains_eq_mem, decide_eq_false h, Bool.not_false]

/-! ## Pairing (R376) -/

theorem exec_hello (w0 w1 : Word) (st : BitVec 3) (s : State) : exec (.hello w0 w1 st) s = execHello w0 w1 st s := (rfl)
theorem exec_helloRepeat (s : State) : exec .helloRepeat s = execHelloRepeat s := (rfl)
theorem exec_reply (w0 w1 : Word) (ok : Bool) (s : State) : exec (.reply w0 w1 ok) s = execReply w0 w1 ok s := (rfl)
theorem exec_confirm (ok : Bool) (rtt : BitVec 8) (s : State) : exec (.confirm ok rtt) s = execConfirm ok rtt s := (rfl)

section
variable {s : State} {w0 w1 : Word} {st : BitVec 3} {nf : Payload} {rtt : BitVec 8}

/-- R375: a HELLO under a pairing is a frame whose tag fails. -/
theorem execHello_paired (h : dvPaired s = true) (ha : s.alive = true) : execHello w0 w1 st s = .next (dhMacFail s) :=
  congrArg Host.Outcome.next ((if_pos h).trans (if_pos ha))

/-- The state in which the job under PAIRKEY that verifies a HELLO has ended. -/
def helloJudged (s : State) (st : BitVec 3) : State :=
  laneRetrain (cipherCount (ioSetB s aDVSTAT 1 true) s.carrier st.toNat)

section
variable (h : dvPaired s = false) (hr : pairReady s = true)
include h hr

theorem execHello_fails (hs : st ≠ 0) : execHello w0 w1 st s = .next (pairFail (helloJudged s st)) := by
  have hr' : ¬(!pairReady s) = true := by rw [hr]; exact Bool.false_ne_true
  exact congrArg Host.Outcome.next ((if_neg (Bool.eq_false_iff.mp h)).trans ((if_neg hr').trans (if_pos hs)))

/-- R376: a HELLO that verifies is answered with a nonce of DH's own. -/
theorem execHello_replies : execHello w0 w1 0 s = .next (
    let t := helloJudged s 0
    dhSend { bump t with
      dov := { t.dov with
        nf := BitVec.ofNat 36 (pay w1)
        nh := BitVec.ofNat 36 (freeVal t)
        replied := true
        freset := bitAt (pay w0) 4 } } ⟨0x02, natW 2, bitsW (BitVec.ofNat 36 (freeVal t)).toNat⟩) := by
  have hr' : ¬(!pairReady s) = true := by rw [hr]; exact Bool.false_ne_true
  exact congrArg Host.Outcome.next ((if_neg (Bool.eq_false_iff.mp h)).trans ((if_neg hr').trans (if_neg fun hn => hn rfl)))

end

/-- R376: DF says HELLO again with the nonce of its attempt. -/
theorem execHelloRepeat_again (hu : s.field.up = true) (hf : fsReady s = true) (hp : s.field.paired = false)
    (hn : s.field.nf = some nf) : execHelloRepeat s = .next { bump s with
      df := s.df.send ⟨0x02, natW (1 + 16 * s.field.freset.toNat + 256 * (freeVal s % 256)), bitsW nf.toNat⟩ } := by
  have hc : (s.field.up && fsReady s && !s.field.paired) = true := by rw [hu, hf, hp]; rfl
  rw [execHelloRepeat, if_pos hc]
  simp only [hn]

theorem execHelloRepeat_down (h : s.field.up = false) : execHelloRepeat s = .next s :=
  congrArg Host.Outcome.next (if_neg (by rw [h]; exact Bool.false_ne_true))

section
variable (hn : s.field.nf = some nf) (hu : s.field.up = true) (hp : s.field.paired = false) (hk : s.field.keyed = false)
include hn hu hp hk

theorem execReply_awaited (ok : Bool) : execReply w0 w1 ok s = .next (if ok then
    { s with
      field := { s.field with
        nh := BitVec.ofNat 36 (pay w1)
        keyed := true }
      df := { s.df with key := firstKey s nf (BitVec.ofNat 36 (pay w1)) }.send ⟨0x02, natW 3, bitsW 0⟩ }
    else pairFail s) := by
  have hc : ¬(!s.field.up || s.field.paired || s.field.keyed) = true := by rw [hu, hp, hk]; exact Bool.false_ne_true
  rw [execReply, hn]
  exact congrArg Host.Outcome.next (if_neg hc)

end

section
variable (ha : s.alive = true) (hr : s.dov.replied = true) (hk : s.field.keyed = true) (hp : dvPaired s = false)
  (h2 : 2 ≤ lanesUp s.dh) (h2' : 2 ≤ lanesUp s.df)
include ha hr hk hp h2 h2'

/-- R376: what ends an attempt that has both nonces and lanes in both directions. -/
theorem execConfirm_judged (ok : Bool) : execConfirm ok rtt s = .next (if ok then
      sendWake (dfPaired (setCause (readyUp (raise (pairedBits (bothKeyed (cipherCount s s.carrier 0)) rtt.toNat) 384) 44) 2
        false))
    else pairFail s) := by
  have hc : ¬(!(s.alive && s.dov.replied && s.field.keyed) || dvPaired s) = true := by
    rw [ha, hr, hk, hp]; exact Bool.false_ne_true
  have hl : ¬(!(decide (2 ≤ lanesUp s.dh) && decide (2 ≤ lanesUp s.df))) = true := by
    rw [decide_eq_true h2, decide_eq_true h2']; exact Bool.false_ne_true
  rw [execConfirm, if_neg hc, if_neg hl]
  cases ok with
  | false => exact congrArg Host.Outcome.next (if_pos rfl)
  | true => exact congrArg Host.Outcome.next (if_neg Bool.false_ne_true)

end
end

/-! ## Key rolls (R377) -/

theorem exec_keyRollStart (s : State) : exec .keyRollStart s =
    .next (if dvPaired s && !s.dov.rolling && decide (2 ^ 24 ≤ s.dh.sent + s.df.sent) then rollStart s else s) := (rfl)
theorem exec_rollRetry (s : State) : exec .rollRetry s = .next (if dvPaired s && s.dov.rolling then
    dhSend s ⟨0x02, natW (4 + 256 * s.dh.epoch), bitsW 0⟩ else s) := (rfl)
theorem exec_roll_dh (w0 w1 : Word) (s : State) : exec (.roll true w0 w1) s = .next (dhTake s 0 w0 w1 fun s =>
    if bits (pay w0) 8 28 = s.dh.epoch % 2 ^ 28 ∧ !s.dov.rolling then rollStart s else s) := (rfl)
theorem exec_roll_df (w0 w1 : Word) (s : State) : exec (.roll false w0 w1) s =
    .next (dfTake s 0 w0 w1 fun s => rollDf s (bits (pay w0) 8 28)) := (rfl)
theorem exec_rollack (w0 w1 : Word) (s : State) : exec (.rollack w0 w1) s = .next (dhTake s 0 w0 w1 fun s =>
    if s.dov.rolling ∧ bits (pay w0) 8 28 = s.dh.epoch % 2 ^ 28 then
      { s with
        dh := { s.dh with prevLeft := 64 }
        dov := { s.dov with rolling := false } }
    else s) := (rfl)

/-- A roll names the next epoch under the old key, and DH then sends under the next key. -/
theorem rollStart_eq (s : State) : rollStart s =
    let e := s.dh.send ⟨0x02, natW (4 + 256 * (s.dh.epoch + 1)), bitsW 0⟩
    { s with
      dh := { e with
        key := nextKey e.key e.epoch
        epoch := e.epoch + 1
        sent := 0 }
      dov := { s.dov with rolling := true } } := (rfl)

/-! ## ECHO, field time, and frames outside the catalogue (R329, R375, R382, R387) -/

theorem exec_echo_df (w0 w1 : Word) (s : State) : exec (.echo false w0 w1) s = .next (dfTake s 0 w0 w1 fun s =>
    if bitAt (pay w0) 35 then s else dfSend s ⟨0x03, natW (pay w0 % 2 ^ 35 + 2 ^ 35), w1⟩) := (rfl)
theorem exec_echo_dh (w0 w1 : Word) (s : State) : exec (.echo true w0 w1) s = execEcho true w0 w1 s := (rfl)
theorem exec_timeSync (w0 w1 : Word) (s : State) : exec (.timeSync w0 w1) s = .next (dfTake s 0 w0 w1 fun s =>
    modField s fun f => { f with
      time := BitVec.ofNat 36 (pay w0 + ioF s aDVRTT 0 8 / 2)
      rate := signed 36 (pay w1)
      synced := true }) := (rfl)
theorem exec_timeSyncSend (s : State) : exec .timeSyncSend s = .next (if dvPaired s then
    dhSend s ⟨0x04, mkW .time (tbLo s 0), mkW .int (pay (ioGet s aTDRATE))⟩ else s) := (rfl)
theorem exec_fieldTimeUnsync (s : State) : exec .fieldTimeUnsync s =
    .next (if s.field.up then modField s fun f => { f with synced := false } else s) := (rfl)
theorem exec_unknownFrame (atDH : Bool) (cls : Fin 4) (thr : Bool) (s : State) :
    exec (.unknownFrame atDH cls thr) s = execUnknownFrame atDH cls thr s := (rfl)

section
variable {s : State}

/-- R382: the reply to an ECHO goes to the core that sent its token. -/
theorem execEcho_returned {w0 w1 : Word} {p : Nat × Nat} (hR : DhReached s w0 w1) (h35 : bitAt (pay w0) 35 = true)
    (he : s.dov.echoes.find? (fun e => e.1 == pay w0 % 2 ^ 35) = some p) : execEcho true w0 w1 s =
      .next (coreRecv { dhGot s 0 with dov := { s.dov with echoes := s.dov.echoes.erase p } } p.2
        ⟨0x03, natW (pay w0 % 2 ^ 35 + 2 ^ 35), w1⟩) := by
  simp only [execEcho, dhTake_reached hR, h35, echoCore, dhGot_dov, he, if_true]

/-- R375: a frame outside the catalogue is counted and dropped. -/
theorem execUnknownFrame_dh (h : dhHears s = true) (cls : Fin 4) :
    execUnknownFrame true cls false s = .next (dvDrop (dhGot s cls.val)) := by
  simp only [execUnknownFrame, h, Bool.not_true, Bool.false_and, Bool.false_eq_true, if_false, if_true, dhGot]
theorem execUnknownFrame_df (h : dfHears s = true) (cls : Fin 4) :
    execUnknownFrame false cls false s = .next (dfDrop (dfGot s cls.val)) := by
  simp only [execUnknownFrame, h, Bool.not_true, Bool.false_and, Bool.false_eq_true, if_false, dfGot]
theorem execUnknownFrame_deaf (h : dhHears s = false) (cls : Fin 4) (thr : Bool) :
    execUnknownFrame true cls thr s = .next s := by
  simp only [execUnknownFrame, h, Bool.not_false, if_true]

end

/-- Settles O52: each command by the state of the pairing, and then what it does. -/
theorem dovetailLink : Obligations.DovetailLink := by
  unfold Obligations.DovetailLink
  intro s w0 w1 cls lane st thr rtt
  refine ⟨fun hR => ?_, fun hR => ?_, fun h => ?_, fun hh h0 => ?_, fun h => ?_, fun h => ?_, fun h => ?_, fun hu h => ?_,
    fun h => ?_, fun h => ?_, fun ha hl => ?_, fun hu hl => ?_, fun h ha => ?_, fun h hr => ⟨fun hs => ?_, fun hs => ?_⟩,
    fun nf hu hf hp hn => ?_, fun h => ⟨?_, ?_⟩, fun nf hn hu hp hk => ⟨?_, ?_⟩, fun ha hr hk hp h2 h2' => ⟨?_, ?_⟩,
    fun h => ⟨fun hr hn => ?_, fun hr => ⟨?_, ?_⟩⟩, fun hR => ?_, fun hR he => ?_, fun hR hr he => ?_, fun hR h35 => ?_,
    fun p hR h35 he => ?_, fun hR => ?_, fun h => ?_, fun hu => ?_, fun h => ?_, fun h => ?_, fun h => ?_⟩
  · rw [exec_heartbeat_dh, dhTake_reached hR]
  · rw [exec_heartbeat_df, dfTake_reached hR]
  · rw [exec_heartbeat_dh, dhTake_deaf h]
  · rw [exec_heartbeat_dh, dhTake_refused hh h0]
  · rw [exec_heartbeatSend_dh, if_pos h]
  · rw [exec_heartbeatSend_df, if_pos h]
  · rw [exec_dhHeartbeatTimeout, if_pos h]
  · rw [exec_dfHeartbeatTimeout, if_pos (by rw [hu, h, Bool.and_self])]
  · rw [exec_dhHeartbeatTimeout, exec_heartbeatSend_dh, exec_retransmitTimeout_dh, exec_rollRetry, exec_keyRollStart,
      exec_timeSyncSend]
    simp only [h, Bool.false_and, Bool.false_eq_true, if_false, and_self]
  · rw [exec_retransmitTimeout_dh, if_pos h]
    rfl
  · rw [exec_laneFailure_dh, if_pos (laneFails ha hl)]
  · rw [exec_laneFailure_df, if_pos (laneFails hu hl)]
  · rw [exec_hello, execHello_paired h ha]
  · rw [exec_hello, execHello_fails h hr hs]
    rfl
  · rw [exec_hello, hs, execHello_replies h hr]
    rfl
  · rw [exec_helloRepeat, execHelloRepeat_again hu hf hp hn]
  · rw [exec_helloRepeat, execHelloRepeat_down h]
  · rw [exec_fieldTimeUnsync, if_neg (Bool.eq_false_iff.mp h)]
  · rw [exec_reply, execReply_awaited hn hu hp hk, if_neg Bool.false_ne_true]
  · rw [exec_reply, execReply_awaited hn hu hp hk, if_pos rfl]
  · rw [exec_confirm, execConfirm_judged ha hr hk hp h2 h2', if_neg Bool.false_ne_true]
  · rw [exec_confirm, execConfirm_judged ha hr hk hp h2 h2', if_pos rfl]
  · rw [exec_keyRollStart, if_pos (by rw [h, hr, decide_eq_true hn]; rfl), rollStart_eq]
  · rw [exec_keyRollStart, if_neg (by rw [hr, Bool.not_true, Bool.and_false, Bool.false_and]; exact Bool.false_ne_true)]
  · rw [exec_rollRetry, if_pos (by rw [h, hr, Bool.and_self])]
  · rw [exec_roll_df, dfTake_reached hR]
  · rw [exec_roll_dh, dhTake_reached hR, dh_epoch_dhGot, if_neg fun hc => he hc.1]
  · rw [exec_rollack, dhTake_reached hR, dh_epoch_dhGot, dhGot_dov, if_pos ⟨hr, he⟩]
    rfl
  · rw [exec_echo_df, dfTake_reached hR, if_neg (Bool.eq_false_iff.mp h35)]
  · rw [exec_echo_dh, execEcho_returned hR h35 he]
  · rw [exec_timeSync, dfTake_reached hR, ioF_dfGot]
    rfl
  · rw [exec_timeSyncSend, if_pos h]
    rfl
  · rw [exec_fieldTimeUnsync, if_pos hu]
    rfl
  · rw [exec_unknownFrame, execUnknownFrame_dh h]
  · rw [exec_unknownFrame, execUnknownFrame_df h]
  · rw [exec_unknownFrame, execUnknownFrame_deaf h]

end Sys2Proof.Machine
end

section
/-! The channels of a field die by themselves (O54). -/

namespace Sys2Proof.Machine

/-! ## What happens on a field die out of reset -/

section
variable {s : State} {p : Bool} {f : State → State}

theorem fieldWhen_next (hu : s.field.up = true) (hp : p = true) : fieldWhen s p f = .next (f s) :=
  congrArg Host.Outcome.next (if_pos (by rw [hu, hp, Bool.and_self]))
theorem fieldWhen_not (hp : p = false) : fieldWhen s p f = .next s :=
  congrArg Host.Outcome.next (if_neg (by rw [hp, Bool.and_false]; exact Bool.false_ne_true))
theorem fieldWhen_down (hu : s.field.up = false) : fieldWhen s p f = .next s :=
  congrArg Host.Outcome.next (if_neg (by rw [hu, Bool.false_and]; exact Bool.false_ne_true))

end

/-- A bit of a field register as a number. -/
theorem fldF_bit (s : State) (f i : Nat) : fldF s f i 1 = (fldB s f i).toNat := by
  have h : fldF s f i 1 < 2 := bits_lt ..
  rw [fldB]
  interval_cases fldF s f i 1 <;> rfl

/-- A bit that is set is cleared, and the change reported. -/
theorem fldReport_clears {s : State} {f i : Nat} (h : fldB s f i = true) :
    fldReport s f i 1 0 = dfStatus (fldSetF s f i 1 0) f :=
  if_neg (by rw [fldF_bit, h]; decide)

/-! ## Edges and thresholds (R318, R319, R329) -/

theorem exec_channelEdge (u : Fin 64) (rising : Bool) (t : Payload) (s : State) : exec (.channelEdge u rising t) s =
    fieldWhen s (decide (1 ≤ chMode s u.val) && decide (chMode s u.val ≤ 4) && fldB s (fCHSTAT u.val) 0 != rising)
      fun s => edgeDo s u.val rising t.toNat := (rfl)
theorem exec_thresholdTrack (u : Fin 64) (mid : BitVec 14) (s : State) : exec (.thresholdTrack u mid) s =
    fieldWhen s true fun s => trackDo s u.val mid.toNat := (rfl)

section
variable {s : State} {u mid : Nat}

/-- R319: without a comparator no threshold moves. -/
theorem trackDo_off (h : chMode s u = 0 ∨ 4 < chMode s u) : trackDo s u mid = s := if_pos h

section
variable (h1 : 1 ≤ chMode s u) (h4 : chMode s u ≤ 4)
include h1 h4

/-- R319: a pinned threshold stands at TLO. -/
theorem trackDo_pinned (hp : fldB s (fCHTHR u) 32 = true) :
    trackDo s u mid = tcurPut s u (fldF s (fCHTHR u) 0 14) false := by
  have hm : ¬(chMode s u = 0 ∨ 4 < chMode s u) := by omega
  exact (if_neg hm).trans (if_pos hp)

/-- R319: a threshold that is not pinned makes one step towards the midpoint, clamped into its envelope to `goal`. -/
theorem trackDo_free {goal : Nat} (hp : fldB s (fCHTHR u) 32 = false)
    (hg : max (fldF s (fCHTHR u) 0 14) (min (fldF s (fCHTHR u) 14 14) mid) = goal) : trackDo s u mid =
      let n := if tcur s u < goal then tcur s u + 1 else if goal < tcur s u then tcur s u - 1 else tcur s u
      tcurPut s u n (decide (mid ≠ goal) && n == goal) := by
  have hm : ¬(chMode s u = 0 ∨ 4 < chMode s u) := by omega
  rw [← hg]
  exact (if_neg hm).trans (if_neg (Bool.eq_false_iff.mp hp))

/-- R319: the envelope holds the midpoint. -/
theorem trackDo_within (hp : fldB s (fCHTHR u) 32 = false) (hl : fldF s (fCHTHR u) 0 14 ≤ mid)
    (hh : mid ≤ fldF s (fCHTHR u) 14 14) : trackDo s u mid = tcurPut s u
      (if tcur s u < mid then tcur s u + 1 else if mid < tcur s u then tcur s u - 1 else tcur s u) false := by
  rw [trackDo_free h1 h4 hp (by omega : _ = mid), decide_eq_false (not_not_intro rfl)]
  rfl

/-- R319: the midpoint lies below the envelope, whose lower end the threshold has reached. -/
theorem trackDo_below (hp : fldB s (fCHTHR u) 32 = false) (hl : mid < fldF s (fCHTHR u) 0 14)
    (ht : tcur s u = fldF s (fCHTHR u) 0 14) : trackDo s u mid = tcurPut s u (tcur s u) true := by
  have hg : max (fldF s (fCHTHR u) 0 14) (min (fldF s (fCHTHR u) 14 14) mid) = tcur s u := by omega
  rw [trackDo_free h1 h4 hp hg, decide_eq_true (by omega)]
  simp only [Nat.lt_irrefl, if_false, BEq.rfl, Bool.and_self]

end
end

/-! ## Limits, heat and load shedding (R321, R322) -/

theorem exec_currentLimit (u : Fin 64) (s : State) : exec (.currentLimit u) s =
    fieldWhen s (chOutput s u.val && !fldB s (fCHSTAT u.val) 4 && !fldB s (fCHSTAT u.val) 6)
      fun s => chSet s u.val 3 1 1 := (rfl)
theorem exec_currentLimitEnd (u : Fin 64) (s : State) : exec (.currentLimitEnd u) s =
    fieldWhen s true fun s => chSet s u.val 3 1 0 := (rfl)
theorem exec_shortLatch (u : Fin 64) (s : State) : exec (.shortLatch u) s =
    fieldWhen s (fldB s (fCHSTAT u.val) 3) fun s => chSet s u.val 3 2 2 := (rfl)
theorem exec_shortRetry (u : Fin 64) (holds : Bool) (s : State) : exec (.shortRetry u holds) s =
    fieldWhen s (fldB s (fCHCFG u.val) 26 && holds) fun s => chSet s u.val 4 1 0 := (rfl)
theorem exec_thermalShutdown (u : Fin 64) (s : State) : exec (.thermalShutdown u) s =
    fieldWhen s (chOutput s u.val || chAnalogOut s u.val) fun s => chAfter (pay (fldGet s (fCHSTAT u.val)))
      (fldSetF (fldSetF s (fCHSTAT u.val) 3 1 0) (fCHSTAT u.val) 6 1 1) u.val := (rfl)
theorem exec_thermalRecover (u : Fin 64) (s : State) : exec (.thermalRecover u) s =
    fieldWhen s true fun s => chSet s u.val 6 1 0 := (rfl)
theorem exec_loadShed (s : State) : exec .loadShed s = execLoadShed s := (rfl)

section
variable {s : State}

/-- R322: outputs are shed from the highest channel downwards. -/
theorem shedNext_eq (s : State) :
    shedNext s = ((List.range 56).find? fun i => chOn s (63 - i)).map (63 - ·) := List.find?_map

/-- R322: the highest output that is on is the next to be shed. -/
theorem shedNext_highest {u : Nat} (h8 : 8 ≤ u) (h64 : u < 64) (hu : chOn s u = true)
    (hv : ∀ v < 64, u < v → chOn s v = false) : shedNext s = some u := by
  have hi : 63 - (63 - u) = u := by omega
  have hf : (List.range 56).find? (fun i => chOn s (63 - i)) = some (63 - u) := by
    rw [List.find?_range_eq_some, List.mem_range, hi]
    refine ⟨hu, by omega, fun j hj => ?_⟩
    rw [hv (63 - j) (by omega) (by omega), Bool.not_false]
  rw [shedNext_eq, hf, Option.map_some, hi]

/-- R322: U0 to U7 are never shed. -/
theorem shedNext_none (hv : ∀ v < 64, 8 ≤ v → chOn s v = false) : shedNext s = none := by
  rw [shedNext_eq, Option.map_eq_none_iff, List.find?_range_eq_none]
  intro i hi
  rw [hv (63 - i) (by omega) (by omega), Bool.not_false]

theorem execLoadShed_some {u : Nat} (hu : s.field.up = true) (h : shedNext s = some u) :
    execLoadShed s = .next (chSet s u 25 1 1) := by
  rw [execLoadShed, fieldWhen_next hu rfl, h]
theorem execLoadShed_none (hu : s.field.up = true) (h : shedNext s = none) : execLoadShed s = .next s := by
  rw [execLoadShed, fieldWhen_next hu rfl, h]

end

/-! ## Checks of outputs (R323) -/

theorem exec_mismatch (u : Fin 64) (s : State) : exec (.mismatch u) s =
    fieldWhen s (chOutput s u.val && !fldB s (fCHSTAT u.val) 3 && chDiffers s u.val) fun s => chSet s u.val 2 1 1 := (rfl)
theorem exec_openLoad (u : Fin 64) (s : State) : exec (.openLoad u) s =
    fieldWhen s ((chMode s u.val == 2 || chMode s u.val == 3) && !fldB s (fCHSTAT u.val) 1)
      fun s => chSet s u.val 5 1 1 := (rfl)
theorem exec_openLoadClear (u : Fin 64) (s : State) : exec (.openLoadClear u) s =
    fieldWhen s true fun s => chSet s u.val 5 1 0 := (rfl)

section
variable {s : State} {u : Nat}

theorem chOutput_lowSide (h : chMode s u = 3) : chOutput s u = true := by
  rw [chOutput, h]
  rfl

/-- The pad of a high-side or push-pull output follows the command. -/
theorem chDiffers_direct (hm : chMode s u ≠ 3) (h : fldB s (fCHSTAT u) 0 ≠ fldB s (fCHSTAT u) 1) : chDiffers s u = true := by
  rw [chDiffers, beq_false_of_ne hm, Bool.bne_false]
  exact bne_iff_ne.mpr h

/-- A low-side output that is on holds its pad low. -/
theorem chDiffers_lowSide (hm : chMode s u = 3) (h : fldB s (fCHSTAT u) 0 = fldB s (fCHSTAT u) 1) : chDiffers s u = true := by
  rw [chDiffers, hm, h]
  cases fldB s (fCHSTAT u) 1 <;> rfl

end

/-! ## Heartwood drivers (R331) -/

theorem exec_driverFault (h : Fin 8) (drvB : Bool) (s : State) : exec (.driverFault h drvB) s =
    fieldWhen s true fun s => driverFail s h.val drvB.toNat true := (rfl)
theorem exec_hwchSwitchDone (h : Fin 8) (s : State) : exec (.hwchSwitchDone h) s =
    fieldWhen s true fun s => switchEnd s h.val := (rfl)
theorem exec_standbyTest (h : Fin 8) (ok : Bool) (s : State) : exec (.standbyTest h ok) s =
    fieldWhen s (fldB s (fHWCH h.val) 2 && !ok)
      fun s => driverFail s h.val (1 - fldF s (fHWCH h.val) 0 1) false := (rfl)

section
variable {s : State} {h : Nat}

/-- Driver `b` of heartwood channel `h` is marked as failed. -/
def driverMarked (s : State) (h b : Nat) : State := fldSetF s (fHWCH h) (3 + b) 1 1

/-- R331: a driver that fails is marked and reported, and may start a switch. -/
theorem driverFail_marks (b : Nat) (auto : Bool) : driverFail s h b auto =
    let t := driverMarked s h b
    dfStatus (if auto && fldB t (fHWCH h) 1 && fldF t (fHWCH h) 0 1 == b && !fldB t (fHWCH h) (4 - b) then
      fldSetF (fldSetF t (fHWCH h) 0 1 (1 - b)) (fHWCH h) 5 1 1 else t) (fHWCH h) := (rfl)

/-- R331: a driver in use that fails is replaced by the other one, if that has not failed. -/
theorem driverFail_switches {b : Nat} (ha : fldB (driverMarked s h b) (fHWCH h) 1 = true)
    (hb : fldF (driverMarked s h b) (fHWCH h) 0 1 = b) (ho : fldB (driverMarked s h b) (fHWCH h) (4 - b) = false) :
    driverFail s h b true =
      dfStatus (fldSetF (fldSetF (driverMarked s h b) (fHWCH h) 0 1 (1 - b)) (fHWCH h) 5 1 1) (fHWCH h) := by
  rw [driverFail_marks]
  exact congrArg (dfStatus · (fHWCH h)) (if_pos (by simp [ha, hb, ho]))

/-- R331: no switch without AUTO, for a driver that is not in use, or with both failed. -/
theorem driverFail_stays {b : Nat} (hn : fldB (driverMarked s h b) (fHWCH h) 1 = false ∨
    fldF (driverMarked s h b) (fHWCH h) 0 1 ≠ b ∨ fldB (driverMarked s h b) (fHWCH h) (4 - b) = true) :
    driverFail s h b true = dfStatus (driverMarked s h b) (fHWCH h) := by
  rw [driverFail_marks]
  exact congrArg (dfStatus · (fHWCH h)) (if_neg (by rcases hn with hn | hn | hn <;> simp [hn]))

/-- R331: a driver that fails on test starts no switch. -/
theorem driverFail_tested (b : Nat) : driverFail s h b false = dfStatus (driverMarked s h b) (fHWCH h) := by
  rw [driverFail_marks]
  exact congrArg (dfStatus · (fHWCH h)) (if_neg Bool.false_ne_true)

theorem switchEnd_none (h5 : fldB s (fHWCH h) 5 = false) : switchEnd s h = s := if_pos (by rw [h5, Bool.not_false])

/-- R331: a switch under way ends, and STBY names the driver in use. -/
theorem switchEnd_done (h5 : fldB s (fHWCH h) 5 = true) : switchEnd s h =
    chSet (dfStatus (fldSetF s (fHWCH h) 5 1 0) (fHWCH h)) h 9 1 (fldF s (fHWCH h) 0 1) := by
  rw [switchEnd, if_neg (by rw [h5]; exact Bool.false_ne_true), fldReport_clears h5]

end

/-- Settles O54: each event by its condition on the channel, and then what it does. -/
theorem channelEvents : Obligations.ChannelEvents := by
  unfold Obligations.ChannelEvents
  intro s u h rising b at_ mid hu
  refine ⟨fun h1 h4 he => ?_, fun hc => ?_, fun hc => ?_, fun h1 h4 hp => ?_, fun h1 h4 hp hl hh => ?_,
    fun h1 h4 hp hl ht => ?_, fun ho h4 h6 => ?_, fun hc => ?_, ?_, fun hl => ?_, fun hl => ?_, fun ha => ?_, fun ha => ?_, ?_,
    fun hc => ?_, ?_, fun h8 hon hv => ?_, fun hv => ?_, fun ho hl hm hd => ?_, fun hm hl hd => ?_, fun hc => ?_,
    fun hm ho => ?_, fun hc => ?_, ?_, fun ha hb ho => ?_, fun hn => ?_, fun h5 => ?_, fun h5 => ?_, fun h2 => ?_,
    fun h2 => ?_, ?_⟩
  · rw [exec_channelEdge, fieldWhen_next hu (by simp [h1, h4, he])]
  · rw [exec_channelEdge, fieldWhen_not (by rcases hc with hc | hc | hc <;> simp [hc])]
  · rw [exec_thresholdTrack, fieldWhen_next hu rfl, trackDo_off hc]
  · rw [exec_thresholdTrack, fieldWhen_next hu rfl, trackDo_pinned h1 h4 hp]
  · rw [exec_thresholdTrack, fieldWhen_next hu rfl, trackDo_within h1 h4 hp hl hh]
  · rw [exec_thresholdTrack, fieldWhen_next hu rfl, trackDo_below h1 h4 hp hl ht]
  · rw [exec_currentLimit, fieldWhen_next hu (by rw [ho, h4, h6]; rfl)]
  · rw [exec_currentLimit, fieldWhen_not (by rcases hc with hc | hc | hc <;> simp [hc])]
  · rw [exec_currentLimitEnd, fieldWhen_next hu rfl]
  · rw [exec_shortLatch, fieldWhen_next hu hl]
  · rw [exec_shortLatch, fieldWhen_not hl]
  · rw [exec_shortRetry, fieldWhen_next hu (by rw [ha, Bool.and_self])]
  · rw [exec_shortRetry, fieldWhen_not (by rw [ha, Bool.false_and])]
  · rw [exec_shortRetry, fieldWhen_not (Bool.and_false _)]
  · rw [exec_thermalShutdown, fieldWhen_next hu ((Bool.or_eq_true _ _).mpr hc)]
  · rw [exec_thermalRecover, fieldWhen_next hu rfl]
  · rw [exec_loadShed, execLoadShed_some hu (shedNext_highest h8 u.isLt hon hv)]
  · rw [exec_loadShed, execLoadShed_none hu (shedNext_none hv)]
  · rw [exec_mismatch, fieldWhen_next hu (by rw [ho, hl, chDiffers_direct hm hd]; rfl)]
  · rw [exec_mismatch, fieldWhen_next hu (by rw [chOutput_lowSide hm, hl, chDiffers_lowSide hm hd]; rfl)]
  · rw [exec_mismatch, fieldWhen_not (by rcases hc with hc | hc <;> simp [hc])]
  · rw [exec_openLoad, fieldWhen_next hu (by simp [hm, ho])]
  · rw [exec_openLoad, fieldWhen_not (by rcases hc with hc | hc <;> simp [hc])]
  · rw [exec_openLoadClear, fieldWhen_next hu rfl]
  · rw [exec_driverFault, fieldWhen_next hu rfl, driverFail_switches ha hb ho]
    rfl
  · rw [exec_driverFault, fieldWhen_next hu rfl, driverFail_stays hn]
    rfl
  · rw [exec_hwchSwitchDone, fieldWhen_next hu rfl, switchEnd_none h5]
  · rw [exec_hwchSwitchDone, fieldWhen_next hu rfl, switchEnd_done h5]
  · rw [exec_standbyTest, fieldWhen_next hu (by rw [h2]; rfl), driverFail_tested]
    rfl
  · rw [exec_standbyTest, fieldWhen_not (by rw [h2, Bool.false_and])]
  · rw [exec_standbyTest, fieldWhen_not (by rw [Bool.not_true, Bool.and_false])]

end Sys2Proof.Machine
end

section
/-! Measurement, supply, resets, self-tests, tamper and the one-time store of a field die (O55). -/

namespace Sys2Proof.Machine

/-! ## Measurement (R325, R326) -/

theorem exec_triggerPeriod (t : Fin 16) (s : State) : exec (.triggerPeriod t) s =
    fieldWhen s (fldF s (fTRIG t.val) 0 2 == 1) fun s => trigStart s t.val := (rfl)
theorem exec_conversionStart (x t : Fin 16) (s : State) : exec (.conversionStart x t) s =
    fieldWhen s true fun s => convStart s x.val t.val := (rfl)
theorem exec_conversionDone (x : Fin 16) (code : BitVec 18) (mid : Payload) (s : State) :
    exec (.conversionDone x code mid) s = fieldWhen s true fun s => convDo s x.val code.toInt mid.toNat := (rfl)

/-- The start of converter `x` that trigger `t` made due has been taken up. -/
def convTaken (s : State) (x t : Nat) : State := modField s fun f => { f with convDue := f.convDue.erase (x, t) }

section
variable {s : State} {x t : Nat}

/-- R326: no start is due. -/
theorem convStart_none (h : (x, t) ∉ s.field.convDue) : convStart s x t = s :=
  if_pos (by rw [List.contains_eq_mem, decide_eq_false h, Bool.not_false])

/-- R326: a due start overruns a list that runs, is lost while MX is not ready, and begins the list otherwise. -/
theorem convStart_due (h : (x, t) ∈ s.field.convDue) : convStart s x t =
    let r := convTaken s x t
    if fldB s (fXCFG x) 24 then fldReport r (fXCFG x) 25 1 1
    else if mxReady s then fldReport { r with
      field := { r.field with
        convIdx := tabSet 0 r.field.convIdx x 0
        convSum := tabSet (0, 0) r.field.convSum x (0, 0) } } (fXCFG x) 24 1 1
    else r :=
  if_neg (by rw [List.contains_eq_mem, decide_eq_true h]; exact Bool.false_ne_true)

/-- R325: a converter whose list does not run measures nothing. -/
theorem convDo_idle (h : fldB s (fXCFG x) 24 = false) (code : Int) (at_ : Nat) : convDo s x code at_ = s :=
  if_pos (by rw [h, Bool.not_false])

/-- R325: an average whose sum divides evenly is not a free choice. -/
theorem average_exact {sum : Int} {n : Nat} (h : sum % n = 0) : average s sum n = sum / n := if_pos h

section
variable {k : Nat} {sum code : Int} {at_ : Nat} (h : fldB s (fXCFG x) 24 = true)
  (hs : tabGet (0, 0) s.field.convSum x = (k, sum))
include h hs

/-- R325: a code joins those to be averaged, and the last of them makes the sample. -/
theorem convDo_running : convDo s x code at_ =
    let n := 2 ^ fldF s (fXCFG x) 20 3
    let e := tabGet 0 s.field.convIdx x
    if k + 1 < n then modField s fun f => { f with convSum := tabSet (0, 0) f.convSum x (k + 1, sum + code) }
    else scanNext (sampleDo (bump s) x e (average s (sum + code) n) at_) x e := by
  rw [convDo, if_neg (by rw [h]; exact Bool.false_ne_true), hs]

theorem convDo_gathers (hk : k + 1 < 2 ^ fldF s (fXCFG x) 20 3) : convDo s x code at_ = { s with
    field := { s.field with convSum := tabSet (0, 0) s.field.convSum x (k + 1, sum + code) } } :=
  (convDo_running h hs).trans (if_pos hk)

theorem convDo_samples (hk : 2 ^ fldF s (fXCFG x) 20 3 ≤ k + 1)
    (hd : (sum + code) % (2 ^ fldF s (fXCFG x) 20 3 : Nat) = 0) : convDo s x code at_ =
      let e := tabGet 0 s.field.convIdx x
      scanNext (sampleDo (bump s) x e ((sum + code) / (2 ^ fldF s (fXCFG x) 20 3 : Nat)) at_) x e := by
  rw [← average_exact (s := s) hd]
  exact (convDo_running h hs).trans (if_neg (Nat.not_lt.mpr hk))

end
end

/-! ## Supply (R342) -/

theorem exec_fsWatchdog (s : State) : exec .fsWatchdog s = fieldWhen s true fun s =>
    modField (dfUnpair (bypassShut (safeAll s) 4)) fun f => { f with waitFault := some 3 } := (rfl)
theorem exec_fieldSupplyUp (s : State) : exec .fieldSupplyUp s = .next (if s.field.up then s
    else supReport (fldSetF (fldSetF (fldSetF (modField s fun f => { f with up := true }) 2 0 8 0xFF) 2 9 1 1) fSUPSTAT 20 1 1)
      1600) := (rfl)
theorem exec_supplyUvEnter (v : BitVec 16) (s : State) : exec (.supplyUvEnter v) s =
    fieldWhen s (!fldB s fSUPSTAT 17) fun s =>
      dfFault (supReport (bypassShut (safeAll (fldSetF s fSUPSTAT 17 1 1)) 1) v.toNat) 1 none := (rfl)
theorem exec_supplyUvExit (v : BitVec 16) (s : State) : exec (.supplyUvExit v) s =
    fieldWhen s (fldB s fSUPSTAT 17) fun s => supReport (fldSetF s fSUPSTAT 17 1 0) v.toNat := (rfl)
theorem exec_supplyOv (v : BitVec 16) (s : State) : exec (.supplyOv v) s =
    fieldWhen s true fun s => supReport (fldSetF s fSUPSTAT 18 1 1) v.toNat := (rfl)
theorem exec_ovlongEnter (s : State) : exec .ovlongEnter s =
    fieldWhen s (fldB s fSUPSTAT 18 && !fldB s fSUPSTAT 19) fun s =>
      dfFault (supReport (safeAll (fldSetF s fSUPSTAT 19 1 1)) (fldF s fSUPSTAT 0 16)) 2 none := (rfl)
theorem exec_ovlongExit (v : BitVec 16) (s : State) : exec (.ovlongExit v) s =
    fieldWhen s (fldB s fSUPSTAT 18) fun s => supReport (fldSetF s fSUPSTAT 18 2 0) v.toNat := (rfl)
theorem exec_supplyUvw (v : BitVec 16) (s : State) : exec (.supplyUvw v) s =
    fieldWhen s true fun s => supReport s v.toNat := (rfl)

theorem supReport_eq (s : State) (v : Nat) : supReport s v = supplyReads s v := by
  have h : (decide (v < fldF s fSUPCFG 0 14)).toNat = if v < fldF s fSUPCFG 0 14 then 1 else 0 := by
    rw [Bool.toNat, Bool.cond_decide]
  rw [supReport, supplyReads, h]

/-! ## Resets (R342, R482) -/

theorem exec_fieldSupplyLoss (s : State) : exec .fieldSupplyLoss s = .next (fieldReset s false) := (rfl)
theorem exec_frstN (s : State) : exec .frstN s = .next (fieldReset s true) := (rfl)

theorem fldKept_unpowered (s : State) : fldKept false s = s.fld.filter fun p => p.1 == fEPOCH := by
  simp only [fldKept, Bool.false_and, Bool.or_false]
theorem fldKept_powered (s : State) : fldKept true s = s.fld.filter fun p => p.1 == fEPOCH || p.1 == fFTAMPSTAT := (rfl)

/-! ## Tamper, self-tests and provisioning (R482, R483, R521, R566) -/

theorem exec_fieldTamper (k : FieldCause) (s : State) : exec (.fieldTamper k) s = fieldWhen s true fun s =>
    dfUnpair (bypassShut (safeAll (fldSetF (fldSetF s fFTAMPSTAT (causeBit k) 1 1) fFTAMPSTAT 4 1 1)) 6) := (rfl)
theorem exec_fieldTemperatureWarning (s : State) : exec .fieldTemperatureWarning s = fieldWhen s true fun s =>
    dfStatus (fldSetF s fFTAMPSTAT 5 1 (1 - fldF s fFTAMPSTAT 5 1)) fFTAMPSTAT := (rfl)
theorem exec_fieldSelfTestDone (u : FieldUnit) (pass : Bool) (s : State) : exec (.fieldSelfTestDone u pass) s =
    fieldWhen s (fsReady s && !fldB s (unitPlace u).1 (unitPlace u).2.1 && !s.field.failed.contains (unitPlace u).2.2)
      fun s => if pass then dfStatus (fldSetF s (unitPlace u).1 (unitPlace u).2.1 1 1) (unitPlace u).1
        else dfFault (modField (bump s) fun x => { x with failed := (unitPlace u).2.2 :: x.failed }) (freeVal s % 256)
          (unitNo u) := (rfl)
theorem exec_otpProvisioning (a : Nat) (w : BitVec 64) (s : State) : exec (.otpProvisioning a w) s =
    .next (if (tabGet none s.field.otp Config.otpLockRow).isSome || (tabGet none s.field.otp a).isSome then s
      else modField s fun f => { f with otp := tabSet none f.otp a (some w) }) := (rfl)

/-- A toggled bit. -/
theorem fldF_toggled (s : State) (f i : Nat) : 1 - fldF s f i 1 = if fldB s f i then 0 else 1 := by
  rw [fldF_bit]
  cases fldB s f i <;> rfl

/-- R483: a unit under test is one that is neither ready nor failed, once FS is ready. -/
theorem unitTested {r b : Bool} {l : List Nat} {n : Nat} (hr : r = true) (hb : b = false) (hn : n ∉ l) :
    (r && !b && !l.contains n) = true := by
  rw [hr, hb, List.contains_eq_mem, decide_eq_false hn]
  rfl
theorem not_unitTested {r b : Bool} {l : List Nat} {n : Nat} (h : r = false ∨ b = true ∨ n ∈ l) :
    (r && !b && !l.contains n) = false := by
  rcases h with h | h | h <;> simp [h]

/-- Settles O55: each event by its condition on the die, and then what it does. -/
theorem fieldEvents : Obligations.FieldEvents := by
  unfold Obligations.FieldEvents
  intro s t x code mid v k u a w
  refine ⟨fun hu => ⟨fun h => ?_, fun h => ?_, fun h => ?_, fun h => ⟨fun hb => ?_, fun hb hm => ?_, fun hb hm => ?_⟩,
      fun hb => ?_, fun n sum hb hs hk => ?_, fun n sum hb hs hk hd => ?_, ?_, ?_, fun h => ?_, fun h => ?_,
      fun h => ⟨?_, ?_⟩, ?_, fun h h' => ?_, fun h => ⟨?_, ?_⟩, fun h => ?_, ?_, ?_, ?_,
      fun hf hb hn => ⟨?_, ?_⟩, fun h => ⟨?_, ?_⟩⟩,
    fun hu => ⟨?_, ?_, ?_, ?_⟩, ⟨?_, ?_⟩, fun hl ha => ?_, fun h => ?_⟩
  · rw [exec_triggerPeriod, fieldWhen_next hu (beq_iff_eq.mpr h)]
  · rw [exec_triggerPeriod, fieldWhen_not (beq_false_of_ne h)]
  · rw [exec_conversionStart, fieldWhen_next hu rfl, convStart_none h]
  · rw [exec_conversionStart, fieldWhen_next hu rfl, convStart_due h]
    exact congrArg Host.Outcome.next (if_pos hb)
  · rw [exec_conversionStart, fieldWhen_next hu rfl, convStart_due h]
    exact congrArg Host.Outcome.next ((if_neg (Bool.eq_false_iff.mp hb)).trans (if_neg (Bool.eq_false_iff.mp hm)))
  · rw [exec_conversionStart, fieldWhen_next hu rfl, convStart_due h]
    exact congrArg Host.Outcome.next ((if_neg (Bool.eq_false_iff.mp hb)).trans (if_pos hm))
  · rw [exec_conversionDone, fieldWhen_next hu rfl, convDo_idle hb]
  · rw [exec_conversionDone, fieldWhen_next hu rfl, convDo_gathers hb hs hk]
  · rw [exec_conversionDone, fieldWhen_next hu rfl, convDo_samples hb hs hk hd]
  · rw [exec_fsWatchdog, fieldWhen_next hu rfl]
  · rw [exec_fieldSupplyUp, if_pos hu]
  · rw [exec_supplyUvEnter, fieldWhen_next hu (by rw [h, Bool.not_false]), supReport_eq]
  · rw [exec_supplyUvExit, fieldWhen_not h]
  · rw [exec_supplyUvEnter, fieldWhen_not (by rw [h, Bool.not_true])]
  · rw [exec_supplyUvExit, fieldWhen_next hu h, supReport_eq]
  · rw [exec_supplyOv, fieldWhen_next hu rfl, supReport_eq]
  · rw [exec_ovlongEnter, fieldWhen_next hu (by rw [h, h']; rfl), supReport_eq]
  · rw [exec_ovlongEnter, fieldWhen_not (by rw [h, Bool.false_and])]
  · rw [exec_ovlongExit, fieldWhen_not h]
  · rw [exec_ovlongExit, fieldWhen_next hu h, supReport_eq]
  · rw [exec_supplyUvw, fieldWhen_next hu rfl, supReport_eq]
  · rw [exec_fieldTamper, fieldWhen_next hu rfl]
    cases k <;> rfl
  · rw [exec_fieldTemperatureWarning, fieldWhen_next hu rfl, fldF_toggled]
  · rw [exec_fieldSelfTestDone, fieldWhen_next hu (unitTested hf hb hn), if_pos rfl]
  · rw [exec_fieldSelfTestDone, fieldWhen_next hu (unitTested hf hb hn), if_neg Bool.false_ne_true]
  · rw [exec_fieldSelfTestDone, fieldWhen_not (not_unitTested h)]
  · rw [exec_fieldSelfTestDone, fieldWhen_not (not_unitTested h)]
  · rw [exec_supplyOv, fieldWhen_down hu]
  · rw [exec_fieldTamper, fieldWhen_down hu]
  · rw [exec_fsWatchdog, fieldWhen_down hu]
  · rw [exec_fieldSupplyUp, if_neg (Bool.eq_false_iff.mp hu), supReport_eq]
    rfl
  · rw [exec_fieldSupplyLoss, fieldReset, fldKept_unpowered]
  · rw [exec_frstN, fieldReset, fldKept_powered]
  · rw [exec_otpProvisioning, hl, ha, if_neg (by decide)]
    rfl
  · obtain ⟨b, hb⟩ := h
    rw [exec_otpProvisioning, if_pos (by rcases hb with hb | hb <;> simp [hb])]

end Sys2Proof.Machine
end

section
/-! The queue of commands (O29, O34). -/

namespace Sys2Proof.Machine

/-- Settles O29: a step on a queue takes its first command off. -/
theorem stepRunsFrontCommand : Obligations.StepRunsFrontCommand := fun _ _ _ => step_cons rfl

/-- Settles O34: what every command keeps, the queue among it. -/
theorem queueUntouched : Obligations.QueueUntouched := fun _ s _ e => (keeps_exec e (Keeps.refl s)).1

end Sys2Proof.Machine
end

section
/-! BR, HOLD and SHIFT of the jigs, and what is common to all their instructions (O56). -/

namespace Sys2Proof.Machine

/-! ## The frame of an instruction (R346, R361, R365) -/

section
variable {s : State} {j i : Nat} {inj : Bool}

theorem jigNext_runs (h : JigRuns s j i inj) : jigNext s j = some (i, inj) := by
  obtain ⟨-, hst, h⟩ := h
  cases inj with
  | true =>
    obtain ⟨w, hw, hi⟩ := h
    simp only [jigNext, hst, hw, hi, Bool.false_eq_true, if_false]
  | false =>
    obtain ⟨hw, hr, hpc, hi⟩ := h
    simp only [jigNext, hst, hw, hr, hpc, hi, Bool.false_eq_true, if_false, if_true]

/-- A fetch at a place of the store is no fault, and an injected instruction is not fetched. -/
theorem fetch_within (h : JigRuns s j i inj) : (!inj && decide (48 ≤ (jigOf s j).pc)) = false := by
  obtain ⟨-, -, h⟩ := h
  cases inj with
  | true => rfl
  | false =>
    obtain ⟨-, -, hpc, -⟩ := h
    exact decide_eq_false (Nat.not_le.mpr hpc)

theorem setJig_jigLatch (h : JigRuns s j i inj) : setJig s j (jigLatch (jigOf s j) i inj) = jigFetched s j i inj := by
  obtain ⟨-, -, h⟩ := h
  cases inj with
  | true => rfl
  | false =>
    obtain ⟨-, -, hpc, -⟩ := h
    have : ((jigOf s j).pc + 1) % 64 = (jigOf s j).pc + 1 := Nat.mod_eq_of_lt (by omega)
    simp only [jigLatch, jigFetched, this, Bool.false_eq_true, if_false]

section
variable {p : Nat → Bool} {rx : Option Nat} {body : State → Nat → Nat → Except Nat State}

theorem jigDo_runs (h : JigRuns s j i inj) (hp : p i = true) : jigDo s j rx p body =
    match body (jigFetched s j i inj) i (pinsNow s j rx) with
    | .ok t => jigCycle s j rx t
    | .error n => jigBad s j n inj := by
  simp only [jigDo, h.1, jigNext_runs h, fetch_within h, hp, setJig_jigLatch h, Bool.not_true, Bool.false_eq_true, if_false,
    if_true]
  rfl

/-- A row whose instruction does its work. -/
theorem jigRow_ok {o : Host.Outcome State Fault Refusal} {t : State} (e : o = .next (jigDo s j rx p body))
    (h : JigRuns s j i inj) (hp : p i = true) (hb : body (jigFetched s j i inj) i (pinsNow s j rx) = .ok t) :
    o = .next (jigCycle s j rx t) := by
  rw [e, jigDo_runs h hp, hb]

/-- R361: a row whose instruction is a fault, which takes its place. -/
theorem jigRow_bad {o : Host.Outcome State Fault Refusal} {n : Nat} (e : o = .next (jigDo s j rx p body))
    (h : JigRuns s j i inj) (hp : p i = true) (hb : body (jigFetched s j i inj) i (pinsNow s j rx) = .error n) :
    o = .next (jigBad s j n inj) := by
  rw [e, jigDo_runs h hp, hb]

/-- A jig that is halted without an injection runs nothing. -/
theorem jigDo_halted (hs : (jigOf s j).stall = false) (hi : (jigOf s j).inj = none) (hr : (jigOf s j).run = false) :
    jigDo s j rx p body = s := by
  simp only [jigDo, jigNext, hs, hi, hr, Bool.false_eq_true, if_false, ite_self]

end

section
variable {p : Nat → Bool} {rx : Option Nat} {body : State → Nat → Nat → State}

/-- A row that goes on with the instruction that the jig stalls in. -/
theorem jigAgain_stalls {o : Host.Outcome State Fault Refusal} {t : State} (e : o = .next (jigAgain s j rx p body))
    (h : JigStalls s j i) (hp : p i = true) (hb : body s i (pinsNow s j rx) = t) : o = .next (jigCycle s j rx t) := by
  obtain ⟨hu, hst, hl⟩ := h
  simp only [e, jigAgain, hu, hst, hl, hp, hb, Bool.and_self, if_true]
  rfl

/-- A row of another instruction than the one that the jig stalls in. -/
theorem jigAgain_other {o : Host.Outcome State Fault Refusal} (e : o = .next (jigAgain s j rx p body))
    (h : JigStalls s j i) (hp : p i = false) : o = .next s := by
  obtain ⟨-, -, hl⟩ := h
  exact e.trans (congrArg Host.Outcome.next (if_neg (by rw [hl, hp, Bool.and_false]; exact Bool.false_ne_true)))

end
end

/-! ## BR (R350) -/

section
variable {s : State} {j : Fin 32} {rx : BitVec 4} {i : Nat} {inj : Bool}

theorem jigCond_reserved {c now : Nat} (j : Nat) (h : 22 ≤ c) : jigCond s j c now = none := by
  simp only [jigCond, show c ≠ 0 by omega, show c ≠ 1 by omega, show c ≠ 2 by omega, show c ≠ 3 by omega,
    show ¬c < 12 by omega, show c ≠ 12 by omega, show c ≠ 13 by omega, show c ≠ 14 by omega, show c ≠ 15 by omega,
    show c ≠ 16 by omega, show ¬c < 21 by omega, show c ≠ 21 by omega, if_false]

theorem jigBrDo_taken {now : Nat} {b : Bool} {j : Nat} (h : jigCond s j (bits i 6 5) now = some b) (hb : b ≠ bitAt i 5) :
    jigBrDo s j i now = .ok (setJig s j { jigOf s j with pc := bits i 11 6 }) := by
  simp only [jigBrDo, h, if_pos (bne_iff_ne.mpr hb)]
  rfl

theorem jigBrDo_passed {now : Nat} {b : Bool} {j : Nat} (h : jigCond s j (bits i 6 5) now = some b) (hb : b = bitAt i 5) :
    jigBrDo s j i now = .ok s := by
  simp only [jigBrDo, h, hb, bne_self_eq_false, Bool.false_eq_true, if_false]

theorem jigBrDo_reserved {now j : Nat} (h : 22 ≤ bits i 6 5) : jigBrDo s j i now = .error 2 := by
  rw [jigBrDo, jigCond_reserved j h]

/-- The row JIG_BR runs BR and the reserved types, at places of the store. -/
def brBody (j : Nat) (s : State) (i now : Nat) : Except Nat State :=
  if jType i = 0 then jigBrDo s j i now else .error 2

theorem exec_jigBr : exec (.jigBr j rx) s =
    .next (if s.field.up && !(jigOf s j.val).stall && (jigOf s j.val).inj.isNone && (jigOf s j.val).run &&
      decide (48 ≤ (jigOf s j.val).pc) then jigReport s (jigFault s j.val 1) j.val
    else jigDo s j.val (some rx.toNat) (fun i => jType i == 0 || decide (10 ≤ jType i)) (brBody j.val)) := (rfl)

theorem exec_jigBr_runs (h : JigRuns s j.val i inj) : exec (.jigBr j rx) s =
    .next (jigDo s j.val (some rx.toNat) (fun i => jType i == 0 || decide (10 ≤ jType i)) (brBody j.val)) := by
  refine congrArg Host.Outcome.next (if_neg ?_)
  obtain ⟨-, -, h⟩ := h
  cases inj with
  | true =>
    obtain ⟨w, hw, -⟩ := h
    simp [hw]
  | false =>
    obtain ⟨-, -, hpc, -⟩ := h
    simp only [decide_eq_false (Nat.not_le.mpr hpc), Bool.and_false, Bool.false_eq_true, not_false_eq_true]

theorem brBody_br {now j : Nat} (h : jType i = 0) : brBody j s i now = jigBrDo s j i now := if_pos h
theorem brBody_reserved {now j : Nat} (h : 10 ≤ jType i) : brBody j s i now = .error 2 := if_neg (by omega)

/-- R350, R361: a fetch above 47 is FAULT 1. -/
theorem exec_jigBr_above (hu : s.field.up = true) (hs : (jigOf s j.val).stall = false) (hi : (jigOf s j.val).inj = none)
    (hr : (jigOf s j.val).run = true) (hpc : 48 ≤ (jigOf s j.val).pc) :
    exec (.jigBr j rx) s = .next (jigReport s (jigHalted s j.val 1) j.val) :=
  congrArg Host.Outcome.next (if_pos (by simp [hu, hs, hi, hr, hpc]))

theorem exec_jigBr_halted (hs : (jigOf s j.val).stall = false) (hi : (jigOf s j.val).inj = none)
    (hr : (jigOf s j.val).run = false) : exec (.jigBr j rx) s = .next s := by
  simp only [exec_jigBr, hr, jigDo_halted hs hi hr, Bool.and_false, Bool.false_and, Bool.false_eq_true, if_false]

end

/-! ## HOLD (R351) and SHIFT (R352) -/

theorem exec_jigHold (j : Fin 32) (rx : BitVec 4) (s : State) : exec (.jigHold j rx) s =
    .next (jigDo s j.val (some rx.toNat) (fun i => jType i == 1) fun s i now =>
      if bits i 9 2 = 3 then .error 2
      else .ok (if holdMet s j.val i now then holdEnd s j.val i else setJig s j.val { jigOf s j.val with stall := true })) :=
  (rfl)
theorem exec_jigHoldEnd (j : Fin 32) (rx : BitVec 4) (s : State) : exec (.jigHoldEnd j rx) s =
    .next (jigAgain s j.val (some rx.toNat) (fun i => jType i == 1) fun s i now =>
      if bits i 14 3 = 4 ∨ holdMet s j.val i now = true then holdEnd s j.val i else s) := (rfl)
theorem exec_jigShift (j : Fin 32) (rx : BitVec 4) (s : State) : exec (.jigShift j rx) s =
    .next (jigDo s j.val (some rx.toNat) (fun i => jType i == 2) fun s i now =>
      if 39 < bits i 7 6 ∨ bits i 4 2 = 3 then .error 2
      else .ok (
        let u := setJig s j.val { jigOf s j.val with
          left := bits i 7 6 + 1
          stall := true
          lord := if bitAt i 16 then (jigOf s j.val).lord else bitAt i 3 }
        if bitAt i 6 then u else shiftDo u j.val i now)) := (rfl)
theorem exec_jigShiftBit (j : Fin 32) (rx : BitVec 4) (s : State) : exec (.jigShiftBit j rx) s =
    .next (jigAgain s j.val (some rx.toNat) (fun i => jType i == 2) fun s i now => shiftDo s j.val i now) := (rfl)

/-! ## A bit through the shifter (R352) -/

section
variable {g : Jig} {i : Nat} {pin : Bool}

/-- A bit as a word of the shifter. -/
theorem bit_toNat (b : Bool) : (if b then 1#40 else 0#40).toNat = b.toNat := by cases b <;> rfl

theorem bit_low_toNat (b : Bool) : ((if b then 1#40 else 0#40) <<< 39).toNat = b.toNat * 2 ^ 39 := by cases b <;> rfl

theorem ofNat_shifted_left (x : BitVec 40) (b : Bool) :
    BitVec.ofNat 40 (x.toNat * 2 % 2 ^ 40 + b.toNat) = (x <<< 1) ||| (if b then 1#40 else 0#40) := by
  apply BitVec.eq_of_toNat_eq
  have hb : b.toNat < 2 ^ 1 := by cases b <;> decide
  have hx : x.toNat * 2 % 2 ^ 40 = (x.toNat % 2 ^ 39) <<< 1 := by rw [Nat.shiftLeft_eq]; omega
  have hs : x.toNat <<< 1 % 2 ^ 40 = (x.toNat % 2 ^ 39) <<< 1 := by rw [Nat.shiftLeft_eq, Nat.shiftLeft_eq]; omega
  rw [BitVec.toNat_ofNat, BitVec.toNat_or, bit_toNat, BitVec.toNat_shiftLeft, hs, ← Nat.shiftLeft_add_eq_or_of_lt hb, hx,
    Nat.shiftLeft_eq]
  omega

theorem ofNat_shifted_right (x : BitVec 40) (b : Bool) :
    BitVec.ofNat 40 (x.toNat / 2 + b.toNat * 2 ^ 39) = (x >>> 1) ||| ((if b then 1#40 else 0#40) <<< 39) := by
  apply BitVec.eq_of_toNat_eq
  have hx : x.toNat / 2 < 2 ^ 39 := by omega
  have hb : b.toNat < 2 := by cases b <;> decide
  rw [BitVec.toNat_ofNat, BitVec.toNat_or, bit_low_toNat, BitVec.toNat_ushiftRight, Nat.shiftRight_eq_div_pow, Nat.pow_one,
    ← Nat.shiftLeft_eq, Nat.or_comm, ← Nat.shiftLeft_add_eq_or_of_lt hx, Nat.shiftLeft_eq]
  omega

theorem shiftJig_in_left (ho : bitAt i 16 = false) (hl : bitAt i 3 = false) :
    (shiftJig g i pin).1.shifter = (g.shifter <<< 1) ||| (if pin then 1#40 else 0#40) := by
  simp only [shiftJig, ho, hl, Bool.false_eq_true, if_false, ofNat_shifted_left]

theorem shiftJig_in_right (ho : bitAt i 16 = false) (hl : bitAt i 3 = true) :
    (shiftJig g i pin).1.shifter = (g.shifter >>> 1) ||| ((if pin then 1#40 else 0#40) <<< 39) := by
  simp only [shiftJig, ho, hl, Bool.false_eq_true, if_false, if_true, ofNat_shifted_right]

theorem shiftJig_out_left (ho : bitAt i 16 = true) (hl : bitAt i 3 = false) :
    (shiftJig g i pin).1.shifter = g.shifter <<< 1 ∧ (shiftJig g i pin).2 = g.shifter.getLsbD 39 := by
  have h := ofNat_shifted_left g.shifter false
  simp only [Bool.toNat_false, Bool.false_eq_true, if_false, BitVec.or_zero] at h
  simp only [shiftJig, ho, hl, Bool.false_eq_true, if_false, if_true, h, bitAt_eq_testBit, BitVec.getLsbD, and_self]

theorem shiftJig_out_right (ho : bitAt i 16 = true) (hl : bitAt i 3 = true) :
    (shiftJig g i pin).1.shifter = g.shifter >>> 1 ∧ (shiftJig g i pin).2 = g.shifter.getLsbD 0 := by
  have h := ofNat_shifted_right g.shifter false
  simp only [Bool.toNat_false, Nat.zero_mul, Bool.false_eq_true, if_false, BitVec.zero_shiftLeft, BitVec.or_zero] at h
  simp only [shiftJig, ho, hl, if_true, Nat.zero_mul, h, bitAt_eq_testBit, BitVec.getLsbD, and_self]

theorem satAt_eq_min (m n : Nat) : satAt m n = min m n := by unfold satAt; split <;> omega

theorem shiftJig_in_fill (ho : bitAt i 16 = false) : (shiftJig g i pin).1.fill = min 40 (g.fill + 1) := by
  simp only [shiftJig, ho, Bool.false_eq_true, if_false, satAt_eq_min]
theorem shiftJig_out_fill (ho : bitAt i 16 = true) : (shiftJig g i pin).1.fill = g.fill - 1 := by
  simp only [shiftJig, ho, if_true]

end

/-- Settles O56: each row by the type of the instruction and its fields, and the shifter by its four directions. -/
theorem jigControl : Obligations.JigControl := by
  unfold Obligations.JigControl
  refine ⟨fun s j rx i inj h => ?_, fun s j rx i h => ?_, fun s j rx hu hs hi => ?_, fun g i pin => ?_⟩
  · have hbr (hj : jType i = 0) : (jType i == 0 || decide (10 ≤ jType i)) = true := by rw [hj]; rfl
    refine ⟨fun hj => ⟨fun b hc hb => ?_, fun b hc hb => ?_, fun hc => ?_⟩, fun hj => ?_,
      fun hj => ⟨fun hr => ?_, fun hr hm => ?_, fun hr hm => ?_⟩,
      fun hj => ⟨fun hf => ?_, fun h39 h3 ht => ?_, fun h39 h3 ht => ?_⟩⟩
    · exact jigRow_ok (exec_jigBr_runs h) h (hbr hj) ((brBody_br hj).trans (jigBrDo_taken hc hb))
    · exact jigRow_ok (exec_jigBr_runs h) h (hbr hj) ((brBody_br hj).trans (jigBrDo_passed hc hb))
    · exact jigRow_bad (exec_jigBr_runs h) h (hbr hj) ((brBody_br hj).trans (jigBrDo_reserved hc))
    · exact jigRow_bad (exec_jigBr_runs h) h (by rw [decide_eq_true hj, Bool.or_true]) (brBody_reserved hj)
    · exact jigRow_bad (exec_jigHold ..) h (beq_iff_eq.mpr hj) (if_pos hr)
    · exact jigRow_ok (exec_jigHold ..) h (beq_iff_eq.mpr hj) ((if_neg hr).trans (congrArg Except.ok (if_pos hm)))
    · exact jigRow_ok (exec_jigHold ..) h (beq_iff_eq.mpr hj)
        ((if_neg hr).trans (congrArg Except.ok (if_neg (Bool.eq_false_iff.mp hm))))
    · exact jigRow_bad (exec_jigShift ..) h (beq_iff_eq.mpr hj) (if_pos hf)
    · exact jigRow_ok (exec_jigShift ..) h (beq_iff_eq.mpr hj)
        ((if_neg (by omega)).trans (congrArg Except.ok (if_pos ht)))
    · exact jigRow_ok (exec_jigShift ..) h (beq_iff_eq.mpr hj)
        ((if_neg (by omega)).trans (congrArg Except.ok (if_neg (Bool.eq_false_iff.mp ht))))
  · refine ⟨fun hj hm => ?_, fun hj h4 hm => ?_, fun hj => ?_, fun hj => ?_, fun hj => ?_⟩
    · exact jigAgain_stalls (exec_jigHoldEnd ..) h (beq_iff_eq.mpr hj) (if_pos hm)
    · exact jigAgain_stalls (exec_jigHoldEnd ..) h (beq_iff_eq.mpr hj)
        (if_neg (not_or.mpr ⟨h4, Bool.eq_false_iff.mp hm⟩))
    · exact jigAgain_stalls (exec_jigShiftBit ..) h (beq_iff_eq.mpr hj) rfl
    · exact jigAgain_other (exec_jigHoldEnd ..) h (beq_false_of_ne hj)
    · exact jigAgain_other (exec_jigShiftBit ..) h (beq_false_of_ne hj)
  · exact ⟨exec_jigBr_above hu hs hi, exec_jigBr_halted hs hi⟩
  · exact ⟨shiftJig_in_left, shiftJig_in_right, shiftJig_out_left, shiftJig_out_right, shiftJig_in_fill, shiftJig_out_fill⟩

end Sys2Proof.Machine
end

section
/-! SWAP, DRIVE, MARK and CRC of the jigs (O57). -/

namespace Sys2Proof.Machine

theorem jIs_op {t op i : Nat} (h : jIs t op i = true) : bits i 15 2 = op := by
  rw [jIs, Bool.and_eq_true, beq_iff_eq, beq_iff_eq] at h
  exact h.2

/-! ## SWAP (R353, R354) -/

/-- A SWAP in its first cycle. -/
def swapBody (j : Nat) (s : State) (i _now : Nat) : Except Nat State :=
  if swapBad i then .error 2 else .ok (swapDo s j i)

theorem exec_jigSwapOut (j : Fin 32) (s : State) : exec (.jigSwapOut j) s = .next (swapRow 0 s j.val) := (rfl)
theorem exec_jigSwapIn (j : Fin 32) (s : State) : exec (.jigSwapIn j) s = .next (swapRow 1 s j.val) := (rfl)
theorem exec_jigSwapExch (j : Fin 32) (s : State) : exec (.jigSwapExch j) s = .next (swapRow 2 s j.val) := (rfl)
theorem exec_jigSwapClear (j : Fin 32) (s : State) : exec (.jigSwapClear j) s = .next (swapRow 3 s j.val) := (rfl)

section
variable {s : State} {j i op : Nat} {inj : Bool}

theorem swapRow_runs (h : JigRuns s j i inj) (op : Nat) :
    swapRow op s j = jigDo s j none (jIs 3 op) (swapBody j) :=
  if_neg (Bool.eq_false_iff.mp h.2.1)

section
variable {o : Host.Outcome State Fault Refusal} (e : o = .next (swapRow op s j)) (h : JigRuns s j i inj)
  (hp : jIs 3 op i = true)
include e h hp

theorem swap_done {t : State} (hb : swapBad i = false) (hd : swapDo (jigFetched s j i inj) j i = t) :
    o = .next (jigCycle s j none t) := by
  rw [swapRow_runs h] at e
  exact jigRow_ok e h hp ((if_neg (Bool.eq_false_iff.mp hb)).trans (congrArg Except.ok hd))

theorem swap_bad (hb : swapBad i = true) : o = .next (jigBad s j 2 inj) := by
  rw [swapRow_runs h] at e
  exact jigRow_bad e h hp (if_pos hb)

end

theorem swapBad_out (h : bits i 15 2 = 0) : swapBad i = (bits i 13 2 == 3) := by
  simp only [swapBad, h, BEq.rfl, Bool.true_and, show (0 == 1) = false from rfl, show (0 == 2) = false from rfl,
    Bool.false_and, Bool.or_false]

/-- The OPs that read a word from the down queue name its ALIGN and FIN. -/
theorem swapBad_in (h : bits i 15 2 = 1 ∨ bits i 15 2 = 2) :
    swapBad i = (decide (2 ≤ bits i 13 2) || decide (40 < bits i 6 6)) := by
  rcases h with h | h <;> simp [swapBad, h]

theorem swapBad_clear (h : bits i 15 2 = 3) : swapBad i = false := by
  simp [swapBad, h]

/-- A SWAP whose queue is full or empty stalls. -/
theorem swapDo_waits (h : swapWaits (jigOf s j) (bits i 15 2) = true) :
    swapDo s j i = setJig s j { jigOf s j with stall := true } := if_pos h

theorem swapWaits_out (g : Jig) : swapWaits g 0 = decide (8 ≤ g.up.length) := by simp [swapWaits]
theorem swapWaits_in (g : Jig) : swapWaits g 1 = g.down.isEmpty := by simp [swapWaits]
theorem swapWaits_exch (g : Jig) : swapWaits g 2 = (decide (8 ≤ g.up.length) || g.down.isEmpty) := by simp [swapWaits]

theorem swapDo_out (h : bits i 15 2 = 0) (hu : (jigOf s j).up.length < 8) : swapDo s j i =
    setJig s j (if bitAt i 12
      then { jigOf s j with stall := false, up := (jigOf s j).up ++ [swapWord (jigOf s j) i] }
      else { jigOf s j with
        stall := false
        up := (jigOf s j).up ++ [swapWord (jigOf s j) i]
        shifter := 0#40
        fill := 0 }) := by
  have hw : ¬swapWaits (jigOf s j) 0 = true := by rw [swapWaits_out, decide_eq_true_eq]; omega
  simp only [swapDo, h, if_neg hw]
  rfl

theorem swapDo_in {w : Word} {l : List Word} (h : bits i 15 2 = 1) (hd : (jigOf s j).down = w :: l) : swapDo s j i =
    jigCredit (setJig s j { jigOf s j with
      stall := false
      shifter := BitVec.ofNat 40 (pay w * (if bits i 13 2 = 1 then 16 else 1))
      fill := bits i 6 6
      down := l }) j 1 := by
  have hw : ¬swapWaits (jigOf s j) 1 = true := by rw [swapWaits_in, hd]; exact Bool.false_ne_true
  simp only [swapDo, h, if_neg hw]
  simp only [jigSet, swapIn, hd]
  rfl

theorem swapDo_exch {w : Word} {l : List Word} (h : bits i 15 2 = 2) (hu : (jigOf s j).up.length < 8)
    (hd : (jigOf s j).down = w :: l) : swapDo s j i =
      jigCredit (setJig s j { jigOf s j with
        stall := false
        up := (jigOf s j).up ++ [swapWord (jigOf s j) i]
        shifter := BitVec.ofNat 40 (pay w * (if bits i 13 2 = 1 then 16 else 1))
        fill := bits i 6 6
        down := l }) j 1 := by
  have hw : ¬swapWaits (jigOf s j) 2 = true := by
    rw [swapWaits_exch, hd, Bool.or_eq_true, decide_eq_true_eq]
    exact not_or.mpr ⟨by omega, Bool.false_ne_true⟩
  simp only [swapDo, h, if_neg hw]
  simp only [jigSet, swapIn, swapOut, hd]
  rfl

theorem swapDo_clear (h : bits i 15 2 = 3) : swapDo s j i = setJig s j { jigOf s j with
    stall := false
    shifter := 0#40
    fill := 0 } := by
  have hw : ¬swapWaits (jigOf s j) 3 = true := Bool.false_ne_true
  simp only [swapDo, h, if_neg hw]
  rfl

end

/-! ## DRIVE (R355) and MARK (R357) -/

theorem exec_jigDriveLevels (j : Fin 32) (s : State) : exec (.jigDriveLevels j) s =
    .next (jigDo s j.val none (fun i => jType i == 4 && !bitAt i 16) fun s i _ => .ok (jigFollow (setJig s j.val
      { jigOf s j.val with levels := merge8 (jigOf s j.val).levels (bits i 8 8) (bits i 0 8) }) j.val)) := (rfl)
theorem exec_jigDriveDirections (j : Fin 32) (s : State) : exec (.jigDriveDirections j) s =
    .next (jigDo s j.val none (fun i => jType i == 4 && bitAt i 16) fun s i _ =>
      if (bitList 8 (bits i 8 8 &&& bits i 0 8)).any
        fun p => !(bitAt (jpin s j.val p) 7 && bitAt (jpin s j.val p) 8) then .error 3
      else .ok ((bitList 8 (bits i 8 8)).foldl (fun s p => dfStatus s (fJPIN j.val p)) (jigFollow (setJig s j.val
        { jigOf s j.val with dirs := merge8 (jigOf s j.val).dirs (bits i 8 8) (bits i 0 8) }) j.val))) := (rfl)
theorem exec_jigMark (j : Fin 32) (stamp : Payload) (s : State) : exec (.jigMark j stamp) s =
    .next (if (jigOf s j.val).stall then jigAgain s j.val none (fun i => jType i == 6) fun s i _ => markDo s j.val i
      else jigDo s j.val none (fun i => jType i == 6) fun s i _ =>
        .ok (markDo (setJig s j.val { jigOf s j.val with markAt := stamp }) j.val i)) := (rfl)

/-- R355: some slot cannot be an output. -/
theorem drives_any_iff (s : State) (j : Nat) (l : List Nat) :
    (l.any fun p => !(bitAt (jpin s j p) 7 && bitAt (jpin s j p) 8)) = true ↔
      ∃ p ∈ l, bitAt (jpin s j p) 7 = false ∨ bitAt (jpin s j p) 8 = false := by
  simp only [List.any_eq_true, Bool.not_eq_true', Bool.and_eq_false_iff]

section
variable {s : State} {j i : Nat}

theorem markDo_waits (h : 8 ≤ (jigOf s j).up.length) : markDo s j i = setJig s j { jigOf s j with stall := true } :=
  if_pos h

theorem markDo_pushes (h : (jigOf s j).up.length < 8) : markDo s j i = setJig (bump s) j { jigOf s j with
    stall := false
    up := (jigOf s j).up ++ [markWord s j i]
    unsync := (jigOf s j).unsync || !s.field.synced } := if_neg (Nat.not_le.mpr h)

/-- R357: without SRC the word holds the time of the first cycle. -/
theorem markWord_now (h : bitAt i 16 = false) : markWord s j i = mkW .time (jigOf s j).markAt.toNat :=
  congrArg (mkW .time) (if_neg (Bool.eq_false_iff.mp h))

end

theorem exec_jigMark_runs {s : State} {j : Fin 32} {i : Nat} {inj : Bool} (h : JigRuns s j.val i inj) (stamp : Payload) :
    exec (.jigMark j stamp) s = .next (jigDo s j.val none (fun i => jType i == 6) fun s i _ =>
      .ok (markDo (setJig s j.val { jigOf s j.val with markAt := stamp }) j.val i)) :=
  (exec_jigMark j stamp s).trans (congrArg Host.Outcome.next (if_neg (Bool.eq_false_iff.mp h.2.1)))

/-! ## CRC (R360) -/

theorem exec_jigCrcInit (j : Fin 32) (s : State) : exec (.jigCrcInit j) s =
    .next (jigDo s j.val none (jCrc 0) fun s i _ =>
      match crcPoly (bits i 13 4) with
      | none => .error 2
      | some p => .ok (setJig s j.val { jigOf s j.val with
          crc := if bitAt i 10 then 2 ^ p.1 - 1 else 0
          poly := bits i 13 4 })) := (rfl)
theorem exec_jigCrcArm (j : Fin 32) (s : State) : exec (.jigCrcArm j) s =
    .next (jigDo s j.val none (jCrc 1) fun s _ _ => .ok (setJig s j.val { jigOf s j.val with armed := true })) := (rfl)
theorem exec_jigCrcDisarm (j : Fin 32) (s : State) : exec (.jigCrcDisarm j) s =
    .next (jigDo s j.val none (jCrc 2) fun s _ _ => .ok (setJig s j.val { jigOf s j.val with armed := false })) := (rfl)
theorem exec_jigCrcCopy (j : Fin 32) (s : State) : exec (.jigCrcCopy j) s =
    .next (jigDo s j.val none (jCrc 3) fun s i _ => .ok (setJig s j.val { jigOf s j.val with
      shifter := BitVec.ofNat 40 ((jigOf s j.val).crc * (if bitAt i 9 then 2 ^ (40 - jigCrcW (jigOf s j.val)) else 1))
      fill := jigCrcW (jigOf s j.val) })) := (rfl)

/-- R143: the polynomials are those of the numbers 0 to 8. -/
theorem crcPoly_reserved {n : Nat} (h : 8 < n) : crcPoly n = none := by
  match n with
  | n + 9 => rfl

theorem jigCrcW_some {g : Jig} {w p : Nat} (h : crcPoly g.poly = some (w, p)) : jigCrcW g = w := by
  rw [jigCrcW, h]

/-- Settles O57: each row by the OP of its instruction, the queues that the instruction needs, and its faults. -/
theorem jigInstructions : Obligations.JigInstructions := by
  unfold Obligations.JigInstructions
  intro s j i inj stamp h t g fin bad place
  refine ⟨fun hj => ⟨fun ha => ?_, fun ha hu => ?_, fun ha hu => ?_⟩,
    fun hj => ⟨fun ha => ?_, fun ha hf hd => ?_, fun w l ha hf hd => ?_⟩,
    fun hj ha hf => ⟨fun hq => ?_, fun w l hu hd => ?_⟩, fun hj => ?_, fun hj h16 => ?_,
    fun hj h16 => ⟨fun hp => ?_, fun hp => ?_⟩, fun hj => ⟨fun hu => ?_, fun hu => ?_, fun h16 => ?_⟩,
    fun hj => ⟨fun w p hc => ?_, fun hc => ?_⟩, fun hj => ?_, fun hj => ?_, fun hj w p hc => ?_⟩
  · exact swap_bad (exec_jigSwapOut ..) h hj ((swapBad_out (jIs_op hj)).trans (beq_iff_eq.mpr ha))
  · refine swap_done (exec_jigSwapOut ..) h hj ((swapBad_out (jIs_op hj)).trans (beq_false_of_ne ha)) (swapDo_waits ?_)
    rw [jIs_op hj, swapWaits_out]
    exact decide_eq_true hu
  · exact swap_done (exec_jigSwapOut ..) h hj ((swapBad_out (jIs_op hj)).trans (beq_false_of_ne ha))
      (swapDo_out (jIs_op hj) hu)
  · exact swap_bad (exec_jigSwapIn ..) h hj ((swapBad_in (.inl (jIs_op hj))).trans (by simpa using ha))
  · refine swap_done (exec_jigSwapIn ..) h hj ((swapBad_in (.inl (jIs_op hj))).trans (by simp; omega)) (swapDo_waits ?_)
    rw [jIs_op hj, swapWaits_in]
    exact List.isEmpty_iff.mpr hd
  · exact swap_done (exec_jigSwapIn ..) h hj ((swapBad_in (.inl (jIs_op hj))).trans (by simp; omega))
      (swapDo_in (jIs_op hj) hd)
  · refine swap_done (exec_jigSwapExch ..) h hj ((swapBad_in (.inr (jIs_op hj))).trans (by simp; omega)) (swapDo_waits ?_)
    rw [jIs_op hj, swapWaits_exch, Bool.or_eq_true, decide_eq_true_eq, List.isEmpty_iff]
    exact hq
  · exact swap_done (exec_jigSwapExch ..) h hj ((swapBad_in (.inr (jIs_op hj))).trans (by simp; omega))
      (swapDo_exch (jIs_op hj) hu hd)
  · exact swap_done (exec_jigSwapClear ..) h hj (swapBad_clear (jIs_op hj)) (swapDo_clear (jIs_op hj))
  · exact jigRow_ok (exec_jigDriveLevels ..) h (by rw [hj, h16]; rfl) rfl
  · exact jigRow_bad (exec_jigDriveDirections ..) h (by rw [hj, h16]; rfl) (if_pos ((drives_any_iff ..).mpr hp))
  · refine jigRow_ok (exec_jigDriveDirections ..) h (by rw [hj, h16]; rfl) (if_neg fun hn => ?_)
    obtain ⟨p, hm, hb⟩ := (drives_any_iff ..).mp hn
    obtain ⟨h7, h8⟩ := hp p hm
    exact hb.elim (Bool.eq_false_iff.mp · h7) (Bool.eq_false_iff.mp · h8)
  · exact jigRow_ok (exec_jigMark_runs h stamp) h (beq_iff_eq.mpr hj) (congrArg Except.ok (markDo_waits hu))
  · exact jigRow_ok (exec_jigMark_runs h stamp) h (beq_iff_eq.mpr hj) (congrArg Except.ok (markDo_pushes hu))
  · exact markWord_now h16
  · exact jigRow_ok (exec_jigCrcInit ..) h hj (by rw [hc])
  · exact jigRow_bad (exec_jigCrcInit ..) h hj (by rw [crcPoly_reserved hc])
  · exact jigRow_ok (exec_jigCrcArm ..) h hj rfl
  · exact jigRow_ok (exec_jigCrcDisarm ..) h hj rfl
  · refine jigRow_ok (exec_jigCrcCopy ..) h hj ?_
    rw [jigCrcW_some hc, mul_ite, mul_one]

end Sys2Proof.Machine
end

section
/-! COUNT, SIGNAL and MATCH of the jigs (O58). -/

namespace Sys2Proof.Machine

/-! ## COUNT (R356) -/

theorem exec_jigCountLoad (j : Fin 32) (s : State) : exec (.jigCountLoad j) s =
    .next (jigDo s j.val none (jIs 5 0) fun s i _ =>
      .ok (setJig s j.val (jigCtrPut (jigOf s j.val) i (BitVec.ofNat 20 (bits i 0 14))))) := (rfl)
theorem exec_jigCountLoadSource (j : Fin 32) (s : State) : exec (.jigCountLoadSource j) s =
    .next (jigDo s j.val none (jIs 5 1) fun s i _ =>
      if bitAt i 13 then .ok (setJig s j.val (jigCtrPut (jigOf s j.val) i (BitVec.ofNat 20 (jigView (jigOf s j.val)))))
      else if 47 < bits i 0 6 then .error 4
      else .ok (setJig s j.val (jigCtrPut (jigOf s j.val) i (BitVec.ofNat 20 (jStore s j.val (bits i 0 6)))))) := (rfl)
theorem exec_jigCountStep (j : Fin 32) (s : State) : exec (.jigCountStep j) s =
    .next (jigDo s j.val none (jIs 5 2) fun s i _ => .ok (setJig s j.val (jigCtrPut (jigOf s j.val) i
      (if bitAt i 13 then jigCtr (jigOf s j.val) i + 1#20 else jigCtr (jigOf s j.val) i - 1#20)))) := (rfl)
theorem exec_jigCountCompare (j : Fin 32) (s : State) : exec (.jigCountCompare j) s =
    .next (jigDo s j.val none (jIs 5 3) fun s i _ => .ok (setJig s j.val { jigOf s j.val with
      cf := (jigCtr (jigOf s j.val) i).toNat == bits i 0 14 })) := (rfl)

/-- The operand of COUNT, 14 bits wide, is a value of the counter. -/
theorem counter_eq_operand (x : BitVec 20) (i : Nat) :
    (x.toNat == bits i 0 14) = decide (x = BitVec.ofNat 20 (bits i 0 14)) := by
  have h : bits i 0 14 < 2 ^ 14 := bits_lt ..
  have ht : (BitVec.ofNat 20 (bits i 0 14)).toNat = bits i 0 14 :=
    BitVec.toNat_ofNat .. |>.trans (Nat.mod_eq_of_lt (by omega))
  rw [Bool.beq_eq_decide_eq]
  exact decide_eq_decide.mpr (by rw [BitVec.toNat_eq, ht])

/-! ## SIGNAL (R358) and MATCH (R359) -/

theorem exec_jigSignal (j : Fin 32) (s : State) : exec (.jigSignal j) s =
    .next (jigDo s j.val none (fun i => jType i == 7) fun s i _ =>
      let u := if bitAt i 16 then dfPulse s (256 + 2 * j.val) false else s
      let v := flagOp u (j.val / 4) (bits i 12 2) (bits i 14 2)
      .ok (if bitAt i 11
        then dfPulse (setJig v j.val { jigOf v j.val with run := false, haltc := 2 }) (257 + 2 * j.val) false
        else v)) := (rfl)
theorem exec_jigMatchCompare (j : Fin 32) (s : State) : exec (.jigMatchCompare j) s =
    .next (jigDo s j.val none (fun i => jIs 8 0 i || jIs 8 3 i) fun s i _ =>
      if bits i 15 2 = 3 then .error 2
      else .ok (setJig s j.val { jigOf s j.val with
        mf := ((jigOf s j.val).shifter ^^^ (jigOf s j.val).pat) &&& (jigOf s j.val).mask == 0#40 })) := (rfl)
theorem exec_jigMatchLoadPat (j : Fin 32) (s : State) : exec (.jigMatchLoadPat j) s =
    .next (jigDo s j.val none (jIs 8 1) fun s i _ =>
      if 47 < bits i 0 6 then .error 4
      else .ok (setJig s j.val { jigOf s j.val with pat := BitVec.ofNat 40 (jStore s j.val (bits i 0 6)) })) := (rfl)
theorem exec_jigMatchLoadMask (j : Fin 32) (s : State) : exec (.jigMatchLoadMask j) s =
    .next (jigDo s j.val none (jIs 8 2) fun s i _ =>
      if 47 < bits i 0 6 then .error 4
      else .ok (setJig s j.val { jigOf s j.val with mask := BitVec.ofNat 40 (jStore s j.val (bits i 0 6)) })) := (rfl)

/-- Settles O58: each row by the OP of its instruction, and by the place that it names in the store. -/
theorem jigCountSignalMatch : Obligations.JigCountSignalMatch := by
  unfold Obligations.JigCountSignalMatch
  intro s j i inj h t g fin bad ctr put opnd
  refine ⟨fun hj => ?_, fun hj => ⟨fun h13 => ?_, fun h13 ha => ?_, fun h13 ha => ?_⟩, fun hj => ?_, fun hj => ?_,
    fun hj => ?_, fun hj => ?_, fun hj => ?_, fun hj => ⟨fun ha => ?_, fun ha => ?_⟩, fun hj => ⟨fun ha => ?_, fun ha => ?_⟩⟩
  · exact jigRow_ok (exec_jigCountLoad ..) h hj rfl
  · exact jigRow_ok (exec_jigCountLoadSource ..) h hj (if_pos h13)
  · exact jigRow_ok (exec_jigCountLoadSource ..) h hj
      ((if_neg (Bool.eq_false_iff.mp h13)).trans (if_neg (Nat.not_lt.mpr ha)))
  · exact jigRow_bad (exec_jigCountLoadSource ..) h hj ((if_neg (Bool.eq_false_iff.mp h13)).trans (if_pos ha))
  · exact jigRow_ok (exec_jigCountStep ..) h hj rfl
  · exact jigRow_ok (exec_jigCountCompare ..) h hj (by rw [counter_eq_operand]; rfl)
  · exact jigRow_ok (exec_jigSignal ..) h (beq_iff_eq.mpr hj) rfl
  · refine jigRow_ok (exec_jigMatchCompare ..) h (by rw [hj, Bool.true_or]) ?_
    rw [if_neg (by rw [jIs_op hj]; decide), Bool.beq_eq_decide_eq]
  · exact jigRow_bad (exec_jigMatchCompare ..) h (by rw [hj, Bool.or_true]) (if_pos (jIs_op hj))
  · exact jigRow_ok (exec_jigMatchLoadPat ..) h hj (if_neg (Nat.not_lt.mpr ha))
  · exact jigRow_bad (exec_jigMatchLoadPat ..) h hj (if_pos ha)
  · exact jigRow_ok (exec_jigMatchLoadMask ..) h hj (if_neg (Nat.not_lt.mpr ha))
  · exact jigRow_bad (exec_jigMatchLoadMask ..) h hj (if_pos ha)

end Sys2Proof.Machine
end

section
/-! The messages and the queues of the jigs (O59). -/

namespace Sys2Proof.Machine

theorem exec_jigProg (w0 w1 : Word) (s : State) : exec (.jigProg w0 w1) s = execJigProg w0 w1 s := (rfl)
theorem exec_jigInject (w0 w1 : Word) (s : State) : exec (.jigInject w0 w1) s = .next (dfTake s 1 w0 w1 fun s =>
    jigMod s (bits (pay w0) 0 5) fun g =>
      if g.inj.isSome then jigRefused g
      else { if bitAt (pay w0) 5 ∧ 1 ≤ jType g.latch.toNat ∧ jType g.latch.toNat ≤ 3 then jigAbandon g else g with
        inj := some (BitVec.ofNat 24 (bits (pay w0) 12 24)) }) := (rfl)
theorem exec_jigStart (w0 w1 : Word) (s : State) :
    exec (.jigStart w0 w1) s = .next (dfTake s 1 w0 w1 fun s => jigCtl s (pay w0)) := (rfl)
theorem exec_jigStop (w0 w1 : Word) (s : State) :
    exec (.jigStop w0 w1) s = .next (dfTake s 1 w0 w1 fun s => jigCtl s (pay w0)) := (rfl)
theorem exec_jigReset (w0 w1 : Word) (s : State) :
    exec (.jigReset w0 w1) s = .next (dfTake s 1 w0 w1 fun s => jigCtl s (pay w0)) := (rfl)
theorem exec_qword (dh : Bool) (w0 w1 : Word) (s : State) : exec (.qword dh w0 w1) s = .next (if dh then
    dhTake s 2 w0 w1 fun s => coreRecv s (ioF s (aSHADOW (fJCFG (pay w0 % 32))) 22 5) ⟨0x20, w0, w1⟩
  else dfTake s 2 w0 w1 fun s => jigMod s (pay w0 % 32) fun g => { g with down := g.down ++ [w1] }) := (rfl)
theorem exec_upQueueSend (j : Fin 32) (s : State) : exec (.upQueueSend j) s = execUpQueueSend j s := (rfl)

@[simp] theorem jigOf_dfGot (s : State) (cls j : Nat) : jigOf (dfGot s cls) j = jigOf s j := (rfl)
/-- What DF sends leaves its jigs. -/
@[simp] theorem jigOf_dfSend (s : State) (m : Msg) (j : Nat) : jigOf (dfSend s m) j = jigOf s j := by
  unfold dfSend
  split <;> rfl

/-! ## JIG-PROG (R364) -/

section
variable {s : State} {w0 w1 : Word} (hR : DfReached s w0 w1)
include hR

theorem jigProg_refused (h : 47 < bits (pay w0) 3 6 ∨ bitAt (pay w0) 9 = true ∧ bits (pay w0) 3 6 = 47) :
    exec (.jigProg w0 w1) s = .next (dfRefuse (dfGot s 1)) := by
  rw [exec_jigProg, execJigProg, dfTake_reached hR]
  exact congrArg Host.Outcome.next (if_pos h)

theorem jigProg_one (hk : bits (pay w0) 3 6 ≤ 47) (h9 : bitAt (pay w0) 9 = false) : exec (.jigProg w0 w1) s =
    .next (jStorePut (dfGot s 1) (bits (pay w0) 0 3) (bits (pay w0) 3 6) (pay w1)) := by
  rw [exec_jigProg, execJigProg, dfTake_reached hR]
  refine congrArg Host.Outcome.next ((if_neg ?_).trans (if_neg (Bool.eq_false_iff.mp h9)))
  exact fun h => h.elim (Nat.not_lt.mpr hk) fun ⟨hn, _⟩ => Bool.eq_false_iff.mp h9 hn

theorem jigProg_two (hk : bits (pay w0) 3 6 < 47) (h9 : bitAt (pay w0) 9 = true) : exec (.jigProg w0 w1) s =
    .next (jStorePut (jStorePut (dfGot s 1) (bits (pay w0) 0 3) (bits (pay w0) 3 6) (bits (pay w0) 12 24))
      (bits (pay w0) 0 3) (bits (pay w0) 3 6 + 1) (pay w1 % 2 ^ 24)) := by
  rw [exec_jigProg, execJigProg, dfTake_reached hR]
  exact congrArg Host.Outcome.next ((if_neg (by omega)).trans (if_pos h9))

end

/-! ## JIG-INJECT (R365, R366) -/

section
variable {g : Jig}

theorem jigRefused_eq (g : Jig) : jigRefused g = { g with injref := min 15 (g.injref + 1) } := by
  rw [jigRefused, satAt_eq_min]

/-- R363: an abandoned SHIFT leaves the number of bits that it moved. -/
theorem jigAbandon_shift (hs : g.stall = true) (h : jType g.latch.toNat = 2) : jigAbandon g = { g with
    stall := false
    scnt := bits g.latch.toNat 7 6 + 1 - g.left } := by
  rw [jigAbandon, if_pos hs, if_pos h]

theorem jigAbandon_other (hs : g.stall = true) (h : jType g.latch.toNat ≠ 2) : jigAbandon g = { g with stall := false } := by
  rw [jigAbandon, if_pos hs, if_neg h]

section
variable {s : State} {w0 w1 : Word} (hR : DfReached s w0 w1)
include hR

/-- R366: an injection waits already. -/
theorem jigInject_refused {q : BitVec 24} (hq : (jigOf s (pay w0 % 32)).inj = some q) : exec (.jigInject w0 w1) s =
    .next (jigReport (dfGot s 1) (setJig (dfGot s 1) (pay w0 % 32) { jigOf s (pay w0 % 32) with
      injref := min 15 ((jigOf s (pay w0 % 32)).injref + 1) }) (pay w0 % 32)) := by
  rw [exec_jigInject, dfTake_reached hR, bits_zero, ← jigRefused_eq]
  simp only [jigMod, Nat.reducePow, jigOf_dfGot, hq, Option.isSome_some, if_true]

/-- R365: an injection that finds the jig `g`, abandoned under FORCE, waits in it. -/
theorem jigInject_waits (hq : (jigOf s (pay w0 % 32)).inj = none)
    (hg : (if bitAt (pay w0) 5 = true ∧ 1 ≤ jType (jigOf s (pay w0 % 32)).latch.toNat ∧
      jType (jigOf s (pay w0 % 32)).latch.toNat ≤ 3 then jigAbandon (jigOf s (pay w0 % 32)) else jigOf s (pay w0 % 32)) = g) :
    exec (.jigInject w0 w1) s = .next (jigReport (dfGot s 1) (setJig (dfGot s 1) (pay w0 % 32) { g with
      inj := some (BitVec.ofNat 24 (bits (pay w0) 12 24)) }) (pay w0 % 32)) := by
  rw [exec_jigInject, dfTake_reached hR, bits_zero]
  simp only [jigMod, Nat.reducePow, jigOf_dfGot, hq, Option.isSome_none, Bool.false_eq_true, if_false, hg]

end
end

/-! ## JIG-CTL (R363, R483) -/

section
variable {s : State} {a : Nat}

theorem jigCtl_start (h : bits a 7 2 = 0) : jigCtl s a =
    if grpReady s (bits a 0 3) then ((bitList 4 (bits a 3 4)).map (· + 4 * bits a 0 3)).foldl
      (fun s j => jigMod s j fun x => { x with pc := bits a 9 6, run := true }) s else dfRefuse s := if_pos h
theorem jigCtl_stop (h : bits a 7 2 = 1) : jigCtl s a = ((bitList 4 (bits a 3 4)).map (· + 4 * bits a 0 3)).foldl
    (fun s j => jigMod s j jigStopOne) s := by
  rw [jigCtl, h]
  rfl
theorem jigCtl_reset (h : bits a 7 2 = 2) : jigCtl s a = ((bitList 4 (bits a 3 4)).map (· + 4 * bits a 0 3)).foldl
    (fun s j => jigCredit (jigMod s j jigResetOne) j (jigOf s j).down.length) s := by
  rw [jigCtl, h]
  rfl

end

/-! ## The up queue (R362, R380) -/

section
variable {s : State} {j : Fin 32}

theorem upQueueSend_none (h : (jigOf s j.val).up = [] ∨ s.field.paired = false ∨
    tabGet 16 s.field.coreCred (fldF s (fJCFG j.val) 22 5) = 0) : exec (.upQueueSend j) s = .next s := by
  rw [exec_upQueueSend, execUpQueueSend]
  cases hu : (jigOf s j.val).up with
  | nil => rfl
  | cons w l =>
    refine congrArg Host.Outcome.next (if_neg fun ⟨hp, hc⟩ => ?_)
    rcases h with h | h | h
    · rw [hu] at h
      exact List.cons_ne_nil _ _ h
    · exact Bool.eq_false_iff.mp h hp
    · exact Nat.ne_of_gt hc h

/-- R380: the oldest word leaves with one credit of the core. -/
theorem upQueueSend_oldest {w : Word} {l : List Word} (hu : (jigOf s j.val).up = w :: l) (hp : s.field.paired = true)
    (hc : 0 < tabGet 16 s.field.coreCred (fldF s (fJCFG j.val) 22 5)) : exec (.upQueueSend j) s =
      (let c := fldF s (fJCFG j.val) 22 5
       let u := dfSend { s with field := { s.field with
         coreCred := tabSet 16 s.field.coreCred c (tabGet 16 s.field.coreCred c - 1) } } ⟨0x20, natW j.val, w⟩
       .next (jigReport s (setJig u j.val { jigOf s j.val with up := l }) j.val)) := by
  rw [exec_upQueueSend, execUpQueueSend, hu]
  simp only [if_pos (And.intro hp hc), jigOf_dfSend]
  rfl

end

/-- Settles O59: each message by what its words ask for, once it has been counted, and the queues by their ends. -/
theorem jigMessages : Obligations.JigMessages := by
  unfold Obligations.JigMessages
  intro s w0 w1 j t a n k js
  have forced {x : Nat} (h : x = 1 ∨ x = 2 ∨ x = 3) : 1 ≤ x ∧ x ≤ 3 := by omega
  refine ⟨fun hR => ⟨jigProg_refused hR, jigProg_one hR, jigProg_two hR⟩,
    fun hR => ⟨fun q hq => jigInject_refused hR hq, fun hq h5 => ?_, fun hq h5 hs ht => ?_, fun hq h5 hs ht => ?_⟩,
    fun hR ha => ⟨fun hr => ?_, fun hr => ?_⟩, fun hR ha => ?_, fun hR ha => ?_, fun hR => ?_, fun hR => ?_,
    upQueueSend_none, fun w l => upQueueSend_oldest⟩
  · rw [jigInject_waits hR hq (if_neg fun ⟨h, _⟩ => Bool.eq_false_iff.mp h5 h)]
    rfl
  · rw [jigInject_waits hR hq ((if_pos ⟨h5, forced (.inr (.inl ht))⟩).trans (jigAbandon_shift hs ht))]
    rfl
  · have hn : jType (jigOf s (pay w0 % 32)).latch.toNat ≠ 2 := fun h => by
      have := ht.imp h.symm.trans h.symm.trans
      omega
    rw [jigInject_waits hR hq ((if_pos ⟨h5, forced (ht.imp id .inr)⟩).trans (jigAbandon_other hs hn))]
    rfl
  · rw [exec_jigStart, dfTake_reached hR, jigCtl_start ha]
    exact congrArg Host.Outcome.next (if_pos hr)
  · rw [exec_jigStart, dfTake_reached hR, jigCtl_start ha]
    exact congrArg Host.Outcome.next (if_neg (Bool.eq_false_iff.mp hr))
  · rw [exec_jigStop, dfTake_reached hR, jigCtl_stop ha]
    rfl
  · rw [exec_jigReset, dfTake_reached hR, jigCtl_reset ha]
    rfl
  · rw [exec_qword, if_pos rfl, dhTake_reached hR]
    rfl
  · rw [exec_qword, if_neg Bool.false_ne_true, dfTake_reached hR]
    rfl

end Sys2Proof.Machine
end

section
/-! What the host and the link do to the rings (O43). -/

namespace Sys2Proof.Machine

/-! ## Submission rings (R398, R399) -/

theorem exec_sqTailDoorbell (q : Fin 256) (v : BitVec 16) (s : State) :
    exec (.sqTailDoorbell q v) s = .next (sqDoorbell (hostActive s) q.val v.toNat) := (rfl)
theorem exec_sqEnable (q : Fin 256) (w : BitVec 32) (s : State) :
    exec (.sqEnable q w) s = .next (sqEnableDo (hostActive s) q.val w.toNat) := (rfl)
theorem exec_sqDisable (q : Fin 256) (w : BitVec 32) (s : State) :
    exec (.sqDisable q w) s = .next (sqDisableDo (hostActive s) q.val w.toNat) := (rfl)

section
variable {s : State} {q : Nat}

theorem sqDoorbell_off (h : barB s (bSQ q 8) 0 = false) (v : Nat) : sqDoorbell s q v = elWrite s 0x05 q 0 0 v 0 :=
  if_pos (by rw [h, Bool.not_false])

/-- R399: a tail within the ring is taken, and one beyond it stops the ring with ERRC 1. -/
theorem sqDoorbell_on (h : barB s (bSQ q 8) 0 = true) (v : Nat) : sqDoorbell s q v =
    if v < 2 ^ barF s (bSQ q 8) 1 5 then barSetF s (bSQ q 0x18) 0 16 v
    else barSetB (barSetF s (bSQ q 0x10) 16 8 1) (bSQ q 0x10) 24 true :=
  if_neg (by rw [h]; exact Bool.false_ne_true)

theorem sqEnableDo_on (h : barB s (bSQ q 8) 0 = true) (w : Nat) : sqEnableDo s q w = s := if_pos h

/-- R398: an enabled ring starts at head and tail 0 and expects SEQ 0. -/
theorem sqEnableDo_off (h : barB s (bSQ q 8) 0 = false) (w : Nat) : sqEnableDo s q w =
    let t := barSetF (barSetF (barSetF s (bSQ q 8) 0 16 (setBits w 0 1 1)) (bSQ q 0x10) 0 16 0) (bSQ q 0x18) 0 16 0
    sqBadPut { t with expSeq := tabSet 0 t.expSeq q 0 } q := if_neg (Bool.eq_false_iff.mp h)

theorem sqDisableDo_off (h : barB s (bSQ q 8) 0 = false) (w : Nat) :
    sqDisableDo s q w = barSetF s (bSQ q 8) 0 16 (setBits w 0 1 0) := if_neg (Bool.eq_false_iff.mp h)

/-- R398: a disabled ring forgets what it reads, and its untaken entries are flushed. -/
theorem sqDisableDo_on (h : barB s (bSQ q 8) 0 = true) (w : Nat) : sqDisableDo s q w =
    let t := barSetF (barSetF s (bSQ q 8) 0 16 (setBits w 0 1 0)) (bSQ q 0x10) 24 2 0
    flushEntries { t with
      entries := t.entries.filter fun e => !(e.q == q && decide (e.st = EntrySt.reading))
      acQ := t.acQ.filter fun i => match i with | .fetch p _ => p != q | _ => true } (fun e => e.q == q) :=
  (if_pos h).trans (rfl)

end

/-! ## Completion rings (R398, R400) -/

theorem exec_cqHeadDoorbell (r : Fin 256) (v : BitVec 16) (s : State) :
    exec (.cqHeadDoorbell r v) s = .next (cqDoorbell (hostActive s) r.val v.toNat) := (rfl)
theorem exec_cqEnable (r : Fin 256) (w : BitVec 32) (s : State) :
    exec (.cqEnable r w) s = .next (cqEnableDo (hostActive s) r.val w.toNat) := (rfl)
theorem exec_cqDisable (r : Fin 256) (w : BitVec 32) (s : State) :
    exec (.cqDisable r w) s = .next (cqDisableDo (hostActive s) r.val w.toNat) := (rfl)

section
variable {s : State} {r : Nat}

theorem cqDoorbell_off (h : barB s (bCQ r 8) 0 = false) (v : Nat) : cqDoorbell s r v = elWrite s 0x05 r 0 0 v 0 :=
  if_pos (by rw [h, Bool.not_false])

/-- R400: a head that frees more slots than are used is refused; another frees them, and the spool is replayed. -/
theorem cqDoorbell_on (h : barB s (bCQ r 8) 0 = true) (v : Nat) : cqDoorbell s r v =
    let z := cqSize s r
    let n := (v + z - tabGet 0 s.cqHead r) % z
    if z ≤ v ∨ tabGet 0 s.cqUsed r < n then barSetB s (bCQ r 12) 17 true
    else hlReplay { s with
      cqHead := tabSet 0 s.cqHead r v
      cqUsed := tabSet 0 s.cqUsed r (tabGet 0 s.cqUsed r - n)
      msiSent := s.msiSent.filter (· ≠ r) } := if_neg (by rw [h]; exact Bool.false_ne_true)

theorem cqEnableDo_on (h : barB s (bCQ r 8) 0 = true) (w : Nat) : cqEnableDo s r w = s := if_pos h

/-- R398, R413: an enabled ring starts empty with PHASE 1, and completions spooled for it may follow. -/
theorem cqEnableDo_off (h : barB s (bCQ r 8) 0 = false) (w : Nat) : cqEnableDo s r w =
    let t := barSetF (barSetF s (bCQ r 8) 0 16 (setBits w 0 1 1)) (bCQ r 12) 0 18 0x10000
    let u := barSetB t (bCQ r 12) 18 (cqBadNow t r)
    hlReplay (sqBadFollow { u with
      cqOff := u.cqOff.filter (· ≠ r)
      cqUsed := tabSet 0 u.cqUsed r 0
      cqHead := tabSet 0 u.cqHead r 0
      msiSent := u.msiSent.filter (· ≠ r)
      spool := u.spool.map fun e => if e.cq = r then { e with hold := false } else e }) :=
  if_neg (Bool.eq_false_iff.mp h)

theorem cqDisableDo_off (h : barB s (bCQ r 8) 0 = false) (w : Nat) : cqDisableDo s r w =
    barSetB (barSetF s (bCQ r 8) 0 16 (setBits w 0 1 0)) (bCQ r 12) 18 false := if_neg (Bool.eq_false_iff.mp h)

/-- R398: the completions of a disabled ring are discarded from now on. -/
theorem cqDisableDo_on (h : barB s (bCQ r 8) 0 = true) (w : Nat) : cqDisableDo s r w =
    let t := barSetB (barSetF s (bCQ r 8) 0 16 (setBits w 0 1 0)) (bCQ r 12) 18 false
    sqBadFollow { t with cqOff := r :: t.cqOff.filter (· ≠ r) } := if_pos h

end

/-! ## RINGTO (R412) and the spool (R413) -/

theorem exec_ringTimeout (q : Fin 256) (v : BitVec 16) (s : State) :
    exec (.ringTimeout q v) s = .next (ringtoDo s q.val v.toNat) := (rfl)
theorem exec_spoolReplay (s : State) : exec .spoolReplay s = .next (hlReplay s) := (rfl)

section
variable {s : State} {q seq : Nat}

theorem ringtoDo_off (h : barF s (bSQ q 12) 0 16 = 0) : ringtoDo s q seq = s := if_pos h

/-- R412: an entry that a core has taken completes with status 7, and the time-out is logged. -/
theorem ringtoDo_taken {e : Entry} (h : barF s (bSQ q 12) 0 16 ≠ 0) (he : entryOf s q seq = some e)
    (ht : e.st = .taken) : ringtoDo s q seq = entryDone (elWrite s 0x06 q 0 0 seq 0) e 7 e.handle (natW 0) := by
  rw [ringtoDo, if_neg h, he]
  exact if_neg (by rw [ht]; simp)

theorem cspReplay_nil (h : s.spool = []) (f : Nat) (skip : List Nat) : cspReplay f skip s = s := by
  cases f with
  | zero => rfl
  | succ f =>
    rw [cspReplay, h]
    exact ite_self s

/-- R413: with nothing in the spool, what HL held for want of a place follows. -/
theorem hlReplay_nil (h : s.spool = []) : hlReplay s = readyFlush (compRelease s.entries.length s) := by
  rw [hlReplay, cspReplay_nil h]

end

/-! ## A function level reset (R396) -/

/-- What a function level reset does to the word of a listed BAR register: MSI-X vectors are masked. -/
def flrWord (p : Nat × BitVec 64) : Nat × BitVec 64 :=
  if 0x8000 ≤ p.1 ∧ p.1 < 0xA000 ∧ p.1 % 16 = 12 then (p.1, p.2 ||| 1#64) else p
/-- The listed BAR registers that a function level reset leaves: not those of the rings, the windows and ELCFG. -/
def flrKeeps (p : Nat × BitVec 64) : Bool :=
  !(decide (0x1000 ≤ p.1) && decide (p.1 < 0x4000)) && !(decide (0x4000 ≤ p.1) && decide (p.1 < 0x4820)) && p.1 != bELCFG &&
    decide (p.2 ≠ barReset p.1)
/-- The BAR registers after a function level reset. -/
def flrBar (s : State) : Tab (BitVec 64) := (s.bar.map flrWord).filter flrKeeps

theorem exec_functionLevelReset (s : State) : exec .functionLevelReset s = .next (flushEntries { s with
    bar := flrBar s
    elArmed := true
    entries := s.entries.filter fun e => decide (e.st ≠ EntrySt.reading)
    acQ := s.acQ.filter fun i => match i with | .fetch _ _ => false | _ => true
    expSeq := []
    cqUsed := []
    cqHead := []
    cqOff := []
    msiSent := []
    lringSent := false
    ledger := { s.ledger with recs := s.ledger.recs.map fun r => { r with drained := r.drained && r.passed } } }
    fun _ => true) := (rfl)

/-- The registers of the rings, of the windows and of ELCFG are back at their reset values. -/
theorem flrBar_reset (s : State) {o : Nat} (h : 0x1000 ≤ o ∧ o < 0x4820 ∨ o = bELCFG) :
    tabGet (barReset o) (flrBar s) o = barReset o := by
  refine tabGet_filter_drop _ _ _ _ fun v => ?_
  simp only [flrKeeps, Bool.and_eq_false_iff, Bool.not_eq_false', Bool.and_eq_true, decide_eq_true_eq, bne_eq_false_iff_eq]
  omega

/-- What a table answers for a key is its default or stands in the table. -/
theorem tabGet_default_or_mem {α : Type} (d : α) (t : Tab α) (k : Nat) : tabGet d t k = d ∨ (k, tabGet d t k) ∈ t := by
  induction t with
  | nil => exact .inl rfl
  | cons p t ih =>
    obtain ⟨j, v⟩ := p
    rw [tabGet]
    split
    · next hj => exact .inr (hj ▸ List.mem_cons_self)
    · exact ih.imp id (List.mem_cons_of_mem _)

theorem flrWord_masked {p : Nat × BitVec 64} {k : Fin 512} (h : (flrWord p).1 = bMSIX k.val 12) :
    (flrWord p).2.getLsbD 0 = true := by
  have hk : 0x8000 ≤ bMSIX k.val 12 ∧ bMSIX k.val 12 < 0xA000 ∧ bMSIX k.val 12 % 16 = 12 := by unfold bMSIX; omega
  rw [flrWord] at h ⊢
  split at h
  · next hp =>
    rw [if_pos hp, BitVec.getLsbD_or]
    exact Bool.or_true _
  · next hp => exact absurd (h ▸ hk) hp

theorem barReset_msix (k : Fin 512) : (barReset (bMSIX k.val 12)).getLsbD 0 = true := by
  have hk : 0x8000 ≤ bMSIX k.val 12 ∧ bMSIX k.val 12 < 0xA000 ∧ bMSIX k.val 12 % 16 = 12 := by unfold bMSIX; omega
  obtain ⟨hl, hu, hm⟩ := hk
  have h3 : ¬(0x1000 ≤ bMSIX k.val 12 ∧ bMSIX k.val 12 < 0x3000) := by omega
  have h4 : ¬(0x3000 ≤ bMSIX k.val 12 ∧ bMSIX k.val 12 < 0x4000) := by omega
  have h5 : (bMSIX k.val 12 == 0x4808) = false := beq_false_of_ne (by omega)
  have h6 : (bMSIX k.val 12 == 0x4810) = false := beq_false_of_ne (by omega)
  simp only [barReset, if_neg h3, if_neg h4, h5, h6, if_pos (And.intro hl hu), hm, Bool.false_eq_true, if_false, BEq.rfl,
    if_true]
  rfl

/-- R411: every MSI-X vector is masked. -/
theorem flrBar_msix (s : State) (k : Fin 512) :
    (tabGet (barReset (bMSIX k.val 12)) (flrBar s) (bMSIX k.val 12)).getLsbD 0 = true := by
  rcases tabGet_default_or_mem (barReset (bMSIX k.val 12)) (flrBar s) (bMSIX k.val 12) with h | h
  · rw [h, barReset_msix]
  · obtain ⟨p, -, hp⟩ := List.mem_map.mp (List.mem_filter.mp h).1
    have hm := flrWord_masked (p := p) (k := k) (by rw [hp])
    rwa [hp] at hm

/-! ## BAR accesses, ELCFG and requests of the host (R397, R464, R500) -/

theorem exec_barAccessDropped (d w : Bool) (o : BitVec 16) (s : State) : exec (.barAccessDropped d w o) s =
    .next (if w then (if d then elWrite s 0x04 0 0 0 o.toNat 0 else barDrop s true o.toNat)
      else emit s (.hostData 0#64)) := (rfl)
theorem barDrop_write (s : State) (o : Nat) : barDrop s true o = elWrite (hostActive s) 0x04 0 0 0 o 0 := by
  rw [barDrop, if_pos rfl]
theorem exec_elcfgAck (w : BitVec 32) (s : State) : exec (.elcfgAck w) s = .next (
    let t := barPut (hostActive s) bELCFG (w.toNat % 2 ^ 10)
    if bitAt w.toNat 10 then { t with elArmed := true } else t) := (rfl)
theorem exec_modereqWrite (w : BitVec 32) (s : State) : exec (.modereqWrite w) s =
    .next (modeRequestDo (hostActive s) (bits w.toNat 0 8) (bits w.toNat 8 8 &&& 0x50)) := (rfl)

/-! ## The link (R466, R481) -/

theorem exec_hostSilence (s : State) : exec .hostSilence s = .next (if s.hlOff then s else setCause s 1 true) := (rfl)
theorem exec_linkLoss (s : State) : exec .linkLoss s = .next (linkDown s) := (rfl)
theorem exec_linkTrained (s : State) : exec .linkTrained s = .next (linkUp s) := (rfl)

section
variable {s : State}

theorem setCause_sets {i : Nat} (h : ioB s aMODECAUSE i = false) :
    setCause s i true = modeRun 6 (ioSetB s aMODECAUSE i true) := if_neg (by rw [h]; decide)

theorem linkDown_off (h : s.hlOff = true) : linkDown s = s := if_pos h
theorem linkDown_on (h : s.hlOff = false) : linkDown s = mailboxLost (setCause (readyClear s 2) 0 true) :=
  if_neg (Bool.eq_false_iff.mp h)

theorem linkUp_off (h : s.hlOff = true) : linkUp s = s := by
  rw [linkUp, h]
  rfl

theorem linkUp_trains (h : s.hlOff = false) (hr : s.refLost = false) (hi : 11 ∉ s.islReset) (ha : s.alive = true) :
    linkUp s = (List.range 512).foldl msixFlush (hlReplay (setCause (readyUp s 2) 0 false)) :=
  if_neg (by simp [h, hr, hi, ha])

end

/-- Settles O43: each event by the state of the ring, of HL or of the link that it meets. -/
theorem hostEvents : Obligations.HostEvents := by
  unfold Obligations.HostEvents
  intro s q r v w h
  refine ⟨fun he => ?_, fun he => ?_, fun he => ?_, fun he => ?_, fun he => ?_, fun he => ?_, fun he => ?_, fun he => ?_,
    fun he => ?_, fun he => ?_, ⟨fun he => ?_, fun he => ?_⟩, fun e h0 he ht => ?_, fun h0 => ?_,
    ⟨flrBar s, fun o => flrBar_reset s, flrBar_msix s, exec_functionLevelReset s⟩, fun hs => ?_, fun d o => ⟨?_, ?_⟩, ?_,
    fun hl hc => ?_, fun hl => ⟨?_, ?_, ?_⟩, fun hl => ?_, fun hl hr hi ha => ?_, ?_⟩
  · rw [exec_sqTailDoorbell, sqDoorbell_off he]
  · rw [exec_sqTailDoorbell, sqDoorbell_on he]
  · rw [exec_cqHeadDoorbell, cqDoorbell_off he]
  · rw [exec_cqHeadDoorbell, cqDoorbell_on he]
  · rw [exec_sqEnable, sqEnableDo_on he]
  · rw [exec_sqEnable, sqEnableDo_off he]
  · rw [exec_sqDisable, sqDisableDo_off he]
  · rw [exec_sqDisable, sqDisableDo_on he] <;> rfl
  · rw [exec_cqEnable, cqEnableDo_on he]
  · rw [exec_cqEnable, cqEnableDo_off he]
  · rw [exec_cqDisable, cqDisableDo_off he]
  · rw [exec_cqDisable, cqDisableDo_on he]
  · rw [exec_ringTimeout, ringtoDo_taken h0 he ht]
  · rw [exec_ringTimeout, ringtoDo_off h0]
  · rw [exec_spoolReplay, hlReplay_nil hs]
  · rw [exec_barAccessDropped, if_pos rfl, barDrop_write]
    cases d with
    | false => rw [if_neg Bool.false_ne_true, if_neg Bool.false_ne_true]
    | true => rw [if_pos rfl, if_pos rfl]
  · rw [exec_barAccessDropped, if_neg Bool.false_ne_true]
    rfl
  · rw [exec_elcfgAck, bitAt_eq_testBit]
    rfl
  · rw [exec_hostSilence, if_neg (Bool.eq_false_iff.mp hl), setCause_sets hc]
  · rw [exec_hostSilence, if_pos hl]
  · rw [exec_linkLoss, linkDown_off hl]
  · rw [exec_linkTrained, linkUp_off hl]
  · rw [exec_linkLoss, linkDown_on hl]
  · rw [exec_linkTrained, linkUp_trains hl hr hi ha]
  · rw [exec_modereqWrite, bits_zero]
    rfl

end Sys2Proof.Machine
end

section
/-! The opcodes that work on sessions (O45). -/

namespace Sys2Proof.Machine

/-! ## SESSION_OPEN and SESSION_CLOSE (R425, R426) -/

theorem exec_sessionOpen (c : CoreId) (st : BitVec 3) (key : Payload) (s : State) :
    exec (.sessionOpen c st key) s = execSessionOpen c st key s := (rfl)

section
variable {s : State} {c : CoreId} {w : Work}

theorem execSessionOpen_inWork (h : InWork s c w 1) (st : BitVec 3) (key : Payload) :
    execSessionOpen c st key s = .next (sessionOpenDo s c.val w st.toNat key) := by
  simp only [execSessionOpen, workOf_inWork h]

section
variable {n st : Nat} {key : Payload}

/-- R474: no session opens in ALARM. -/
theorem sessionOpenDo_alarm (hm : modeBit s 7 = true) : sessionOpenDo s n w st key = workEnd s n w 0x0D 5 := if_pos hm

/-- R477: no session opens on the spool's reserve. -/
theorem sessionOpenDo_refused (hm : modeBit s 7 = false) (hr : sessRefused s = true) :
    sessionOpenDo s n w st key = workEnd s n w 0x10 0 := (if_neg (Bool.eq_false_iff.mp hm)).trans (if_pos hr)

section
variable (hm : modeBit s 7 = false) (hr : sessRefused s = false) (hl : w.len = 24 ∨ w.len = 40)
  (hb : w.bufOk s (byteWords w.len) = true) (hf : bufFault s w.win false = none)
include hm hr hl hb hf

/-- R425: the entry's checks pass, and what follows is the home, the unwrap and the record. -/
theorem sessionOpenDo_checked : sessionOpenDo s n w st key =
    match findHome s with
    | none => workEnd s n w 5 0
    | some (i, cold) =>
      let t := dispCipher (bufRead s w.win w.idx (byteWords w.len)) n 1 (cipherSt s st)
      if !cipherOk (cipherSt s st) then workEnd t n w 0x0D (cipherSt s st)
      else match workRec t n w 0x020 (handleOf s i) 0 with
        | none => workEnd t n w 0x10 0
        | some t => workDone (sessOpenAt t i cold [mkW .keyref key.toNat, w.at 5, w.at 6, w.at 7]) n w 0 (handleOf s i)
            (natW cold.isNone.toNat) := by
  have hlen : (w.len == 24 || w.len == 40) = true := by simpa using hl
  simp only [sessionOpenDo, hm, hr, hlen, hb, hf, Bool.and_self, Bool.not_true, Bool.false_eq_true, if_false] <;> rfl

/-- R425: BUSY-POOL. -/
theorem sessionOpenDo_noHome (hh : findHome s = none) : sessionOpenDo s n w st key = workEnd s n w 5 0 := by
  rw [sessionOpenDo_checked hm hr hl hb hf, hh]

section
variable {j : Nat} {cold : Option Nat} (hh : findHome s = some (j, cold))
include hh

theorem sessionOpenDo_unwrapFails (ho : cipherOk (cipherSt s st) = false) : sessionOpenDo s n w st key =
    workEnd (dispCipher (bufRead s w.win w.idx (byteWords w.len)) n 1 (cipherSt s st)) n w 0x0D (cipherSt s st) := by
  rw [sessionOpenDo_checked hm hr hl hb hf, hh]
  exact if_pos (by rw [ho, Bool.not_false])

theorem sessionOpenDo_opens {u : State} (ho : cipherOk (cipherSt s st) = true)
    (hu : workRec (dispCipher (bufRead s w.win w.idx (byteWords w.len)) n 1 (cipherSt s st)) n w 0x020 (handleOf s j) 0 =
      some u) : sessionOpenDo s n w st key =
        workDone (sessOpenAt u j cold [mkW .keyref key.toNat, w.at 5, w.at 6, w.at 7]) n w 0 (handleOf s j)
          (natW cold.isNone.toNat) := by
  rw [sessionOpenDo_checked hm hr hl hb hf, hh]
  simp only [ho, hu, Bool.not_true, Bool.false_eq_true, if_false]

end
end
end

section
variable (h : InWork s c w 2)
include h

theorem execSessionClose_unnamed (hn : handleNamed s w.handle = false) :
    execSessionClose c s = .next (workEnd s c.val w 4 0) := by
  simp [execSessionClose, workOf_inWork h, hn]

theorem execSessionClose_busy (hn : handleNamed s w.handle = true) (hb : sessBusy s w.handle = true) :
    execSessionClose c s = .next (workHold s c.val w) := by
  simp [execSessionClose, workOf_inWork h, hn, hb]

theorem execSessionClose_closes {t : State} (hn : handleNamed s w.handle = true) (hb : sessBusy s w.handle = false)
    (ht : workRec s c.val w 0x021 w.handle 0 = some t) :
    execSessionClose c s = .next (workEnd (sessCloseAt t (handleIdx w.handle)) c.val w 0 0) := by
  simp [execSessionClose, workOf_inWork h, hn, hb, sessionCloseDo, ht]

end
end

/-! ## CONTEXT_RELOAD (R424) -/

theorem exec_contextReload (c : CoreId) (idx : BitVec 20) (slot : List Word) (ms ks : BitVec 3) (key : Payload) (s : State) :
    exec (.contextReload c idx slot ms ks key) s = .next (if coreState s c.val = 0
      then reloadDo s c.val idx.toNat slot ms.toNat ks.toNat key else s) := (rfl)

section
variable {s : State} {n i ms ks cs : Nat} {slot : List Word} {key : Payload}

/-- The pair after the dispatcher of core `n` has read the cold slot `cs` and the engine has answered for its CMAC and its
key. -/
def reloadRead (s : State) (n cs : Nat) (slot : List Word) (ms ks : Nat) : State :=
  let t := dispCipher (bufRead s (configOf s 1) (poolBase s + 1024 * cs) slot.length) n 10 ms
  if cipherOk ms then dispCipher t n 1 ks else t

section
variable (ho : (sessOf s i).opened = true) (hf : (sessOf s i).failed = false) (hw : (sessOf s i).way = none)
  (hc : (sessOf s i).cold = some cs) (hk : coldOk s = true) (ht : setTakes s true i = true)
include ho hf hw hc hk ht

theorem reloadDo_fails (hr : reloadOk (reloadRead s n cs slot ms ks) i slot ms ks = false) :
    reloadDo s n i slot ms ks key =
      failEntries (sessRec (sessPut (reloadRead s n cs slot ms ks) i { sessOf s i with failed := true }) n 0x026
        (mkW .session (i + 2 ^ 20 * (sessOf s i).gen)) (natW 0) 0).2 i := by
  simp only [reloadRead] at hr
  simp only [reloadDo, ho, hf, hw, hc, hk, ht, hr, Option.isNone_none, Bool.not_false, Bool.not_true, Bool.and_self,
    Bool.false_eq_true, if_false]
  rfl

theorem reloadDo_reloads {y : Nat} (hr : reloadOk (reloadRead s n cs slot ms ks) i slot ms ks = true)
    (hy : freeWay (makeWay (reloadRead s n cs slot ms ks) i) i = some y) :
    reloadDo s n i slot ms ks key =
      let v := memPutAll (makeWay (reloadRead s n cs slot ms ks) i) ((List.range 8).map fun j =>
        (hotAddr i y + j, (reloadWords slot key).getD j emptyW))
      sessTouch (sessPut v i { sessOf v i with way := some y }) i := by
  simp only [reloadRead] at hr hy
  simp only [reloadDo, ho, hf, hw, hc, hk, ht, hr, hy, Option.isNone_none, Bool.not_false, Bool.not_true, Bool.and_self,
    Bool.false_eq_true, if_false, if_true]
  rfl

end
end

/-! ## SEND and POST_RECV (R415, R417) -/

theorem exec_postRecv (c : CoreId) (msg : Option (List Byte)) (s : State) :
    exec (.postRecv c msg) s = execPostRecv c msg s := (rfl)

section
variable {s : State} {c : CoreId} {w : Work}

/-- An open session whose context is in a hot way. -/
theorem way_hot {i : Nat} (h : (sessOf s i).way ≠ none) : (sessOf s i).way.isNone = false := by
  rw [Option.isNone_eq_false_iff, Option.isSome_iff_ne_none]
  exact h

theorem execSend_badSession (h : InWork s c w 3) {b : Nat} (hb : sessBad s w.handle = some b) (msg : List Byte)
    (st : BitVec 3) (out : List Byte) : execSend c msg st out s = .next (workEnd s c.val w b 0) := by
  simp only [execSend, workOf_inWork h, hb]

theorem execSend_sends (h : InWork s c w 3) {msg out : List Byte} {st : BitVec 3} (hs : sessBad s w.handle = none)
    (hm : modeBit s 7 = false) (hb : sessBusy s w.handle = false) (hw : (sessOf s (handleIdx w.handle)).way ≠ none)
    (hq : sendFull s c.val = false) (hl : msg.length = w.len) (ho : out.length = w.len) :
    execSend c msg st out s = .next (sendDo s c.val w msg st.toNat out) := by
  simp only [execSend, workOf_inWork h, hs, hm, hb, way_hot hw, hq, hl, ho, bne_self_eq_false, Bool.or_self,
    Bool.false_eq_true, if_false]

/-- Without a message POST_RECV only takes the entry in work. -/
theorem execPostRecv_start (h : InWork s c w 4) : execPostRecv c none s = .next (postRecvStart s c.val w) := by
  simp only [execPostRecv, workOf_inWork h]

theorem postRecvStart_badSession {n b : Nat} (hb : sessBad s w.handle = some b) :
    postRecvStart s n w = workEnd s n w b 0 := by
  simp only [postRecvStart, hb]

theorem postRecvStart_waits {n : Nat} (hs : sessBad s w.handle = none) (hm : modeBit s 7 = false)
    (hb : sessBusy s w.handle = false) (hk : w.bufOk s (byteWords w.len) = true) :
    postRecvStart s n w = heldStart (modCore (workWait s n w none 0) n workClear) n := by
  simp only [postRecvStart, hs, hm, hb, hk, Bool.not_true, Bool.false_eq_true, if_false]

theorem execPostRecv_message {x : Waiter} {msg : List Byte} (hr : (coreOf s c.val).workRun = none)
    (hx : waitFind s c.val 4 = some x) : execPostRecv c (some msg) s = .next (postRecvDone s c.val x msg) := by
  simp only [execPostRecv, workOf_idle hr, hx]

/-- R417: a message that is longer than the buffer. -/
theorem postRecvDone_long {n : Nat} {x : Waiter} {msg : List Byte} (hl : x.work.len < msg.length)
    (hs : sessBad s x.work.handle = none) (hb : sessBusy s x.work.handle = false)
    (hw : (sessOf s (handleIdx x.work.handle)).way ≠ none) :
    postRecvDone s n x msg = waitDone s x 0x0B (natW 0) := by
  simp only [postRecvDone, hs, hb, way_hot hw, if_pos hl, Bool.or_self, Bool.false_eq_true, if_false]

end

/-! ## Microcode handlers (R419) -/

theorem exec_invoke (c : CoreId) (s : State) : exec (.invoke c) s = execInvoke c s := (rfl)

section
variable {s : State} {c : CoreId} {w : Work}

theorem execInvoke_badSession (h : InWork s c w 7) {b : Nat} (hb : sessBad s w.handle = some b) :
    execInvoke c s = .next (workEnd s c.val w b 0) := by
  simp only [execInvoke, workOf_inWork h, hb]

theorem execInvoke_ready (h : InWork s c w 7) (hs : sessBad s w.handle = none) (hm : modeBit s 7 = false)
    (hb : sessBusy s w.handle = false) (hw : (sessOf s (handleIdx w.handle)).way ≠ none)
    (hr : handlerReady s c.val = true) : execInvoke c s = .next (invokeDo s c.val w) := by
  simp only [execInvoke, workOf_inWork h, hs, hm, hb, way_hot hw, hr, Bool.not_true, Bool.or_self, Bool.false_eq_true,
    if_false]

theorem invokeDo_unregistered {n : Nat} (ht : entryTarget s (w.p 5 % 256) = none) :
    invokeDo s n w = workEnd s n w 0x0E 0 := by
  simp only [invokeDo, ht]

theorem invokeDo_enters {n : Nat} {t : Link} {u : State} (ht : entryTarget s (w.p 5 % 256) = some t)
    (hu : workRec s n w 0x025 w.handle (w.p 5 % 256) = some u) :
    invokeDo s n w = handlerEnter (sessTake u (handleIdx w.handle) n) n w t true := by
  simp only [invokeDo, ht, hu]

theorem execMicrocodeEntry_enters {o : Nat} {t : Link} {u : State} (ho : 16 ≤ o) (h : InWork s c w o)
    (hr : handlerReady s c.val = true) (ht : entryTarget s o = some t)
    (hu : workRec s c.val w 0x025 w.handle o = some u) :
    execMicrocodeEntry c s = .next (handlerEnter u c.val w t false) := by
  have hop : w.op = o := by
    obtain ⟨-, -, -, -, -, -, hop⟩ := h
    exact hop
  simp only [execMicrocodeEntry, workOf_admitted h (p := fun o => decide (16 ≤ o)) (decide_eq_true ho), hr, hop, ht, hu,
    Bool.not_true, Bool.false_eq_true, if_false]

end

/-! ## The gates of the ROM (R428, R429) -/

section
variable {s : State} {c : CoreId} {ws : List Word}

section
variable (hg : gateFrame s c.val 253 = some ws)
include hg

theorem execGateSessOpen_noKey (h0 : wtag (inReg s c.val 0) ≠ .keyref) :
    execGateSessOpen c s = .next (gateAnswer s c.val ws (natW 2)) := by
  simp only [execGateSessOpen, hg, decide_eq_false h0, Bool.false_and, Bool.not_false, if_true]

theorem execGateSessOpen_noHome (h0 : wtag (inReg s c.val 0) = .keyref) (h1 : wtag (inReg s c.val 1) = .nat)
    (h2 : wtag (inReg s c.val 2) = .nat) (h3 : wtag (inReg s c.val 3) = .nat) (hr : sessRefused s = false)
    (hh : findHome s = none) : execGateSessOpen c s = .next (gateAnswer s c.val ws (natW 5)) := by
  have hn : ((List.range 3).all fun j => decide (wtag (inReg s c.val (j + 1)) = .nat)) = true := by
    simp [List.range_succ, h1, h2, h3]
  simp only [execGateSessOpen, hg, h0, hn, hr, gateOpenDo, hh, decide_true, Bool.and_self, Bool.not_true,
    Bool.false_eq_true, if_false]

end

/-- R428: a hot session that no core has is busy for the caller. -/
theorem execGateSessHot_acquires (hg : gateFrame s c.val 254 = some ws) (h0 : wtag (inReg s c.val 0) = .session)
    (h1 : wtag (inReg s c.val 1) = .nat) (hs : sessBad s (inReg s c.val 0) = none)
    (hw : (sessOf s (handleIdx (inReg s c.val 0))).way ≠ none)
    (hb : (sessOf s (handleIdx (inReg s c.val 0))).busy = none) (ha : bitAt (pay (inReg s c.val 1)) 0 = true) :
    execGateSessHot c s = .next (gateAnswer (sessTouch (sessTake s (handleIdx (inReg s c.val 0)) c.val)
      (handleIdx (inReg s c.val 0))) c.val ws (natW 0)) := by
  simp only [execGateSessHot, hg, h0, h1, gateHotDo, hs, way_hot hw, hb, ha, decide_true, Option.isSome_none,
    Bool.false_and, Bool.or_self, Bool.and_self, Bool.not_true, Bool.false_eq_true, if_false, if_true]

/-- R419: a core without an entry goes back to its dispatcher. -/
theorem execGateDone_idle (hg : gateFrame s c.val 255 = some ws)
    (hr : (coreOf (gretApply s c.val ws) c.val).workRun = none) : execGateDone c s = .next (heldStart
      (modCore (modCore (sessFree (gretApply s c.val ws) c.val) c.val (homeReturn c.val)) c.val workClear) c.val) := by
  simp only [execGateDone, hg, gateDoneDo, hr]

end

/-- Settles O45: each opcode and each gate by its checks, in their order. -/
theorem sessionOpcodes : Obligations.SessionOpcodes := by
  unfold Obligations.SessionOpcodes
  intro s c w st ms ks key msg out idx slot n i
  refine ⟨fun h => ⟨fun hm => ?_, fun hm hr => ?_, fun hm hr hl hb hf => ⟨fun hh => ?_, fun j cold hh =>
      ⟨fun ho => ?_, fun u ho hu => ?_⟩⟩⟩, fun cs hn ho hf hw hc hk ht => ⟨fun hr => ?_, fun y hr hy => ?_⟩,
    fun h => ⟨execSessionClose_unnamed h, execSessionClose_busy h, fun t => execSessionClose_closes h⟩,
    fun h => ⟨fun b hb => execSend_badSession h hb msg st out, execSend_sends h⟩,
    fun h => ⟨fun b hb => ?_, fun hs hm hb hk => ?_⟩, fun x hr hx hl hs hb hw => ?_,
    fun h => ⟨fun b => execInvoke_badSession h, fun hs hm hb hw hr => ⟨fun ht => ?_, fun t u ht hu => ?_⟩⟩,
    fun o t u => execMicrocodeEntry_enters, fun ws hg => ⟨execGateSessOpen_noKey hg, execGateSessOpen_noHome hg⟩,
    fun ws => execGateSessHot_acquires, fun ws => execGateDone_idle⟩
  · rw [exec_sessionOpen, execSessionOpen_inWork h, sessionOpenDo_alarm hm]
  · rw [exec_sessionOpen, execSessionOpen_inWork h, sessionOpenDo_refused hm hr]
  · rw [exec_sessionOpen, execSessionOpen_inWork h, sessionOpenDo_noHome hm hr hl hb hf hh]
  · rw [exec_sessionOpen, execSessionOpen_inWork h, sessionOpenDo_unwrapFails hm hr hl hb hf hh ho]
  · rw [exec_sessionOpen, execSessionOpen_inWork h, sessionOpenDo_opens hm hr hl hb hf hh ho hu]
  · rw [exec_contextReload, if_pos hn, reloadDo_fails ho hf hw hc hk ht hr]
    rfl
  · rw [exec_contextReload, if_pos hn, reloadDo_reloads ho hf hw hc hk ht hr hy]
    rfl
  · rw [exec_postRecv, execPostRecv_start h, postRecvStart_badSession hb]
  · rw [exec_postRecv, execPostRecv_start h, postRecvStart_waits hs hm hb hk]
  · rw [exec_postRecv, execPostRecv_message hr hx, postRecvDone_long hl hs hb hw]
  · rw [exec_invoke, execInvoke_ready h hs hm hb hw hr, invokeDo_unregistered ht]
  · rw [exec_invoke, execInvoke_ready h hs hm hb hw hr, invokeDo_enters ht hu]

end Sys2Proof.Machine
end

section
/-! The cipher engine and the ledger by themselves (O48). -/

namespace Sys2Proof.Machine

/-- A write that is taken, by an effect that its row gives. -/
theorem busWriteWith_of_taken {s t : State} {c : CoreId} {a : Nat} {w : Word} (h : WriteTaken s c a w) :
    busWriteWith s c.val a w (fun _ => .done t) = t := by
  obtain ⟨i, -, hc⟩ := h.check
  obtain ⟨hf, hp, -⟩ := h
  simp only [busWriteWith, hf, hp, hc, Bool.not_true, Bool.false_eq_true, if_false]

/-! ## The end of jobs (R437) -/

theorem exec_cipherDone (n : Fin 34) (st : BitVec 3) (s : State) : exec (.cipherDone n st) s =
    if n.val < 32 ∧ st.toNat ≤ 5 then
      .next (match jobOf s n.val with
        | none => s
        | some j => if j.atEng then ciphWake (jobDone s n.val j st.toNat) j.core else s)
    else .fault .illFormed := (rfl)
theorem exec_cipherJobTimeout (n : Fin 34) (s : State) :
    exec (.cipherJobTimeout n) s = execCipherJobTimeout n s := (rfl)

section
variable {s : State} {n : Fin 34} {j : Job}

theorem cipherDone_none {st : BitVec 3} (hn : n.val < 32) (ht : st.toNat ≤ 5) (hj : jobOf s n.val = none) :
    exec (.cipherDone n st) s = .next s := by
  rw [exec_cipherDone, if_pos ⟨hn, ht⟩, hj]

theorem cipherDone_illFormed {st : BitVec 3} (h : 32 ≤ n.val ∨ 5 < st.toNat) :
    exec (.cipherDone n st) s = .fault .illFormed := by
  rw [exec_cipherDone, if_neg (by omega)]

section
variable (hj : jobOf s n.val = some j) (he : j.atEng = true) (hn : n.val < 32)
include hj he hn

theorem cipherDone_ends {st : BitVec 3} (ht : st.toNat ≤ 5) :
    exec (.cipherDone n st) s = .next (ciphWake (jobDone s n.val j st.toNat) j.core) := by
  rw [exec_cipherDone, if_pos ⟨hn, ht⟩, hj]
  exact congrArg Host.Outcome.next (if_pos he)

theorem cipherJobTimeout_core : exec (.cipherJobTimeout n) s =
    .next (ciphWake (jobEnd (emit s (.engAbort n.val)) n.val j 5 2) j.core) := by
  simp only [exec_cipherJobTimeout, execCipherJobTimeout, hj, he, Bool.not_true, Bool.false_eq_true, if_false,
    if_neg (Nat.ne_of_lt hn), if_neg (Nat.ne_of_lt (Nat.lt_succ_of_lt hn)), jobTimeout]

end

/-! ## Reads and writes of the engine (R434, R441) -/

theorem exec_engineRead (n : Fin 34) (area : EngArea) (off k : Nat) (s : State) :
    exec (.engineRead n area off k) s = execEngineRead n area off k s := (rfl)
theorem exec_engineWrite (n : Fin 34) (area : EngArea) (off : Nat) (b : List Byte) (s : State) :
    exec (.engineWrite n area off b) s = execEngineWrite n area off b s := (rfl)

section
variable {area : EngArea} {off k : Nat} (hj : jobOf s n.val = some j) (he : j.atEng = true)
include hj he

theorem engineRead_core (hn : n.val < 32) : exec (.engineRead n area off k) s = .next (coreRead s n.val j area off k) := by
  simp only [exec_engineRead, execEngineRead, hj, he, hn, Bool.not_true, Bool.false_eq_true, if_false, if_true]

theorem engineRead_sv (hn : 32 ≤ n.val) : exec (.engineRead n area off k) s =
    .next (emit s (.engData n.val (((svBytes s n.val area).drop off).take k))) := by
  simp only [exec_engineRead, execEngineRead, hj, he, if_neg (Nat.not_lt.mpr hn), Bool.not_true, Bool.false_eq_true,
    if_false, engAnswer]

theorem engineWrite_output (hn : n.val < 32) {b : List Byte} :
    exec (.engineWrite n .output off b) s = .next (outWrite s n.val j off b) := by
  simp only [exec_engineWrite, execEngineWrite, hj, he, hn, Bool.not_true, Bool.false_eq_true, if_false, if_true]

end
end

section
variable {s : State} {n : Nat} {j : Job} {area : EngArea} {off k a len : Nat}

theorem coreRead_block (h : readArea j area = none) :
    coreRead s n j area off k = emit s (.engData n (((blockArea j area).drop off).take k)) := by
  simp only [coreRead, h, engAnswer]

theorem coreRead_memory (h : readArea j area = some (a, len)) (ha : areaOk s j false a len = true)
    (ht : areaTags s a len = true) :
    coreRead s n j area off k = emit s (.engData n (((areaBytes s a len).drop off).take k)) := by
  simp only [coreRead, h, ha, ht, Bool.not_true, Bool.false_eq_true, if_false, engAnswer]

theorem coreRead_denied (h : readArea j area = some (a, len)) (ha : areaOk s j false a len = false) :
    coreRead s n j area off k = jobFail s n j 4 := by
  simp only [coreRead, h, ha, Bool.not_false, if_true]

theorem outWrite_outside {b : List Byte} (h : outLimit s j < off + b.length) : outWrite s n j off b = jobFail s n j 7 :=
  if_pos h

theorem outWrite_writes {b : List Byte} (h : off + b.length ≤ outLimit s j)
    (ha : areaOk s j true j.outA (off + b.length) = true) : outWrite s n j off b =
      areaWrite (jobPut s n { j with outN := max j.outN (off + b.length) }) j j.outA (b.length + 1) off b :=
  (if_neg (Nat.not_lt.mpr h)).trans (if_neg (by rw [ha]; exact Bool.false_ne_true))

end

/-! ## The engine's capability (R441, R485) and the seals (R450, R451) -/

theorem exec_engineCap (cap : Payload) (s : State) : exec (.engineCap cap) s = .next (if !s.alive then s
    else cipherUp (if s.locked.contains aCIPHCAP then s else lockWrite s aCIPHCAP (natW (cap.toNat % 2 ^ 9)))) := (rfl)
theorem exec_sealDone (st : BitVec 3) (mac : BitVec 128) (s : State) : exec (.sealDone st mac) s =
    .next (match jobOf s 32 with
      | none => s
      | some j => if !j.atEng then s
        else sealEnd (jobDone s 32 j st.toNat) (cipherOk st.toNat && !j.fault) mac) := (rfl)

section
variable {s : State} {cap : Payload} (ha : s.alive = true)
include ha

/-- R441: a locked capability word stays, and one that names no engine has no further effect. -/
theorem engineCap_locked (hl : aCIPHCAP ∈ s.locked) (hv : cipherValid s = false) : exec (.engineCap cap) s = .next s := by
  rw [exec_engineCap, if_neg (by rw [ha]; exact Bool.false_ne_true), if_pos (List.contains_iff_mem.mpr hl)]
  exact congrArg Host.Outcome.next (if_neg (Bool.eq_false_iff.mp hv))

theorem engineCap_writes (hl : aCIPHCAP ∉ s.locked) : exec (.engineCap cap) s = .next (cipherUp (ioPut { s with
    locked := aCIPHCAP :: s.locked } aCIPHCAP (natW (cap.toNat % 2 ^ 9)))) := by
  have hc : ¬s.locked.contains aCIPHCAP = true := fun h => hl (List.contains_iff_mem.mp h)
  rw [exec_engineCap, if_neg (by rw [ha]; exact Bool.false_ne_true), if_neg hc, lockWrite, if_neg hc]

end

theorem sealDone_none {s : State} {st : BitVec 3} {mac : BitVec 128} (h : jobOf s 32 = none) :
    exec (.sealDone st mac) s = .next s := by
  rw [exec_sealDone, h]

theorem sealDone_ends {s : State} {st : BitVec 3} {mac : BitVec 128} {j : Job} (h : jobOf s 32 = some j)
    (he : j.atEng = true) : exec (.sealDone st mac) s =
      .next (sealEnd (jobDone s 32 j st.toNat) (cipherOk st.toNat && !j.fault) mac) := by
  rw [exec_sealDone, h]
  exact congrArg Host.Outcome.next (if_neg (by rw [he]; exact Bool.false_ne_true))

/-! ## Anchoring (R453 to R456) -/

theorem exec_anchoring (burnt : Bool) (st : BitVec 3) (mac : BitVec 128) (s : State) :
    exec (.anchoring burnt st mac) s = execAnchoring burnt st mac s := (rfl)

section
variable {s : State}

/-- R453: a valid mirror of the present epoch. -/
theorem anchorWay_mirror (hv : mirrorValid s = true) (he : mirrorEpoch s = otpEpoch s) :
    anchorWay s = some (.ok (mirrorSeq s + 1, mirrorHead s, mirrorSeq s, 1)) := if_pos ⟨hv, he⟩

/-- R453: a valid mirror of another epoch, and no request to anchor. -/
theorem anchorWay_foreign (hv : mirrorValid s = true) (he : mirrorEpoch s ≠ otpEpoch s)
    (hf : s.ledger.anchorFrom = none) : anchorWay s = some (.error 1) := by
  rw [anchorWay, if_neg fun h => he h.2, hf]
  exact if_pos hv

section
variable {burnt : Bool} {st : BitVec 3} {mac : BitVec 128} (hp : dvPaired s = true) (hd : ioB s aDVSTAT 3 = false)
  (hk : ledgKeyed s = true) (ha : anch s = 0) (hs : spoolFree (spoolRoom s) ≠ none)
include hp hd hk ha hs

/-- R453: what anchoring waits for is there, and the epoch and the way decide. -/
theorem anchoring_ready : exec (.anchoring burnt st mac) s = .next (
    if otpEpoch s = 4095 then
      anchorTell (anchorRefuse (ioSetF (modLedger s fun l => { l with anchorFrom := none }) aLEDGSTAT 0 2 2) 5) 5
    else match anchorWay s with
      | none => s
      | some (.error r) => anchorRefuse s r
      | some (.ok (next, h, q, src)) =>
        let s := dhCfg s fEPOCH (natW (otpEpoch s + 1))
        if burnt then anchorDo s next h q src st.toNat mac else s) := by
  refine (exec_anchoring ..).trans (congrArg Host.Outcome.next (if_neg ?_))
  rw [hp, hd, hk, ha, Option.isSome_iff_ne_none.mpr hs]
  decide

theorem anchoring_exhausted (he : otpEpoch s = 4095) : exec (.anchoring burnt st mac) s = .next (
    anchorTell (anchorRefuse (ioSetF { s with ledger := { s.ledger with anchorFrom := none } } aLEDGSTAT 0 2 2) 5) 5) := by
  rw [anchoring_ready hp hd hk ha hs, if_pos he]
  rfl

theorem anchoring_mirror (he : otpEpoch s ≠ 4095) (hv : mirrorValid s = true) (hm : mirrorEpoch s = otpEpoch s) :
    exec (.anchoring burnt st mac) s = .next (
      let t := dhCfg s fEPOCH (natW (otpEpoch s + 1))
      if burnt then anchorDo t (mirrorSeq s + 1) (mirrorHead s) (mirrorSeq s) 1 st.toNat mac else t) := by
  rw [anchoring_ready hp hd hk ha hs, if_neg he, anchorWay_mirror hv hm]

theorem anchoring_foreign (he : otpEpoch s ≠ 4095) (hv : mirrorValid s = true) (hm : mirrorEpoch s ≠ otpEpoch s)
    (hf : s.ledger.anchorFrom = none) : exec (.anchoring burnt st mac) s = .next (anchorRefuse s 1) := by
  rw [anchoring_ready hp hd hk ha hs, if_neg he, anchorWay_foreign hv hm hf]

end
end

/-! ## LEDGKEY (R452) and LEDGPROVE (R461) -/

section
variable {s : State} {c : CoreId} {w : Word}

theorem ledgkeyWrite_taken (h : WriteTaken s c aLEDGKEY w) (mac mac' : BitVec 128) :
    exec (.ledgkeyWrite c w mac mac') s = .next (ledgKeyDo s w mac mac') :=
  congrArg Host.Outcome.next (busWriteWith_of_taken h)
theorem ledgprove_taken (h : WriteTaken s c 0x030008 w) (st : BitVec 3) (mac : BitVec 128) :
    exec (.ledgprove c w st mac) s = .next (proveDo s c.val (coreOf s c.val).ring w st.toNat mac) :=
  congrArg Host.Outcome.next (busWriteWith_of_taken h)

theorem ledgKeyDo_first {mac mac' : BitVec 128} (hk : ledgKeyed s = false) : ledgKeyDo s w mac mac' = ioPut s aLEDGKEY w :=
  if_pos (by rw [hk, Bool.not_false])
theorem ledgKeyDo_rotates {mac mac' : BitVec 128} (hk : ledgKeyed s = true) (ha : anch s = 1) :
    ledgKeyDo s w mac mac' = keyRotate s w mac mac' :=
  (if_neg (by rw [hk]; exact Bool.false_ne_true)).trans (if_pos ha)
theorem ledgKeyDo_unanchored {mac mac' : BitVec 128} (hk : ledgKeyed s = true) (ha : anch s ≠ 1) :
    ledgKeyDo s w mac mac' = ledgEng (ioPut s aLEDGKEY w) 0x003 [natW 1] :=
  (if_neg (by rw [hk]; exact Bool.false_ne_true)).trans (if_neg ha)

section
variable {n r st : Nat} {mac : BitVec 128} (ho : proveOk s n r (pay (ioGet s aLEDGAREA)) = true)
include ho

/-- R461: no kept seal has this number. -/
theorem proveDo_unknown (h : ∀ q ∈ s.ledger.seals, q.id ≠ pay w) :
    proveDo s n r w st mac = proveStatus s n r (pay (ioGet s aLEDGAREA)) 2 := by
  have ha : (s.ledger.seals.any fun q => q.id == pay w) = false :=
    List.any_eq_false.mpr fun q hq => by rw [beq_iff_eq]; exact h q hq
  simp only [proveDo, ho, ha, Bool.not_true, Bool.not_false, Bool.false_eq_true, if_false, if_true]

/-- R461: the proof's CMAC in words 8 to 11 of the area, and 0 in word 12. -/
theorem proveDo_proves {q : Seal} (hq : q ∈ s.ledger.seals) (hi : q.id = pay w) (hv : cipherValid s = true)
    (hk : ledgKeyed s = true) : proveDo s n r w 0 mac =
      memPut (memPutAll (cipherCount s 32 0) ((List.range 4).map fun i =>
        (pay (ioGet s aLEDGAREA) + 8 + i, (macWords mac).getD i emptyW))) (pay (ioGet s aLEDGAREA) + 12) (natW 0) := by
  have ha : (s.ledger.seals.any fun q => q.id == pay w) = true := List.any_eq_true.mpr ⟨q, hq, beq_iff_eq.mpr hi⟩
  simp only [proveDo, ho, ha, hv, hk, Bool.not_true, Bool.and_self, Bool.false_eq_true, if_false, if_true]

end
end

/-- Settles O48: each message by its job, the anchoring by what it finds, and the two registers by what the ledger holds. -/
theorem engineEvents : Obligations.EngineEvents := by
  unfold Obligations.EngineEvents
  intro s c n j st area off k b cap w mac mac' burnt
  refine ⟨fun hn ht hj he => cipherDone_ends hj he hn ht, cipherDone_none, cipherDone_illFormed, cipherJobTimeout_core,
    fun hj he => ⟨fun a len hn hr ha ht => ?_, fun a len hn hr ha => ?_, fun hn hr => ?_, engineRead_sv hj he,
      fun hn ho => ?_, fun hn ho ha => ?_⟩, engineCap_locked, engineCap_writes, sealDone_ends, sealDone_none,
    fun hp hd hk ha hs => ⟨anchoring_exhausted hp hd hk ha hs, anchoring_mirror hp hd hk ha hs,
      anchoring_foreign hp hd hk ha hs⟩, fun h => ⟨fun hk => ?_, fun hk ha => ?_, fun hk ha => ?_⟩,
    fun h => ⟨fun ho hn => ?_, fun q ho hq hi hv hk h0 => ?_⟩⟩
  · rw [engineRead_core hj he hn, coreRead_memory hr ha ht]
  · rw [engineRead_core hj he hn, coreRead_denied hr ha]
  · rw [engineRead_core hj he hn, coreRead_block hr]
  · rw [engineWrite_output hj he hn, outWrite_outside ho]
  · rw [engineWrite_output hj he hn, outWrite_writes ho ha]
  · rw [ledgkeyWrite_taken h, ledgKeyDo_first hk]
  · rw [ledgkeyWrite_taken h, ledgKeyDo_rotates hk ha]
  · rw [ledgkeyWrite_taken h, ledgKeyDo_unanchored hk ha]
  · rw [ledgprove_taken h, proveDo_unknown ho hn]
  · subst h0
    rw [ledgprove_taken h]
    exact congrArg Host.Outcome.next (proveDo_proves ho hq hi hv hk)

end Sys2Proof.Machine
end

section
/-! The debug port (O49). -/

namespace Sys2Proof.Machine

/-! ## The command register (R532) -/

/-- The pair when a debug port issues an operation: a mailbox write clears IHOST (R466). -/
def dbgPort (s : State) (tap : Bool) : State := if tap then s else hostActive s

theorem inv_dbgPort {s : State} (hI : Inv s) (tap : Bool) : Inv (dbgPort s tap) := by
  unfold dbgPort
  split
  · exact hI
  · exact (keeps_hostActive (Keeps.refl s)).2 hI

theorem dbgLevel_barPut (s : State) (o n : Nat) (tap : Bool) : dbgLevel (barPut s o n) tap = dbgLevel s tap := (rfl)

section
variable {p : State} (hI : Inv p)
include hI

theorem inv_bar : tabWf barReset none p.bar = true := by
  obtain ⟨-, -, -, hb, -⟩ := hI
  exact hb

theorem dmAddr_barPut {x : Nat} (hx : x < 2 ^ 64) : barGet (barPut p bDMADDR x) bDMADDR = x := by
  rw [barGet_barPut (inv_bar hI), if_pos rfl, Nat.mod_eq_of_lt hx]
theorem dmAddr_barPut_data {x : Nat} (hx : x < 2 ^ 64) (y : Nat) :
    barGet (barPut (barPut p bDMADDR x) bDMDATA y) bDMADDR = x := by
  rw [barGet_barPut (barPut_wf (inv_bar hI) _ _), if_neg (by decide), dmAddr_barPut hI hx]
theorem dmData_barPut {y : Nat} (hy : y < 2 ^ 64) (x : Nat) :
    barGet (barPut (barPut p bDMADDR x) bDMDATA y) bDMDATA = y := by
  rw [barGet_barPut (barPut_wf (inv_bar hI) _ _), if_pos rfl, Nat.mod_eq_of_lt hy]

end

section
variable {s : State} {tap : Bool} {w : Nat}

theorem dmRow_idle (h : dbgReady s tap = false) (w : Nat) (a d : Option Nat) : dmRow s tap w a d = s :=
  if_pos (by rw [h, Bool.not_false])

section
variable (h : dbgReady s tap = true) (w : Nat)
include h

theorem dmRow_command : dmRow s tap w none none = dmCmd (dbgPort s tap) tap w :=
  if_neg (by rw [h]; exact Bool.false_ne_true)
theorem dmRow_address (x : Nat) : dmRow s tap w (some x) none = dmCmd (barPut (dbgPort s tap) bDMADDR x) tap w :=
  if_neg (by rw [h]; exact Bool.false_ne_true)
theorem dmRow_data (x y : Nat) : dmRow s tap w (some x) (some y) =
    dmCmd (barPut (barPut (dbgPort s tap) bDMADDR x) bDMDATA y) tap w :=
  if_neg (by rw [h]; exact Bool.false_ne_true)

end

/-! What each operation does; those that store a word ask that DMDATA holds one. -/

theorem dmCmd_open (h : bits w 0 4 = 1) : dmCmd s tap w = openDo s tap (bits w 4 2) := by
  simp only [dmCmd, h, if_true]
theorem dmCmd_respond : dmCmd s tap 2 = respondDo s tap := (rfl)
theorem dmCmd_close : dmCmd s tap 3 = closeDo s tap := (rfl)
theorem dmCmd_readData : dmCmd s tap 4 = readDataDo s tap (barGet s bDMADDR % 2 ^ 36) := (rfl)
theorem dmCmd_readIo : dmCmd s tap 6 = readIoDo s tap (barGet s bDMADDR % 2 ^ 24) := (rfl)
theorem dmCmd_readCs : dmCmd s tap 8 = readCsDo s tap (barGet s bDMADDR % 2 ^ 20) := (rfl)
theorem dmCmd_halt (h : bits w 0 4 = 10) : dmCmd s tap w = haltDo s tap (bits w 6 5) := by
  simp only [dmCmd, h, Nat.reduceEqDiff, if_false, if_true]
theorem dmCmd_resume (h : bits w 0 4 = 11) : dmCmd s tap w = resumeDo s tap (bits w 6 5) := by
  simp only [dmCmd, h, Nat.reduceEqDiff, if_false, if_true]
theorem dmCmd_step (h : bits w 0 4 = 12) : dmCmd s tap w = stepDo s tap (bits w 6 5) := by
  simp only [dmCmd, h, Nat.reduceEqDiff, if_false, if_true]
theorem dmCmd_setBrk (h : bits w 0 4 = 13) : dmCmd s tap w =
    setBrkDo s tap (bits w 6 5) (bits w 11 2) (barGet s bDMADDR % 2 ^ 20) (bitAt (barGet s bDMDATA) 0) := by
  simp only [dmCmd, h, Nat.reduceEqDiff, if_false, if_true]
theorem dmCmd_readReg (h : bits w 0 4 = 14) :
    dmCmd s tap w = readRegDo s tap (bits w 6 5) (barGet s bDMADDR % 64) := by
  simp only [dmCmd, h, Nat.reduceEqDiff, if_false, if_true]

section
variable (hd : barGet s bDMDATA < 2 ^ 40)
include hd

theorem dmCmd_writeData :
    dmCmd s tap 5 = writeDataDo s tap (barGet s bDMADDR % 2 ^ 36) (BitVec.ofNat 40 (barGet s bDMDATA)) := by
  have h : ¬(bits 5 0 4 = 0 ∨ bits 5 0 4 = 15 ∨ 2 ^ 40 ≤ barGet s bDMDATA) := by unfold bits; omega
  exact if_neg h
theorem dmCmd_writeIo :
    dmCmd s tap 7 = writeIoDo s tap (barGet s bDMADDR % 2 ^ 24) (BitVec.ofNat 40 (barGet s bDMDATA)) := by
  have h : ¬(bits 7 0 4 = 0 ∨ bits 7 0 4 = 15 ∨ 2 ^ 40 ≤ barGet s bDMDATA) := by unfold bits; omega
  exact if_neg h
theorem dmCmd_writeCs :
    dmCmd s tap 9 = writeCsDo s tap (barGet s bDMADDR % 2 ^ 20) (BitVec.ofNat 40 (barGet s bDMDATA)) := by
  have h : ¬(bits 9 0 4 = 0 ∨ bits 9 0 4 = 15 ∨ 2 ^ 40 ≤ barGet s bDMDATA) := by unfold bits; omega
  exact if_neg h

end
end

/-! ## The rows of a port that is ready -/

theorem exec_dbgOpen (tap : Bool) (lv : BitVec 2) (s : State) :
    exec (.dbgOpen tap lv) s = .next (dmRow s tap (1 + 16 * lv.toNat) none none) := (rfl)
theorem exec_dbgRespond (tap : Bool) (resp : BitVec 128) (s : State) : exec (.dbgRespond tap resp) s = .next (
    if dbgReady s tap then dmRow { s with dbg := { s.dbg with resp := resp } } tap 2 none none else s) := (rfl)
theorem exec_dbgClose (tap : Bool) (s : State) : exec (.dbgClose tap) s = .next (dmRow s tap 3 none none) := (rfl)
theorem exec_debugReadData (tap : Bool) (a : Payload) (s : State) :
    exec (.debugReadData tap a) s = .next (dmRow s tap 4 (some a.toNat) none) := (rfl)
theorem exec_debugWriteData (tap : Bool) (a : Payload) (w : Word) (s : State) :
    exec (.debugWriteData tap a w) s = .next (dmRow s tap 5 (some a.toNat) (some w.toNat)) := (rfl)
theorem exec_debugReadIo (tap : Bool) (a : BitVec 24) (s : State) :
    exec (.debugReadIo tap a) s = .next (dmRow s tap 6 (some a.toNat) none) := (rfl)
theorem exec_debugWriteIo (tap : Bool) (a : BitVec 24) (w : Word) (s : State) :
    exec (.debugWriteIo tap a w) s = .next (dmRow s tap 7 (some a.toNat) (some w.toNat)) := (rfl)
theorem exec_debugReadCs (tap : Bool) (l : Link) (s : State) :
    exec (.debugReadCs tap l) s = .next (dmRow s tap 8 (some l.toNat) none) := (rfl)
theorem exec_debugWriteCs (tap : Bool) (l : Link) (w : Word) (s : State) :
    exec (.debugWriteCs tap l w) s = .next (dmRow s tap 9 (some l.toNat) (some w.toNat)) := (rfl)
theorem exec_dbgHalt (tap : Bool) (k : CoreId) (s : State) :
    exec (.dbgHalt tap k) s = .next (dmRow s tap (10 + 64 * k.val) none none) := (rfl)
theorem exec_dbgResume (tap : Bool) (k : CoreId) (s : State) :
    exec (.dbgResume tap k) s = .next (dmRow s tap (11 + 64 * k.val) none none) := (rfl)
theorem exec_dbgStep (tap : Bool) (k : CoreId) (s : State) :
    exec (.dbgStep tap k) s = .next (dmRow s tap (12 + 64 * k.val) none none) := (rfl)
theorem exec_dbgSetBreakpoint (tap : Bool) (k : CoreId) (n : Fin 4) (l : Link) (en : Bool) (s : State) :
    exec (.dbgSetBreakpoint tap k n l en) s =
      .next (dmRow s tap (13 + 64 * k.val + 2048 * n.val) (some l.toNat) (some en.toNat)) := (rfl)
theorem exec_dbgReadRegister (tap : Bool) (k : CoreId) (sel : BitVec 6) (s : State) :
    exec (.dbgReadRegister tap k sel) s = .next (dmRow s tap (14 + 64 * k.val) (some sel.toNat) none) := (rfl)

/-- R475, R532: the rows of a port that is not ready. -/
theorem debugRows_idle {s : State} {tap : Bool} (h : dbgReady s tap = false) (lv : BitVec 2) (resp : BitVec 128)
    (a : Payload) (w : Word) :
    exec (.dbgOpen tap lv) s = .next s ∧ exec (.dbgRespond tap resp) s = .next s ∧ exec (.dbgClose tap) s = .next s ∧
      exec (.debugReadData tap a) s = .next s ∧ exec (.debugWriteData tap a w) s = .next s := by
  refine ⟨?_, ?_, ?_, ?_, ?_⟩
  · rw [exec_dbgOpen, dmRow_idle h]
  · rw [exec_dbgRespond, if_neg (Bool.eq_false_iff.mp h)]
  · rw [exec_dbgClose, dmRow_idle h]
  · rw [exec_debugReadData, dmRow_idle h]
  · rw [exec_debugWriteData, dmRow_idle h]

section
variable {s : State} {tap : Bool} (hr : dbgReady s tap = true)
include hr

theorem dbgOpen_ready (lv : BitVec 2) : exec (.dbgOpen tap lv) s = .next (openDo (dbgPort s tap) tap lv.toNat) := by
  have h0 : bits (1 + 16 * lv.toNat) 0 4 = 1 := by unfold bits; omega
  have h4 : bits (1 + 16 * lv.toNat) 4 2 = lv.toNat := by unfold bits; omega
  rw [exec_dbgOpen, dmRow_command hr, dmCmd_open h0, h4]
theorem dbgClose_ready : exec (.dbgClose tap) s = .next (closeDo (dbgPort s tap) tap) := by
  rw [exec_dbgClose, dmRow_command hr, dmCmd_close]

section
variable (k : CoreId)

theorem dbgHalt_ready : exec (.dbgHalt tap k) s = .next (haltDo (dbgPort s tap) tap k.val) := by
  have h0 : bits (10 + 64 * k.val) 0 4 = 10 := by unfold bits; omega
  have h6 : bits (10 + 64 * k.val) 6 5 = k.val := by unfold bits; omega
  rw [exec_dbgHalt, dmRow_command hr, dmCmd_halt h0, h6]
theorem dbgResume_ready : exec (.dbgResume tap k) s = .next (resumeDo (dbgPort s tap) tap k.val) := by
  have h0 : bits (11 + 64 * k.val) 0 4 = 11 := by unfold bits; omega
  have h6 : bits (11 + 64 * k.val) 6 5 = k.val := by unfold bits; omega
  rw [exec_dbgResume, dmRow_command hr, dmCmd_resume h0, h6]
theorem dbgStep_ready : exec (.dbgStep tap k) s = .next (stepDo (dbgPort s tap) tap k.val) := by
  have h0 : bits (12 + 64 * k.val) 0 4 = 12 := by unfold bits; omega
  have h6 : bits (12 + 64 * k.val) 6 5 = k.val := by unfold bits; omega
  rw [exec_dbgStep, dmRow_command hr, dmCmd_step h0, h6]

end

section
variable (hI : Inv s)
include hI

theorem debugReadData_ready (a : Payload) : exec (.debugReadData tap a) s =
    .next (readDataDo (barPut (dbgPort s tap) bDMADDR a.toNat) tap a.toNat) := by
  rw [exec_debugReadData, dmRow_address hr, dmCmd_readData, dmAddr_barPut (inv_dbgPort hI tap) (by omega),
    Nat.mod_eq_of_lt a.isLt]
theorem debugReadIo_ready (a : BitVec 24) : exec (.debugReadIo tap a) s =
    .next (readIoDo (barPut (dbgPort s tap) bDMADDR a.toNat) tap a.toNat) := by
  rw [exec_debugReadIo, dmRow_address hr, dmCmd_readIo, dmAddr_barPut (inv_dbgPort hI tap) (by omega),
    Nat.mod_eq_of_lt a.isLt]
theorem debugReadCs_ready (l : Link) : exec (.debugReadCs tap l) s =
    .next (readCsDo (barPut (dbgPort s tap) bDMADDR l.toNat) tap l.toNat) := by
  rw [exec_debugReadCs, dmRow_address hr, dmCmd_readCs, dmAddr_barPut (inv_dbgPort hI tap) (by omega),
    Nat.mod_eq_of_lt l.isLt]
theorem dbgReadRegister_ready (k : CoreId) (sel : BitVec 6) : exec (.dbgReadRegister tap k sel) s =
    .next (readRegDo (barPut (dbgPort s tap) bDMADDR sel.toNat) tap k.val sel.toNat) := by
  have h0 : bits (14 + 64 * k.val) 0 4 = 14 := by unfold bits; omega
  have h6 : bits (14 + 64 * k.val) 6 5 = k.val := by unfold bits; omega
  rw [exec_dbgReadRegister, dmRow_address hr, dmCmd_readReg h0, h6, dmAddr_barPut (inv_dbgPort hI tap) (by omega),
    Nat.mod_eq_of_lt sel.isLt]

section
variable (w : Word)

theorem debugWriteData_ready (a : Payload) : exec (.debugWriteData tap a w) s =
    .next (writeDataDo (barPut (barPut (dbgPort s tap) bDMADDR a.toNat) bDMDATA w.toNat) tap a.toNat w) := by
  have hd := dmData_barPut (inv_dbgPort hI tap) (y := w.toNat) (by omega) a.toNat
  rw [exec_debugWriteData, dmRow_data hr, dmCmd_writeData (by rw [hd]; exact w.isLt), hd,
    dmAddr_barPut_data (inv_dbgPort hI tap) (by omega), Nat.mod_eq_of_lt a.isLt, BitVec.ofNat_toNat, BitVec.setWidth_eq]
theorem debugWriteIo_ready (a : BitVec 24) : exec (.debugWriteIo tap a w) s =
    .next (writeIoDo (barPut (barPut (dbgPort s tap) bDMADDR a.toNat) bDMDATA w.toNat) tap a.toNat w) := by
  have hd := dmData_barPut (inv_dbgPort hI tap) (y := w.toNat) (by omega) a.toNat
  rw [exec_debugWriteIo, dmRow_data hr, dmCmd_writeIo (by rw [hd]; exact w.isLt), hd,
    dmAddr_barPut_data (inv_dbgPort hI tap) (by omega), Nat.mod_eq_of_lt a.isLt, BitVec.ofNat_toNat, BitVec.setWidth_eq]
theorem debugWriteCs_ready (l : Link) : exec (.debugWriteCs tap l w) s =
    .next (writeCsDo (barPut (barPut (dbgPort s tap) bDMADDR l.toNat) bDMDATA w.toNat) tap l.toNat w) := by
  have hd := dmData_barPut (inv_dbgPort hI tap) (y := w.toNat) (by omega) l.toNat
  rw [exec_debugWriteCs, dmRow_data hr, dmCmd_writeCs (by rw [hd]; exact w.isLt), hd,
    dmAddr_barPut_data (inv_dbgPort hI tap) (by omega), Nat.mod_eq_of_lt l.isLt, BitVec.ofNat_toNat, BitVec.setWidth_eq]

end

theorem dbgSetBreakpoint_ready (k : CoreId) (n : Fin 4) (l : Link) (en : Bool) :
    exec (.dbgSetBreakpoint tap k n l en) s = .next (setBrkDo
      (barPut (barPut (dbgPort s tap) bDMADDR l.toNat) bDMDATA en.toNat) tap k.val n.val l.toNat en) := by
  have he : en.toNat < 2 := Bool.toNat_lt en
  have h0 : bits (13 + 64 * k.val + 2048 * n.val) 0 4 = 13 := by unfold bits; omega
  have h6 : bits (13 + 64 * k.val + 2048 * n.val) 6 5 = k.val := by unfold bits; omega
  have h11 : bits (13 + 64 * k.val + 2048 * n.val) 11 2 = n.val := by unfold bits; omega
  have hb : bitAt en.toNat 0 = en := by cases en <;> rfl
  rw [exec_dbgSetBreakpoint, dmRow_data hr, dmCmd_setBrk h0, h6, h11, dmData_barPut (inv_dbgPort hI tap) (by omega), hb,
    dmAddr_barPut_data (inv_dbgPort hI tap) (by omega), Nat.mod_eq_of_lt l.isLt]

end
end

/-! ## Attaching (R526, R527) -/

section
variable {s : State} {tap : Bool}

theorem openDo_refused {k : Nat} (h : openRefused s tap k = true) : openDo s tap k = dbgResult s 1 := if_pos h
theorem openDo_asks {k : Nat} (h : openRefused s tap k = false) : openDo s tap k = dbgResult { bump s with
    dbg := { s.dbg with
      chal := BitVec.ofNat 128 (freeVal s)
      asked := some (k, tap) } } 3 := if_neg (Bool.eq_false_iff.mp h)

theorem closeDo_own (ha : dbgAttached s = true) (ho : ioB s aDBGSTAT 4 = tap) :
    closeDo s tap = dbgResult (setCause (dbgDetach s) 6 false) 0 := by
  rw [closeDo, if_pos (by rw [ha, ho, BEq.rfl]; rfl), dbgLeave, if_pos ha]
theorem closeDo_none (ha : dbgAttached s = false) : closeDo s tap = dbgResult s 1 :=
  if_neg (by rw [ha, Bool.false_and]; exact Bool.false_ne_true)

theorem dbgPort_tap (s : State) : dbgPort s true = s := (rfl)

/-- R526: the response to the port's own challenge goes to the engine. -/
theorem respondDo_verifies {k : Nat} (ha : s.dbg.asked = some (k, tap)) (hv : s.dbg.verify = false)
    (hc : cipherValid s = true) (hj : jobOf s 33 = none) : respondDo s tap =
      jobStart (ioSetB { s with dbg := { s.dbg with verify := true } } aDBGSTAT 0 true) 33 (verifyJob s k) := by
  simp only [respondDo, ha, hv, hc, hj, Option.isNone_none, Bool.and_self, ne_eq, not_true_eq_false, Bool.false_eq_true,
    or_self, if_false, if_true]

/-- R526: the response that the TAP brings. -/
theorem dbgRespond_tap {k : Nat} (resp : BitVec 128) (hs : s.alive = true) (ha : s.dbg.asked = some (k, true))
    (hv : s.dbg.verify = false) (hc : cipherValid s = true) (hj : jobOf s 33 = none) :
    exec (.dbgRespond true resp) s = .next (jobStart (ioSetB { s with
      dbg := { s.dbg with
        resp := resp
        verify := true } } aDBGSTAT 0 true) 33 (verifyJob s k)) := by
  have hr : dbgReady s true = true := by rw [dbgReady, hs]; rfl
  rw [exec_dbgRespond, if_pos hr, dmRow_command (s := { s with dbg := { s.dbg with resp := resp } }) hr, dbgPort_tap,
    dmCmd_respond, respondDo_verifies (s := { s with dbg := { s.dbg with resp := resp } }) ha hv hc hj]
  rfl

end

theorem exec_debugVerifyDone (st : BitVec 3) (s : State) : exec (.debugVerifyDone st) s = .next (match jobOf s 33 with
    | none => s
    | some j => if j.atEng then verifyEnd (jobDone s 33 j st.toNat) (cipherOk st.toNat && !j.fault) else s) := (rfl)
theorem exec_challengeExpiry (s : State) :
    exec .challengeExpiry s = .next (if s.dbg.verify then s else dbgFail s) := (rfl)

section
variable {s : State}

theorem debugVerifyDone_ends {st : BitVec 3} {j : Job} (hj : jobOf s 33 = some j) (he : j.atEng = true) :
    exec (.debugVerifyDone st) s = .next (verifyEnd (jobDone s 33 j st.toNat) (cipherOk st.toNat && !j.fault)) := by
  rw [exec_debugVerifyDone, hj]
  exact congrArg Host.Outcome.next (if_pos he)
theorem debugVerifyDone_none {st : BitVec 3} (hj : jobOf s 33 = none) : exec (.debugVerifyDone st) s = .next s := by
  rw [exec_debugVerifyDone, hj]

theorem challengeExpiry_verifying (hv : s.dbg.verify = true) : exec .challengeExpiry s = .next s := by
  rw [exec_challengeExpiry, if_pos hv]
theorem challengeExpiry_denies {k : Nat} {tap : Bool} (hv : s.dbg.verify = false) (ha : s.dbg.asked = some (k, tap)) :
    exec .challengeExpiry s = .next (dbgDeny { s with dbg := { s.dbg with asked := none } } k tap 2 5 (natW 0)) := by
  rw [exec_challengeExpiry, if_neg (Bool.eq_false_iff.mp hv), dbgFail, ha]

end

/-! ## Data space (R524, R525) -/

section
variable {t : State} {tap : Bool} {a : Nat}

theorem readDataDo_low (hl : dbgLevel t tap = 0) : readDataDo t tap a = dbgNo t tap 4 4 (addrW a) := if_pos (by omega)

section
variable (hl : 1 ≤ dbgLevel t tap) (hb : isBank a = true)
include hl hb

theorem readDataDo_keeper (hk : bankKeeper t (bankOf a) = true) :
    readDataDo t tap a = dbgNo (barPut t bDMDATA 0) tap 4 1 (addrW a) := by
  simp only [readDataDo, if_neg (Nat.not_lt.mpr hl), hb, hk, dbgNoRead, Bool.not_true, Bool.false_eq_true, if_false,
    if_true]
theorem readDataDo_word (hk : bankKeeper t (bankOf a) = false) (hs : bankState t (bankOf a) = 0) (he : a ∉ t.eccBad)
    (hx : isSecret (memGet t a) = false) :
    readDataDo t tap a = dbgResult (barPut (eccRead t a) bDMDATA (memGet t a).toNat) 0 := by
  have hc : t.eccBad.contains a = false := by rw [List.contains_eq_mem, decide_eq_false he]
  simp only [readDataDo, if_neg (Nat.not_lt.mpr hl), hb, hk, hs, hc, hx, dbgAnswer, Bool.not_true, Bool.false_eq_true,
    if_false, ne_eq, not_true_eq_false]

end

section
variable {w : Word} (hl : 2 ≤ dbgLevel t tap) (hb : isBank a = true) (hk : bankKeeper t (bankOf a) = false)
  (hx : isSecret (memGet t a) = false)
include hl hb hk hx

theorem writeDataDo_tag (hw : dbgTag (wtag w) = false) : writeDataDo t tap a w = dbgNo t tap 5 3 (addrW a) := by
  simp only [writeDataDo, if_neg (Nat.not_lt.mpr hl), hb, hk, hx, hw, Bool.not_true, Bool.not_false, Bool.or_self,
    Bool.false_eq_true, if_false, if_true]
theorem writeDataDo_word (hw : dbgTag (wtag w) = true) (hs : bankState t (bankOf a) = 0) :
    writeDataDo t tap a w = dbgResult (memPut t a w) 0 := by
  simp only [writeDataDo, if_neg (Nat.not_lt.mpr hl), hb, hk, hx, hw, hs, Bool.not_true, Bool.or_self, Bool.false_eq_true,
    if_false, ne_eq, not_true_eq_false]

end

/-! ## I/O space (R524, R532) -/

/-- R524: a register of rings 1 and 2 that holds no key. -/
theorem readIoDo_word {i : RegInfo} (hl : 1 ≤ dbgLevel t tap) (hn : dbgNoReg a = false) (hp : isPatch a = false)
    (hi : regInfo 32 a = some i) (h1 : bitAt i.rd 1 = true) (h2 : bitAt i.rd 2 = true) (ho : ioIslandOff t a = false)
    (hx : isSecret (ioValue t 32 a) = false) : readIoDo t tap a = dbgAnswer t (ioValue t 32 a) := by
  simp only [readIoDo, if_neg (Nat.not_lt.mpr hl), hn, hp, hi, h1, h2, ho, hx, Bool.not_true, Bool.false_and,
    Bool.false_eq_true, if_false]

/-- R524: a register that ring 2 may write is written in its name. -/
theorem writeIoDo_performs {i : RegInfo} {r : Nat} {w : Word} (hl : 2 ≤ dbgLevel t tap) (hn : dbgNoReg a = false)
    (hp : isPatch a = false) (hi : regInfo 32 a = some i) (h1 : bitAt i.rd 1 = true) (hw : dbgTag (wtag w) = true)
    (hb : isBrk a = false) (hr : i.wr = some r) (h2 : bitAt r 2 = true) (hx : ioExtraPriv 2 a w = false)
    (ht : ioTag a (wtag w) = true) (ho : ioIslandOff t a = false) : writeIoDo t tap a w = dbgPerform t 2 i a w := by
  simp only [writeIoDo, if_neg (Nat.not_lt.mpr hl), hn, hp, hi, h1, hw, hb, hr, h2, hx, ht, ho, Bool.not_true,
    Bool.true_or, Bool.or_self, Bool.false_eq_true, if_false, if_true]

end

/-! ## Control store (R524, R532) -/

section
variable {t : State} {tap : Bool} {l : Link}

theorem linkW_ofNat (l : Link) : linkW (BitVec.ofNat 20 l.toNat) = linkW l := by
  rw [BitVec.ofNat_toNat, BitVec.setWidth_eq]

section
variable (hl : 1 ≤ dbgLevel t tap) (ha : lineAbsent (lineOf l) = false)
include hl ha

theorem readCsDo_syllable (hr : 2 ≤ lineRing t (lineOf l)) :
    readCsDo t tap l.toNat = dbgAnswer (csNote t (lineOf l)) (csRaw t l.toNat) := by
  rw [lineOf] at ha hr ⊢
  have h1 : ¬(lineRing t (l.toNat / 8) = 1 ∧ dbgLevel t tap < 3) := by omega
  simp only [readCsDo, if_neg (Nat.not_lt.mpr hl), ha, if_neg (show ¬lineRing t (l.toNat / 8) = 0 by omega), if_neg h1,
    Bool.false_eq_true, if_false]
theorem readCsDo_ring0 (hr : lineRing t (lineOf l) = 0) :
    readCsDo t tap l.toNat = dbgNo (barPut t bDMDATA 0) tap 8 1 (linkW l) := by
  rw [lineOf] at ha hr
  simp only [readCsDo, if_neg (Nat.not_lt.mpr hl), ha, hr, linkW_ofNat, dbgNoRead, Bool.false_eq_true, if_false, if_true]

end

section
variable {w : Word}

theorem writeCsDo_low (hl : dbgLevel t tap < 3) : writeCsDo t tap l.toNat w = dbgNo t tap 9 4 (linkW l) := by
  simp only [writeCsDo, if_pos hl, linkW_ofNat]

/-- R74: a writable line is present. -/
theorem lineAbsent_of_writable {n : Nat} (h : lineWritable n = true) : lineAbsent n = false := by
  simp only [lineWritable, Bool.and_eq_true, decide_eq_true_eq] at h
  exact decide_eq_false (by omega)

theorem writeCsDo_syllable (hl : 3 ≤ dbgLevel t tap) (hw : lineWritable (lineOf l) = true)
    (hr : lineRing t (lineOf l) ≠ 0) : writeCsDo t tap l.toNat w = dbgResult (csPut t l.toNat w) 0 := by
  have ha := lineAbsent_of_writable hw
  rw [lineOf] at ha hw hr
  simp only [writeCsDo, if_neg (Nat.not_lt.mpr hl), ha, hw, if_neg hr, Bool.not_true, Bool.false_eq_true, if_false]

end
end

/-! ## Cores (R528, R529, R532) -/

section
variable {t : State} {tap : Bool} {k : Nat}

section
variable (hl : dbgLevel t tap < 2)
include hl

theorem haltDo_low : haltDo t tap k = dbgNo t tap 10 4 (natW 0) := if_pos hl
theorem resumeDo_low : resumeDo t tap k = dbgNo t tap 11 4 (natW 0) := if_pos hl
theorem stepDo_low : stepDo t tap k = dbgNo t tap 12 4 (natW 0) := if_pos hl

end

section
variable (hl : 2 ≤ dbgLevel t tap)
include hl

theorem coreOp_done {op : Nat} {f : State} : coreOp t tap op f true = dbgResult f 0 :=
  (if_neg (Nat.not_lt.mpr hl)).trans (if_pos rfl)
theorem coreOp_refused {op : Nat} {f : State} : coreOp t tap op f false = dbgResult t 1 :=
  (if_neg (Nat.not_lt.mpr hl)).trans (if_neg Bool.false_ne_true)

theorem haltDo_asks : haltDo t tap k = dbgResult (setCore t k { coreOf t k with haltReq := true }) 0 := coreOp_done hl
theorem resumeDo_resumes (hh : (coreOf t k).halted = true) : resumeDo t tap k = dbgResult (setCore t k { coreOf t k with
    halted := false
    haltReq := false
    stepReq := false }) 0 := by
  rw [resumeDo, hh, Bool.true_or, coreOp_done hl]
  rfl
theorem stepDo_steps (hh : (coreOf t k).halted = true) : stepDo t tap k = dbgResult (setCore t k { coreOf t k with
    halted := false
    stepReq := true }) 0 := by
  rw [stepDo, hh, coreOp_done hl]
  rfl
theorem stepDo_refused (hh : (coreOf t k).halted = false) : stepDo t tap k = dbgResult t 1 := by
  rw [stepDo, hh, coreOp_refused hl]

section
variable {n : Nat} {l : Link} {en : Bool}

/-- R529: a breakpoint with ACT 0 on a present line of rings 1 to 3 is set. -/
theorem setBrkDo_eq : setBrkDo t tap k n l.toNat en =
    if lineAbsent (lineOf l) || lineRing t (lineOf l) == 0 then dbgNo t tap 13 2 (linkW l)
    else dbgResult (ioPut t (priv k (oDBGBRK n)) (natW (l.toNat + 2 ^ 20 * en.toNat))) 0 := by
  have he : en.toNat < 2 := Bool.toNat_lt en
  have hw : l.toNat % 2 ^ 20 + 2 ^ 20 * en.toNat = l.toNat + 2 ^ 20 * en.toNat := by omega
  have h21 : bitAt (l.toNat + 2 ^ 20 * en.toNat) 21 = false := by
    simp only [bitAt, beq_eq_false_iff_ne]
    omega
  have h3 : bits (l.toNat + 2 ^ 20 * en.toNat) 3 17 = lineOf l := by
    unfold bits lineOf
    omega
  have h22 : (l.toNat + 2 ^ 20 * en.toNat) % 2 ^ 22 = l.toNat + 2 ^ 20 * en.toNat := by omega
  rw [setBrkDo, if_neg (Nat.not_lt.mpr hl), hw, brkDo, h21, h3, h22, linkW_ofNat, Bool.false_or]

theorem setBrkDo_denied (h : lineAbsent (lineOf l) = true ∨ lineRing t (lineOf l) = 0) :
    setBrkDo t tap k n l.toNat en = dbgNo t tap 13 2 (linkW l) :=
  (setBrkDo_eq hl).trans (if_pos (by simpa using h))
theorem setBrkDo_sets (ha : lineAbsent (lineOf l) = false) (hr : lineRing t (lineOf l) ≠ 0) :
    setBrkDo t tap k n l.toNat en =
      dbgResult (ioPut t (priv k (oDBGBRK n)) (natW (l.toNat + 2 ^ 20 * en.toNat))) 0 :=
  (setBrkDo_eq hl).trans (if_neg (by simp [ha, hr]))

end
end

theorem readRegDo_word {sel : Nat} {x : Word}
    (hx : (if sel < 32 then regRead (coreOf t k) sel else crRead t k (sel - 32)) = x) (hl : 1 ≤ dbgLevel t tap)
    (hh : (coreOf t k).halted = true) (h53 : sel ≤ 53) (hs : isSecret x = false) :
    readRegDo t tap k sel = dbgAnswer t x := by
  simp only [readRegDo, hx, if_neg (Nat.not_lt.mpr hl), hh, decide_eq_false (Nat.not_lt.mpr h53), hs, Bool.not_true,
    Bool.or_self, Bool.false_eq_true, if_false]

end

/-! ## Halts that are reached (R528, R529) -/

theorem exec_debugHaltReached (c : CoreId) (s : State) : exec (.debugHaltReached c) s =
    .next (if (coreOf s c.val).haltReq && haltAt s c.val then haltNow s c.val else s) := (rfl)
theorem exec_breakpointHalt (c : CoreId) (n : Fin 4) (s : State) : exec (.breakpointHalt c n) s =
    .next (if bitAt (pay (ioGet s (priv c.val (oDBGBRK n.val)))) 20 &&
        !bitAt (pay (ioGet s (priv c.val (oDBGBRK n.val)))) 21 &&
        bits (pay (ioGet s (priv c.val (oDBGBRK n.val)))) 0 20 == (coreOf s c.val).mpc.toNat && haltAt s c.val
      then haltNow s c.val else s) := (rfl)

/-! ## The TAP (R533) -/

theorem exec_tapBypass (s : State) : exec .tapBypass s = .next (tapSet s 0xFF 0#64) := (rfl)
theorem exec_tapIdcode (s : State) : exec .tapIdcode s = .next (tapSet s 0x01 (Config.idcode.setWidth 64)) := (rfl)
theorem exec_tapSamplePreload (s : State) : exec .tapSamplePreload s = .next (tapScan s 0x02) := (rfl)
theorem exec_tapExtest (s : State) : exec .tapExtest s = .next (tapScan s 0x03) := (rfl)
theorem exec_tapDbgacc (o : BitVec 8) (write : Bool) (w : BitVec 64) (s : State) : exec (.tapDbgacc o write w) s =
    .next (if write then
        (if s.alive then dmWrite (tapSet s 0x20 w) true o.toNat w.toNat else tapSet s 0x20 w)
      else tapSet s 0x20 (BitVec.ofNat 64 (dmRead s o.toNat))) := (rfl)

section
variable {s : State}

/-- R533: boundary scan is open at L3 through the TAP, and acts as BYPASS below. -/
theorem tapScan_open (h : dbgLevel s true = 3) (ir : Nat) :
    tapScan s ir = tapSet (bump s) ir (BitVec.ofNat 64 (freeVal s)) := if_pos h
theorem tapScan_bypass (h : dbgLevel s true ≠ 3) (ir : Nat) : tapScan s ir = tapSet s 0xFF 0#64 := if_neg h

theorem tapDbgacc_write {o : BitVec 8} {w : BitVec 64} (ha : s.alive = true) :
    exec (.tapDbgacc o true w) s = .next (dmWrite (tapSet s 0x20 w) true o.toNat w.toNat) := by
  rw [exec_tapDbgacc, if_pos rfl, if_pos ha]

end

/-- Settles O49: each operation of a ready port by its checks, the rest by the state of the challenge, the core or the TAP. -/
theorem debugPort : Obligations.DebugPort := by
  unfold Obligations.DebugPort
  refine ⟨fun s tap lv resp a io l w k n en sel hI => ⟨fun hr => debugRows_idle hr lv resp a w, fun hr => ?_⟩,
    fun s c n tap resp st j o w => ?_⟩
  · rw [← dbgPort]
    generalize hp : dbgPort s tap = p
    intro p' at_ with_ level
    have hat (x : Nat) : dbgLevel (at_ x) tap = level := dbgLevel_barPut ..
    have hwith (x y : Nat) : dbgLevel (with_ x y) tap = level := (dbgLevel_barPut ..).trans (hat x)
    refine ⟨fun ho => ?_, fun ho => ?_, fun ha ho => ?_, fun ha => ?_,
      ⟨fun hl => ?_, fun hl hb hk => ?_, fun hl hb hk hs he hx => ?_⟩,
      fun hl hb hk hx => ⟨fun ht => ?_, fun ht hs => ?_⟩,
      fun i hl hn hc hi h1 h2 ho hx => ?_, fun i r hl hn hc hi h1 hw hb hwr h2 hx ht ho => ?_,
      ⟨fun hl ha h2 => ?_, fun hl ha h0 => ?_⟩, ⟨fun hl => ?_, fun hl hw h0 => ?_⟩,
      fun hl => ⟨?_, ?_, ?_⟩, fun hl => ⟨?_, fun hh => ⟨?_, ?_⟩, fun hh => ?_, ⟨fun hd => ?_, fun ha h0 => ?_⟩⟩,
      fun hl hh h53 hx => ?_⟩
    · rw [dbgOpen_ready hr, hp, openDo_refused ho]
    · rw [dbgOpen_ready hr, hp, openDo_asks ho]
    · rw [dbgClose_ready hr, hp, closeDo_own ha ho]
    · rw [dbgClose_ready hr, hp, closeDo_none ha]
    · rw [debugReadData_ready hr hI, hp]
      exact congrArg Host.Outcome.next (readDataDo_low ((hat _).symm ▸ hl))
    · rw [debugReadData_ready hr hI, hp]
      exact congrArg Host.Outcome.next (readDataDo_keeper ((hat _).symm ▸ hl) hb hk)
    · rw [debugReadData_ready hr hI, hp]
      exact congrArg Host.Outcome.next (readDataDo_word ((hat _).symm ▸ hl) hb hk hs he hx)
    · rw [debugWriteData_ready hr hI, hp]
      exact congrArg Host.Outcome.next (writeDataDo_tag ((hwith _ _).symm ▸ hl) hb hk hx ht)
    · rw [debugWriteData_ready hr hI, hp]
      exact congrArg Host.Outcome.next (writeDataDo_word ((hwith _ _).symm ▸ hl) hb hk hx ht hs)
    · rw [debugReadIo_ready hr hI, hp]
      exact congrArg Host.Outcome.next (readIoDo_word ((hat _).symm ▸ hl) hn hc hi h1 h2 ho hx)
    · rw [debugWriteIo_ready hr hI, hp]
      exact congrArg Host.Outcome.next (writeIoDo_performs ((hwith _ _).symm ▸ hl) hn hc hi h1 hw hb hwr h2 hx ht ho)
    · rw [debugReadCs_ready hr hI, hp]
      exact congrArg Host.Outcome.next (readCsDo_syllable ((hat _).symm ▸ hl) ha h2)
    · rw [debugReadCs_ready hr hI, hp]
      exact congrArg Host.Outcome.next (readCsDo_ring0 ((hat _).symm ▸ hl) ha h0)
    · rw [debugWriteCs_ready hr hI, hp]
      exact congrArg Host.Outcome.next (writeCsDo_low ((hwith _ _).symm ▸ hl))
    · rw [debugWriteCs_ready hr hI, hp]
      exact congrArg Host.Outcome.next (writeCsDo_syllable ((hwith _ _).symm ▸ hl) hw h0)
    · rw [dbgHalt_ready hr, hp, haltDo_low hl]
    · rw [dbgResume_ready hr, hp, resumeDo_low hl]
    · rw [dbgStep_ready hr, hp, stepDo_low hl]
    · rw [dbgHalt_ready hr, hp, haltDo_asks hl]
    · rw [dbgResume_ready hr, hp, resumeDo_resumes hl hh]
    · rw [dbgStep_ready hr, hp, stepDo_steps hl hh]
    · rw [dbgStep_ready hr, hp, stepDo_refused hl hh]
    · rw [dbgSetBreakpoint_ready hr hI, hp]
      exact congrArg Host.Outcome.next (setBrkDo_denied ((hwith _ _).symm ▸ hl) hd)
    · rw [dbgSetBreakpoint_ready hr hI, hp]
      exact congrArg Host.Outcome.next (setBrkDo_sets ((hwith _ _).symm ▸ hl) ha h0)
    · rw [dbgReadRegister_ready hr hI, hp]
      exact congrArg Host.Outcome.next (readRegDo_word rfl ((hat _).symm ▸ hl) hh h53 hx)
  · refine ⟨fun k => dbgRespond_tap resp, debugVerifyDone_ends, debugVerifyDone_none, challengeExpiry_verifying,
      fun k => challengeExpiry_denies, ⟨fun hh hr => ?_, fun hr => ?_, fun hh h20 h21 hm => ?_, fun hn => ?_⟩,
      ⟨exec_tapBypass s, exec_tapIdcode s, fun h3 => ⟨?_, ?_⟩, fun h3 => ⟨?_, ?_⟩, ?_, fun ha ho => ?_, fun ha ho => ?_⟩⟩
    · rw [exec_debugHaltReached, hr, hh]
      rfl
    · rw [exec_debugHaltReached, hr, Bool.false_and, if_neg Bool.false_ne_true]
    · have hb : bits (pay (ioGet s (priv c.val (oDBGBRK n.val)))) 0 20 = (coreOf s c.val).mpc.toNat := by rwa [bits_zero]
      rw [exec_breakpointHalt, h20, h21, hh, hb, BEq.rfl]
      rfl
    · rw [exec_breakpointHalt, if_neg (by rcases hn with hn | hn <;> simp [hn])]
    · rw [exec_tapSamplePreload, tapScan_open h3]
      rfl
    · rw [exec_tapExtest, tapScan_open h3]
      rfl
    · rw [exec_tapSamplePreload, tapScan_bypass h3]
      rfl
    · rw [exec_tapExtest, tapScan_bypass h3]
      rfl
    · rw [exec_tapDbgacc, if_neg Bool.false_ne_true]
      rfl
    · subst ho
      rw [tapDbgacc_write ha]
      rfl
    · subst ho
      rw [tapDbgacc_write ha]
      rfl

end Sys2Proof.Machine
end

section
/-! Power, lockstep, resets, kerfs and splices (O50). -/

namespace Sys2Proof.Machine

/-! ## Clusters (R473) -/

theorem exec_clusterPowerDown (n : Fin 8) (s : State) : exec (.clusterPowerDown n) s =
    .next (if clusterDue s n.val && clusterIdle s n.val then clusterDown s n.val else s) := (rfl)
theorem exec_thriftPowerDownTimeout (n : Fin 8) (s : State) : exec (.thriftPowerDownTimeout n) s =
    .next (if clusterDue s n.val && !clusterIdle s n.val then ioSetB s aMODESTAT (1 + n.val) true else s) := (rfl)

section
variable {s : State} {n : Fin 8}

theorem clusterDue_of_unkept {n : Nat} (ho : clusterOnNow s n = true) (hk : clusterKept s n = false)
    (hi : n ∉ s.islReset) : clusterDue s n = true := by
  rw [clusterDue, ho, hk, List.contains_eq_mem, decide_eq_false hi]
  rfl

section
variable (hd : clusterDue s n.val = true)
include hd

theorem clusterPowerDown_idle (hi : clusterIdle s n.val = true) :
    exec (.clusterPowerDown n) s = .next (clusterDown s n.val) := by
  rw [exec_clusterPowerDown, if_pos (by rw [hd, hi]; rfl)]
theorem clusterPowerDown_busy (hi : clusterIdle s n.val = false) : exec (.clusterPowerDown n) s = .next s := by
  rw [exec_clusterPowerDown, if_neg (by rw [hd, hi]; decide)]
theorem thriftPowerDownTimeout_idle (hi : clusterIdle s n.val = true) :
    exec (.thriftPowerDownTimeout n) s = .next s := by
  rw [exec_thriftPowerDownTimeout, if_neg (by rw [hd, hi]; decide)]
theorem thriftPowerDownTimeout_busy (hi : clusterIdle s n.val = false) :
    exec (.thriftPowerDownTimeout n) s = .next (ioSetB s aMODESTAT (1 + n.val) true) := by
  rw [exec_thriftPowerDownTimeout, if_pos (by rw [hd, hi]; rfl)]

end
end

/-! ## Lockstep (R472) -/

theorem exec_lockstepEntry (p : Fin 2) (s : State) : exec (.lockstepEntry p) s =
    .next (if modeBit s 2 && coreState s (4 * p.val) == 0 && ioF s (priv (4 * p.val + 1) oCORESTAT) 0 3 == 5 &&
      clusterOnNow s p.val then lockSet s p.val true else s) := (rfl)
theorem exec_lockstepFailure (p : Fin 2) (s : State) : exec (.lockstepFailure p) s =
    .next (if ioB s aMODESTAT (9 + p.val) then kerf (kerf (lockSet
      (elWrite s 0x0A p.val (4 * p.val) 0 (coreOf s (4 * p.val)).mpc.toNat 0) p.val false) (4 * p.val) 3)
      (4 * p.val + 1) 3 else s) := (rfl)

section
variable {s : State} {p : Fin 2}

theorem lockstepEntry_locks (hm : modeBit s 2 = true) (hc : coreState s (4 * p.val) = 0)
    (hf : ioF s (priv (4 * p.val + 1) oCORESTAT) 0 3 = 5) (ho : clusterOnNow s p.val = true) :
    exec (.lockstepEntry p) s = .next (lockSet s p.val true) := by
  rw [exec_lockstepEntry, if_pos (by rw [hm, hc, hf, ho]; rfl)]
theorem lockstepEntry_off (hm : modeBit s 2 = false) : exec (.lockstepEntry p) s = .next s := by
  rw [exec_lockstepEntry, if_neg (by simp [hm])]

end

/-! ## Resets (R484, R491, R492) -/

theorem exec_coldReset (straps : BitVec 2) (failed : BitVec 32) (s : State) :
    exec (.coldReset straps failed) s = .next (coldReset s straps.toNat failed.toNat) := (rfl)
theorem exec_deadmanWarning (s : State) : exec .deadmanWarning s = .next (if s.alive then
    elWrite (modCore s s.carrier fun k => { k with pend := k.pend ++ [.nmi 3] }) 0x0F 0 s.carrier 0 0 0 else s) := (rfl)
theorem exec_deadmanRestart (s : State) :
    exec .deadmanRestart s = .next (if s.alive then deadmanDo s else s) := (rfl)

section
variable {s : State}

/-- R560: TM40-H comes up when none of the islands that the cold reset waits for is in reset. -/
theorem supplied_iff : supplied s = true ↔ ∀ i ∈ [0, 8, 9, 12, 13], i ∉ s.islReset := by
  simp [supplied]

theorem coldReset_supplied (h : supplied s = true) (straps failed : Nat) : coldReset s straps failed =
    bringUp (bootOff { hostReset s with straps := if straps = 3 then 0 else straps }) failed :=
  if_neg (by rw [h]; decide)
theorem coldReset_unsupplied (h : supplied s = false) (straps failed : Nat) : coldReset s straps failed = s :=
  if_pos (by rw [h]; rfl)

theorem straps_eq_three {straps : BitVec 2} : straps = 3 ↔ straps.toNat = 3 := BitVec.toNat_inj.symm

end

/-! ## Kerfs and self-tests (R484, R496, R498) -/

theorem exec_kerfctlKerf (c k : CoreId) (s : State) :
    exec (.kerfctlKerf c k) s = .next (busWrite s c.val 0x24 (natW (k.val + 32))) := (rfl)
theorem exec_kerfctlRelease (c k : CoreId) (s : State) :
    exec (.kerfctlRelease c k) s = .next (busWrite s c.val 0x24 (natW (k.val + 64))) := (rfl)
theorem exec_kerfReset (k : CoreId) (s : State) : exec (.kerfReset k) s =
    .next (if coreState s k.val = 2 ∧ (coreOf s k.val).test = 0 ∧ !thirdKerf s k.val then
      modCore (coreReset s k.val) k.val fun co => { co with test := 2 } else s) := (rfl)
theorem exec_selfTestDone (k : CoreId) (pass : Bool) (s : State) :
    exec (.selfTestDone k pass) s = .next (selfTestEnd s k.val pass) := (rfl)

theorem sysWrite_kerfctl (s : State) (c ring : Nat) (i : RegInfo) (w : Word) :
    sysWrite s c ring i 0x24 w = kerfctlDo s (pay w) := by
  have hm : ¬(0x24 = aCMASK ∨ 0x24 = aQMASK ∨ 0x24 = aMODECFG) := by decide
  simp only [sysWrite, if_neg hm, if_true]
theorem busWrite_kerfctl {s : State} {c : CoreId} {w : Word} (h : WriteTaken s c 0x24 w) :
    busWrite s c.val 0x24 w = kerfctlDo s (pay w) :=
  busWrite_sys_of_taken h (by decide) fun i => sysWrite_kerfctl s _ _ i w

section
variable {s : State} {w k : Nat}

theorem kerfctlDo_kerf (hk : bits w 0 5 = k) (h5 : bitAt w 5 = true) (h6 : bitAt w 6 = false) :
    kerfctlDo s w = kerf s k 5 := by
  simp only [kerfctlDo, hk, h5, h6, Bool.false_eq_true, if_true, if_false]
theorem kerfctlDo_release (hk : bits w 0 5 = k) (h5 : bitAt w 5 = false) (h6 : bitAt w 6 = true) :
    kerfctlDo s w = releaseDo s k := by
  simp only [kerfctlDo, hk, h5, h6, Bool.false_eq_true, if_true, if_false]

end

section
variable {s : State} {c k : CoreId}

theorem kerfctlKerf_taken (h : WriteTaken s c 0x24 (natW (k.val + 32))) :
    exec (.kerfctlKerf c k) s = .next (kerf s k.val 5) := by
  have hp : pay (natW (k.val + 32)) = k.val + 32 := by
    rw [natW, pay_mkW]
    omega
  have hk : bits (k.val + 32) 0 5 = k.val := by
    unfold bits
    omega
  have h5 : bitAt (k.val + 32) 5 = true := by
    rw [bitAt, beq_iff_eq]
    omega
  have h6 : bitAt (k.val + 32) 6 = false := by
    rw [bitAt, beq_eq_false_iff_ne]
    omega
  rw [exec_kerfctlKerf, busWrite_kerfctl h, hp, kerfctlDo_kerf hk h5 h6]
theorem kerfctlRelease_taken (h : WriteTaken s c 0x24 (natW (k.val + 64))) :
    exec (.kerfctlRelease c k) s = .next (releaseDo s k.val) := by
  have hp : pay (natW (k.val + 64)) = k.val + 64 := by
    rw [natW, pay_mkW]
    omega
  have hk : bits (k.val + 64) 0 5 = k.val := by
    unfold bits
    omega
  have h5 : bitAt (k.val + 64) 5 = false := by
    rw [bitAt, beq_eq_false_iff_ne]
    omega
  have h6 : bitAt (k.val + 64) 6 = true := by
    rw [bitAt, beq_iff_eq]
    omega
  rw [exec_kerfctlRelease, busWrite_kerfctl h, hp, kerfctlDo_release hk h5 h6]

theorem kerfReset_tests (hc : coreState s k.val = 2) (ht : (coreOf s k.val).test = 0) (h3 : thirdKerf s k.val = false) :
    exec (.kerfReset k) s = .next (modCore (coreReset s k.val) k.val fun co => { co with test := 2 }) := by
  rw [exec_kerfReset, if_pos ⟨hc, ht, by rw [h3]; rfl⟩]
theorem kerfReset_third (h3 : thirdKerf s k.val = true) : exec (.kerfReset k) s = .next s := by
  rw [exec_kerfReset, if_neg fun h => absurd h.2.2 (by rw [h3]; decide)]

theorem selfTestEnd_none {k : Nat} (h : testOf s k = 0) (pass : Bool) : selfTestEnd s k pass = s := if_pos h
theorem selfTestEnd_ends {k : Nat} (h : testOf s k ≠ 0) (pass : Bool) : selfTestEnd s k pass =
    let t := if pass then testPass s k (testOf s k) else testFail s k
    hubEval (standbyFollow (skerfFollow (clusterReport
      (if testOf s k = 1 then t else elWrite t 0x03 0 k 0 (if pass then 0 else 1) 0) (k / 4)))) := by
  rw [selfTestEnd, if_neg h]
  cases pass <;> rfl

end

/-! ## Splices (R504, R505, R507) -/

theorem exec_spliceStop (s : State) : exec .spliceStop s = .next (match s.splice with
    | some (a, b, 0, r) => if stopPoint s a then { storeDrainAll s a with splice := some (a, b, 1, r) } else s
    | _ => s) := (rfl)
theorem exec_spliceComplete (ns : BitVec 16) (s : State) : exec (.spliceComplete ns) s = .next (match s.splice with
    | some (a, b, 1, r) =>
      if ioF s (priv b oCORESTAT) 0 3 = 5 ∧ coreState s a = 0 then spliceEnd (spliceMove s a b) a b r 1 0 ns.toNat else s
    | _ => s) := (rfl)
theorem exec_spliceAbandon (why : BitVec 3) (s : State) : exec (.spliceAbandon why) s = .next (match s.splice with
    | some (a, b, st, r) =>
      if (why = 1 ∧ st = 0) ∨ ((why = 2 ∨ why = 3) ∧ st = 1) then
        let s := spliceEnd s a b r 2 why.toNat 0
        if coreState s a = 0 then spliceptTake s a b else s
      else s
    | none => match spliceptPend s with
      | some (a, b) => spliceptTake s a b
      | none => s) := (rfl)

section
variable {s : State} {a b st : Nat} {r : Option Nat}

theorem spliceStop_running (h : s.splice = some (a, b, 0, r)) : exec .spliceStop s =
    .next (if stopPoint s a then { storeDrainAll s a with splice := some (a, b, 1, r) } else s) := by
  rw [exec_spliceStop, h] <;> rfl
theorem spliceComplete_moves {ns : BitVec 16} (h : s.splice = some (a, b, 1, r))
    (hf : ioF s (priv b oCORESTAT) 0 3 = 5) (hc : coreState s a = 0) :
    exec (.spliceComplete ns) s = .next (spliceEnd (spliceMove s a b) a b r 1 0 ns.toNat) := by
  rw [exec_spliceComplete, h]
  exact congrArg Host.Outcome.next (if_pos ⟨hf, hc⟩)

section
variable {why : BitVec 3} (h : s.splice = some (a, b, st, r))
include h

theorem spliceAbandon_ends (hw : why = 1 ∧ st = 0 ∨ (why = 2 ∨ why = 3) ∧ st = 1) : exec (.spliceAbandon why) s = .next (
    let t := spliceEnd s a b r 2 why.toNat 0
    if coreState t a = 0 then spliceptTake t a b else t) := by
  rw [exec_spliceAbandon, h]
  exact congrArg Host.Outcome.next (if_pos hw)
theorem spliceAbandon_other (hw : ¬(why = 1 ∧ st = 0 ∨ (why = 2 ∨ why = 3) ∧ st = 1)) :
    exec (.spliceAbandon why) s = .next s := by
  rw [exec_spliceAbandon, h]
  exact congrArg Host.Outcome.next (if_neg hw)

end
end

/-- Settles O50: each event by the condition under which it happens. -/
theorem modeEvents : Obligations.ModeEvents := by
  unfold Obligations.ModeEvents
  intro s c k n p straps failed pass ns why
  refine ⟨fun ho hk hi => ?_, lockstepEntry_locks, lockstepEntry_off, fun hl => ?_, fun hl => ?_, fun h => ?_,
    fun h => ?_, fun ha => ?_, fun ha => ?_, fun ha => ⟨?_, ?_⟩, kerfctlKerf_taken, kerfctlRelease_taken, kerfReset_tests,
    fun _ => kerfReset_third, fun ht => ?_, fun ht => ?_, fun a b r h => ⟨fun hp => ?_, fun hp => ?_⟩,
    fun a b r => spliceComplete_moves, fun a b st r h => ⟨spliceAbandon_ends h, spliceAbandon_other h⟩⟩
  · have hd := clusterDue_of_unkept ho hk hi
    exact ⟨fun hi => ⟨clusterPowerDown_idle hd hi, thriftPowerDownTimeout_idle hd hi⟩,
      fun hi => ⟨clusterPowerDown_busy hd hi, thriftPowerDownTimeout_busy hd hi⟩⟩
  · rw [exec_lockstepFailure, if_pos hl]
  · rw [exec_lockstepFailure, if_neg (Bool.eq_false_iff.mp hl)]
  · rw [exec_coldReset, coldReset_supplied (supplied_iff.mpr h)]
    simp only [straps_eq_three]
  · rw [exec_coldReset, coldReset_unsupplied (Bool.eq_false_iff.mpr fun hs => ?_)]
    obtain ⟨i, hi, hr⟩ := h
    exact supplied_iff.mp hs i hi hr
  · rw [exec_deadmanWarning, if_pos ha]
  · rw [exec_deadmanRestart, if_pos ha]
  · rw [exec_deadmanWarning, if_neg (Bool.eq_false_iff.mp ha)]
  · rw [exec_deadmanRestart, if_neg (Bool.eq_false_iff.mp ha)]
  · rw [exec_selfTestDone, selfTestEnd_none ht]
  · rw [exec_selfTestDone, selfTestEnd_ends ht]
  · rw [spliceStop_running h, if_pos hp]
  · rw [spliceStop_running h, if_neg (Bool.eq_false_iff.mp hp)]

end Sys2Proof.Machine
end

section
/-! Lanes, clock, power-good, regulators, sensors and veneer (O51). -/

namespace Sys2Proof.Machine

/-! ## Lanes and reference clock (R493, R510, R562) -/

theorem exec_ucieLaneFailure (lane : BitVec 8) (spare : Bool) (s : State) : exec (.ucieLaneFailure lane spare) s =
    .next (if !hlUp s then s
      else if spare then elWrite (ioInc s aHWSTAT 2 8) 0x0E lane.toNat 0 0 0 0
      else linkDown (elWrite s 0x0E lane.toNat 0 0 1 0)) := (rfl)
theorem exec_ucieLaneRepairTimeout (s : State) :
    exec .ucieLaneRepairTimeout s = .next (if hlUp s then linkDown (emit s .retrain) else s) := (rfl)
theorem exec_refclkLoss (s : State) : exec .refclkLoss s =
    .next (if s.alive && !s.refLost then raise (linkDown { s with refLost := true }) 604 else s) := (rfl)
theorem exec_refclkReturn (s : State) : exec .refclkReturn s = .next { s with refLost := false } := (rfl)

section
variable {s : State} {lane : BitVec 8}

theorem ucieLaneFailure_up (h : hlUp s = true) (spare : Bool) : exec (.ucieLaneFailure lane spare) s =
    .next (if spare then elWrite (ioInc s aHWSTAT 2 8) 0x0E lane.toNat 0 0 0 0
      else linkDown (elWrite s 0x0E lane.toNat 0 0 1 0)) := by
  rw [exec_ucieLaneFailure, if_neg (by rw [h]; decide)]
theorem ucieLaneFailure_down (h : hlUp s = false) (spare : Bool) : exec (.ucieLaneFailure lane spare) s = .next s := by
  rw [exec_ucieLaneFailure, if_pos (by rw [h]; rfl)]

theorem refclkLoss_drops (ha : s.alive = true) (hr : s.refLost = false) :
    exec .refclkLoss s = .next (raise (linkDown { s with refLost := true }) 604) := by
  rw [exec_refclkLoss, if_pos (by rw [ha, hr]; rfl)]
theorem refclkLoss_again (hr : s.refLost = true) : exec .refclkLoss s = .next s := by
  rw [exec_refclkLoss, if_neg (by simp [hr])]

end

/-! ## Power-good (R560, R561) -/

/-- Island `i` joins the islands that PG_N holds in reset. -/
def pgDown (s : State) (i : Nat) : State := { s with islReset := i :: s.islReset }
/-- Island `i` leaves them. -/
def pgUp (s : State) (i : Nat) : State := { s with islReset := s.islReset.filter (· ≠ i) }

theorem exec_pgNFall (i : Fin 14) (s : State) : exec (.pgNFall i) s = .next (if s.islReset.contains i.val then s
    else if !s.alive then pgDown s i.val
    else if coldIsland i.val then { hostReset (pgDown s i.val) with alive := false }
    else hubEval (if i.val < 8 then clusterLose (pgDown s i.val) i.val
      else if i.val = 11 then hlLose (pgDown s i.val)
      else (islandBanks i.val).foldl bankLose (pgDown s i.val))) := (rfl)
theorem exec_pgNRise (i : Fin 14) (s : State) : exec (.pgNRise i) s = .next (if !s.islReset.contains i.val then s
    else if s.alive && (i.val == 9 || i.val == 10) then
      (islandBanks i.val).foldl (fun s n => if n < 4 || ioB s aBANKPWR n then bankStatePut s n 2 else s) (pgUp s i.val)
    else pgUp s i.val) := (rfl)

section
variable {s : State} {i : Fin 14}

theorem islReset_contains (h : i.val ∈ s.islReset) : s.islReset.contains i.val = true :=
  List.contains_iff_mem.mpr h
theorem islReset_not_contains (h : i.val ∉ s.islReset) : s.islReset.contains i.val = false := by
  rw [List.contains_eq_mem, decide_eq_false h]

theorem coldIsland_iff {i : Nat} : coldIsland i = true ↔ i = 8 ∨ i = 12 ∨ i = 13 := by
  simp [coldIsland, or_assoc]

theorem pgNFall_held (h : i.val ∈ s.islReset) : exec (.pgNFall i) s = .next s := by
  rw [exec_pgNFall, if_pos (islReset_contains h)]

section
variable (h : i.val ∉ s.islReset) (ha : s.alive = true)
include h ha

theorem pgNFall_falls : exec (.pgNFall i) s = .next (
    if coldIsland i.val then { hostReset (pgDown s i.val) with alive := false }
    else hubEval (if i.val < 8 then clusterLose (pgDown s i.val) i.val
      else if i.val = 11 then hlLose (pgDown s i.val)
      else (islandBanks i.val).foldl bankLose (pgDown s i.val))) := by
  rw [exec_pgNFall, if_neg (by rw [islReset_not_contains h]; decide), if_neg (by rw [ha]; decide)]

theorem pgNFall_cold (hi : i.val = 8 ∨ i.val = 12 ∨ i.val = 13) :
    exec (.pgNFall i) s = .next { hostReset (pgDown s i.val) with alive := false } := by
  rw [pgNFall_falls h ha, if_pos (coldIsland_iff.mpr hi)]
theorem pgNFall_cluster (hi : i.val < 8) :
    exec (.pgNFall i) s = .next (hubEval (clusterLose (pgDown s i.val) i.val)) := by
  rw [pgNFall_falls h ha, if_neg (by rw [coldIsland_iff]; omega), if_pos hi]
theorem pgNFall_hostLink (hi : i.val = 11) : exec (.pgNFall i) s = .next (hubEval (hlLose (pgDown s i.val))) := by
  rw [pgNFall_falls h ha, if_neg (by rw [coldIsland_iff]; omega), if_neg (by omega), if_pos hi]
theorem pgNFall_banks (hi : i.val = 9 ∨ i.val = 10) :
    exec (.pgNFall i) s = .next (hubEval ((islandBanks i.val).foldl bankLose (pgDown s i.val))) := by
  rw [pgNFall_falls h ha, if_neg (by rw [coldIsland_iff]; omega), if_neg (by omega), if_neg (by omega)]

end

theorem pgNRise_supplied (h : i.val ∉ s.islReset) : exec (.pgNRise i) s = .next s := by
  rw [exec_pgNRise, if_pos (by rw [islReset_not_contains h]; rfl)]
theorem pgNRise_other (h : i.val ∈ s.islReset) (hi : i.val < 9 ∨ 10 < i.val) :
    exec (.pgNRise i) s = .next (pgUp s i.val) := by
  have hb : ¬(i.val = 9 ∨ i.val = 10) := by omega
  rw [exec_pgNRise, if_neg (by rw [islReset_contains h]; decide), if_neg (by simp [hb])]
theorem pgNRise_banks (h : i.val ∈ s.islReset) (ha : s.alive = true) (hi : i.val = 9 ∨ i.val = 10) :
    exec (.pgNRise i) s = .next ((islandBanks i.val).foldl
      (fun s n => if n < 4 || ioB s aBANKPWR n then bankStatePut s n 2 else s) (pgUp s i.val)) := by
  rw [exec_pgNRise, if_neg (by rw [islReset_contains h]; decide), if_pos (by simp [ha, hi])]

end

/-! ## Regulators and the adaptive loop (R535, R536, R556 to R558) -/

theorem exec_vidalert (i : Fin 14) (code : BitVec 8) (s : State) : exec (.vidalert i code) s = .next (if s.alive then
    ioSetB (elWrite (raise { s with vidLow := true } 604) 0x11 i.val 0 0 code.toNat 0) (aISLSTAT i.val) 20 true
  else s) := (rfl)
theorem exec_vidalertRelease (s : State) : exec .vidalertRelease s = .next { s with vidLow := false } := (rfl)
theorem exec_regulatorAck (i : Fin 14) (code : BitVec 8) (s : State) : exec (.regulatorAck i code) s =
    .next (if ioF s (aISLENV i.val) 16 8 ≤ code.toNat ∧ code.toNat ≤ vmaxOf s i.val ∧ s.alive then
      ioSetF s (aISLSTAT i.val) 8 8 code.toNat else s) := (rfl)

/-- ISLSTAT of cluster `i` tells whether the cluster holds a QUIET core. -/
def quietTold (s : State) (i : Nat) : State := ioSetB s (aISLSTAT i) 18 (clusterQuiet s i)

theorem exec_adaptiveStep (n : Fin 8) (v : Option (BitVec 8)) (spare : Bool) (s : State) :
    exec (.adaptiveStep n v spare) s =
      .next (if !s.alive || s.clOff.contains n.val || s.islReset.contains n.val then s
        else match v with
          | none => clockLower (quietTold s n.val) n.val
          | some v => if vmaxOf (quietTold s n.val) n.val < v.toNat then clockLower (quietTold s n.val) n.val
            else clockMove (quietTold s n.val) n.val v.toNat spare) := (rfl)

section
variable {s : State} {n : Fin 8} (ha : s.alive = true) (hc : n.val ∉ s.clOff) (hi : n.val ∉ s.islReset)
include ha hc hi

/-- A cluster with power whose supply stands takes a step of its loop. -/
theorem adaptiveStep_powered :
    ¬((!s.alive || s.clOff.contains n.val || s.islReset.contains n.val) = true) := by
  rw [ha, List.contains_eq_mem, List.contains_eq_mem, decide_eq_false hc, decide_eq_false hi]
  decide

theorem adaptiveStep_fails (spare : Bool) :
    exec (.adaptiveStep n none spare) s = .next (clockLower (quietTold s n.val) n.val) := by
  rw [exec_adaptiveStep, if_neg (adaptiveStep_powered ha hc hi)]
theorem adaptiveStep_passes {code : BitVec 8} (hv : code.toNat ≤ vmaxOf (quietTold s n.val) n.val) (spare : Bool) :
    exec (.adaptiveStep n (some code) spare) s = .next (clockMove (quietTold s n.val) n.val code.toNat spare) := by
  rw [exec_adaptiveStep, if_neg (adaptiveStep_powered ha hc hi)]
  exact congrArg Host.Outcome.next (if_neg (Nat.not_lt.mpr hv))

end

/-! ## Sensors and veneer (R515 to R520) -/

/-- Does the last sample of island `i` satisfy `p`? Before the first sample none does. -/
def sampledBefore (s : State) (i lo : Nat) (p : State → Nat → Nat → Bool) : Bool :=
  !(ioF s (aSENSSTAT i) 0 16 == 0) && p s i (ioF s (aSENSSTAT i) lo 8)
/-- SENSSTAT of island `i` holds the new sample. -/
def sampled (s : State) (i volt temp : Nat) : State := ioSetF s (aSENSSTAT i) 0 16 (volt + 256 * temp)
/-- The software limits of a sample: SENSSTAT bits 16 and 17 where a limit is crossed. -/
def softLimits (s t : State) (i volt temp : Nat) : State :=
  let t := if voltSoft t i volt && !sampledBefore s i 0 voltSoft then sensCross t i 16 else t
  if tempSoft t i temp && !sampledBefore s i 8 tempSoft then sensCross t i 17 else t
/-- The hardware limits of a sample. -/
def hardLimits (t : State) (i volt temp : Nat) : State :=
  let t := if voltHard t i volt then tamper t 4 (some i) else t
  if tempHard temp then tamper t 5 (some i) else t

theorem exec_sensorSample (i : Fin 14) (volt temp : BitVec 8) (s : State) : exec (.sensorSample i volt temp) s =
    .next (if !s.alive || s.islReset.contains i.val then s
      else hardLimits (softLimits s (sampled s i.val volt.toNat temp.toNat) i.val volt.toNat temp.toNat)
        i.val volt.toNat temp.toNat) := (rfl)
theorem exec_sensorHardLimit (i : Fin 14) (h : HardCause) (s : State) : exec (.sensorHardLimit i h) s =
    .next (if !s.alive || (s.islReset.contains i.val && (h == .volt || h == .clock)) then s
      else tamper s (hardBit h) (some i.val)) := (rfl)
theorem exec_veneerMismatch (s : State) :
    exec .veneerMismatch s = .next (if s.alive then tamper (assertLevel s 603) 0 none else s) := (rfl)
theorem exec_dualRailDisagree (s : State) :
    exec .dualRailDisagree s = .next (if s.alive then tamper s 6 none else s) := (rfl)

section
variable {s t : State} {i volt temp : Nat}

theorem softLimits_within (hv : voltSoft t i volt = false) (ht : tempSoft t i temp = false) :
    softLimits s t i volt temp = t := by
  simp only [softLimits, hv, ht, Bool.false_and, Bool.false_eq_true, if_false]
/-- R517: before the first sample no limit was crossed, so a voltage outside its limit crosses it. -/
theorem softLimits_voltage (hf : ioF s (aSENSSTAT i) 0 16 = 0) (hv : voltSoft t i volt = true)
    (ht : tempSoft (sensCross t i 16) i temp = false) : softLimits s t i volt temp = sensCross t i 16 := by
  simp only [softLimits, sampledBefore, hf, hv, ht, BEq.rfl, Bool.not_true, Bool.not_false, Bool.false_and, Bool.and_self,
    Bool.false_eq_true, if_true, if_false]

theorem tempHard_within (hl : 9 ≤ temp) (hh : temp ≤ 204) : tempHard temp = false := by
  rw [tempHard, decide_eq_false (Nat.not_lt.mpr hh), decide_eq_false (Nat.not_lt.mpr hl), Bool.or_self]
theorem hardLimits_within (hv : voltHard t i volt = false) (hl : 9 ≤ temp) (hh : temp ≤ 204) :
    hardLimits t i volt temp = t := by
  simp only [hardLimits, hv, tempHard_within hl hh, Bool.false_eq_true, if_false]

end

section
variable {s : State} {i : Fin 14} (ha : s.alive = true)
include ha

theorem sensorSample_taken (hi : i.val ∉ s.islReset) (volt temp : BitVec 8) : exec (.sensorSample i volt temp) s =
    .next (hardLimits (softLimits s (sampled s i.val volt.toNat temp.toNat) i.val volt.toNat temp.toNat)
      i.val volt.toNat temp.toNat) := by
  rw [exec_sensorSample, if_neg (by rw [ha, islReset_not_contains hi]; decide)]

theorem sensorHardLimit_reports (hi : i.val ∉ s.islReset) (h : HardCause) :
    exec (.sensorHardLimit i h) s = .next (tamper s (hardBit h) (some i.val)) := by
  rw [exec_sensorHardLimit, if_neg (by rw [ha, islReset_not_contains hi, Bool.false_and]; decide)]

end

/-- R561: an island in reset reports no deviation of its supply or clock. -/
theorem sensorHardLimit_held {s : State} {i : Fin 14} (hi : i.val ∈ s.islReset) {h : HardCause}
    (hh : h = .volt ∨ h = .clock) :
    exec (.sensorHardLimit i h) s = .next s := by
  rw [exec_sensorHardLimit, if_pos (by rw [islReset_contains hi]; rcases hh with rfl | rfl <;> simp)]

/-- Settles O51: each event by the state of the die, the island or the register that it names. -/
theorem surroundingEvents : Obligations.SurroundingEvents := by
  unfold Obligations.SurroundingEvents
  intro s i n lane code volt temp spare h
  refine ⟨fun hu => ⟨?_, ?_, ?_⟩, fun hu => ⟨ucieLaneFailure_down hu spare, ?_⟩, refclkLoss_drops, refclkLoss_again,
    exec_refclkReturn s,
    ⟨pgNFall_held, fun hi ha => ⟨pgNFall_cold hi ha, pgNFall_cluster hi ha, pgNFall_hostLink hi ha, pgNFall_banks hi ha⟩⟩,
    ⟨pgNRise_supplied, pgNRise_other, pgNRise_banks⟩, fun ha => ?_, exec_vidalertRelease s, fun ha hl hv => ?_,
    fun hv => ?_, fun ha hc hi => ⟨adaptiveStep_fails ha hc hi spare, fun hv => adaptiveStep_passes ha hc hi hv spare⟩,
    fun ha hi => ⟨fun hv ht hh h9 h204 => ?_, fun hf hv h9 h204 hh ht => ?_⟩,
    fun ha hi => sensorHardLimit_reports ha hi h, fun _ hi => sensorHardLimit_held hi, fun ha => ⟨?_, ?_⟩⟩
  · rw [ucieLaneFailure_up hu, if_pos rfl]
  · rw [ucieLaneFailure_up hu, if_neg Bool.false_ne_true]
  · rw [exec_ucieLaneRepairTimeout, if_pos hu]
  · rw [exec_ucieLaneRepairTimeout, if_neg (Bool.eq_false_iff.mp hu)]
  · rw [exec_vidalert, if_pos ha]
  · rw [exec_regulatorAck, if_pos ⟨hl, hv, ha⟩]
  · rw [exec_regulatorAck, if_neg fun h => absurd h.2.1 (Nat.not_le.mpr hv)]
  · rw [sensorSample_taken ha hi, sampled, softLimits_within hv ht, hardLimits_within hh h9 h204]
  · rw [sensorSample_taken ha hi, sampled, softLimits_voltage hf hv ht, hardLimits_within hh h9 h204]
  · rw [exec_veneerMismatch, if_pos ha]
  · rw [exec_dualRailDisagree, if_pos ha]

end Sys2Proof.Machine
end
